-- ==== Sys2Proof/Word.lean ====
section
/-!
DEFINITION. The word types of the SNF-740 and the sparse array the state is made of.
Register contents, lines, descriptors and encodings are bit vectors (R4, R31); counts, addresses used as keys,
cycle numbers and indexes are natural numbers.
-/
namespace Sys2Proof

/-- One byte. -/
abbrev Byte := BitVec 8
/-- A control register, a special register, a slot word. -/
abbrev Word := BitVec 64
/-- One of the 32 lanes of a line (R31). -/
abbrev Lane := BitVec 32
/-- A 128-byte line: lane i at bits [32i+31:32i], bytes 4i to 4i+3 (R31). -/
abbrev Line := BitVec 1024
/-- A descriptor (Table 3.6). -/
abbrev Descr := BitVec 512
/-- A scale register: 32 E8M0 bytes. -/
abbrev Scales := BitVec 256

/-- A sparse array: index and value, in rising order of index when built by `FMap.set`.
An index that is not listed holds the default its reader names. -/
abbrev FMap (α : Type) := List (Nat × α)

/-- The value at index `i`, `d` where none is listed. -/
def FMap.get {α : Type} (d : α) : FMap α → Nat → α
  | [], _ => d
  | (k, v) :: m, i => if i = k then v else FMap.get d m i

/-- The array with `v` at index `i`. -/
def FMap.set {α : Type} : FMap α → Nat → α → FMap α
  | [], i, v => [(i, v)]
  | (k, w) :: m, i, v =>
    if i = k then (i, v) :: m
    else if i < k then (i, v) :: (k, w) :: m
    else (k, w) :: FMap.set m i v

/-- The array without an entry at index `i`. -/
def FMap.erase {α : Type} (m : FMap α) (i : Nat) : FMap α := m.filter (fun e => e.1 != i)

/-- The listed value at index `i`, if there is one. -/
def FMap.at? {α : Type} : FMap α → Nat → Option α
  | [], _ => none
  | (k, v) :: m, i => if i = k then some v else FMap.at? m i

end Sys2Proof
end

