-- ==== Sys2Proof/Config.lean ====
section
/-!
DEFINITION. What is fixed for the part (counts, sizes, the places where the model's one memory keeps each store) and
the values the spec leaves open: opaque functions without a body, applied to a counter that State holds or to the
data they depend on.
-/
namespace Sys2Proof.Config

/-- Cores of the device (R1). -/
def cores : Nat := 192
/-- Cores of a cluster (R1). -/
def coresPerCluster : Nat := 4
/-- Clusters of the device (R1). -/
def clusters : Nat := 48
/-- Scratchpad banks of a core (R47). -/
def banks : Nat := 384
/-- Lines of a bank (R47). -/
def bankLines : Nat := 8192
/-- Lines of a core's scratchpad; a flat address is below it (R47). -/
def flatLines : Nat := 0x300000
/-- Bundles of instruction memory (R70). -/
def bundles : Nat := 8192
/-- Bundles of the supervisor store (R247). -/
def supBundles : Nat := 1024
/-- Cycles of the watchdog of R29. -/
def watchdog : Nat := 1048576
/-- Bytes of HBM (R288, Table 19.7): 512 GiB. -/
def hbmBytes : Nat := 2 ^ 39

/-- Where the model's one memory keeps host memory (log entry 6). -/
def hostBase : Nat := 2 ^ 52
/-- Bytes of host memory that an address of the model reaches (log entry 6). -/
def hostBytes : Nat := 2 ^ 52
/-- Where the model's one memory keeps the scratchpads (log entry 6). -/
def spBase : Nat := 2 ^ 54
/-- Where the model's one memory keeps instruction memory (log entry 6). -/
def imBase : Nat := 2 ^ 55
/-- Where the model's one memory keeps the supervisor stores (log entry 6). -/
def supBase : Nat := 2 ^ 56
/-- Where the model's one memory keeps what lies behind peer windows (log entry 6). -/
def peerBase : Nat := 2 ^ 57

/-- Cycles a global access, a walk or another transfer takes, of which the spec gives no number (R139, R231):
the n-th such delay is this value of n (log entry 5). -/
opaque freeDelay : Nat → Nat
/-- A 64-bit value the spec leaves open, one for each draw (log entry 5). -/
opaque freeWord : Nat → BitVec 64
/-- SHA-384 (R302), which the spec names and does not define (log entry 8). -/
opaque sha384 : List Byte → BitVec 384
/-- Whether an ECDSA P-384 signature verifies: key, digest, signature (R302, R292; log entry 8). -/
opaque ecdsaVerifies : BitVec 768 → BitVec 384 → BitVec 768 → Bool
/-- Whether an LMS signature verifies: public key, message, signature (R302; log entry 8). -/
opaque lmsVerifies : List Byte → List Byte → List Byte → Bool
/-- The key hashes held in the boot ROM (R302; log entry 8). -/
opaque romEcdsaHash : BitVec 384
opaque romLmsHash : BitVec 384
/-- The identity public key derived from the base-die PUF (R303; log entry 8). -/
opaque identityKey : BitVec 768
/-- A signature under the identity key (R303; log entry 8). -/
opaque identitySign : List Byte → BitVec 768
/-- The nonce of the n-th election (R292; log entry 8). -/
opaque nonce : Nat → BitVec 384
/-- The unwrapped link key of a wrapped one (R311; log entry 8). -/
opaque unwrapKey : BitVec 512 → BitVec 256
/-- The bytes and the tag of a flit sealed under a key: key, IV, header, payload (R311; log entry 8). -/
opaque gcmSeal : BitVec 256 → BitVec 96 → List Byte → List Byte → List Byte × BitVec 128
/-- This device's id in flits (R311), of which the spec gives no value (log entry 53). -/
opaque deviceId : BitVec 16
/-- TYPE and payload of the n-th request sent to a peer, of which the spec gives no format (Table 19.8; log entry 53). -/
opaque requestType : Nat → BitVec 8
opaque requestBytes : Nat → List Byte
/-- TYPE and payload of the n-th answer sent to a peer (Table 19.8; log entry 53). -/
opaque answerType : Nat → BitVec 8
opaque answerBytes : Nat → List Byte
/-- The payload of a flit whose GCM tag is right under a key: key, IV, header, bytes, tag (R311; log entry 8). -/
opaque gcmOpen : BitVec 256 → BitVec 96 → List Byte → List Byte → BitVec 128 → Option (List Byte)

end Sys2Proof.Config
end

