-- ==== Sys2Proof/Machine/Bits.lean ====
section
/-!
DEFINITION. Bit fields, lanes and byte order: the one place where a value is cut into fields or put together.
-/
namespace Sys2Proof.Machine

/-- Bits [lo+len-1 : lo] of a value, as a number. -/
def fieldOf {n : Nat} (v : BitVec n) (lo len : Nat) : Nat := v.toNat / 2 ^ lo % 2 ^ len

/-- Bit `i` of a value. -/
def bitOf {n : Nat} (v : BitVec n) (i : Nat) : Bool := v.toNat.testBit i

/-- Bit `i` of a number. -/
def natBit (v i : Nat) : Bool := v.testBit i

/-- Field of a number. -/
def natField (v lo len : Nat) : Nat := v / 2 ^ lo % 2 ^ len

/-- A number read as a two's complement value of `w` bits. -/
def signedOf (w v : Nat) : Int := if 2 * (v % 2 ^ w) < 2 ^ w then (v % 2 ^ w : Nat) else (v % 2 ^ w : Nat) - (2 ^ w : Nat)

/-- An integer wrapped to `w` bits. -/
def wrapOf (w : Nat) (x : Int) : Nat := (x % ((2 ^ w : Nat) : Int)).toNat

/-- The value with bits [lo+len-1 : lo] replaced by `x`. -/
def putField {n : Nat} (v : BitVec n) (lo len x : Nat) : BitVec n :=
  BitVec.ofNat n (v.toNat - fieldOf v lo len * 2 ^ lo + (x % 2 ^ len) * 2 ^ lo)

/-- Lane `i` of a line (R31). -/
def laneOf (v : Line) (i : Nat) : Lane := v.extractLsb' (32 * i) 32

/-- The number whose base-2^w digits are `f 0`, `f 1`, … , `f (n-1)`. -/
def packNat (w : Nat) : Nat → (Nat → Nat) → Nat
  | 0, _ => 0
  | n + 1, f => f 0 % 2 ^ w + 2 ^ w * packNat w n (fun i => f (i + 1))

/-- The line whose lane `i` is `f i`. -/
def lineOf (f : Nat → Lane) : Line := BitVec.ofNat 1024 (packNat 32 32 (fun i => (f i).toNat))

/-- The 1024-bit value packed from `n` elements of `w` bits. -/
def packLine (w n : Nat) (f : Nat → Nat) : Line := BitVec.ofNat 1024 (packNat w n f)

/-- The number whose base-2^w digits are a list's elements, the first lowest. -/
def packList (w : Nat) : List Nat → Nat
  | [] => 0
  | x :: xs => x % 2 ^ w + 2 ^ w * packList w xs

/-- Element `i` of width `w` of a line. -/
def elemOf (w : Nat) (v : Line) (i : Nat) : Nat := v.toNat / 2 ^ (w * i) % 2 ^ w

/-- Lanes of `new` where the mask has a 1, of `old` elsewhere (R119). -/
def mergeLanes (mask : BitVec 32) (old new : Line) : Line :=
  lineOf (fun i => if bitOf mask i then laneOf new i else laneOf old i)

/-- Every lane. -/
def allLanes : BitVec 32 := BitVec.allOnes 32

/-- The mask of lanes lo to lo+n-1. -/
def laneRange (lo n : Nat) : BitVec 32 := BitVec.ofNat 32 ((2 ^ n - 1) * 2 ^ lo)

/-- The number of 1 bits among the lowest `n` bits. -/
def popCount : Nat → Nat → Nat
  | 0, _ => 0
  | n + 1, v => v % 2 + popCount n (v / 2)

/-- The number of leading zeros in `n` bits. -/
def leadingZeros : Nat → Nat → Nat
  | 0, _ => 0
  | n + 1, v => if v.testBit n then 0 else 1 + leadingZeros n v

/-- The least `i` from `lo` on, among `n` candidates, that satisfies `p`. -/
def findFrom (p : Nat → Bool) : Nat → Nat → Option Nat
  | 0, _ => none
  | n + 1, lo => if p lo then some lo else findFrom p n (lo + 1)

/-- The number of bits of `v`: 0 for 0, floor(log2 v) + 1 otherwise. -/
def bitLen (v : Nat) : Nat := if v = 0 then 0 else Nat.log2 v + 1

/-- The little-endian bytes of a number. -/
def bytesOf : Nat → Nat → List Byte
  | 0, _ => []
  | n + 1, v => BitVec.ofNat 8 v :: bytesOf n (v / 256)

/-- The number whose little-endian bytes are given. -/
def natOfBytes : List Byte → Nat
  | [] => 0
  | b :: bs => b.toNat + 256 * natOfBytes bs

/-- A number in the range of both bounds. -/
def clampInt (lo hi x : Int) : Int := if x < lo then lo else if hi < x then hi else x

/-- The element of a list at an index, or a default. -/
def nthD {α : Type} (d : α) : List α → Nat → α
  | [], _ => d
  | x :: _, 0 => x
  | _ :: xs, n + 1 => nthD d xs n

/-- The list with the element at an index replaced. -/
def setNth {α : Type} : List α → Nat → α → List α
  | [], _, _ => []
  | _ :: xs, 0, v => v :: xs
  | x :: xs, n + 1, v => x :: setNth xs n v

/-- The numbers lo, lo+1, … , n of them. -/
def upTo : Nat → Nat → List Nat
  | 0, _ => []
  | n + 1, lo => lo :: upTo n (lo + 1)

/-- A list of `n` equal elements. -/
def repeatN {α : Type} (v : α) : Nat → List α
  | 0 => []
  | n + 1 => v :: repeatN v n

end Sys2Proof.Machine
end

