-- ==== Sys2Proof/Syntax.lean ====
section
/-!
DEFINITION. The instructions and steps of the SNF-740: one constructor for every row of spec/opcode_table.json.
An instruction of a bundle carries the fields of its slot format (Tables 4.2, 4.4, 4.7, 4.9, 4.10), the guard
among them. A step of the part that no slot encodes (an engine step, a firmware action, an access by a host or a
peer) carries what names it: the core, the context, the unit, and the data that come from outside.
-/
namespace Sys2Proof

/-- Table 4.2: an S slot without its opcode. -/
structure SSlot where
  g : BitVec 4
  d : BitVec 6
  a : BitVec 6
  b : BitVec 6
  imm : BitVec 34
  deriving DecidableEq, Repr

/-- Table 4.4: a V slot without its opcode. -/
structure VSlot where
  g : BitVec 4
  fmt : BitVec 3
  d : BitVec 14
  a : BitVec 14
  b : BitVec 14
  m : BitVec 3
  rnd : BitVec 2
  sat : BitVec 1
  deriving DecidableEq, Repr

/-- Table 4.7: an L slot without its opcode. The global forms read flags, bank and line as the offset OFF (R77). -/
structure LSlot where
  g : BitVec 4
  opnd : BitVec 14
  c : BitVec 6
  oc : BitVec 4
  flags : BitVec 6
  bank : BitVec 9
  line : BitVec 13
  deriving DecidableEq, Repr

/-- Table 4.9: an E slot without its opcode. -/
structure ESlot where
  g : BitVec 4
  ko : BitVec 5
  ka : BitVec 5
  kb : BitVec 5
  kc : BitVec 5
  da : BitVec 4
  db : BitVec 4
  t : BitVec 7
  f : BitVec 4
  oc : BitVec 4
  scope : BitVec 2
  mode : BitVec 7
  deriving DecidableEq, Repr

/-- Table 4.10: a transport move. The width W is the constructor's (00 for XMOV and XTRG, 01 for XMOVL). -/
structure Move where
  g : BitVec 4
  dst : BitVec 12
  src : BitVec 12
  deriving DecidableEq, Repr

/-- The two pipes of the matrix engine (R163). -/
inductive Pipe where
  | load
  | run
  deriving DecidableEq, Repr

/-- The points of coherence of Table 11.1, which are also the scopes of R107. -/
inductive Scope where
  | cluster
  | device
  | system
  deriving DecidableEq, Repr

/-- A unit whose wait on one line has the watchdog of R160 and R187. -/
inductive EngUnit where
  | matrixRun
  | ppeDrain
  deriving DecidableEq, Repr

/-- An entry of the repair map (R267). -/
inductive RepairEntry where
  /-- A weak row of a bank of a core, replaced by a spare. -/
  | row (core bank row spare : Nat)
  /-- A weak lane of a vertical channel of a core, replaced by a spare. -/
  | lane (core channel lane spare : Nat)
  deriving DecidableEq, Repr

/-- A change of the partition table (R293). -/
inductive PartChange where
  /-- Move a physical cluster to a partition. -/
  | cluster (cluster part : Nat)
  /-- Assign a launch queue to a partition. -/
  | queue (queue part : Nat)
  /-- Set a partition's owner tag (Table 17.9). -/
  | otag (part : Nat) (tag : BitVec 8)
  deriving DecidableEq, Repr

/-- A request that a peer sends through an inbound window (R295). -/
inductive InboundOp where
  | read (len : Nat)
  | write (data : List Byte)
  | atomicAdd (v : Word)
  deriving DecidableEq, Repr

/-- What a host does to HBM over CXL.mem (R309), or a write of its own memory. -/
inductive HostOp where
  | read (len : Nat)
  | write (data : List Byte)
  | own (data : List Byte)
  deriving DecidableEq, Repr

/-- A link that training brings up: the device at its far end, and the devices that the routing tables reach over it
(Table 19.9, R313). -/
structure LinkUp where
  link : Nat
  peer : Nat
  reach : List Nat
  deriving DecidableEq, Repr

/-- A read of `len` bytes at `offset` of the device's register region (Table 19.1). -/
structure RegionRead where
  offset : Nat
  len : Nat
  deriving DecidableEq, Repr

/-- A flit (Table 19.8): its header, its encrypted payload and its tag. -/
structure Flit where
  otag : BitVec 8
  key : BitVec 8
  seq : BitVec 48
  typ : BitVec 8
  dst : BitVec 16
  src : BitVec 16
  payload : List Byte
  tag : BitVec 128
  deriving DecidableEq, Repr

/-- One constructor for every row of spec/opcode_table.json, in the table's order but for the steps that
the outside world alone brings about, which stand last. -/
inductive Instr where
  | issueCycle (core : Nat)
  | srqEntryEnqueue (core ctx : Nat)
  | rewindResume (core ctx : Nat)
  | watchdogExpiry (core ctx : Nat)
  | engineWatchdogExpiry (core : Nat) (unit : EngUnit)
  | claimAnswer (core ctx : Nat)
  | nop
  | add (f : SSlot)
  | addi (f : SSlot)
  | sub (f : SSlot)
  | mul (f : SSlot)
  | muli (f : SSlot)
  | mulh (f : SSlot)
  | mulhn (f : SSlot)
  | and (f : SSlot)
  | andi (f : SSlot)
  | or (f : SSlot)
  | ori (f : SSlot)
  | xor (f : SSlot)
  | xori (f : SSlot)
  | shl (f : SSlot)
  | shli (f : SSlot)
  | shr (f : SSlot)
  | shri (f : SSlot)
  | sar (f : SSlot)
  | sari (f : SSlot)
  | min (f : SSlot)
  | max (f : SSlot)
  | minn (f : SSlot)
  | maxn (f : SSlot)
  | sel (f : SSlot)
  | movi (f : SSlot)
  | movhi (f : SSlot)
  | clz (f : SSlot)
  | popc (f : SSlot)
  | add32 (f : SSlot)
  | addp (f : SSlot)
  | mulw (f : SSlot)
  | cmpEq (f : SSlot)
  | cmpNe (f : SSlot)
  | cmpLt (f : SSlot)
  | cmpLe (f : SSlot)
  | cmpLtn (f : SSlot)
  | cmpLen (f : SSlot)
  | cmpiEq (f : SSlot)
  | cmpiNe (f : SSlot)
  | cmpiLt (f : SSlot)
  | cmpiLe (f : SSlot)
  | cmpiLtn (f : SSlot)
  | cmpiLen (f : SSlot)
  | pand (f : SSlot)
  | por (f : SSlot)
  | pxor (f : SSlot)
  | pset (f : SSlot)
  | br (f : SSlot)
  | brx (f : SSlot)
  | call (f : SSlot)
  | ret (f : SSlot)
  | loop (f : SSlot)
  | loopi (f : SSlot)
  | lexit (f : SSlot)
  | stage (f : SSlot)
  | kwait (f : SSlot)
  | swait (f : SSlot)
  | swaitany (f : SSlot)
  | yset (f : SSlot)
  | spost (f : SSlot)
  | syncPostPerform (core ctx acc : Nat)
  | fence (f : SSlot)
  | rel (f : SSlot)
  | acq (f : SSlot)
  | claim (f : SSlot)
  | grow (f : SSlot)
  | seg (f : SSlot)
  | rdv (f : SSlot)
  | mark (f : SSlot)
  | chk (f : SSlot)
  | chkp (f : SSlot)
  | yield (f : SSlot)
  | trap (f : SSlot)
  | sys (f : SSlot)
  | end_ (f : SSlot)
  | mfs (f : SSlot)
  | mts (f : SSlot)
  | pwinWrite (f : SSlot)
  | trapinfoDismiss (f : SSlot)
  | snapWrite (f : SSlot)
  | injWrite (f : SSlot)
  | trootWrite (f : SSlot)
  | tret (f : SSlot)
  | contextRestoreDone (core ctx : Nat)
  | csave (f : SSlot)
  | csaveComplete (core : Nat)
  | cload (f : SSlot)
  | cloadComplete (core : Nat)
  | tlbi (f : SSlot)
  | waiti (f : SSlot)
  | vadd (f : VSlot)
  | vsub (f : VSlot)
  | vmul (f : VSlot)
  | vfma (f : VSlot)
  | vfms (f : VSlot)
  | vmin (f : VSlot)
  | vmax (f : VSlot)
  | vminn (f : VSlot)
  | vmaxn (f : VSlot)
  | vabs (f : VSlot)
  | vneg (f : VSlot)
  | vmov (f : VSlot)
  | vsel (f : VSlot)
  | vdif (f : VSlot)
  | vand (f : VSlot)
  | vor (f : VSlot)
  | vxor (f : VSlot)
  | vnot (f : VSlot)
  | vshl (f : VSlot)
  | vshr (f : VSlot)
  | vsar (f : VSlot)
  | vmulh (f : VSlot)
  | vmulhn (f : VSlot)
  | vclz (f : VSlot)
  | vpopc (f : VSlot)
  | vcmpEq (f : VSlot)
  | vcmpNe (f : VSlot)
  | vcmpLt (f : VSlot)
  | vcmpLe (f : VSlot)
  | vcmpLtn (f : VSlot)
  | vcmpLen (f : VSlot)
  | vqand (f : VSlot)
  | vqor (f : VSlot)
  | vqxor (f : VSlot)
  | vqcnt (f : VSlot)
  | vqfirst (f : VSlot)
  | vcvt (f : VSlot)
  | vqpack (f : VSlot)
  | vqunpk (f : VSlot)
  | vscl (f : VSlot)
  | vbscl (f : VSlot)
  | vrnd (f : VSlot)
  | vsrnd (f : VSlot)
  | vrsum (f : VSlot)
  | vrmax (f : VSlot)
  | vrmin (f : VSlot)
  | vrot (f : VSlot)
  | vperm (f : VSlot)
  | vbcast (f : VSlot)
  | vins (f : VSlot)
  | vext (f : VSlot)
  | vidx (f : VSlot)
  | vexp2 (f : VSlot)
  | vlog2 (f : VSlot)
  | vrcp (f : VSlot)
  | vrsq (f : VSlot)
  | vchk (f : VSlot)
  | ld (f : LSlot)
  | ldx (f : LSlot)
  | st (f : LSlot)
  | stx (f : LSlot)
  | lds (f : LSlot)
  | sts (f : LSlot)
  | eld (f : LSlot)
  | prom (f : LSlot)
  | demo (f : LSlot)
  | tlk (f : LSlot)
  | tpin (f : LSlot)
  | gld (f : LSlot)
  | gst (f : LSlot)
  | glds (f : LSlot)
  | gsts (f : LSlot)
  | globalLoadReturn (core ctx acc : Nat)
  | writePerformed (core ctx acc : Nat) (pt : Scope)
  | translationWalkDone (cluster walk : Nat)
  | dset (f : LSlot)
  | dsetf (f : LSlot)
  | dget (f : LSlot)
  | pcfg (f : LSlot)
  | pstop (f : LSlot)
  | pstat (f : LSlot)
  | readPortFetch (core port : Nat)
  | writePortWrite (core port : Nat)
  | bown (f : LSlot)
  | bqry (f : LSlot)
  | xmov (f : Move)
  | xmovl (f : Move)
  | xtrg (f : Move)
  | tanKset (f : Move)
  | tanFit (f : Move)
  | tanEval (f : Move)
  | tanSlope (f : Move)
  | rngSeed (f : Move)
  | rngNext (f : Move)
  | crcInit (f : Move)
  | crcLine (f : Move)
  | mxWld (f : ESlot)
  | mxWldg (f : ESlot)
  | mxWfold (f : ESlot)
  | mxRun (f : ESlot)
  | mxRung (f : ESlot)
  | mxAccz (f : ESlot)
  | mxAccb (f : ESlot)
  | matrixCommandStart (core : Nat) (pipe : Pipe)
  | streamReaderLine (core : Nat) (pipe : Pipe)
  | matrixRunStep (core : Nat)
  | matrixCommandComplete (core : Nat) (pipe : Pipe)
  | ppeCfg (f : ESlot)
  | ppeDrain (f : ESlot)
  | ppeTld (f : ESlot)
  | ppeTst (f : ESlot)
  | ppeEcnt (f : ESlot)
  | ppeCommandStart (core : Nat)
  | ppeLineWrite (core : Nat)
  | ppeCommandComplete (core : Nat)
  | cpyGs (f : ESlot)
  | cpySg (f : ESlot)
  | cpySs (f : ESlot)
  | cpyGg (f : ESlot)
  | cpyXgrf (f : ESlot)
  | cpyXdn (f : ESlot)
  | cpyFpr (f : ESlot)
  | cpyCmp (f : ESlot)
  | cpyFill (f : ESlot)
  | cpyCrc (f : ESlot)
  | copyCommandStart (core : Nat)
  | copyUnitRead (core chan : Nat)
  | copyUnitWritePerformed (core chan unit : Nat)
  | copyCommandComplete (core chan : Nat)
  | scaUpd (f : ESlot)
  | scaFupd (f : ESlot)
  | scaCommandStart (core : Nat)
  | scaWindowApply (core : Nat)
  | scaCommandComplete (core : Nat)
  | cfCfg (f : ESlot)
  | cfRst (f : ESlot)
  | kjoin (f : ESlot)
  | ksig (f : ESlot)
  | rfshChange (core : Nat)
  | snapshotRecordWrite (core ctx : Nat)
  | supervisorFault (core : Nat)
  | launchPlacement
  | launchCompletion (lidx : Nat)
  | layerPowerOn (core layer : Nat)
  | linkRetrain (link : Nat)
  | bankMigration (core bank phys : Nat)
  | repairEntrySwitch (e : RepairEntry)
  | dbgControlWrite (f : SSlot)
  | dbgBreakpointWrite (f : SSlot)
  | dbgWatchWrite (f : SSlot)
  | refreshWindow (core bank : Nat)
  | launchSlotWrite (host queue offset : Nat) (data : List Byte)
  | launchCommit (host queue : Nat) (data : List Byte)
  /-- A host's read of bytes of the device's register region (Table 19.1), the queue status among them. -/
  | queueStatusRead (host : Nat) (read : RegionRead)
  | eventSet (host part : Nat) (bits : BitVec 4096)
  | eventClear (host part : Nat) (bits : BitVec 4096)
  | onaetClaim (host : Nat) (key : BitVec 768) (sig : BitVec 768)
  | handover (host : Nat) (hash : BitVec 384)
  | cancel (host : Nat)
  | supmsg (host core : Nat) (value : Word)
  | attestationRequest (host : Nat) (nonce : BitVec 384)
  | keyInstall (host link : Nat) (otag key : BitVec 8) (wrapped : BitVec 512)
  | partitionConfig (host : Nat) (change : PartChange)
  | cthrWrite (host cluster : Nat) (v : BitVec 8)
  | powerCapWrite (host watts : Nat)
  | windowOpen (host window : Nat) (word0 base size : Word)
  | windowRevoke (host window : Nat)
  | windowFree (host window : Nat)
  /-- A request of the device `src` that a link brings. -/
  | inboundRequest (otag key : BitVec 8) (addr : Nat) (op : InboundOp) (src : Nat)
  | flitReceive (link : Nat) (flit : Flit)
  | linkLaneLoss (link : Nat)
  /-- A core's six sensors in thousandths of a degree, with the module's power in watts and the level the firmware
  applies when that exceeds the cap (R308). -/
  | sensorSample (core : Nat) (milli : List Int) (watts level : Nat)
  | powerUp
  | coreSleep (core : Nat)
  | coreWake (core : Nat)
  /-- A host's write of an 8-byte boot register at an offset (Table 19.2), GO among them. -/
  | bootGo (host offset : Nat) (value : Word)
  /-- The reads of the image from host memory end; `ok` says whether CXL.io delivered them. -/
  | bootFetch (ok : Bool)
  | bootVerify
  | bootBringup
  | bootMarchTest (fatal : Bool) (entries : List RepairEntry) (fenced : List Nat)
  | bootTraining (hbmOk : Bool) (links : List LinkUp)
  | hostMemoryAccess (host addr : Nat) (op : HostOp)
  | linkTrainingComplete (link : Nat)
  | layerPowerOff (core layer : Nat)
  deriving DecidableEq, Repr

end Sys2Proof
end

