-- ==== Sys2Proof/Machine/Fields.lean ====
section
/-!
DEFINITION. What the decoder checks of one slot (R82): the use each form makes of its slot's fields (Tables 4.3, 4.8,
6.1, 8.2, 9.7, 10.4, 10.9, R199, R200, R228), and what a bundle's slots read and write.
-/
namespace Sys2Proof.Machine

/-! ## Vector operands (Tables 4.5 and 4.6) -/

/-- A vector operand's direction, tile and index, or its special code. -/
inductive Operand where
  | row (tile index : Nat)
  | col (tile index : Nat)
  | diag (tile index : Nat)
  | zero
  | bc
  | ip (n : Nat)
  | op (n : Nat)
  | bad
  deriving DecidableEq, Repr

/-- R75 and R76: the operand a 14-bit field names. -/
def operandOf (v : BitVec 14) : Operand :=
  let dir := fieldOf v 12 2
  let tile := fieldOf v 5 7
  let index := fieldOf v 0 5
  if dir = 3 then
    let code := fieldOf v 0 12
    if code = 0 then .zero
    else if code = 1 then .bc
    else if 0x10 ≤ code ∧ code ≤ 0x15 then .ip (code - 0x10)
    else if 0x20 ≤ code ∧ code ≤ 0x23 then .op (code - 0x20)
    else .bad
  else if 96 ≤ tile then .bad
  else if dir = 0 then .row tile index
  else if dir = 1 then .col tile index
  else .diag tile index

/-- A tile line: DIR 00, 01 or 10 and a tile below 96. -/
def isTileLine (v : BitVec 14) : Bool :=
  match operandOf v with
  | .row _ _ | .col _ _ | .diag _ _ => true
  | .zero | .bc | .ip _ | .op _ | .bad => false

/-- An operand that may stand as a source (R76). -/
def isSource (v : BitVec 14) : Bool :=
  match operandOf v with
  | .row _ _ | .col _ _ | .diag _ _ | .zero | .bc | .ip _ => true
  | .op _ | .bad => false

/-- An operand that may stand as a destination (R76). -/
def isDest (v : BitVec 14) : Bool :=
  match operandOf v with
  | .row _ _ | .col _ _ | .diag _ _ | .zero | .op _ => true
  | .bc | .ip _ | .bad => false

/-- An operand that may stand as a destination that is also read (R120). -/
def isReadDest (v : BitVec 14) : Bool :=
  match operandOf v with
  | .row _ _ | .col _ _ | .diag _ _ | .zero => true
  | .op _ | .bc | .ip _ | .bad => false

/-- A port code of an L slot (R143). -/
def isPort (v : BitVec 14) : Bool :=
  match operandOf v with
  | .ip _ | .op _ => true
  | .row _ _ | .col _ _ | .diag _ _ | .zero | .bc | .bad => false

/-! ## S slots (Table 4.3) -/

/-- A register that may be the base of a pair: even and at most 62. -/
def pairBase (r : BitVec 6) : Bool := !bitOf r 0

/-- cD, cA, cB. -/
def sThree (f : SSlot) : Bool := f.imm = 0
/-- cD, cA, imm. -/
def sImm (f : SSlot) : Bool := f.b = 0
/-- cD, cA, imm with a shift count 0 to 63 (R90). -/
def sShiftImm (f : SSlot) : Bool := decide (f.b = 0) && decide (f.imm.toNat < 64)
/-- cD, imm. -/
def sMovi (f : SSlot) : Bool := decide (f.a = 0) && decide (f.b = 0)
/-- cD, imm with IMM34[33:30] = 0 (R90). -/
def sMovhi (f : SSlot) : Bool := sMovi f && decide (f.imm.toNat < 2 ^ 30)
/-- cD, cA. -/
def sTwo (f : SSlot) : Bool := decide (f.b = 0) && decide (f.imm = 0)
/-- cD, cA, cB, pN. -/
def sSel (f : SSlot) : Bool := decide (fieldOf f.imm 0 30 = 0)
/-- ADDP: three pair bases. -/
def sAddp (f : SSlot) : Bool := pairBase f.d && (pairBase f.a && (pairBase f.b && decide (f.imm = 0)))
/-- MULW: a pair destination. -/
def sMulw (f : SSlot) : Bool := pairBase f.d && decide (f.imm = 0)
/-- A compare's or predicate operation's D: k = 1 to 7. -/
def predDest (d : BitVec 6) : Bool := decide (1 ≤ d.toNat ∧ d.toNat ≤ 7)
/-- p2k, cA, cB. -/
def sCmp (f : SSlot) : Bool := predDest f.d && decide (f.imm = 0)
/-- p2k, cA, imm. -/
def sCmpi (f : SSlot) : Bool := predDest f.d && decide (f.b = 0)
/-- p2k, pA, pB. -/
def sPred (f : SSlot) : Bool :=
  predDest f.d && (decide (f.a.toNat < 16) && (decide (f.b.toNat < 16) && decide (f.imm = 0)))
/-- p2k, v. -/
def sPset (f : SSlot) : Bool :=
  predDest f.d && (decide (f.a = 0) && (decide (f.b = 0) && decide (f.imm.toNat < 2)))
/-- Only the immediate, of `n` bits. -/
def sImmOnly (n : Nat) (f : SSlot) : Bool :=
  decide (f.d = 0) && (decide (f.a = 0) && (decide (f.b = 0) && decide (f.imm.toNat < 2 ^ n)))
/-- Only cA. -/
def sA (f : SSlot) : Bool := decide (f.d = 0) && (decide (f.b = 0) && decide (f.imm = 0))
/-- Only cD. -/
def sD (f : SSlot) : Bool := decide (f.a = 0) && (decide (f.b = 0) && decide (f.imm = 0))
/-- LOOP: descriptor, body and stages. -/
def sLoop (f : SSlot) : Bool :=
  decide (f.d.toNat < 16) && (decide (f.a = 0) && (decide (f.b = 0) && decide (f.imm.toNat < 2 ^ 7)))
/-- LOOPI: body, stages and a count that is not 0. -/
def sLoopi (f : SSlot) : Bool := sImmOnly 23 f && decide (fieldOf f.imm 7 16 ≠ 0)
/-- KWAIT: three tokens. -/
def sKwait (f : SSlot) : Bool :=
  decide (f.d.toNat < 32) && (decide (f.a.toNat < 32) && (decide (f.b.toNat < 32) && decide (f.imm = 0)))
/-- yN, cA. -/
def sSync (f : SSlot) : Bool := decide (f.d.toNat < 8) && (decide (f.b = 0) && decide (f.imm = 0))
/-- yN, cA, ocN. -/
def sPost (f : SSlot) : Bool := decide (f.d.toNat < 8) && (decide (f.b = 0) && decide (f.imm.toNat < 16))
/-- cD, mask; a mask of 0 is refused (R105). -/
def sWaitany (f : SSlot) : Bool :=
  decide (f.a = 0) && (decide (f.b = 0) && decide (0 < f.imm.toNat ∧ f.imm.toNat < 2 ^ 8))
/-- mask, scope; scope 3 is refused. -/
def sFence (f : SSlot) : Bool := sImmOnly 18 f && decide (fieldOf f.imm 16 2 ≠ 3)
/-- cA, cB. -/
def sChk (f : SSlot) : Bool := decide (f.d = 0) && decide (f.imm = 0)
/-- Two pair bases. -/
def sChkp (f : SSlot) : Bool :=
  decide (f.d = 0) && (pairBase f.a && (pairBase f.b && decide (f.imm = 0)))
/-- A special register number the decoder knows. -/
def specialNumber (n : Nat) : Bool := decide (n ≤ 0x10 ∨ 0x20 ≤ n ∧ n ≤ 0x29)
/-- cD, n. -/
def sMfs (f : SSlot) : Bool :=
  decide (f.a = 0) && (decide (f.b = 0) && (decide (f.imm.toNat < 2 ^ 8) && specialNumber f.imm.toNat))
/-- n, cA: the numbers a user context may not write are refused here, those of 0x20 to 0x29 depend on the context
(R116, R248). -/
def sMts (f : SSlot) : Bool :=
  decide (f.d = 0) && (decide (f.b = 0) && (decide (f.imm.toNat < 2 ^ 8) &&
    decide (f.imm.toNat = 0x07 ∨ f.imm.toNat = 0x08 ∨ f.imm.toNat = 0x0E ∨ f.imm.toNat = 0x0F ∨ f.imm.toNat = 0x10 ∨
      0x20 ≤ f.imm.toNat ∧ f.imm.toNat ≤ 0x29)))
/-- n, cA with one register number. -/
def sMtsTo (n : Nat) (f : SSlot) : Bool := decide (f.d = 0) && (decide (f.b = 0) && decide (f.imm.toNat = n))
/-- The numbers whose MTS has a row of its own in the opcode table. -/
def sMtsOther (f : SSlot) : Bool :=
  sMts f && decide (f.imm.toNat ≠ 0x10 ∧ f.imm.toNat ≠ 0x20 ∧ f.imm.toNat ≠ 0x24 ∧ f.imm.toNat ≠ 0x25 ∧ f.imm.toNat ≠ 0x26)

/-! ## V slots (Table 6.1) -/

/-- The named bits are a number below `2^n`, the rest of the field is 0. -/
def smallField (n : Nat) (v : BitVec 14) : Bool := decide (v.toNat < 2 ^ n)
/-- A lane mask as destination: not q0 (R122). -/
def qDest (v : BitVec 14) : Bool := decide (1 ≤ v.toNat ∧ v.toNat < 8)
/-- f32 bf16 s32 s16 s8. -/
def fmtArith (f : VSlot) : Bool := decide (f.fmt = 0 ∨ f.fmt = 1 ∨ 4 ≤ f.fmt.toNat ∧ f.fmt.toNat ≤ 6)
/-- s32 s16 s8. -/
def fmtInt (f : VSlot) : Bool := decide (4 ≤ f.fmt.toNat ∧ f.fmt.toNat ≤ 6)
/-- f32 s32. -/
def fmtWide (f : VSlot) : Bool := decide (f.fmt = 0 ∨ f.fmt = 4)
/-- f32 bf16. -/
def fmtFloat (f : VSlot) : Bool := decide (f.fmt = 0 ∨ f.fmt = 1)
/-- No rounding mode. -/
def noRnd (f : VSlot) : Bool := decide (f.rnd = 0)
/-- No rounding mode and no saturation: the forms with a dash in the RND/SAT column (R122). A form that shows RND takes
SAT too, without effect on a float format. -/
def plain (f : VSlot) : Bool := noRnd f && decide (f.sat = 0)
/-- d, a, b. -/
def vThree (f : VSlot) : Bool := isDest f.d && (isSource f.a && isSource f.b)
/-- d (also read), a, b. -/
def vFused (f : VSlot) : Bool := isReadDest f.d && (isSource f.a && isSource f.b)
/-- d, a. -/
def vTwo (f : VSlot) : Bool := isDest f.d && (isSource f.a && decide (f.b = 0))
/-- d, a and a number below `2^n` in B. -/
def vNum (n : Nat) (f : VSlot) : Bool := isDest f.d && (isSource f.a && smallField n f.b)
def vBit (f : VSlot) : Bool := vThree f && (decide (f.fmt = 0) && plain f)
def vCmpF (f : VSlot) : Bool := qDest f.d && (isSource f.a && (isSource f.b && (fmtWide f && plain f)))
def vCmpI (f : VSlot) : Bool := qDest f.d && (isSource f.a && (isSource f.b && (decide (f.fmt = 4) && plain f)))
def vMaskOp (f : VSlot) : Bool :=
  qDest f.d && (smallField 3 f.a && (smallField 3 f.b && (decide (f.fmt = 0) && (decide (f.m = 0) && plain f))))
def vMaskCount (f : VSlot) : Bool :=
  isDest f.d && (smallField 3 f.a && (decide (f.b = 0) && (decide (f.fmt = 4) && plain f)))
/-- The width in bits of an element of a format (Table 2.3). -/
def fmtWidth (n : Nat) : Nat :=
  if n = 0 ∨ n = 4 then 32 else if n = 1 ∨ n = 5 then 16 else if n = 7 then 4 else 8
/-- R127: the formats differ, neither is q4x, and PART is in range. -/
def vCvtOk (f : VSlot) : Bool :=
  let s := fieldOf f.b 0 3
  let part := fieldOf f.b 3 2
  let ws := fmtWidth s
  let wd := fmtWidth f.fmt.toNat
  vNum 5 f && (decide (s ≠ 7) && (decide (f.fmt.toNat ≠ 7) && (decide (s ≠ f.fmt.toNat) &&
    decide (part < (if ws = wd then 1 else if wd < ws then ws / wd else wd / ws)))))
def vSrndOk (f : VSlot) : Bool :=
  vThree f && (decide (f.fmt = 1 ∧ f.rnd.toNat < 2 ∨ f.fmt = 2 ∨ f.fmt = 3))

/-! ## L slots (Table 4.8) -/

def lZero (f : LSlot) : Bool := decide (f.oc = 0)
/-- LD and ST. -/
def lLine (f : LSlot) : Bool :=
  isTileLine f.opnd && (decide (f.c = 0) && (lZero f && decide (f.flags = 0)))
/-- LDX and STX. -/
def lLineX (f : LSlot) : Bool := isTileLine f.opnd && (lZero f && decide (f.flags = 0))
/-- LDS and STS. -/
def lWord (f : LSlot) : Bool := decide (f.opnd = 0) && (lZero f && decide (f.flags.toNat < 16))
def lEld (f : LSlot) : Bool :=
  smallField 4 f.opnd && (decide (f.c = 0) && (lZero f && decide (f.flags.toNat < 4)))
def lProm (f : LSlot) : Bool :=
  decide (f.opnd.toNat ≤ 128) && (decide (f.c = 0) && (lZero f && (decide (f.flags = 0) && decide (f.line.toNat < 1024))))
def lDemo (f : LSlot) : Bool :=
  smallField 7 f.opnd && (decide (f.c = 0) && (lZero f && (decide (f.flags = 0) && decide (f.line = 0))))
def lTlk (f : LSlot) : Bool :=
  decide (f.opnd = 0) && (lZero f && (decide (f.flags = 0) && decide (f.line.toNat < 1024)))
def lTpin (f : LSlot) : Bool :=
  smallField 7 f.opnd && (decide (f.c = 0) && (lZero f && (decide (f.flags.toNat < 2) && decide (f.line = 0))))
/-- GLD and GST. -/
def lGlobal (f : LSlot) : Bool := isTileLine f.opnd
/-- GLDS and GSTS. -/
def lGlobalS (f : LSlot) : Bool := smallField 6 f.opnd
/-- DSET: the fast segment only (R142). -/
def lDset (f : LSlot) : Bool :=
  smallField 4 f.opnd && (decide (f.c = 0) && (lZero f && (decide (f.flags.toNat < 2) && decide (f.line.toNat < 1024))))
/-- DSETF and DGET. -/
def lDword (f : LSlot) : Bool :=
  smallField 4 f.opnd && (lZero f && (decide (f.flags.toNat < 8) && (decide (f.bank = 0) && decide (f.line = 0))))
def lPcfg (f : LSlot) : Bool :=
  isPort f.opnd && (decide (f.c = 0) && (lZero f && (decide (f.flags.toNat < 16) &&
    (decide (f.bank = 0) && decide (f.line = 0)))))
def lPstat (f : LSlot) : Bool :=
  isPort f.opnd && (lZero f && (decide (f.flags = 0) && (decide (f.bank = 0) && decide (f.line = 0))))
def lPstop (f : LSlot) : Bool := lPstat f && decide (f.c = 0)
/-- BOWN and BQRY. -/
def lOwner (f : LSlot) : Bool :=
  decide (f.opnd = 0) && (lZero f && (decide (f.flags = 0) && decide (f.line = 0)))

/-! ## E slots -/

def noDa (f : ESlot) : Bool := decide (f.da = 0)
def noDb (f : ESlot) : Bool := decide (f.db = 0)
def noT (f : ESlot) : Bool := decide (f.t = 0)
def noF (f : ESlot) : Bool := decide (f.f = 0)
/-- OC and SCOPE are 0 (R153, R183). -/
def noClass (f : ESlot) : Bool := decide (f.oc = 0) && decide (f.scope = 0)
def modeField (f : ESlot) (lo len : Nat) : Nat := fieldOf f.mode lo len
def bufferOnly (f : ESlot) : Bool := decide (f.f.toNat < 2)
/-- R153: shape 11 is refused, and E5M2 weights with a shape other than FP8. -/
def shapeOk (f : ESlot) : Bool :=
  decide (modeField f 0 2 ≠ 3) && (decide (modeField f 2 1 = 0) || decide (modeField f 0 2 = 0))
def eWld (f : ESlot) : Bool :=
  noClass f && (noDb f && (noT f && (bufferOnly f && (shapeOk f && decide (modeField f 3 4 = 0)))))
def eWldg (f : ESlot) : Bool := noClass f && (noDb f && (noT f && (bufferOnly f && decide (f.mode = 0))))
def eWfold (f : ESlot) : Bool :=
  noClass f && (noT f && (bufferOnly f && (shapeOk f && decide (modeField f 5 2 = 0))))
/-- R153: SRC 11 is refused, F[3:1] is 0 with SRC 00 and below 6 with SRC 01; the group stays below tile 96. -/
def eRunWith (tiles : Nat) (f : ESlot) : Bool :=
  noClass f && (noDb f && (decide (modeField f 5 2 = 0 ∧ fieldOf f.f 1 3 = 0 ∨ modeField f 5 2 = 1 ∧ fieldOf f.f 1 3 < 6 ∨
    modeField f 5 2 = 2) && decide (f.t.toNat + tiles ≤ 96)))
def groupTiles (f : ESlot) : Nat := if modeField f 5 2 = 0 then 8 else if modeField f 5 2 = 1 then 2 else 1
def eAcc (f : ESlot) : Bool :=
  noClass f && (noDb f && (noF f && (decide (modeField f 5 2 < 2) && decide (f.t.toNat + groupTiles f ≤ 96))))
def eAccz (f : ESlot) : Bool := eAcc f && noDa f
/-- R183. -/
def ePpeCfg (f : ESlot) : Bool :=
  noClass f && (decide (modeField f 0 2 ≠ 3) && (decide (modeField f 4 2 ≠ 3) &&
    ((decide (modeField f 4 2 = 0) || decide (modeField f 2 2 = 3)) &&
    ((noT f || (bitOf f.f 1 && decide (f.t.toNat < 96))) && ((noDa f || bitOf f.f 2) && decide (f.f.toNat < 8))))))
def ePpeDrain (f : ESlot) : Bool :=
  noClass f && (noDb f && (decide (f.t.toNat < 96) && (decide (fieldOf f.f 0 2 = 0) &&
    (decide (modeField f 5 2 ≠ 3) && ((decide (fieldOf f.f 2 2 ≠ 1) || decide (f.da.toNat ≤ 3)) &&
    (decide (fieldOf f.f 2 2 ≠ 2) || decide (f.da.toNat ≤ 7)))))))
def ePpeSet (f : ESlot) : Bool :=
  noClass f && (noDa f && (noDb f && (decide (f.t.toNat < 96) && decide (f.f.toNat < 2))))
def ePpeTile (f : ESlot) : Bool := ePpeSet f && decide (f.mode = 0)
def ePpeEcnt (f : ESlot) : Bool := ePpeSet f && decide (f.mode.toNat < 2)
def scopeOk (f : ESlot) : Bool := decide (f.scope ≠ 3)
/-- R207. -/
def eCpy (f : ESlot) : Bool := noT f && (noF f && scopeOk f)
def eCpyMove (f : ESlot) : Bool := eCpy f && decide (f.mode.toNat < 4)
def eCpyXgrf (f : ESlot) : Bool := eCpy f && (decide (modeField f 0 1 = 0) && decide (modeField f 6 1 = 0))
def eCpyXdn (f : ESlot) : Bool := eCpy f && decide (modeField f 0 1 = 0)
def eCpyFpr (f : ESlot) : Bool := eCpy f && decide (f.mode.toNat = 1)
def eCpyCmp (f : ESlot) : Bool := eCpy f && decide (f.mode.toNat < 2)
def eCpyFill (f : ESlot) : Bool := noDb f && (noF f && (scopeOk f && decide (f.t.toNat < 96)))
/-- R223: OP 111, ADD.f or FLT with W64, and MODE[6] are refused. -/
def eSca (f : ESlot) : Bool :=
  noT f && (scopeOk f && (decide (modeField f 0 3 ≠ 7) && (decide (modeField f 6 1 = 0) &&
    (decide (modeField f 3 1 = 0) || (decide (modeField f 0 3 ≠ 1) && decide (modeField f 4 1 = 0))))))
def eScaUpd (f : ESlot) : Bool := eSca f && noF f
def eScaFupd (f : ESlot) : Bool := eSca f && decide (f.f.toNat < 4)
/-- R228. -/
def eCf (f : ESlot) : Bool := noDa f && (noDb f && (noT f && (noClass f && decide (f.f.toNat < 8))))
def eCfCfg (f : ESlot) : Bool := eCf f && decide (f.mode.toNat < 16)
def eCfRst (f : ESlot) : Bool := eCf f && decide (f.mode = 0)
/-- R199. -/
def eKjoin (f : ESlot) : Bool :=
  noDa f && (noDb f && (noT f && (noF f && (noClass f && decide (f.mode = 0)))))
/-- R200. -/
def eKsig (f : ESlot) : Bool :=
  decide (fieldOf f.f 0 3 = 0) && (decide (f.oc = 0) && (scopeOk f && decide (f.mode = 0)))

/-! ## Transport ports (Table 4.11) -/

/-- A port that a scalar move may write. -/
def scalarDest (p : Nat) : Bool :=
  decide (p = 0 ∨ p = 0x001 ∨ p = 0x040 ∨ p = 0x041 ∨ 0x048 ≤ p ∧ p ≤ 0x04B ∨ p = 0x060 ∨ p = 0x061 ∨ p = 0x070 ∨
    0x100 ≤ p ∧ p ≤ 0x13F)
/-- A port that a scalar move may read. -/
def scalarSrc (p : Nat) : Bool := decide (p = 0 ∨ p = 0x078 ∨ 0x100 ≤ p ∧ p ≤ 0x13F)
/-- A port that a line move may write. -/
def lineDest (p : Nat) : Bool := decide (p = 0 ∨ p = 0x001 ∨ p = 0x042 ∨ p = 0x043 ∨ p = 0x071 ∨ 0x400 ≤ p)
/-- A port that a line move may read. -/
def lineSrc (p : Nat) : Bool := decide (p = 0 ∨ 0x050 ≤ p ∧ p ≤ 0x054 ∨ p = 0x068 ∨ 0x400 ≤ p)
/-- A trigger whose source must be `null`. -/
def nullTrigger (p : Nat) : Bool := decide (0x048 ≤ p ∧ p ≤ 0x04B ∨ p = 0x061)
/-- A scalar move whose source is not `null`. -/
def xScalar (m : Move) : Bool :=
  decide (m.src ≠ 0) && (scalarDest m.dst.toNat && (scalarSrc m.src.toNat && !nullTrigger m.dst.toNat))
/-- A scalar move of `null` (XTRG, R85). -/
def xNull (m : Move) : Bool := decide (m.src = 0) && scalarDest m.dst.toNat
/-- A line move. -/
def xLine (m : Move) : Bool := lineDest m.dst.toNat && lineSrc m.src.toNat
/-- The move that fires a trigger port. -/
def xFires (p : Nat) (m : Move) : Bool := decide (m.dst.toNat = p) && (nullTrigger p → m.src = 0)

/-! ## Names of units of the device -/

def isCore (c : Nat) : Bool := decide (c < Config.cores)
def isCtx (c x : Nat) : Bool := decide (c < Config.cores ∧ x < 5)
def isBank (c b : Nat) : Bool := decide (c < Config.cores ∧ b < Config.banks)
/-- A change of the partitions names a cluster, a queue and a partition that exist. -/
def changeExists : PartChange → Bool
  | .cluster cl p => decide (cl < Config.clusters ∧ p < 8)
  | .queue q p => decide (q < 64 ∧ p < 8)
  | .otag p _ => decide (p < 8)

end Sys2Proof.Machine
end

