-- ==== Sys2Proof/Machine/Mem.lean ====
section
/-!
DEFINITION. The machine's memory: one list of cells in canonical form (addresses strictly rising, no zero byte
listed). A byte that nothing has written reads as 0 (log entry 3). Multi-byte values are little-endian (R4).
-/
namespace Sys2Proof.Machine

/-- The memory of every store of the machine (log entry 6). -/
abbrev Memory := List Host.Cell

/-- What an unlisted address reads as (log entry 3). -/
def Memory.blank : Byte := 0

/-- The byte at an address.
Log entry 3 (DESIGN CHOICE). -/
def Memory.read : Memory → Nat → Byte
  | [], _ => Memory.blank
  | (k, b) :: m, a => if a = k then b else Memory.read m a

/-- The cells of a list of bytes from an address on, without those that hold the blank value. -/
def Memory.cellsOf : Nat → List Byte → Memory
  | _, [] => []
  | a, b :: bs => if b = Memory.blank then Memory.cellsOf (a + 1) bs else (a, b) :: Memory.cellsOf (a + 1) bs

/-- The memory with bytes stored from an address on.
Log entry 3 (DESIGN CHOICE). -/
def Memory.write (m : Memory) (a : Nat) (bs : List Byte) : Memory :=
  m.filter (fun c => decide (c.1 < a)) ++ (Memory.cellsOf a bs ++ m.filter (fun c => decide (a + bs.length ≤ c.1)))

/-- The memory with `n` bytes from an address on blank. -/
def Memory.clear (m : Memory) (a n : Nat) : Memory := m.filter (fun c => !decide (a ≤ c.1 ∧ c.1 < a + n))

/-- Cells moved from one address to another. -/
def Memory.move (m : Memory) (src dst : Nat) : Memory := m.map (fun c => (c.1 - src + dst, c.2))

/-- The cells of `n` bytes from an address on. -/
def Memory.window (m : Memory) (a n : Nat) : Memory := m.filter (fun c => decide (a ≤ c.1 ∧ c.1 < a + n))

/-- The little-endian number in `n` bytes from an address on. -/
def Memory.readNat (m : Memory) : Nat → Nat → Nat
  | _, 0 => 0
  | a, n + 1 => (m.read a).toNat + 256 * Memory.readNat m (a + 1) n

/-- The number in `n` bytes, found in the window of these bytes only. -/
def Memory.load (m : Memory) (a n : Nat) : Nat := (m.window a n).readNat a n

/-- The memory with an `n`-byte number stored. -/
def Memory.store (m : Memory) (a n v : Nat) : Memory := m.write a (bytesOf n v)

/-- The bytes of `n` addresses from an address on. -/
def Memory.bytes (m : Memory) (a n : Nat) : List Byte := bytesOf n (m.load a n)

/-- The addresses are strictly rising from `lo` on and no cell holds the blank value. -/
def Memory.risingFrom : Nat → Memory → Bool
  | _, [] => true
  | lo, (k, b) :: m => decide (lo ≤ k) && (decide (b ≠ Memory.blank) && Memory.risingFrom (k + 1) m)

/-- The canonical form. -/
def Memory.wf (m : Memory) : Bool := Memory.risingFrom 0 m

end Sys2Proof.Machine
end

