-- ==== Sys2Proof/Machine/Types.lean ====
section
/-!
DEFINITION. The pieces of the machine's state: a context, its segment, the engines, the ports, a core, a cluster and
the parts of the device. Everything here is plain data. Fields that the spec does not name and the model adds say so.
-/
namespace Sys2Proof.Machine

/-! ## Causes and statuses (Tables 15.4 and 10.8) -/

/-- A trap cause. -/
inductive Cause where
  | ill | bank | bown | shad | tile | xlat | pois | serr | uncr | priv | trap | sys | dbg | pre | therm | wdog
  | brange | eng
  deriving DecidableEq, Repr

/-- Table 15.4: the code of a cause. -/
def Cause.code : Cause → BitVec 8
  | .ill => 0x01 | .bank => 0x02 | .bown => 0x03 | .shad => 0x04 | .tile => 0x05 | .xlat => 0x06 | .pois => 0x07
  | .serr => 0x08 | .uncr => 0x09 | .priv => 0x0A | .trap => 0x0B | .sys => 0x0C | .dbg => 0x0D | .pre => 0x0E
  | .therm => 0x0F | .wdog => 0x10 | .brange => 0x11 | .eng => 0x12

/-- The mark on a line or on a value read from it (R137, R157, R219). -/
inductive Mark where
  | clean
  /-- POISON (R219). -/
  | poison
  /-- Group boundary (R157). -/
  | group
  /-- An uncorrectable error in some of the line's eight 16-byte codewords (R137, R262). -/
  | uncorrectable (words : BitVec 8)
  deriving DecidableEq, Repr

/-! ## Results on their way (R14, Table 15.8) -/

/-- The destination of a pending result: the KIND and DST of Table 15.8. -/
inductive Dest where
  | creg (n : Nat)
  | pred (k : Nat)
  | qmask (n : Nat)
  | tile (operand : BitVec 14)
  | push (n : Nat)
  | ereg (n : Nat)
  | dreg (n : Nat)
  | dword (n w : Nat)
  | special (n : Nat)
  | sync (n : Nat)
  | flags
  deriving DecidableEq, Repr

/-- A PWQ entry (R14): the value, the lanes or bits it writes, the bundles remaining, the flags it carries, and the
mark of the line it was read from with that line's address (R137, R219). -/
structure Pending where
  dest : Dest
  val : Line
  mask : BitVec 32
  rem : Nat
  flg : BitVec 5
  mark : Mark
  addr : Nat
  deriving DecidableEq, Repr

/-! ## Tokens (R196) -/

/-- A token: pending or complete, its status, the address of a translation status (R101), the first
cycle in which issue sees the completion, and the number of the command that produces it (the model's own name for it). -/
structure Token where
  pend : Bool
  status : BitVec 8
  addr : Nat
  since : Nat
  cmd : Nat
  deriving DecidableEq, Repr

/-- What a command consumes: a token that has completed (its status, address and cycle), or the command it awaits. -/
inductive Input where
  | done (status : BitVec 8) (addr since : Nat)
  | await (cmd : Nat)
  deriving DecidableEq, Repr

/-! ## Engine commands -/

/-- The engine that runs a command. -/
inductive Engine where
  | load | run | ppe | copy | sca | chain | join | signal
  deriving DecidableEq, Repr

/-- An issued engine command: who issued it, what it produces and consumes, its slot's fields, and the copies it took
at issue (descriptors, the bias, scale or pattern lines, the shape its buffer has). -/
structure Cmd where
  id : Nat
  ctx : Nat
  op : Nat
  f : ESlot
  da : Descr
  db : Descr
  lines : List Line
  scales : Scales
  ins : List Input
  /-- The tiles held busy (physical tile numbers) and the ports lent (R160, R164). -/
  tiles : List Nat
  ports : List Nat
  /-- The cycle of issue or, for a held command, of release. -/
  at_ : Nat
  /-- Issued in the context's current segment and not yet completed (R22 step 2, R165). -/
  inSeg : Bool
  /-- For KSIG: the class accesses it covers (numbers of outbound accesses, and of SRQ entries) (R200). -/
  covers : List Nat
  deriving DecidableEq, Repr

/-! ## Hardware loops (R96) -/

structure Loop where
  active : Bool
  stages : Nat
  body : Nat
  first : Nat
  n0 : Nat
  lexit : Bool
  cnt : List Nat
  idx : List Nat
  deriving DecidableEq, Repr

/-- No loop. -/
def Loop.none : Loop :=
  { active := false, stages := 1, body := 1, first := 0, n0 := 0, lexit := false, cnt := [0, 0, 0, 0, 0, 0],
    idx := [0, 0, 0, 0, 0, 0] }

/-! ## Global accesses (11 R231 to R236) -/

/-- What a classed access does when it is performed. -/
inductive AccessKind where
  | loadTile (operand : BitVec 14)
  | loadReg (n : Nat)
  | storeLine (v : Line)
  | storeWord (v : Word)
  | post (word : Nat) (v : BitVec 32)
  | grow (v : Word)
  | command (cmd : Cmd)
  | fence (mask : BitVec 16) (scope : Scope)
  | rel (mask : BitVec 16) (scope : Scope)
  | acq (mask : BitVec 16)
  deriving DecidableEq, Repr

/-- A read whose value is fixed at the switch that serves it: the value, the mark it meets, and the writes it was served
from that the switch has not passed on, with which the read stays (R232, R235). -/
structure Served where
  val : Nat
  mark : Mark
  after : List Nat
  deriving DecidableEq, Repr

/-- Where an access stands: held back, on its way, or performed at a point of coherence (Table 11.1). -/
inductive Progress where
  | waiting
  | started
  /-- Every read of the access has returned (R107, ACQ). -/
  | returned
  | performedAt (p : Scope)
  | finished
  deriving DecidableEq, Repr

/-- A classed access in a context's outbound queue, numbered in order (R107, R234). -/
structure Access where
  num : Nat
  oc : Nat
  kind : AccessKind
  va : Nat
  pa : Nat
  progress : Progress
  /-- For loads: the data are to be thrown away (R140). -/
  discard : Bool
  /-- For loads: the value, once it is fixed (R231). -/
  served : Option Served
  deriving DecidableEq, Repr

/-- An entry of the segment release queue (R20, R108). -/
structure Held where
  oc : Nat
  kind : AccessKind
  va : Nat
  pa : Nat
  num : Nat
  deriving DecidableEq, Repr

/-! ## The tangent unit's and the PPE's state of a context -/

/-- A result port: the results of triggers, newest first, with the bundle number from which each is due (R80). -/
abbrev Results := List (Nat × Line)

/-- A pending `TAN.KSET` (R174). -/
structure KsetPending where
  due : Nat
  table : Nat
  group : Nat
  nk : Nat
  knots : Line
  deriving DecidableEq, Repr

/-- Operand ports, random number and CRC state (R172, R178, R179): what the checkpoint holds of the unit (R180). -/
structure TanOps where
  tb : Word
  tol : BitVec 32
  x : Line
  k : Line
  rng : Word
  crc : BitVec 32
  deriving DecidableEq, Repr

/-- The PPE state of Table 9.11. -/
structure PpeState where
  tmode : Nat
  ofmt : Nat
  e : Nat
  sat : Bool
  ts : Nat
  bias : Option (List Line)
  scale : Option Scales
  esc : Descr
  ep : Nat
  lost : Nat
  rc : Nat
  /-- The records of the escape stream's partial line, which the next drain writes again (R188; the model's own). -/
  tail : List Word
  deriving DecidableEq, Repr

/-! ## Segments (R18) -/

/-- The position of a port as the checkpoint and the record hold it. -/
structure PortPos where
  port : Nat
  pos : Nat
  moved : Nat
  done : Bool
  /-- The fault it has stopped at, and the line (R66). -/
  fault : Option (Cause × Nat)
  faultAt : Nat
  deriving DecidableEq, Repr

/-- What a segment's checkpoint holds (R18, R180). -/
structure Checkpoint where
  pc : Nat
  pwq : List Pending
  loop : Loop
  preds : BitVec 16
  redirect : Option (Nat × Nat)
  ports : List PortPos
  d : FMap Descr
  tok : FMap Token
  y : FMap Word
  sg : FMap (BitVec 16)
  yptr : Nat
  tan : TanOps
  ppe : PpeState
  escn : BitVec 32
  counts : FMap (List (BitVec 16))
  deriving DecidableEq, Repr

/-- The progress of a rewind (R22): it waits for commands and loads of the discarded run, then for the cycle of
resumption. -/
structure Rewind where
  detected : Nat
  settled : Option Nat
  fresh : Bool
  deriving DecidableEq, Repr

/-- Flags and escapes of a completed engine command, the first cycle in which a boundary takes them, and whether the
command was issued in the segment that runs (R38, R188, R192). -/
structure EngineDone where
  since : Nat
  flg : BitVec 5
  escapes : Nat
  inSeg : Bool
  deriving DecidableEq, Repr

/-- What a context waits for (R29). -/
inductive WaitOn where
  | port (code : Nat)
  | fifo (n : Nat)
  | rdv (id : Nat)
  deriving DecidableEq, Repr

/-- A boundary event that has not been taken (R250). -/
structure Events where
  residue : Bool
  /-- The buffer whose bad parity the residue mismatch came from (R167, R264). -/
  buffer : Option Nat
  uncr : Option Nat
  pois : Option Nat
  wdog : Option Word
  pre : Option Word
  therm : Option Word
  deriving DecidableEq, Repr

def Events.none : Events :=
  { residue := false, buffer := Option.none, uncr := Option.none, pois := Option.none, wdog := Option.none, pre := Option.none,
    therm := Option.none }

/-- A trap on its way to the supervisor (R251): what TRAPINFO, TPC, TSLOT and TVAL will read. -/
structure TrapRecord where
  ctx : Nat
  cause : Cause
  status : BitVec 8
  async : Bool
  more : Bool
  tpc : Nat
  faultMask : BitVec 8
  doneMask : BitVec 8
  tval : Word
  /-- The cycle of the trap, and whether its record has been written: traps enter the queue in the order of their cycles. -/
  taken : Nat
  written : Bool
  deriving DecidableEq, Repr

/-- The life of a context (R251, R255, R27). -/
inductive Status where
  | free
  | running
  /-- Trapped; the record is being written (R254). -/
  | trapped (t : TrapRecord)
  /-- The trap waits in the trap queue. -/
  | queued
  /-- The trap is loaded in TRAPINFO. -/
  | current
  | parked
  /-- `TRET` reads the record. -/
  | restoring
  /-- Stopped in the middle of `END` (R27). -/
  | retiring (aborted : Bool)
  deriving DecidableEq, Repr

/-- A `CLAIM` on its way (R25), and the bits an injection flips in its answer (R275). -/
structure ClaimWait where
  dest : Nat
  flip : Word
  deriving DecidableEq, Repr

/-- A context's rendezvous: arrived with an id and a mask, and whether it completed meanwhile (R24, R256). -/
structure Arrival where
  id : Nat
  mask : Nat
  completed : Bool
  /-- The segment boundary of the rendezvous has been taken. -/
  taken : Bool
  /-- The first cycle in which the context may issue again. -/
  since : Nat
  deriving DecidableEq, Repr

/-- What an interlock trace counts (R272). -/
structure StallRun where
  armed : Bool
  kind : Nat
  cycles : Nat
  deriving DecidableEq, Repr

/-! ## A bundle in flight (R17) -/

/-- What a slot of a bundle does when the bundle commits. A bundle's effects are gathered first and take place
together, or not at all (R17). -/
inductive Effect where
  /-- A result enters the PWQ (R14). -/
  | land (e : Pending)
  /-- The slot raises a trap, with the value TVAL takes (R249). -/
  | trap (c : Cause) (v : Word)
  /-- The slot's bundle is not ready (Table 1.3): the code of Table 16.9, and what the watchdog of R29 watches. -/
  | wait (code : Nat) (on : Option WaitOn)
  /-- Reaching the bundle makes an implicit boundary (R21), or releases the SRQ (R21, R27). -/
  | implicit
  | release
  /-- A CHK, CHKP or VCHK found a mismatch (R112, R134). -/
  | mismatch (vector : Bool)
  /-- The X slot's value for `bc` (R76). -/
  | bc (v : Line)
  /-- A V slot pops a read port, or reserves a place in a write port (R118, R119). -/
  | pop (n : Nat)
  | reserve (n : Nat)
  /-- An L-slot access to a line: it makes the bank busy and may match a watch (R48, R269). -/
  | access (flat : Nat) (write : Bool) (busy : Nat)
  /-- PROM, DEMO and DSET make a bank busy and match no watch (Table 7.1, R269). -/
  | occupy (bank busy : Nat)
  /-- A read of a line that matches no watch: an injection into it fires (R275). -/
  | fires (flat : Nat)
  /-- A read that met an uncorrectable error for which its slot traps (R255, R275). -/
  | met (flat : Nat)
  | storeLine (flat : Nat) (v : Line)
  | storeWord (flat w : Nat) (v : Word)
  | prom (bank slot srow : Nat) (nv : Option Nat)
  | promHit (bank : Nat)
  | demo (bank slot : Nat)
  | tpin (bank slot : Nat) (v : Bool)
  | owner (bank : Nat) (code : BitVec 16)
  | pcfg (port : Nat) (d : Descr)
  | pstop (port : Nat)
  /-- A push found that its line cannot be written: with the trap, the port stops there (R66). -/
  | portFault (port : Nat) (c : Cause) (flat : Int)
  /-- A global load leaves at once (R140). -/
  | load (oc : Nat) (k : AccessKind) (va pa : Nat)
  /-- The translation of an address is not in the TLB: a walk is needed, with the permissions it must find (R139). -/
  | walk (va : Nat) (read write : Bool)
  /-- An outbound effect enters the SRQ (R20). -/
  | held (oc : Nat) (k : AccessKind) (va pa : Nat)
  /-- FENCE, REL or ACQ (R107, R108). -/
  | order (k : AccessKind)
  /-- An engine command is queued (R163, R191), or a held one enters the SRQ (R204, R223). -/
  | command (e : Engine) (c : Cmd)
  | redirect (target : Nat)
  | startLoop (l : Loop)
  | lexit
  | seg (id : Nat)
  | rdv (id mask : Nat)
  /-- A CLAIM (R25), with the bits an injection flips in its answer (R275). -/
  | claim (dest : Nat) (flip : Word)
  /-- SWAITANY consumes one generation of a slot (R105). -/
  | consume (n : Nat)
  | drift (v : Word) (arm : Bool)
  | yielded
  | finish
  /-- An operand port of the tangent unit takes a value (R80). -/
  | operand (port : Nat) (v : Line)
  /-- A trigger's result, its new state, or a knot write (R173). -/
  | result (port : Nat) (v : Line) (latency : Nat)
  | rng (v : Word)
  | crc (v : BitVec 32)
  | kset (k : KsetPending)
  /-- A parity or uncorrectable error was consumed at a location; it is detected after this many bundles (R263, R137,
  Table 16.1). -/
  | damaged (latency location : Nat)
  | waiti
  | tret (ctx : Nat)
  | csave (ctx : Nat) (withBanks : Bool) (va : Nat)
  | cload (ctx : Nat) (va : Nat)
  | tlbi (v : Word)
  deriving DecidableEq, Repr

/-! ## A context -/

structure Ctx where
  status : Status
  launch : Nat
  prio : Nat
  vcore : Nat
  tileBase : Nat
  tileCount : Nat
  pc : Nat
  c : FMap Word
  p : BitVec 16
  q : FMap (BitVec 32)
  e : FMap Scales
  d : FMap Descr
  y : FMap Word
  sg : FMap (BitVec 16)
  yptr : Nat
  tok : FMap Token
  pwq : List Pending
  loop : Loop
  redirect : Option (Nat × Nat)
  /-- Bundles issued, as BCNT reads it. -/
  bcnt : Word
  /-- Bundles issued since the entry: the model's own count, against which trigger results fall due (R80). -/
  issued : Nat
  flags : BitVec 5
  escn : BitVec 32
  drift : Word
  argp : Word
  tmask : Bool
  pwin : Nat
  /-- Flags and escapes of completed engine commands that no boundary has taken (R38, R188). -/
  engDone : List EngineDone
  /-- The segment. -/
  segid : Nat
  segtry : Nat
  segStart : Nat
  segFirst : Bool
  /-- Bundles issued in the segment's current run (R273). -/
  segBundles : Nat
  /-- The chunk of the segment's release has been logged (R273, R274). -/
  chunkLogged : Bool
  /-- The number of the segment's first access, and its PPE commands (R140, R192). -/
  segAccess : Nat
  segDrains : List Nat
  ckpt : Option Checkpoint
  claims : List Word
  replay : Nat
  srq : List Held
  /-- Entries of a release on their way to a full queue (R21). -/
  releasing : List Held
  out : List Access
  nextAccess : Nat
  rewind : Option Rewind
  claimWait : Option ClaimWait
  arrival : Option Arrival
  events : Events
  waitOn : Option (WaitOn × Nat)
  /-- Destinations of global loads held busy, each with the first cycle in which issue sees it free, 0 while the
  data are awaited (R140). -/
  busyRegs : List (Nat × Nat)
  busyLines : List (BitVec 14 × Nat)
  /-- Marks of global data not yet read (R140). -/
  dirtyRegs : List (Nat × Mark × Nat)
  dirtyLines : List (BitVec 14 × Mark × Nat)
  /-- The walk the context waits for (R139). -/
  walk : Option Nat
  /-- The address whose walk ended in a fault, until the bundle that asked for it is evaluated again (R139, R290). -/
  walkFault : Option Nat
  /-- Walks that a TLBI waits for, by cluster and number (R291). -/
  tlbiWait : List (Nat × Nat)
  yielded : Option Nat
  /-- The slots that do not act in the next issue (R114, R270). -/
  skip : BitVec 8
  /-- Tokens and port positions as they were at the context's latest trap (R253, R255). -/
  trapTok : FMap Token
  trapPorts : List PortPos
  /-- Its rendezvous as it stood when the record began to be written (R253, R256). -/
  trapRdv : Option Arrival
  /-- Set by `DBG` resumption: the breakpoint at the pc is passed once (R270). -/
  dbgPass : Bool
  /-- Effects kept by a debug stop until the stopped bundle issues again (R270). -/
  kept : List (Nat × Effect)
  stall : StallRun
  lastUncr : Option (Nat × Nat)
  tan : TanOps
  tanA : Results
  tanB : Results
  tanLo : Results
  tanHi : Results
  tanY : Results
  rngOut : Results
  crcVal : Results
  ksets : List KsetPending
  /-- Damage that triggers met, with the bundle number at which it is detected (R263). -/
  damage : List (Nat × Nat)
  ppe : PpeState
  deriving DecidableEq, Repr

/-! ## Ports (R63) -/

/-- A line in a port's FIFO, with the flags its expansion raised. -/
structure PortLine where
  val : Line
  flg : BitVec 5
  deriving DecidableEq, Repr

structure Port where
  holder : Option Nat
  cfg : Descr
  running : Bool
  /-- Lines popped or pushed (POS of Table 15.6). -/
  pos : Nat
  moved : Nat
  /-- Descriptor iterations already accessed. -/
  walked : Nat
  /-- Places reserved in a write port (R119). -/
  reserved : Nat
  fifo : List PortLine
  /-- Lines a read port has accessed that have not arrived, each with the cycle in which it does (R63). -/
  coming : List (Nat × PortLine)
  /-- The scale line an expanding read port has read last (R65). -/
  scale : Option Line
  /-- The cycle in which a write port's latest write is performed. -/
  performed : Nat
  fault : Option (Cause × Nat)
  /-- The descriptor iteration at which it has stopped on the fault (R66). -/
  faultAt : Nat
  done : Bool
  lent : Option Nat
  /-- The first cycle in which issue sees a port that was lent returned (R101, R160). -/
  freeFrom : Nat
  /-- The command number of a pending KEND, and its context (R68). -/
  kend : Option (Nat × Nat)
  /-- Banks taken from the port since its PCFG and not handed to it again: an access to one stops it (R52). -/
  taken : List Nat
  deriving DecidableEq, Repr

/-- A port as at power-up. -/
def Port.idle : Port :=
  { holder := none, cfg := 0, running := false, pos := 0, moved := 0, walked := 0, reserved := 0, fifo := [], coming := [],
    scale := none, performed := 0, fault := none, faultAt := 0, done := false, lent := none, freeFrom := 0, kend := none, taken := [] }

/-! ## The matrix engine (R149) -/

inductive BufState where
  | empty
  | loading
  | valid
  | invalid
  deriving DecidableEq, Repr

inductive Shape where
  | fp8 (e5m2 : Bool)
  | bf16
  | fp32
  | grouped
  deriving DecidableEq, Repr

/-- A stationary buffer. State, shape and holder follow the latest load issued into it (R149, R151); `good`, its shape,
the lines as stored in the layout of Table 8.1 (slopes applied) and the number of values follow the latest load that has
completed, which is what a run finds (R163). -/
structure Buffer where
  state : BufState
  shape : Shape
  holder : Option Nat
  good : Bool
  goodShape : Shape
  lines : FMap Line
  nval : Nat
  reserved : Nat
  deriving DecidableEq, Repr

def Buffer.idle : Buffer :=
  { state := .empty, shape := .fp8 false, holder := none, good := false, goodShape := .fp8 false, lines := [], nval := 0, reserved := 0 }

/-- Where a command met a fault: the position in its stream, the status and the address. -/
structure Stop where
  pos : Nat
  status : BitVec 8
  addr : Nat
  deriving DecidableEq, Repr

/-- A line that the stream reader has read: its position in the stream, the cycle it arrives, and its bytes. -/
structure ReadLine where
  pos : Nat
  due : Nat
  val : Line
  deriving DecidableEq, Repr
/-- A command in a pipe of the matrix engine: the lines it has read, each with the cycle in which it arrives, the steps
it has taken, the first cycle of its next step, and the count of its watchdog when its wait for a line began. -/
structure Running where
  cmd : Cmd
  linesA : List ReadLine
  /-- Every position of the first stream below this one has been read. -/
  low : Nat
  linesB : List (Nat × Line)
  /-- The number of values of the boundary token that was read (R158). -/
  token : Option Nat
  stop : Option Stop
  steps : Nat
  nextStep : Nat
  flg : BitVec 5
  residue : Bool
  waitSince : Nat
  ending : Bool
  deriving DecidableEq, Repr

/-! ## The PPE (R181) -/

structure TanSet where
  recs : FMap (BitVec 128)
  counts : FMap (BitVec 16)
  holder : Option Nat
  reserved : Nat
  deriving DecidableEq, Repr

def TanSet.idle : TanSet := { recs := [], counts := [], holder := none, reserved := 0 }

/-- Where a line of a drain goes, or the status with which the drain ends there. -/
inductive DrainTo where
  | scratch (flat : Int)
  | port (n : Nat)
  | fifo (n : Nat)
  | tileRow (tile row : Nat)
  | fail (status : BitVec 8) (addr : Nat)
  deriving DecidableEq, Repr

/-- A line a drain has still to write, in the order of R188: its stream (0 output, 1 escapes, 2 scales), the columns
whose escapes it records, the columns whose escapes are lost with it, for an escape line the records of a partial
line, and the flags of the row that ends with it. -/
structure DrainLine where
  dest : DrainTo
  val : Line
  stream : Nat
  records : List Nat
  lost : List Nat
  tail : List Word
  flg : BitVec 5
  deriving DecidableEq, Repr

/-- The running command of the PPE: what it has still to write, where it ended, its flags, its escapes so far, and the
places with bad parity that it read. -/
structure Draining where
  cmd : Cmd
  todo : List DrainLine
  stop : Option Stop
  flg : BitVec 5
  escapes : Nat
  damaged : List Nat
  /-- The first cycle of its next line, and the count of its watchdog when its wait for a line began. -/
  nextLine : Nat
  waitSince : Nat
  ending : Bool
  deriving DecidableEq, Repr

/-! ## The copy and scatter-accumulate engines -/

/-- A read access of a copy: its number in the command's order, the cycle in which it goes on, and a global address or
none for the scratchpad of its core; once its value is fixed, the line and the status of its mark, and the writes at the
switch it was served from (R232). -/
structure Fetch where
  idx : Nat
  at_ : Nat
  pa : Option Nat
  src : Nat
  fixed : Bool
  val : Line
  status : BitVec 8
  after : List Nat
  deriving DecidableEq, Repr

/-- A line a copy has to write: its number in the destination's order, whether it carries the group-boundary mark, and
for a result word its flat line and word. -/
structure OutLine where
  idx : Nat
  val : Line
  group : Bool
  word : Option (Nat × Nat)
  deriving DecidableEq, Repr

/-- A write whose access has begun: local, performed in a cycle at a flat line, or on its way through the switch, with
the fault it met where it arrived (R52). -/
structure Writing where
  out : OutLine
  flat : Option Nat
  at_ : Nat
  bad : Option (BitVec 8 × Nat)
  deriving DecidableEq, Repr

/-- A channel of the copy engine with its command (R204 to R212). -/
structure Channel where
  cmd : Cmd
  /-- The number of its classed access. -/
  access : Nat
  started : Bool
  /-- Read accesses made, and read results taken, in order. -/
  reads : Nat
  taken : Nat
  coming : List Fetch
  /-- Lines gathered, and the running sum, checksum or first difference. -/
  data : List Line
  sum : Nat
  outq : List OutLine
  writing : List Writing
  /-- Scratchpad lines written (core and flat line), and output lines written of each unit. -/
  written : List (Nat × Nat)
  units : FMap Nat
  credited : Nat
  /-- The core and slot of its sync word, once its bank has been found to be the launch's (R206). -/
  word : Option (Nat × Nat)
  /-- The fault that ends the command, and the status it ends with once every line is written. -/
  stop : Option Stop
  final : Option Stop
  readAt : Nat
  writeAt : Nat
  ending : Bool
  deriving DecidableEq, Repr

/-- How far a window of updates has come: not begun, reading its streams, making its accesses to the targets, or waiting
for the answers of peers. -/
inductive Phase where
  | idle
  | streams
  | targets
  | answers
  deriving DecidableEq, Repr

/-- The running command of the scatter-accumulate engine: its classed access, the next window, how far that has come,
the lines still to be accessed (core and flat line), the entries read, the cycle from which it goes on and that in which
the last access has ended, the addresses of updates sent to peers, the lines of old values not yet pushed, and where it
met a fault. -/
structure Scattering where
  cmd : Cmd
  access : Nat
  window : Nat
  phase : Phase
  todo : List (Nat × Nat)
  entries : List (Nat × Nat)
  due : Nat
  last : Nat
  sent : List Nat
  outq : List Line
  stop : Option Stop
  ending : Bool
  deriving DecidableEq, Repr

/-! ## Curve tables (R169) -/

structure CurveTable where
  knots : FMap (BitVec 128)
  nk : Nat
  holder : Option Nat
  reserved : Nat
  deriving DecidableEq, Repr

def CurveTable.idle : CurveTable := { knots := [], nk := 0, holder := none, reserved := 0 }

/-! ## Banks (R50, R53) -/

structure TagEntry where
  valid : Bool
  dirty : Bool
  pin : Bool
  srow : Nat
  deriving DecidableEq, Repr

def TagEntry.blank : TagEntry := { valid := false, dirty := false, pin := false, srow := 0 }

structure Bank where
  owner : BitVec 16
  /-- The context that made the grant (R51). -/
  grantor : Option Nat
  /-- The launch to which the bank is allocated; 0 for the supervisor pool. -/
  launch : Nat
  tags : FMap TagEntry
  nv : Nat
  /-- The first cycle in which the bank is free (R48). -/
  busyUntil : Nat
  deriving DecidableEq, Repr

def Bank.pool : Bank := { owner := 0, grantor := none, launch := 0, tags := [], nv := 0, busyUntil := 0 }

/-! ## Debug (16 Table 16.4) -/

structure DebugRegs where
  control : Word
  breakpoints : FMap Word
  watches : FMap Word
  watchHigh : FMap Word
  sel : Nat
  deriving DecidableEq, Repr

/-! ## A core -/

/-- A tile held busy: by which command, by the PPE or the matrix engine, and the first cycle in which issue sees it
free, 0 while it is held. -/
structure TileHold where
  tile : Nat
  cmd : Nat
  ppe : Bool
  clear : Nat
  deriving DecidableEq, Repr

/-- A CSAVE, or a CLOAD, of a context: whether its banks go with it, and the save area's VA (R258). -/
structure SaveJob where
  load : Bool
  ctx : Nat
  banks : Bool
  va : Nat
  deriving DecidableEq, Repr

structure Core where
  ctxs : FMap Ctx
  tiles : FMap Line
  banks : FMap Bank
  bankMap : FMap Nat
  ports : FMap Port
  buffers : FMap Buffer
  loadQ : List Cmd
  runQ : List Cmd
  loadNow : Option Running
  runNow : Option Running
  ppeQ : List Cmd
  drainNow : Option Draining
  sets : FMap TanSet
  tables : FMap CurveTable
  copyQ : List Cmd
  chans : FMap Channel
  scaQ : List Cmd
  scaNow : Option Scattering
  /-- KJOIN, KSIG and chain commands whose tokens have not completed. -/
  joins : List Cmd
  /-- Commands that completed in the latest cycle with a completion, each with the cycle: issue still sees them in it
  (R101). -/
  ended : List (Cmd × Nat)
  /-- Tiles held busy (R164). -/
  tileBusy : List TileHold
  /-- The latest cycle in which the stream reader made accesses, and how many (R168). -/
  readerUse : Nat × Nat
  rr : FMap Nat
  trapQ : List TrapRecord
  msgQ : List Word
  trapinfo : Word
  tpc : Word
  tslot : Word
  tval : Word
  snap : Word
  inj : Word
  dthr : Word
  dbg : DebugRegs
  tcnt : Nat
  /-- Trace records of this cycle with their contexts, not yet written (R271). -/
  traceQ : List (Nat × Nat)
  rfsh : Nat
  rfshNext : Nat
  /-- RFSH before its latest change and the cycle of that change, and the cycle from which `rfshNext` counts (R60). -/
  rfshPrev : Nat
  rfshAt : Nat
  rfshNextAt : Nat
  /-- Generation advances of the latest cycle with one: each word's slot and the cycle (R202). -/
  advances : List (Nat × Nat)
  tallow : Nat
  /-- The latest sample of the hottest sensor, in thousandths of a degree (R306, R307). -/
  temp : Int
  layers : FMap Bool
  asleep : Bool
  /-- The first cycle in which a core may issue after a wake, and since when context 4 has waited in WAITI (R265). -/
  awakeFrom : Nat
  idleSince : Option Nat
  fenced : Bool
  image : Option (Nat × Nat)
  /-- Places with bad parity (Table 16.1), by the location numbers of Machine/Operands.lean. -/
  parity : List Nat
  /-- Corrected and uncorrectable errors counted on the core (R264). -/
  corrected : Nat
  uncorrectable : Nat
  /-- Supervisor faults recorded by firmware (R247). -/
  supFaults : List TrapRecord
  /-- The cycle in which the next sample of the core's sensors is due, 0 before the first (R306). -/
  nextSample : Nat
  /-- The CSAVE or CLOAD under way (R258). -/
  saving : Option SaveJob
  supEntry : Nat
  deriving DecidableEq, Repr

end Sys2Proof.Machine
end

