-- ==== Sys2Proof/Machine/State.lean ====
section
/-!
DEFINITION. The state of the machine, why a step can stop, and the machine as at power-up (R301). Fields that the
spec does not name and the model adds are marked as the model's own.
-/
namespace Sys2Proof.Machine

/-! ## Why a step stops -/

/-- Why the machine stops. No instruction of a bundle raises any of these: the spec gives each of them an effect. -/
inductive Fault where
  /-- A step of the part is named for a core, a context or a unit that does not exist. Raised by the steps of the
  part only, never by a fetched instruction. Safe: the hardware has no such step. -/
  | noSuchUnit
  deriving DecidableEq, Repr

/-- Why an instruction has no meaning. -/
inductive Refusal where
  /-- The instruction has not been modelled. Raised by a refused arm of exec only. Safe. -/
  | notModelled (mnemonic : String)
  deriving DecidableEq, Repr

/-! ## The bundle being issued (R17) -/

/-- The bundle being issued: whose it is, which slot is acting, the done mask under which it issues (R114, R270), and
the effects gathered so far, each with its slot. -/
structure Issue where
  core : Nat
  ctx : Nat
  pc : Nat
  slot : Nat
  skip : BitVec 8
  bc : Line
  effs : List (Nat × Effect)
  deriving DecidableEq, Repr

def Issue.none : Issue := { core := 0, ctx := 0, pc := 0, slot := 0, skip := 0, bc := 0, effs := [] }

/-! ## Clusters and the device -/

/-- A chain FIFO (R227). -/
structure Fifo where
  lines : List Line
  /-- The core and number of the drain that pushed each line (R192). -/
  pushers : List (Nat × Nat)
  /-- Producer and consumer positions, and the launch whose context configured it. -/
  cfg : Option (Nat × Nat × Nat)
  holder : Option (Nat × Nat)
  reserved : Nat
  deriving DecidableEq, Repr

def Fifo.idle : Fifo := { lines := [], pushers := [], cfg := none, holder := none, reserved := 0 }

/-- A TLB entry: partition, first address and size of the page, and the leaf as the walk read it (R290). -/
structure TlbEntry where
  part : Nat
  base : Nat
  size : Nat
  leaf : Word
  deriving DecidableEq, Repr

/-- A walk in flight (R290): the permissions it must find, the context that waits for it, and whether a TLBI came after
it began, so that its leaf is not kept (R291). -/
structure Walk where
  part : Nat
  va : Nat
  root : Nat
  read : Bool
  write : Bool
  core : Nat
  ctx : Nat
  stale : Bool
  deriving DecidableEq, Repr

structure Cluster where
  fifos : FMap Fifo
  tlb : List TlbEntry
  walks : FMap Walk
  nextWalk : Nat
  part : Nat
  cthr : BitVec 8
  throttle : Nat
  /-- The cycle of the latest change of the throttle level, and the watchdogs' count there (R308). -/
  throttleAt : Nat
  watchBase : Nat
  deriving DecidableEq, Repr

/-- A write of a classed access on its way: its bytes, and the last point that acknowledged it (R231). Until the
device point has it, only reads through its cluster's switch see it (R232). -/
structure GWrite where
  id : Nat
  core : Nat
  ctx : Nat
  acc : Nat
  unit : Nat
  pa : Nat
  bytes : List Byte
  level : Option Scope
  /-- For a line of a scratchpad: its access at the bank has begun, and ends in this cycle (R48). -/
  begun : Option Nat
  deriving DecidableEq, Repr

/-- A launch queue (R276). -/
structure Queue where
  part : Nat
  staging : Memory
  vectors : List Memory
  ovf : Bool
  norec : Bool
  deriving DecidableEq, Repr

def Queue.idle : Queue := { part := 0, staging := [], vectors := [], ovf := false, norec := false }

/-- Where a context of a launch stands. -/
inductive MemberState where
  | active
  | finished
  | aborted
  | saved
  deriving DecidableEq, Repr

/-- A context given to a launch: its virtual core, its place and its state. -/
structure Member where
  vcore : Nat
  core : Nat
  ctx : Nat
  state : MemberState
  deriving DecidableEq, Repr

/-- A placed launch (R279 to R284). -/
structure Launch where
  lidx : Nat
  part : Nat
  prio : Nat
  recva : Nat
  signal : Nat
  wcnt : Nat
  claims : Nat
  members : List Member
  recording : Bool
  replay : Bool
  logva : Nat
  logpages : Nat
  logpos : Nat
  lost : Bool
  /-- The queue it came from, and why it was rejected (Table 17.4), 0 if it was not. -/
  queue : Nat
  rcode : Nat
  deriving DecidableEq, Repr

/-- A launch that waits for the contexts it pre-empts (R281). -/
structure Preempting where
  queue : Nat
  lidx : Nat
  cores : List Nat
  deriving DecidableEq, Repr

/-- A partition (R285, R289, R293). -/
structure Part where
  otag : BitVec 8
  troot : Word
  events : BitVec 4096
  deriving DecidableEq, Repr

def Part.idle : Part := { otag := 0, troot := 0, events := 0 }

/-- A peer window (Table 17.12). -/
structure Window where
  word0 : Word
  base : Word
  size : Word
  infl : Nat
  deriving DecidableEq, Repr

def Window.free : Window := { word0 := 0, base := 0, size := 0, infl := 0 }

/-- What a flit carries, in the clear: its header but for SEQ, and its payload (Table 19.8). -/
structure Packet where
  otag : BitVec 8
  key : BitVec 8
  typ : BitVec 8
  dst : BitVec 16
  src : BitVec 16
  payload : List Byte
  deriving DecidableEq, Repr

/-- A link (R311 to R313). -/
structure Link where
  /-- What its word of the status page shows (Table 19.9). -/
  word : Word
  /-- Its send window and arbitration weight. -/
  window : Nat
  weight : Nat
  /-- The devices that the routing tables reach over it, the one at its far end among them. -/
  reach : List Nat
  /-- Its keys by OTAG and key id. -/
  keys : FMap (BitVec 256)
  /-- The next SEQ of each owner's flits in the sending direction. -/
  seqs : FMap Nat
  /-- Packets of owners whose flits have stopped, oldest first. -/
  waiting : List Packet
  /-- Flits sent, oldest first, as the far end receives them; a resend follows the flit that failed. They stay there as in
  the replay buffer (R312). -/
  sent : List Flit
  /-- Packets received for this device, oldest first. -/
  taken : List Packet
  /-- Failures of each flit that has not passed yet, by OTAG and SEQ. -/
  failures : FMap Nat
  deriving DecidableEq, Repr

def Link.down : Link :=
  { word := 0, window := 16, weight := 16, reach := [], keys := [], seqs := [], waiting := [], sent := [], taken := [], failures := [] }

/-- The boot registers (Table 19.2) and what the boot ROM holds while it boots. -/
structure Boot where
  imgpa : Word
  pages : Nat
  err : BitVec 8
  stage : Nat
  statpa : Word
  image : List Byte
  version : Word
  deriving DecidableEq, Repr

/-- The owner logic (R292): the owner's host and key hash, the pending successor, and the number of the nonce. -/
structure Owner where
  host : Option Nat
  key : BitVec 384
  successor : Option (BitVec 384)
  nonceNo : Nat
  deriving DecidableEq, Repr

/-- A reply of the owner mailbox, or what a host's read returned. -/
inductive Reply where
  | none
  | ok
  | notReady
  | notOwner
  | busy
  | refused (reason : Nat)
  | report (bytes : List Byte)
  /-- What a host read of the device's registers or memory returned. -/
  | value (v : Nat)
  deriving DecidableEq, Repr

/-- The core-held state of a context that CSAVE has written away (R253, R258): a layout that only CLOAD reads, which the
model keeps here under a number that the save area holds. `loaded` says that the context has been restored. -/
structure Saved where
  core : Nat
  ctx : Nat
  loaded : Bool
  v : Ctx
  ports : FMap Port
  buffers : FMap Buffer
  tables : FMap CurveTable
  sets : FMap TanSet
  fifos : FMap Fifo
  banks : FMap Bank
  joins : List Cmd
  /-- What the launch reserves on the core and for it in its cluster (R280): buffers, tables, sets and FIFOs. -/
  reserved : List (List Nat)
  marks : FMap Mark
  deriving DecidableEq, Repr

/-- The machine. -/
structure State where
  cyc : Nat
  /-- The next core to issue in this cycle; the cycle ends when it passes the last core (the model's own). -/
  turn : Nat
  /-- Inputs that have arrived from outside, in order (the model's own). -/
  inbox : List Instr
  /-- Steps of the part that are due, in the order of their cycles (the model's own). -/
  calendar : List (Nat × Instr)
  mem : Memory
  /-- Marks of lines, by address divided by 128 (R137, R157, R219). -/
  marks : FMap Mark
  cores : FMap Core
  clusters : FMap Cluster
  writes : List GWrite
  queues : FMap Queue
  qptr : FMap Nat
  lidx : Nat
  launches : List Launch
  /-- The device-wide sequence counter of recorded events (R273). -/
  logSeq : Nat
  preempting : List Preempting
  /-- Queues whose head waits to be placed, in the order in which they began to wait (R279). -/
  waiters : List Nat
  claimQ : List (Nat × Nat)
  claimFree : Nat
  parts : FMap Part
  owner : Owner
  windows : FMap Window
  powerCap : Nat
  links : FMap Link
  boot : Boot
  repair : List RepairEntry
  telemetry : FMap Nat
  reply : FMap Reply
  /-- Contexts in save areas, by the number that the area holds (R258). -/
  saved : FMap Saved
  cur : Issue
  /-- Values the spec leaves open that have been drawn (the model's own; log entry 5). -/
  draws : Nat
  /-- The next number for a command, an access or a write (the model's own). -/
  nextId : Nat
  deriving DecidableEq, Repr

/-! ## Reset -/

/-- The state a context holds at entry (Table 1.2), with no launch.
Log entry 4 (DESIGN CHOICE). -/
def Ctx.blank : Ctx :=
  { status := .free, launch := 0, prio := 0, vcore := 0, tileBase := 0, tileCount := 0, pc := 0, c := [],
    p := 0b1010101010101001, q := [(0, BitVec.allOnes 32)], e := [], d := [], y := [], sg := [], yptr := 0, tok := [],
    pwq := [], loop := Loop.none, redirect := none, bcnt := 0, issued := 0, flags := 0, escn := 0, drift := 0,
    argp := 0, tmask := false, pwin := 128, engDone := [], segid := 0, segtry := 0, segStart := 0,
    segFirst := true, segBundles := 0, chunkLogged := false, segAccess := 0, segDrains := [], ckpt := none, claims := [], replay := 0, srq := [], releasing := [], out := [], nextAccess := 0,
    rewind := none, claimWait := none, arrival := none, events := Events.none, waitOn := none, busyRegs := [],
    busyLines := [], dirtyRegs := [], dirtyLines := [], walk := none, walkFault := none, tlbiWait := [], yielded := none, skip := 0, trapTok := [], trapPorts := [], trapRdv := none, dbgPass := false,
    kept := [], stall := { armed := false, kind := 0, cycles := 0 }, lastUncr := none,
    tan := { tb := 0, tol := 0, x := 0, k := 0, rng := 0, crc := 0 }, tanA := [], tanB := [], tanLo := [], tanHi := [],
    tanY := [], rngOut := [], crcVal := [], ksets := [], damage := [],
    ppe := { tmode := 0, ofmt := 0, e := 0, sat := false, ts := 0, bias := none, scale := none, esc := 0, ep := 0,
             lost := 0, rc := 0, tail := [] } }

/-- A core at power-up: registers as Table 15.1 gives them, everything else empty or zero (log entry 4). -/
def Core.blank : Core :=
  { ctxs := [], tiles := [], banks := [], bankMap := [], ports := [], buffers := [], loadQ := [], runQ := [],
    loadNow := none, runNow := none, ppeQ := [], drainNow := none, sets := [], tables := [], copyQ := [], chans := [],
    scaQ := [], scaNow := none, joins := [], ended := [], tileBusy := [], readerUse := (0, 0), rr := [], trapQ := [], msgQ := [], trapinfo := 0, tpc := 0,
    tslot := 0, tval := 0, snap := 0, inj := 0, dthr := 0xFFFFFF,
    dbg := { control := 0, breakpoints := [], watches := [], watchHigh := [], sel := 0 }, tcnt := 0, traceQ := [], rfsh := 1,
    rfshNext := 1, rfshPrev := 1, rfshAt := 0, rfshNextAt := 0, advances := [], tallow := 255, temp := 0, layers := [(0, true)], asleep := false, awakeFrom := 0, idleSince := none, fenced := false, image := none,
    parity := [], corrected := 0, uncorrectable := 0, supFaults := [], nextSample := 0, saving := none, supEntry := 0 }

/-- A cluster at power-up. -/
def Cluster.blank : Cluster :=
  { fifos := [], tlb := [], walks := [], nextWalk := 0, part := 0, cthr := 0, throttle := 0, throttleAt := 0, watchBase := 0 }

/-- The machine right after power-up: boot stage 0, no owner, nothing running (R301).
Log entry 4 (DESIGN CHOICE). -/
def State.reset : State :=
  { cyc := 0, turn := 0, inbox := [], calendar := [], mem := [], marks := [], cores := [], clusters := [], writes := [],
    queues := [], qptr := [], lidx := 0, launches := [], logSeq := 0, preempting := [], waiters := [], claimQ := [], claimFree := 0, parts := [],
    owner := { host := none, key := 0, successor := none, nonceNo := 0 }, windows := [], powerCap := 2800,
    links := [],
    boot := { imgpa := 0, pages := 0, err := 0, stage := 0, statpa := 0, image := [], version := 0 }, repair := [],
    telemetry := [], reply := [], saved := [], cur := Issue.none, draws := 0, nextId := 1 }

end Sys2Proof.Machine
end

