-- ==== Sys2Proof/Machine/Record.lean ====
section
/-!
DEFINITION. The snapshot record of a context: its lines as the hardware writes them and reads them back (R253,
Tables 15.6 to 15.8).
-/
namespace Sys2Proof.Machine

/-- KIND, DST and WORD of a destination (Table 15.8). -/
def Dest.kind : Dest → Nat
  | .creg _ => 0 | .pred _ => 1 | .qmask _ => 2 | .tile _ => 3 | .push _ => 4 | .ereg _ => 5 | .dreg _ => 6
  | .dword _ _ => 7 | .special _ => 8 | .sync _ => 9 | .flags => 10
def Dest.dst : Dest → Nat
  | .creg n => n | .pred k => k | .qmask n => n | .tile o => o.toNat | .push n => 0x3020 + n | .ereg n => n
  | .dreg n => n | .dword n _ => n | .special n => n | .sync n => n | .flags => 0
def Dest.word : Dest → Nat
  | .dword _ w => w
  | .creg _ | .pred _ | .qmask _ | .tile _ | .push _ | .ereg _ | .dreg _ | .special _ | .sync _ | .flags => 0

/-- Table 15.8: the header of a PWQ entry. -/
def Pending.header (e : Pending) : Nat :=
  e.dest.kind + e.dest.dst % 2 ^ 14 * 2 ^ 4 + e.dest.word % 8 * 2 ^ 18 + e.rem % 32 * 2 ^ 21 + e.flg.toNat * 2 ^ 26

/-- The destination a header names; a KIND of 11 to 15 is invalid. -/
def destOf (h : Nat) : Option Dest :=
  let k := natField h 0 4
  let d := natField h 4 14
  if k = 0 then some (.creg (d % 64))
  else if k = 1 then some (.pred (d % 8))
  else if k = 2 then some (.qmask (d % 8))
  else if k = 3 then some (.tile (BitVec.ofNat 14 d))
  else if k = 4 then some (.push (d % 4))
  else if k = 5 then some (.ereg (d % 16))
  else if k = 6 then some (.dreg (d % 16))
  else if k = 7 then some (.dword (d % 16) (natField h 18 3))
  else if k = 8 then some (.special (d % 256))
  else if k = 9 then some (.sync (d % 8))
  else if k = 10 then some .flags
  else none

/-- Bits as a number. -/
def bitNat (b : Bool) (i : Nat) : Nat := if b then 2 ^ i else 0

/-- Line 0 (Table 15.7). -/
def headerLine (x : Ctx) (fault done : BitVec 8) : Line :=
  let redirect := match x.redirect with
    | none => 0
    | some (t, n) => t % 2 ^ 13 * 2 ^ 32 + n % 8 * 2 ^ 45 + 2 ^ 48
  let rdv := match x.trapRdv with
    | none => 0
    | some a => if a.completed then 0 else a.id % 2 ^ 16 * 2 ^ 512 + a.mask % 16 * 2 ^ 528 + 2 ^ 532
  BitVec.ofNat 1024
    (x.pc % 2 ^ 13 + fault.toNat * 2 ^ 16 + done.toNat * 2 ^ 24 + redirect + x.p.toNat * 2 ^ 64 +
      x.pwq.length % 256 * 2 ^ 80 + packNat 32 8 (fun n => (if n = 0 then BitVec.allOnes 32 else x.q.get 0 n).toNat) * 2 ^ 128 +
      x.flags.toNat * 2 ^ 384 + x.yptr % 8 * 2 ^ 392 + bitNat x.tmask 400 + x.pwin % 256 * 2 ^ 408 +
      x.escn.toNat * 2 ^ 448 + x.segid % 2 ^ 16 * 2 ^ 480 + x.segtry % 4 * 2 ^ 496 + rdv + x.bcnt.toNat * 2 ^ 576)

/-- Line 1: tokens as they were at the trap, and the hardware loop (Table 15.6, R255). -/
def stateLine (x : Ctx) : Line :=
  let tok (n : Nat) : Nat :=
    if n = 0 then 0
    else
      let t := x.trapTok.get { pend := false, status := 0, addr := 0, since := 0, cmd := 0 } n
      t.status.toNat + bitNat t.pend 8
  let l := x.loop
  BitVec.ofNat 1024
    (packNat 16 32 tok + packNat 32 6 (fun n => nthD 0 l.cnt n % 2 ^ 16 + nthD 0 l.idx n % 2 ^ 16 * 2 ^ 16) * 2 ^ 512 +
      (bitNat l.active 0 + (l.stages - 1) % 4 * 2 + (l.body - 1) % 32 * 2 ^ 3 + l.first % 2 ^ 13 * 2 ^ 8 +
        l.n0 % 2 ^ 16 * 2 ^ 21 + bitNat l.lexit 37) * 2 ^ 704)

/-- A port as it was at the trap of the context that holds it (R253). -/
def Port.atTrap (l : List PortPos) (n : Nat) (p : Port) : Port :=
  match l.find? (fun q => decide (q.port = n)) with
  | none => p
  | some q => { p with pos := q.pos, moved := q.moved, done := q.done, fault := q.fault, faultAt := q.faultAt }
/-- A port's 16 bytes, whichever context holds it.
Log entry 82 (DEDUCED). -/
def portBits (p : Port) : Nat :=
  p.pos % 2 ^ 48 + bitNat p.holder.isSome 48 + bitNat p.fault.isSome 49 +
    (match p.fault with | none => 0 | some (c, _) => c.code.toNat * 2 ^ 50) + bitNat p.done 58 + p.moved % 2 ^ 32 * 2 ^ 64

/-- Line `i` of a record (Table 15.6). -/
def recordLine (x : Ctx) (ports : FMap Port) (fault done : BitVec 8) (i : Nat) : Line :=
  if i = 0 then headerLine x fault done
  else if i = 1 then stateLine x
  else if i < 6 then packLine 64 16 (fun n => (if 16 * (i - 2) + n = 0 then 0 else x.c.get 0 (16 * (i - 2) + n)).toNat)
  else if i < 14 then packLine 512 2 (fun n => (x.d.get 0 (2 * (i - 6) + n)).toNat)
  else if i < 18 then packLine 256 4 (fun n => (x.e.get 0 (4 * (i - 14) + n)).toNat)
  else if i < 20 then
    packLine 128 8 (fun n => if 8 * (i - 18) + n < 10 then
      portBits ((ports.get Port.idle (8 * (i - 18) + n)).atTrap x.trapPorts (8 * (i - 18) + n)) else 0)
  else if i = 20 then
    packLine 64 16 (fun n => if n < 8 then (x.y.get 0 n).toNat % 2 ^ 25 + (x.sg.get 0 n).toNat * 2 ^ 32 else 0)
  else if i < 25 then
    packLine 32 32 (fun n => match x.pwq[32 * (i - 21) + n]? with | none => 0 | some e => e.header)
  else if i < 29 then
    packLine 32 32 (fun n => match x.pwq[32 * (i - 25) + n]? with | none => 0 | some e => e.mask.toNat)
  else match x.pwq[i - 29]? with | none => 0 | some e => e.val

/-- What `TRET` checks of a record (R255): the offending line, if there is one.
Log entry 21 (DEDUCED). -/
def badRecordLine (line : Nat → Line) : Option Nat :=
  let n := fieldOf (line 0) 80 8
  if 128 < n then some 0
  else if bitOf (line 0) 48 ∧ ¬(1 ≤ fieldOf (line 0) 45 3 ∧ fieldOf (line 0) 45 3 ≤ 4) then some 0
  else
    match findFrom (fun i =>
        let h := fieldOf (line (21 + i / 32)) (32 * (i % 32)) 32
        (destOf h).isNone || decide (natField h 21 5 < 1 ∨ 18 < natField h 21 5)) n 0 with
    | none => none
    | some i => some (21 + i / 32)

/-- A level word as it is stored: the FLAGS of levels 1 to 5 are 0 (R68, R6). -/
def levelMask (w : Nat) (v : Word) : Word := if 3 ≤ w then v &&& 0x0000_FFFF_FFFF_FFFF else v
/-- A descriptor as it is stored. -/
def descrMask (d : Nat) : Nat := packNat 64 8 (fun w => (levelMask w (BitVec.ofNat 64 (d / 2 ^ (64 * w)))).toNat)

/-- A value of a record as its destination stores it (R6). -/
def storedAs (d : Dest) (v : Line) : Line :=
  match d with
  | .dreg _ => BitVec.ofNat 1024 (descrMask (fieldOf v 0 512))
  | .dword _ w => (levelMask w (v.extractLsb' 0 64)).zeroExtend 1024
  | .creg _ | .pred _ | .qmask _ | .tile _ | .push _ | .ereg _ | .special _ | .sync _ | .flags => v
/-- Entry `i` of the PWQ in a record. The mark of the line a load read stays with the entry (log entry 21). -/
def recordEntry (line : Nat → Line) (old : List Pending) (i : Nat) : Pending :=
  let h := fieldOf (line (21 + i / 32)) (32 * (i % 32)) 32
  let v := line (29 + i)
  let d := (destOf h).getD .flags
  let (m, a) := match old[i]? with
    | none => (Mark.clean, 0)
    | some e => if e.dest = d ∧ e.val = v then (e.mark, e.addr) else (Mark.clean, 0)
  { dest := d, val := storedAs d v, mask := BitVec.ofNat 32 (fieldOf (line (25 + i / 32)) (32 * (i % 32)) 32),
    rem := natField h 21 5, flg := BitVec.ofNat 5 (natField h 26 5), mark := m, addr := a }

/-- The array of `n` values, as a sparse array that lists every one. -/
def arrayOf {α : Type} (n : Nat) (f : Nat → α) : FMap α := (upTo n 0).map (fun i => (i, f i))

/-- A token as `TRET` restores it: an entry with PEND = 0 is complete with the entry's status; one with PEND = 1 takes
the token's live state (R255). The fault address stays in the core (R253). -/
def restoreToken (line : Nat → Line) (live : FMap Token) (cyc n : Nat) : Token :=
  let t := live.get { pend := false, status := 0, addr := 0, since := 0, cmd := 0 } n
  if bitOf (line 1) (16 * n + 8) then t
  else if t.pend then { pend := false, status := BitVec.ofNat 8 (fieldOf (line 1) (16 * n) 8), addr := 0, since := cyc, cmd := 0 }
  else { t with status := BitVec.ofNat 8 (fieldOf (line 1) (16 * n) 8) }

/-- The hardware loop of a record. -/
def recordLoop (line : Nat → Line) : Loop :=
  let v := fieldOf (line 1) 704 64
  { active := natBit v 0, stages := natField v 1 2 + 1, body := natField v 3 5 + 1, first := natField v 8 13,
    n0 := natField v 21 16, lexit := natBit v 37,
    cnt := (upTo 6 0).map (fun l => fieldOf (line 1) (512 + 32 * l) 16),
    idx := (upTo 6 0).map (fun l => fieldOf (line 1) (512 + 32 * l + 16) 16) }

/-- The context's registers, loop, PWQ and special registers as a record gives them (R255). p0, p1 and q0 are ignored;
RDV fields are not taken from the record. -/
def Ctx.restore (x : Ctx) (line : Nat → Line) (cyc : Nat) : Ctx :=
  let h := line 0
  let n := fieldOf h 80 8
  { x with
    pc := fieldOf h 0 13,
    skip := BitVec.ofNat 8 (fieldOf h 24 8),
    redirect := if bitOf h 48 then some (fieldOf h 32 13, fieldOf h 45 3) else none,
    p := putField (BitVec.ofNat 16 (fieldOf h 64 16)) 0 2 1,
    q := (0, BitVec.allOnes 32) :: (upTo 7 1).map (fun i => (i, BitVec.ofNat 32 (fieldOf h (128 + 32 * i) 32))),
    flags := BitVec.ofNat 5 (fieldOf h 384 5),
    yptr := fieldOf h 392 3,
    tmask := bitOf h 400,
    pwin := fieldOf h 408 8,
    escn := BitVec.ofNat 32 (fieldOf h 448 32),
    segid := fieldOf h 480 16,
    segtry := fieldOf h 496 2,
    bcnt := BitVec.ofNat 64 (fieldOf h 576 64),
    loop := recordLoop line,
    tok := (upTo 31 1).map (fun i => (i, restoreToken line x.tok cyc i)),
    c := arrayOf 64 (fun i => BitVec.ofNat 64 (fieldOf (line (2 + i / 16)) (64 * (i % 16)) 64)),
    d := arrayOf 16 (fun i => BitVec.ofNat 512 (descrMask (fieldOf (line (6 + i / 2)) (512 * (i % 2)) 512))),
    e := arrayOf 16 (fun i => BitVec.ofNat 256 (fieldOf (line (14 + i / 4)) (256 * (i % 4)) 256)),
    y := arrayOf 8 (fun i => BitVec.ofNat 64 (fieldOf (line 20) (64 * i) 25)),
    sg := arrayOf 8 (fun i => BitVec.ofNat 16 (fieldOf (line 20) (64 * i + 32) 16)),
    pwq := (upTo n 0).map (recordEntry line x.pwq) }

/-- Pushes for a write port that a PWQ holds. -/
def pendingPushes (pwq : List Pending) (n : Nat) : Nat := (pwq.filter (fun e => decide (e.dest = .push n))).length
/-- A port taken to another position: a read port fetches again from there; a write port keeps the lines of its FIFO
before it, and goes on from there when it lies behind them.
Log entry 21 (DEDUCED). -/
def Port.moveTo (n pos : Nat) (p : Port) : Port :=
  if n < 6 then
    { p with pos := pos, fifo := [], coming := [], scale := none,
             walked := if bitOf p.cfg 187 then pos / 2 else pos }
  else if p.walked + p.fifo.length < pos then { p with pos := pos, fifo := [], walked := pos }
  else { p with pos := pos, fifo := p.fifo.take (pos - p.walked), walked := Nat.min p.walked pos }
/-- The positions of the ports the context holds, as a record gives them: a field that the record holds as it was at the
trap takes its live state, since ports go on while the context is trapped (R255, R256).
Log entry 21 (DEDUCED). -/
def restorePort (line : Nat → Line) (x : Ctx) (ctx n : Nat) (p : Port) : Port :=
  let l := line (18 + n / 8)
  let o := 128 * (n % 8)
  if p.holder = some ctx then
    let was := portBits (p.atTrap x.trapPorts n)
    let p1 := if fieldOf l o 48 = natField was 0 48 then p else p.moveTo n (fieldOf l o 48)
    { p1 with
      done := if bitOf l (o + 58) = natBit was 58 then p1.done else bitOf l (o + 58),
      moved := if fieldOf l (o + 64) 32 = natField was 64 32 then p1.moved else fieldOf l (o + 64) 32,
      reserved := if n < 6 then 0 else pendingPushes x.pwq (n - 6) }
  else p

end Sys2Proof.Machine
end

