-- ==== Sys2Proof/Machine/Ops.lean ====
section
/-!
DEFINITION. The named operations over the state: cores, contexts, registers, tiles, memory and banks; results that
land; tokens; scheduling; taking a trap and returning from one.
-/
namespace Sys2Proof.Machine

/-- The outcome of a step. -/
abbrev Res := Host.Outcome State Fault Refusal

/-! ## Cores, contexts, clusters -/

def State.core (s : State) (c : Nat) : Core := s.cores.get Core.blank c
def State.setCore (s : State) (c : Nat) (x : Core) : State := { s with cores := s.cores.set c x }
def Core.ctx (k : Core) (x : Nat) : Ctx := k.ctxs.get Ctx.blank x
def Core.setCtx (k : Core) (x : Nat) (v : Ctx) : Core := { k with ctxs := k.ctxs.set x v }
def State.ctx (s : State) (c x : Nat) : Ctx := (s.core c).ctx x
def State.setCtx (s : State) (c x : Nat) (v : Ctx) : State := s.setCore c ((s.core c).setCtx x v)
def State.cluster (s : State) (k : Nat) : Cluster := s.clusters.get Cluster.blank k
def State.setCluster (s : State) (k : Nat) (x : Cluster) : State := { s with clusters := s.clusters.set k x }
def State.modCore (s : State) (c : Nat) (f : Core → Core) : State := s.setCore c (f (s.core c))
def State.modCtx (s : State) (c x : Nat) (f : Ctx → Ctx) : State := s.setCtx c x (f (s.ctx c x))
def State.modCluster (s : State) (k : Nat) (f : Cluster → Cluster) : State := s.setCluster k (f (s.cluster k))
/-- The cluster of a core (R8). -/
def clusterOf (c : Nat) : Nat := c / Config.coresPerCluster
def Core.port (k : Core) (n : Nat) : Port := k.ports.get Port.idle n
def Core.setPort (k : Core) (n : Nat) (p : Port) : Core := { k with ports := k.ports.set n p }
def Core.bank (k : Core) (b : Nat) : Bank := k.banks.get Bank.pool b
def Core.setBank (k : Core) (b : Nat) (x : Bank) : Core := { k with banks := k.banks.set b x }
def Core.buffer (k : Core) (n : Nat) : Buffer := k.buffers.get Buffer.idle n
def Core.setBuffer (k : Core) (n : Nat) (b : Buffer) : Core := { k with buffers := k.buffers.set n b }
def Core.tanSet (k : Core) (n : Nat) : TanSet := k.sets.get TanSet.idle n
def Core.setTanSet (k : Core) (n : Nat) (x : TanSet) : Core := { k with sets := k.sets.set n x }
def Core.table (k : Core) (n : Nat) : CurveTable := k.tables.get CurveTable.idle n
def Core.setTable (k : Core) (n : Nat) (x : CurveTable) : Core := { k with tables := k.tables.set n x }
def State.queue (s : State) (q : Nat) : Queue := s.queues.get Queue.idle q
def State.setQueue (s : State) (q : Nat) (x : Queue) : State := { s with queues := s.queues.set q x }
def State.partOf (s : State) (p : Nat) : Part := s.parts.get Part.idle p
def State.setPart (s : State) (p : Nat) (x : Part) : State := { s with parts := s.parts.set p x }
def State.window (s : State) (n : Nat) : Window := s.windows.get Window.free n
def State.setWindow (s : State) (n : Nat) (x : Window) : State := { s with windows := s.windows.set n x }
def State.link (s : State) (n : Nat) : Link := s.links.get Link.down n
def State.setLink (s : State) (n : Nat) (x : Link) : State := { s with links := s.links.set n x }
def State.count (s : State) (k : Nat) : State := { s with telemetry := s.telemetry.set k (s.telemetry.get 0 k + 1) }

/-- The next number for a command, an access or a write. -/
def State.newId (s : State) : Nat × State := (s.nextId, { s with nextId := s.nextId + 1 })
/-- A delay of which the spec gives no number (log entry 5). -/
def State.drawDelay (s : State) : Nat × State := (Config.freeDelay s.draws, { s with draws := s.draws + 1 })

/-- A step of the part due in a cycle, behind those due before or with it. -/
def insertDue (due : Nat) (i : Instr) : List (Nat × Instr) → List (Nat × Instr)
  | [] => [(due, i)]
  | (d, j) :: es => if due < d then (due, i) :: (d, j) :: es else (d, j) :: insertDue due i es
def State.schedule (s : State) (due : Nat) (i : Instr) : State := { s with calendar := insertDue due i s.calendar }
/-- A step due after a delay the spec leaves open, at least one cycle from now.
Log entry 5 (DESIGN CHOICE). -/
def State.scheduleFree (s : State) (i : Instr) : State :=
  let (d, s) := s.drawDelay
  s.schedule (s.cyc + 1 + d) i

/-! ## Watchdogs under throttling (R29, R308) -/

/-- How far a watchdog of a cluster counts in a cycle, in quarters of a cycle, at its throttle level. -/
def Cluster.watchRate (k : Cluster) : Nat :=
  if k.throttle = 0 then 4 else if k.throttle = 1 then 2 else if k.throttle = 2 then 1 else 0
/-- The watchdogs' count of a cluster in a cycle. -/
def Cluster.watchAt (k : Cluster) (cyc : Nat) : Nat := k.watchBase + (cyc - k.throttleAt) * k.watchRate
def State.watchAt (s : State) (c cyc : Nat) : Nat := (s.cluster (clusterOf c)).watchAt cyc
/-- A wait that began at a count has lasted 1,048,576 cycles of the watchdog. -/
def State.watchOver (s : State) (c since : Nat) : Bool := decide (since + 4 * Config.watchdog ≤ s.watchAt c s.cyc)
/-- The end of a wait that began at a count is due, unless the watchdogs of the cluster stand still. -/
def State.watch (s : State) (c since : Nat) (i : Instr) : State :=
  let k := s.cluster (clusterOf c)
  if k.watchRate = 0 then s
  else s.schedule (s.cyc + (since + 4 * Config.watchdog - k.watchAt s.cyc + k.watchRate - 1) / k.watchRate) i
/-- At throttle level 3 engines start no new command (R308). -/
def State.halted (s : State) (c : Nat) : Bool := decide (3 ≤ (s.cluster (clusterOf c)).throttle)

/-! ## Registers (R89) -/

/-- The value a slot reads from a c register: c0 is 0, c56 to c61 are the loop indices while a loop is active. -/
def Ctx.readC (x : Ctx) (n : Nat) : Word :=
  if n = 0 then 0
  else if x.loop.active ∧ 56 ≤ n ∧ n ≤ 61 then BitVec.ofNat 64 (nthD 0 x.loop.idx (n - 56))
  else x.c.get 0 n
/-- A write to a c register: c0, and c56 to c61 while a loop is active, discard it. -/
def Ctx.writeC (x : Ctx) (n : Nat) (v : Word) : Ctx :=
  if n = 0 then x
  else if x.loop.active ∧ 56 ≤ n ∧ n ≤ 61 then x
  else { x with c := x.c.set n v }
/-- A pair of c registers, the low half at the base (R91). -/
def Ctx.readPair (x : Ctx) (n : Nat) : Nat := (x.readC n).toNat + 2 ^ 64 * (x.readC (n + 1)).toNat
/-- A predicate (R72): p0 is true and p1 is false. -/
def Ctx.pred (x : Ctx) (n : Nat) : Bool := if n = 0 then true else if n = 1 then false else bitOf x.p n
/-- A write to a predicate pair. No instruction writes pair 0; pairs 4 to 7 discard writes while a loop of two or more
stages is active (R93, R98). -/
def Ctx.writePair (x : Ctx) (k : Nat) (even odd : Bool) : Ctx :=
  if k = 0 then x
  else if x.loop.active ∧ 2 ≤ x.loop.stages ∧ 4 ≤ k then x
  else { x with p := putField x.p (2 * k) 2 (even.toNat + 2 * odd.toNat) }
def Ctx.readQ (x : Ctx) (n : Nat) : BitVec 32 := if n = 0 then BitVec.allOnes 32 else x.q.get 0 n
def Ctx.readE (x : Ctx) (n : Nat) : Scales := x.e.get 0 n
def Ctx.readD (x : Ctx) (n : Nat) : Descr := x.d.get 0 n
def Ctx.readY (x : Ctx) (n : Nat) : Word := x.y.get 0 n
def Ctx.readSg (x : Ctx) (n : Nat) : Nat := (x.sg.get 0 n).toNat
/-- A token never named is complete without error (Table 1.2). -/
def Token.idle : Token := { pend := false, status := 0, addr := 0, since := 0, cmd := 0 }
def Ctx.token (x : Ctx) (k : Nat) : Token := x.tok.get Token.idle k
/-- Whether issue in a cycle still sees the token pending (R101). -/
def Token.pendingAt (t : Token) (cyc : Nat) : Bool := t.pend || decide (cyc < t.since)

/-! ## Tiles (R75, R118) -/

def Core.tileRow (k : Core) (t r : Nat) : Line := k.tiles.get 0 (32 * t + r)
def Core.setTileRow (k : Core) (t r : Nat) (v : Line) : Core := { k with tiles := k.tiles.set (32 * t + r) v }
/-- The row that lane `i` of a column lies in, for a line's lane numbering (R118). -/
def laneRow (o : Operand) (i : Nat) : Nat × Nat :=
  match o with
  | .row _ n => (n, i)
  | .col _ n => (i, n)
  | .diag _ n => (i, (i + n) % 32)
  | .zero | .bc | .ip _ | .op _ | .bad => (0, i)
/-- The tile a tile-line operand names. -/
def Operand.tile? : Operand → Option Nat
  | .row t _ | .col t _ | .diag t _ => some t
  | .zero | .bc | .ip _ | .op _ | .bad => none
/-- The line a tile-line operand names, in a block of tiles that begins at `base`. -/
def Core.readLine (k : Core) (base : Nat) (o : Operand) : Line :=
  match o with
  | .row t n => k.tileRow (base + t) n
  | .col t n => lineOf (fun i => laneOf (k.tileRow (base + t) i) n)
  | .diag t n => lineOf (fun i => laneOf (k.tileRow (base + t) i) ((i + n) % 32))
  | .zero | .bc | .ip _ | .op _ | .bad => 0
/-- Row `i` with one lane replaced. -/
def putLane (v : Line) (i : Nat) (x : Lane) : Line := lineOf (fun j => if j = i then x else laneOf v j)
/-- Lane by lane from lane `i` on, for `n` lanes: the tile word that stands for the lane takes the lane's value. -/
def Core.writeLanes (base : Nat) (o : Operand) (v : Line) (mask : BitVec 32) : Nat → Nat → Core → Core
  | 0, _, k => k
  | n + 1, i, k =>
    match o.tile? with
    | none => k
    | some t =>
      let (r, l) := laneRow o i
      let k' := if bitOf mask i then k.setTileRow (base + t) r (putLane (k.tileRow (base + t) r) l (laneOf v i)) else k
      Core.writeLanes base o v mask n (i + 1) k'
/-- The lanes of a mask written to a tile line. -/
def Core.writeLine (k : Core) (base : Nat) (o : Operand) (v : Line) (mask : BitVec 32) : Core :=
  match o with
  | .row t n => k.setTileRow (base + t) n (mergeLanes mask (k.tileRow (base + t) n) v)
  | .col _ _ | .diag _ _ => Core.writeLanes base o v mask 32 0 k
  | .zero | .bc | .ip _ | .op _ | .bad => k

/-! ## Memory (R47, log entry 6) -/

/-- Where a core's scratchpad line lies in the model's memory. -/
def spAddr (c flat : Nat) : Nat := Config.spBase + c * 2 ^ 29 + flat * 128
/-- Where a bundle of a context lies: instruction memory, or the supervisor store for context 4 (R247). -/
def bundleAddr (c x pc : Nat) : Nat :=
  if x = 4 then Config.supBase + c * 2 ^ 16 + pc * 64 else Config.imBase + c * 2 ^ 19 + pc * 64
def State.loadLine (s : State) (a : Nat) : Line := BitVec.ofNat 1024 (s.mem.load a 128)
def State.storeLine (s : State) (a : Nat) (v : Line) : State := { s with mem := s.mem.store a 128 v.toNat }
def State.loadWord (s : State) (a : Nat) : Word := BitVec.ofNat 64 (s.mem.load a 8)
def State.storeWord (s : State) (a : Nat) (v : Word) : State := { s with mem := s.mem.store a 8 v.toNat }
def State.readFlat (s : State) (c flat : Nat) : Line := s.loadLine (spAddr c flat)
def State.markOf (s : State) (a : Nat) : Mark := s.marks.get .clean (a / 128)
def State.setMark (s : State) (a : Nat) (m : Mark) : State :=
  { s with marks := if m = .clean then s.marks.erase (a / 128) else s.marks.set (a / 128) m }
def bankOf (flat : Nat) : Nat := flat / Config.bankLines
def lineNo (flat : Nat) : Nat := flat % Config.bankLines
def rowOf (flat : Nat) : Nat := lineNo flat / 8
/-- The fast segment (R47). -/
def isFast (flat : Nat) : Bool := decide (lineNo flat < 0x400)
/-- Table 3.2: load latency and bank-busy time of a line's class. -/
def loadLatency (flat : Nat) : Nat := if isFast flat then 6 else 18
def busyTime (flat : Nat) : Nat := if isFast flat then 4 else 12
/-- An address inside the scratchpad (R47). -/
def inScratch (flat : Int) : Bool := decide (0 ≤ flat ∧ flat < (Config.flatLines : Int))

/-! ## Banks, tags and refresh -/

def Bank.tag (b : Bank) (s : Nat) : TagEntry := b.tags.get TagEntry.blank s
def Bank.setTag (b : Bank) (s : Nat) (t : TagEntry) : Bank := { b with tags := b.tags.set s t }
/-- The slot whose valid entry holds a slow row (R56). -/
def Bank.findSlot (b : Bank) (srow : Nat) : Option Nat :=
  findFrom (fun i => (b.tag i).valid && decide ((b.tag i).srow = srow)) 128 0
/-- R58: a slow line whose row is promoted. -/
def Bank.shadowed (b : Bank) (flat : Nat) : Bool := !isFast flat && (b.findSlot (rowOf flat)).isSome
/-- The bank is busy in a cycle (R48). -/
def Bank.busyAt (b : Bank) (cyc : Nat) : Bool := decide (cyc < b.busyUntil)
def Bank.occupy (b : Bank) (cyc w : Nat) : Bank := { b with busyUntil := Nat.max b.busyUntil (cyc + w) }

/-- The period of refresh (R60). -/
def refreshPeriod : Nat := 68750
/-- R61: the first cycle of the window with offset `o` that an access of `w` cycles due in cycle `c` meets. -/
def windowStart (o c w : Nat) : Option Nat :=
  let d := (c + refreshPeriod - o % refreshPeriod) % refreshPeriod
  if d < 16 ∧ d ≤ c then some (c - d)
  else if refreshPeriod - d < w then some (c + (refreshPeriod - d))
  else none
/-- R60, R61: the end of the refresh window that an access to a physical bank meets, where `rfsh` gives RFSH in the cycle
in which a window begins. -/
def refreshEnd (rfsh : Nat → Nat) (phys c w : Nat) : Option Nat :=
  match windowStart (179 * phys) c w with
  | some r => some (r + 16)
  | none =>
    match windowStart (179 * phys + 34375) c w with
    | some r => if rfsh r = 2 then some (r + 16) else none
    | none => none
/-- RFSH in a cycle: before its latest change, after it, or from the cycle in which the value written last counts (R60). -/
def Core.rfshIn (k : Core) (r : Nat) : Nat :=
  if r < k.rfshAt then k.rfshPrev else if r < k.rfshNextAt then k.rfsh else k.rfshNext
/-- The physical bank of a logical one (R69).
Log entry 55 (DESIGN CHOICE). -/
def Core.physical (k : Core) (b : Nat) : Nat := k.bankMap.get b b
def Core.refreshEnd (k : Core) (b c w : Nat) : Option Nat := Machine.refreshEnd k.rfshIn (k.physical b) c w
/-- The first cycle at or after `c` in which a streaming agent's access of `w` cycles may begin (R49, R61): the bank is
free and meets no refresh window. At most two windows lie near any cycle, so four rounds suffice. -/
def Core.streamTimeFrom (k : Core) (b w : Nat) : Nat → Nat → Nat
  | 0, c => c
  | n + 1, c =>
    let c1 := Nat.max c (k.bank b).busyUntil
    match k.refreshEnd b c1 w with
    | some e => Core.streamTimeFrom k b w n e
    | none => c1
def Core.streamTime (k : Core) (b w c : Nat) : Nat := k.streamTimeFrom b w 4 c

/-- The owner code of a context's L slots (Table 3.3). -/
def lCode (x : Nat) : BitVec 16 := BitVec.ofNat 16 (0x1000 + 0x100 * x)
/-- A bank allocated to a context's launch; context 4 has no launch, so none is allocated to its (R103, R148).
Log entry 23 (DEDUCED). -/
def Bank.allocatedTo (b : Bank) (x : Ctx) (ctx : Nat) : Bool := decide (ctx ≠ 4 ∧ b.launch ≠ 0 ∧ b.launch = x.launch)
/-- A bank that what a context has started may reach: one allocated to its launch, any for context 4 (R3, R51). -/
def Core.reaches (k : Core) (x : Nat) (b : Bank) : Bool := decide (x = 4 ∨ b.launch = (k.ctx x).launch)
/-- Whether a context's L slots own a bank: the code names them and the bank is allocated to the context's launch (R3);
context 4 owns the pool too (R247). -/
def Core.owns (k : Core) (x b : Nat) : Bool :=
  (decide ((k.bank b).owner = lCode x) && k.reaches x (k.bank b)) ||
    (decide (x = 4) && decide (fieldOf (k.bank b).owner 12 4 = 0))

/-- Bookkeeping of a write to a scratchpad line: a valid slot of a fast line becomes dirty (R57). -/
def Bank.wrote (b : Bank) (flat : Nat) : Bank :=
  if isFast flat ∧ (b.tag (rowOf flat)).valid then
    b.setTag (rowOf flat) { b.tag (rowOf flat) with dirty := true }
  else b
/-- A whole line written by an agent: the bytes, the dirty bit, and every mark cleared (R57, R157, R219). -/
def State.writeFlat (s : State) (c flat : Nat) (v : Line) : State :=
  let s1 := (s.storeLine (spAddr c flat) v).setMark (spAddr c flat) .clean
  s1.modCore c (fun k => k.setBank (bankOf flat) ((k.bank (bankOf flat)).wrote flat))
/-- One 8-byte word written: POISON stays, a group-boundary mark does not (R157, R219). -/
def State.writeFlatWord (s : State) (c flat w : Nat) (v : Word) : State :=
  let a := spAddr c flat
  let m := s.markOf a
  let s1 := (s.storeWord (a + 8 * w) v).setMark a (if m = .group then .clean else m)
  s1.modCore c (fun k => k.setBank (bankOf flat) ((k.bank (bankOf flat)).wrote flat))
/-! ## Sync words (R201) -/

/-- Where a sync slot's word lies (Table 5.10). -/
def syncAddr (c : Nat) (y : Word) : Nat := spAddr c (fieldOf y 3 22) + 16 * fieldOf y 0 3
def syncFlat (y : Word) : Nat := fieldOf y 3 22
/-- A sync word's slot number (Table 5.10). -/
def syncSlot (y : Word) : Nat := fieldOf y 0 25
/-- GEN of a sync word (Table 10.2). -/
def State.genOf (s : State) (c : Nat) (y : Word) : Nat := s.mem.load (syncAddr c y + 8) 2
/-- GEN as SWAIT and SWAITANY see it in this cycle: an advance is visible from the cycle after the credit or post that
caused it (R202). -/
def State.genSeen (s : State) (c : Nat) (y : Word) : Nat :=
  let n := ((s.core c).advances.filter (fun e => decide (e = (syncSlot y, s.cyc)))).length
  (s.genOf c y + 65536 - n % 65536) % 65536
/-- R104, R105: a generation has passed the value seen. -/
def passed (gen seen : Nat) : Bool :=
  let d := (gen + 65536 - seen % 65536) % 65536
  decide (1 ≤ d ∧ d ≤ 0x7FFF)

/-! ## Special registers (Table 5.14, Table 15.1) -/

/-- FLAGS after a write or a set of flags. -/
def Ctx.orFlags (x : Ctx) (f : BitVec 5) : Ctx := { x with flags := x.flags ||| f }

/-- MTS landing of a user register (R116, R54). Bits outside the writable fields are ignored. -/
def Ctx.writeSpecial (x : Ctx) (n : Nat) (v : Word) : Ctx :=
  if n = 0x07 then { x with flags := v.extractLsb' 0 5 }
  else if n = 0x08 then { x with escn := v.extractLsb' 0 32 }
  else if n = 0x0B then { x with drift := v }
  else if n = 0x0E then { x with yptr := fieldOf v 0 3 }
  else if n = 0x0F then { x with tmask := bitOf v 0 }
  else if n = 0x10 then { x with pwin := if 128 < v.toNat then 128 else v.toNat }
  else x

/-- The fields of SNAP (Table 15.3). -/
def snapCtx (v : Word) : Nat := fieldOf v 24 3
def snapBank (v : Word) : Nat := fieldOf v 13 9
def snapLine (v : Word) : Nat := fieldOf v 0 13
/-- SNAP as it is kept: reserved bits read 0. -/
def snapMask (v : Word) : Word := v &&& 0x000000000_07_3FFFFF

/-- A dismissed or resumed trap: TRAPINFO, TPC, TSLOT and TVAL read 0 (R252, R255). -/
def Core.clearTrap (k : Core) : Core := { k with trapinfo := 0, tpc := 0, tslot := 0, tval := 0 }

/-- The context whose trap is current. -/
def Core.currentCtx (k : Core) : Option Nat :=
  findFrom (fun x => decide ((k.ctx x).status = .current)) 4 0

/-- R252: an MTS to TRAPINFO parks the current trap's context, or removes the current message.
Log entry 56 (DEDUCED). -/
def Core.dismiss (k : Core) : Core :=
  match k.currentCtx with
  | some x => (k.setCtx x { k.ctx x with status := .parked }).clearTrap
  | none => k.clearTrap

/-- The payload bits of a DBG entry that are not reserved (Tables 16.3 to 16.5); TCNT is read-only. -/
def dbgPayload (sel : Nat) : Word := if sel = 0 then 0xFFF else if sel ≤ 8 then 0x1FFFFF else 0x3FF_FFFF_FFFF
/-- R268: an MTS to DBG writes the entry that SEL names; reserved bits stay 0 (R6). TCNT is read-only, and counts from 0
when TEN becomes 1. -/
def Core.writeDbg (k : Core) (v : Word) : Core :=
  let sel := fieldOf v 60 4
  let pay := v &&& dbgPayload sel
  let d := k.dbg
  if sel = 0 then
    { k with dbg := { d with control := pay, sel := 0 },
             tcnt := if bitOf pay 9 && !bitOf d.control 9 then 0 else k.tcnt }
  else if sel ≤ 8 then { k with dbg := { d with breakpoints := d.breakpoints.set (sel - 1) pay, sel := sel } }
  else if sel ≤ 12 then { k with dbg := { d with watches := d.watches.set (sel - 9) pay, sel := sel } }
  else k

/-- R275: INJ as written. -/
def injMask (v : Word) : Word := v &&& 0x0001_FFFF_FFFF_FFFF

/-- R289: TROOT belongs to the partition; reserved bits read 0. -/
def trootMask (v : Word) : Word := v &&& 0x000F_FFFF_FFE0_0001

/-- A layer is powered; layer 0 always is (R305). -/
def Core.layerOn (k : Core) (layer : Nat) : Bool := k.layers.get (decide (layer = 0)) layer
/-- A layer begins to power on, unless it is on or does already (R305).
Log entry 28 (DEDUCED). -/
def State.powerLayer (c : Nat) (s : State) (layer : Nat) : State :=
  if (s.core c).layerOn layer || s.calendar.any (fun e => decide (e.2 = .layerPowerOn c layer)) then s
  else s.schedule (s.cyc + 22000) (.layerPowerOn c layer)
/-- The layers of banks that are off. -/
def Core.banksOff (k : Core) (banks : List Nat) : List Nat :=
  (banks.map (fun b => k.physical b / 64)).eraseDups.filter (fun l => !k.layerOn l)
/-- The layers of banks that are off begin to power on. -/
def State.powerBanks (s : State) (c : Nat) (banks : List Nat) : State :=
  ((s.core c).banksOff banks).foldl (State.powerLayer c) s
/-- MTS landing of a privileged register (R248). The firmware powers the layers of the snapshot banks and of the trace
bank, which belong to the supervisor pool's working set (R305, log entry 55). -/
def State.writePriv (s : State) (c n : Nat) (v : Word) : State :=
  if n = 0x20 then s.modCore c Core.dismiss
  else if n = 0x24 then (s.modCore c (fun k => { k with snap := snapMask v })).powerBanks c (upTo 4 (snapBank v))
  else if n = 0x25 then s.modCore c (fun k => { k with inj := injMask v })
  else if n = 0x26 then
    let p := (s.cluster (clusterOf c)).part
    s.setPart p { s.partOf p with troot := trootMask v }
  else if n = 0x28 then
    let s1 := s.modCore c (fun k => k.writeDbg v)
    if bitOf (s1.core c).dbg.control 9 then s1.powerBanks c [fieldOf (s1.core c).dbg.control 0 9] else s1
  else if n = 0x29 then s.modCore c (fun k => { k with dthr := v &&& 0xFFFFFF })
  else s

/-! ## Results that land (R14, R119) -/

/-- A write that replaces a whole c register or tile line ends the mark of global data not yet read there (R140). -/
def Ctx.overwrite (x : Ctx) (d : Dest) (mask : BitVec 32) : Ctx :=
  match d with
  | .creg n => { x with dirtyRegs := x.dirtyRegs.filter (fun e => decide (e.1 ≠ n)) }
  | .tile o => if mask = allLanes then { x with dirtyLines := x.dirtyLines.filter (fun e => decide (e.1 ≠ o)) } else x
  | .pred _ | .qmask _ | .push _ | .ereg _ | .dreg _ | .dword _ _ | .special _ | .sync _ | .flags => x
/-- A line pushed into a write port takes the place it reserved (R119). -/
def Core.pushPort (k : Core) (n : Nat) (v : Line) : Core :=
  let p := k.port n
  k.setPort n { p with fifo := p.fifo ++ [{ val := v, flg := 0 }], reserved := p.reserved - 1, pos := p.pos + 1 }

/-! ## Locations (R264, Table 16.1) -/

/-- The model's numbers for places whose errors are kept: flat lines first, then the other structures.
Log entry 35 (DESIGN CHOICE). -/
def locTile (t r : Nat) : Nat := 0x1000000 + 32 * t + r
/-- Lane `l` of a tile row, each of which has its own parity (Table 16.1); what is detected is named by its row. -/
def locLane (t r l : Nat) : Nat := 0x8000000 + 1024 * t + 32 * r + l
def locReg (x n : Nat) : Nat := 0x2000000 + 64 * x + n
def locKnot (t n : Nat) : Nat := 0x3000000 + 64 * t + n
def locRecord (t n : Nat) : Nat := 0x4000000 + 256 * t + n
def locBuffer (n : Nat) : Nat := 0x5000000 + n
def locBundle (x pc : Nat) : Nat := 0x6000000 + (if x = 4 then 0x10000 else 0) + pc
/-- A context's predicate pairs, q, d, e and y registers, PWQ, SRQ and checkpoint, and the FIFOs of ports and of the
core's cluster (Table 16.1). -/
def locP (x k : Nat) : Nat := 0x7000000 + 64 * x + k
def locQ (x n : Nat) : Nat := 0x7000000 + 64 * x + 8 + n
def locD (x n : Nat) : Nat := 0x7000000 + 64 * x + 16 + n
def locE (x n : Nat) : Nat := 0x7000000 + 64 * x + 32 + n
def locY (x n : Nat) : Nat := 0x7000000 + 64 * x + 48 + n
def locPwq (x : Nat) : Nat := 0x7000000 + 64 * x + 56
def locSrq (x : Nat) : Nat := 0x7000000 + 64 * x + 57
def locCkpt (x : Nat) : Nat := 0x7000000 + 64 * x + 58
def locPort (n : Nat) : Nat := 0x7000200 + n
def locFifo (n : Nat) : Nat := 0x7000210 + n
/-- Bad parity at a place.
Log entry 49 (DEDUCED). -/
def Core.bad (k : Core) (l : Nat) : Bool := k.parity.contains l
/-- A lane of a tile row has bad parity. -/
def Core.rowHurt (k : Core) (t r : Nat) : Bool := k.parity.any (fun p => decide (locLane t r 0 ≤ p ∧ p < locLane t r 32))

/-- A place written anew holds good parity. -/
def Core.mend (k : Core) (ls : List Nat) : Core := { k with parity := k.parity.filter (fun p => !ls.contains p) }

/-- The places that a write of a destination's lanes writes whole (R262). -/
def Dest.places (base x : Nat) (mask : BitVec 32) (d : Dest) : List Nat :=
  match d with
  | .creg n => [locReg x n]
  | .pred k => [locP x k]
  | .qmask n => if mask = allLanes then [locQ x n] else []
  | .tile o =>
    (match (operandOf o).tile? with
    | some t => ((upTo 32 0).filter (bitOf mask)).map (fun i =>
        locLane (base + t) (laneRow (operandOf o) i).1 (laneRow (operandOf o) i).2)
    | none => [])
  | .ereg n => [locE x n]
  | .dreg n => [locD x n]
  | .sync n => [locY x n]
  | .dword _ _ | .push _ | .special _ | .flags => []

/-- One entry of the PWQ lands (R14, R15). Ports 6 to 9 of a core are `op0` to `op3`. -/
def State.land (s : State) (c x : Nat) (e : Pending) : State :=
  let s0 := (s.modCtx c x (fun t => (t.orFlags e.flg).overwrite e.dest e.mask)).modCore c (fun k =>
    k.mend (e.dest.places (k.ctx x).tileBase x e.mask))
  match e.dest with
  | .creg n => s0.modCtx c x (fun t => t.writeC n (e.val.extractLsb' 0 64))
  | .pred k => s0.modCtx c x (fun t => t.writePair k (bitOf e.val 0) (bitOf e.val 1))
  | .qmask n =>
    s0.modCtx c x (fun t =>
      if n = 0 then t
      else { t with q := t.q.set n ((t.readQ n &&& ~~~e.mask) ||| (e.val.extractLsb' 0 32 &&& e.mask)) })
  | .tile o => s0.modCore c (fun k => k.writeLine (k.ctx x).tileBase (operandOf o) e.val e.mask)
  | .push n => (s0.modCore c (fun k => k.pushPort (6 + n) e.val)).schedule s.cyc (.writePortWrite c n)
  | .ereg n => s0.modCtx c x (fun t => { t with e := t.e.set n (e.val.extractLsb' 0 256) })
  | .dreg n => s0.modCtx c x (fun t => { t with d := t.d.set n (BitVec.ofNat 512 (descrMask (fieldOf e.val 0 512))) })
  | .dword n w =>
    s0.modCtx c x (fun t =>
      { t with d := t.d.set n (putField (t.readD n) (64 * w) 64 (levelMask w (e.val.extractLsb' 0 64)).toNat) })
  | .special n =>
    if n < 0x20 then s0.modCtx c x (fun t => t.writeSpecial n (e.val.extractLsb' 0 64))
    else s0.writePriv c n (e.val.extractLsb' 0 64)
  | .sync n =>
    s0.modCtx c x (fun t =>
      { t with y := t.y.set n (e.val.extractLsb' 0 64),
               sg := t.sg.set n (BitVec.ofNat 16 (s.genOf c (e.val.extractLsb' 0 64))) })
  | .flags => s0

/-- An entry that is due at the boundary in front of the next bundle. -/
def Pending.due (e : Pending) : Bool := decide (e.rem ≤ 1)

def landAll (c x : Nat) : List Pending → State → State
  | [], s => s
  | e :: es, s => landAll c x es (s.land c x e)

/-- An entry of a queue with bad parity is consumed: a transient of its context, at its next boundary (Table 16.1). -/
def State.consumeQueue (s : State) (c x loc : Nat) : State :=
  if (s.core c).bad loc then
    (s.modCore c (fun k => k.mend [loc])).modCtx c x (fun t => { t with damage := t.damage ++ [(t.issued, loc)] })
  else s
/-- Errors that a command has consumed: transients of its context, found at its next boundary; those of a command of a run
that is being discarded are discarded with it (R22, R263, Table 16.1). -/
def Ctx.consumed (j : Cmd) (locs : List Nat) (v : Ctx) : Ctx :=
  if v.rewind.isSome && j.inSeg then v else { v with damage := v.damage ++ locs.map (fun l => (v.issued, l)) }
/-- The boundary in front of a bundle that commits: every count falls by one and the entries that reach 0 land, in the
order of their bundles. -/
def State.landDue (s : State) (c x : Nat) : State :=
  let q := (s.ctx c x).pwq
  let s0 := if q.any Pending.due then s.consumeQueue c x (locPwq x) else s
  let s1 := s0.modCtx c x (fun t =>
    { t with pwq := (q.filter (fun e => !e.due)).map (fun e => { e with rem := e.rem - 1 }) })
  landAll c x (q.filter Pending.due) s1

/-! ## The bundle being issued -/

/-- The context whose bundle is being issued, as this bundle sees it. -/
def State.me (s : State) : Ctx := s.ctx s.cur.core s.cur.ctx
/-- The core whose bundle is being issued. -/
def State.here (s : State) : Core := s.core s.cur.core
/-- The guard of a slot, read with the predicate values its bundle sees (R16, R72). -/
def State.guard (s : State) (g : BitVec 4) : Bool := s.me.pred g.toNat
/-- What a slot does when its bundle commits; nothing when its guard reads false (R72). -/
def State.emit (s : State) (g : BitVec 4) (es : List Effect) : State :=
  if s.guard g then
    { s with cur := { s.cur with effs := s.cur.effs ++ es.map (fun e => (s.cur.slot, e)) } }
  else s
/-- A slot of a bundle acts. -/
def slot (s : State) (g : BitVec 4) (es : List Effect) : Res := .next (s.emit g es)
/-- The pending result of a slot with a latency. -/
def result (d : Dest) (lat : Nat) (v : Line) (mask : BitVec 32) (flg : BitVec 5) : Effect :=
  .land { dest := d, val := v, mask := mask, rem := lat, flg := flg, mark := .clean, addr := 0 }
/-- A scalar result for a c register. -/
def scalarResult (n : Nat) (lat : Nat) (v : Word) : Effect := result (.creg n) lat (v.zeroExtend 1024) allLanes 0
/-- The predicate pair of a condition (R92). -/
def pairResult (k : Nat) (b : Bool) : Effect :=
  result (.pred k) 2 (BitVec.ofNat 1024 (b.toNat + 2 * (!b).toNat)) allLanes 0
/-- R2: a user context that uses privileged state. -/
def State.user (s : State) : Bool := decide (s.cur.ctx ≠ 4)

/-! ## Tokens and commands (R196, R197, R198) -/

def Input.settle (cmd : Nat) (status : BitVec 8) (addr cyc : Nat) : Input → Input
  | .await c => if c = cmd then .done status addr cyc else .await c
  | .done st a t => .done st a t
def Cmd.settle (cmd : Nat) (status : BitVec 8) (addr cyc : Nat) (k : Cmd) : Cmd :=
  { k with ins := k.ins.map (Input.settle cmd status addr cyc) }
def Token.settle (cmd : Nat) (status : BitVec 8) (addr cyc : Nat) (t : Token) : Token :=
  if t.pend ∧ t.cmd = cmd then { t with pend := false, status := status, addr := addr, since := cyc + 1 } else t
def settleTokens (cmd : Nat) (status : BitVec 8) (addr cyc : Nat) (m : FMap Token) : FMap Token :=
  m.map (fun e => (e.1, e.2.settle cmd status addr cyc))
def AccessKind.settle (cmd : Nat) (status : BitVec 8) (addr cyc : Nat) : AccessKind → AccessKind
  | .command k => .command (k.settle cmd status addr cyc)
  | .loadTile o => .loadTile o
  | .loadReg n => .loadReg n
  | .storeLine v => .storeLine v
  | .storeWord v => .storeWord v
  | .post w v => .post w v
  | .grow v => .grow v
  | .fence m s => .fence m s
  | .rel m s => .rel m s
  | .acq m => .acq m
def Effect.settle (cmd : Nat) (status : BitVec 8) (addr cyc : Nat) (e : Nat × Effect) : Nat × Effect :=
  match e.2 with
  | .command g k => (e.1, .command g (k.settle cmd status addr cyc))
  | _ => e
/-- A context as the completion of a command leaves it: its tokens, those of its checkpoint, and what its held, outbound
and kept commands await. -/
def Ctx.settle (cmd : Nat) (status : BitVec 8) (addr cyc : Nat) (x : Ctx) : Ctx :=
  { x with
    tok := settleTokens cmd status addr cyc x.tok,
    ckpt := x.ckpt.map (fun k => { k with tok := settleTokens cmd status addr cyc k.tok }),
    srq := x.srq.map (fun h => { h with kind := h.kind.settle cmd status addr cyc }),
    releasing := x.releasing.map (fun h => { h with kind := h.kind.settle cmd status addr cyc }),
    kept := x.kept.map (Effect.settle cmd status addr cyc),
    out := x.out.map (fun h => { h with kind := h.kind.settle cmd status addr cyc }) }
/-- A command completes in a cycle with a status: every token and command of the core that awaits it sees it, the
tiles it holds are free from the next cycle, and the ports it was lent return. -/
def Core.settle (cmd : Nat) (status : BitVec 8) (addr cyc : Nat) (k : Core) : Core :=
  { k with
    ctxs := k.ctxs.map (fun e => (e.1, e.2.settle cmd status addr cyc)),
    loadQ := k.loadQ.map (Cmd.settle cmd status addr cyc),
    runQ := k.runQ.map (Cmd.settle cmd status addr cyc),
    ppeQ := k.ppeQ.map (Cmd.settle cmd status addr cyc),
    copyQ := k.copyQ.map (Cmd.settle cmd status addr cyc),
    chans := k.chans.map (fun e => (e.1, { e.2 with cmd := e.2.cmd.settle cmd status addr cyc })),
    scaQ := k.scaQ.map (Cmd.settle cmd status addr cyc),
    joins := k.joins.map (Cmd.settle cmd status addr cyc),
    tileBusy := k.tileBusy.map (fun e => if e.cmd = cmd ∧ e.clear = 0 then { e with clear := cyc + 1 } else e),
    ports := k.ports.map (fun e => (e.1, if e.2.lent = some cmd then { e.2 with lent := none, freeFrom := cyc + 1 } else e.2)) }
/-- A command that completes in a cycle: issue still sees it in that cycle (R101). -/
def Core.noteEnded (k : Core) (j : Cmd) (cyc : Nat) : Core :=
  { k with ended := k.ended.filter (fun e => decide (e.2 = cyc)) ++ [(j, cyc)] }
/-- Commands that completed in this cycle. -/
def Core.endedNow (k : Core) (cyc : Nat) : List Cmd :=
  (k.ended.filter (fun e => decide (e.2 = cyc))).map (fun e => e.1)
/-- What a token field of a command consumes. -/
def Ctx.input (x : Ctx) (k : Nat) : Input :=
  if k = 0 then .done 0 0 0
  else
    let t := x.token k
    if t.pend then .await t.cmd else .done t.status t.addr (t.since - 1)
/-- Whether every consumed token has completed, and the first status in the order KA, KB, KC (R197). -/
def inputsDone : List Input → Bool
  | [] => true
  | .await _ :: _ => false
  | .done _ _ _ :: is => inputsDone is
def inputStatus : List Input → BitVec 8 × Nat
  | [] => (0, 0)
  | .await _ :: is => inputStatus is
  | .done st a _ :: is => if st ≠ 0 then (st, a) else inputStatus is
/-- The cycle in which the last consumed token completed. -/
def inputsCycle : List Input → Nat
  | [] => 0
  | .await _ :: is => inputsCycle is
  | .done _ _ t :: is => Nat.max t (inputsCycle is)
/-- A command makes its KO pending at commit (R196). -/
def Ctx.produce (x : Ctx) (ko cmd : Nat) : Ctx :=
  if ko = 0 then x
  else { x with tok := x.tok.set ko { pend := true, status := 0, addr := 0, since := 0, cmd := cmd } }

/-! ## Taking a trap (R249 to R254) -/

/-- Table 15.2: TRAPINFO of a trap. -/
def TrapRecord.info (t : TrapRecord) : Word :=
  BitVec.ofNat 64 (t.cause.code.toNat + t.ctx * 2 ^ 8 + t.status.toNat * 2 ^ 16 + t.more.toNat * 2 ^ 24 +
    t.async.toNat * 2 ^ 25)
/-- The lines of a context's snapshot record: 29 and one for each PWQ entry (R254). -/
def recordLines (x : Ctx) : Nat := 29 + x.pwq.length
/-- The cycle in which the last of `n` accesses of a streaming agent to one bank ends, one every 4 cycles from `c`,
each waiting for refresh (R61, R254, R255). -/
def Core.streamRunFrom (k : Core) (b : Nat) : Nat → Nat → Nat
  | 0, c => c
  | n + 1, c =>
    match k.refreshEnd b c 4 with
    | some e => Core.streamRunFrom k b n (e + 4)
    | none => Core.streamRunFrom k b n (c + 4)
/-- The same once the busy window that is open has ended (R49). -/
def Core.streamRun (k : Core) (b n c : Nat) : Nat := k.streamRunFrom b n (Nat.max c (k.bank b).busyUntil)
/-- The bank of a context's snapshot record. -/
def Core.recordBank (k : Core) (x : Nat) : Nat := snapBank k.snap + x
/-- Whether a context still has global loads or a CLAIM on the way, which a record waits for (R253).
Log entry 12 (DEDUCED). -/
def Ctx.unanswered (x : Ctx) : Bool :=
  x.claimWait.isSome || x.out.any (fun a =>
    match a.kind with
    | .loadTile _ | .loadReg _ => true
    | .storeLine _ | .storeWord _ | .post _ _ | .grow _ | .command _ | .fence _ _ | .rel _ _ | .acq _ => false)
/-- The record writer takes the bank from the next cycle on; the record is complete, and the trap enters the queue, when
the last busy window has ended (R254).
Log entry 12 (DEDUCED). -/
def State.startRecord (s : State) (c x : Nat) : State :=
  let k := s.core c
  let b := k.recordBank x
  let stop := k.streamRun b (recordLines (k.ctx x)) (s.cyc + 1)
  ((s.setCore c (k.setBank b { k.bank b with busyUntil := Nat.max (k.bank b).busyUntil stop })).modCtx c x (fun v =>
    { v with trapRdv := v.arrival })).schedule stop (.snapshotRecordWrite c x)
/-- The positions of the ports a context holds. -/
def Core.portPositions (k : Core) (x : Nat) : List PortPos :=
  (k.ports.filter (fun e => decide (e.2.holder = some x))).map (fun e =>
    { port := e.1, pos := e.2.pos, moved := e.2.moved, done := e.2.done, fault := e.2.fault, faultAt := e.2.faultAt })
/-- Taking a trap: the context is no longer ready, its trap waits for the record (R251). A trap of context 4 is a
supervisor fault (R247). The debug-resume bit is set by a DBG trap (R270).
Log entry 19 (DEDUCED). -/
def State.takeTrap (s : State) (c x : Nat) (t : TrapRecord) : State :=
  let s1 := s.modCtx c x (fun v =>
    { v with status := .trapped t, waitOn := none, dbgPass := v.dbgPass || decide (t.cause = .dbg),
             trapTok := v.tok, trapPorts := (s.core c).portPositions x })
  if x = 4 then s1.scheduleFree (.supervisorFault c)
  else if (s1.ctx c x).unanswered then s1
  else s1.startRecord c x
/-- A global load or a CLAIM of a trapped context has been answered: the record can be written once all have. -/
def State.afterAnswer (s : State) (c x : Nat) : State :=
  match (s.ctx c x).status with
  | .trapped _ => if (s.ctx c x).unanswered then s else s.startRecord c x
  | .free | .running | .queued | .current | .parked | .restoring | .retiring _ => s
/-- WAITI loads a trap: TRAPINFO, TPC, TSLOT, TVAL and SNAP.CTX take its values (R252). -/
def Core.loadTrap (k : Core) (t : TrapRecord) : Core :=
  let k1 := k.setCtx t.ctx { k.ctx t.ctx with status := .current }
  { k1 with trapinfo := t.info, tpc := BitVec.ofNat 64 t.tpc,
            tslot := BitVec.ofNat 64 (t.faultMask.toNat + t.doneMask.toNat * 2 ^ 8), tval := t.tval,
            snap := putField k.snap 24 3 t.ctx }
/-- WAITI loads a message (R252). -/
def Core.loadMessage (k : Core) (m : Word) : Core :=
  { k with trapinfo := 0x400_0000, tpc := 0, tslot := 0, tval := m }

/-! ## The record written, and the return from a trap (R254, R255) -/

/-- The flat line of line `i` of a context's record. -/
def Core.recordFlat (k : Core) (x i : Nat) : Nat := k.recordBank x * Config.bankLines + snapLine k.snap + i
/-- Lines `i` and later of a record written, `n` of them. -/
def State.writeLines (c : Nat) (flat : Nat) (line : Nat → Line) : Nat → Nat → State → State
  | 0, _, s => s
  | n + 1, i, s => State.writeLines c flat line n (i + 1) (s.writeFlat c (flat + i) (line i))
/-- The record of a trapped context in its bank (R253). -/
def State.writeRecord (s : State) (c x : Nat) (t : TrapRecord) : State :=
  let k := s.core c
  let v := k.ctx x
  State.writeLines c (k.recordFlat x 0) (recordLine v k.ports t.faultMask t.doneMask) (recordLines v) 0 s
/-- Line `i` of a context's record. -/
def State.recordAt (s : State) (c x i : Nat) : Line := s.readFlat c ((s.core c).recordFlat x i)
/-- The number of lines `TRET` reads: 29 and PWQN. -/
def State.recordLength (s : State) (c x : Nat) : Nat := 29 + fieldOf (s.recordAt c x 0) 80 8
/-- The registers and the PWQ of a context written anew hold good parity (Table 16.1). -/
def Core.mendRegs (k : Core) (x : Nat) : Core :=
  { k with parity := k.parity.filter (fun l =>
      !decide (locReg x 0 ≤ l ∧ l < locReg (x + 1) 0 ∨ locP x 0 ≤ l ∧ l ≤ locPwq x)) }
/-- The ports a context holds. -/
def Core.portsHeld (k : Core) (x : Nat) : List Nat := (upTo 10 0).filter (fun n => decide ((k.port n).holder = some x))
/-- The return from a trap (R255): the context takes its registers, tokens, PWQ and port positions from its record; it
is ready again in the cycle after the last line has arrived. ABORT retires it, REWIND runs its segment again with a
fresh budget: as for every rewind, its arrival is given up and its trace is disarmed (R22, R272). -/
def State.resume (s : State) (c x : Nat) : State :=
  let k := s.core c
  let line := s.recordAt c x
  let h := line 0
  let current := decide ((k.ctx x).status = .current)
  let k1 := if current then k.clearTrap else k
  if bitOf h 50 then
    let v := k1.ctx x
    s.setCore c (k1.setCtx x
      { v with status := .retiring true, srq := [], kept := [], dbgPass := false })
  else
    let b := k.recordBank x
    let stop := k.streamRun b (s.recordLength c x) (s.cyc + 1)
    let v := (k1.ctx x).restore line s.cyc
    let v1 := if bitOf h 49 then
        { v with
               rewind := some { detected := s.cyc, settled := some s.cyc, fresh := true },
               dbgPass := false, kept := [], arrival := none, waitOn := none, yielded := none, damage := [],
               events := { v.events with residue := false, buffer := none, uncr := none },
               stall := { armed := false, kind := 0, cycles := 0 } }
      else v
    let k2 := (((k1.setCtx x { v1 with status := .restoring }).setBank b
      { k1.bank b with busyUntil := Nat.max (k1.bank b).busyUntil stop }).mendRegs x).mend ((k1.portsHeld x).map locPort)
    let k3 := { k2 with ports := k2.ports.map (fun e => (e.1, restorePort line { v with trapPorts := (k.ctx x).trapPorts } x e.1 e.2)) }
    (upTo 6 0).foldl (fun t n => if (k3.port n).holder = some x then t.schedule t.cyc (.readPortFetch c n) else t)
      ((s.setCore c k3).schedule (stop + 3) (.contextRestoreDone c x))

end Sys2Proof.Machine
end

