-- ==== Sys2Proof/Machine/Operands.lean ====
section
/-!
DEFINITION. Operands: what a slot reads and writes, with the checks and waits that each form of operand brings
(R75, R76, R83, R103, R118, R119, R135, R140, R143, R164).
-/
namespace Sys2Proof.Machine

/-! ## Commands that what the SRQ holds keeps back (R21) -/

/-- The stationary buffer of a matrix command, its runs, and its loads (R151). -/
def bufferNo (c : Cmd) : Nat := fieldOf c.f.f 0 1
def isRun (c : Cmd) : Bool := decide (c.op = 0x04 ∨ c.op = 0x05)
def isBufferLoad (c : Cmd) : Bool := decide (c.op = 0x01 ∨ c.op = 0x02 ∨ c.op = 0x03)
/-- A command awaits one of these commands. -/
def Cmd.awaits (ids : List Nat) (j : Cmd) : Bool :=
  j.ins.any (fun i => match i with | .await n => ids.contains n | .done _ _ _ => false)
/-- The commands that a context's SRQ holds. -/
def Ctx.heldCommands (v : Ctx) : List Nat :=
  v.srq.filterMap (fun h =>
    match h.kind with
    | .command j => some j.id
    | .loadTile _ | .loadReg _ | .storeLine _ | .storeWord _ | .post _ _ | .grow _ | .fence _ _ | .rel _ _ | .acq _ => none)
/-- A run follows the earlier loads of its buffer, a load its earlier runs (R163): one of these commands is such. -/
def Core.followsOne (k : Core) (ids : List Nat) (j : Cmd) : Bool :=
  let earlier (d : Cmd) : Bool := ids.contains d.id && decide (bufferNo d = bufferNo j ∧ d.id < j.id)
  (isRun j && k.loadQ.any earlier) || (isBufferLoad j && k.runQ.any (fun d => isRun d && earlier d))
/-- The queued commands of a core that one of these commands keeps back: they await its token, stand behind it in the
queue of their engine, or follow it on their buffer. -/
def Core.keptBack (k : Core) (ids : List Nat) : List Nat :=
  (((k.loadQ ++ k.runQ ++ k.ppeQ ++ k.joins).filter (fun j => j.awaits ids || k.followsOne ids j)) ++
    [k.loadQ, k.runQ, k.ppeQ].flatMap (List.dropWhile (fun j => !ids.contains j.id))).map (fun j => j.id)
/-- The same through others, `n` rounds. -/
def Core.keptBackBy (k : Core) : Nat → List Nat → List Nat
  | 0, ids => ids
  | n + 1, ids =>
    match (k.keptBack ids).filter (fun i => !ids.contains i) with
    | [] => ids
    | more => Core.keptBackBy k n (ids ++ more)
/-- The commands that cannot complete before a context's SRQ is released: those it holds, the KSIGs that cover an entry
of it, and what these keep back. -/
def Core.stuck (k : Core) (x : Nat) : List Nat :=
  let v := k.ctx x
  if v.srq.isEmpty then []
  else
    k.keptBackBy (k.loadQ ++ k.runQ ++ k.ppeQ ++ k.joins).length
      (v.heldCommands ++ (k.joins.filter (fun j =>
        decide (j.ctx = x) && v.srq.any (fun h => j.covers.contains h.num))).map (fun j => j.id))
/-- R21: a context never waits on an effect that its own SRQ still holds. A wait for one of these commands makes an
implicit boundary when none of them can complete without the release.
Log entry 71 (DEDUCED). -/
def releaseFor (s : State) (ids : List Nat) : List Effect :=
  if ids.any (s.here.stuck s.cur.ctx).contains then [.implicit] else []

/-! ## Tile lines -/

/-- Two tile lines that share an element (R82, R140): the same line, or lines of one tile in different directions. -/
def Operand.overlaps : Operand → Operand → Bool
  | .row t i, .row u j => decide (t = u ∧ i = j)
  | .col t i, .col u j => decide (t = u ∧ i = j)
  | .diag t i, .diag u j => decide (t = u ∧ i = j)
  | .row t _, .col u _ | .row t _, .diag u _ | .col t _, .row u _ | .col t _, .diag u _ | .diag t _, .row u _
  | .diag t _, .col u _ => decide (t = u)
  | .row _ _, .zero | .row _ _, .bc | .row _ _, .ip _ | .row _ _, .op _ | .row _ _, .bad => false
  | .col _ _, .zero | .col _ _, .bc | .col _ _, .ip _ | .col _ _, .op _ | .col _ _, .bad => false
  | .diag _ _, .zero | .diag _ _, .bc | .diag _ _, .ip _ | .diag _ _, .op _ | .diag _ _, .bad => false
  | .zero, _ | .bc, _ | .ip _, _ | .op _, _ | .bad, _ => false
/-- A busy entry that issue still sees in a cycle. -/
def heldAt (clear cyc : Nat) : Bool := decide (clear = 0 ∨ cyc < clear)
/-- An engine holds a tile busy (R164). -/
def Core.tileHeld (k : Core) (t cyc : Nat) : Bool := k.tileBusy.any (fun e => decide (e.tile = t) && heldAt e.clear cyc)
/-- The destination line of a global load is still awaited (R140). -/
def Ctx.lineHeld (x : Ctx) (o : Operand) (cyc : Nat) : Bool :=
  x.busyLines.any (fun e => heldAt e.2 cyc && (operandOf e.1).overlaps o)
/-- The commands that hold a tile busy. -/
def Core.tileHolders (k : Core) (t cyc : Nat) : List Nat :=
  (k.tileBusy.filter (fun e => decide (e.tile = t) && heldAt e.clear cyc)).map (fun e => e.cmd)
def Ctx.regHeld (x : Ctx) (n cyc : Nat) : Bool := x.busyRegs.any (fun e => decide (e.1 = n) && heldAt e.2 cyc)
/-- TILE, and the waits of a line that an engine or a global load holds busy (R12, R75). -/
def tileChecks (s : State) (v : BitVec 14) : List Effect :=
  match (operandOf v).tile? with
  | none => []
  | some t =>
    (if t < s.me.tileCount then [] else [.trap .tile (BitVec.ofNat 64 t)]) ++
    (if s.here.tileHeld (s.me.tileBase + t) s.cyc ∨ s.me.lineHeld (operandOf v) s.cyc then
      releaseFor s (s.here.tileHolders (s.me.tileBase + t) s.cyc) ++ [.wait 3 none] else [])
/-- The rows of a tile in which a line of it meets a lane with bad parity, in a block of tiles that begins at `base`. -/
def Core.hurtRows (k : Core) (base : Nat) : Operand → List Nat
  | .row t n => if k.rowHurt (base + t) n then [n] else []
  | .col t n => (upTo 32 0).filter (fun r => k.bad (locLane (base + t) r n))
  | .diag t n => (upTo 32 0).filter (fun r => k.bad (locLane (base + t) r ((r + n) % 32)))
  | .zero | .bc | .ip _ | .op _ | .bad => []
/-- A tile row with bad parity that a slot reads is consumed as a transient (Table 16.1); so is the line of a global
load that returned with an error, at its first read (R140). -/
def tileDamage (s : State) (v : BitVec 14) : List Effect :=
  match (operandOf v).tile? with
  | none => []
  | some t =>
    (s.here.hurtRows s.me.tileBase (operandOf v)).map (fun r => Effect.damaged 0 (locTile (s.me.tileBase + t) r))
/-- The value of a tile line. -/
def tileValue (s : State) (v : BitVec 14) : Line := s.here.readLine s.me.tileBase (operandOf v)

/-! ## Ports as operands -/

def ipCode (n : Nat) : Word := BitVec.ofNat 64 (0x3010 + n)
def opCode (n : Nat) : Word := BitVec.ofNat 64 (0x3020 + n)
/-- A port held by nobody, or by another context than a user context that names it (R143).
Log entry 70 (DEDUCED). -/
def portRefused (s : State) (p : Port) : Bool :=
  match p.holder with
  | none => true
  | some h => s.user && decide (h ≠ s.cur.ctx)
/-- Table 10.8's status code as a trap cause, for a port's fault. -/
def faultTrap (f : Cause × Nat) : Effect := .trap f.1 (BitVec.ofNat 64 f.2)
/-- A port lent to an engine command, as issue sees it (R101, R160). -/
def Port.away (p : Port) (cyc : Nat) : Bool := p.lent.isSome || decide (cyc < p.freeFrom)
/-- The code of a port: 0 to 5 read ports, 6 to 9 write ports (Table 15.4). -/
def portNumber (n : Nat) : Nat := if n < 6 then 0x3010 + n else 0x3020 + (n - 6)
/-- A port lent to an engine command is waited for, under the watchdog of R29 (R160, R226). -/
def lentWait (s : State) (n : Nat) : List Effect :=
  releaseFor s (s.here.port n).lent.toList ++ [.wait 4 (some (.port (portNumber n)))]
/-- The same for the ports a command names. -/
def lentWaits (s : State) (ports : List Nat) : List Effect :=
  ports.flatMap (fun n => if (s.here.port n).away s.cyc then lentWait s n else [])
/-- The fault at which a read port has delivered every line before it (R66). -/
def Port.stopped (p : Port) : Option (Cause × Nat) := if p.coming.isEmpty then p.fault else none
/-- Popping a read port: refused, faulting, empty, lent or ready (R29, R63, R66, R143, R160).
Log entry 32 (DEDUCED). -/
def popChecks (s : State) (n : Nat) : List Effect :=
  let p := s.here.port n
  if portRefused s p then [.trap .ill (ipCode n)]
  else if p.away s.cyc then lentWait s n
  else
    match p.fifo with
    | [] => (match p.stopped with | some f => [faultTrap f] | none => [.wait 4 (some (.port (0x3010 + n)))])
    | _ :: _ => (if s.here.bad (locPort n) then [.damaged 0 (locPort n)] else []) ++ [.pop n]
def popValue (s : State) (n : Nat) : Line :=
  match (s.here.port n).fifo with
  | [] => 0
  | l :: _ => l.val

/-! ## Descriptors (R64, Tables 3.6 and 3.7) -/

def Descr.base (d : Descr) : Nat := fieldOf d 0 64
def Descr.aux (d : Descr) : Nat := fieldOf d 64 64
def Descr.count (d : Descr) (l : Nat) : Nat := fieldOf d (128 + 64 * l) 16
def Descr.stride (d : Descr) (l : Nat) : Int := signedOf 32 (fieldOf d (128 + 64 * l + 16) 32)
def Descr.glb (d : Descr) : Bool := bitOf d 191
def Descr.fmt (d : Descr) : Nat := fieldOf d 188 3
def Descr.exp (d : Descr) : Bool := bitOf d 187
def Descr.scl (d : Descr) : Bool := bitOf d 186
def Descr.kend (d : Descr) : Nat := fieldOf d 181 5
def Descr.engopt (d : Descr) : Nat := fieldOf d 176 5
/-- R64: the COUNT product of the used levels; 0 when no level is used. -/
def Descr.product (d : Descr) : Nat :=
  let cs := ((upTo 6 0).map (Descr.count d)).filter (fun c => c != 0)
  if cs.isEmpty then 0 else cs.foldl (· * ·) 1
/-- The displacement of iteration `i` over levels `l` and up, `n` of them, level 0 fastest. -/
def walkFrom (d : Descr) : Nat → Nat → Nat → Int
  | 0, _, _ => 0
  | n + 1, l, i =>
    let c := Nat.max (Descr.count d l) 1
    (i % c : Nat) * (if Descr.count d l = 0 then 0 else Descr.stride d l) + walkFrom d n (l + 1) (i / c)
/-- The address of iteration `i`: BASE + Σ i_l·STRIDE_l, in lines for scratchpad (BASE[21:0]) and bytes for global. -/
def Descr.flatAt (d : Descr) (i : Nat) : Int := (fieldOf d 0 22 : Nat) + walkFrom d 6 0 i
def Descr.vaAt (d : Descr) (i : Nat) : Int := (Descr.base d : Int) + walkFrom d 6 0 i

/-! ## Destinations of V slots -/

/-- Whether a streaming agent of an owner KIND and INDEX owns a bank. -/
def Bank.ownerIs (b : Bank) (kind index : Nat) : Bool :=
  decide (fieldOf b.owner 12 4 = kind ∧ fieldOf b.owner 8 4 = index)
/-- R3, R52, R66, R144: what stops a port's access to a flat line. A bank that the holder's L slots own and that has not
been handed to the port is waited for; one that has been taken from the port stops it.
Log entry 32 (DEDUCED). -/
inductive PortAccess where
  | ready
  | waits
  | faults (c : Cause)
  deriving DecidableEq, Repr
def Core.portAccess (k : Core) (kind index : Nat) (holder : Option Nat) (flat : Int) : PortAccess :=
  if !inScratch flat then .faults .brange
  else
    let b := k.bank (bankOf flat.toNat)
    match holder with
    | none => .faults .bown
    | some h =>
      if b.ownerIs kind index ∧ k.reaches h b then (if b.shadowed flat.toNat then .faults .shad else .ready)
      else if k.owns h (bankOf flat.toNat) ∧ bankOf flat.toNat ∉ (k.port (if kind = 2 then index else 6 + index)).taken then .waits
      else .faults .bown
/-- Pushing a write port: refused, faulting, full or ready (R63, R66, R119, R143, R160). A push that finds its line
unwritable stops the port there; one beyond the last line waits as on a full port (log entry 63).
Log entry 32 (DEDUCED). -/
def pushChecks (s : State) (n : Nat) : List Effect :=
  let p := s.here.port (6 + n)
  if portRefused s p then [.trap .ill (opCode n)]
  else if p.away s.cyc then lentWait s (6 + n)
  else
    match p.fault with
    | some f => [faultTrap f]
    | none =>
      let i := p.pos + p.reserved
      if Descr.product p.cfg ≤ i ∨ 16 ≤ p.fifo.length + p.reserved then [.wait 4 (some (.port (0x3020 + n)))]
      else
        match s.here.portAccess 3 n p.holder (Descr.flatAt p.cfg i) with
        | .faults c => [.trap c (BitVec.ofInt 64 (Descr.flatAt p.cfg i)), .portFault (6 + n) c (Descr.flatAt p.cfg i)]
        | .ready | .waits => [.reserve n]
/-- A V-slot result: a tile line takes the written lanes, a write port a whole line with +0 elsewhere, `zero` only the
flags (R119). -/
def lineResult (s : State) (d : BitVec 14) (lat : Nat) (v : Line) (mask : BitVec 32) (flg : BitVec 5) : List Effect :=
  match operandOf d with
  | .row _ _ | .col _ _ | .diag _ _ => tileChecks s d ++ [result (.tile d) lat v mask flg]
  | .op n => pushChecks s n ++ [result (.push n) lat (mergeLanes mask 0 v) allLanes flg]
  | .zero => [result .flags lat 0 0 flg]
  | .bc | .ip _ | .bad => []

/-- The value of a V source. -/
def lineValue (s : State) (v : BitVec 14) : Line :=
  match operandOf v with
  | .row _ _ | .col _ _ | .diag _ _ => tileValue s v
  | .bc => s.cur.bc
  | .ip n => popValue s n
  | .zero | .op _ | .bad => 0
/-- The checks and waits of a V source. -/
def lineChecks (s : State) (v : BitVec 14) : List Effect :=
  match operandOf v with
  | .row _ _ | .col _ _ | .diag _ _ => tileChecks s v ++ tileDamage s v
  | .ip n => popChecks s n
  | .zero | .bc | .op _ | .bad => []

/-! ## Scratchpad targets of L slots (R135) -/

/-- The flat address a slot names by immediate. -/
def immFlat (f : LSlot) : Nat := f.bank.toNat * Config.bankLines + f.line.toNat
/-- The flat address of LDX and STX: c[C] is signed and the sum exact. -/
def regFlat (s : State) (f : LSlot) : Int := (immFlat f : Int) + (s.me.readC f.c.toNat).toInt
/-- BRANGE with the address (R47, R135). -/
def brange (flat : Int) : List Effect := if inScratch flat then [] else [.trap .brange (BitVec.ofInt 64 flat)]
def flatWord (flat : Nat) : Word := BitVec.ofNat 64 flat
def ownerCheck (s : State) (flat : Nat) : List Effect :=
  if s.here.owns s.cur.ctx (bankOf flat) then [] else [.trap .bown (flatWord flat)]
def shadowCheck (s : State) (flat : Nat) : List Effect :=
  if (s.here.bank (bankOf flat)).shadowed flat then [.trap .shad (flatWord flat)] else []
def busyCheck (s : State) (flat : Nat) : List Effect :=
  if (s.here.bank (bankOf flat)).busyAt s.cyc then [.trap .bank (flatWord flat)] else []
def refreshWait (s : State) (flat w : Nat) : List Effect :=
  if (s.here.refreshEnd (bankOf flat) s.cyc w).isSome then [.wait 6 none] else []
/-- A line access by an L slot: owner, shadow, busy window, refresh (R135). -/
def lineAccess (s : State) (flat : Nat) (write : Bool) : List Effect :=
  ownerCheck s flat ++ shadowCheck s flat ++ busyCheck s flat ++ refreshWait s flat (busyTime flat) ++
    [.access flat write (busyTime flat)]
/-- INJ arms a double flip in the next read of this line (R275, KIND 10). -/
def Core.injHits (k : Core) (flat : Nat) : Bool :=
  bitOf k.inj 2 && decide (fieldOf k.inj 0 2 = 2 ∧ fieldOf k.inj 16 22 = flat)
/-- The codewords a double flip damages. -/
def Core.injWords (k : Core) : BitVec 8 := BitVec.ofNat 8 (2 ^ (fieldOf k.inj 38 10 / 128))
/-- The mark a read of a line by an agent of its core meets; a line with an uncorrectable error is met as such, POISON or
not (log entry 49). -/
def State.readMark (s : State) (c flat : Nat) : Mark :=
  let m := s.markOf (spAddr c flat)
  if (s.core c).injHits flat ∧ bitOf (s.core c).inj 48 then
    (match m with
    | .clean | .group | .poison => .uncorrectable (s.core c).injWords
    | .uncorrectable w => .uncorrectable (w ||| (s.core c).injWords))
  else m
/-- ARMED reads 0 after an injection that does not repeat. -/
def Core.disarm (k : Core) : Core := if bitOf k.inj 3 then k else { k with inj := k.inj &&& ~~~(4 : Word) }
/-- An error met in a line: counted as corrected or as uncorrectable (R264). -/
def Core.countError (k : Core) (corrected : Bool) : Core :=
  if corrected then { k with corrected := k.corrected + 1 } else { k with uncorrectable := k.uncorrectable + 1 }
/-- After the read the injection has fired: the damage is stored, ARMED reads 0 unless REPEAT, and a single flip is
counted as corrected (R264, R275); a double flip is counted where it is met.
Log entry 49 (DEDUCED). -/
def State.firedRead (s : State) (c flat : Nat) : State :=
  if (s.core c).injHits flat then
    let m := s.readMark c flat
    let s1 := s.setMark (spAddr c flat) m
    s1.modCore c (fun k => (if bitOf k.inj 48 then k else k.countError true).disarm)
  else s
/-- Lines `n` from `src` copied to `dst` inside a core's scratchpad (R55, R56), marks with them. -/
def State.copyLines (c src dst : Nat) : Nat → State → State
  | 0, s => s
  | n + 1, s =>
    let s0 := s.firedRead c src
    let s1 := (s0.storeLine (spAddr c dst) (s0.readFlat c src)).setMark (spAddr c dst) (s0.markOf (spAddr c src))
    State.copyLines c (src + 1) (dst + 1) n s1
/-- A row copied to another row of its bank. -/
def State.copyRow (s : State) (c bank src dst : Nat) : State :=
  State.copyLines c (bank * Config.bankLines + 8 * src) (bank * Config.bankLines + 8 * dst) 8 s
/-- The load of a line into a destination, with the mark it meets (R136, R137, R219). -/
def loadResult (s : State) (flat : Nat) (d : Dest) (lat : Nat) (v : Line) : Effect :=
  let m := match s.readMark s.cur.core flat with
    | .clean | .group => Mark.clean
    | .poison => .poison
    | .uncorrectable w => .uncorrectable w
  .land { dest := d, val := v, mask := allLanes, rem := lat, flg := 0, mark := m, addr := flat }

end Sys2Proof.Machine
end

