-- ==== Sys2Proof/Machine/Translate.lean ====
section
/-!
DEFINITION. Virtual addresses (R287 to R291), where a physical address lies, peer windows as targets (R295), the
scratchpad aperture (R205), and memory as a core of a cluster sees it (R231, R232).
-/
namespace Sys2Proof.Machine

/-! ## Physical addresses of the model (log entry 6) -/

/-- The model's number for an offset of a peer window.
Log entry 6 (DESIGN CHOICE). -/
def winBase : Nat := 2 ^ 70
def winAddr (w off : Nat) : Nat := winBase + w * 2 ^ 53 + off
def winOf (pa : Nat) : Nat := (pa - winBase) / 2 ^ 53
def winOffset (pa : Nat) : Nat := (pa - winBase) % 2 ^ 53

/-- Where an access lands. -/
inductive Place where
  | hbm
  | host
  | scratch (core : Nat)
  | window (w : Nat)
  deriving DecidableEq, Repr
def placeOf (pa : Nat) : Place :=
  if winBase ≤ pa then .window (winOf pa)
  else if Config.spBase ≤ pa then .scratch ((pa - Config.spBase) / 2 ^ 29)
  else if Config.hostBase ≤ pa then .host
  else .hbm
/-- The flat line of a scratchpad address. -/
def flatOf (pa : Nat) : Nat := (pa - Config.spBase) % 2 ^ 29 / 128

/-! ## Page tables (R288, Tables 17.6 and 17.7) -/

def entryAddr (e : Word) : Nat := fieldOf e 12 40 * 2 ^ 12
def entryWin (e : Word) : Nat := fieldOf e 52 6
def entryTgt (e : Word) : Nat := fieldOf e 6 2
def entryC64 (e : Word) : Bool := bitOf e 5
/-- Bytes of the page of a leaf at a level. -/
def leafSize (e : Word) (level : Nat) : Nat := if level = 0 ∧ entryC64 e then 2 ^ 16 else 2 ^ (12 + 9 * level)
/-- A leaf that Table 17.7 allows at its level and position.
Log entry 31 (DEDUCED). -/
def leafOk (e : Word) (va level : Nat) : Bool :=
  decide (level < 3) && (decide (entryTgt e ≠ 3) && ((decide (entryWin e = 0) || decide (entryTgt e = 2)) &&
    ((!entryC64 e || decide (level = 0 ∧ natField (entryAddr e) 12 4 = natField va 12 4)) &&
    (decide (entryAddr e % 2 ^ (12 + 9 * level) = 0) && (decide (entryTgt e ≠ 0) || decide (entryAddr e < Config.hbmBytes))))))
/-- An entry that leads to the next table.
Log entry 31 (DEDUCED). -/
def tableOk (e : Word) (level : Nat) : Bool :=
  decide (level ≠ 0 ∧ entryTgt e = 0 ∧ entryWin e = 0 ∧ entryAddr e < Config.hbmBytes) && !entryC64 e
/-- The walk from a table down: the page's first address, its size and its leaf, or a fault. The first argument is one
more than the level.
Log entry 31 (DEDUCED). -/
def walkTables (m : Memory) : Nat → Nat → Nat → Option (Nat × Nat × Word)
  | 0, _, _ => none
  | level + 1, table, va =>
    let e := BitVec.ofNat 64 (m.load (table + 8 * natField va (12 + 9 * level) (if level = 3 then 18 else 9)) 8)
    if !bitOf e 0 || decide (fieldOf e 58 6 ≠ 0 ∨ fieldOf e 8 4 ≠ 0) || bitOf e 4 then none
    else if bitOf e 1 then
      (if leafOk e va level then some (va - va % leafSize e level, leafSize e level, e) else none)
    else if tableOk e level then walkTables m level (entryAddr e) va
    else none
/-- The physical address a leaf gives.
Log entry 6 (DESIGN CHOICE). -/
def leafPa (size : Nat) (e : Word) (va : Nat) : Nat :=
  let a := entryAddr e - entryAddr e % size + va % size
  if entryTgt e = 0 then a else if entryTgt e = 1 then Config.hostBase + a else winAddr (entryWin e) a
def leafPermits (e : Word) (read write : Bool) : Bool := (!read || bitOf e 2) && (!write || bitOf e 3)

/-! ## Peer windows (R294, R295, Table 17.12) -/

def Window.stateNo (w : Window) : Nat := fieldOf w.word0 0 2
def Window.dir (w : Window) : Bool := bitOf w.word0 2
def Window.partw (w : Window) : Nat := fieldOf w.word0 8 3
def Window.peer (w : Window) : Nat := fieldOf w.word0 32 16
/-- An outbound access the window does not allow faults with XLAT. -/
def Window.refuses (w : Window) (part off len : Nat) (read write atomic : Bool) : Bool :=
  decide (w.stateNo = 0) || w.dir || decide (w.partw ≠ part) || (read && !bitOf w.word0 3) ||
    (write && !bitOf w.word0 4) || (atomic && !bitOf w.word0 5) || decide (w.size.toNat < off + len)
/-- STATE, LANES, COST and PEER of a link (Table 19.9). -/
def Link.stateNo (l : Link) : Nat := fieldOf l.word 0 2
def Link.lanes (l : Link) : Nat := fieldOf l.word 8 4
def Link.peer (l : Link) : Nat := fieldOf l.word 32 16
def Link.cost (l : Link) : Nat := fieldOf l.word 16 16
/-- The routing tables reach a device over a link. -/
def Link.reaches (l : Link) (peer : Nat) : Bool := decide (l.peer = peer) || l.reach.contains peer
/-- A route to a peer remains: a link over which it is reached is not down (R313).
Log entry 50 (DESIGN CHOICE). -/
def State.routedTo (s : State) (peer : Nat) : Bool :=
  (upTo 12 0).any (fun n => decide ((s.link n).stateNo ≠ 0) && (s.link n).reaches peer)
/-- The link of the least cost among some. -/
def State.cheapest (s : State) : List Nat → Option Nat
  | [] => none
  | n :: ns =>
    match s.cheapest ns with
    | none => some n
    | some m => if (s.link m).cost < (s.link n).cost then some m else some n
/-- The link that a flit to a peer takes: the cheapest working one that reaches it; while all of them retrain, the
cheapest of those.
Log entry 50 (DESIGN CHOICE). -/
def State.linkTo (s : State) (peer : Nat) : Option Nat :=
  let there := (upTo 12 0).filter (fun n => (s.link n).reaches peer)
  match s.cheapest (there.filter (fun n => decide ((s.link n).stateNo = 1 ∨ (s.link n).stateNo = 2))) with
  | some n => some n
  | none => s.cheapest (there.filter (fun n => decide ((s.link n).stateNo = 3)))
/-- The link that an access through a window uses. -/
def State.windowLink (s : State) (pa : Nat) : Option Nat :=
  match placeOf pa with
  | .window w => s.linkTo (s.window w).peer
  | .hbm | .host | .scratch _ => none

/-! ## Flits (R311, R312, Table 19.8) -/

/-- The key of an (OTAG, KEY) pair. -/
def keyIndex (otag key : BitVec 8) : Nat := otag.toNat * 256 + key.toNat
/-- The header of a flit (Table 19.8). -/
def headerBytes (otag key : BitVec 8) (seq : Nat) (typ : BitVec 8) (dst src : BitVec 16) : List Byte :=
  bytesOf 16 (otag.toNat + key.toNat * 2 ^ 8 + seq % 2 ^ 48 * 2 ^ 16 + typ.toNat * 2 ^ 64 + dst.toNat * 2 ^ 72 +
    src.toNat * 2 ^ 88)
/-- The IV of a flit: its SEQ, its link, and the direction, which is 0 for flits sent and 1 for flits received.
Log entry 53 (DESIGN CHOICE). -/
def flitIv (seq link direction : Nat) : BitVec 96 := BitVec.ofNat 96 (seq % 2 ^ 48 + link * 2 ^ 48 + direction * 2 ^ 52)
/-- A packet sealed for a link under its key, with its SEQ. -/
def Link.seal (l : Link) (n seq : Nat) (p : Packet) : Flit :=
  let r := Config.gcmSeal (l.keys.get 0 (keyIndex p.otag p.key)) (flitIv seq n 0) (headerBytes p.otag p.key seq p.typ p.dst p.src)
    p.payload
  { otag := p.otag, key := p.key, seq := BitVec.ofNat 48 seq, typ := p.typ, dst := p.dst, src := p.src, payload := r.1, tag := r.2 }
/-- A packet is sent on a link, or waits because its owner's SEQ would wrap (R311). -/
def Link.send (l : Link) (n : Nat) (p : Packet) : Link :=
  let seq := l.seqs.get 0 p.otag.toNat
  if 2 ^ 48 ≤ seq then { l with waiting := l.waiting ++ [p] }
  else { l with seqs := l.seqs.set p.otag.toNat (seq + 1), sent := l.sent ++ [l.seal n seq p] }
def State.sendPacket (s : State) (n : Nat) (p : Packet) : State := s.setLink n ((s.link n).send n p)
/-- The bytes that a flit's payload holds at most (Table 19.8). -/
def maxPayload : Nat := 224
/-- The request of an access through a window, as a packet.
Log entry 53 (DESIGN CHOICE). -/
def Window.packet (w : Window) (draw : Nat) : Packet :=
  { otag := BitVec.ofNat 8 (fieldOf w.word0 16 8), key := BitVec.ofNat 8 (fieldOf w.word0 24 8), typ := Config.requestType draw,
    dst := BitVec.ofNat 16 w.peer, src := Config.deviceId, payload := (Config.requestBytes draw).take maxPayload }
/-- The flits of a window's owner have stopped on the link to its peer: its requests are not answered (R311).
Log entry 53 (DESIGN CHOICE). -/
def State.flitsStopped (s : State) (pa : Nat) : Bool :=
  match placeOf pa with
  | .window w =>
    (match s.linkTo (s.window w).peer with
    | none => false
    | some n => (s.link n).waiting.any (fun p => decide (p.otag.toNat = fieldOf (s.window w).word0 16 8)))
  | .hbm | .host | .scratch _ => false
/-- The window an address lies in, when it is not open or no route remains: the access completes with REVOKED (R295,
R313). -/
def State.revoked (s : State) (pa : Nat) : Bool :=
  match placeOf pa with
  | .window w => decide ((s.window w).stateNo ≠ 1) || !s.routedTo (s.window w).peer
  | .hbm | .host | .scratch _ => false
/-- A flit with a bit of its tag flipped: it fails its check (R312).
Log entry 53 (DESIGN CHOICE). -/
def damagedFlit (f : Flit) : Flit := { f with tag := f.tag ^^^ 1 }
/-- The next flit of a packet's owner on a link is sent damaged, `times` times; with `lost` it is not resent on this link,
whose traffic takes other routes while it retrains (R312). -/
def Link.sendBad (l : Link) (n times : Nat) (lost : Bool) (p : Packet) : Link :=
  let seq := l.seqs.get 0 p.otag.toNat
  let l1 := { l with sent := l.sent ++ List.replicate times (damagedFlit (l.seal n seq p)) }
  if lost then { l1 with word := putField l1.word 0 2 3, seqs := l1.seqs.set p.otag.toNat (seq + 1) } else l1
/-- An engine of a core is about to send a flit: an injection on its link fires. The flit fails its check, is counted
against its OTAG, and is resent; with REPEAT every resend fails too, so that after 8 failures the link retrains and the
flit takes another route (R275, R312).
Log entry 50 (DESIGN CHOICE). -/
def State.firedFlit (s : State) (c pa : Nat) : State :=
  let v := (s.core c).inj
  match placeOf pa, s.windowLink pa with
  | .window w, some n =>
    let p := (s.window w).packet s.draws
    if (fieldOf v 0 2 = 3 ∧ bitOf v 2 ∧ n = fieldOf v 4 4) ∧ (s.revoked pa = false ∧ (s.link n).seqs.get 0 p.otag.toNat < 2 ^ 48) then
      let times := if bitOf v 3 then 8 else 1
      let s1 := (upTo times 0).foldl (fun t _ => t.count (0x100 + p.otag.toNat)) (s.setLink n ((s.link n).sendBad n times (bitOf v 3) p))
      if bitOf v 3 then s1.schedule s.cyc (.linkRetrain n) else s1.modCore c Core.disarm
    else s
  | .window _, none | .hbm, _ | .host, _ | .scratch _, _ => s
/-- Where the model's memory keeps the byte at an address.
Log entry 6 (DESIGN CHOICE). -/
def State.storeAddr (s : State) (pa : Nat) : Nat :=
  match placeOf pa with
  | .window w => Config.peerBase + (s.window w).peer * 2 ^ 66 + (s.window w).base.toNat + winOffset pa
  | .hbm | .host | .scratch _ => pa
/-- The flit of a request to a window's peer. -/
def State.sendRequest (s : State) (w : Nat) : State :=
  match s.linkTo (s.window w).peer with
  | none => s
  | some n => ({ s with draws := s.draws + 1 } : State).sendPacket n ((s.window w).packet s.draws)
/-- A request sent to a window, or answered, changes INFL (Table 17.12); one that a revoked window completes leaves the
device as nothing (R295). -/
def State.inflight (s : State) (pa : Nat) (sent : Bool) : State :=
  match placeOf pa with
  | .window w =>
    let x := s.window w
    if s.revoked pa then s
    else if sent then (s.setWindow w { x with infl := x.infl + 1 }).sendRequest w
    else s.setWindow w { x with infl := x.infl - 1 }
  | .hbm | .host | .scratch _ => s

/-! ## Translation (R287, R289, R290) -/

/-- What a translation finds in the cluster's TLB. -/
inductive Xlat where
  | hit (pa : Nat)
  | fault
  | miss
  deriving DecidableEq, Repr
/-- The physical address under a leaf, with the checks of the access. -/
def State.underLeaf (s : State) (part size : Nat) (e : Word) (va len : Nat) (read write atomic : Bool) : Xlat :=
  let pa := leafPa size e va
  if !leafPermits e read write then .fault
  else
    match placeOf pa with
    | .window w => if (s.window w).refuses part (winOffset pa) len read write atomic then .fault else .hit pa
    | .hbm | .host | .scratch _ => .hit pa
/-- TROOT of a partition. -/
def State.rootOf (s : State) (part : Nat) : Nat := fieldOf (s.partOf part).troot 21 31 * 2 ^ 21
def State.rootEnabled (s : State) (part : Nat) : Bool := bitOf (s.partOf part).troot 0
def TlbEntry.covers (part va : Nat) (t : TlbEntry) : Bool := decide (t.part = part ∧ t.base ≤ va ∧ va < t.base + t.size)
/-- A translation by an agent of a cluster. -/
def State.xlate (s : State) (cl va len : Nat) (read write atomic : Bool) : Xlat :=
  let part := (s.cluster cl).part
  if 2 ^ 57 ≤ va ∨ !s.rootEnabled part then .fault
  else
    match (s.cluster cl).tlb.find? (TlbEntry.covers part va) with
    | some t => s.underLeaf part t.size t.leaf va len read write atomic
    | none => .miss
/-- A leaf enters the TLB, which holds 4,096 (R290). -/
def Cluster.cache (k : Cluster) (t : TlbEntry) : Cluster := { k with tlb := (t :: k.tlb).take 4096 }
/-- A translation that walks at once when the TLB misses: used by engines, whose walk time is part of a free delay.
Log entry 60 (DEDUCED). -/
def State.xlateNow (s : State) (cl va len : Nat) (read write atomic : Bool) : Option Nat × State :=
  match s.xlate cl va len read write atomic with
  | .hit pa => (some pa, s)
  | .fault => (none, s)
  | .miss =>
    let part := (s.cluster cl).part
    match walkTables s.mem 4 (s.rootOf part) va with
    | none => (none, s)
    | some (base, size, e) =>
      match s.underLeaf part size e va len read write atomic with
      | .hit pa => (some pa, s.modCluster cl (fun k => k.cache { part := part, base := base, size := size, leaf := e }))
      | .fault | .miss => (none, s)
/-- A VA of the scratchpad aperture (Table 10.3), which is not translated (R287). -/
def apertureVa (va : Nat) : Bool := decide (va < 2 ^ 57 ∧ natField va 37 20 = 2 ^ 20 - 1)
/-- A translation by the command processor for a partition. It belongs to no launch, so an address of the aperture, which
is not translated, names no core for it.
Log entry 60 (DEDUCED). -/
def State.xlatePart (s : State) (part va : Nat) (write : Bool) : Option Nat :=
  if 2 ^ 57 ≤ va ∨ apertureVa va ∨ !s.rootEnabled part then none
  else
    match walkTables s.mem 4 (s.rootOf part) va with
    | none => none
    | some (_, size, e) =>
      match s.underLeaf part size e va 1 (!write) write false with
      | .hit pa => some pa
      | .fault | .miss => none

/-! ## The scratchpad aperture (Table 10.3) -/

/-- The virtual core, flat line and byte of an aperture address. -/
def apertureOf (va : Nat) : Option (Nat × Nat × Nat) :=
  if apertureVa va then some (natField va 29 8, natField va 7 22, natField va 0 7) else none
/-- The context of a launch on a virtual core: its physical core and context. -/
def Launch.place (l : Launch) (vcore : Nat) : Option (Nat × Nat) :=
  match l.members.find? (fun m => decide (m.vcore = vcore ∧ m.state = .active)) with
  | none => none
  | some m => some (m.core, m.ctx)
def State.launchOf (s : State) (lidx : Nat) : Option Launch := s.launches.find? (fun l => decide (l.lidx = lidx))
/-- The physical core of a virtual core of a launch. -/
def State.coreOf (s : State) (lidx vcore : Nat) : Option Nat :=
  match s.launchOf lidx with
  | none => none
  | some l => (l.place vcore).map (fun p => p.1)

/-! ## Memory as a cluster sees it (R231, R232) -/

/-- The points at which a write to a place is acknowledged one after another (Table 11.1): the last reaches every
observer.
Log entry 45 (DEDUCED). -/
def pointsOf (core pa : Nat) : List Scope :=
  match placeOf pa with
  | .scratch c => if clusterOf c = clusterOf core then [.system] else [.cluster, .system]
  | .hbm => [.cluster, .system]
  | .host | .window _ => [.cluster, .device, .system]
/-- A scope that includes another. -/
def scopeRank : Scope → Nat
  | .cluster => 0
  | .device => 1
  | .system => 2
def scopeReaches (p q : Scope) : Bool := decide (scopeRank q ≤ scopeRank p)
/-- A write that a cluster's switch has acknowledged and not passed on. -/
def GWrite.atSwitch (cl : Nat) (g : GWrite) : Bool := decide (clusterOf g.core = cl ∧ g.level = some .cluster)
/-- A write meets bytes of the model's memory, through whatever address it was made. -/
def State.writeMeets (s : State) (g : GWrite) (a n : Nat) : Bool :=
  decide (s.storeAddr g.pa < a + n ∧ a < s.storeAddr g.pa + g.bytes.length)
/-- The writes that a cluster's switch has acknowledged and not passed on and that a read of `n` bytes meets. -/
def State.switchWrites (s : State) (cl pa n : Nat) : List GWrite :=
  s.writes.filter (fun g => g.atSwitch cl && s.writeMeets g (s.storeAddr pa) n)
/-- The switch cannot serve a read from one write: the newest write it meets there does not cover all of it. The read is
forwarded behind them, so that it acts on all of its words in one action (R233).
Log entry 68 (DEDUCED). -/
def State.mixedAt (s : State) (cl pa n : Nat) : Bool :=
  match (s.switchWrites cl pa n).getLast? with
  | none => false
  | some g => !decide (s.storeAddr g.pa ≤ s.storeAddr pa ∧ s.storeAddr pa + n ≤ s.storeAddr g.pa + g.bytes.length)
/-- The bytes at a physical address as a read through a cluster's switch finds them. -/
def State.readSeen (s : State) (cl pa n : Nat) : Nat :=
  let a := s.storeAddr pa
  ((s.switchWrites cl pa n).foldl (fun m g => m.write (s.storeAddr g.pa) g.bytes) (s.mem.window a n)).load a n
/-- The mark such a read meets: none where one write at the switch serves all of it. -/
def State.seenMark (s : State) (cl pa n : Nat) : Mark :=
  let a := s.storeAddr pa
  if (s.switchWrites cl pa n).any (fun g => decide (s.storeAddr g.pa ≤ a ∧ a + n ≤ s.storeAddr g.pa + g.bytes.length)) then .clean
  else s.markOf a
/-- One of these writes is still at the switch of a cluster. -/
def State.stillAt (s : State) (cl : Nat) (ids : List Nat) : Bool :=
  s.writes.any (fun g => g.atSwitch cl && ids.contains g.id)
/-- A write at a cluster's switch meets bytes of the model's memory: an atomic waits until it has been passed on (R232,
R233). -/
def State.switchHolds (s : State) (cl a n : Nat) : Bool :=
  s.writes.any (fun g => g.atSwitch cl && s.writeMeets g a n)
/-- Bytes performed at a point that every agent of the device reads through: whole lines clear their marks (R219). -/
def State.performBytes (s : State) (pa : Nat) (bs : List Byte) : State :=
  let a := s.storeAddr pa
  let s1 := { s with mem := s.mem.write a bs }
  if a % 128 = 0 ∧ bs.length = 128 then s1.setMark a .clean else s1
/-- Bytes that the command processor or the firmware writes at an address: through a revoked window nothing is written
(R295). -/
def State.performAt (s : State) (pa : Nat) (bs : List Byte) : State := if s.revoked pa then s else s.performBytes pa bs

end Sys2Proof.Machine
end

