-- ==== Sys2Proof/Machine/Sync.lean ====
section
/-!
DEFINITION. Sync words: credits, posts and generation advances (R106, R201 to R203), and the log of a recorded or
replayed launch (R273, R274).
-/
namespace Sys2Proof.Machine

/-! ## Recording and replay (R273, R274, Table 16.10) -/

def State.setLaunch (s : State) (l : Launch) : State :=
  { s with launches := s.launches.map (fun x => if x.lidx = l.lidx then l else x) }
/-- The virtual core and context of a record. -/
def recordHead (kind vcore ctx : Nat) : Nat := kind * 2 ^ 126 + ctx % 8 * 2 ^ 96 + vcore % 256 * 2 ^ 88
/-- Records written one after another; when the log is full, or its page has no translation any more, recording stops and
LOST is set.
Log entry 75 (DESIGN CHOICE). -/
def State.writeLog (lidx : Nat) : List Nat → State → State
  | [], s => s
  | r :: rs, s =>
    match s.launchOf lidx with
    | none => s
    | some l =>
      if l.lost then s
      else if l.logpages * 256 ≤ l.logpos then s.setLaunch { l with lost := true }
      else
        match s.xlatePart l.part (l.logva + 16 * l.logpos) true with
        | none => s.setLaunch { l with lost := true }
        | some pa =>
          State.writeLog lidx rs
            ((s.performAt pa (bytesOf 16 r)).setLaunch { l with logpos := l.logpos + 1 })
/-- An event of a launch that records: it takes the next sequence number and writes its records. -/
def State.logEvent (s : State) (lidx : Nat) (recs : Nat → List Nat) : State :=
  match s.launchOf lidx with
  | none => s
  | some l =>
    if l.recording then State.writeLog lidx (recs (s.logSeq % 2 ^ 32)) { s with logSeq := s.logSeq + 1 } else s
/-- The chunk record of a segment release. -/
def chunkRecord (vcore ctx segid bundles seq : Nat) : List Nat :=
  [recordHead 0 vcore ctx + segid % 2 ^ 16 * 2 ^ 64 + natField bundles 32 8 * 2 ^ 80 + bundles % 2 ^ 32 * 2 ^ 32 + seq]
/-- The generation-advance record of a word. -/
def advanceRecord (vcore ctx slot seq : Nat) : List Nat := [recordHead 1 vcore ctx + slot % 2 ^ 25 * 2 ^ 32 + seq]
/-- The claim record, behind a high part when the index is 2^56 or more. -/
def claimRecord (vcore ctx index seq : Nat) : List Nat :=
  (if 2 ^ 56 ≤ index then [recordHead 3 vcore ctx + natField index 56 8 * 2 ^ 32 + seq] else []) ++
  [recordHead 2 vcore ctx + natField index 32 24 * 2 ^ 64 + natField index 0 32 * 2 ^ 32 + seq]
/-- Record `i` of the log a launch replays. Behind a window that is not open nothing is read, and no record stands there.
Log entry 75 (DESIGN CHOICE). -/
def State.logAt (s : State) (l : Launch) (i : Nat) : Nat :=
  match s.xlatePart l.part (l.logva + 16 * i) false with
  | none => 0
  | some pa => if s.revoked pa then 0 else s.mem.load (s.storeAddr pa) 16
def recKind (r : Nat) : Nat := natField r 126 2
def recIs (r kind vcore ctx : Nat) : Bool := decide (recKind r = kind ∧ natField r 88 8 = vcore ∧ natField r 96 3 = ctx)
/-- The launch of a context, when it replays. -/
def State.replayOf (s : State) (lidx : Nat) : Option Launch :=
  match s.launchOf lidx with
  | none => none
  | some l => if l.replay then some l else none
/-- It is a chunk's turn: the next record of the log is this context's. -/
def State.chunkTurn (s : State) (lidx vcore ctx : Nat) : Bool :=
  match s.replayOf lidx with
  | none => true
  | some l => recIs (s.logAt l l.logpos) 0 vcore ctx
/-- The next logged chunk of a context does not match its release in SEGID or bundle count (R274), or the log holds none.
Log entry 75 (DESIGN CHOICE). -/
def State.chunkDiverges (s : State) (lidx vcore ctx segid bundles : Nat) : Bool :=
  match s.replayOf lidx with
  | none => false
  | some l =>
    match findFrom (fun i => recIs (s.logAt l i) 0 vcore ctx) (l.logpages * 256 - l.logpos) l.logpos with
    | none => true
    | some i =>
      let r := s.logAt l i
      decide (natField r 64 16 ≠ segid % 2 ^ 16 ∨ natField r 32 32 ≠ bundles % 2 ^ 32 ∨ natField r 80 8 ≠ natField bundles 32 8)

/-! ## Sync words (Table 10.2) -/

/-- The generation advance of R106 and R202, when it is due. -/
def wordDue (v : Nat) : Bool := natBit v 80 && decide (natField v 32 32 ≤ natField v 0 32)
def wordAdvance (v : Nat) : Nat :=
  let b := BitVec.ofNat 128 v
  let count := fieldOf b 0 32 - fieldOf b 32 32
  let b1 := putField (putField (putField b 64 16 (fieldOf b 64 16 + 1)) 0 32 count) 80 1 0
  (if count = 0 then b1 else putField b1 81 1 1).toNat
/-- The fields a credit of `n` bytes with a status changes before the advance (R202). -/
def wordCredit (v n : Nat) (status : BitVec 8) (poisoned : Bool) : Nat :=
  let b := BitVec.ofNat 128 v
  let b1 := putField b 0 32 (Nat.min (fieldOf b 0 32 + n) 0xFFFFFFFF)
  if status = 0 then b1.toNat
  else
    let b2 := putField (putField b1 82 1 1) 96 32 status.toNat
    let b3 := if poisoned then putField b2 83 1 1 else b2
    (if status = 0x44 then putField b3 84 1 1 else b3).toNat
/-- The fields a post changes before the advance (R106). -/
def wordPost (v target : Nat) : Nat := (putField (putField (BitVec.ofNat 128 v) 32 32 target) 80 1 1).toNat
/-- A sync word: its bits [95:85] read 0 (Table 10.2). -/
def wordMask (v : Nat) : Nat := (BitVec.ofNat 128 v &&& 0xFFFFFFFF001FFFFFFFFFFFFFFFFFFFFF#128).toNat
/-- The word of a core at a slot: its flat line and number in the line (Table 5.10). -/
def State.syncWord (s : State) (c slot : Nat) : Nat := wordMask (s.mem.load (spAddr c (slot / 8) + 16 * (slot % 8)) 16)
/-- A word written: the line keeps its POISON mark and loses a group-boundary mark (R157, R219). -/
def State.setSyncWord (s : State) (c slot v : Nat) : State :=
  let flat := slot / 8
  let a := spAddr c flat
  let m := s.markOf a
  let s1 := { s with mem := s.mem.store (a + 16 * (slot % 8)) 16 v }.setMark a (if m = Mark.group then Mark.clean else m)
  s1.modCore c (fun k => k.setBank (bankOf flat) ((k.bank (bankOf flat)).wrote flat))
/-- The launch whose word it is, with the virtual core and context it has on the core. -/
def State.wordLaunch (s : State) (c slot : Nat) : Option (Launch × Nat × Nat) :=
  match s.launchOf ((s.core c).bank (bankOf (slot / 8))).launch with
  | none => none
  | some l =>
    match l.members.find? (fun m => decide (m.core = c)) with
    | none => none
    | some m => some (l, m.vcore, m.ctx)
/-- A generation advance, noted so that SWAIT and SWAITANY see it from the next cycle on (R202). -/
def State.advanceWord (s : State) (c slot v : Nat) : State :=
  (s.setSyncWord c slot (wordAdvance v)).modCore c (fun k =>
    { k with advances := k.advances.filter (fun e => decide (e.2 = s.cyc)) ++ [(slot, s.cyc)] })
/-- A due generation advance takes place: at once, with its log record, or in a replay when its turn has come. -/
def State.tryAdvance (s : State) (c slot : Nat) : State :=
  let v := s.syncWord c slot
  if !wordDue v then s
  else
    match s.wordLaunch c slot with
    | none => s.advanceWord c slot v
    | some (l, vcore, ctx) =>
      if l.replay then
        let r := s.logAt l l.logpos
        if recIs r 1 vcore ctx ∧ natField r 32 25 = slot then
          (s.advanceWord c slot v).setLaunch { l with logpos := l.logpos + 1 }
        else s
      else (s.advanceWord c slot v).logEvent l.lidx (advanceRecord vcore ctx slot)
/-- After the log position has moved, generation advances whose turn has come take place, `n` at most. -/
def State.replayAdvances (lidx : Nat) : Nat → State → State
  | 0, s => s
  | n + 1, s =>
    match s.replayOf lidx with
    | none => s
    | some l =>
      let r := s.logAt l l.logpos
      if recKind r ≠ 1 then s
      else
        match l.place (natField r 88 8) with
        | none => s
        | some (c, _) =>
          let s1 := s.tryAdvance c (natField r 32 25)
          match s1.replayOf lidx with
          | none => s1
          | some l1 => if l1.logpos = l.logpos then s1 else State.replayAdvances lidx n s1
/-- The next record of a replayed log has taken place. -/
def State.replayed (s : State) (lidx n : Nat) : State :=
  match s.replayOf lidx with
  | none => s
  | some l => State.replayAdvances lidx 65536 (s.setLaunch { l with logpos := l.logpos + n })
/-- Advances that a change of a word may have made due, and those that its turn lets follow. -/
def State.advances (s : State) (c slot : Nat) : State :=
  let s1 := s.tryAdvance c slot
  match s1.wordLaunch c slot with
  | none => s1
  | some (l, _, _) => State.replayAdvances l.lidx 65536 s1
/-- Credits of a word (R202). -/
def State.credit (s : State) (c slot n : Nat) (status : BitVec 8) (poisoned : Bool) : State :=
  (s.setSyncWord c slot (wordCredit (s.syncWord c slot) n status poisoned)).advances c slot
/-- A post (R106). -/
def State.post (s : State) (c slot : Nat) (target : Nat) : State :=
  (s.setSyncWord c slot (wordPost (s.syncWord c slot) target)).advances c slot

end Sys2Proof.Machine
end

