-- ==== Sys2Proof/Machine/Global.lean ====
section
/-!
DEFINITION. Global accesses and their order (R107, R230 to R236), the outbound queue and the release of the SRQ (R20,
R21), completions of commands and what they wake (R196 to R200), segments: boundary, rewind and escalation (R18, R22,
R23, R264), and rendezvous (R24, R237).
-/
namespace Sys2Proof.Machine

/-! ## The outbound queue (R107, R234) -/

def AccessKind.isFence : AccessKind → Bool
  | .fence _ _ | .rel _ _ | .acq _ => true
  | .loadTile _ | .loadReg _ | .storeLine _ | .storeWord _ | .post _ _ | .grow _ | .command _ => false
def AccessKind.isLoad : AccessKind → Bool
  | .loadTile _ | .loadReg _ => true
  | .storeLine _ | .storeWord _ | .post _ _ | .grow _ | .command _ | .fence _ _ | .rel _ _ | .acq _ => false
/-- The access has been performed at a scope. -/
def Access.doneAt (sc : Scope) (a : Access) : Bool :=
  match a.progress with
  | .performedAt p => scopeReaches p sc
  | .finished => true
  | .waiting | .started | .returned => false
/-- Every read the access makes has returned (ACQ). -/
def Access.readsDone (a : Access) : Bool :=
  match a.kind with
  | .loadTile _ | .loadReg _ => decide (a.progress = .finished)
  | .command _ => !decide (a.progress = .waiting ∨ a.progress = .started)
  | .storeLine _ | .storeWord _ | .post _ _ | .grow _ | .fence _ _ | .rel _ _ | .acq _ => true
/-- Every access of the mask among those earlier than a fence satisfies its condition. -/
def masked (mask : BitVec 16) (p : Access → Bool) (earlier : List Access) : Bool :=
  earlier.all (fun b => b.kind.isFence || !bitOf mask b.oc || p b)
/-- What a fence in the queue waits for. -/
def fenceHeld (earlier : List Access) (f : Access) : Bool :=
  match f.kind with
  | .fence m sc | .rel m sc => masked m (Access.doneAt sc) earlier
  | .acq m => masked m Access.readsDone earlier
  | .loadTile _ | .loadReg _ | .storeLine _ | .storeWord _ | .post _ _ | .grow _ | .command _ => true
/-- Whether a fence holds back an access of a class. -/
def fenceBinds (oc : Nat) (f : Access) : Bool :=
  match f.kind with
  | .fence m _ => bitOf m oc
  | .rel _ _ | .acq _ => true
  | .loadTile _ | .loadReg _ | .storeLine _ | .storeWord _ | .post _ _ | .grow _ | .command _ => false
/-- An access of class `oc` may begin behind the accesses of `rest`, which follow those of `earlier`: every earlier access
of its class has been performed for every observer, and every fence that binds it holds. -/
def mayBegin (oc : Nat) : List Access → List Access → Bool
  | _, [] => true
  | earlier, b :: rest =>
    (if b.kind.isFence then !fenceBinds oc b || fenceHeld earlier b else decide (b.oc ≠ oc) || b.doneAt .system) &&
      mayBegin oc (earlier ++ [b]) rest
/-- The queue without the fences that hold. -/
def pruneFences : List Access → List Access → List Access
  | _, [] => []
  | earlier, b :: rest =>
    if b.kind.isFence && fenceHeld earlier b then pruneFences earlier rest
    else b :: pruneFences (earlier ++ [b]) rest
/-- The classed accesses of a queue (R107: it holds 32). -/
def classedCount (out : List Access) : Nat := (out.filter (fun a => !a.kind.isFence)).length
/-- The accesses that may begin now. -/
def startable : List Access → List Access → List Access
  | _, [] => []
  | earlier, a :: rest =>
    (if decide (a.progress = .waiting) && (!a.kind.isFence && mayBegin a.oc [] earlier) then [a] else []) ++
      startable (earlier ++ [a]) rest

def Ctx.modAccess (x : Ctx) (num : Nat) (f : Access → Access) : Ctx :=
  { x with out := x.out.map (fun a => if a.num = num then f a else a) }
def Ctx.findAccess (x : Ctx) (num : Nat) : Option Access := x.out.find? (fun a => decide (a.num = num))
def State.modAccess (s : State) (c x num : Nat) (f : Access → Access) : State := s.modCtx c x (fun v => v.modAccess num f)

/-! ## Completions (R196 to R200) -/

/-- Accesses that a KSIG covers and that are not performed at its scope. -/
def Ctx.uncovered (x : Ctx) (sc : Scope) (covers : List Nat) : Bool :=
  covers.any (fun n =>
    x.srq.any (fun h => decide (h.num = n)) || x.releasing.any (fun h => decide (h.num = n)) ||
      x.out.any (fun a => decide (a.num = n) && !a.doneAt sc))
def commandScope (f : ESlot) : Scope := if f.scope = 0 then .cluster else if f.scope = 1 then .device else .system
/-- A KJOIN or KSIG whose token completes now. -/
def Core.joinReady (k : Core) (j : Cmd) : Bool :=
  inputsDone j.ins && !(k.ctx j.ctx).uncovered (commandScope j.f) j.covers
/-- The tokens of the joins that are complete, one after another, `n` at most. -/
def Core.finishJoins (cyc : Nat) : Nat → Core → Core
  | 0, k => k
  | n + 1, k =>
    match k.joins.find? k.joinReady with
    | none => k
    | some j =>
      let (st, a) := inputStatus j.ins
      Core.finishJoins cyc n
        (Core.settle j.id st a cyc ({ k with joins := k.joins.filter (fun i => decide (i.id ≠ j.id)) }.noteEnded j cyc))
/-- The engines look at the heads of their queues again. -/
def State.wake (s : State) (c : Nat) : State :=
  let k := s.core c
  let w (b : Bool) (i : Instr) (t : State) : State := if b then t.schedule s.cyc i else t
  w (!k.scaQ.isEmpty) (.scaCommandStart c)
    (w (!k.copyQ.isEmpty || !k.chans.isEmpty) (.copyCommandStart c)
      (w (!k.ppeQ.isEmpty) (.ppeCommandStart c)
        (w (!k.runQ.isEmpty) (.matrixCommandStart c .run)
          (w (!k.loadQ.isEmpty) (.matrixCommandStart c .load) s))))
/-- Contexts whose release waits for a place in a queue try again (R21). -/
def State.retryRelease (s : State) (c : Nat) : State :=
  (upTo 5 0).foldl (fun t x => if (t.ctx c x).releasing.isEmpty then t else t.schedule t.cyc (.srqEntryEnqueue c x)) s

/-! ## Rewinds: what they wait for (R22) -/

/-- A command that only joins or signals tokens (KJOIN, KSIG). -/
def Cmd.isJoin (j : Cmd) : Bool := decide (j.op = 0x3A ∨ j.op = 0x3B)
/-- Every command of a context issued in its current segment and not completed. A KJOIN or KSIG is no work of an engine
and is not awaited.
Log entry 64 (DEDUCED). -/
def Core.segCommands (k : Core) (x : Nat) : Bool :=
  (k.loadQ ++ k.runQ ++ k.ppeQ ++ k.joins ++ (match k.loadNow with | none => [] | some r => [r.cmd]) ++
    (match k.runNow with | none => [] | some r => [r.cmd]) ++
    (match k.drainNow with | none => [] | some r => [r.cmd])).any
      (fun j => decide (j.ctx = x) && (j.inSeg && !j.isJoin))
/-- Copy and scatter-accumulate commands of a context's current segment that were released when its SEG or RDV was reached
(R21), and have not completed. -/
def Core.segReleased (k : Core) (x : Nat) : Bool :=
  (k.copyQ ++ k.chans.map (fun e => e.2.cmd) ++ k.scaQ ++ (match k.scaNow with | none => [] | some r => [r.cmd])).any
      (fun j => decide (j.ctx = x) && j.inSeg) ||
    (k.ctx x).releasing.any (fun h => match h.kind with
      | .command j => j.inSeg
      | .loadTile _ | .loadReg _ | .storeLine _ | .storeWord _ | .post _ _ | .grow _ | .fence _ _ | .rel _ _ | .acq _ => false)
/-- A global load of a context's current segment that has not returned (R140). -/
def Ctx.segLoad (v : Ctx) (a : Access) : Bool := a.kind.isLoad && decide (v.segAccess ≤ a.num)
/-- Once the commands and global loads of the discarded run are done, the segment resumes 20 cycles after the later of
the detection and that cycle. -/
def State.settleRewind (s : State) (c x : Nat) : State :=
  let v := s.ctx c x
  match v.rewind with
  | none => s
  | some r =>
    if r.settled.isSome || v.out.any v.segLoad || ((s.core c).segCommands x || (s.core c).segReleased x) then s
    else
      (s.modCtx c x (fun v => { v with rewind := some { r with settled := some s.cyc } })).schedule
        (Nat.max r.detected s.cyc + 20) (.rewindResume c x)
/-- A command of a core, or a stream, completes with a status and an address: its token, what awaits it, and what that
wakes. -/
def State.completeId (s : State) (c x id : Nat) (status : BitVec 8) (addr : Nat) : State :=
  let k := Core.settle id status addr s.cyc (s.core c)
  ((s.setCore c (Core.finishJoins s.cyc (k.joins.length) k)).wake c).settleRewind c x
def State.complete (s : State) (c : Nat) (cmd : Cmd) (status : BitVec 8) (addr : Nat) : State :=
  (s.modCore c (fun k => k.noteEnded cmd s.cyc)).completeId c cmd.ctx cmd.id status addr

/-! ## Rendezvous (R24, R237) -/

/-- A REL the context issued earlier does not hold yet. -/
def Ctx.relPending (x : Ctx) : Bool :=
  !x.releasing.isEmpty || x.out.any (fun a =>
    match a.kind with
    | .rel _ _ => true
    | .loadTile _ | .loadReg _ | .storeLine _ | .storeWord _ | .post _ _ | .grow _ | .command _ | .fence _ _
    | .acq _ => false)
/-- The context of a launch at a position of a cluster.
Log entry 26 (DEDUCED). -/
def State.partner (s : State) (cl pos launch : Nat) : Option (Nat × Nat) :=
  let c := cl * Config.coresPerCluster + pos
  (findFrom (fun x => decide ((s.ctx c x).launch = launch ∧ (s.ctx c x).status ≠ .free)) 4 0).map (fun x => (c, x))
/-- The saved context of a launch that was on a core: its arrival stands while it is saved (R256). -/
def Saved.stands (c launch : Nat) (z : Saved) : Bool := !z.loaded && decide (z.core = c ∧ z.v.launch = launch)
/-- An arrival that counts, with this id and mask, and whose RELs hold. -/
def Ctx.arrivedAs (v : Ctx) (id mask : Nat) : Bool :=
  match v.arrival with
  | none => false
  | some a => decide (a.id = id ∧ a.mask = mask) && (!a.completed && !v.relPending)
/-- A partner has arrived with this id and mask. -/
def State.arrivedAs (s : State) (cl pos launch id mask : Nat) : Bool :=
  match s.partner cl pos launch with
  | some (c, x) => (s.ctx c x).arrivedAs id mask
  | none =>
    s.saved.any (fun e => e.2.stands (cl * Config.coresPerCluster + pos) launch && e.2.v.arrivedAs id mask)
/-- The arrival of a context is completed. -/
def Ctx.completeArrival (cyc : Nat) (v : Ctx) : Ctx :=
  { v with arrival := v.arrival.map (fun b => { b with completed := true, since := cyc + 1 }) }
def State.completePartner (cl launch : Nat) (s : State) (pos : Nat) : State :=
  match s.partner cl pos launch with
  | some (d, y) => s.modCtx d y (Ctx.completeArrival s.cyc)
  | none =>
    { s with saved := s.saved.map (fun e =>
        if e.2.stands (cl * Config.coresPerCluster + pos) launch then (e.1, { e.2 with v := e.2.v.completeArrival s.cyc }) else e) }
/-- The rendezvous of a context completes for every participant once all have arrived. -/
def State.tryRendezvous (s : State) (c x : Nat) : State :=
  match (s.ctx c x).arrival with
  | none => s
  | some a =>
    let cl := clusterOf c
    let launch := (s.ctx c x).launch
    let named := (upTo 4 0).filter (natBit a.mask)
    if a.completed || !(named.all (fun p => s.arrivedAs cl p launch a.id a.mask)) then s
    else named.foldl (State.completePartner cl launch) s

/-! ## Starting and finishing accesses -/

/-- A write of an access sets out: its first acknowledgement is due after a delay. -/
def State.startWrite (s : State) (c x acc unit pa : Nat) (bs : List Byte) : State :=
  let (id, s) := s.newId
  let g : GWrite := { id := id, core := c, ctx := x, acc := acc, unit := unit, pa := pa, bytes := bs, level := none, begun := none }
  let s1 := ({ s with writes := s.writes ++ [g] }).inflight pa true
  match pointsOf c pa with
  | p :: _ => s1.scheduleFree (.writePerformed c x id p)
  | [] => s1
/-- KSIG commands that cover an access take a status from it (R295). -/
def Core.coverStatus (k : Core) (x num : Nat) (status : BitVec 8) (addr cyc : Nat) : Core :=
  { k with joins := k.joins.map (fun j =>
      if j.ctx = x ∧ num ∈ j.covers ∧ status ≠ 0 then { j with ins := j.ins ++ [.done status addr cyc] } else j) }
/-- What follows a change in a context's outbound queue, apart from the start of accesses. -/
def State.afterAccess (s : State) (c x : Nat) : State :=
  let s1 := s.modCtx c x (fun v => { v with out := pruneFences [] v.out })
  let s2 := s1.modCore c (fun k => Core.finishJoins s.cyc k.joins.length k)
  (((s2.wake c).retryRelease c).settleRewind c x).tryRendezvous c x
/-- An access is performed at every observer, or has returned: it leaves the queue. -/
def State.dropAccess (s : State) (c x num : Nat) (status : BitVec 8) (addr : Nat) : State :=
  let s1 := s.modCore c (fun k => k.coverStatus x num status addr s.cyc)
  (s1.modCtx c x (fun v => { v with out := v.out.filter (fun a => decide (a.num ≠ num)) })).afterAccess c x
/-- The channel of a core that runs the command of an access. -/
def Core.channelOf (k : Core) (x num : Nat) : Option Nat :=
  (k.chans.find? (fun e => decide (e.2.access = num ∧ e.2.cmd.ctx = x))).map (fun e => e.1)
/-- An access begins. A post is performed in the cycle after its release, as the trace of the worked program of
10_engines.md shows. -/
def State.beginAccess (s : State) (c x : Nat) (a : Access) : State :=
  let s1 := s.modAccess c x a.num (fun b => { b with progress := .started })
  match a.kind with
  | .loadTile _ | .loadReg _ => (s1.inflight a.pa true).scheduleFree (.globalLoadReturn c x a.num)
  | .storeLine v =>
    if s.revoked a.pa then s1.dropAccess c x a.num 0x44 a.va else s1.startWrite c x a.num 0 a.pa (bytesOf 128 v.toNat)
  | .storeWord v =>
    if s.revoked a.pa then s1.dropAccess c x a.num 0x44 a.va else s1.startWrite c x a.num 0 a.pa (bytesOf 8 v.toNat)
  | .post _ _ => s1.schedule (s.cyc + 1) (.syncPostPerform c x a.num)
  | .command _ =>
    (match (s.core c).channelOf x a.num with
    | some ch => s1.schedule s.cyc (.copyUnitRead c ch)
    | none =>
      match (s.core c).scaNow with
      | some r => if r.access = a.num ∧ r.cmd.ctx = x then s1.schedule s.cyc (.scaWindowApply c) else s1
      | none => s1)
  | .grow _ | .fence _ _ | .rel _ _ | .acq _ => s1
/-- Accesses of a context that may begin do, `n` rounds at most: one that is done as it begins lets the next of its class
begin. -/
def State.pumpRounds (c x : Nat) : Nat → State → State
  | 0, s => s
  | n + 1, s =>
    match startable [] (s.ctx c x).out with
    | [] => s
    | a :: l => State.pumpRounds c x n ((a :: l).foldl (fun t b => t.beginAccess c x b) s)
/-- Every access of a context that may begin does. -/
def State.pump (s : State) (c x : Nat) : State := State.pumpRounds c x ((s.ctx c x).out.length + 1) s
/-- An access finishes, and those it held back begin. -/
def State.finishAccess (s : State) (c x num : Nat) (status : BitVec 8) (addr : Nat) : State :=
  (s.dropAccess c x num status addr).pump c x
/-- An access has come as far as a point; at the last one it finishes. -/
def State.ackAccess (s : State) (c x num : Nat) (p : Scope) : State :=
  if p = .system then s.finishAccess c x num 0 0
  else ((s.modAccess c x num (fun a => { a with progress := .performedAt p })).afterAccess c x).pump c x

/-- What an access does has been performed at a scope, though its command goes on: what waits for it there does not wait
longer (R230, R237). -/
def State.performedTo (s : State) (c x num : Nat) (p : Scope) : State :=
  match (s.ctx c x).findAccess num with
  | none => s
  | some a =>
    if a.progress = .waiting ∨ a.doneAt p then s
    else ((s.modAccess c x num (fun b => { b with progress := .performedAt p })).afterAccess c x).pump c x
/-- The scope at which every write that is still on its way has been performed; none where one has not been acknowledged.
Log entry 45 (DEDUCED). -/
def scopeOfAll (l : List GWrite) : Option Scope :=
  if l.isEmpty then some .system
  else if l.all (fun g => decide (g.level = some .device)) then some .device
  else if l.all (fun g => g.level.isSome) then some .cluster
  else none
/-- The writes of an access that are on their way. -/
def State.writesOf (s : State) (c x num : Nat) : List GWrite :=
  s.writes.filter (fun g => decide (g.core = c ∧ g.ctx = x ∧ g.acc = num))

/-! ## Release of the SRQ (R20, R21) -/

/-- GROW at its release (R26).
Log entry 26 (DEDUCED). -/
def State.grow (s : State) (launch : Nat) (v : Word) : State :=
  match s.launchOf launch with
  | none => s
  | some l => s.setLaunch { l with wcnt := Nat.min (l.wcnt + v.toNat) (2 ^ 64 - 1) }
def isScaOp (op : Nat) : Bool := decide (op = 0x30 ∨ op = 0x31)
/-- Scatter-accumulate commands stand in release order, those of one cycle in ascending context order (R223). -/
def insertSca (cmd : Cmd) (q : List Cmd) : List Cmd :=
  let before (d : Cmd) : Bool := decide (d.at_ < cmd.at_ ∨ (d.at_ = cmd.at_ ∧ d.ctx ≤ cmd.ctx))
  q.takeWhile before ++ cmd :: q.dropWhile before
/-- Commands the copy engine can still hold: 16 in its queue, and one on each free channel (R204). -/
def Core.copyRoom (k : Core) : Nat := 16 + ((upTo 4 0).filter (fun ch => (k.chans.at? ch).isNone)).length
/-- One released entry enters its queue; none when the queue is full. -/
def State.enterEntry (s : State) (c x : Nat) (h : Held) : Option State :=
  let v := s.ctx c x
  let k := s.core c
  let access (kind : AccessKind) : Access :=
    { num := h.num, oc := h.oc, kind := kind, va := h.va, pa := h.pa, progress := .waiting, discard := false, served := none }
  let append (t : State) (kind : AccessKind) : State := t.modCtx c x (fun u => { u with out := u.out ++ [access kind] })
  match h.kind with
  | .grow w => some (s.grow v.launch w)
  | .fence _ _ | .rel _ _ | .acq _ => some (append s h.kind)
  | .command cmd =>
    let cmd := { cmd with at_ := s.cyc }
    if 32 ≤ classedCount v.out then none
    else if isScaOp cmd.op then
      (if 16 ≤ k.scaQ.length then none
       else some ((append (s.modCore c (fun k => { k with scaQ := insertSca cmd k.scaQ })) (.command cmd)).schedule
         (s.cyc + 2) (.scaCommandStart c)))
    else if k.copyRoom ≤ k.copyQ.length then none
    else some ((append (s.modCore c (fun k => { k with copyQ := k.copyQ ++ [cmd] })) (.command cmd)).schedule
      (s.cyc + 2) (.copyCommandStart c))
  | .storeLine _ | .storeWord _ | .post _ _ | .loadTile _ | .loadReg _ =>
    if 32 ≤ classedCount v.out then none else some (append s h.kind)
/-- Released entries enter their queues in SRQ order, until one finds its queue full. -/
def State.enterAll (c x : Nat) : List Held → State → State
  | [], s => s.modCtx c x (fun v => { v with releasing := [] })
  | h :: hs, s =>
    match s.enterEntry c x h with
    | some s1 => State.enterAll c x hs s1
    | none => s.modCtx c x (fun v => { v with releasing := h :: hs })
/-- The entries of a release that still wait try to enter (R21). -/
def State.drainRelease (s : State) (c x : Nat) : State :=
  ((State.enterAll c x (s.ctx c x).releasing s).modCtx c x (fun v => { v with out := pruneFences [] v.out })).pump c x
/-- The SRQ is released in queue order. -/
def State.release (s : State) (c x : Nat) : State :=
  (s.modCtx c x (fun v => { v with srq := [], releasing := v.releasing ++ v.srq })).drainRelease c x

/-! ## Segment boundaries (R18) -/

/-- The escape counts of the tangent sets a context holds (R180). -/
def Core.heldCounts (k : Core) (x : Nat) : FMap (List (BitVec 16)) :=
  (k.sets.filter (fun e => decide (e.2.holder = some x))).map (fun e => (e.1, (upTo 256 0).map (e.2.counts.get 0)))
/-- The checkpoint of a context as it stands. -/
def Core.checkpoint (k : Core) (x : Nat) : Checkpoint :=
  let v := k.ctx x
  { pc := v.pc, pwq := v.pwq, loop := v.loop, preds := v.p, redirect := v.redirect, ports := k.portPositions x, d := v.d,
    tok := v.tok, y := v.y, sg := v.sg, yptr := v.yptr, tan := v.tan, ppe := v.ppe, escn := v.escn,
    counts := k.heldCounts x }
/-- A released entry no longer belongs to the segment that runs. -/
def Held.leave (h : Held) : Held :=
  match h.kind with
  | .command j => { h with kind := .command { j with inSeg := false } }
  | .loadTile _ | .loadReg _ | .storeLine _ | .storeWord _ | .post _ _ | .grow _ | .fence _ _ | .rel _ _ | .acq _ => h
/-- Commands of a context no longer belong to its current segment. -/
def Core.leaveSegment (x : Nat) (k : Core) : Core :=
  let out (j : Cmd) : Cmd := if j.ctx = x then { j with inSeg := false } else j
  { k with
    loadQ := k.loadQ.map out, runQ := k.runQ.map out, ppeQ := k.ppeQ.map out, joins := k.joins.map out,
    copyQ := k.copyQ.map out, scaQ := k.scaQ.map out,
    chans := k.chans.map (fun e => (e.1, { e.2 with cmd := out e.2.cmd })),
    scaNow := k.scaNow.map (fun r => { r with cmd := out r.cmd }),
    loadNow := k.loadNow.map (fun r => { r with cmd := out r.cmd }),
    runNow := k.runNow.map (fun r => { r with cmd := out r.cmd }),
    drainNow := k.drainNow.map (fun r => { r with cmd := out r.cmd }) }
/-- A new segment begins: the checkpoint is taken, SEGTRY is 0, the claim log is empty, the kept error location is
cleared, and TALL arms the interlock trace (R18, R264, R272). -/
def State.openSegment (s : State) (c x : Nat) (id : Nat) : State :=
  s.modCore c (fun k =>
    let k1 := (Core.leaveSegment x k).mend [locCkpt x, locSrq x]
    k1.setCtx x
      { k1.ctx x with
        ckpt := some (k1.checkpoint x), segid := id, segtry := 0, segFirst := true, segBundles := 0, chunkLogged := false,
        segAccess := (k1.ctx x).nextAccess, segDrains := [], releasing := (k1.ctx x).releasing.map Held.leave,
        engDone := (k1.ctx x).engDone.map (fun e => { e with inSeg := false }), claims := [],
        replay := 0, lastUncr := none, stall := { armed := bitOf k1.dbg.control 10, kind := 0, cycles := 0 } })
/-- The release of a segment takes place as a chunk of a recorded or replayed launch: once, with the bundles of the
segment's run (R273, R274).
Log entry 18 (DEDUCED). -/
def State.logChunk (s : State) (c x bundles : Nat) : State :=
  let v := s.ctx c x
  if v.chunkLogged then s
  else
    ((s.modCtx c x (fun v => { v with chunkLogged := true })).logEvent v.launch
      (chunkRecord v.vcore x v.segid bundles)).replayed v.launch 1
/-- A segment boundary: the release is a chunk, the SRQ leaves, and the new segment begins. -/
def State.boundary (s : State) (c x : Nat) (id : Nat) : State :=
  ((s.logChunk c x (s.ctx c x).segBundles).release c x).openSegment c x id

/-! ## Knots on their way to their tables (R174) -/

/-- A table with the knots of a KSET. -/
def CurveTable.take (t : CurveTable) (k : KsetPending) : CurveTable :=
  { t with nk := k.nk,
           knots := (upTo 8 0).foldl (fun m i => m.set (8 * k.group + i) (k.knots.extractLsb' (128 * i) 128)) t.knots }
/-- Knots written; the context whose KSET wrote a table last holds it, and the knots it wrote hold good parity (R169,
R263). -/
def Core.writeKnots (k : Core) (x : Nat) (q : KsetPending) : Core :=
  let t := (k.table q.table).take q
  (k.setTable q.table { t with holder := some x }).mend (upTo 8 (locKnot q.table (8 * q.group)))
/-- Pending knots that are due are in their tables. -/
def State.flushKnots (s : State) (c x : Nat) : State :=
  let v := s.ctx c x
  let due := v.ksets.filter (fun k => decide (k.due ≤ v.issued))
  (s.modCore c (fun k => due.foldl (fun k q => k.writeKnots x q) k)).modCtx c x (fun v =>
    { v with ksets := v.ksets.filter (fun k => !decide (k.due ≤ v.issued)) })
/-- The knots a rewind finds on their way. Those of a bundle in front of the segment stand as many bundles from their
table as at its beginning; those of the discarded run are written at once, so that the rerun uses them (R174, R180).
Log entry 72 (DEDUCED). -/
def State.rewindKnots (s : State) (c x : Nat) : State :=
  let s1 := s.flushKnots c x
  let v := s1.ctx c x
  let earlier (q : KsetPending) : Bool := decide (q.due < v.issued - v.segBundles + 2)
  (s1.modCore c (fun k => (v.ksets.filter (fun q => !earlier q)).foldl (fun k q => k.writeKnots x q) k)).modCtx c x (fun v =>
    { v with ksets := (v.ksets.filter earlier).map (fun q => { q with due := q.due + v.segBundles }) })

/-! ## Detections, rewinds and escalation (R22, R23, R264) -/

/-- The commands of a context's segment that still stand in queues of the core or as joins. -/
def Core.segQueued (k : Core) (x : Nat) : List Cmd :=
  (k.loadQ ++ k.runQ ++ k.ppeQ ++ k.joins).filter (fun j => decide (j.ctx = x) && j.inSeg)
/-- The queued commands that, directly or through others, await the commands `ids`; `n` rounds. -/
def Core.dependents (k : Core) (x : Nat) : Nat → List Nat → List Nat
  | 0, ids => ids
  | n + 1, ids =>
    Core.dependents k x n (ids ++ ((k.segQueued x).filter (fun j => j.awaits ids && !ids.contains j.id)).map (fun j => j.id))
/-- Commands that leave their queues without acting: their tiles and ports return. -/
def Core.cancel (k : Core) (ids : List Nat) (cyc : Nat) : Core :=
  let keep (j : Cmd) : Bool := !ids.contains j.id
  let k1 := { k with loadQ := k.loadQ.filter keep, runQ := k.runQ.filter keep, ppeQ := k.ppeQ.filter keep,
                     joins := k.joins.filter keep }
  ids.foldl (fun k i => Core.settle i 0 0 cyc k) k1
/-- What the SRQ of a context holds is discarded: its commands, and the queued commands that await them directly or
through others, can no longer act, and the ports they were lent return.
Log entry 64 (DEDUCED). -/
def State.cancelHeld (s : State) (c x : Nat) : State :=
  s.modCore c (fun k => k.cancel (k.dependents x (k.segQueued x).length (k.ctx x).heldCommands) s.cyc)
/-- An ABORT discards the SRQ of its context (R255). -/
def State.abandonHeld (s : State) (c x : Nat) : State :=
  if bitOf (s.recordAt c x 0) 50 then s.cancelHeld c x else s
/-- A rewind begins: issue stops, the data of outstanding global loads of the run are to be thrown away (R140), and the
commands of the SRQ are given up. -/
def State.startRewind (s : State) (c x : Nat) (fresh : Bool) : State :=
  ((s.cancelHeld c x).modCtx c x (fun v =>
    { v with rewind := some { detected := s.cyc, settled := none, fresh := fresh }, arrival := none, waitOn := none,
             kept := [],
             dbgPass := false, yielded := none, damage := [],
             events := { v.events with residue := false, buffer := none, uncr := none },
             stall := { armed := false, kind := 0, cycles := 0 },
             out := v.out.map (fun a => if v.segLoad a then { a with discard := true } else a) })).settleRewind c x
/-- The positions a rewind gives a port: the checkpoint's, with what a read port fetched discarded and what a write
port took since then removed; a port configured since keeps its stream. -/
def Port.rewound (l : List PortPos) (pwq : List Pending) (n : Nat) (p : Port) : Port :=
  match l.find? (fun q => decide (q.port = n)) with
  | none => p
  | some q =>
    let p1 := { p.moveTo n q.pos with fault := q.fault, faultAt := q.faultAt }
    if n < 6 then { p1 with moved := q.moved, done := q.done }
    else { p1 with reserved := pendingPushes pwq (n - 6), moved := p1.walked, done := p.done && decide (p.walked ≤ q.pos) }
/-- A chain FIFO without the lines that drains of a discarded run pushed and nothing has popped (R192). -/
def Fifo.without (c : Nat) (ids : List Nat) (q : Fifo) : Fifo :=
  let keep := (q.lines.zip q.pushers).filter (fun e => !(decide (e.2.1 = c) && ids.contains e.2.2))
  if ids.isEmpty then q else { q with lines := keep.map (fun e => e.1), pushers := keep.map (fun e => e.2) }
/-- What a rewind writes anew and so leaves with good parity: the stage predicates, descriptors and sync slots, the PWQ, the
SRQ and the FIFOs of the ports it repositions (R22, Table 16.1). -/
def Checkpoint.places (x : Nat) (q : Checkpoint) : List Nat :=
  (upTo 4 4).map (locP x) ++ (upTo 16 0).map (locD x) ++ (upTo 8 0).map (locY x) ++ [locPwq x, locSrq x] ++
    q.ports.map (fun p => locPort p.port)
/-- Steps 3 to 6 of R22. Escapes that commands of the discarded run found are not counted (R180), and KJOIN and KSIG of the
discarded run are gone (log entry 64). A set that the context has come to hold within the segment is none whose counts the
checkpoint holds: its counts stay (log entry 72). -/
def State.finishRewind (s0 : State) (c x : Nat) : State :=
  let s := s0.rewindKnots c x
  let k := s.core c
  let v := k.ctx x
  match v.rewind, v.ckpt with
  | some r, some q =>
    let v1 := { v with
      pc := q.pc, pwq := q.pwq, loop := q.loop, p := putField v.p 8 8 (fieldOf q.preds 8 8), redirect := q.redirect,
      d := q.d, tok := q.tok, y := q.y, sg := q.sg, yptr := q.yptr, tan := q.tan, ppe := q.ppe, escn := q.escn,
      srq := [], segtry := if r.fresh then 0 else v.segtry + 1, segFirst := true, segBundles := 0, chunkLogged := false,
      segDrains := [], replay := 0, rewind := none, skip := 0,
      engDone := v.engDone.map (fun e => if e.inSeg then { e with escapes := 0 } else e) }
    let k1 := (k.setCtx x v1).mend (q.places x)
    let k2 := { k1 with
      joins := k1.joins.filter (fun j => !(decide (j.ctx = x) && (j.inSeg && j.isJoin))),
      ports := k1.ports.map (fun e => (e.1, if e.2.holder = some x then e.2.rewound q.ports q.pwq e.1 else e.2)),
      sets := k1.sets.map (fun e =>
        match q.counts.find? (fun i => decide (i.1 = e.1)) with
        | none => e
        | some i => (e.1, { e.2 with counts := (upTo 256 0).map (fun n => (n, nthD 0 i.2 n)) })) }
    let s1 := (s.setCore c k2).modCluster (clusterOf c) (fun z =>
      { z with fifos := z.fifos.map (fun e => (e.1, e.2.without c v.segDrains)) })
    (upTo 6 0).foldl (fun t n => if ((t.core c).port n).holder = some x then t.schedule t.cyc (.readPortFetch c n) else t) s1
  | _, _ => s0

end Sys2Proof.Machine
end

