-- ==== Sys2Proof/Machine/Engine.lean ====
section
/-!
DEFINITION. What the E-slot commands share: the checks and waits of an issue (R12, R21, R78, R196), a command that is
queued at commit, the tiles, ports and FIFOs it names, and a streaming agent's access to a scratchpad line (R47, R49,
R58, R166).
-/
namespace Sys2Proof.Machine

/-! ## Statuses (Table 10.8) -/

def stBown : BitVec 8 := 0x03
def stShad : BitVec 8 := 0x04
def stXlat : BitVec 8 := 0x06
def stPois : BitVec 8 := 0x07
def stUncr : BitVec 8 := 0x09
def stWdog : BitVec 8 := 0x10
def stBrange : BitVec 8 := 0x11
def stDecode : BitVec 8 := 0x41
def stStinv : BitVec 8 := 0x42
def stCrc : BitVec 8 := 0x43
def stRevoked : BitVec 8 := 0x44

/-! ## Issue -/

/-- An issued command with its fields and the descriptors its bundle sees; its number is given at commit. -/
def newCommand (s : State) (f : ESlot) (op : Nat) (tiles ports : List Nat) : Cmd :=
  { id := 0, ctx := s.cur.ctx, op := op, f := f, da := s.me.readD f.da.toNat, db := s.me.readD f.db.toNat, lines := [],
    scales := 0, ins := [s.me.input f.ka.toNat, s.me.input f.kb.toNat, s.me.input f.kc.toNat], tiles := tiles,
    ports := ports, at_ := s.cyc, inSeg := true, covers := [] }
/-- What a command that copies rows of a tile at issue has met there: UNCR where one has bad parity (Table 16.1).
Log entry 46 (DEDUCED). -/
def rowsRead (s : State) (t : Nat) (rows : List Nat) : List Input :=
  if rows.any (s.here.rowHurt (s.me.tileBase + t)) then [.done stUncr 0 s.cyc] else []
/-- A KO that is pending, or an engine queue that is full, makes the bundle wait; a boundary comes first while the SRQ
holds anything (R12, R21). -/
def commandWait (s : State) (f : ESlot) (full : Bool) : List Effect :=
  let pend := decide (f.ko ≠ 0) && (s.me.token f.ko.toNat).pendingAt s.cyc
  if pend || full then
    implicitOf s ++ [.wait (if pend then 1 else 5) none]
  else []
where
  /-- The implicit boundary of R21. -/
  implicitOf (s : State) : List Effect := if s.me.srq.isEmpty then [] else [.implicit]
/-- The physical tiles of a group of `n` tiles at T. -/
def groupOf (s : State) (t n : Nat) : List Nat := upTo n (s.me.tileBase + t)
/-- TILE with the first tile of a group that lies beyond the allocation (R75). -/
def groupTile (s : State) (t n : Nat) : List Effect :=
  if s.me.tileCount < t + n then [.trap .tile (BitVec.ofNat 64 (Nat.max t s.me.tileCount))] else []
/-- A PWQ entry is pending for a line of a tile (R121). -/
def tilePending (s : State) (t : Nat) : Bool :=
  s.me.pwq.any (fun e =>
    match e.dest with
    | .tile o => decide ((operandOf o).tile? = some t)
    | .creg _ | .pred _ | .qmask _ | .push _ | .ereg _ | .dreg _ | .dword _ _ | .special _ | .sync _ | .flags => false)
/-- ILL with the first tile of a group that has an entry pending. -/
def groupPending (s : State) (t n : Nat) : List Effect :=
  match findFrom (tilePending s) n t with
  | some i => [.trap .ill (BitVec.ofNat 64 i)]
  | none => []
/-- The line of a global load is awaited in a tile of a group. -/
def groupLoading (s : State) (t n : Nat) : Bool :=
  s.me.busyLines.any (fun e =>
    heldAt e.2 s.cyc && (match (operandOf e.1).tile? with | some i => decide (t ≤ i ∧ i < t + n) | none => false))
/-- A tile of a group that the other engine holds busy, or that a global load is to write (R164). -/
def groupBusy (s : State) (ppe : Bool) (t n : Nat) : List Effect :=
  let holds := s.here.tileBusy.filter (fun e => decide (e.tile ∈ groupOf s t n) && (heldAt e.clear s.cyc && (e.ppe != ppe)))
  if !holds.isEmpty || groupLoading s t n then releaseFor s (holds.map (fun e => e.cmd)) ++ [.wait 3 none] else []
/-- The checks of a group of tiles that an engine command names. -/
def groupChecks (s : State) (ppe : Bool) (t n : Nat) : List Effect :=
  groupTile s t n ++ groupPending s t n ++ groupBusy s ppe t n
/-- ILL with a number. -/
def illWith (b : Bool) (n : Nat) : List Effect := if b then [.trap .ill (BitVec.ofNat 64 n)] else []
/-- A unit not reserved to the issuing context's launch (R280); nothing is reserved to context 4, which has no launch.
Log entry 23 (DEDUCED). -/
def notReserved (s : State) (launch : Nat) : Bool := !s.user || decide (launch ≠ s.me.launch)
/-- A port that the issuing context does not hold. -/
def portNotHeld (s : State) (n : Nat) : Bool := decide ((s.here.port n).holder ≠ some s.cur.ctx)

/-! ## Chain FIFOs (R227, R228) -/

def Cluster.fifo (k : Cluster) (n : Nat) : Fifo := k.fifos.get Fifo.idle n
def Cluster.setFifo (k : Cluster) (n : Nat) (f : Fifo) : Cluster := { k with fifos := k.fifos.set n f }
def State.fifo (s : State) (cl n : Nat) : Fifo := (s.cluster cl).fifo n
def State.modFifo (s : State) (cl n : Nat) (f : Fifo → Fifo) : State :=
  s.modCluster cl (fun k => k.setFifo n (f (k.fifo n)))
/-- Lines of a FIFO (R227). -/
def fifoDepth : Nat := 128
/-- The configuration does not name the producer or consumer at a core's position, or was made by another launch. -/
def fifoRefused (s : State) (n : Nat) (producer : Bool) : Bool :=
  match (s.fifo (clusterOf s.cur.core) n).cfg with
  | none => true
  | some (p, q, launch) =>
    decide ((if producer then p else q) ≠ s.cur.core % Config.coresPerCluster) || notReserved s launch
/-- The FIFO a matrix or PPE command names. -/
def Cmd.fifo? (c : Cmd) : Option Nat :=
  if (c.op = 0x04 ∨ c.op = 0x05) ∧ fieldOf c.f.mode 5 2 = 2 then some (fieldOf c.f.f 1 3)
  else if c.op = 0x11 ∧ fieldOf c.f.f 2 2 = 2 then some c.f.da.toNat
  else none

/-- A FIFO's lines after a pop: the drains of the cluster look again. -/
def State.popFifo (s : State) (cl n : Nat) (rest : List Line) : State :=
  (upTo Config.coresPerCluster (cl * Config.coresPerCluster)).foldl (fun t c =>
    if (t.core c).drainNow.isSome then t.schedule t.cyc (.ppeLineWrite c) else t)
    (s.modFifo cl n (fun q => { q with lines := rest, pushers := q.pushers.drop (q.lines.length - rest.length) }))
/-- A line enters a FIFO, pushed by a drain of a core: the runs of the cluster look again. -/
def State.pushFifo (s : State) (cl n : Nat) (by_ : Nat × Nat) (v : Line) : State :=
  (upTo Config.coresPerCluster (cl * Config.coresPerCluster)).foldl (fun t c =>
    if (t.core c).runNow.isSome then t.schedule t.cyc (.matrixRunStep c) else t)
    (s.modFifo cl n (fun q => { q with lines := q.lines ++ [v], pushers := q.pushers ++ [by_] }))

/-! ## Commands at commit -/

/-- The stationary shape of a load command (Table 8.1). -/
def loadShapeOf (op : Nat) (mode : BitVec 7) : Shape :=
  if op = 0x02 then .grouped
  else if fieldOf mode 0 2 = 0 then .fp8 (bitOf mode 2)
  else if fieldOf mode 0 2 = 1 then .bf16
  else .fp32
def loadShape (c : Cmd) : Shape := loadShapeOf c.op c.f.mode
/-- A load enters LOADING at issue, and its context holds the buffer (R151, R155).
Log entry 37 (DEDUCED). -/
def Core.beginLoad (k : Core) (c : Cmd) : Core :=
  let b := k.buffer (bufferNo c)
  k.setBuffer (bufferNo c) { b with state := .loading, shape := loadShape c, holder := some c.ctx }
/-- Tiles held busy and ports lent from issue on (R160, R164). -/
def Core.holdFor (k : Core) (c : Cmd) (ppe : Bool) : Core :=
  { k with
    tileBusy := k.tileBusy ++ c.tiles.map (fun t => { tile := t, cmd := c.id, ppe := ppe, clear := 0 }),
    ports := c.ports.foldl (fun m n => m.set n { k.port n with lent := some c.id }) k.ports }
/-- A TLD makes its context the holder of its set (R181). -/
def Core.holdSet (k : Core) (c : Cmd) : Core :=
  let n := fieldOf c.f.f 0 1
  let z := k.tanSet n
  if c.op = 0x12 then
    k.setTanSet n { z with holder := some c.ctx }
  else k
/-- The class mask of a KSIG: bits [31:16] of its slot (R200). -/
def ksigMask (f : ESlot) : Nat := f.da.toNat * 2 ^ 12 + f.db.toNat * 2 ^ 8 + f.t.toNat * 2 + fieldOf f.f 3 1
/-- Accesses of a class; FENCE, REL and GROW are none (R200). -/
def AccessKind.isClassed (k : AccessKind) : Bool :=
  match k with
  | .loadTile _ | .loadReg _ | .storeLine _ | .storeWord _ | .post _ _ | .command _ => true
  | .grow _ | .fence _ _ | .rel _ _ | .acq _ => false
/-- The accesses a KSIG covers: those of its classes that the context has issued and that are not done (R200). -/
def Ctx.covered (x : Ctx) (mask : Nat) : List Nat :=
  (x.out.filter (fun a => a.kind.isClassed && natBit mask a.oc)).map (fun a => a.num) ++
    ((x.releasing ++ x.srq).filter (fun h => h.kind.isClassed && natBit mask h.oc)).map (fun h => h.num)
/-- A command is queued, or enters the SRQ, when its bundle commits; its KO becomes pending (R163, R191, R196, R204). -/
def State.issueCommand (s : State) (c x : Nat) (e : Engine) (cmd0 : Cmd) : State :=
  let (id, s) := s.newId
  let cmd := { cmd0 with id := id, at_ := s.cyc }
  let s1 := s.modCtx c x (fun v => v.produce cmd.f.ko.toNat id)
  match e with
  | .load =>
    (s1.modCore c (fun k => (k.beginLoad cmd).holdFor { cmd with tiles := [] } false)).modCore c
      (fun k => { k with loadQ := k.loadQ ++ [cmd] }) |>.schedule s.cyc (.matrixCommandStart c .load)
  | .run =>
    (s1.modCore c (fun k => { k.holdFor cmd false with runQ := k.runQ ++ [cmd] })).schedule s.cyc
      (.matrixCommandStart c .run)
  | .ppe =>
    ((s1.modCore c (fun k => { (k.holdSet cmd).holdFor cmd true with ppeQ := k.ppeQ ++ [cmd] })).modCtx c x (fun v =>
      { v with segDrains := v.segDrains ++ [id] })).schedule s.cyc (.ppeCommandStart c)
  | .copy | .sca =>
    let s2 := s1.modCore c (fun k => k.holdFor cmd false)
    let v := s2.ctx c x
    let h : Held := { oc := cmd.f.oc.toNat, kind := .command cmd, va := 0, pa := 0, num := v.nextAccess }
    s2.setCtx c x { v with srq := v.srq ++ [h], nextAccess := v.nextAccess + 1 }
  | .join | .chain =>
    s1.modCore c (fun k => Core.finishJoins s.cyc (k.joins.length + 1) { k with joins := k.joins ++ [cmd] })
  | .signal =>
    let cmd := { cmd with covers := (s1.ctx c x).covered (ksigMask cmd.f) }
    s1.modCore c (fun k => Core.finishJoins s.cyc (k.joins.length + 1) { k with joins := k.joins ++ [cmd] })

/-! ## A streaming agent's access to a line -/

/-- Whom an engine's command of a context acts for: the launch of a user context, anyone for context 4 (R3, R51). -/
def State.actsFor (s : State) (c x : Nat) : Option Nat := if x = 4 then none else some (s.ctx c x).launch
/-- A bank that a command may reach: one allocated to the launch it acts for (R3). -/
def Bank.openTo (b : Bank) (actor : Option Nat) : Bool :=
  match actor with
  | none => true
  | some l => decide (b.launch = l)
/-- BRANGE, BOWN or SHAD of an access by the agent of an owner KIND for a launch; 0 where it may be made. -/
def Core.accessStatus (k : Core) (kind : Nat) (actor : Option Nat) (flat : Int) : BitVec 8 :=
  if !inScratch flat then stBrange
  else if !((k.bank (bankOf flat.toNat)).ownerIs kind 0 && (k.bank (bankOf flat.toNat)).openTo actor) then stBown
  else if (k.bank (bankOf flat.toNat)).shadowed flat.toNat then stShad
  else 0
/-- The status a reading engine takes from a line's mark (R166, R219). -/
def markStatus : Mark → BitVec 8
  | .clean | .group => 0
  | .poison => stPois
  | .uncorrectable _ => stUncr
/-- The bank of a line is free and in no refresh window. -/
def Core.lineFree (k : Core) (flat cyc : Nat) : Bool := decide (k.streamTime (bankOf flat) (busyTime flat) cyc = cyc)
/-- An access makes its bank busy (R48). -/
def State.occupy (s : State) (c flat : Nat) : State :=
  s.modCore c (fun k => k.setBank (bankOf flat) ((k.bank (bankOf flat)).occupy s.cyc (busyTime flat)))
/-- An uncorrectable error that an engine has met is counted (R264). -/
def State.countMet (s : State) (c : Nat) (m : Mark) : State :=
  match m with
  | .uncorrectable _ => s.modCore c (fun k => k.countError false)
  | .clean | .group | .poison => s
/-- A line read by an engine: its value and its mark; the bank becomes busy, and an injection fires (R264, R275). -/
def State.engineRead (s : State) (c flat : Nat) : Line × Mark × State :=
  (s.readFlat c flat, s.readMark c flat, ((s.occupy c flat).firedRead c flat).countMet c (s.readMark c flat))
/-- A flat address as the address a status reports. -/
def flatAddr (flat : Int) : Nat := wrapOf 64 flat
/-- The number of lines in a list whose first `n` have arrived. -/
def lastArrival (l : List (Nat × Line)) : Nat := l.foldl (fun m e => Nat.max m e.1) 0

/-! ## Results for the issuing context -/

/-- Flags and escapes of a command reach its context at its first boundary after the completion (R38, R188).
Log entry 16 (DEDUCED). -/
def State.engineDone (s : State) (c x : Nat) (flg : BitVec 5) (escapes : Nat) (inSeg : Bool) : State :=
  if flg = 0 ∧ escapes = 0 then s
  else s.modCtx c x (fun v =>
    { v with engDone := v.engDone ++ [{ since := s.cyc + 1, flg := flg, escapes := escapes, inSeg := inSeg }] })

end Sys2Proof.Machine
end

