-- ==== Sys2Proof/Machine/Chain.lean ====
section
/-!
DEFINITION. KJOIN and KSIG (R199, R200), and the chain FIFOs' commands CF.CFG and CF.RST (R227, R228).
-/
namespace Sys2Proof.Machine

def execKjoin (f : ESlot) (s : State) : Res :=
  slot s f.g (commandWait s f false ++ [.command .join (newCommand s f 0x3A [] [])])
def execKsig (f : ESlot) (s : State) : Res :=
  slot s f.g (commandWait s f false ++ [.command .signal (newCommand s f 0x3B [] [])])

def chainNo (f : ESlot) : Nat := fieldOf f.f 0 3
/-- A FIFO that another context holds, or that is not reserved to the issuing context's launch (R228). -/
def fifoHeldElsewhere (s : State) (n : Nat) : Bool :=
  let q := s.fifo (clusterOf s.cur.core) n
  (match q.holder with
   | none => false
   | some h => decide (h ≠ (s.cur.core, s.cur.ctx))) || notReserved s q.reserved
/-- A queued or running command of the cluster names the FIFO, as issue sees it in this cycle (R101). -/
def fifoNamed (s : State) (n : Nat) : Bool :=
  let cl := clusterOf s.cur.core
  (upTo Config.coresPerCluster (cl * Config.coresPerCluster)).any (fun c =>
    let k := s.core c
    (k.runQ ++ k.ppeQ ++ (match k.runNow with | none => [] | some r => [r.cmd]) ++
      (match k.drainNow with | none => [] | some r => [r.cmd]) ++ k.endedNow s.cyc).any (fun j => decide (j.fifo? = some n)))
/-- A consumed token that is pending, or a command that names the FIFO, is waited for (Table 1.3). A boundary comes first
while the SRQ holds anything, so that the context waits on nothing its own SRQ holds (R21).
Log entry 10 (DEDUCED). -/
def chainWaits (s : State) (f : ESlot) (n : Nat) : List Effect :=
  let pend := [f.ka, f.kb, f.kc].any (fun k => (s.me.token k.toNat).pendingAt s.cyc && decide (k ≠ 0))
  (if pend || fifoNamed s n then commandWait.implicitOf s else []) ++ (if pend then [.wait 1 none] else []) ++
    (if fifoNamed s n then [.wait 4 (some (.fifo n))] else [])
/-- The checks and waits of both commands. -/
def chainIssue (f : ESlot) (op : Nat) (s : State) : Res :=
  let n := chainNo f
  slot s f.g (illWith (fifoHeldElsewhere s n) n ++ commandWait s f false ++ chainWaits s f n ++
    [.command .chain (newCommand s f op [] [])])
def execCfCfg (f : ESlot) (s : State) : Res := chainIssue f 0x38 s
def execCfRst (f : ESlot) (s : State) : Res := chainIssue f 0x39 s
/-- The effect at the boundary after the bundle; none when a consumed token carries a status (R197). -/
def State.chainEffect (s : State) (c x : Nat) (cmd : Cmd) : State :=
  let n := chainNo cmd.f
  if (inputStatus cmd.ins).1 ≠ 0 then s
  else if cmd.op = 0x38 then
    s.modFifo (clusterOf c) n (fun q =>
      { q with lines := [], pushers := [], cfg := some (fieldOf cmd.f.mode 0 2, fieldOf cmd.f.mode 2 2, (s.ctx c x).launch),
               holder := some (c, x) })
  else s.modFifo (clusterOf c) n (fun q => { q with lines := [], pushers := [], cfg := none, holder := none })
/-- A retiring context resets every FIFO it holds (R228). -/
def Cluster.resetHeld (c x : Nat) (k : Cluster) : Cluster :=
  { k with fifos := k.fifos.map (fun e =>
      (e.1, if e.2.holder = some (c, x) then { e.2 with lines := [], pushers := [], cfg := none, holder := none } else e.2)) }

end Sys2Proof.Machine
end

