-- ==== Sys2Proof/Machine/Scalar.lean ====
section
/-!
DEFINITION. The S-slot arithmetic: integer operations, compares and predicates (R89 to R93). Each reads its sources as
its bundle sees them and emits a pending result with the latency of Table 5.1. None sets a flag (R36).
-/
namespace Sys2Proof.Machine

/-- c[A] and c[B] of a slot. -/
def srcA (s : State) (f : SSlot) : Word := s.me.readC f.a.toNat
def srcB (s : State) (f : SSlot) : Word := s.me.readC f.b.toNat
/-- sext(IMM34) (R89). -/
def sImmOf (f : SSlot) : Word := f.imm.signExtend 64
/-- A one-register result of latency 1, and one of latency 3. -/
def quick (f : SSlot) (v : Word) (s : State) : Res := slot s f.g [scalarResult f.d.toNat 1 v]
def slow (f : SSlot) (v : Word) (s : State) : Res := slot s f.g [scalarResult f.d.toNat 3 v]
/-- A register pair, the low half at the base (R91). -/
def pairOf (f : SSlot) (lat : Nat) (v : Nat) (s : State) : Res :=
  slot s f.g [scalarResult f.d.toNat lat (BitVec.ofNat 64 v), scalarResult (f.d.toNat + 1) lat (BitVec.ofNat 64 (v / 2 ^ 64))]

/-- Table 5.2. -/
def mulHighSigned (a b : Word) : Word := BitVec.ofInt 64 (a.toInt * b.toInt / (2 ^ 64 : Nat))
def mulHighUnsigned (a b : Word) : Word := BitVec.ofNat 64 (a.toNat * b.toNat / 2 ^ 64)
def shiftCount (b : Word) : Nat := fieldOf b 0 6
def minSigned (a b : Word) : Word := if a.toInt ≤ b.toInt then a else b
def maxSigned (a b : Word) : Word := if a.toInt ≤ b.toInt then b else a
def minUnsigned (a b : Word) : Word := if a.toNat ≤ b.toNat then a else b
def maxUnsigned (a b : Word) : Word := if a.toNat ≤ b.toNat then b else a

def execNop (s : State) : Res := .next s
def execAdd (f : SSlot) (s : State) : Res := quick f (srcA s f + srcB s f) s
def execAddi (f : SSlot) (s : State) : Res := quick f (srcA s f + sImmOf f) s
def execSub (f : SSlot) (s : State) : Res := quick f (srcA s f - srcB s f) s
def execMul (f : SSlot) (s : State) : Res := slow f (srcA s f * srcB s f) s
def execMuli (f : SSlot) (s : State) : Res := slow f (srcA s f * sImmOf f) s
def execMulh (f : SSlot) (s : State) : Res := slow f (mulHighSigned (srcA s f) (srcB s f)) s
def execMulhn (f : SSlot) (s : State) : Res := slow f (mulHighUnsigned (srcA s f) (srcB s f)) s
def execAnd (f : SSlot) (s : State) : Res := quick f (srcA s f &&& srcB s f) s
def execAndi (f : SSlot) (s : State) : Res := quick f (srcA s f &&& sImmOf f) s
def execOr (f : SSlot) (s : State) : Res := quick f (srcA s f ||| srcB s f) s
def execOri (f : SSlot) (s : State) : Res := quick f (srcA s f ||| sImmOf f) s
def execXor (f : SSlot) (s : State) : Res := quick f (srcA s f ^^^ srcB s f) s
def execXori (f : SSlot) (s : State) : Res := quick f (srcA s f ^^^ sImmOf f) s
def execShl (f : SSlot) (s : State) : Res := quick f (srcA s f <<< shiftCount (srcB s f)) s
def execShli (f : SSlot) (s : State) : Res := quick f (srcA s f <<< shiftCount (sImmOf f)) s
def execShr (f : SSlot) (s : State) : Res := quick f (srcA s f >>> shiftCount (srcB s f)) s
def execShri (f : SSlot) (s : State) : Res := quick f (srcA s f >>> shiftCount (sImmOf f)) s
def execSar (f : SSlot) (s : State) : Res := quick f ((srcA s f).sshiftRight (shiftCount (srcB s f))) s
def execSari (f : SSlot) (s : State) : Res := quick f ((srcA s f).sshiftRight (shiftCount (sImmOf f))) s
def execMin (f : SSlot) (s : State) : Res := quick f (minSigned (srcA s f) (srcB s f)) s
def execMax (f : SSlot) (s : State) : Res := quick f (maxSigned (srcA s f) (srcB s f)) s
def execMinn (f : SSlot) (s : State) : Res := quick f (minUnsigned (srcA s f) (srcB s f)) s
def execMaxn (f : SSlot) (s : State) : Res := quick f (maxUnsigned (srcA s f) (srcB s f)) s
/-- SEL reads predicate IMM34[33:30] (R90). -/
def execSel (f : SSlot) (s : State) : Res := quick f (if s.me.pred (fieldOf f.imm 30 4) then srcA s f else srcB s f) s
def execMovi (f : SSlot) (s : State) : Res := quick f (sImmOf f) s
/-- MOVHI reads c[D] as well (Table 5.2). -/
def execMovhi (f : SSlot) (s : State) : Res :=
  quick f (BitVec.ofNat 64 (fieldOf f.imm 0 30 * 2 ^ 34 + fieldOf (s.me.readC f.d.toNat) 0 34)) s
def execClz (f : SSlot) (s : State) : Res := quick f (BitVec.ofNat 64 (leadingZeros 64 (srcA s f).toNat)) s
def execPopc (f : SSlot) (s : State) : Res := quick f (BitVec.ofNat 64 (popCount 64 (srcA s f).toNat)) s
def execAdd32 (f : SSlot) (s : State) : Res := quick f (((srcA s f + srcB s f).extractLsb' 0 32).signExtend 64) s
def execAddp (f : SSlot) (s : State) : Res :=
  pairOf f 1 ((s.me.readPair f.a.toNat + s.me.readPair f.b.toNat) % 2 ^ 128) s
/-- MULW: the exact signed 128-bit product (R91). -/
def execMulw (f : SSlot) (s : State) : Res := pairOf f 3 (wrapOf 128 ((srcA s f).toInt * (srcB s f).toInt)) s

/-- A compare writes the pair of its condition (R92). -/
def compare (f : SSlot) (b : Bool) (s : State) : Res := slot s f.g [pairResult f.d.toNat b]
def execCmpEq (f : SSlot) (s : State) : Res := compare f (decide (srcA s f = srcB s f)) s
def execCmpNe (f : SSlot) (s : State) : Res := compare f (decide (srcA s f ≠ srcB s f)) s
def execCmpLt (f : SSlot) (s : State) : Res := compare f (decide ((srcA s f).toInt < (srcB s f).toInt)) s
def execCmpLe (f : SSlot) (s : State) : Res := compare f (decide ((srcA s f).toInt ≤ (srcB s f).toInt)) s
def execCmpLtn (f : SSlot) (s : State) : Res := compare f (decide ((srcA s f).toNat < (srcB s f).toNat)) s
def execCmpLen (f : SSlot) (s : State) : Res := compare f (decide ((srcA s f).toNat ≤ (srcB s f).toNat)) s
def execCmpiEq (f : SSlot) (s : State) : Res := compare f (decide (srcA s f = sImmOf f)) s
def execCmpiNe (f : SSlot) (s : State) : Res := compare f (decide (srcA s f ≠ sImmOf f)) s
def execCmpiLt (f : SSlot) (s : State) : Res := compare f (decide ((srcA s f).toInt < (sImmOf f).toInt)) s
def execCmpiLe (f : SSlot) (s : State) : Res := compare f (decide ((srcA s f).toInt ≤ (sImmOf f).toInt)) s
def execCmpiLtn (f : SSlot) (s : State) : Res := compare f (decide ((srcA s f).toNat < (sImmOf f).toNat)) s
def execCmpiLen (f : SSlot) (s : State) : Res := compare f (decide ((srcA s f).toNat ≤ (sImmOf f).toNat)) s

/-- The predicates A and B of a slot. -/
def pA (s : State) (f : SSlot) : Bool := s.me.pred f.a.toNat
def pB (s : State) (f : SSlot) : Bool := s.me.pred f.b.toNat
def execPand (f : SSlot) (s : State) : Res := compare f (pA s f && pB s f) s
def execPor (f : SSlot) (s : State) : Res := compare f (pA s f || pB s f) s
def execPxor (f : SSlot) (s : State) : Res := compare f (pA s f ^^ pB s f) s
def execPset (f : SSlot) (s : State) : Res := compare f (bitOf f.imm 0) s

end Sys2Proof.Machine
end

