-- ==== Sys2Proof/Machine/Control.lean ====
section
/-!
DEFINITION. S0 control: branches and hardware loops (R94 to R100), tokens and sync words (R101 to R106), fences
(R107, R108), work, segments and checks (R109 to R112), YIELD, TRAP, SYS and END (R113 to R115). A slot that must wait
emits `wait`, and its bundle is then not ready (Table 1.3).
-/
namespace Sys2Proof.Machine

/-- R95: an instruction that a delay bundle of a taken branch must not hold.
Log entry 59 (DEDUCED). -/
def delayIll (s : State) : List Effect := if s.me.redirect.isSome then [.trap .ill 0] else []
/-- R97: an instruction that an active loop body must not hold.
Log entry 59 (DEDUCED). -/
def bodyIll (s : State) : List Effect := if s.me.loop.active then [.trap .ill 0] else []
/-- The highest bundle address a context may name (R70, R247). -/
def bundleLimit (s : State) : Nat := if s.user then Config.bundles else Config.supBundles

/-! ## Branches (R94) -/

/-- Target b + IMM34; the decoder has checked the range. -/
def branchTarget (f : SSlot) (s : State) : Nat := ((s.cur.pc : Int) + f.imm.toInt).toNat
/-- A register target; above the limit it is an issue-time ILL with the target in TVAL. -/
def jumpTo (s : State) (v : Word) : List Effect :=
  if v.toNat < bundleLimit s then [.redirect v.toNat] else [.trap .ill v]
def execBr (f : SSlot) (s : State) : Res := slot s f.g (delayIll s ++ bodyIll s ++ [.redirect (branchTarget f s)])
def execBrx (f : SSlot) (s : State) : Res := slot s f.g (delayIll s ++ bodyIll s ++ jumpTo s (srcA s f))
def execCall (f : SSlot) (s : State) : Res :=
  slot s f.g (delayIll s ++ bodyIll s ++
    [.redirect (branchTarget f s), scalarResult 63 1 (BitVec.ofNat 64 (s.cur.pc + 5))])
def execRet (f : SSlot) (s : State) : Res := slot s f.g (delayIll s ++ bodyIll s ++ jumpTo s (s.me.readC 63))

/-! ## Hardware loops (R96 to R100) -/

/-- The loop of R96 with its counts, body length and stage count; the body begins at the next bundle. -/
def loopOf (f : SSlot) (counts : List Nat) (s : State) : Loop :=
  let stages := fieldOf f.imm 5 2 + 1
  let n0 := nthD 1 counts 0
  { active := true, stages := stages, body := fieldOf f.imm 0 5 + 1, first := s.cur.pc + 1, n0 := n0, lexit := false,
    cnt := setNth counts 0 (if 2 ≤ stages then n0 + stages - 1 else n0), idx := [0, 0, 0, 0, 0, 0] }
/-- The COUNT of level `l` of a descriptor (Table 3.7). -/
def levelCount (d : Descr) (l : Nat) : Nat := fieldOf d (128 + 64 * l) 16
def loopCounts (d : Descr) : List Nat := (upTo 6 0).map (fun l => Nat.max (levelCount d l) 1)
def execLoop (f : SSlot) (s : State) : Res :=
  slot s f.g (delayIll s ++ bodyIll s ++ [.startLoop (loopOf f (loopCounts (s.me.readD f.d.toNat)) s)])
def execLoopi (f : SSlot) (s : State) : Res :=
  slot s f.g (delayIll s ++ bodyIll s ++ [.startLoop (loopOf f [fieldOf f.imm 7 16, 1, 1, 1, 1, 1] s)])
def execLexit (f : SSlot) (s : State) : Res :=
  slot s f.g (delayIll s ++ if s.me.loop.active then [.lexit] else [.trap .ill 0])
/-- STAGE n: the first n stage guards (R99). -/
def execStage (f : SSlot) (s : State) : Res :=
  slot s f.g (delayIll s ++ (upTo 4 0).map (fun i => pairResult (4 + i) (decide (i < fieldOf f.imm 0 2 + 1))))

/-! ## Tokens (R101) -/

/-- R21: reaching the bundle makes an implicit boundary while the SRQ holds anything. -/
def implicitBoundary (s : State) : List Effect := if s.me.srq.isEmpty then [] else [.implicit]
/-- The tokens a slot names, k0 apart. -/
def kwaitTokens (f : SSlot) : List Nat := [f.d.toNat, f.a.toNat, f.b.toNat].filter (fun k => k != 0)
/-- The trap of a token that completed with a status: XLAT with the address kept beside it, else ENG. -/
def tokenTrap (s : State) (k : Nat) : List Effect :=
  let t := s.me.token k
  if t.pend ∨ t.status = 0 then []
  else if t.status = Cause.code .xlat then [.trap .xlat (BitVec.ofNat 64 t.addr)]
  else [.trap .eng (BitVec.ofNat 64 k)]
def tokenWaits (s : State) (ks : List Nat) : List Effect :=
  if ks.any (fun k => (s.me.token k).pendingAt s.cyc) then [.wait 1 none] else []
/-- KWAIT (R101). When several named tokens hold a status of one cause, the first in the order D, A, B gives TVAL (log
entry 66). -/
def execKwait (f : SSlot) (s : State) : Res :=
  slot s f.g (delayIll s ++ implicitBoundary s ++ tokenWaits s (kwaitTokens f) ++
    (kwaitTokens f).flatMap (tokenTrap s))

/-! ## Sync words (R102 to R106) -/

/-- A sync word in a bank that is not allocated to the launch (R103). -/
def syncForeign (s : State) (y : Word) : Bool := !(s.here.bank (bankOf (syncFlat y))).allocatedTo s.me s.cur.ctx
/-- A sync instruction raises BOWN for a word of another launch or of the pool, whatever the word holds (R3); else it
waits for refresh (R103). -/
def syncChecks (s : State) (y : Word) : List Effect :=
  if syncForeign s y then [.trap .bown (BitVec.ofNat 64 (syncFlat y))]
  else if (s.here.refreshEnd (bankOf (syncFlat y)) s.cyc 1).isSome then [.wait 6 none]
  else []
def execSwait (f : SSlot) (s : State) : Res :=
  let y := s.me.readY f.d.toNat
  slot s f.g (delayIll s ++ implicitBoundary s ++ syncChecks s y ++
    (if syncForeign s y ∨ passed (s.genSeen s.cur.core y) (fieldOf (srcA s f) 0 16) then [] else [.wait 2 none]))
/-- Slot n of a SWAITANY is complete (R105). -/
def syncComplete (s : State) (n : Nat) : Bool := passed (s.genSeen s.cur.core (s.me.readY n)) (s.me.readSg n)
/-- The first complete slot of the mask in the order YPTR, YPTR + 1, … mod 8. -/
def firstComplete (s : State) (mask : Nat) : Option Nat :=
  (findFrom (fun i => natBit mask ((s.me.yptr + i) % 8) && syncComplete s ((s.me.yptr + i) % 8)) 8 0).map
    (fun i => (s.me.yptr + i) % 8)
def execSwaitany (f : SSlot) (s : State) : Res :=
  let mask := fieldOf f.imm 0 8
  let named := (upTo 8 0).filter (natBit mask)
  slot s f.g (delayIll s ++ implicitBoundary s ++ named.flatMap (fun n => syncChecks s (s.me.readY n)) ++
    (if named.any (fun n => syncForeign s (s.me.readY n)) then []
     else
      match firstComplete s mask with
      | some n => [scalarResult f.d.toNat 1 (BitVec.ofNat 64 n), .consume n]
      | none => [.wait 2 none]))
/-- YSET: a value outside Table 5.10 raises BRANGE; SG takes the word's GEN where the write lands (R102). -/
def execYset (f : SSlot) (s : State) : Res :=
  let v := srcA s f
  slot s f.g
    [if v.toNat < 2 ^ 25 ∧ fieldOf v 3 22 < Config.flatLines then result (.sync f.d.toNat) 1 (v.zeroExtend 1024) allLanes 0
     else .trap .brange v]
def execSpost (f : SSlot) (s : State) : Res :=
  let y := s.me.readY f.d.toNat
  let a := syncAddr s.cur.core y
  slot s f.g (syncChecks s y ++ [.held (fieldOf f.imm 0 4) (.post a ((srcA s f).extractLsb' 0 32)) (syncFlat y) a])

/-! ## Fences (R107, R108) -/

/-- The mask and the scope of a fence. -/
def fenceMask (f : SSlot) : BitVec 16 := f.imm.extractLsb' 0 16
def scopeOf (n : Nat) : Scope := if n = 0 then .cluster else if n = 1 then .device else .system
def fenceScope (f : SSlot) : Scope := scopeOf (fieldOf f.imm 16 2)
/-- A mask of 0 does nothing. -/
def fenceWith (f : SSlot) (k : AccessKind) (s : State) : Res :=
  slot s f.g (if fenceMask f = 0 then [] else [.order k])
def execFence (f : SSlot) (s : State) : Res := fenceWith f (.fence (fenceMask f) (fenceScope f)) s
def execRel (f : SSlot) (s : State) : Res := fenceWith f (.rel (fenceMask f) (fenceScope f)) s
def execAcq (f : SSlot) (s : State) : Res := fenceWith f (.acq (fenceMask f)) s

/-! ## Work, segments and checks (R25, R26, R109 to R112) -/

/-- CLAIM replays a logged index, or asks for a new one; a full log first makes the implicit boundary of R21. -/
def execClaim (f : SSlot) (s : State) : Res :=
  let x := s.me
  slot s f.g (delayIll s ++
    (if x.replay < x.claims.length then [] else if 16 ≤ x.claims.length then [.implicit] else []) ++
    [.claim f.d.toNat 0])
def execGrow (f : SSlot) (s : State) : Res := slot s f.g [.held 0 (.grow (srcA s f)) 0 0]
/-- The commands of a core's matrix engine and PPE, queued or running. -/
def Core.tileCommands (k : Core) : List Cmd :=
  k.loadQ ++ k.runQ ++ (match k.loadNow with | none => [] | some r => [r.cmd]) ++
    (match k.runNow with | none => [] | some r => [r.cmd]) ++ k.ppeQ ++
    (match k.drainNow with | none => [] | some r => [r.cmd])
/-- Every command of a core that has not completed. -/
def Core.commands (k : Core) : List Cmd :=
  k.tileCommands ++ k.copyQ ++ k.chans.map (fun e => e.2.cmd) ++ k.scaQ ++
    (match k.scaNow with | none => [] | some r => [r.cmd]) ++ k.joins
/-- A command of the matrix engine or of the PPE. -/
def Cmd.isTileWork (j : Cmd) : Bool := decide (j.op < 0x20)
/-- R165, R192: a boundary waits for the matrix and PPE commands issued in the ending segment, and sees a completion from
the next cycle on (R101); the SRQ is released first. -/
def boundaryWait (s : State) : List Effect :=
  (if s.me.srq.isEmpty then [] else [.release]) ++
  (if (s.here.tileCommands ++ (s.here.endedNow s.cyc).filter Cmd.isTileWork).any (fun c => decide (c.ctx = s.cur.ctx) && c.inSeg)
   then [.wait 13 none] else [])
def execSeg (f : SSlot) (s : State) : Res := slot s f.g (delayIll s ++ boundaryWait s ++ [.seg (fieldOf f.imm 0 16)])
def execRdv (f : SSlot) (s : State) : Res :=
  slot s f.g (delayIll s ++ boundaryWait s ++ [.rdv (fieldOf f.imm 0 16) (fieldOf f.imm 16 4)])
/-- The drift of a MARK (R111): the cycle of the segment's first bundle is this one when the MARK stands in it. -/
def markDrift (f : SSlot) (s : State) : Int :=
  ((s.cyc : Int) - (if s.me.segFirst then s.cyc else s.me.segStart : Nat)) - (fieldOf f.imm 0 24 : Nat)
def execMark (f : SSlot) (s : State) : Res :=
  let d := markDrift f s
  slot s f.g [result (.special 0x0B) 1 ((BitVec.ofInt 64 d).zeroExtend 1024) allLanes 0,
    .drift (BitVec.ofInt 64 d) (decide (s.here.dthr.toNat < d.natAbs))]
def execChk (f : SSlot) (s : State) : Res := slot s f.g (if srcA s f = srcB s f then [] else [.mismatch false])
def execChkp (f : SSlot) (s : State) : Res :=
  slot s f.g (if s.me.readPair f.a.toNat = s.me.readPair f.b.toNat then [] else [.mismatch false])

/-! ## Context instructions (R113 to R115) -/

def execYield (f : SSlot) (s : State) : Res := slot s f.g [.yielded]
/-- The code of a TRAP or SYS. -/
def trapCode (f : SSlot) : Word := BitVec.ofNat 64 (fieldOf f.imm 0 16)
def execTrap (f : SSlot) (s : State) : Res := slot s f.g [.trap .trap (trapCode f)]
def execSys (f : SSlot) (s : State) : Res := slot s f.g [.trap .sys (trapCode f)]
/-- END (R27): its bundle commits; then, in this order, the SRQ is released, everything the context has started and every
token is awaited, and the context retires, or takes ENG for a token with a status (`State.endBundle`, `State.tryRetire`). -/
def execEnd (f : SSlot) (s : State) : Res := slot s f.g (delayIll s ++ bodyIll s ++ [.finish])

end Sys2Proof.Machine
end

