-- ==== Sys2Proof/Machine/Flags.lean ====
section
/-!
DEFINITION. The sticky flags (Table 2.6) and integer results, which wrap or clamp (R36).
-/
namespace Sys2Proof.Machine

/-- A set of conditions: the bits of FLAGS (Table 2.6). -/
abbrev FlagBits := BitVec 5
def invalidFlag : FlagBits := 0b00001
def overflowFlag : FlagBits := 0b00010
def underflowFlag : FlagBits := 0b00100
def inexactFlag : FlagBits := 0b01000
def saturatedFlag : FlagBits := 0b10000
/-- A flag when a condition holds. -/
def flagIf (b : Bool) (f : FlagBits) : FlagBits := if b then f else 0

/-- The range of a signed format of `w` bits. -/
def intMax (w : Nat) : Int := (2 ^ (w - 1) : Nat) - 1
def intMin (w : Nat) : Int := -((2 ^ (w - 1) : Nat) : Int)
/-- R36: an exact integer in a format of `w` bits, wrapped, or clamped with the saturated and inexact flags (R37). -/
def intResult (w : Nat) (sat : Bool) (x : Int) : Nat × FlagBits :=
  if sat then
    let y := clampInt (intMin w) (intMax w) x
    (wrapOf w y, flagIf (decide (y ≠ x)) (saturatedFlag ||| inexactFlag))
  else (wrapOf w x, 0)
/-- R36: a conversion from a float always clamps, and an out-of-range input is invalid. -/
def intClamped (w : Nat) (x : Int) : Nat × FlagBits :=
  let y := clampInt (intMin w) (intMax w) x
  (wrapOf w y, flagIf (decide (y ≠ x)) invalidFlag)

end Sys2Proof.Machine
end

