-- ==== Sys2Proof/Machine/Num.lean ====
section
/-!
DEFINITION. Number formats and arithmetic (chapter 2): a value is decoded to an exact number, computed exactly, and
rounded once (R33). The Q4X block code (R39 to R42). The special functions (R133).
-/
namespace Sys2Proof.Machine

/-- An exact value: NaN, an infinity, or (−1)^neg · m · 2^e, with zero signed. -/
inductive Num where
  | nan
  | inf (neg : Bool)
  | fin (neg : Bool) (m : Nat) (e : Int)
  deriving DecidableEq, Repr

/-- A binary format (Tables 2.1 and 2.2). `hasInf` is false for E4M3. -/
structure Format where
  expBits : Nat
  manBits : Nat
  bias : Int
  hasInf : Bool
  /-- Whether SAT acts on it (R34). -/
  sats : Bool
  /-- The largest finite encoding without its sign. -/
  maxBits : Nat
  nanBits : Nat
  deriving DecidableEq, Repr

def fp32 : Format := { expBits := 8, manBits := 23, bias := 127, hasInf := true, sats := false, maxBits := 0x7F7FFFFF, nanBits := 0x7FC00000 }
def bf16 : Format := { expBits := 8, manBits := 7, bias := 127, hasInf := true, sats := false, maxBits := 0x7F7F, nanBits := 0x7FC0 }
def e4m3 : Format := { expBits := 4, manBits := 3, bias := 7, hasInf := false, sats := true, maxBits := 0x7E, nanBits := 0x7F }
def e5m2 : Format := { expBits := 5, manBits := 2, bias := 15, hasInf := true, sats := true, maxBits := 0x7B, nanBits := 0x7E }
def Format.width (f : Format) : Nat := f.expBits + f.manBits + 1

/-- R30: the value an encoding stands for. -/
def Format.decode (f : Format) (b : Nat) : Num :=
  let neg := b.testBit (f.expBits + f.manBits)
  let e := natField b f.manBits f.expBits
  let m := natField b 0 f.manBits
  if e = 0 then .fin neg m (1 - f.bias - f.manBits)
  else if e = 2 ^ f.expBits - 1 ∧ f.hasInf then (if m = 0 then .inf neg else .nan)
  else if e = 2 ^ f.expBits - 1 ∧ m = 2 ^ f.manBits - 1 then .nan
  else .fin neg (2 ^ f.manBits + m) (e - f.bias - f.manBits)

/-- The sign bit of an encoding. -/
def Format.sign (f : Format) (neg : Bool) : Nat := if neg then 2 ^ (f.expBits + f.manBits) else 0
/-- The encoding of infinity without its sign; E4M3 has the default NaN there (R34). -/
def Format.infBits (f : Format) : Nat := (2 ^ f.expBits - 1) * 2 ^ f.manBits

/-- Whether dropping a remainder `r` of `2^s` rounds the magnitude up (Table 2.4). -/
def roundsUp (rnd : Nat) (neg : Bool) (q r s : Nat) : Bool :=
  if rnd = 0 then decide (2 ^ s < 2 * r) || (decide (2 * r = 2 ^ s) && decide (q % 2 = 1))
  else if rnd = 1 then false
  else if rnd = 2 then decide (r ≠ 0) && !neg
  else decide (r ≠ 0) && neg

/-- m · 2^e on the grid 2^q, rounded: the multiple of 2^q and whether a remainder was dropped. -/
def roundGrid (rnd : Nat) (neg : Bool) (m : Nat) (e q : Int) : Nat × Bool :=
  if q ≤ e then (m * 2 ^ (e - q).toNat, false)
  else
    let s := (q - e).toNat
    let n := m / 2 ^ s
    let r := m % 2 ^ s
    (n + (roundsUp rnd neg n r s).toNat, decide (r ≠ 0))

/-- Table 2.5: the result of an overflow, before SAT: true for infinity, false for the largest finite value. -/
def overflowsToInf (rnd : Nat) (neg : Bool) : Bool :=
  if rnd = 0 then true else if rnd = 1 then false else if rnd = 2 then !neg else neg

/-- An infinite result in a format (R34). -/
def Format.infinite (f : Format) (sat : Bool) (neg : Bool) : Nat × FlagBits :=
  if f.sats ∧ sat then (f.sign neg + f.maxBits, saturatedFlag ||| inexactFlag)
  else if f.hasInf then (f.sign neg + f.infBits, 0)
  else (f.nanBits, 0)

/-- The grid on which a magnitude m · 2^e of a format is rounded: its last mantissa bit, or the smallest subnormal. -/
def Format.grid (f : Format) (m : Nat) (e : Int) : Int :=
  let emin : Int := 1 - f.bias - f.manBits
  let top : Int := (bitLen m : Int) - 1 + e - f.manBits
  if top < emin then emin else top
/-- A magnitude n · 2^q on that grid as an encoding, or as an overflow (R34, Table 2.5), with its flags (R37). -/
def Format.finish (f : Format) (rnd : Nat) (sat neg : Bool) (n : Nat) (q : Int) (inexact : Bool) : Nat × FlagBits :=
  let carry := decide (n = 2 ^ (f.manBits + 1))
  let n1 := if carry then 2 ^ f.manBits else n
  let q1 := if carry then q + 1 else q
  let field : Nat := if n1 < 2 ^ f.manBits then 0 else (q1 + f.manBits + f.bias).toNat
  let bits := field * 2 ^ f.manBits + n1 % 2 ^ f.manBits
  if f.maxBits < bits then
    (if f.sats ∧ sat then (f.sign neg + f.maxBits, saturatedFlag ||| inexactFlag)
     else if overflowsToInf rnd neg then
       (if f.hasInf then (f.sign neg + f.infBits, overflowFlag ||| inexactFlag)
        else (f.nanBits, overflowFlag ||| inexactFlag))
     else (f.sign neg + f.maxBits, overflowFlag ||| inexactFlag))
  else
    (f.sign neg + bits, flagIf inexact inexactFlag ||| flagIf (inexact && decide (n1 < 2 ^ f.manBits)) underflowFlag)
/-- R33, R34, R37: an exact value rounded once to a format, with the flags of the rounding. -/
def Format.round (f : Format) (rnd : Nat) (sat : Bool) : Num → Nat × FlagBits
  | .nan => (f.nanBits, 0)
  | .inf neg => f.infinite sat neg
  | .fin neg m e =>
    if m = 0 then (f.sign neg, 0)
    else
      let q := f.grid m e
      let (n, inexact) := roundGrid rnd neg m e q
      f.finish rnd sat neg n q inexact
/-- R35: stochastic rounding with the 16-bit random value `u`; a value chosen above the largest finite one overflows as
for RNE (log entry 22). -/
def Format.stochastic (f : Format) (sat : Bool) (u : Nat) : Num → Nat × FlagBits
  | .nan => (f.nanBits, 0)
  | .inf neg => f.infinite sat neg
  | .fin neg m e =>
    if m = 0 then (f.sign neg, 0)
    else
      let q := f.grid m e
      if q ≤ e then f.finish 0 sat neg (m * 2 ^ (e - q).toNat) q false
      else
        let s := (q - e).toNat
        let r := m % 2 ^ s
        f.finish 0 sat neg (m / 2 ^ s + (decide (65536 ≤ r * 65536 / 2 ^ s + u ∧ r ≠ 0)).toNat) q (decide (r ≠ 0))

/-! ## Exact arithmetic -/

def Num.isNan : Num → Bool
  | .nan => true
  | .inf _ | .fin _ _ _ => false
def Num.isZero : Num → Bool
  | .fin _ m _ => decide (m = 0)
  | .nan | .inf _ => false
def Num.isFinite : Num → Bool
  | .fin _ _ _ => true
  | .nan | .inf _ => false
def Num.neg? : Num → Bool
  | .fin n _ _ => n
  | .inf n => n
  | .nan => false
def Num.negate : Num → Num
  | .nan => .nan
  | .inf n => .inf (!n)
  | .fin n m e => .fin (!n) m e
def Num.abs : Num → Num
  | .nan => .nan
  | .inf _ => .inf false
  | .fin _ m e => .fin false m e
def Num.zero : Num := .fin false 0 0
def Num.one : Num := .fin false 1 0
/-- An integer as an exact value. -/
def Num.ofInt (x : Int) : Num := .fin (decide (x < 0)) x.natAbs 0
/-- A value times a power of two. -/
def Num.scale (k : Int) : Num → Num
  | .nan => .nan
  | .inf n => .inf n
  | .fin n m e => .fin n m (e + k)
/-- The exact product; 0 · ∞ is an invalid operation. -/
def Num.mul : Num → Num → Num × FlagBits
  | .nan, _ => (.nan, 0)
  | .inf _, .nan => (.nan, 0)
  | .fin _ _ _, .nan => (.nan, 0)
  | .inf a, .inf b => (.inf (a ^^ b), 0)
  | .inf a, .fin b m _ => if m = 0 then (.nan, invalidFlag) else (.inf (a ^^ b), 0)
  | .fin a m _, .inf b => if m = 0 then (.nan, invalidFlag) else (.inf (a ^^ b), 0)
  | .fin a m e, .fin b n k => (.fin (a ^^ b) (m * n) (e + k), 0)
/-- A signed numerator. -/
def signed (neg : Bool) (m : Nat) : Int := if neg then -(m : Int) else m
/-- The exact sum of two finite values; an exact zero has the sign of R33. -/
def addFin (rnd : Nat) (a : Bool) (m : Nat) (e : Int) (b : Bool) (n : Nat) (k : Int) : Num :=
  let lo := if e ≤ k then e else k
  let x := signed a (m * 2 ^ (e - lo).toNat) + signed b (n * 2 ^ (k - lo).toNat)
  if x = 0 then
    (if m = 0 ∧ n = 0 ∧ a = b then .fin a 0 0 else .fin (decide (rnd = 3)) 0 0)
  else .fin (decide (x < 0)) x.natAbs lo
/-- The exact sum; ∞ − ∞ is an invalid operation. -/
def Num.add (rnd : Nat) : Num → Num → Num × FlagBits
  | .nan, _ => (.nan, 0)
  | .inf _, .nan => (.nan, 0)
  | .fin _ _ _, .nan => (.nan, 0)
  | .inf a, .inf b => if a = b then (.inf a, 0) else (.nan, invalidFlag)
  | .inf a, .fin _ _ _ => (.inf a, 0)
  | .fin _ _ _, .inf b => (.inf b, 0)
  | .fin a m e, .fin b n k => (addFin rnd a m e b n k, 0)
/-- a · b + c, exactly. -/
def Num.fma (rnd : Nat) (a b c : Num) : Num × FlagBits :=
  let (p, f) := a.mul b
  let (s, g) := p.add rnd c
  (s, f ||| g)
/-- The signed value of a finite number on the grid 2^lo. -/
def onGrid (lo : Int) (neg : Bool) (m : Nat) (e : Int) : Int := signed neg (m * 2 ^ (e - lo).toNat)
/-- a < b for values that are not NaN; −0 and +0 are equal. -/
def Num.lt : Num → Num → Bool
  | .nan, _ => false
  | .inf _, .nan => false
  | .fin _ _ _, .nan => false
  | .inf a, .inf b => a && !b
  | .inf a, .fin _ _ _ => a
  | .fin _ _ _, .inf b => !b
  | .fin a m e, .fin b n k =>
    let lo := if e ≤ k then e else k
    decide (onGrid lo a m e < onGrid lo b n k)
def Num.le (a b : Num) : Bool := !a.isNan && !b.isNan && !b.lt a
def Num.eq (a b : Num) : Bool := a.le b && b.le a

/-- A quotient of two finite magnitudes to more than 100 bits, with a last bit that stands for any remainder; rounding
it to a format gives the rounded exact quotient. -/
def divMag (m : Nat) (e : Int) (n : Nat) (k : Int) : Nat × Int :=
  let s := 120 + bitLen n
  let q := m * 2 ^ s / n
  let r := m * 2 ^ s % n
  (2 * q + (if r = 0 then 0 else 1), e - k - s - 1)
/-- The quotient, for rounding; 0/0 and ∞/∞ are invalid. -/
def Num.div : Num → Num → Num × FlagBits
  | .nan, _ => (.nan, 0)
  | .inf _, .nan => (.nan, 0)
  | .fin _ _ _, .nan => (.nan, 0)
  | .inf _, .inf _ => (.nan, invalidFlag)
  | .inf a, .fin b _ _ => (.inf (a ^^ b), 0)
  | .fin a _ _, .inf b => (.fin (a ^^ b) 0 0, 0)
  | .fin a m e, .fin b n k =>
    if n = 0 then (if m = 0 then (.nan, invalidFlag) else (.inf (a ^^ b), 0))
    else if m = 0 then (.fin (a ^^ b) 0 0, 0)
    else
      let (q, x) := divMag m e n k
      (.fin (a ^^ b) q x, 0)
/-- The integer square root, bit by bit. -/
def sqrtBits (n : Nat) : Nat → Nat → Nat
  | 0, r => r
  | i + 1, r => if (r + 2 ^ i) * (r + 2 ^ i) ≤ n then sqrtBits n i (r + 2 ^ i) else sqrtBits n i r
/-- The square root of a non-negative value, for rounding, as `divMag` is. -/
def Num.sqrt : Num → Num
  | .nan => .nan
  | .inf n => .inf n
  | .fin n m e =>
    if m = 0 then .fin n 0 0
    else
      let odd := e % 2 ≠ 0
      let m1 := if odd then 2 * m else m
      let e1 := if odd then e - 1 else e
      let w := m1 * 2 ^ 160
      let r := sqrtBits w (bitLen w / 2 + 1) 0
      .fin n (2 * r + (if r * r = w then 0 else 1)) (e1 / 2 - 80 - 1)

/-- A finite value rounded to an integer (R127, R128). -/
def roundInt (rnd : Nat) (neg : Bool) (m : Nat) (e : Int) : Int × Bool :=
  let (n, inexact) := roundGrid rnd neg m e 0
  (signed neg n, inexact)

/-! ## FP32 operations on encodings -/

/-- An FP32 encoding and the flags gathered on the way to it. -/
abbrev F32 := Nat × FlagBits
def num32 (x : Nat) : Num := fp32.decode x
/-- A value and its flags rounded to FP32. -/
def to32 (rnd : Nat) (x : Num × FlagBits) : F32 :=
  let (b, f) := fp32.round rnd false x.1
  (b, x.2 ||| f)
def add32 (rnd : Nat) (a b : Nat) : F32 := to32 rnd ((num32 a).add rnd (num32 b))
def sub32 (rnd : Nat) (a b : Nat) : F32 := to32 rnd ((num32 a).add rnd (num32 b).negate)
def mul32 (rnd : Nat) (a b : Nat) : F32 := to32 rnd ((num32 a).mul (num32 b))
def div32 (rnd : Nat) (a b : Nat) : F32 := to32 rnd ((num32 a).div (num32 b))
/-- FMA32 of R133 and R177. -/
def fma32 (a b c : Nat) : F32 := to32 0 (Num.fma 0 (num32 a) (num32 b) (num32 c))
def neg32 (a : Nat) : Nat := if (num32 a).isNan then fp32.nanBits else (if a < 2 ^ 31 then a + 2 ^ 31 else a - 2 ^ 31)

/-! ## Special functions (R133) -/

/-- x = ±2^e · m with m in [1, 2): e, and m as an FP32 encoding. -/
def split32 (m : Nat) (e : Int) : Int × Nat :=
  let top : Int := (bitLen m : Int) - 1
  (e + top, (fp32.round 0 false (.fin false m (-top))).1)
/-- One Newton step of VRCP: r ← FMA32(−m, y, 1); y ← FMA32(y, r, y). -/
def rcpStep (m : Nat) (y : F32) : F32 :=
  let r := fma32 (neg32 m) y.1 0x3F800000
  let z := fma32 y.1 r.1 y.1
  (z.1, y.2 ||| r.2 ||| z.2)
/-- The reciprocal of a finite non-zero value's magnitude, as the algorithm forms it, with its sign.
Log entry 15 (DEDUCED). -/
def vrcp32 (x : Nat) : F32 :=
  match num32 x with
  | .nan => (fp32.nanBits, 0)
  | .inf n => (fp32.sign n, 0)
  | .fin n m e =>
    if m = 0 then (fp32.sign n + fp32.infBits, 0)
    else
      let (k, mm) := split32 m e
      let y0 := fma32 (neg32 0x3FF0F0F1) mm 0x4034B4B5
      let y := rcpStep mm (rcpStep mm (rcpStep mm y0))
      let r := to32 0 ((num32 y.1).scale (-k), 0)
      (fp32.sign n + r.1 % 2 ^ 31, (y.2 &&& inexactFlag) ||| r.2)
/-- One step of VRSQ. -/
def rsqStep (a : Nat) (y : F32) : F32 :=
  let h := mul32 0 y.1 y.1
  let r := fma32 (neg32 a) h.1 0x3FC00000
  let z := mul32 0 y.1 r.1
  (z.1, y.2 ||| h.2 ||| r.2 ||| z.2)
def vrsq32 (x : Nat) : F32 :=
  match num32 x with
  | .nan => (fp32.nanBits, 0)
  | .inf n => if n then (fp32.nanBits, invalidFlag) else (0, 0)
  | .fin n m e =>
    if m = 0 then (fp32.sign n + fp32.infBits, 0)
    else if n then (fp32.nanBits, invalidFlag)
    else
      let (k, mm) := split32 m e
      let odd := k % 2 ≠ 0
      let m1 := if odd then (fp32.round 0 false ((num32 mm).scale 1)).1 else mm
      let k1 := if odd then k - 1 else k
      let a := (fp32.round 0 false ((num32 m1).scale (-1))).1
      let y0 := fma32 (neg32 0x3E19999A) m1 0x3F8CCCCD
      let y := rsqStep a (rsqStep a (rsqStep a (rsqStep a y0)))
      let r := to32 0 ((num32 y.1).scale (-(k1 / 2)), 0)
      (r.1, (y.2 &&& inexactFlag) ||| r.2)
/-- A polynomial's step p ← FMA32(p, x, c). -/
def hornerStep (x : Nat) (p : F32) (c : Nat) : F32 :=
  let r := fma32 p.1 x c
  (r.1, p.2 ||| r.2)
def vexp2 (x : Nat) : F32 :=
  match num32 x with
  | .nan => (fp32.nanBits, 0)
  | .inf n => (if n then 0 else fp32.infBits, 0)
  | .fin neg m e =>
    let v := Num.fin neg m e
    if (Num.ofInt 128).le v then (fp32.infBits, overflowFlag ||| inexactFlag)
    else if v.lt (Num.ofInt (-150)) then (0, underflowFlag ||| inexactFlag)
    else
      let (n, _) := roundInt 0 neg m e
      let f := (fp32.round 0 false (v.add 0 (Num.ofInt (-n))).1).1
      let p := [0x39218489, 0x3AAEC3FF, 0x3C1D955B, 0x3D635847, 0x3E75FDF0, 0x3F317218].foldl (hornerStep f) (0x377FE5FE, 0)
      let p1 := hornerStep f p 0x3F800000
      let r := to32 0 ((num32 p1.1).scale n, 0)
      (r.1, (p1.2 &&& inexactFlag) ||| r.2)
def vlog2 (x : Nat) : F32 :=
  match num32 x with
  | .nan => (fp32.nanBits, 0)
  | .inf n => if n then (fp32.nanBits, invalidFlag) else (fp32.infBits, 0)
  | .fin n m e =>
    if m = 0 then (fp32.sign true + fp32.infBits, 0)
    else if n then (fp32.nanBits, invalidFlag)
    else
      let (k, mm) := split32 m e
      let big := 0x3FB504F3 < mm
      let m1 := if big then (fp32.round 0 false ((num32 mm).scale (-1))).1 else mm
      let k1 := if big then k + 1 else k
      let u := (sub32 0 m1 0x3F800000).1
      let d := add32 0 m1 0x3F800000
      let rc := vrcp32 d.1
      let t := mul32 0 u rc.1
      let s := mul32 0 t.1 t.1
      let p := [0x3EA4258A, 0x3ED30BB1, 0x3F13BB63, 0x3F76384F, 0x4038AA3B].foldl (hornerStep s.1) (0x3E864D42, 0)
      let tp := mul32 0 t.1 p.1
      let r := to32 0 ((Num.ofInt k1).add 0 (num32 tp.1))
      (r.1, ((d.2 ||| rc.2 ||| t.2 ||| s.2 ||| p.2 ||| tp.2) &&& inexactFlag) ||| r.2)

/-! ## Element formats of the vector units (Table 4.4) -/

/-- The float format of an FMT code. -/
def floatFormat (n : Nat) : Option Format :=
  if n = 0 then some fp32 else if n = 1 then some bf16 else if n = 2 then some e4m3 else if n = 3 then some e5m2 else none

/-! ## The Q4X block code (R39 to R42) -/

/-- 2^(v − 127) of a scale byte; 0xFF is NaN (R30). -/
def scaleNum (v : Nat) : Num := if v = 255 then .nan else .fin false 1 ((v : Int) - 127)
/-- R40: the element whose slot is `code`, its partner slot being `partner`. -/
def q4xDecode (scale code partner : Nat) : Num :=
  if scale = 255 then .nan
  else
    let k : Int := (scale : Int) - 127
    if code = 8 then
      (if partner = 8 then .fin false 0 0 else .fin (natBit partner 3) 1 (3 + (natField partner 0 3 : Nat) + k))
    else if partner = 8 then .fin false 0 0
    else
      let v := signedOf 4 code
      .fin (decide (v < 0)) v.natAbs k
/-- The 16 code bytes of a block as one number: nibble i is slot i (R39). -/
def q4xElem (codes scale i : Nat) : Num :=
  q4xDecode scale (natField codes (4 * i) 4) (natField codes (4 * (if i % 2 = 0 then i + 1 else i - 1)) 4)
/-- R41: expansion to E4M3 at a read port or by conversion. -/
def q4xToE4m3 (x : Num) : Nat × FlagBits :=
  if x.isZero then (0, 0) else e4m3.round 0 true x

/-- Magnitudes in descending order, ties with the lower index first (R42). -/
def insertMag (i : Nat) (x : Num) : List (Nat × Num) → List (Nat × Num)
  | [] => [(i, x)]
  | (j, y) :: l => if y.lt x then (i, x) :: (j, y) :: l else (j, y) :: insertMag i x l
def sortMags : List (Nat × Num) → List (Nat × Num)
  | [] => []
  | (i, x) :: l => insertMagFront i x (sortMags l)
where
  /-- An element that comes first in index goes before equal magnitudes. -/
  insertMagFront (i : Nat) (x : Num) : List (Nat × Num) → List (Nat × Num)
    | [] => [(i, x)]
    | (j, y) :: l => if x.lt y then (j, y) :: insertMagFront i x l else (i, x) :: (j, y) :: l
/-- The finite elements of a block with their magnitudes, in descending order. -/
def blockMags (xs : List Num) : List (Nat × Num) :=
  sortMags ((xs.zipIdx.filter (fun p => p.1.isFinite)).map (fun p => (p.2, p.1.abs)))
/-- The scale byte of a block, and whether the scale was limited to 2^127 (R42). -/
def q4xScale (budget : Nat) (xs : List Num) : Nat × Bool :=
  match (blockMags xs)[budget]? with
  | some (_, .fin _ m e) =>
    if m = 0 then (0, false)
    else
      let k0 : Int := (bitLen m : Int) + e - 3
      let k := if (Num.fin false m e).le (Num.fin false 7 k0) then k0 else k0 + 1
      if k < -127 then (0, false) else if 127 < k then (254, true) else ((k + 127).toNat, false)
  | some (_, .nan) | some (_, .inf _) | none => (0, false)
/-- The code of an element within −7 … 7 times the scale, clamped (R42). -/
def q4xCode (scale : Nat) (x : Num) : Nat :=
  match x with
  | .nan | .inf _ => 0
  | .fin n m e => wrapOf 4 (clampInt (-7) 7 (roundInt 0 n m (e - ((scale : Int) - 127))).1)
/-- The exponent field of an escape (R42). -/
def escapeExp (scale m : Nat) (e : Int) : Nat :=
  let k : Int := (bitLen m : Int) - 1 + e - ((scale : Int) - 127)
  let n := if (Num.fin false 3 (k - 1)).le (Num.fin false m (e - ((scale : Int) - 127))) then k + 1 else k
  (clampInt 0 7 (n - 3)).toNat
/-- The escapes, taken in descending order of magnitude: codes, escaped elements, escapes taken. -/
def q4xEscapes (budget scale : Nat) (xs : List Num) : List (Nat × Num) → List Nat → List Nat → Nat → List Nat
  | [], codes, _, _ => codes
  | (i, x) :: l, codes, esc, used =>
    match x with
    | .nan | .inf _ => q4xEscapes budget scale xs l codes esc used
    | .fin _ m e =>
      let limit := Num.fin false 7 ((scale : Int) - 127)
      let partner := if i % 2 = 0 then i + 1 else i - 1
      if !limit.lt (.fin false m e) ∨ partner ∈ esc ∨ used = budget then q4xEscapes budget scale xs l codes esc used
      else
        let neg := (nthD Num.nan xs i).neg?
        let ex := escapeExp scale m e
        if neg ∧ ex = 0 then q4xEscapes budget scale xs l codes esc used
        else q4xEscapes budget scale xs l (setNth (setNth codes i 8) partner ((if neg then 8 else 0) + ex)) (i :: esc) (used + 1)
/-- The flags of a block's elements that `keep` picks, encoded as `packed` (R37, R42). -/
def q4xFlags (packed scale : Nat) (limited : Bool) (xs : List Num) (keep : Nat → Bool) : FlagBits :=
  let kept := xs.zipIdx.filter (fun p => keep p.2)
  flagIf (limited && !kept.isEmpty) saturatedFlag ||| flagIf (kept.any (fun p => !p.1.isFinite)) invalidFlag |||
    flagIf (kept.any (fun p => !(p.1.eq (q4xElem packed scale p.2)))) inexactFlag
/-- R42: a block's 16 code bytes, its scale byte and its flags. -/
def q4xEncode (budget : Nat) (xs : List Num) : Nat × Nat × FlagBits :=
  let (scale, limited) := q4xScale budget xs
  let codes := q4xEscapes budget scale xs (blockMags xs) (xs.map (q4xCode scale)) [] 0
  let packed := packNat 4 32 (fun i => nthD 0 codes i)
  (packed, scale, q4xFlags packed scale limited xs (fun _ => true))

end Sys2Proof.Machine
end

