-- ==== Sys2Proof/Machine/Grf.lean ====
section
/-!
DEFINITION. The grouped-row format (R213) and its expansions into grouped and dense stationary loads (R214, R215).
-/
namespace Sys2Proof.Machine

/-- A decoded GRF row: the value format, the values as stored, the span, and the positions listed under each value. -/
structure GrfRow where
  bf : Bool
  vals : List Nat
  span : Nat
  lists : List (List Nat)
  deriving DecidableEq, Repr

/-- `n` fields of `w` bits from bit `p` on. -/
def bitFields (v w : Nat) : Nat → Nat → List Nat
  | 0, _ => []
  | n + 1, p => natField v p w :: bitFields v w n (p + w)
/-- The position lists, `n` of them, from bit `p` on; none where the stream of `total` bits ends inside. -/
def grfLists (v total : Nat) : Nat → Nat → Option (List (List Nat) × Nat)
  | 0, p => some ([], p)
  | n + 1, p =>
    if total < p + 10 then none
    else
      let c := natField v p 10
      if total < p + 10 + 10 * c then none
      else
        match grfLists v total n (p + 10 + 10 * c) with
        | none => none
        | some (ls, q) => some (bitFields v 10 c (p + 10) :: ls, q)
def ascending : List Nat → Bool
  | [] => true
  | [_] => true
  | a :: b :: l => decide (a < b) && ascending (b :: l)
/-- The decode errors of R213, apart from a stream that ends inside the row. -/
def GrfRow.valid (r : GrfRow) : Bool :=
  decide (r.span ≤ 512) && (r.lists.all (fun l => ascending l && l.all (fun p => decide (p < r.span))) &&
    ((upTo 512 0).all (fun p => decide ((r.lists.filter (fun l => l.contains p)).length ≤ 1)) &&
      !(decide (r.span < 512) && decide (r.vals.length = 16))))
/-- The row that starts at bit `p` of a stream of `total` bits, and where the next one starts. -/
def grfRow (v total p : Nat) : Option (GrfRow × Nat) :=
  if total < p + 16 then none
  else
    let h := natField v p 16
    let nv := natField h 12 4 + 1
    let bf := natBit h 11
    let w := if bf then 16 else 8
    if total < p + 16 + nv * w then none
    else
      match grfLists v total (nv - 1) (p + 16 + nv * w) with
      | none => none
      | some (ls, q) =>
        let r : GrfRow := { bf := bf, vals := bitFields v w nv (p + 16), span := natField h 0 11 + 1, lists := ls }
        if r.valid then some (r, (q + 15) / 16 * 16) else none
/-- `n` rows from bit `p` on. -/
def grfRows (v total : Nat) : Nat → Nat → Option (List GrfRow × Nat)
  | 0, p => some ([], p)
  | n + 1, p =>
    match grfRow v total p with
    | none => none
    | some (r, q) =>
      match grfRows v total n q with
      | none => none
      | some (rs, e) => some (r :: rs, e)
/-- The code of a position (R213). -/
def GrfRow.code (r : GrfRow) (k : Nat) : Nat :=
  match findFrom (fun g => (nthD [] r.lists g).contains k) r.lists.length 0 with
  | some g => g
  | none => if k < r.span then r.vals.length - 1 else r.vals.length
/-- Codes a row uses. -/
def GrfRow.codes (r : GrfRow) : Nat := r.vals.length + (if r.span < 512 then 1 else 0)
/-- Value `g` of a row as BF16; +0 from the row's own count on. -/
def GrfRow.bf16 (r : GrfRow) (g : Nat) : Nat :=
  if g < r.vals.length then
    (if r.bf then nthD 0 r.vals g else (Machine.bf16.round 0 false (e4m3.decode (nthD 0 r.vals g))).1)
  else 0
/-- Value `g` of a row as E4M3 (R215). -/
def GrfRow.e4m3 (sat : Bool) (r : GrfRow) (g : Nat) : Nat :=
  if g < r.vals.length then
    (if r.bf then (Machine.e4m3.round 0 sat (Machine.bf16.decode (nthD 0 r.vals g))).1 else nthD 0 r.vals g)
  else 0
def rowAt (rows : List GrfRow) (n : Nat) : GrfRow := nthD { bf := false, vals := [], span := 0, lists := [] } rows n
/-- The lines of one grouped load, each with whether it carries the group-boundary mark (R157, R214). -/
def grfGrouped (rows : List GrfRow) (seq : Nat) : List (Line × Bool) :=
  let nval := rows.foldl (fun m r => Nat.max m r.codes) 1
  (upTo 512 0).map (fun k => (BitVec.ofNat 1024 (packList 4 (rows.map (fun r => r.code k))), false)) ++
    (upTo (4 * nval) 0).map (fun i => (packLine 16 64 (fun j => (rowAt rows (64 * (i % 4) + j)).bf16 (i / 4)), false)) ++
    [(BitVec.ofNat 1024 (nval - 1 + seq % 2 ^ 16 * 2 ^ 16), true)]
/-- The 1,024 lines of one dense load (R215). -/
def grfDense (sat : Bool) (rows : List GrfRow) : List (Line × Bool) :=
  (upTo 1024 0).map (fun i =>
    let k := 128 * (i / 256) + i % 256 / 2
    (packLine 8 128 (fun j => let r := rowAt rows (128 * (i % 2) + j); r.e4m3 sat (r.code k)), false))
/-- The lines of `n` loads from load `seq` and bit `p` on, and whether a decode error ended them.
Log entry 42 (DEDUCED). -/
def grfLoads (expand : List GrfRow → Nat → List (Line × Bool)) (v total : Nat) : Nat → Nat → Nat → List (Line × Bool) × Bool
  | 0, _, _ => ([], false)
  | n + 1, seq, p =>
    match grfRows v total 256 p with
    | none => ([], true)
    | some (rows, q) =>
      let (ls, bad) := grfLoads expand v total n (seq + 1) q
      (expand rows seq ++ ls, bad)

end Sys2Proof.Machine
end

