-- ==== Sys2Proof/Machine/Transport.lean ====
section
/-!
DEFINITION. The X slot (R79, R80) and the tangent unit (R169 to R179): moves, curve tables, fitting and evaluation, the
random number generator and the CRC. A move that names a trigger port moves its operand first; the trigger itself is a
further operation, after every operand-port write of its bundle (R80).
-/
namespace Sys2Proof.Machine

/-! ## Ports -/

/-- A result port as a bundle reads it: the latest result that is due (R80). -/
def dueResult (n : Nat) : Results → Line
  | [] => 0
  | (d, v) :: l => if d ≤ n then v else dueResult n l
/-- A new result; those that no later bundle can read are dropped. -/
def pushResult (n due : Nat) (v : Line) (l : Results) : Results :=
  (due, v) :: (l.takeWhile (fun e => decide (n < e.1)) ++ (l.dropWhile (fun e => decide (n < e.1))).take 1)
/-- The value of a scalar source. -/
def scalarSource (s : State) (p : Nat) : Word :=
  if p = 0 then 0
  else if p = 0x078 then (dueResult s.me.issued s.me.crcVal).extractLsb' 0 64
  else s.me.readC (p - 0x100)
/-- The value of a line source. -/
def lineSource (s : State) (p : Nat) : Line :=
  let x := s.me
  if p = 0 then 0
  else if p = 0x050 then dueResult x.issued x.tanA
  else if p = 0x051 then dueResult x.issued x.tanB
  else if p = 0x052 then dueResult x.issued x.tanLo
  else if p = 0x053 then dueResult x.issued x.tanHi
  else if p = 0x054 then dueResult x.issued x.tanY
  else if p = 0x068 then dueResult x.issued x.rngOut
  else tileValue s (BitVec.ofNat 14 (p - 0x400))
/-- What a scalar move does with its value. -/
def scalarMove (p : Nat) (v : Word) : List Effect :=
  if p = 0x001 then [.bc (lineOf (fun _ => v.extractLsb' 0 32))]
  else if p = 0x040 then [.operand 0 (v.zeroExtend 1024)]
  else if p = 0x041 then [.operand 1 (v.zeroExtend 1024)]
  else if 0x100 ≤ p then [scalarResult (p - 0x100) 1 v]
  else []
def execXmov (f : Move) (s : State) : Res := slot s f.g (scalarMove f.dst.toNat (scalarSource s f.src.toNat))
def execXtrg (f : Move) (s : State) : Res := slot s f.g (scalarMove f.dst.toNat 0)
def execXmovl (f : Move) (s : State) : Res :=
  let src := f.src.toNat
  let dst := f.dst.toNat
  let v := lineSource s src
  let row := BitVec.ofNat 14 (dst - 0x400)
  slot s f.g ((if 0x400 ≤ src then lineChecks s (BitVec.ofNat 14 (src - 0x400)) else []) ++
    (if dst = 0x001 then [.bc v]
     else if dst = 0x042 then [.operand 2 v]
     else if dst = 0x043 then [.operand 3 v]
     else if 0x400 ≤ dst then tileChecks s row ++ [result (.tile row) 1 v allLanes 0]
     else []))

/-- An operand port takes a value (R80). -/
def TanOps.take (t : TanOps) (port : Nat) (v : Line) : TanOps :=
  if port = 0 then { t with tb := v.extractLsb' 0 64 }
  else if port = 1 then { t with tol := v.extractLsb' 0 32 }
  else if port = 2 then { t with x := v }
  else { t with k := v }
/-- What an effect of this bundle has changed in the unit's operands and state. -/
def TanOps.after (t : TanOps) (e : Effect) : TanOps :=
  match e with
  | .operand p v => t.take p v
  | .rng v => { t with rng := v }
  | .crc v => { t with crc := v }
  | _ => t
/-- The unit's operands and state as a trigger of this bundle sees them (R80, R173). -/
def State.tanNow (s : State) : TanOps := s.cur.effs.foldl (fun t e => t.after e.2) s.me.tan

/-! ## Curve tables (R169 to R171) -/

def tableNo (t : TanOps) : Nat := fieldOf t.tb 0 2
/-- R169: a table another context holds, for a user context, or one not reserved to the launch of the context; nothing
is reserved to context 4, which has no launch.
Log entry 23 (DEDUCED). -/
def tableRefused (s : State) (n : Nat) : List Effect :=
  let t := s.here.table n
  let held := match t.holder with
    | none => false
    | some h => decide (h ≠ s.cur.ctx)
  if (s.user && held) || decide (s.user = false ∨ t.reserved ≠ s.me.launch) then [.trap .ill (BitVec.ofNat 64 n)] else []
def execTanKset (f : Move) (s : State) : Res :=
  let t := s.tanNow
  slot s f.g (tableRefused s (tableNo t) ++
    [.kset { due := s.me.issued + 2, table := tableNo t, group := fieldOf t.tb 2 3, nk := fieldOf t.tb 5 7, knots := t.k }])
def knotX (t : CurveTable) (i : Nat) : Nat := fieldOf (t.knots.get 0 i) 0 32
def knotF (t : CurveTable) (i : Nat) : Nat := fieldOf (t.knots.get 0 i) 32 32
def knotS (t : CurveTable) (i : Nat) : Nat := fieldOf (t.knots.get 0 i) 64 32
def finite32 (x : Nat) : Bool := (num32 x).isFinite
def lt32 (a b : Nat) : Bool := (num32 a).lt (num32 b)
/-- R170. -/
def CurveTable.usable (t : CurveTable) : Bool :=
  decide (2 ≤ t.nk ∧ t.nk ≤ 64) &&
    ((upTo t.nk 0).all (fun i => finite32 (knotX t i) && (finite32 (knotF t i) && finite32 (knotS t i))) &&
      (upTo (t.nk - 1) 0).all (fun i => lt32 (knotX t i) (knotX t (i + 1))))
/-- Exact sums and products of finite values. -/
def exSum : List Num → Num
  | [] => Num.zero
  | x :: xs => (x.add 0 (exSum xs)).1
def exMul (a b : Num) : Num := (a.mul b).1
def exInt (i : Int) (x : Num) : Num := exMul (Num.ofInt i) x
/-- κ of segment k, rounded up once (R171). -/
def kappa (t : CurveTable) (k : Nat) : Nat :=
  let h := exSum [num32 (knotX t (k + 1)), (num32 (knotX t k)).negate]
  let f0 := num32 (knotF t k)
  let f1 := num32 (knotF t (k + 1))
  let hs0 := exMul h (num32 (knotS t k))
  let hs1 := exMul h (num32 (knotS t (k + 1)))
  let n0 := (exSum [exInt (-6) f0, exInt (-4) hs0, exInt 6 f1, exInt (-2) hs1]).abs
  let n1 := (exSum [exInt 6 f0, exInt 2 hs0, exInt (-6) f1, exInt 4 hs1]).abs
  (fp32.round 2 false ((if n0.lt n1 then n1 else n0).div (exMul h h)).1).1

/-! ## Evaluation and fitting (R175, R177) -/

/-- The largest j with x_j ≤ p, none below the first knot. -/
def segmentOf (t : CurveTable) (p : Nat) : Option Nat :=
  (findFrom (fun i => !lt32 p (knotX t (t.nk - 1 - i))) t.nk 0).map (fun i => t.nk - 1 - i)
def r32 (x : F32) : Nat := x.1
/-- Curve(T, x): the value and the slope (R177). -/
def curve (t : CurveTable) (x : Nat) : Nat × Nat :=
  let ext (k : Nat) : Nat × Nat := ((fma32 (knotS t k) (sub32 0 x (knotX t k)).1 (knotF t k)).1, knotS t k)
  match segmentOf t x with
  | none => if (num32 x).isNan then (fp32.nanBits, fp32.nanBits) else ext 0
  | some k =>
    if (num32 x).isNan then (fp32.nanBits, fp32.nanBits)
    else if k = t.nk - 1 then ext k
    else
      let h := (sub32 0 (knotX t (k + 1)) (knotX t k)).1
      let d := (sub32 0 (knotF t (k + 1)) (knotF t k)).1
      let g0 := (mul32 0 h (knotS t k)).1
      let g1 := (mul32 0 h (knotS t (k + 1))).1
      let c3 := (to32 0 ((num32 (add32 0 g0 g1).1).add 0 ((num32 d).scale 1).negate)).1
      let c2 := (sub32 0 (sub32 0 d g0).1 c3).1
      let u := (div32 0 (sub32 0 x (knotX t k)).1 h).1
      let q := (fma32 u (fma32 u c3 c2).1 g0).1
      let hc := (fma32 u q (knotF t k)).1
      let r := (fma32 u (fma32 (mul32 0 0x40400000 u).1 c3 (to32 0 ((num32 c2).scale 1, 0)).1).1 g0).1
      (hc, (div32 0 r h).1)
def posInf : Nat := 0x7F800000
def negInf : Nat := 0xFF800000
/-- X(j) of R175, for j from −2 on shifted by 2. -/
def knotAt (t : CurveTable) (j : Int) : Nat :=
  if j < 0 then negInf else if (t.nk : Int) ≤ j then posInf else knotX t j.toNat
/-- The larger of the κ of the segments k−1, k and k+1 (R175). -/
def kappaNear (t : CurveTable) (k : Int) : Nat :=
  ([k - 1, k, k + 1].filter (fun j => decide (0 ≤ j ∧ j ≤ (t.nk : Int) - 2))).foldl
    (fun m j => let x := kappa t j.toNat; if lt32 m x then x else m) 0
/-- The half width w of R175. -/
def halfWidth (tol kap : Nat) : Nat :=
  if (num32 kap).isZero ∨ tol = posInf then posInf
  else if kap = posInf ∨ (num32 tol).isZero then 0
  else (fp32.round 1 false (((num32 tol).scale 1).div (num32 kap)).1.sqrt).1
/-- VMAX and VMIN on two values that are not NaN. -/
def larger32 (a b : Nat) : Nat := if lt32 a b ∨ ((num32 a).isZero ∧ (num32 b).isZero ∧ (num32 a).neg?) then b else a
def smaller32 (a b : Nat) : Nat := if lt32 b a ∨ ((num32 a).isZero ∧ (num32 b).isZero ∧ (num32 b).neg?) then b else a
/-- One lane of TAN.FIT: A, B, LO, HI. -/
def fitLane (t : CurveTable) (tol p : Nat) : Nat × Nat × Nat × Nat :=
  if !t.usable || !finite32 p || (num32 tol).isNan || (num32 tol).lt Num.zero then
    (fp32.nanBits, fp32.nanBits, fp32.nanBits, fp32.nanBits)
  else
    let k : Int := match segmentOf t p with
      | some k => k
      | none => -1
    let w := halfWidth tol (kappaNear t k)
    let (hc, ac) := curve t p
    (ac, (to32 0 (Num.fma 0 (num32 p).negate (num32 ac) (num32 hc))).1,
      larger32 (sub32 2 p w).1 (knotAt t (k - 1)), smaller32 (add32 3 p w).1 (knotAt t (k + 2)))
/-- A knot entry with bad parity that a trigger reads is found where its result is due (R263). -/
def knotDamage (s : State) (n lat : Nat) : List Effect :=
  match findFrom (fun i => s.here.bad (locKnot n i)) (Nat.min 64 (s.here.table n).nk) 0 with
  | none => []
  | some i => [.damaged lat (locKnot n i)]
def lanes32 (f : Nat → Nat) : Line := BitVec.ofNat 1024 (packList 32 ((upTo 32 0).map f))
def execTanFit (f : Move) (s : State) : Res :=
  let o := s.tanNow
  let n := tableNo o
  let t := s.here.table n
  let r := (upTo 32 0).map (fun i => fitLane t o.tol.toNat (elemOf 32 o.x i))
  let line (g : Nat × Nat × Nat × Nat → Nat) : Line := BitVec.ofNat 1024 (packList 32 (r.map g))
  slot s f.g (tableRefused s n ++ knotDamage s n 12 ++
    [.result 0 (line (fun q => q.1)) 12, .result 1 (line (fun q => q.2.1)) 12, .result 2 (line (fun q => q.2.2.1)) 12,
     .result 3 (line (fun q => q.2.2.2)) 12])
/-- TAN.EVAL and TAN.SLOPE. -/
def evalWith (g : Nat × Nat → Nat) (f : Move) (s : State) : Res :=
  let o := s.tanNow
  let n := tableNo o
  let t := s.here.table n
  let v := lanes32 (fun i => if t.usable then g (curve t (elemOf 32 o.x i)) else fp32.nanBits)
  slot s f.g (tableRefused s n ++ knotDamage s n 8 ++ [.result 4 v 8])
def execTanEval (f : Move) (s : State) : Res := evalWith (fun q => q.1) f s
def execTanSlope (f : Move) (s : State) : Res := evalWith (fun q => q.2) f s

/-! ## Random numbers and CRC (R178, R179) -/

/-- One word of the generator from a state already advanced. -/
def rngMix (v : Word) : Word :=
  let z := (v ^^^ (v >>> 30)) * 0xBF58476D1CE4E5B9
  let z := (z ^^^ (z >>> 27)) * 0x94D049BB133111EB
  z ^^^ (z >>> 31)
/-- The words of the next line and the state after them. -/
def rngWords : Nat → Word → List Nat × Word
  | 0, v => ([], v)
  | n + 1, v =>
    let v1 := v + 0x9E3779B97F4A7C15
    let (ws, v2) := rngWords n v1
    ((rngMix v1).toNat :: ws, v2)
def execRngSeed (f : Move) (s : State) : Res := slot s f.g [.rng (scalarSource s f.src.toNat)]
def execRngNext (f : Move) (s : State) : Res :=
  let (ws, v) := rngWords 16 s.tanNow.rng
  slot s f.g [.rng v, .result 5 (BitVec.ofNat 1024 (packList 64 ws)) 1]
/-- Eight steps of the reflected CRC-32C on a byte. -/
def crcShift : Nat → Nat → Nat
  | 0, c => c
  | n + 1, c => crcShift n (if c % 2 = 1 then (c / 2) ^^^ 0x82F63B78 else c / 2)
def crcByte (c b : Nat) : Nat := crcShift 8 (c ^^^ b)
/-- The CRC state after `n` bytes of a number, lowest first. -/
def crcBytes : Nat → Nat → Nat → Nat
  | 0, _, c => c
  | n + 1, v, c => crcBytes n (v / 256) (crcByte c (v % 256))
def crcResult (v : Nat) : List Effect :=
  [.crc (BitVec.ofNat 32 v), .result 6 (BitVec.ofNat 1024 (v % 2 ^ 32)) 2]
def execCrcInit (f : Move) (s : State) : Res := slot s f.g (crcResult (fieldOf (scalarSource s f.src.toNat) 0 32))
def execCrcLine (f : Move) (s : State) : Res :=
  slot s f.g (crcResult (crcBytes 128 (lineSource s f.src.toNat).toNat s.tanNow.crc.toNat))

end Sys2Proof.Machine
end

