-- ==== Sys2Proof/Machine/Copy.lean ====
section
/-!
DEFINITION. The copy engine (R204 to R222): the ten commands at issue, the start of a command on a channel, its reads
and writes, what it makes of the data, its credits and its faults, and its completion.
-/
namespace Sys2Proof.Machine

/-! ## Issue (R207 to R209, R222) -/

def unitLines (c : Cmd) : Nat := if modeField c.f 0 1 = 1 then 32 else 1
def hasSync (c : Cmd) : Bool := decide (modeField c.f 1 1 = 1 ∧ c.op ≠ 0x26 ∧ c.op ≠ 0x27)
def inAperture (d : Descr) : Bool := (apertureOf (Descr.base d)).isSome
/-- What a command demands of its destination side (Table 10.4). -/
inductive SideRule where
  | scratch
  | global
  | apertureOrScratch
  | either
  deriving DecidableEq, Repr
def SideRule.refuses (r : SideRule) (d : Descr) : Bool :=
  match r with
  | .scratch => Descr.glb d
  | .global => !Descr.glb d
  | .apertureOrScratch => Descr.glb d && !inAperture d
  | .either => false
/-- A copy command is held in the SRQ (R20, R204). -/
def copyIssue (f : ESlot) (checks : List Effect) (c : Cmd) (s : State) : Res :=
  slot s f.g (checks ++ commandWait s f false ++ [.command .copy c])
/-- The refusals of R222 that both sides share: GLB and aperture, SYNC with a memory destination, and the counts, for which
TVAL names DA.
Log entry 79 (DESIGN CHOICE). -/
def sideChecks (f : ESlot) (c : Cmd) (ra rb : SideRule) (counts : Bool) : List Effect :=
  illWith (ra.refuses c.da || (hasSync c && (Descr.glb c.da && !inAperture c.da)) || !counts) f.da.toNat ++
    illWith (rb.refuses c.db) f.db.toNat
def sameCount (c : Cmd) : Bool := decide (Descr.product c.da = Descr.product c.db)
def copyWith (f : ESlot) (op : Nat) (ra rb : SideRule) (counts : Cmd → Bool) (s : State) : Res :=
  let c := newCommand s f op [] []
  copyIssue f (sideChecks f c ra rb (counts c)) c s
def execCpyGs (f : ESlot) (s : State) : Res := copyWith f 0x20 .scratch .global sameCount s
def execCpySg (f : ESlot) (s : State) : Res := copyWith f 0x21 .global .scratch sameCount s
def execCpySs (f : ESlot) (s : State) : Res := copyWith f 0x22 .apertureOrScratch .scratch sameCount s
def execCpyGg (f : ESlot) (s : State) : Res := copyWith f 0x23 .global .global sameCount s
def execCpyXgrf (f : ESlot) (s : State) : Res := copyWith f 0x24 .scratch .either (fun _ => true) s
def execCpyXdn (f : ESlot) (s : State) : Res := copyWith f 0x25 .scratch .either (fun _ => true) s
def execCpyFpr (f : ESlot) (s : State) : Res :=
  copyWith f 0x26 .scratch .either (fun c => decide (Descr.product c.da = (Descr.product c.db + 15) / 16)) s
def execCpyCmp (f : ESlot) (s : State) : Res := copyWith f 0x27 .either .either sameCount s
def execCpyCrc (f : ESlot) (s : State) : Res := copyWith f 0x29 .apertureOrScratch .either sameCount s
/-- CPY.FILL copies row MODE[6:2] of tile T at issue (R209). -/
def execCpyFill (f : ESlot) (s : State) : Res :=
  let t := f.t.toNat
  let c := newCommand s f 0x28 [] []
  let busy := s.here.tileHeld (s.me.tileBase + t) s.cyc || groupLoading s t 1
  copyIssue f (groupTile s t 1 ++ groupPending s t 1 ++ (if busy then
        releaseFor s (s.here.tileHolders (s.me.tileBase + t) s.cyc) ++ [.wait 3 none] else []) ++
      sideChecks f c .either .either true)
    { c with ins := c.ins ++ rowsRead s t [modeField f 2 5], lines := [s.here.tileRow (s.me.tileBase + t) (modeField f 2 5)] } s

/-! ## Addresses (R204, R205) -/

/-- Where one line of a side lies, or the status of an address that cannot be reached. -/
inductive Side where
  | local_ (flat : Nat)
  | remote (core flat : Nat)
  | memory (pa : Nat)
  | bad (status : BitVec 8) (addr : Nat)
  deriving DecidableEq, Repr
/-- A scratchpad line of a core for the agent of an owner KIND.
Log entry 45 (DEDUCED). -/
def State.scratchSide (s : State) (c x kind core : Nat) (flat : Int) : Side :=
  let st := (s.core core).accessStatus kind (s.actsFor c x) flat
  if st ≠ 0 then .bad st (flatAddr flat) else if core = c then .local_ flat.toNat else .remote core flat.toNat
/-- A global address for an access of `len` bytes by an engine of a core, in the launch of a context. -/
def State.globalSide (s : State) (c x kind va len : Nat) (read write atomic : Bool) : Side × State :=
  if 2 ^ 57 ≤ va then (.bad stXlat va, s)
  else
    match apertureOf va with
    | some (vcore, flat, _) =>
      (match s.coreOf (s.ctx c x).launch vcore with
      | some core => (s.scratchSide c x kind core (flat : Nat), s)
      | none => (.bad stXlat va, s))
    | none =>
      match s.xlateNow (clusterOf c) va len read write atomic with
      | (some pa, s1) => (if s1.revoked pa then .bad stRevoked va else .memory pa, s1)
      | (none, s1) => (.bad stXlat va, s1)
/-- The VA of line `i` of unit `j` of a nest whose units have `lines` lines. -/
def unitVa (d : Descr) (lines j i : Nat) : Nat :=
  let va := wrapOf 64 (Descr.vaAt d j)
  va - va % (128 * lines) + 128 * i
/-- Line `i` of unit `j` of a nest. -/
def State.sideOf (s : State) (c x : Nat) (d : Descr) (lines j i : Nat) (write : Bool) : Side × State :=
  if Descr.glb d then s.globalSide c x 6 (unitVa d lines j i) 128 (!write) write false
  else (s.scratchSide c x 6 c (Descr.flatAt d j + (i : Nat)), s)

/-! ## What a command reads and makes of it (R208, R214 to R218) -/

/-- The read accesses of a command. -/
def Cmd.readCount (c : Cmd) : Nat :=
  if c.op = 0x28 then 0
  else if c.op = 0x27 then 2 * (Descr.product c.db * unitLines c)
  else if c.op = 0x24 ∨ c.op = 0x25 then Descr.product c.db
  else Descr.product c.db * unitLines c
/-- Whether the command lays its lines out as its destination nest's units (plain copies, FILL and CRC). -/
def Cmd.isPlain (c : Cmd) : Bool := decide (c.op ≤ 0x23 ∨ c.op = 0x28 ∨ c.op = 0x29)
/-- The side of read access `n`. -/
def State.readSide (s : State) (c : Nat) (cmd : Cmd) (n : Nat) : Side × State :=
  let l := unitLines cmd
  if cmd.op = 0x27 then
    let m := n / 2
    s.sideOf c cmd.ctx (if n % 2 = 0 then cmd.da else cmd.db) l (m / l) (m % l) false
  else if cmd.op = 0x24 ∨ cmd.op = 0x25 then s.sideOf c cmd.ctx cmd.db 1 n 0 false
  else s.sideOf c cmd.ctx cmd.db l (n / l) (n % l) false
/-- The side of output line `n`: of a unit, or of a nest walked in lines. -/
def State.writeSide (s : State) (c : Nat) (cmd : Cmd) (n : Nat) : Side × State :=
  let l := if cmd.isPlain then unitLines cmd else 1
  s.sideOf c cmd.ctx cmd.da l (n / l) (n % l) true
/-- The lines of the destination nest. -/
def Cmd.destLines (c : Cmd) : Nat :=
  if c.op = 0x27 then 0 else Descr.product c.da * (if c.isPlain then unitLines c else 1)
def plainLine (idx : Nat) (v : Line) : OutLine := { idx := idx, val := v, group := false, word := none }
/-- Terms of a page's fingerprint that line `i` of the page gives (R216). -/
def fingerprintLine (i : Nat) (v : Line) : Nat :=
  ((upTo 16 0).map (fun w => (2 * (16 * i + w) + 1) * elemOf 64 v w)).foldl (· + ·) 0
/-- The first byte in which two lines differ. -/
def firstDiff (a b : Line) : Option Nat := findFrom (fun i => decide (elemOf 8 a i ≠ elemOf 8 b i)) 128 0
/-- The result word of a comparison (Table 10.7): 0, or the offset of the first difference with DIFF. -/
def diffWord (sum : Nat) : Nat := if sum = 0 then 0 else 2 ^ 63 + (sum - 1)
/-- The lines a GRF expansion makes, as many as the destination takes, and the status it ends with.
Log entry 42 (DEDUCED). -/
def expandGrf (c : Cmd) (data : List Line) : List OutLine × Option Stop :=
  let v := packList 1024 (data.map BitVec.toNat)
  let expand (rows : List GrfRow) (seq : Nat) : List (Line × Bool) :=
    if c.op = 0x24 then grfGrouped rows seq else grfDense (modeField c.f 6 1 = 1) rows
  let (ls, bad) := grfLoads expand v (1024 * data.length) (modeField c.f 2 4 + 1) 0 0
  let room := Descr.product c.da
  let out := ((ls.take room).zipIdx.map (fun e => ({ idx := e.2, val := e.1.1, group := e.1.2, word := none } : OutLine)))
  (out, if bad || decide (room < ls.length) then some { pos := 0, status := stDecode, addr := 0 } else none)
/-- A CRC mismatch at the last line (R218): the CRC of all bytes but the last 4, inverted, against these. -/
def crcStop (sum : Nat) (v : Line) : Option Stop :=
  if (0xFFFFFFFF ^^^ crcBytes 124 v.toNat sum) = elemOf 32 v 31 then none else some { pos := 0, status := stCrc, addr := 0 }
/-- The result word of a comparison, with the line and word it goes to (R217). -/
def resultWord (c : Cmd) (sum : Nat) : OutLine :=
  { idx := 0, val := BitVec.ofNat 1024 (diffWord sum), group := false,
    word := some (natField (Descr.aux c.da) 4 22, natField (Descr.aux c.da) 0 4) }
/-- Read result `n` taken in order: the channel with what it makes of the line.
Log entry 42 (DEDUCED). -/
def Channel.take (h : Channel) (n : Nat) (v : Line) : Channel :=
  let c := h.cmd
  let last := decide (n + 1 = c.readCount)
  if c.op = 0x29 then
    { h with outq := h.outq ++ [plainLine n v], sum := if last then h.sum else crcBytes 128 v.toNat h.sum,
             final := if last then crcStop h.sum v else h.final }
  else if c.op = 0x26 then
    let sum := (h.sum + fingerprintLine (n % 32) v) % 2 ^ 64
    if n % 32 ≠ 31 then { h with sum := sum }
    else
      let prints := h.data ++ [BitVec.ofNat 1024 sum]
      if prints.length = 16 ∨ last then
        { h with sum := 0, data := [],
                 outq := h.outq ++ [plainLine (n / 512) (BitVec.ofNat 1024 (packList 64 (prints.map BitVec.toNat)))] }
      else { h with sum := 0, data := prints }
  else if c.op = 0x27 then
    if n % 2 = 0 then { h with data := [v] }
    else
      let sum := if h.sum ≠ 0 then h.sum else
        match firstDiff (nthD 0 h.data 0) v with
        | some i => 128 * (n / 2) + i + 1
        | none => 0
      { h with sum := sum, data := [], outq := if last then [resultWord c sum] else [] }
  else if c.op = 0x24 ∨ c.op = 0x25 then
    let data := h.data ++ [v]
    if last then
      let (out, st) := expandGrf c data
      { h with data := [], outq := out, final := st }
    else { h with data := data }
  else { h with outq := h.outq ++ [plainLine n v] }

/-! ## Channels -/

/-- What a command has to write before it has read anything: the lines of a FILL, and the result word of a comparison of
empty regions (R209, R217). -/
def Cmd.initialLines (c : Cmd) : List OutLine :=
  if c.op = 0x28 then (upTo c.destLines 0).map (fun i => plainLine i (nthD 0 c.lines 0))
  else if c.op = 0x27 ∧ c.readCount = 0 then [resultWord c 0]
  else []
/-- An expansion of an empty stream, which ends inside its first row (R213, R214). -/
def Cmd.initialStop (c : Cmd) : Option Stop :=
  if (c.op = 0x24 ∨ c.op = 0x25) ∧ c.readCount = 0 then (expandGrf c []).2 else none
def State.chan (s : State) (c ch : Nat) : Option Channel := (s.core c).chans.at? ch
def State.setChan (s : State) (c ch : Nat) (h : Channel) : State :=
  s.modCore c (fun k => { k with chans := k.chans.set ch h })
def newChannel (cmd : Cmd) (access cyc : Nat) : Channel :=
  { cmd := cmd, access := access, started := false, reads := 0, taken := 0, coming := [], data := [],
    sum := if cmd.op = 0x29 then 0xFFFFFFFF else 0, outq := [], writing := [], written := [], units := [], credited := 0,
    word := none, stop := none, final := none, readAt := cyc, writeAt := cyc, ending := false }
/-- The classed access of a command in its context's outbound queue. -/
def Ctx.accessOf (x : Ctx) (id : Nat) : Option Access :=
  x.out.find? (fun a => match a.kind with
    | .command j => decide (j.id = id)
    | .loadTile _ | .loadReg _ | .storeLine _ | .storeWord _ | .post _ _ | .grow _ | .fence _ _ | .rel _ _ | .acq _ => false)
/-- Queued commands take free channels in release order, the lowest first (R204). -/
def State.takeChannels (c : Nat) : List Cmd → State → State
  | [], s => s.modCore c (fun k => { k with copyQ := [] })
  | q :: qs, s =>
    match findFrom (fun ch => (s.chan c ch).isNone) 4 0 with
    | none => s.modCore c (fun k => { k with copyQ := q :: qs })
    | some ch =>
      let num := match (s.ctx c q.ctx).accessOf q.id with | some a => a.num | none => 0
      State.takeChannels c qs (s.setChan c ch (newChannel q num s.cyc))
/-- The core and slot of the sync word of a command, whose bank must be the launch's (R206, R208).
Log entry 43 (DEDUCED). -/
def State.syncTarget (s : State) (c : Nat) (cmd : Cmd) : Option (Nat × Nat) :=
  let slotNo := natField (Descr.aux cmd.da) 0 25
  let core := if Descr.glb cmd.da then
      (match apertureOf (Descr.base cmd.da) with
      | some (vcore, _, _) => s.coreOf (s.ctx c cmd.ctx).launch vcore
      | none => none)
    else some c
  match core with
  | none => none
  | some d =>
    if ((s.core d).bank (bankOf (slotNo / 8))).allocatedTo (s.ctx c cmd.ctx) cmd.ctx ∧ slotNo / 8 < Config.flatLines then
      some (d, slotNo) else none
/-- A consumed token stopped the command: it neither wrote nor credits anything (R197). A row that a FILL copied with bad
parity is no token: it ends the command as R210 says (log entry 46). -/
def Channel.idle (h : Channel) : Bool := decide ((inputStatus (h.cmd.ins.take 3)).1 ≠ 0)
/-- A command whose tokens have completed starts 2 cycles after its release, or after the last of them (R212).
Log entry 43 (DEDUCED). -/
def State.startChannel (s : State) (c ch : Nat) : State :=
  match s.chan c ch with
  | none => s
  | some h =>
    let start := Nat.max h.cmd.at_ (inputsCycle h.cmd.ins) + 2
    if h.started || !inputsDone h.cmd.ins then s
    else
      let (st, a) := inputStatus h.cmd.ins
      if st ≠ 0 then
        (s.setChan c ch { h with
          started := true, ending := true, word := if hasSync h.cmd && !h.idle then s.syncTarget c h.cmd else none,
          stop := some { pos := 0, status := st, addr := a } }).schedule s.cyc (.copyCommandComplete c ch)
      else if s.cyc < start then s.schedule start (.copyCommandStart c)
      else
        let h1 := { h with
          started := true, readAt := s.cyc, writeAt := s.cyc,
          word := if hasSync h.cmd then s.syncTarget c h.cmd else none,
          outq := h.cmd.initialLines, final := h.cmd.initialStop }
        let h2 := if hasSync h.cmd && h1.word.isNone then
            { h1 with stop := some { pos := 0, status := stBown, addr := natField (Descr.aux h.cmd.da) 3 22 }, outq := [] }
          else h1
        (s.setChan c ch h2).schedule s.cyc (.copyUnitRead c ch)
def execCopyCommandStart (core : Nat) (s : State) : Res :=
  if Config.cores ≤ core then .fault .noSuchUnit
  else if s.halted core then .next s
  else
    .next ((upTo 4 0).foldl (fun t ch => t.startChannel core ch)
      ((State.takeChannels core (s.core core).copyQ s).retryRelease core))

/-! ## Reads and writes (R206, R210 to R212) -/

/-- The unit of the destination nest that an output line belongs to. -/
def Channel.unitOf (h : Channel) (idx : Nat) : Nat := if h.cmd.isPlain then idx / unitLines h.cmd else idx
/-- The write of a unit has begun. -/
def Channel.begun (h : Channel) (unit : Nat) : Bool :=
  decide (0 < h.units.get 0 unit) || h.writing.any (fun w => decide (h.unitOf w.out.idx = unit))
/-- A fault: no further read begins, and units whose write has not begun are not written; the others are completed
(R210).
Log entry 44 (DEDUCED). -/
def Channel.fault (h : Channel) (st : BitVec 8) (addr : Nat) : Channel :=
  { h with stop := match h.stop with | some q => some q | none => some { pos := 0, status := st, addr := addr },
           outq := h.outq.filter (fun o => h.begun (h.unitOf o.idx)) }
/-- The value of a read fixed at the point that serves it: the line of another core's bank, once the bank is free and
owned, or memory behind the switch (R48, R52, R231, R232). -/
def State.fixFetch (s : State) (c : Nat) (h : Channel) (e : Fetch) (pa : Nat) : Fetch × State :=
  match placeOf pa with
  | .scratch d =>
    let k := s.core d
    let flat := flatOf pa
    let st := k.accessStatus 6 (s.actsFor c h.cmd.ctx) (flat : Nat)
    if st ≠ 0 then ({ e with fixed := true, status := st }, s)
    else if k.lineFree flat s.cyc then
      let after := (s.switchWrites (clusterOf c) pa 128).map (fun g => g.id)
      let v := BitVec.ofNat 1024 (s.readSeen (clusterOf c) pa 128)
      let (_, m, s1) := s.engineRead d flat
      ({ e with fixed := true, val := v, status := markStatus m, after := after, at_ := s.cyc + loadLatency flat }, s1)
    else ({ e with at_ := k.streamTime (bankOf flat) (busyTime flat) s.cyc }, s)
  | .hbm | .host | .window _ =>
    let st := if s.revoked pa then stRevoked else markStatus (s.seenMark (clusterOf c) pa 128)
    ({ e with fixed := true, val := BitVec.ofNat 1024 (s.readSeen (clusterOf c) pa 128), status := st,
              after := (s.switchWrites (clusterOf c) pa 128).map (fun g => g.id) }, s)
/-- A read result taken, or the fault it meets. -/
def State.takeRead (s : State) (c ch : Nat) (h : Channel) (e : Fetch) (es : List Fetch) : State :=
  let h1 := { h with coming := es, taken := h.taken + 1 }
  (match e.pa with | some pa => s.inflight pa false | none => s).setChan c ch
    (if h.stop.isSome then h1 else if e.status ≠ 0 then h1.fault e.status e.src else h1.take e.idx e.val)
/-- The first of the outstanding reads goes on later. -/
def State.deferRead (s : State) (c ch : Nat) (h : Channel) (e : Fetch) (es : List Fetch) : State :=
  (s.setChan c ch { h with coming := e :: es }).schedule e.at_ (.copyUnitRead c ch)
/-- Read results that have arrived, in order, `n` steps at most. A read served from writes at the switch returns once
these have been passed on (R235, log entry 68). -/
def State.takeReads (c ch : Nat) : Nat → State → State
  | 0, s => s
  | n + 1, s =>
    match s.chan c ch with
    | none => s
    | some h =>
      match h.coming with
      | e :: es =>
        if s.cyc < e.at_ then s
        else
          match e.pa, e.fixed with
          | some pa, false =>
            if !s.revoked pa && (s.flitsStopped pa || s.mixedAt (clusterOf c) pa 128) then
              let (d, s1) := s.drawDelay
              s1.deferRead c ch h { e with at_ := s.cyc + 1 + d } es
            else
              let (e1, s1) := s.fixFetch c h e pa
              if s1.cyc < e1.at_ then s1.deferRead c ch h e1 es
              else State.takeReads c ch n (s1.setChan c ch { h with coming := e1 :: es })
          | _, _ =>
            if s.stillAt (clusterOf c) e.after then
              let (d, s1) := s.drawDelay
              s1.deferRead c ch h { e with at_ := s.cyc + 1 + d } es
            else State.takeReads c ch n (s.takeRead c ch h e es)
      | [] => s
/-- A read of memory or of another core's scratchpad reaches the point that serves it after a delay the spec leaves open.
Log entry 5 (DESIGN CHOICE). -/
def State.fetchFrom (s : State) (c ch : Nat) (h : Channel) (pa addr : Nat) : State :=
  let (d, s1) := ((s.firedFlit c pa).inflight pa true).drawDelay
  let at_ := Nat.max (s.cyc + 1 + d) (h.coming.foldl (fun m e => Nat.max m e.at_) 0)
  (s1.setChan c ch { h with
    reads := h.reads + 1, readAt := s.cyc + 1,
    coming := h.coming ++ [{ idx := h.reads, at_ := at_, pa := some pa, src := addr, fixed := false, val := 0, status := 0,
                             after := [] }] }).schedule
      at_ (.copyUnitRead c ch)
/-- The next read access of a channel (R212). -/
def State.beginRead (s : State) (c ch : Nat) : State :=
  match s.chan c ch with
  | none => s
  | some h =>
    if h.stop.isSome || decide (h.cmd.readCount ≤ h.reads ∨ s.cyc < h.readAt) then s
    else
      let (side, s1) := s.readSide c h.cmd h.reads
      match side with
      | .bad st a => s1.setChan c ch (h.fault st a)
      | .local_ flat =>
        if (s1.core c).lineFree flat s.cyc then
          let (v, m, s2) := s1.engineRead c flat
          let at_ := s.cyc + loadLatency flat
          (s2.setChan c ch { h with
            reads := h.reads + 1, readAt := s.cyc + 1,
            coming := h.coming ++ [{ idx := h.reads, at_ := at_, pa := none, src := flat, fixed := true, val := v,
                                     status := markStatus m, after := [] }] }).schedule
              at_ (.copyUnitRead c ch)
        else s1.schedule ((s1.core c).streamTime (bankOf flat) (busyTime flat) s.cyc) (.copyUnitRead c ch)
      | .remote core flat => s1.fetchFrom c ch h (spAddr core flat) flat
      | .memory pa => s1.fetchFrom c ch h pa (unitVa h.cmd.db (unitLines h.cmd) (h.reads / unitLines h.cmd) (h.reads % unitLines h.cmd))
/-- A write through the switch. -/
def State.sendWrite (s : State) (c ch : Nat) (h : Channel) (o : OutLine) (os : List OutLine) (pa : Nat)
    (line : Option (Nat × Nat)) : State :=
  ((s.firedFlit c pa).startWrite c h.cmd.ctx h.access o.idx pa (bytesOf 128 o.val.toNat)).setChan c ch { h with
    outq := os, writeAt := s.cyc + 1, writing := h.writing ++ [{ out := o, flat := none, at_ := 0, bad := none }],
    written := h.written ++ line.toList }
/-- A write access begins at a side.
Log entry 45 (DEDUCED). -/
def State.writeTo (s : State) (c ch : Nat) (h : Channel) (o : OutLine) (os : List OutLine) (side : Side) : State :=
  match side with
  | .bad st a => s.setChan c ch ({ h with outq := os }.fault st a)
  | .local_ flat =>
    if (s.core c).lineFree flat s.cyc then
      let w := s.cyc + busyTime flat
      ((s.occupy c flat).setChan c ch { h with
        outq := os, writeAt := s.cyc + 1, writing := h.writing ++ [{ out := o, flat := some flat, at_ := w, bad := none }] }).schedule
          w (.copyUnitWritePerformed c ch o.idx)
    else s.schedule ((s.core c).streamTime (bankOf flat) (busyTime flat) s.cyc) (.copyUnitRead c ch)
  | .remote core flat => s.sendWrite c ch h o os (spAddr core flat) (some (core, flat))
  | .memory pa => s.sendWrite c ch h o os pa none
/-- A write may begin: all of its unit has been read, so that a unit whose write begins can be completed (R210).
Log entry 44 (DEDUCED). -/
def Channel.unitRead (h : Channel) (idx : Nat) : Bool :=
  !h.cmd.isPlain || decide (h.cmd.op = 0x28 ∨ (h.unitOf idx + 1) * unitLines h.cmd ≤ h.taken)
/-- The next write access of a channel. -/
def State.beginWrite (s : State) (c ch : Nat) : State :=
  match s.chan c ch with
  | none => s
  | some h =>
    match h.outq with
    | [] => s
    | o :: os =>
      if decide (s.cyc < h.writeAt) || (h.stop.isNone && !h.unitRead o.idx) then s
      else
        match o.word with
        | some (flat, _) => s.writeTo c ch h o os (s.scratchSide c h.cmd.ctx 6 c (flat : Nat))
        | none =>
          let (side, s1) := s.writeSide c h.cmd o.idx
          s1.writeTo c ch h o os side
/-- Every access of a channel is done: with a fault, those that had begun and those of units begun; without, all. -/
def Channel.finished (h : Channel) : Bool :=
  h.writing.isEmpty && (h.outq.isEmpty && (if h.stop.isSome then h.coming.isEmpty else decide (h.taken = h.cmd.readCount)))
/-- What follows an access: the completion in the cycle after the last effect (Table 10.6), or the next cycle's
accesses. -/
def State.channelGoesOn (s : State) (c ch : Nat) : State :=
  match s.chan c ch with
  | none => s
  | some h =>
    if h.finished then s.schedule (s.cyc + 1) (.copyCommandComplete c ch)
    else if (h.stop.isNone && decide (h.reads < h.cmd.readCount ∧ h.readAt = s.cyc + 1)) ||
        (!h.outq.isEmpty && decide (h.writeAt = s.cyc + 1)) then
      s.schedule (s.cyc + 1) (.copyUnitRead c ch)
    else s
/-- Every read that an access makes has returned: an ACQ no longer waits for it (R107). -/
def State.readsReturned (s : State) (c x num : Nat) : State :=
  match (s.ctx c x).findAccess num with
  | none => s
  | some a =>
    if a.progress = .started then
      ((s.modAccess c x num (fun a => { a with progress := .returned })).afterAccess c x).pump c x
    else s
def State.noteReads (s : State) (c ch : Nat) : State :=
  match s.chan c ch with
  | none => s
  | some h => if h.taken = h.cmd.readCount then s.readsReturned c h.cmd.ctx h.access else s
/-- Every read of a command has returned and every write of it has begun; those to its own scratchpad are done. -/
def Channel.allSent (h : Channel) : Bool :=
  (h.started && h.stop.isNone) && ((h.coming.isEmpty && decide (h.taken = h.cmd.readCount)) &&
    (h.outq.isEmpty && h.writing.all (fun w => w.flat.isNone && w.bad.isNone)))
/-- A copy whose reads have returned is performed at the scope that all of its writes have reached (R230). -/
def State.notePerformed (s : State) (c ch : Nat) : State :=
  match s.chan c ch with
  | none => s
  | some h =>
    if h.allSent then
      match scopeOfAll (s.writesOf c h.cmd.ctx h.access) with
      | some p => s.performedTo c h.cmd.ctx h.access p
      | none => s
    else s
/-- The accesses of a channel in this cycle; none before its class lets it begin (R211). -/
def execCopyUnitRead (core chan : Nat) (s : State) : Res :=
  if Config.cores ≤ core ∨ 4 ≤ chan then .fault .noSuchUnit
  else
    match s.chan core chan with
    | none => .next s
    | some h =>
      match (s.ctx core h.cmd.ctx).findAccess h.access with
      | none => .next s
      | some a =>
        if !h.started || h.ending || decide (a.progress = .waiting) then .next s
        else
          let s1 := ((((State.takeReads core chan (2 * h.coming.length) s).beginWrite core chan).beginRead core chan).noteReads core chan).notePerformed core chan
          .next (s1.channelGoesOn core chan)

/-- A scratchpad line of the destination nest, wherever it lies (R210). -/
def State.destLine (s : State) (c : Nat) (cmd : Cmd) (n : Nat) : Option (Nat × Nat) :=
  let l := if cmd.isPlain then unitLines cmd else 1
  if Descr.glb cmd.da then
    match apertureOf (unitVa cmd.da l (n / l) (n % l)) with
    | none => none
    | some (vcore, flat, _) => (s.coreOf (s.ctx c cmd.ctx).launch vcore).map (fun d => (d, flat))
  else
    let flat := Descr.flatAt cmd.da (n / l) + (n % l : Nat)
    if inScratch flat then some (c, flat.toNat) else none
/-! ## Writes performed, credits (R202, R206, R208) -/

/-- One output line of a unit has been performed; a unit that is complete is credited in that cycle, but for the last
unit of a command that ends with a status, which the completion credits.
Log entry 43 (DEDUCED). -/
def State.lineDone (s : State) (c ch : Nat) (h : Channel) (idx : Nat) : State :=
  let l := unitLines h.cmd
  let n := h.units.get 0 (h.unitOf idx) + 1
  let h1 := { h with units := h.units.set (h.unitOf idx) n }
  if hasSync h.cmd && (h.cmd.isPlain && decide (n = l ∧
      ((h.final = none ∧ h.stop = none) ∨ h1.credited + 128 * l < 128 * h.cmd.destLines))) then
    match h.word with
    | some (d, w) => (s.setChan c ch { h1 with credited := h1.credited + 128 * l }).credit d w (128 * l) 0 false
    | none => s.setChan c ch h1
  else s.setChan c ch h1
/-- A local write performed: a bank that has changed hands meanwhile ends the command at the line (R52). -/
def State.performLocal (s : State) (c ch : Nat) (h : Channel) (w : Writing) (flat : Nat) : State :=
  let h1 := { h with writing := h.writing.filter (fun v => decide (v ≠ w)) }
  let st := (s.core c).accessStatus 6 (s.actsFor c h.cmd.ctx) (flat : Nat)
  if st ≠ 0 then s.setChan c ch (h1.fault st flat)
  else
    match w.out.word with
    | some (_, n) => (s.writeFlatWord c flat n (w.out.val.extractLsb' 0 64)).setChan c ch h1
    | none =>
      let s1 := s.writeFlat c flat w.out.val
      let s2 := if w.out.group then s1.setMark (spAddr c flat) .group else s1
      s2.lineDone c ch { h1 with written := h1.written ++ [(c, flat)] } w.out.idx
/-- The scope at which a line sent through the switch has been performed; none before its first acknowledgement. -/
def State.sentLevel (s : State) (c x acc unit : Nat) : Option Scope :=
  match s.writes.find? (fun g => decide (g.core = c ∧ g.ctx = x ∧ g.acc = acc ∧ g.unit = unit)) with
  | some g => g.level
  | none => some .system
/-- The scope a command's effects must reach: its SCOPE, or every observer's for lines that are counted. -/
def Cmd.needs (c : Cmd) : Scope := if hasSync c then .system else commandScope c.f
/-- A line sent through the switch that its bank refused: it is not written, and the command ends there (R52, R210). -/
def State.refused (s : State) (c ch : Nat) (h : Channel) (w : Writing) (st : BitVec 8) (flat : Nat) : State :=
  let lost := s.destLine c h.cmd w.out.idx
  s.setChan c ch ({ h with
    writing := h.writing.filter (fun v => decide (v ≠ w)),
    written := h.written.filter (fun e => decide (some e ≠ lost)) }.fault st flat)
/-- A copy write is performed: in the scratchpad of its core at the end of its busy window, elsewhere as far as its
acknowledgements say. -/
def execCopyUnitWritePerformed (core chan unit : Nat) (s : State) : Res :=
  if Config.cores ≤ core ∨ 4 ≤ chan then .fault .noSuchUnit
  else
    match s.chan core chan with
    | none => .next s
    | some h =>
      let goesOn (t : State) : Res := .next ((t.notePerformed core chan).channelGoesOn core chan)
      match h.writing.find? (fun w => decide (w.out.idx = unit)) with
      | none => goesOn s
      | some w =>
        match w.bad with
        | some (st, flat) => goesOn (s.refused core chan h w st flat)
        | none =>
        match w.flat with
        | some flat => if s.cyc < w.at_ then .next s else goesOn (s.performLocal core chan h w flat)
        | none =>
          match s.sentLevel core h.cmd.ctx h.access unit with
          | none => .next s
          | some p =>
            if scopeReaches p h.cmd.needs then
              goesOn (s.lineDone core chan { h with writing := h.writing.filter (fun v => decide (v ≠ w)) } unit)
            else .next (s.notePerformed core chan)

/-! ## Completion (R210, R218) -/

/-- The status and address a command ends with. -/
def Channel.outcome (h : Channel) : BitVec 8 × Nat :=
  match h.stop with
  | some q => (q.status, q.addr)
  | none => match h.final with | some q => (q.status, q.addr) | none => (0, 0)
/-- The lines not written, in banks of the command's launch, which a fault marks POISON; with `all`, written lines too.
Log entry 44 (DEDUCED). -/
def State.poisonTargets (s : State) (c : Nat) (cmd : Cmd) (written : List (Nat × Nat)) (all : Bool) : List (Nat × Nat) :=
  (upTo cmd.destLines 0).filterMap (fun n =>
    match s.destLine c cmd n with
    | none => none
    | some (d, flat) =>
      if decide (((s.core d).bank (bankOf flat)).allocatedTo (s.ctx c cmd.ctx) cmd.ctx ∧ flat < Config.flatLines) &&
          (all || !written.contains (d, flat)) then some (d, flat) else none)
def State.poisonLines (s : State) (l : List (Nat × Nat)) : State :=
  l.foldl (fun t e => t.setMark (spAddr e.1 e.2) .poison) s
/-- The bytes not yet credited, with the status (R210). -/
def State.creditRest (s : State) (h : Channel) (st : BitVec 8) (poisons : Bool) : State :=
  match h.word with
  | some (d, w) => s.credit d w (128 * h.cmd.destLines - h.credited) st poisons
  | none => s
/-- The access of a command whose token has completed: it ends with its last write (R211). -/
def State.endAccess (s : State) (c x num : Nat) : State :=
  match scopeOfAll (s.writesOf c x num) with
  | some .system => s.finishAccess c x num 0 0
  | some .device => s.performedTo c x num .device
  | some .cluster => s.performedTo c x num .cluster
  | none => s
/-- A checksum that does not match marks the lines once every write of the command has been performed (R218). -/
def State.crcWaits (s : State) (c : Nat) (h : Channel) : Bool :=
  decide ((h.outcome).1 = stCrc) && !(s.writesOf c h.cmd.ctx h.access).isEmpty
/-- A copy ends: marks, credit, token, and the channel is free. -/
def execCopyCommandComplete (core chan : Nat) (s : State) : Res :=
  if Config.cores ≤ core ∨ 4 ≤ chan then .fault .noSuchUnit
  else
    match s.chan core chan with
    | none => .next s
    | some h =>
      if !(h.started && (h.idle || h.finished)) || s.crcWaits core h then .next s
      else
        let (st, a) := h.outcome
        let poisoned := if decide (st ≠ 0) && (!h.idle && decide (h.cmd.op ≠ 0x27)) then
          s.poisonTargets core h.cmd h.written (decide (st = stCrc)) else []
        let s1 := s.modCore core (fun k => { k with chans := k.chans.erase chan })
        let s2 := s1.poisonLines poisoned
        let s3 := if h.idle then s2 else s2.creditRest h st (!poisoned.isEmpty)
        let s4 := (s3.endAccess core h.cmd.ctx h.access).complete core h.cmd st a
        .next ((s4.schedule s.cyc (.copyCommandStart core)).retryRelease core)

end Sys2Proof.Machine
end

