-- ==== Sys2Proof/WellFormed.lean ====
section
/-!
DEFINITION. Which instructions are well formed: the fields of a slot are used as the form's table says (R82), and a
step of the part names a core, a context or a unit that exists. What depends on the whole bundle, on the bundle's
address or on the issuing context is checked in Machine/Bundle.lean.
-/
namespace Sys2Proof

/-- The fields of an instruction are ones the decoder accepts; a step names units that exist. -/
def Instr.wf : Instr → Bool
  | .issueCycle core => Machine.isCore core
  | .srqEntryEnqueue core ctx => Machine.isCtx core ctx
  | .rewindResume core ctx => Machine.isCtx core ctx
  | .watchdogExpiry core ctx => Machine.isCtx core ctx
  | .engineWatchdogExpiry core _ => Machine.isCore core
  | .claimAnswer core ctx => Machine.isCtx core ctx
  | .nop => true
  | .add f => Machine.sThree f
  | .addi f => Machine.sImm f
  | .sub f => Machine.sThree f
  | .mul f => Machine.sThree f
  | .muli f => Machine.sImm f
  | .mulh f => Machine.sThree f
  | .mulhn f => Machine.sThree f
  | .and f => Machine.sThree f
  | .andi f => Machine.sImm f
  | .or f => Machine.sThree f
  | .ori f => Machine.sImm f
  | .xor f => Machine.sThree f
  | .xori f => Machine.sImm f
  | .shl f => Machine.sThree f
  | .shli f => Machine.sShiftImm f
  | .shr f => Machine.sThree f
  | .shri f => Machine.sShiftImm f
  | .sar f => Machine.sThree f
  | .sari f => Machine.sShiftImm f
  | .min f => Machine.sThree f
  | .max f => Machine.sThree f
  | .minn f => Machine.sThree f
  | .maxn f => Machine.sThree f
  | .sel f => Machine.sSel f
  | .movi f => Machine.sMovi f
  | .movhi f => Machine.sMovhi f
  | .clz f => Machine.sTwo f
  | .popc f => Machine.sTwo f
  | .add32 f => Machine.sThree f
  | .addp f => Machine.sAddp f
  | .mulw f => Machine.sMulw f
  | .cmpEq f => Machine.sCmp f
  | .cmpNe f => Machine.sCmp f
  | .cmpLt f => Machine.sCmp f
  | .cmpLe f => Machine.sCmp f
  | .cmpLtn f => Machine.sCmp f
  | .cmpLen f => Machine.sCmp f
  | .cmpiEq f => Machine.sCmpi f
  | .cmpiNe f => Machine.sCmpi f
  | .cmpiLt f => Machine.sCmpi f
  | .cmpiLe f => Machine.sCmpi f
  | .cmpiLtn f => Machine.sCmpi f
  | .cmpiLen f => Machine.sCmpi f
  | .pand f => Machine.sPred f
  | .por f => Machine.sPred f
  | .pxor f => Machine.sPred f
  | .pset f => Machine.sPset f
  | .br f => Machine.sImmOnly 34 f
  | .brx f => Machine.sA f
  | .call f => Machine.sImmOnly 34 f
  | .ret f => Machine.sImmOnly 0 f
  | .loop f => Machine.sLoop f
  | .loopi f => Machine.sLoopi f
  | .lexit f => Machine.sImmOnly 0 f
  | .stage f => Machine.sImmOnly 2 f
  | .kwait f => Machine.sKwait f
  | .swait f => Machine.sSync f
  | .swaitany f => Machine.sWaitany f
  | .yset f => Machine.sSync f
  | .spost f => Machine.sPost f
  | .syncPostPerform core ctx _ => Machine.isCtx core ctx
  | .fence f => Machine.sFence f
  | .rel f => Machine.sFence f
  | .acq f => Machine.sFence f
  | .claim f => Machine.sD f
  | .grow f => Machine.sA f
  | .seg f => Machine.sImmOnly 16 f
  | .rdv f => Machine.sImmOnly 20 f
  | .mark f => Machine.sImmOnly 24 f
  | .chk f => Machine.sChk f
  | .chkp f => Machine.sChkp f
  | .yield f => Machine.sImmOnly 0 f
  | .trap f => Machine.sImmOnly 16 f
  | .sys f => Machine.sImmOnly 16 f
  | .end_ f => Machine.sImmOnly 0 f
  | .mfs f => Machine.sMfs f
  | .mts f => Machine.sMtsOther f
  | .pwinWrite f => Machine.sMtsTo 0x10 f
  | .trapinfoDismiss f => Machine.sMtsTo 0x20 f
  | .snapWrite f => Machine.sMtsTo 0x24 f
  | .injWrite f => Machine.sMtsTo 0x25 f
  | .trootWrite f => Machine.sMtsTo 0x26 f
  | .dbgControlWrite f => Machine.sMtsTo 0x28 f
  | .dbgBreakpointWrite f => Machine.sMtsTo 0x28 f
  | .dbgWatchWrite f => Machine.sMtsTo 0x28 f
  | .tret f => Machine.sImmOnly 0 f
  | .contextRestoreDone core ctx => Machine.isCtx core ctx
  | .csave f => Machine.sA f
  | .csaveComplete core => Machine.isCore core
  | .cload f => Machine.sA f
  | .cloadComplete core => Machine.isCore core
  | .tlbi f => Machine.sA f
  | .waiti f => Machine.sImmOnly 0 f
  | .vadd f => Machine.vThree f && Machine.fmtArith f
  | .vsub f => Machine.vThree f && Machine.fmtArith f
  | .vmul f => Machine.vThree f && Machine.fmtArith f
  | .vfma f => Machine.vFused f && Machine.fmtArith f
  | .vfms f => Machine.vFused f && Machine.fmtArith f
  | .vmin f => Machine.vThree f && (Machine.fmtArith f && Machine.plain f)
  | .vmax f => Machine.vThree f && (Machine.fmtArith f && Machine.plain f)
  | .vminn f => Machine.vThree f && (Machine.fmtInt f && Machine.plain f)
  | .vmaxn f => Machine.vThree f && (Machine.fmtInt f && Machine.plain f)
  | .vabs f => Machine.vTwo f && Machine.fmtArith f
  | .vneg f => Machine.vTwo f && Machine.fmtArith f
  | .vmov f => Machine.vTwo f && (decide (f.fmt = 0) && Machine.plain f)
  | .vsel f => Machine.vBit f
  | .vdif f => Machine.vThree f && Machine.fmtArith f
  | .vand f => Machine.vBit f
  | .vor f => Machine.vBit f
  | .vxor f => Machine.vBit f
  | .vnot f => Machine.vTwo f && (decide (f.fmt = 0) && Machine.plain f)
  | .vshl f => Machine.vThree f && (Machine.fmtInt f && Machine.plain f)
  | .vshr f => Machine.vThree f && (Machine.fmtInt f && Machine.plain f)
  | .vsar f => Machine.vThree f && (Machine.fmtInt f && Machine.plain f)
  | .vmulh f => Machine.vThree f && (Machine.fmtInt f && Machine.plain f)
  | .vmulhn f => Machine.vThree f && (Machine.fmtInt f && Machine.plain f)
  | .vclz f => Machine.vTwo f && (Machine.fmtInt f && Machine.plain f)
  | .vpopc f => Machine.vTwo f && (Machine.fmtInt f && Machine.plain f)
  | .vcmpEq f => Machine.vCmpF f
  | .vcmpNe f => Machine.vCmpF f
  | .vcmpLt f => Machine.vCmpF f
  | .vcmpLe f => Machine.vCmpF f
  | .vcmpLtn f => Machine.vCmpI f
  | .vcmpLen f => Machine.vCmpI f
  | .vqand f => Machine.vMaskOp f
  | .vqor f => Machine.vMaskOp f
  | .vqxor f => Machine.vMaskOp f
  | .vqcnt f => Machine.vMaskCount f
  | .vqfirst f => Machine.vMaskCount f
  | .vcvt f => Machine.vCvtOk f
  | .vqpack f => Machine.vNum 5 f && (decide (f.fmt = 7) && (decide (Machine.fieldOf f.b 0 2 ≠ 3) && Machine.plain f))
  | .vqunpk f => Machine.vNum 12 f && (decide (f.fmt = 7) && Machine.plain f)
  | .vscl f => Machine.vNum 4 f && Machine.fmtFloat f
  | .vbscl f => Machine.isReadDest f.d && (Machine.isSource f.a && (Machine.smallField 9 f.b && (decide (f.fmt = 0) && (decide (Machine.fieldOf f.b 0 2 ≠ 3) && Machine.plain f))))
  | .vrnd f => Machine.vTwo f && Machine.fmtFloat f
  | .vsrnd f => Machine.vSrndOk f
  | .vrsum f => Machine.vTwo f && Machine.fmtWide f
  | .vrmax f => Machine.vTwo f && (Machine.fmtWide f && Machine.plain f)
  | .vrmin f => Machine.vTwo f && (Machine.fmtWide f && Machine.plain f)
  | .vrot f => Machine.vNum 5 f && (decide (f.fmt = 0) && Machine.plain f)
  | .vperm f => Machine.vBit f
  | .vbcast f => Machine.vNum 5 f && (decide (f.fmt = 0) && Machine.plain f)
  | .vins f => Machine.vNum 5 f && (decide (f.fmt = 0) && Machine.plain f)
  | .vext f => Machine.vNum 5 f && (decide (f.fmt = 0) && Machine.plain f)
  | .vidx f => Machine.isDest f.d && (decide (f.a = 0) && (Machine.smallField 5 f.b && (decide (f.fmt = 4) && Machine.plain f)))
  | .vexp2 f => Machine.vTwo f && (Machine.fmtFloat f && Machine.plain f)
  | .vlog2 f => Machine.vTwo f && (Machine.fmtFloat f && Machine.plain f)
  | .vrcp f => Machine.vTwo f && (Machine.fmtFloat f && Machine.plain f)
  | .vrsq f => Machine.vTwo f && (Machine.fmtFloat f && Machine.plain f)
  | .vchk f => decide (f.d = 0) && (Machine.isTileLine f.a && (Machine.isTileLine f.b && (decide (f.fmt = 0) && Machine.plain f)))
  | .ld f => Machine.lLine f
  | .ldx f => Machine.lLineX f
  | .st f => Machine.lLine f
  | .stx f => Machine.lLineX f
  | .lds f => Machine.lWord f
  | .sts f => Machine.lWord f
  | .eld f => Machine.lEld f
  | .prom f => Machine.lProm f
  | .demo f => Machine.lDemo f
  | .tlk f => Machine.lTlk f
  | .tpin f => Machine.lTpin f
  | .gld f => Machine.lGlobal f
  | .gst f => Machine.lGlobal f
  | .glds f => Machine.lGlobalS f
  | .gsts f => Machine.lGlobalS f
  | .globalLoadReturn core ctx _ => Machine.isCtx core ctx
  | .writePerformed core ctx _ _ => Machine.isCtx core ctx
  | .translationWalkDone cluster _ => decide (cluster < Config.clusters)
  | .dset f => Machine.lDset f
  | .dsetf f => Machine.lDword f
  | .dget f => Machine.lDword f
  | .pcfg f => Machine.lPcfg f
  | .pstop f => Machine.lPstop f
  | .pstat f => Machine.lPstat f
  | .readPortFetch core port => Machine.isCore core && decide (port < 6)
  | .writePortWrite core port => Machine.isCore core && decide (port < 4)
  | .bown f => Machine.lOwner f
  | .bqry f => Machine.lOwner f
  | .xmov f => Machine.xScalar f
  | .xmovl f => Machine.xLine f
  | .xtrg f => Machine.xNull f
  | .tanKset f => Machine.xFires 0x04B f
  | .tanFit f => Machine.xFires 0x048 f
  | .tanEval f => Machine.xFires 0x049 f
  | .tanSlope f => Machine.xFires 0x04A f
  | .rngSeed f => Machine.xFires 0x060 f
  | .rngNext f => Machine.xFires 0x061 f
  | .crcInit f => Machine.xFires 0x070 f
  | .crcLine f => Machine.xFires 0x071 f
  | .mxWld f => Machine.eWld f
  | .mxWldg f => Machine.eWldg f
  | .mxWfold f => Machine.eWfold f
  | .mxRun f => Machine.eRunWith 2 f
  | .mxRung f => Machine.eRunWith 8 f
  | .mxAccz f => Machine.eAccz f
  | .mxAccb f => Machine.eAcc f
  | .matrixCommandStart core _ => Machine.isCore core
  | .streamReaderLine core _ => Machine.isCore core
  | .matrixRunStep core => Machine.isCore core
  | .matrixCommandComplete core _ => Machine.isCore core
  | .ppeCfg f => Machine.ePpeCfg f
  | .ppeDrain f => Machine.ePpeDrain f
  | .ppeTld f => Machine.ePpeTile f
  | .ppeTst f => Machine.ePpeTile f
  | .ppeEcnt f => Machine.ePpeEcnt f
  | .ppeCommandStart core => Machine.isCore core
  | .ppeLineWrite core => Machine.isCore core
  | .ppeCommandComplete core => Machine.isCore core
  | .cpyGs f => Machine.eCpyMove f
  | .cpySg f => Machine.eCpyMove f
  | .cpySs f => Machine.eCpyMove f
  | .cpyGg f => Machine.eCpyMove f
  | .cpyXgrf f => Machine.eCpyXgrf f
  | .cpyXdn f => Machine.eCpyXdn f
  | .cpyFpr f => Machine.eCpyFpr f
  | .cpyCmp f => Machine.eCpyCmp f
  | .cpyFill f => Machine.eCpyFill f
  | .cpyCrc f => Machine.eCpyMove f
  | .copyCommandStart core => Machine.isCore core
  | .copyUnitRead core chan => Machine.isCore core && decide (chan < 4)
  | .copyUnitWritePerformed core chan _ => Machine.isCore core && decide (chan < 4)
  | .copyCommandComplete core chan => Machine.isCore core && decide (chan < 4)
  | .scaUpd f => Machine.eScaUpd f
  | .scaFupd f => Machine.eScaFupd f
  | .scaCommandStart core => Machine.isCore core
  | .scaWindowApply core => Machine.isCore core
  | .scaCommandComplete core => Machine.isCore core
  | .cfCfg f => Machine.eCfCfg f
  | .cfRst f => Machine.eCfRst f
  | .kjoin f => Machine.eKjoin f
  | .ksig f => Machine.eKsig f
  | .refreshWindow core bank => Machine.isBank core bank
  | .rfshChange core => Machine.isCore core
  | .bankMigration core bank phys => Machine.isBank core bank && decide (phys < Config.banks)
  | .repairEntrySwitch _ => true
  | .snapshotRecordWrite core ctx => Machine.isCtx core ctx
  | .supervisorFault core => Machine.isCore core
  | .launchSlotWrite _ queue _ _ => decide (queue < 64)
  | .launchCommit _ queue _ => decide (queue < 64)
  | .queueStatusRead _ read => decide (read.offset + read.len ≤ 2 ^ 21)
  | .launchPlacement => true
  | .launchCompletion _ => true
  | .eventSet _ part _ => decide (part < 8)
  | .eventClear _ part _ => decide (part < 8)
  | .onaetClaim _ _ _ => true
  | .handover _ _ => true
  | .cancel _ => true
  | .supmsg _ core _ => Machine.isCore core
  | .attestationRequest _ _ => true
  | .keyInstall _ link _ _ _ => decide (link < 12)
  | .partitionConfig _ change => Machine.changeExists change
  | .cthrWrite _ cluster _ => decide (cluster < Config.clusters)
  | .powerCapWrite _ _ => true
  | .windowOpen _ window _ _ _ => decide (window < 64)
  | .windowRevoke _ window => decide (window < 64)
  | .windowFree _ window => decide (window < 64)
  | .inboundRequest _ _ _ _ _ => true
  | .flitReceive link _ => decide (link < 12)
  | .linkRetrain link => decide (link < 12)
  | .linkLaneLoss link => decide (link < 12)
  | .sensorSample core _ _ _ => Machine.isCore core
  | .layerPowerOn core layer => Machine.isCore core && decide (layer < 6)
  | .coreSleep core => Machine.isCore core
  | .coreWake core => Machine.isCore core
  | .powerUp => true
  | .bootGo _ _ _ => true
  | .bootFetch _ => true
  | .bootVerify => true
  | .bootMarchTest _ _ _ => true
  | .bootTraining _ _ => true
  | .bootBringup => true
  | .hostMemoryAccess _ _ _ => true
  | .linkTrainingComplete link => decide (link < 12)
  | .layerPowerOff core layer => Machine.isCore core && decide (layer < 6)

end Sys2Proof
end

