-- ==== Sys2Proof/Decode.lean ====
section
/-!
DEFINITION. Decoding of slot words and transport moves, total on any bits (R70 to R82), and the encoder written from
the same tables. The refusals that need the whole bundle or the issuing context are in Machine/Bundle.lean.
-/
namespace Sys2Proof

/-- Why the decoder refuses a slot (Table 4.16). -/
inductive Reject where
  /-- A reserved bit is set. -/
  | reservedBit
  /-- The opcode is not one of Tables 4.12 to 4.15 (R81). -/
  | undefinedOpcode
  /-- An opcode 0x30 to 0x59 stands in slot S1. -/
  | s0Only
  /-- A field holds a code, a number or an operand that the form does not take. -/
  | badField
  /-- Two slots of the bundle clash, or a slot clashes with the bundle's address or context. -/
  | bundleClash
  deriving DecidableEq, Repr

/-- A slot that holds no instruction, one that holds an instruction, or one that is refused. -/
inductive Decoded where
  | empty
  | instr (i : Instr)
  | reject (r : Reject)
  deriving DecidableEq, Repr

/-- Table 4.2. -/
def sFields (w : Word) : SSlot :=
  { g := w.extractLsb' 60 4, d := w.extractLsb' 46 6, a := w.extractLsb' 40 6, b := w.extractLsb' 34 6,
    imm := w.extractLsb' 0 34 }
/-- Table 4.4. -/
def vFields (w : Word) : VSlot :=
  { g := w.extractLsb' 60 4, fmt := w.extractLsb' 49 3, d := w.extractLsb' 35 14, a := w.extractLsb' 21 14,
    b := w.extractLsb' 7 14, m := w.extractLsb' 4 3, rnd := w.extractLsb' 2 2, sat := w.extractLsb' 1 1 }
/-- Table 4.7. -/
def lFields (w : Word) : LSlot :=
  { g := w.extractLsb' 60 4, opnd := w.extractLsb' 38 14, c := w.extractLsb' 32 6, oc := w.extractLsb' 28 4,
    flags := w.extractLsb' 22 6, bank := w.extractLsb' 13 9, line := w.extractLsb' 0 13 }
/-- Table 4.9. -/
def eFields (w : Word) : ESlot :=
  { g := w.extractLsb' 60 4, ko := w.extractLsb' 47 5, ka := w.extractLsb' 42 5, kb := w.extractLsb' 37 5,
    kc := w.extractLsb' 32 5, da := w.extractLsb' 28 4, db := w.extractLsb' 24 4, t := w.extractLsb' 17 7,
    f := w.extractLsb' 13 4, oc := w.extractLsb' 9 4, scope := w.extractLsb' 7 2, mode := w.extractLsb' 0 7 }
/-- Table 4.10. -/
def moveFields (w : BitVec 32) : Move :=
  { g := w.extractLsb' 28 4, dst := w.extractLsb' 16 12, src := w.extractLsb' 4 12 }

/-- The instruction an MTS word holds: the register number of IMM34[7:0] selects the opcode table's row. -/
def mtsOf (f : SSlot) : Instr :=
  let n := f.imm.toNat
  if n = 0x10 then .pwinWrite f
  else if n = 0x20 then .trapinfoDismiss f
  else if n = 0x24 then .snapWrite f
  else if n = 0x25 then .injWrite f
  else if n = 0x26 then .trootWrite f
  else .mts f

/-- Table 4.12. -/
def sTable : Nat → Option (SSlot → Instr)
  | 0x01 => some .add
  | 0x02 => some .addi
  | 0x03 => some .sub
  | 0x04 => some .mul
  | 0x05 => some .muli
  | 0x06 => some .mulh
  | 0x07 => some .mulhn
  | 0x08 => some .and
  | 0x09 => some .andi
  | 0x0A => some .or
  | 0x0B => some .ori
  | 0x0C => some .xor
  | 0x0D => some .xori
  | 0x0E => some .shl
  | 0x0F => some .shli
  | 0x10 => some .shr
  | 0x11 => some .shri
  | 0x12 => some .sar
  | 0x13 => some .sari
  | 0x14 => some .min
  | 0x15 => some .max
  | 0x16 => some .minn
  | 0x17 => some .maxn
  | 0x18 => some .sel
  | 0x19 => some .movi
  | 0x1A => some .movhi
  | 0x1B => some .clz
  | 0x1C => some .popc
  | 0x1D => some .add32
  | 0x1E => some .addp
  | 0x1F => some .mulw
  | 0x20 => some .cmpEq
  | 0x21 => some .cmpNe
  | 0x22 => some .cmpLt
  | 0x23 => some .cmpLe
  | 0x24 => some .cmpLtn
  | 0x25 => some .cmpLen
  | 0x26 => some .cmpiEq
  | 0x27 => some .cmpiNe
  | 0x28 => some .cmpiLt
  | 0x29 => some .cmpiLe
  | 0x2A => some .cmpiLtn
  | 0x2B => some .cmpiLen
  | 0x2C => some .pand
  | 0x2D => some .por
  | 0x2E => some .pxor
  | 0x2F => some .pset
  | 0x30 => some .br
  | 0x31 => some .brx
  | 0x32 => some .call
  | 0x33 => some .ret
  | 0x34 => some .loop
  | 0x35 => some .loopi
  | 0x36 => some .lexit
  | 0x37 => some .stage
  | 0x40 => some .kwait
  | 0x41 => some .swait
  | 0x42 => some .swaitany
  | 0x43 => some .yset
  | 0x44 => some .spost
  | 0x45 => some .fence
  | 0x46 => some .rel
  | 0x47 => some .acq
  | 0x48 => some .claim
  | 0x49 => some .grow
  | 0x4A => some .seg
  | 0x4B => some .rdv
  | 0x4C => some .mark
  | 0x4D => some .chk
  | 0x4E => some .chkp
  | 0x4F => some .yield
  | 0x50 => some .trap
  | 0x51 => some .sys
  | 0x52 => some .end_
  | 0x53 => some .mfs
  | 0x54 => some mtsOf
  | 0x55 => some .tret
  | 0x56 => some .csave
  | 0x57 => some .cload
  | 0x58 => some .tlbi
  | 0x59 => some .waiti
  | _ => none

/-- Table 4.13. -/
def vTable : Nat → Option (VSlot → Instr)
  | 0x01 => some .vadd
  | 0x02 => some .vsub
  | 0x03 => some .vmul
  | 0x04 => some .vfma
  | 0x05 => some .vfms
  | 0x06 => some .vmin
  | 0x07 => some .vmax
  | 0x08 => some .vminn
  | 0x09 => some .vmaxn
  | 0x0A => some .vabs
  | 0x0B => some .vneg
  | 0x0C => some .vmov
  | 0x0D => some .vsel
  | 0x0E => some .vdif
  | 0x10 => some .vand
  | 0x11 => some .vor
  | 0x12 => some .vxor
  | 0x13 => some .vnot
  | 0x14 => some .vshl
  | 0x15 => some .vshr
  | 0x16 => some .vsar
  | 0x17 => some .vmulh
  | 0x18 => some .vmulhn
  | 0x19 => some .vclz
  | 0x1A => some .vpopc
  | 0x20 => some .vcmpEq
  | 0x21 => some .vcmpNe
  | 0x22 => some .vcmpLt
  | 0x23 => some .vcmpLe
  | 0x24 => some .vcmpLtn
  | 0x25 => some .vcmpLen
  | 0x26 => some .vqand
  | 0x27 => some .vqor
  | 0x28 => some .vqxor
  | 0x29 => some .vqcnt
  | 0x2A => some .vqfirst
  | 0x30 => some .vcvt
  | 0x31 => some .vqpack
  | 0x32 => some .vqunpk
  | 0x33 => some .vscl
  | 0x34 => some .vbscl
  | 0x35 => some .vrnd
  | 0x36 => some .vsrnd
  | 0x40 => some .vrsum
  | 0x41 => some .vrmax
  | 0x42 => some .vrmin
  | 0x43 => some .vrot
  | 0x44 => some .vperm
  | 0x45 => some .vbcast
  | 0x46 => some .vins
  | 0x47 => some .vext
  | 0x48 => some .vidx
  | 0x50 => some .vexp2
  | 0x51 => some .vlog2
  | 0x52 => some .vrcp
  | 0x53 => some .vrsq
  | 0x60 => some .vchk
  | _ => none

/-- Table 4.14. -/
def lTable : Nat → Option (LSlot → Instr)
  | 0x01 => some .ld
  | 0x02 => some .ldx
  | 0x03 => some .st
  | 0x04 => some .stx
  | 0x05 => some .lds
  | 0x06 => some .sts
  | 0x07 => some .eld
  | 0x08 => some .prom
  | 0x09 => some .demo
  | 0x0A => some .tlk
  | 0x0B => some .tpin
  | 0x10 => some .gld
  | 0x11 => some .gst
  | 0x12 => some .glds
  | 0x13 => some .gsts
  | 0x18 => some .dset
  | 0x19 => some .dsetf
  | 0x1A => some .dget
  | 0x1C => some .pcfg
  | 0x1D => some .pstop
  | 0x1E => some .pstat
  | 0x20 => some .bown
  | 0x21 => some .bqry
  | _ => none

/-- Table 4.15. -/
def eTable : Nat → Option (ESlot → Instr)
  | 0x01 => some .mxWld
  | 0x02 => some .mxWldg
  | 0x03 => some .mxWfold
  | 0x04 => some .mxRun
  | 0x05 => some .mxRung
  | 0x06 => some .mxAccz
  | 0x07 => some .mxAccb
  | 0x10 => some .ppeCfg
  | 0x11 => some .ppeDrain
  | 0x12 => some .ppeTld
  | 0x13 => some .ppeTst
  | 0x14 => some .ppeEcnt
  | 0x20 => some .cpyGs
  | 0x21 => some .cpySg
  | 0x22 => some .cpySs
  | 0x23 => some .cpyGg
  | 0x24 => some .cpyXgrf
  | 0x25 => some .cpyXdn
  | 0x26 => some .cpyFpr
  | 0x27 => some .cpyCmp
  | 0x28 => some .cpyFill
  | 0x29 => some .cpyCrc
  | 0x30 => some .scaUpd
  | 0x31 => some .scaFupd
  | 0x38 => some .cfCfg
  | 0x39 => some .cfRst
  | 0x3A => some .kjoin
  | 0x3B => some .ksig
  | _ => none

/-- An instruction whose fields the form takes, or its refusal. -/
def checked (i : Instr) : Decoded := if i.wf then .instr i else .reject .badField

/-- The opcode of an S, V, L or E slot (R72). -/
def opcodeOf (w : Word) : Nat := (w.extractLsb' 52 8).toNat

/-- A bit of a slot word. -/
def bitOfWord (w : Word) (i : Nat) : Bool := Machine.bitOf w i

/-- R71: what OP 0x00 stands for. -/
def decodeEmpty (w : Word) : Decoded := if w = 0 then .empty else .reject .reservedBit

/-- An S slot; opcodes 0x30 to 0x59 stand in S0 only (R81). -/
def decodeS (s0 : Bool) (w : Word) : Decoded :=
  if opcodeOf w = 0 then decodeEmpty w
  else
    match sTable (opcodeOf w) with
    | none => .reject .undefinedOpcode
    | some mk => if !s0 && decide (0x30 ≤ opcodeOf w) then .reject .s0Only else checked (mk (sFields w))

/-- A V slot. -/
def decodeV (w : Word) : Decoded :=
  if opcodeOf w = 0 then decodeEmpty w
  else if bitOfWord w 0 then .reject .reservedBit
  else
    match vTable (opcodeOf w) with
    | none => .reject .undefinedOpcode
    | some mk => checked (mk (vFields w))

/-- An L slot. -/
def decodeL (w : Word) : Decoded :=
  if opcodeOf w = 0 then decodeEmpty w
  else
    match lTable (opcodeOf w) with
    | none => .reject .undefinedOpcode
    | some mk => checked (mk (lFields w))

/-- An E slot. -/
def decodeE (w : Word) : Decoded :=
  if opcodeOf w = 0 then decodeEmpty w
  else
    match eTable (opcodeOf w) with
    | none => .reject .undefinedOpcode
    | some mk => checked (mk (eFields w))

/-- A transport move (R79): width 00 is XMOV, or XTRG when the source is `null`; width 01 is XMOVL. -/
def decodeMove (w : BitVec 32) : Decoded :=
  if w.extractLsb' 0 2 ≠ 0 then .reject .reservedBit
  else if w.extractLsb' 2 2 = 0 then
    (if (moveFields w).src = 0 then checked (.xtrg (moveFields w)) else checked (.xmov (moveFields w)))
  else if w.extractLsb' 2 2 = 1 then checked (.xmovl (moveFields w))
  else .reject .badField

/-- The class of slot `k` of a bundle decides how its word is read (Table 4.1).
Log entry 30 (DEDUCED). -/
def decodeSlot (k : Nat) (w : Word) : Decoded :=
  if k = 0 then decodeS true w
  else if k = 1 then decodeS false w
  else if k = 2 ∨ k = 3 then decodeV w
  else if k = 4 ∨ k = 5 then decodeL w
  else decodeE w

/-- Word `k` of a bundle (R70). -/
def slotWord (b : BitVec 512) (k : Nat) : Word := b.extractLsb' (64 * k) 64

/-- What a bundle holds, in slot order: slots 0 to 6, then move A (7) and move B (8). An X slot of 64 zero bits is
empty; in any other X slot both moves are read (R71, R79). -/
def decodeSlots (b : BitVec 512) : List (Nat × Decoded) :=
  (0, decodeSlot 0 (slotWord b 0)) :: (1, decodeSlot 1 (slotWord b 1)) :: (2, decodeSlot 2 (slotWord b 2)) ::
  (3, decodeSlot 3 (slotWord b 3)) :: (4, decodeSlot 4 (slotWord b 4)) :: (5, decodeSlot 5 (slotWord b 5)) ::
  (6, decodeSlot 6 (slotWord b 6)) ::
  (if slotWord b 7 = 0 then [] else
    [(7, decodeMove ((slotWord b 7).extractLsb' 0 32)), (8, decodeMove ((slotWord b 7).extractLsb' 32 32))])

/-! ## The encoder -/

/-- An S slot's word. -/
def encS (op : BitVec 8) (f : SSlot) : Word := f.g ++ op ++ f.d ++ f.a ++ f.b ++ f.imm
/-- A V slot's word. -/
def encV (op : BitVec 8) (f : VSlot) : Word :=
  f.g ++ op ++ f.fmt ++ f.d ++ f.a ++ f.b ++ f.m ++ f.rnd ++ f.sat ++ (0 : BitVec 1)
/-- An L slot's word. -/
def encL (op : BitVec 8) (f : LSlot) : Word := f.g ++ op ++ f.opnd ++ f.c ++ f.oc ++ f.flags ++ f.bank ++ f.line
/-- An E slot's word. -/
def encE (op : BitVec 8) (f : ESlot) : Word :=
  f.g ++ op ++ f.ko ++ f.ka ++ f.kb ++ f.kc ++ f.da ++ f.db ++ f.t ++ f.f ++ f.oc ++ f.scope ++ f.mode
/-- A move's 32 bits. -/
def encMove (w : BitVec 2) (f : Move) : BitVec 32 := f.g ++ f.dst ++ f.src ++ w ++ (0 : BitVec 2)

/-- Where an instruction stands and the bits it has there. -/
inductive Code where
  | s (w : Word)
  | v (w : Word)
  | l (w : Word)
  | e (w : Word)
  | x (w : BitVec 32)
  deriving DecidableEq, Repr

/-- The code of an instruction of a slot. A trigger's code is that of the move that fires it; a step of the part has
none. -/
def encode : Instr → Option Code
  | .issueCycle _ => none
  | .srqEntryEnqueue _ _ => none
  | .rewindResume _ _ => none
  | .watchdogExpiry _ _ => none
  | .engineWatchdogExpiry _ _ => none
  | .claimAnswer _ _ => none
  | .nop => some (.s 0)
  | .add f => some (.s (encS 0x01 f))
  | .addi f => some (.s (encS 0x02 f))
  | .sub f => some (.s (encS 0x03 f))
  | .mul f => some (.s (encS 0x04 f))
  | .muli f => some (.s (encS 0x05 f))
  | .mulh f => some (.s (encS 0x06 f))
  | .mulhn f => some (.s (encS 0x07 f))
  | .and f => some (.s (encS 0x08 f))
  | .andi f => some (.s (encS 0x09 f))
  | .or f => some (.s (encS 0x0A f))
  | .ori f => some (.s (encS 0x0B f))
  | .xor f => some (.s (encS 0x0C f))
  | .xori f => some (.s (encS 0x0D f))
  | .shl f => some (.s (encS 0x0E f))
  | .shli f => some (.s (encS 0x0F f))
  | .shr f => some (.s (encS 0x10 f))
  | .shri f => some (.s (encS 0x11 f))
  | .sar f => some (.s (encS 0x12 f))
  | .sari f => some (.s (encS 0x13 f))
  | .min f => some (.s (encS 0x14 f))
  | .max f => some (.s (encS 0x15 f))
  | .minn f => some (.s (encS 0x16 f))
  | .maxn f => some (.s (encS 0x17 f))
  | .sel f => some (.s (encS 0x18 f))
  | .movi f => some (.s (encS 0x19 f))
  | .movhi f => some (.s (encS 0x1A f))
  | .clz f => some (.s (encS 0x1B f))
  | .popc f => some (.s (encS 0x1C f))
  | .add32 f => some (.s (encS 0x1D f))
  | .addp f => some (.s (encS 0x1E f))
  | .mulw f => some (.s (encS 0x1F f))
  | .cmpEq f => some (.s (encS 0x20 f))
  | .cmpNe f => some (.s (encS 0x21 f))
  | .cmpLt f => some (.s (encS 0x22 f))
  | .cmpLe f => some (.s (encS 0x23 f))
  | .cmpLtn f => some (.s (encS 0x24 f))
  | .cmpLen f => some (.s (encS 0x25 f))
  | .cmpiEq f => some (.s (encS 0x26 f))
  | .cmpiNe f => some (.s (encS 0x27 f))
  | .cmpiLt f => some (.s (encS 0x28 f))
  | .cmpiLe f => some (.s (encS 0x29 f))
  | .cmpiLtn f => some (.s (encS 0x2A f))
  | .cmpiLen f => some (.s (encS 0x2B f))
  | .pand f => some (.s (encS 0x2C f))
  | .por f => some (.s (encS 0x2D f))
  | .pxor f => some (.s (encS 0x2E f))
  | .pset f => some (.s (encS 0x2F f))
  | .br f => some (.s (encS 0x30 f))
  | .brx f => some (.s (encS 0x31 f))
  | .call f => some (.s (encS 0x32 f))
  | .ret f => some (.s (encS 0x33 f))
  | .loop f => some (.s (encS 0x34 f))
  | .loopi f => some (.s (encS 0x35 f))
  | .lexit f => some (.s (encS 0x36 f))
  | .stage f => some (.s (encS 0x37 f))
  | .kwait f => some (.s (encS 0x40 f))
  | .swait f => some (.s (encS 0x41 f))
  | .swaitany f => some (.s (encS 0x42 f))
  | .yset f => some (.s (encS 0x43 f))
  | .spost f => some (.s (encS 0x44 f))
  | .syncPostPerform _ _ _ => none
  | .fence f => some (.s (encS 0x45 f))
  | .rel f => some (.s (encS 0x46 f))
  | .acq f => some (.s (encS 0x47 f))
  | .claim f => some (.s (encS 0x48 f))
  | .grow f => some (.s (encS 0x49 f))
  | .seg f => some (.s (encS 0x4A f))
  | .rdv f => some (.s (encS 0x4B f))
  | .mark f => some (.s (encS 0x4C f))
  | .chk f => some (.s (encS 0x4D f))
  | .chkp f => some (.s (encS 0x4E f))
  | .yield f => some (.s (encS 0x4F f))
  | .trap f => some (.s (encS 0x50 f))
  | .sys f => some (.s (encS 0x51 f))
  | .end_ f => some (.s (encS 0x52 f))
  | .mfs f => some (.s (encS 0x53 f))
  | .mts f => some (.s (encS 0x54 f))
  | .pwinWrite f => some (.s (encS 0x54 f))
  | .trapinfoDismiss f => some (.s (encS 0x54 f))
  | .snapWrite f => some (.s (encS 0x54 f))
  | .injWrite f => some (.s (encS 0x54 f))
  | .trootWrite f => some (.s (encS 0x54 f))
  | .dbgControlWrite f => some (.s (encS 0x54 f))
  | .dbgBreakpointWrite f => some (.s (encS 0x54 f))
  | .dbgWatchWrite f => some (.s (encS 0x54 f))
  | .tret f => some (.s (encS 0x55 f))
  | .contextRestoreDone _ _ => none
  | .csave f => some (.s (encS 0x56 f))
  | .csaveComplete _ => none
  | .cload f => some (.s (encS 0x57 f))
  | .cloadComplete _ => none
  | .tlbi f => some (.s (encS 0x58 f))
  | .waiti f => some (.s (encS 0x59 f))
  | .vadd f => some (.v (encV 0x01 f))
  | .vsub f => some (.v (encV 0x02 f))
  | .vmul f => some (.v (encV 0x03 f))
  | .vfma f => some (.v (encV 0x04 f))
  | .vfms f => some (.v (encV 0x05 f))
  | .vmin f => some (.v (encV 0x06 f))
  | .vmax f => some (.v (encV 0x07 f))
  | .vminn f => some (.v (encV 0x08 f))
  | .vmaxn f => some (.v (encV 0x09 f))
  | .vabs f => some (.v (encV 0x0A f))
  | .vneg f => some (.v (encV 0x0B f))
  | .vmov f => some (.v (encV 0x0C f))
  | .vsel f => some (.v (encV 0x0D f))
  | .vdif f => some (.v (encV 0x0E f))
  | .vand f => some (.v (encV 0x10 f))
  | .vor f => some (.v (encV 0x11 f))
  | .vxor f => some (.v (encV 0x12 f))
  | .vnot f => some (.v (encV 0x13 f))
  | .vshl f => some (.v (encV 0x14 f))
  | .vshr f => some (.v (encV 0x15 f))
  | .vsar f => some (.v (encV 0x16 f))
  | .vmulh f => some (.v (encV 0x17 f))
  | .vmulhn f => some (.v (encV 0x18 f))
  | .vclz f => some (.v (encV 0x19 f))
  | .vpopc f => some (.v (encV 0x1A f))
  | .vcmpEq f => some (.v (encV 0x20 f))
  | .vcmpNe f => some (.v (encV 0x21 f))
  | .vcmpLt f => some (.v (encV 0x22 f))
  | .vcmpLe f => some (.v (encV 0x23 f))
  | .vcmpLtn f => some (.v (encV 0x24 f))
  | .vcmpLen f => some (.v (encV 0x25 f))
  | .vqand f => some (.v (encV 0x26 f))
  | .vqor f => some (.v (encV 0x27 f))
  | .vqxor f => some (.v (encV 0x28 f))
  | .vqcnt f => some (.v (encV 0x29 f))
  | .vqfirst f => some (.v (encV 0x2A f))
  | .vcvt f => some (.v (encV 0x30 f))
  | .vqpack f => some (.v (encV 0x31 f))
  | .vqunpk f => some (.v (encV 0x32 f))
  | .vscl f => some (.v (encV 0x33 f))
  | .vbscl f => some (.v (encV 0x34 f))
  | .vrnd f => some (.v (encV 0x35 f))
  | .vsrnd f => some (.v (encV 0x36 f))
  | .vrsum f => some (.v (encV 0x40 f))
  | .vrmax f => some (.v (encV 0x41 f))
  | .vrmin f => some (.v (encV 0x42 f))
  | .vrot f => some (.v (encV 0x43 f))
  | .vperm f => some (.v (encV 0x44 f))
  | .vbcast f => some (.v (encV 0x45 f))
  | .vins f => some (.v (encV 0x46 f))
  | .vext f => some (.v (encV 0x47 f))
  | .vidx f => some (.v (encV 0x48 f))
  | .vexp2 f => some (.v (encV 0x50 f))
  | .vlog2 f => some (.v (encV 0x51 f))
  | .vrcp f => some (.v (encV 0x52 f))
  | .vrsq f => some (.v (encV 0x53 f))
  | .vchk f => some (.v (encV 0x60 f))
  | .ld f => some (.l (encL 0x01 f))
  | .ldx f => some (.l (encL 0x02 f))
  | .st f => some (.l (encL 0x03 f))
  | .stx f => some (.l (encL 0x04 f))
  | .lds f => some (.l (encL 0x05 f))
  | .sts f => some (.l (encL 0x06 f))
  | .eld f => some (.l (encL 0x07 f))
  | .prom f => some (.l (encL 0x08 f))
  | .demo f => some (.l (encL 0x09 f))
  | .tlk f => some (.l (encL 0x0A f))
  | .tpin f => some (.l (encL 0x0B f))
  | .gld f => some (.l (encL 0x10 f))
  | .gst f => some (.l (encL 0x11 f))
  | .glds f => some (.l (encL 0x12 f))
  | .gsts f => some (.l (encL 0x13 f))
  | .globalLoadReturn _ _ _ => none
  | .writePerformed _ _ _ _ => none
  | .translationWalkDone _ _ => none
  | .dset f => some (.l (encL 0x18 f))
  | .dsetf f => some (.l (encL 0x19 f))
  | .dget f => some (.l (encL 0x1A f))
  | .pcfg f => some (.l (encL 0x1C f))
  | .pstop f => some (.l (encL 0x1D f))
  | .pstat f => some (.l (encL 0x1E f))
  | .readPortFetch _ _ => none
  | .writePortWrite _ _ => none
  | .bown f => some (.l (encL 0x20 f))
  | .bqry f => some (.l (encL 0x21 f))
  | .xmov f => some (.x (encMove 0 f))
  | .xmovl f => some (.x (encMove 1 f))
  | .xtrg f => some (.x (encMove 0 f))
  | .tanKset f => some (.x (encMove 0 f))
  | .tanFit f => some (.x (encMove 0 f))
  | .tanEval f => some (.x (encMove 0 f))
  | .tanSlope f => some (.x (encMove 0 f))
  | .rngSeed f => some (.x (encMove 0 f))
  | .rngNext f => some (.x (encMove 0 f))
  | .crcInit f => some (.x (encMove 0 f))
  | .crcLine f => some (.x (encMove 1 f))
  | .mxWld f => some (.e (encE 0x01 f))
  | .mxWldg f => some (.e (encE 0x02 f))
  | .mxWfold f => some (.e (encE 0x03 f))
  | .mxRun f => some (.e (encE 0x04 f))
  | .mxRung f => some (.e (encE 0x05 f))
  | .mxAccz f => some (.e (encE 0x06 f))
  | .mxAccb f => some (.e (encE 0x07 f))
  | .matrixCommandStart _ _ => none
  | .streamReaderLine _ _ => none
  | .matrixRunStep _ => none
  | .matrixCommandComplete _ _ => none
  | .ppeCfg f => some (.e (encE 0x10 f))
  | .ppeDrain f => some (.e (encE 0x11 f))
  | .ppeTld f => some (.e (encE 0x12 f))
  | .ppeTst f => some (.e (encE 0x13 f))
  | .ppeEcnt f => some (.e (encE 0x14 f))
  | .ppeCommandStart _ => none
  | .ppeLineWrite _ => none
  | .ppeCommandComplete _ => none
  | .cpyGs f => some (.e (encE 0x20 f))
  | .cpySg f => some (.e (encE 0x21 f))
  | .cpySs f => some (.e (encE 0x22 f))
  | .cpyGg f => some (.e (encE 0x23 f))
  | .cpyXgrf f => some (.e (encE 0x24 f))
  | .cpyXdn f => some (.e (encE 0x25 f))
  | .cpyFpr f => some (.e (encE 0x26 f))
  | .cpyCmp f => some (.e (encE 0x27 f))
  | .cpyFill f => some (.e (encE 0x28 f))
  | .cpyCrc f => some (.e (encE 0x29 f))
  | .copyCommandStart _ => none
  | .copyUnitRead _ _ => none
  | .copyUnitWritePerformed _ _ _ => none
  | .copyCommandComplete _ _ => none
  | .scaUpd f => some (.e (encE 0x30 f))
  | .scaFupd f => some (.e (encE 0x31 f))
  | .scaCommandStart _ => none
  | .scaWindowApply _ => none
  | .scaCommandComplete _ => none
  | .cfCfg f => some (.e (encE 0x38 f))
  | .cfRst f => some (.e (encE 0x39 f))
  | .kjoin f => some (.e (encE 0x3A f))
  | .ksig f => some (.e (encE 0x3B f))
  | .refreshWindow _ _ => none
  | .rfshChange _ => none
  | .bankMigration _ _ _ => none
  | .repairEntrySwitch _ => none
  | .snapshotRecordWrite _ _ => none
  | .supervisorFault _ => none
  | .launchSlotWrite _ _ _ _ => none
  | .launchCommit _ _ _ => none
  | .queueStatusRead _ _ => none
  | .launchPlacement => none
  | .launchCompletion _ => none
  | .eventSet _ _ _ => none
  | .eventClear _ _ _ => none
  | .onaetClaim _ _ _ => none
  | .handover _ _ => none
  | .cancel _ => none
  | .supmsg _ _ _ => none
  | .attestationRequest _ _ => none
  | .keyInstall _ _ _ _ _ => none
  | .partitionConfig _ _ => none
  | .cthrWrite _ _ _ => none
  | .powerCapWrite _ _ => none
  | .windowOpen _ _ _ _ _ => none
  | .windowRevoke _ _ => none
  | .windowFree _ _ => none
  | .inboundRequest _ _ _ _ _ => none
  | .flitReceive _ _ => none
  | .linkRetrain _ => none
  | .linkLaneLoss _ => none
  | .sensorSample _ _ _ _ => none
  | .layerPowerOn _ _ => none
  | .coreSleep _ => none
  | .coreWake _ => none
  | .powerUp => none
  | .bootGo _ _ _ => none
  | .bootFetch _ => none
  | .bootVerify => none
  | .bootMarchTest _ _ _ => none
  | .bootTraining _ _ => none
  | .bootBringup => none
  | .hostMemoryAccess _ _ _ => none
  | .linkTrainingComplete _ => none
  | .layerPowerOff _ _ => none

/-- The decoder's reading of a code. -/
def decodeCode : Code → Decoded
  | .s w => decodeS true w
  | .v w => decodeV w
  | .l w => decodeL w
  | .e w => decodeE w
  | .x w => decodeMove w

/-- The first instruction of a list of decoded slots. -/
def firstInstr : List (Nat × Decoded) → Option Instr
  | [] => none
  | (_, .instr i) :: _ => some i
  | (_, .empty) :: ds => firstInstr ds
  | (_, .reject _) :: _ => none

/-- The bundle in which the host's table word is laid out: a word of at most 32 bits is move A of the X slot (the only
patterns of the table are those of moves), a longer one is the bundle from slot S0 upward. -/
def tableBundle (nbits w : Nat) : BitVec 512 :=
  if nbits ≤ 32 then (BitVec.ofNat 32 w).zeroExtend 512 <<< 448 else BitVec.ofNat 512 w

/-- The instruction the decoder reads from a table word.
Log entry 30 (DEDUCED). -/
def decodeTableWord (nbits w : Nat) : Option Instr :=
  if nbits ≤ 32 then
    (match decodeMove (BitVec.ofNat 32 w) with
    | .instr i => some i
    | .empty => none
    | .reject _ => none)
  else firstInstr (decodeSlots (tableBundle nbits w))

end Sys2Proof
end

