-- ==== Sys2Proof/Machine/LSlot.lean ====
section
/-!
DEFINITION. L slots that act on banks, descriptor registers and ports (chapter 7): transfers (R136, R137), promotion
and tags (R55, R56, R138), descriptors (R142), ports (R143 to R146) and ownership (R51, R147, R148).
-/
namespace Sys2Proof.Machine

/-! ## Line and word transfers (R136) -/

/-- An access inside the scratchpad with what follows from its line; BRANGE outside (R47). -/
def atFlat (flat : Int) (k : Nat → List Effect) : List Effect :=
  if inScratch flat then k flat.toNat else brange flat
def loadLine (f : LSlot) (flat : Int) (s : State) : Res :=
  slot s f.g (tileChecks s f.opnd ++ atFlat flat (fun a =>
    lineAccess s a false ++ [loadResult s a (.tile f.opnd) (loadLatency a) (s.readFlat s.cur.core a)]))
def execLd (f : LSlot) (s : State) : Res := loadLine f (immFlat f) s
def execLdx (f : LSlot) (s : State) : Res := loadLine f (regFlat s f) s
def storeTile (f : LSlot) (flat : Int) (s : State) : Res :=
  slot s f.g (lineChecks s f.opnd ++ atFlat flat (fun a =>
    lineAccess s a true ++ [.storeLine a (tileValue s f.opnd)]))
def execSt (f : LSlot) (s : State) : Res := storeTile f (immFlat f) s
def execStx (f : LSlot) (s : State) : Res := storeTile f (regFlat s f) s
/-- A 64-bit value in bits [63:0] of a pending result. -/
def wide (v : Word) : Line := v.zeroExtend 1024
def execLds (f : LSlot) (s : State) : Res :=
  slot s f.g (atFlat (immFlat f) (fun a =>
    lineAccess s a false ++ [loadResult s a (.creg f.c.toNat) (loadLatency a)
      (BitVec.ofNat 1024 (elemOf 64 (s.readFlat s.cur.core a) f.flags.toNat))]))
/-- STS: a codeword whose other half is damaged is not written, and the error is detected at the boundary after the
bundle (R137). -/
def storeWordEffect (s : State) (a w : Nat) (v : Word) : List Effect :=
  match s.readMark s.cur.core a with
  | .uncorrectable cw => if bitOf cw (w / 2) then [.fires a, .damaged 1 a] else [.storeWord a w v]
  | .clean | .poison | .group => [.storeWord a w v]
def execSts (f : LSlot) (s : State) : Res :=
  slot s f.g (atFlat (immFlat f) (fun a =>
    lineAccess s a true ++ storeWordEffect s a f.flags.toNat (s.me.readC f.c.toNat)))
def execEld (f : LSlot) (s : State) : Res :=
  slot s f.g (atFlat (immFlat f) (fun a =>
    lineAccess s a false ++ [loadResult s a (.ereg f.opnd.toNat) (loadLatency a)
      (BitVec.ofNat 1024 (elemOf 256 (s.readFlat s.cur.core a) f.flags.toNat))]))

/-! ## Promotion and tags (R54 to R56, R138) -/

/-- The slot AUTO chooses, walking from max(NV, PWIN) and wrapping from 127 to PWIN (R55). -/
def autoVictim (b : Bank) (pwin : Nat) : Option Nat :=
  let n := 128 - pwin
  let start := Nat.max b.nv pwin
  (findFrom (fun i => !(b.tag (pwin + (start - pwin + i) % n)).pin) n 0).map (fun i => pwin + (start - pwin + i) % n)
/-- SHAD with bank · 8192 + srow. -/
def promRefused (f : LSlot) : Effect := .trap .shad (flatWord (immFlat f))
/-- An access that makes a bank busy for `w` cycles and names no line of it. -/
def bankAccess (s : State) (flat w : Nat) : List Effect :=
  ownerCheck s flat ++ busyCheck s flat ++ refreshWait s flat w ++ [.occupy (bankOf flat) w]
/-- The cost of promoting into a slot. -/
def promCost (t : TagEntry) : Nat := if t.valid ∧ t.dirty then 80 else 40
def promInto (s : State) (b : Bank) (a srow slot : Nat) (nv : Option Nat) : List Effect :=
  bankAccess s a (promCost (b.tag slot)) ++ [.prom (bankOf a) slot srow nv]
def execProm (f : LSlot) (s : State) : Res :=
  slot s f.g (atFlat (immFlat f) (fun a =>
    let b := s.here.bank (bankOf a)
    let srow := fieldOf f.line 0 10
    let pwin := s.me.pwin
    if srow < 128 then ownerCheck s a ++ [promRefused f]
    else if (b.findSlot srow).isSome then bankAccess s a 4 ++ [.promHit (bankOf a)]
    else if bitOf f.opnd 7 then
      match autoVictim b pwin with
      | none => ownerCheck s a ++ [promRefused f]
      | some v => promInto s b a srow v (some (if v = 127 then pwin else v + 1))
    else if fieldOf f.opnd 0 7 < pwin then ownerCheck s a ++ [promRefused f]
    else promInto s b a srow (fieldOf f.opnd 0 7) none))
def execDemo (f : LSlot) (s : State) : Res :=
  slot s f.g (atFlat (immFlat f) (fun a =>
    let t := (s.here.bank (bankOf a)).tag (fieldOf f.opnd 0 7)
    bankAccess s a (if t.valid ∧ t.dirty then 40 else 4) ++ [.demo (bankOf a) (fieldOf f.opnd 0 7)]))
/-- TLK: −1 for a row outside 128 to 1023. -/
def tagLookup (b : Bank) (srow : Nat) : Word :=
  match b.findSlot srow with
  | some v => if 128 ≤ srow then BitVec.ofNat 64 v else BitVec.allOnes 64
  | none => BitVec.allOnes 64
def execTlk (f : LSlot) (s : State) : Res :=
  slot s f.g (atFlat (immFlat f) (fun a =>
    ownerCheck s a ++ refreshWait s a 1 ++
      [scalarResult f.c.toNat 2 (tagLookup (s.here.bank (bankOf a)) (fieldOf f.line 0 10))]))
def execTpin (f : LSlot) (s : State) : Res :=
  slot s f.g (atFlat (immFlat f) (fun a =>
    ownerCheck s a ++ refreshWait s a 1 ++ [.tpin (bankOf a) (fieldOf f.opnd 0 7) (bitOf f.flags 0)]))

/-! ## Descriptor registers (R67, R142) -/

def execDset (f : LSlot) (s : State) : Res :=
  slot s f.g (atFlat (immFlat f) (fun a =>
    bankAccess s a 4 ++ [.fires a, loadResult s a (.dreg f.opnd.toNat) 3
      (BitVec.ofNat 1024 (descrMask (elemOf 512 (s.readFlat s.cur.core a) f.flags.toNat)))]))
def execDsetf (f : LSlot) (s : State) : Res :=
  slot s f.g [result (.dword f.opnd.toNat f.flags.toNat) 3 (wide (levelMask f.flags.toNat (s.me.readC f.c.toNat))) allLanes 0]
def execDget (f : LSlot) (s : State) : Res :=
  slot s f.g [scalarResult f.c.toNat 2 (BitVec.ofNat 64 (fieldOf (s.me.readD f.opnd.toNat) (64 * f.flags.toNat) 64))]

/-! ## Ports (R143 to R146) -/

/-- The port an OPND names (0 to 5 read ports, 6 to 9 write ports) and its code. -/
def portOf (v : BitVec 14) : Nat :=
  match operandOf v with
  | .ip n => n
  | .op n => 6 + n
  | .row _ _ | .col _ _ | .diag _ _ | .zero | .bc | .bad => 0
def portCode (n : Nat) : Word := if n < 6 then ipCode n else opCode (n - 6)
/-- A context has a push pending for a write port. -/
def pushPending (x : Ctx) (n : Nat) : Bool := x.pwq.any (fun e => decide (e.dest = .push n))
/-- PCFG and PSTOP of a port another context holds, with TVAL the port code, or of a write port with a pending push, with
TVAL 0 (R143, Table 15.4).
Log entry 70 (DEDUCED). -/
def portConfigRefused (s : State) (n : Nat) : List Effect :=
  let held := match (s.here.port n).holder with
    | none => false
    | some h => s.user && decide (h ≠ s.cur.ctx)
  let pending := decide (6 ≤ n) && (upTo 5 0).any (fun x => pushPending (s.here.ctx x) (n - 6))
  if held then [.trap .ill (portCode n)] else if pending then [.trap .ill 0] else []
/-- A write port is waited for until the lines of its FIFO are written, the last busy window included (R143, R145); so
is a port lent to an engine command. -/
def portDrainWait (s : State) (n : Nat) : List Effect :=
  let p := s.here.port n
  if p.away s.cyc then lentWait s n
  else if 6 ≤ n ∧ (!p.fifo.isEmpty ∨ s.cyc < p.performed) then [.wait 4 (some (.port (portNumber n)))]
  else []
/-- R68: what a PCFG refuses of a descriptor. -/
def portDescrBad (d : Descr) : Bool := Descr.glb d || (Descr.exp d && !(decide (Descr.fmt d = 7) && Descr.scl d))
def execPcfg (f : LSlot) (s : State) : Res :=
  let n := portOf f.opnd
  let d := s.me.readD (fieldOf f.flags 0 4)
  slot s f.g (portConfigRefused s n ++ (if portDescrBad d then [.trap .ill 0] else []) ++ portDrainWait s n ++
    (if Descr.kend d ≠ 0 ∧ (s.me.token (Descr.kend d)).pendingAt s.cyc then
       (if s.me.srq.isEmpty then [] else [.implicit]) ++ [.wait 1 none] else []) ++
    [.pcfg n d])
def execPstop (f : LSlot) (s : State) : Res :=
  let n := portOf f.opnd
  slot s f.g (portConfigRefused s n ++ portDrainWait s n ++ [.pstop n])
/-- Table 7.9; all zeros for a port that a context of another launch holds, context 4, which has none, among the readers
and the holders.
Log entry 78 (DEDUCED). -/
def portStatus (k : Core) (launch : Nat) (n : Nat) : Word :=
  let p := k.port n
  let other := match p.holder with
    | none => false
    | some h => decide ((k.ctx h).launch ≠ launch)
  if other then 0
  else
    BitVec.ofNat 64 (Nat.min p.fifo.length 16 + bitNat (p.running && !p.done && p.fault.isNone) 5 + bitNat p.done 6 +
      bitNat p.fault.isSome 7 + bitNat p.holder.isSome 8 +
      (match p.fault with | none => 0 | some (c, _) => c.code.toNat * 2 ^ 16) + Nat.min p.moved (2 ^ 32 - 1) * 2 ^ 24 +
      (match p.holder with | none => 0 | some h => h * 2 ^ 56))
def execPstat (f : LSlot) (s : State) : Res :=
  slot s f.g [scalarResult f.c.toNat 2 (portStatus s.here s.me.launch (portOf f.opnd))]

/-! ## Ownership (R51, R147, R148) -/

/-- An owner code that names an owner (Table 3.3, R147). -/
def ownerCodeValid (v : BitVec 16) : Bool :=
  let kind := fieldOf v 12 4
  let index := fieldOf v 8 4
  decide (kind = 0 ∧ index = 0 ∨ kind = 1 ∧ index ≤ 4 ∨ kind = 2 ∧ index ≤ 5 ∨ kind = 3 ∧ index ≤ 3 ∨
    4 ≤ kind ∧ kind ≤ 7 ∧ index = 0)
/-- What a user context may give a bank to (R51). -/
def mayGiveTo (s : State) (v : BitVec 16) : Bool :=
  let kind := fieldOf v 12 4
  let index := fieldOf v 8 4
  if kind = 1 then
    decide (index < 4 ∧ (s.here.ctx index).launch = s.me.launch ∧ (s.here.ctx index).status ≠ .free)
  else if kind = 2 ∨ kind = 3 then
    (match (s.here.port (if kind = 2 then index else 6 + index)).holder with
    | none => false
    | some h => decide ((s.here.ctx h).launch = s.me.launch))
  else decide (4 ≤ kind)
/-- Whose owner a user context may change (R51). -/
def mayTakeFrom (s : State) (b : Bank) : Bool :=
  s.here.reaches s.cur.ctx b && (decide (b.owner = lCode s.cur.ctx) ||
    (decide (2 ≤ fieldOf b.owner 12 4) && decide (b.grantor = some s.cur.ctx)))
/-- The snapshot banks, which context 4 must keep (R248). -/
def isSnapBank (k : Core) (b : Nat) : Bool := decide (snapBank k.snap ≤ b ∧ b < snapBank k.snap + 4)
def execBown (f : LSlot) (s : State) : Res :=
  slot s f.g (atFlat (immFlat f) (fun a =>
    let bk := bankOf a
    let v := (s.me.readC f.c.toNat).extractLsb' 0 16 &&& 0xFF00
    let ok := ownerCodeValid v &&
      (if s.user then mayTakeFrom s (s.here.bank bk) && mayGiveTo s v
       else !(isSnapBank s.here bk && decide (fieldOf v 12 4 ≠ 0)))
    (if ok then [] else [.trap .bown (flatWord (bk * Config.bankLines))]) ++ [.owner bk v]))
def execBqry (f : LSlot) (s : State) : Res :=
  slot s f.g (atFlat (immFlat f) (fun a =>
    let b := s.here.bank (bankOf a)
    (if b.allocatedTo s.me s.cur.ctx then [] else [.trap .bown (flatWord (bankOf a * Config.bankLines))]) ++
      [scalarResult f.c.toNat 2 (b.owner.zeroExtend 64)]))

end Sys2Proof.Machine
end

