-- ==== Sys2Proof/Machine/GlobalSlots.lean ====
section
/-!
DEFINITION. GLD, GST, GLDS and GSTS (R139 to R141), and the steps in which their effects come about: a load that
returns, a write that is acknowledged, a walk that ends, a post that is performed; the entries of a release that enter
their queues, and the end of a rewind.
-/
namespace Sys2Proof.Machine

/-! ## Slots -/

/-- OFF: FLAGS, BANK and LINE as one signed number of 28 bits (R77). -/
def globalOffset (f : LSlot) : Int := signedOf 28 (f.flags.toNat * 2 ^ 22 + f.bank.toNat * 2 ^ 13 + f.line.toNat)
/-- The VA of a form that moves `size` bytes; its low bits are taken as 0 (R139). -/
def globalVa (s : State) (f : LSlot) (size : Nat) : Nat :=
  let v := wrapOf 64 (((s.me.readC f.c.toNat).toNat : Int) + size * globalOffset f)
  v - v % size
def xlatTrap (va : Nat) : List Effect := [.trap .xlat (BitVec.ofNat 64 va)]
/-- The translation of a slot's address: a fault, a wait for a walk, or what follows from its physical address. -/
def translated (s : State) (va size : Nat) (read write : Bool) (k : Nat → List Effect) : List Effect :=
  if (apertureOf va).isSome then xlatTrap va
  else
    match s.xlate (clusterOf s.cur.core) va size read write false with
    | .fault => xlatTrap va
    | .miss => if s.me.walkFault = some va then xlatTrap va else [.walk va read write, .wait 12 none]
    | .hit pa => k pa
/-- The outbound queue has no place (R107). -/
def outboundFull (s : State) : List Effect := if 32 ≤ classedCount s.me.out then [.wait 5 none] else []
/-- A destination of a global load that has an entry pending in the PWQ (R140). -/
def pendingTile (s : State) (v : BitVec 14) : Bool :=
  s.me.pwq.any (fun e =>
    match e.dest with
    | .tile o => (operandOf o).overlaps (operandOf v)
    | .creg _ | .pred _ | .qmask _ | .push _ | .ereg _ | .dreg _ | .dword _ _ | .special _ | .sync _ | .flags => false)
def pendingReg (s : State) (n : Nat) : Bool := s.me.pwq.any (fun e => decide (e.dest = .creg n))
def execGld (f : LSlot) (s : State) : Res :=
  let va := globalVa s f 128
  slot s f.g (tileChecks s f.opnd ++ (if pendingTile s f.opnd then [.trap .ill 0] else []) ++ outboundFull s ++
    translated s va 128 true false (fun pa => [.load f.oc.toNat (.loadTile f.opnd) va pa]))
def execGlds (f : LSlot) (s : State) : Res :=
  let va := globalVa s f 8
  let n := fieldOf f.opnd 0 6
  slot s f.g ((if pendingReg s n then [.trap .ill 0] else []) ++ outboundFull s ++
    translated s va 8 true false (fun pa => [.load f.oc.toNat (.loadReg n) va pa]))
def execGst (f : LSlot) (s : State) : Res :=
  let va := globalVa s f 128
  slot s f.g (lineChecks s f.opnd ++
    translated s va 128 false true (fun pa => [.held f.oc.toNat (.storeLine (tileValue s f.opnd)) va pa]))
def execGsts (f : LSlot) (s : State) : Res :=
  let va := globalVa s f 8
  slot s f.g (translated s va 8 false true
    (fun pa => [.held f.oc.toNat (.storeWord (s.me.readC (fieldOf f.opnd 0 6))) va pa]))

/-! ## Steps -/

/-- A step of a context of a core that does not exist. -/
def onCtx (c x : Nat) (r : Res) : Res := if Config.cores ≤ c ∨ 5 ≤ x then .fault .noSuchUnit else r
/-- The mark a global load meets: POIS for a revoked window (R295), else that of the line. -/
def loadMark (s : State) (cl pa n : Nat) : Mark := if s.revoked pa then .poison else s.seenMark cl pa n
/-- The bytes a global load reads. -/
def AccessKind.loadBytes : AccessKind → Nat
  | .loadReg _ => 8
  | .loadTile _ | .storeLine _ | .storeWord _ | .post _ _ | .grow _ | .command _ | .fence _ _ | .rel _ _ | .acq _ => 128
/-- What the switch serves a load with in this cycle (R231, R232). -/
def State.serve (s : State) (cl : Nat) (a : Access) : Served :=
  let n := a.kind.loadBytes
  { val := s.readSeen cl a.pa n, mark := loadMark s cl a.pa n,
    after := (s.switchWrites cl a.pa n).map (fun g => g.id) }
/-- A destination is free from a cycle on. -/
def freeReg (n clear : Nat) (l : List (Nat × Nat)) : List (Nat × Nat) :=
  l.map (fun e => if e.1 = n ∧ e.2 = 0 then (n, clear) else e)
def freeLine (o : BitVec 14) (clear : Nat) (l : List (BitVec 14 × Nat)) : List (BitVec 14 × Nat) :=
  l.map (fun e => if e.1 = o ∧ e.2 = 0 then (o, clear) else e)
/-- The data of a load arrive: they are written, or thrown away after a rewind (R140). -/
def State.arrive (s : State) (c x : Nat) (a : Access) (r : Served) : State :=
  let m := r.mark
  match a.kind with
  | .loadTile o =>
    let v : Line := BitVec.ofNat 1024 r.val
    let s1 := if a.discard then s else s.modCore c (fun k =>
      (k.writeLine (k.ctx x).tileBase (operandOf o) v allLanes).mend ((Dest.tile o).places (k.ctx x).tileBase x allLanes))
    s1.modCtx c x (fun t =>
      { t with busyLines := freeLine o (s.cyc + 1) t.busyLines,
               dirtyLines := if a.discard ∨ m = .clean ∨ m = .group then t.dirtyLines else t.dirtyLines ++ [(o, m, a.va)] })
  | .loadReg n =>
    let v : Word := BitVec.ofNat 64 r.val
    (if a.discard then s else s.modCore c (fun k => k.mend [locReg x n])).modCtx c x (fun t =>
      let t1 := if a.discard then t else t.writeC n v
      { t1 with busyRegs := freeReg n (s.cyc + 1) t.busyRegs,
                dirtyRegs := if a.discard ∨ m = .clean ∨ m = .group then t.dirtyRegs else t.dirtyRegs ++ [(n, m, a.va)] })
  | .storeLine _ | .storeWord _ | .post _ _ | .grow _ | .command _ | .fence _ _ | .rel _ _ | .acq _ => s
/-- What a load through a revoked window brings: a poisoned value, of which the spec says no more (R295).
Log entry 5 (DESIGN CHOICE). -/
def State.revokedData (s : State) (a : Access) : Served :=
  { val := packNat 64 (a.kind.loadBytes / 8) (fun i => (Config.freeWord (s.draws + i)).toNat), mark := .poison, after := [] }
/-- A load ends with the data it was served with. -/
def State.loadEnds (s : State) (c x : Nat) (a : Access) (r : Served) : State :=
  (((s.arrive c x a r).inflight a.pa false).finishAccess c x a.num 0 0).afterAnswer c x
/-- A global load returns (R140): its destination is written in this cycle and free from the next. A load that was served
from writes at its cluster's switch returns once these have been passed on, so that what is ordered behind it is ordered
behind them for every observer (R235). A load through a revoked window returns at once (R295, R296).
Log entry 68 (DEDUCED). -/
def execGlobalLoadReturn (core ctx acc : Nat) (s : State) : Res :=
  onCtx core ctx (
    match (s.ctx core ctx).findAccess acc with
    | none => .next s
    | some a =>
      if !a.kind.isLoad then .next s
      else
        let r := match a.served with
          | some r => r
          | none => s.serve (clusterOf core) a
        if s.revoked a.pa then
          .next (({ s with draws := s.draws + 16 } : State).loadEnds core ctx a (s.revokedData a))
        else if s.flitsStopped a.pa || (a.served.isNone && s.mixedAt (clusterOf core) a.pa a.kind.loadBytes) then
          .next (s.scheduleFree (.globalLoadReturn core ctx acc))
        else if s.stillAt (clusterOf core) r.after then
          .next ((s.modAccess core ctx acc (fun b => { b with served := some r })).scheduleFree (.globalLoadReturn core ctx acc))
        else .next (s.loadEnds core ctx a r))
/-- A write that reaches the agents of the device. The bytes of an aperture write are performed by its engine. -/
def State.performWrite (s : State) (g : GWrite) : State :=
  match placeOf g.pa with
  | .scratch d => s.writeFlat d (flatOf g.pa) (BitVec.ofNat 1024 (natOfBytes g.bytes))
  | .hbm | .host | .window _ => s.performBytes g.pa g.bytes
/-- An older write of the same cluster to the same bytes that the switch has acknowledged and not passed on (R233). -/
def State.blockedBy (s : State) (g : GWrite) : Bool :=
  (s.writes.takeWhile (fun h => decide (h.id ≠ g.id))).any (fun h =>
    h.atSwitch (clusterOf g.core) && s.writeMeets h (s.storeAddr g.pa) g.bytes.length)
/-- An older write of the same command to the same bytes that no point has acknowledged: the later iteration's data are
to be left there (R208). -/
def State.behindOwn (s : State) (g : GWrite) : Bool :=
  s.writes.any (fun h => decide (h.core = g.core ∧ h.ctx = g.ctx ∧ h.acc = g.acc ∧ h.id < g.id ∧ h.level = none) &&
    s.writeMeets h (s.storeAddr g.pa) g.bytes.length)
/-- What stands in the way of a write at the scratchpad bank it has reached (R48, R49, R52, R61). -/
inductive AtBank where
  /-- The place is no scratchpad, or the access at the bank has ended. -/
  | perform
  /-- The bank is busy, in refresh, or busy with this access. -/
  | later (cyc : Nat)
  /-- The access begins. -/
  | begin_ (core flat : Nat)
  /-- The bank is no longer the copy engine's for the command's launch. -/
  | refused (status : BitVec 8) (flat : Nat)
  deriving DecidableEq, Repr
def State.atBank (s : State) (g : GWrite) : AtBank :=
  match placeOf g.pa with
  | .scratch d =>
    let k := s.core d
    let flat := flatOf g.pa
    let st := k.accessStatus 6 (s.actsFor g.core g.ctx) (flat : Nat)
    if st ≠ 0 then .refused st flat
    else
      (match g.begun with
      | some t => if t ≤ s.cyc then .perform else .later t
      | none => if k.lineFree flat s.cyc then .begin_ d flat else .later (k.streamTime (bankOf flat) (busyTime flat) s.cyc))
  | .hbm | .host | .window _ => .perform
/-- The point after this one at which a write is acknowledged. -/
def pointAfter (p : Scope) : List Scope → Option Scope
  | [] => none
  | [_] => none
  | a :: b :: l => if a = p then some b else pointAfter p (b :: l)
def State.setWrite (s : State) (g : GWrite) : State :=
  { s with writes := s.writes.filter (fun h => decide (h.id ≠ g.id)) ++ [g] }
def State.dropWrite (s : State) (g : GWrite) : State :=
  { s with writes := s.writes.filter (fun h => decide (h.id ≠ g.id)) }
/-- What the acknowledgement of a write means to its access: a store's own, or a unit of a command. -/
def State.acked (s : State) (g : GWrite) (p : Scope) : State :=
  match (s.ctx g.core g.ctx).findAccess g.acc with
  | none => s
  | some a =>
    match a.kind with
    | .command cmd =>
      if isScaOp cmd.op then s.schedule s.cyc (.scaWindowApply g.core)
      else
        (match (s.core g.core).channelOf g.ctx g.acc with
        | some ch => s.schedule s.cyc (.copyUnitWritePerformed g.core ch g.unit)
        | none =>
          match scopeOfAll (s.writesOf g.core g.ctx g.acc) with
          | some .system => if p = .system then s.finishAccess g.core g.ctx g.acc 0 0 else s
          | some .device => s.performedTo g.core g.ctx g.acc .device
          | some .cluster => s.performedTo g.core g.ctx g.acc .cluster
          | none => s)
    | .storeLine _ | .storeWord _ => s.ackAccess g.core g.ctx g.acc p
    | .loadTile _ | .loadReg _ | .post _ _ | .grow _ | .fence _ _ | .rel _ _ | .acq _ => s
/-- A line of a running copy that its bank did not take: its write, which may have been acknowledged before, is known as
refused. -/
def Channel.lineRefused (h : Channel) (unit : Nat) (st : BitVec 8) (flat : Nat) : Channel :=
  if h.writing.any (fun w => decide (w.out.idx = unit ∧ w.flat = none)) then
    { h with writing := h.writing.map (fun w => if w.out.idx = unit ∧ w.flat = none then { w with bad := some (st, flat) } else w) }
  else
    { h with writing := h.writing ++ [{ out := { idx := unit, val := 0, word := none, group := false }, flat := none, at_ := 0,
                                        bad := some (st, flat) }] }
/-- A line that its bank does not take: it is not performed, and the command that sent it ends there with the status
(R52, R210). A line of a command whose token has completed is marked POISON, if its bank is the launch's.
Log entry 45 (DEDUCED). -/
def State.refuseWrite (s : State) (g : GWrite) (st : BitVec 8) (flat : Nat) : State :=
  let s1 := (s.modCore g.core (fun k => { k with chans := k.chans.map (fun e =>
    (e.1, if e.2.access = g.acc ∧ e.2.cmd.ctx = g.ctx then e.2.lineRefused g.unit st flat else e.2)) })).dropWrite g
  let s2 := match (s.core g.core).channelOf g.ctx g.acc, placeOf g.pa with
    | none, .scratch d =>
      if ((s.core d).bank (bankOf flat)).allocatedTo (s.ctx g.core g.ctx) g.ctx then s1.setMark (spAddr d flat) .poison else s1
    | none, .hbm | none, .host | none, .window _ | some _, _ => s1
  s2.acked g .system
/-- A write reaches the point that serves its place and its bytes are performed there; a later point may still have to
acknowledge it. -/
def State.reachPoint (s : State) (g : GWrite) (core ctx acc : Nat) (pt : Scope) : State :=
  let s1 := s.performWrite g
  match pointAfter pt (pointsOf core g.pa) with
  | some p =>
    let g1 := { g with level := some Scope.device }
    ((s1.setWrite g1).acked g1 .device).scheduleFree (.writePerformed core ctx acc p)
  | none => ((s1.dropWrite g).inflight g.pa false).acked g .system
/-- A write is acknowledged at a point (R231): at the cluster's switch it is visible to the cluster; at the next point
its bytes are performed, in a scratchpad at the end of its bank's busy window; at the last it is done. A write of an
access that the machine no longer knows is dropped. -/
def execWritePerformed (core ctx acc : Nat) (pt : Scope) (s : State) : Res :=
  onCtx core ctx (
    match s.writes.find? (fun g => decide (g.id = acc)) with
    | none => .next s
    | some g =>
      if s.behindOwn g then .next (s.scheduleFree (.writePerformed core ctx acc pt))
      else if pt = .cluster then
        let g1 := { g with level := some Scope.cluster }
        let s1 := (s.setWrite g1).acked g1 .cluster
        (match pointAfter .cluster (pointsOf core g.pa) with
        | some p => .next (s1.scheduleFree (.writePerformed core ctx acc p))
        | none => .next s1)
      else if s.flitsStopped g.pa then .next (s.scheduleFree (.writePerformed core ctx acc pt))
      else if g.level = some .device then
        .next (((s.dropWrite g).inflight g.pa false).acked g .system)
      else if s.blockedBy g then .next (s.scheduleFree (.writePerformed core ctx acc pt))
      else
        match s.atBank g with
        | .perform => .next (s.reachPoint g core ctx acc pt)
        | .later t => .next (s.schedule t (.writePerformed core ctx acc pt))
        | .begin_ d flat =>
          let t := s.cyc + busyTime flat
          let s1 : State := { s.occupy d flat with
            writes := s.writes.map (fun h : GWrite => if h.id = g.id then { h with begun := some t } else h) }
          .next (s1.schedule t (.writePerformed core ctx acc pt))
        | .refused st flat => .next (s.refuseWrite g st flat))
/-- A walk ends (R290): the leaf enters the TLB, or the context that asked learns of the fault; a TLBI that waits for
the walk waits no longer. The leaf of a walk begun before a TLBI is not kept: its context asks again (R291). -/
def State.endWalk (s : State) (cluster walk : Nat) (w : Walk) : State :=
  let s1 := s.modCluster cluster (fun k => { k with walks := k.walks.erase walk })
  let s2 : State := { s1 with
    cores := s1.cores.map (fun e => (e.1, { e.2 with
      ctxs := e.2.ctxs.map (fun v => (v.1, { v.2 with
        tlbiWait := v.2.tlbiWait.filter (fun i => decide (i ≠ (cluster, walk))) })) })) }
  let found := if s.rootEnabled w.part then walkTables s.mem 4 (w.root) w.va else none
  match found with
  | some (base, size, e) =>
    if w.stale then s2.modCtx w.core w.ctx (fun v => if v.walk = some walk then { v with walk := none } else v)
    else if leafPermits e w.read w.write then
      (s2.modCluster cluster (fun k => k.cache { part := w.part, base := base, size := size, leaf := e })).modCtx w.core w.ctx
        (fun v => if v.walk = some walk then { v with walk := none } else v)
    else s2.modCtx w.core w.ctx (fun v => if v.walk = some walk then { v with walk := none, walkFault := some w.va } else v)
  | none => s2.modCtx w.core w.ctx (fun v => if v.walk = some walk then { v with walk := none, walkFault := some w.va } else v)
def execTranslationWalkDone (cluster walk : Nat) (s : State) : Res :=
  if Config.clusters ≤ cluster then .fault .noSuchUnit
  else
    match (s.cluster cluster).walks.at? walk with
    | none => .next s
    | some w => .next (s.endWalk cluster walk w)
/-- A released post is performed, after the refresh window of its word's bank (R103, R106). -/
def execSyncPostPerform (core ctx acc : Nat) (s : State) : Res :=
  onCtx core ctx (
    match (s.ctx core ctx).findAccess acc with
    | none => .next s
    | some a =>
      match a.kind with
      | .post w v =>
        (match (s.core core).refreshEnd (bankOf ((w - spAddr core 0) / 128)) s.cyc 1 with
        | some t => .next (s.schedule t (.syncPostPerform core ctx acc))
        | none => .next ((s.post core ((w - spAddr core 0) / 16) v.toNat).finishAccess core ctx acc 0 0))
      | .loadTile _ | .loadReg _ | .storeLine _ | .storeWord _ | .grow _ | .command _ | .fence _ _ | .rel _ _ | .acq _ =>
        .next s)
/-- An entry of a release that waited for a full queue enters it (R21). -/
def execSrqEntryEnqueue (core ctx : Nat) (s : State) : Res := onCtx core ctx (.next (s.drainRelease core ctx))
/-- A rewind ends: the checkpoint is restored and issue resumes at the segment's first bundle (R22). -/
def execRewindResume (core ctx : Nat) (s : State) : Res :=
  onCtx core ctx (
    match (s.ctx core ctx).rewind with
    | none => .next s
    | some r => if r.settled.isSome then .next (s.finishRewind core ctx) else .next s)

end Sys2Proof.Machine
end

