-- ==== Sys2Proof/Machine/Ports.lean ====
section
/-!
DEFINITION. Ports at work (R63 to R66, R68, R143 to R145): configuration and stop at commit, the pop of a line, and the
two steps in which a read port fetches and a write port writes.
-/
namespace Sys2Proof.Machine

def State.port (s : State) (c n : Nat) : Port := (s.core c).port n
def State.setPort (s : State) (c n : Nat) (p : Port) : State := s.modCore c (fun k => k.setPort n p)
/-- Lines a port moves in all (R64, R65). -/
def Port.total (p : Port) : Nat := if Descr.exp p.cfg then 2 * Descr.product p.cfg else Descr.product p.cfg
/-- A port has moved its last line: a pending KEND completes (R68).
Log entry 39 (DEDUCED). -/
def State.portDone (s : State) (c n : Nat) : State :=
  let p := s.port c n
  let s1 := s.setPort c n { p with done := true, kend := none }
  match p.kend with
  | some (id, x) => s1.completeId c x id 0 0
  | none => s1
/-- PCFG at the boundary after its bundle (R63, R143). The KEND of a stream that has not moved its last line is dropped
with the stream (log entry 63). -/
def State.configPort (s : State) (c x n : Nat) (d : Descr) : State :=
  let ko := Descr.kend d
  let (id, s0) := if ko = 0 then (0, s) else s.newId
  let s1 := (s0.modCtx c x (fun v => v.produce ko id)).setPort c n
    { Port.idle with holder := some x, cfg := d, running := true, kend := if ko = 0 then none else some (id, x) }
  if Descr.product d = 0 then s1.portDone c n
  else if n < 6 then s1.schedule (s.cyc + 1) (.readPortFetch c n)
  else s1
/-- PSTOP at the boundary after its bundle (R145). -/
def State.stopPort (s : State) (c n : Nat) : State :=
  let p := s.port c n
  let s1 := s.setPort c n { p with holder := none, running := false, fifo := [], coming := [], kend := none, lent := none }
  match p.kend with
  | some (id, x) => s1.completeId c x id 0 0
  | none => s1
/-- A line leaves a read port (R63).
Log entry 39 (DEDUCED). -/
def State.popPort (s : State) (c n : Nat) : State :=
  let p := s.port c n
  let s1 := (s.setPort c n { p with fifo := p.fifo.drop 1, pos := p.pos + 1, moved := p.moved + 1 }).schedule s.cyc
    (.readPortFetch c n)
  if p.pos + 1 = p.total then s1.portDone c n else s1

/-! ## Read ports -/

/-- One output line of an expanded code line: elements `lo` to `lo + 127` as E4M3, with the flags (R41, R65).
Log entry 16 (DEDUCED). -/
def expandHalf (codes : Line) (scales lo : Nat) : PortLine :=
  let rs := (upTo 128 lo).map (fun i =>
    q4xToE4m3 (q4xElem (elemOf 128 codes (i / 32)) (natField scales (8 * (i / 32)) 8) (i % 32)))
  { val := BitVec.ofNat 1024 (packList 8 (rs.map (fun r => r.1))), flg := rs.foldl (fun f r => f ||| r.2) 0 }
/-- The output lines of the `i`-th line fetched. -/
def Port.deliver (p : Port) (i : Nat) (v : Line) : List PortLine :=
  if Descr.exp p.cfg then
    let scales := ((p.scale.getD 0).extractLsb' (64 * (i % 16)) 64).toNat
    let next := p.pos + p.fifo.length + p.coming.length
    [expandHalf v scales 0, expandHalf v scales 128].drop (next - 2 * i)
  else [{ val := v, flg := 0 }]
/-- Lines that have arrived enter the FIFO. -/
def Port.arrive (p : Port) (cyc : Nat) : Port :=
  let there := p.coming.takeWhile (fun e => decide (e.1 ≤ cyc))
  { p with fifo := p.fifo ++ there.map (fun e => e.2), coming := p.coming.drop there.length }
/-- The line a read port has to access next: its scale line first, where it needs one (R65).
Log entry 40 (DEDUCED). -/
def Port.nextFlat (p : Port) : Bool × Int :=
  if Descr.exp p.cfg && p.scale.isNone then
    (true, ((natField (Descr.aux p.cfg) 0 22 + p.walked / 16 : Nat) : Int))
  else (false, Descr.flatAt p.cfg p.walked)
def portCause (st : BitVec 8) : Cause := if st = stPois then .pois else .uncr
/-- One access of a read port, when its line's bank is ready.
Log entry 16 (DEDUCED). -/
def State.fetchLine (s : State) (c n : Nat) (p : Port) (scale : Bool) (flat : Nat) : State :=
  let (v, m, s1) := s.engineRead c flat
  let at_ := s.cyc + loadLatency flat
  if markStatus m ≠ 0 then s1.setPort c n { p with fault := some (portCause (markStatus m), flat), faultAt := p.walked }
  else if scale then (s1.setPort c n { p with scale := some v }).schedule (s.cyc + 1) (.readPortFetch c n)
  else
    let ls := p.deliver p.walked v
    let p1 := { p with
      coming := p.coming ++ ls.map (fun l => (at_, l)), walked := p.walked + 1,
      scale := if (p.walked + 1) % 16 = 0 then none else p.scale }
    let s2 := ((s1.setPort c n p1).schedule at_ (.readPortFetch c n)).schedule (s.cyc + 1) (.readPortFetch c n)
    match p.holder with
    | some h => s2.engineDone c h (ls.foldl (fun f l => f ||| l.flg) 0) 0 false
    | none => s2
/-- Whether a read port may access another line: running, not stopped by a fault, not at its end, with room for what
the line delivers. -/
def Port.mayFetch (p : Port) : Bool :=
  p.running && ((p.fault.isNone || decide (p.walked < p.faultAt)) && (decide (p.walked < Descr.product p.cfg) &&
    decide (p.fifo.length + p.coming.length + (if Descr.exp p.cfg then 2 else 1) ≤ 16)))
/-- R64: lines that have arrived enter the FIFO, and the address generator fetches its next line, or stops on a fault
(R66), or waits for a bank that is still its holder's (R144). -/
def execReadPortFetch (core port : Nat) (s : State) : Res :=
  if Config.cores ≤ core ∨ 6 ≤ port then .fault .noSuchUnit
  else
    let p := (s.port core port).arrive s.cyc
    let s0 := s.setPort core port p
    let s1 := if p.lent.isSome then s0.schedule s.cyc (.matrixRunStep core) else s0
    if !p.mayFetch then .next s1
    else
      let (scale, flat) := p.nextFlat
      match (s1.core core).portAccess 2 port p.holder flat with
      | .faults c => .next (s1.setPort core port { p with fault := some (c, flatAddr flat), faultAt := p.walked })
      | .waits => .next s1
      | .ready =>
        if (s1.core core).lineFree flat.toNat s.cyc then .next (s1.fetchLine core port p scale flat.toNat)
        else
          .next (s1.schedule ((s1.core core).streamTime (bankOf flat.toNat) (busyTime flat.toNat) s.cyc)
            (.readPortFetch core port))

/-! ## Write ports -/

/-- An engine that waits for the lines it pushed looks again (R187, R226). -/
def State.wakePushers (s : State) (c : Nat) : State :=
  ((s.schedule s.cyc (.ppeLineWrite c)).schedule s.cyc (.ppeCommandComplete c)).schedule s.cyc (.scaCommandComplete c)
/-- R63: the next pushed line is written to its address; after the last write's busy window the stream is done.
Log entry 39 (DEDUCED). -/
def execWritePortWrite (core port : Nat) (s : State) : Res :=
  if Config.cores ≤ core ∨ 4 ≤ port then .fault .noSuchUnit
  else
    let n := 6 + port
    let p := s.port core n
    match p.fifo with
    | [] =>
      if p.running ∧ !p.done ∧ p.walked = Descr.product p.cfg ∧ p.performed ≤ s.cyc then
        .next ((s.portDone core n).wakePushers core)
      else .next (if p.lent.isSome ∧ p.performed ≤ s.cyc then s.wakePushers core else s)
    | l :: ls =>
      if p.fault.isSome ∧ p.faultAt ≤ p.walked then .next s
      else
        let flat := Descr.flatAt p.cfg p.walked
        match (s.core core).portAccess 3 port p.holder flat with
        | .faults c => .next ((s.setPort core n { p with fault := some (c, flatAddr flat), faultAt := p.walked }).wakePushers core)
        | .waits => .next s
        | .ready =>
          if (s.core core).lineFree flat.toNat s.cyc then
            let w := s.cyc + busyTime flat.toNat
            let s1 := ((s.setPort core n { p with fifo := ls, walked := p.walked + 1, moved := p.moved + 1, performed := w }).occupy
              core flat.toNat).writeFlat core flat.toNat l.val
            let s2 := if ls.isEmpty then s1.schedule w (.writePortWrite core port) else s1.schedule (s.cyc + 1) (.writePortWrite core port)
            .next (if p.lent.isSome then s2.wakePushers core else s2)
          else
            .next (s.schedule ((s.core core).streamTime (bankOf flat.toNat) (busyTime flat.toNat) s.cyc)
              (.writePortWrite core port))
/-- The ports of a core look again: a bank has changed hands (R144). -/
def State.wakePorts (s : State) (c : Nat) : State :=
  let s1 := (upTo 6 0).foldl (fun t n => if (t.port c n).running then t.schedule t.cyc (.readPortFetch c n) else t) s
  (upTo 4 0).foldl (fun t n => if (t.port c (6 + n)).fifo.isEmpty then t else t.schedule t.cyc (.writePortWrite c n)) s1

end Sys2Proof.Machine
end

