-- ==== Sys2Proof/Machine/Vector.lean ====
section
/-!
DEFINITION. V slots (chapter 6): arithmetic, bit forms, lane masks, conversions, Q4X forms, reductions, lane moves,
special functions and VCHK.
-/
namespace Sys2Proof.Machine

/-! ## Shared forms -/

/-- The bits of a list of element results, and the flags of those in enabled lanes (R119). -/
def laneFlags (w : Nat) (mask : BitVec 32) : Nat → List (Nat × FlagBits) → FlagBits
  | _, [] => 0
  | i, r :: rs => flagIf (bitOf mask (i * w / 32)) r.2 ||| laneFlags w mask (i + 1) rs
def elemLine (w : Nat) (mask : BitVec 32) (rs : List (Nat × FlagBits)) : Line × FlagBits :=
  (BitVec.ofNat 1024 (packList w (rs.map (fun r => r.1))), laneFlags w mask 0 rs)
/-- An operation on every element of `w` bits (R118). -/
def mapElems (w : Nat) (mask : BitVec 32) (op : Nat → Nat × FlagBits) : Line × FlagBits :=
  elemLine w mask ((upTo (1024 / w) 0).map op)
/-- The lane mask a V slot names. -/
def vMask (s : State) (f : VSlot) : BitVec 32 := s.me.readQ f.m.toNat
/-- A V slot that reads its sources and writes lanes of its destination. -/
def vSlot (s : State) (f : VSlot) (srcs : List (BitVec 14)) (lat : Nat) (r : Line × FlagBits) (mask : BitVec 32) : Res :=
  slot s f.g (srcs.flatMap (lineChecks s) ++ lineResult s f.d lat r.1 mask r.2)
/-- A V slot that writes a lane mask. -/
def qSlot (s : State) (f : VSlot) (srcs : List (BitVec 14)) (v : Nat) (mask : BitVec 32) : Res :=
  slot s f.g (srcs.flatMap (lineChecks s) ++ [result (.qmask f.d.toNat) 2 (BitVec.ofNat 1024 v) mask 0])
/-- A float result rounded to a format, with the flags of the exact operation. -/
def floatOut (F : Format) (f : VSlot) (x : Num × FlagBits) : Nat × FlagBits :=
  let (b, g) := F.round f.rnd.toNat (decide (f.sat = 1)) x.1
  (b, x.2 ||| g)
/-- R124: an arithmetic form of three operands (destination, A, B) in every element of its format. -/
def arith (fl : Num → Num → Num → Num × FlagBits) (it : Int → Int → Int → Int) (lat : Nat) (readsD : Bool) (f : VSlot)
    (s : State) : Res :=
  let w := fmtWidth f.fmt.toNat
  let a := lineValue s f.a
  let b := lineValue s f.b
  let d := lineValue s f.d
  let op (i : Nat) : Nat × FlagBits :=
    match floatFormat f.fmt.toNat with
    | some F => floatOut F f (fl (F.decode (elemOf w d i)) (F.decode (elemOf w a i)) (F.decode (elemOf w b i)))
    | none =>
      intResult w (decide (f.sat = 1))
        (it (signedOf w (elemOf w d i)) (signedOf w (elemOf w a i)) (signedOf w (elemOf w b i)))
  vSlot s f ((if readsD then [f.d] else []) ++ [f.a, f.b]) lat (mapElems w (vMask s f) op) (vMask s f)
/-- An operation on the raw elements of A and B of `w` bits, without flags. -/
def raw2 (w : Nat) (lat : Nat) (op : Nat → Nat → Nat) (f : VSlot) (s : State) : Res :=
  let a := lineValue s f.a
  let b := lineValue s f.b
  vSlot s f [f.a, f.b] lat (mapElems w (vMask s f) (fun i => (op (elemOf w a i) (elemOf w b i), 0))) (vMask s f)
/-- An operation on the raw elements of A, without flags. -/
def raw1 (w : Nat) (op : Nat → Nat) (f : VSlot) (s : State) : Res :=
  let a := lineValue s f.a
  vSlot s f [f.a] 2 (mapElems w (vMask s f) (fun i => (op (elemOf w a i), 0))) (vMask s f)
/-- An operation on raw 32-bit lanes of A, by the lane's number. -/
def lanes (op : Line → Nat → Lane) (mask : BitVec 32) (f : VSlot) (s : State) : Res :=
  vSlot s f [f.a] 2 (lineOf (op (lineValue s f.a)), 0) mask

/-! ## Arithmetic (R124) -/

def execVadd (f : VSlot) (s : State) : Res :=
  arith (fun _ a b => a.add f.rnd.toNat b) (fun _ a b => a + b) 2 false f s
def execVsub (f : VSlot) (s : State) : Res :=
  arith (fun _ a b => a.add f.rnd.toNat b.negate) (fun _ a b => a - b) 2 false f s
def execVmul (f : VSlot) (s : State) : Res := arith (fun _ a b => a.mul b) (fun _ a b => a * b) 4 false f s
def execVfma (f : VSlot) (s : State) : Res :=
  arith (fun d a b => Num.fma f.rnd.toNat a b d) (fun d a b => d + a * b) 4 true f s
def execVfms (f : VSlot) (s : State) : Res :=
  arith (fun d a b => Num.fma f.rnd.toNat a.negate b d) (fun d a b => d - a * b) 4 true f s
/-- |a − b|: the magnitude of the exact difference. -/
def numDif (rnd : Nat) (a b : Num) : Num × FlagBits :=
  let (x, g) := a.add rnd b.negate
  (x.abs, g)
def execVdif (f : VSlot) (s : State) : Res :=
  arith (fun _ a b => numDif f.rnd.toNat a b) (fun _ a b => ((a - b).natAbs : Int)) 2 false f s
/-- VABS and VNEG: one source. -/
def arith1 (fl : Num → Num) (it : Int → Int) (f : VSlot) (s : State) : Res :=
  let w := fmtWidth f.fmt.toNat
  let a := lineValue s f.a
  let op (i : Nat) : Nat × FlagBits :=
    match floatFormat f.fmt.toNat with
    | some F => floatOut F f (fl (F.decode (elemOf w a i)), 0)
    | none => intResult w (decide (f.sat = 1)) (it (signedOf w (elemOf w a i)))
  vSlot s f [f.a] 2 (mapElems w (vMask s f) op) (vMask s f)
def execVabs (f : VSlot) (s : State) : Res := arith1 Num.abs (fun x => (x.natAbs : Int)) f s
def execVneg (f : VSlot) (s : State) : Res := arith1 Num.negate (fun x => -x) f s
/-- The smaller of two floats: a NaN gives the default NaN, −0 counts as less than +0. -/
def floatMin (F : Format) (a b : Nat) : Nat :=
  let x := F.decode a
  let y := F.decode b
  if x.isNan ∨ y.isNan then F.nanBits
  else if x.lt y ∨ (x.isZero ∧ y.isZero ∧ x.neg?) then a else b
def floatMax (F : Format) (a b : Nat) : Nat :=
  let x := F.decode a
  let y := F.decode b
  if x.isNan ∨ y.isNan then F.nanBits
  else if x.lt y ∨ (x.isZero ∧ y.isZero ∧ x.neg?) then b else a
def elemMin (fmt a b : Nat) : Nat :=
  match floatFormat fmt with
  | some F => floatMin F a b
  | none => if signedOf (fmtWidth fmt) a ≤ signedOf (fmtWidth fmt) b then a else b
def elemMax (fmt a b : Nat) : Nat :=
  match floatFormat fmt with
  | some F => floatMax F a b
  | none => if signedOf (fmtWidth fmt) a ≤ signedOf (fmtWidth fmt) b then b else a
def execVmin (f : VSlot) (s : State) : Res := raw2 (fmtWidth f.fmt.toNat) 2 (elemMin f.fmt.toNat) f s
def execVmax (f : VSlot) (s : State) : Res := raw2 (fmtWidth f.fmt.toNat) 2 (elemMax f.fmt.toNat) f s
def execVminn (f : VSlot) (s : State) : Res := raw2 (fmtWidth f.fmt.toNat) 2 Nat.min f s
def execVmaxn (f : VSlot) (s : State) : Res := raw2 (fmtWidth f.fmt.toNat) 2 Nat.max f s

/-! ## Bit forms (R125) -/

def execVmov (f : VSlot) (s : State) : Res := lanes laneOf (vMask s f) f s
/-- q[M] selects, and every lane is written. -/
def execVsel (f : VSlot) (s : State) : Res :=
  vSlot s f [f.a, f.b] 2 (mergeLanes (vMask s f) (lineValue s f.b) (lineValue s f.a), 0) allLanes
def execVand (f : VSlot) (s : State) : Res :=
  vSlot s f [f.a, f.b] 2 (lineValue s f.a &&& lineValue s f.b, 0) (vMask s f)
def execVor (f : VSlot) (s : State) : Res :=
  vSlot s f [f.a, f.b] 2 (lineValue s f.a ||| lineValue s f.b, 0) (vMask s f)
def execVxor (f : VSlot) (s : State) : Res :=
  vSlot s f [f.a, f.b] 2 (lineValue s f.a ^^^ lineValue s f.b, 0) (vMask s f)
def execVnot (f : VSlot) (s : State) : Res := vSlot s f [f.a] 2 (~~~(lineValue s f.a), 0) (vMask s f)
def execVshl (f : VSlot) (s : State) : Res :=
  let w := fmtWidth f.fmt.toNat
  raw2 w 2 (fun a b => a * 2 ^ (b % w) % 2 ^ w) f s
def execVshr (f : VSlot) (s : State) : Res :=
  let w := fmtWidth f.fmt.toNat
  raw2 w 2 (fun a b => a / 2 ^ (b % w)) f s
def execVsar (f : VSlot) (s : State) : Res :=
  let w := fmtWidth f.fmt.toNat
  raw2 w 2 (fun a b => wrapOf w (signedOf w a / (2 ^ (b % w) : Nat))) f s
def execVmulh (f : VSlot) (s : State) : Res :=
  let w := fmtWidth f.fmt.toNat
  raw2 w 4 (fun a b => wrapOf w (signedOf w a * signedOf w b / (2 ^ w : Nat))) f s
def execVmulhn (f : VSlot) (s : State) : Res :=
  let w := fmtWidth f.fmt.toNat
  raw2 w 4 (fun a b => a * b / 2 ^ w) f s
def execVclz (f : VSlot) (s : State) : Res :=
  let w := fmtWidth f.fmt.toNat
  raw1 w (leadingZeros w) f s
def execVpopc (f : VSlot) (s : State) : Res :=
  let w := fmtWidth f.fmt.toNat
  raw1 w (popCount w) f s

/-! ## Lane masks (R126) -/

/-- A condition on every lane of A and B into a lane mask. -/
def vCompare (fl : Num → Num → Bool) (it : Nat → Nat → Bool) (f : VSlot) (s : State) : Res :=
  let a := lineValue s f.a
  let b := lineValue s f.b
  let bit (i : Nat) : Nat :=
    let x := elemOf 32 a i
    let y := elemOf 32 b i
    (if f.fmt = 0 then fl (num32 x) (num32 y) else it x y).toNat
  qSlot s f [f.a, f.b] (packList 1 ((upTo 32 0).map bit)) (vMask s f)
def execVcmpEq (f : VSlot) (s : State) : Res := vCompare Num.eq (fun a b => decide (a = b)) f s
def execVcmpNe (f : VSlot) (s : State) : Res := vCompare (fun a b => !a.eq b) (fun a b => decide (a ≠ b)) f s
def execVcmpLt (f : VSlot) (s : State) : Res :=
  vCompare Num.lt (fun a b => decide (signedOf 32 a < signedOf 32 b)) f s
def execVcmpLe (f : VSlot) (s : State) : Res :=
  vCompare Num.le (fun a b => decide (signedOf 32 a ≤ signedOf 32 b)) f s
def execVcmpLtn (f : VSlot) (s : State) : Res := vCompare Num.lt (fun a b => decide (a < b)) f s
def execVcmpLen (f : VSlot) (s : State) : Res := vCompare Num.le (fun a b => decide (a ≤ b)) f s
/-- An operation on two lane masks. -/
def maskOp (op : BitVec 32 → BitVec 32 → BitVec 32) (f : VSlot) (s : State) : Res :=
  qSlot s f [] (op (s.me.readQ f.a.toNat) (s.me.readQ f.b.toNat)).toNat allLanes
def execVqand (f : VSlot) (s : State) : Res := maskOp (· &&& ·) f s
def execVqor (f : VSlot) (s : State) : Res := maskOp (· ||| ·) f s
def execVqxor (f : VSlot) (s : State) : Res := maskOp (· ^^^ ·) f s
/-- A number written to every enabled lane as s32. -/
def everyLane (v : Lane) (f : VSlot) (s : State) : Res := vSlot s f [] 2 (lineOf (fun _ => v), 0) (vMask s f)
def execVqcnt (f : VSlot) (s : State) : Res := everyLane (BitVec.ofNat 32 (popCount 32 (s.me.readQ f.a.toNat).toNat)) f s
def execVqfirst (f : VSlot) (s : State) : Res :=
  everyLane (match findFrom (bitOf (s.me.readQ f.a.toNat)) 32 0 with
    | some i => BitVec.ofNat 32 i
    | none => BitVec.allOnes 32) f s

/-! ## Conversions (R127 to R129) -/

/-- The flags of a value rounded to an integer: inexact when it changed, underflow too when a non-zero value became 0
(R37). -/
def integerFlags (m : Nat) (i : Int) (inexact : Bool) : FlagBits :=
  flagIf inexact inexactFlag ||| flagIf (decide (m ≠ 0 ∧ i = 0)) underflowFlag
/-- One element converted from one format to another (R127).
Log entry 14 (DEDUCED). -/
def convert (src dst rnd : Nat) (sat : Bool) (x : Nat) : Nat × FlagBits :=
  match floatFormat src with
  | some S =>
    (match floatFormat dst with
    | some D => D.round rnd sat (S.decode x)
    | none =>
      let w := fmtWidth dst
      match S.decode x with
      | .nan => (0, invalidFlag)
      | .inf n => (wrapOf w (if n then intMin w else intMax w), invalidFlag)
      | .fin n m e =>
        let (i, inexact) := roundInt rnd n m e
        let (b, g) := intClamped w i
        (b, g ||| integerFlags m i inexact))
  | none =>
    let x := signedOf (fmtWidth src) x
    match floatFormat dst with
    | some D => D.round rnd sat (Num.ofInt x)
    | none => intResult (fmtWidth dst) sat x
/-- A conversion's line and the lanes it writes: equal widths, narrowing into part PART, widening from part PART. The
bits below and above a part are 0 and not written. -/
def convertLine (es ed part : Nat) (mask : BitVec 32) (src : Nat → Nat) (op : Nat → Nat × FlagBits) :
    (Line × FlagBits) × BitVec 32 :=
  if ed < es then
    let n := 1024 / es
    let lo := 32 * part * ed / es
    let m := laneRange lo (32 * ed / es) &&& mask
    let rs := (upTo n 0).map (fun j => op (src j))
    let v := BitVec.ofNat 1024 (packList ed (rs.map (fun r => r.1)) * 2 ^ (32 * lo))
    ((v, laneFlags ed m (part * n) rs), m)
  else
    let n := 1024 / ed
    (elemLine ed mask ((upTo n 0).map (fun j => op (src (part * n + j)))), mask)
def execVcvt (f : VSlot) (s : State) : Res :=
  let src := fieldOf f.b 0 3
  let es := fmtWidth src
  let a := lineValue s f.a
  let (r, m) := convertLine es (fmtWidth f.fmt.toNat) (fieldOf f.b 3 2) (vMask s f) (elemOf es a)
    (convert src f.fmt.toNat f.rnd.toNat (decide (f.sat = 1)))
  vSlot s f [f.a] 3 r m
/-- VSCL: lane i times 2^(v − 127), v byte i of e[N] (R128). -/
def execVscl (f : VSlot) (s : State) : Res :=
  let w := fmtWidth f.fmt.toNat
  let a := lineValue s f.a
  let e := s.me.readE (fieldOf f.b 0 4)
  let F := (floatFormat f.fmt.toNat).getD fp32
  let op (i : Nat) : Nat × FlagBits :=
    let v := fieldOf e (8 * (i * w / 32)) 8
    if v = 255 then (F.nanBits, 0)
    else F.round f.rnd.toNat false ((F.decode (elemOf w a i)).scale ((v : Int) - 127))
  vSlot s f [f.a] 3 (mapElems w (vMask s f) op) (vMask s f)
/-- VRND: rounded to an integer value in the same format (R128). -/
def roundSame (F : Format) (rnd x : Nat) : Nat × FlagBits :=
  match F.decode x with
  | .nan => (F.nanBits, 0)
  | .inf n => (F.sign n + F.infBits, 0)
  | .fin n m e =>
    let (i, inexact) := roundInt rnd n m e
    ((F.round rnd false (.fin n i.natAbs 0)).1, integerFlags m i inexact)
def execVrnd (f : VSlot) (s : State) : Res :=
  let w := fmtWidth f.fmt.toNat
  let a := lineValue s f.a
  vSlot s f [f.a] 3
    (mapElems w (vMask s f) (fun i => roundSame ((floatFormat f.fmt.toNat).getD fp32) f.rnd.toNat (elemOf w a i))) (vMask s f)
/-- VSRND: element j takes bits [16j+15:16j] of line b (R129).
Log entry 22 (DEDUCED). -/
def execVsrnd (f : VSlot) (s : State) : Res :=
  let a := lineValue s f.a
  let b := lineValue s f.b
  let F := (floatFormat f.fmt.toNat).getD bf16
  let (r, m) := convertLine 32 F.width f.rnd.toNat (vMask s f) (fun j => j)
    (fun j => F.stochastic (decide (f.sat = 1)) (elemOf 16 b j) (num32 (elemOf 32 a j)))
  vSlot s f [f.a, f.b] 3 r m

/-! ## Q4X (R130) -/

/-- The 32 f32 elements of a line. -/
def lineNums (v : Line) : List Num := (upTo 32 0).map (fun i => num32 (elemOf 32 v i))
/-- VBSCL: the scale byte of a block into byte m. -/
def execVbscl (f : VSlot) (s : State) : Res :=
  let m := fieldOf f.b 2 7
  let mask := laneRange (m / 4) 1 &&& vMask s f
  let (scale, limited) := q4xScale (fieldOf f.b 0 2) (lineNums (lineValue s f.a))
  vSlot s f [f.d, f.a] 3
    (putField (lineValue s f.d) (8 * m) 8 scale, flagIf (limited && decide (mask ≠ 0)) saturatedFlag) mask
/-- VQPACK: the codes of a block into lanes 4j to 4j+3; lane 4j+i holds elements 8i to 8i+7, and the flags are those of
the elements in the lanes written (R119). -/
def execVqpack (f : VSlot) (s : State) : Res :=
  let j := fieldOf f.b 2 3
  let mask := laneRange (4 * j) 4 &&& vMask s f
  let xs := lineNums (lineValue s f.a)
  let (codes, scale, _) := q4xEncode (fieldOf f.b 0 2) xs
  vSlot s f [f.a] 3
    (BitVec.ofNat 1024 (codes * 2 ^ (128 * j)),
     q4xFlags codes scale (q4xScale (fieldOf f.b 0 2) xs).2 xs (fun k => mask.getLsbD (4 * j + k / 8))) mask
/-- VQUNPK: block j decoded with the scale in byte m of e[N]. -/
def execVqunpk (f : VSlot) (s : State) : Res :=
  let scale := fieldOf (s.me.readE (fieldOf f.b 0 4)) (8 * fieldOf f.b 4 5) 8
  let codes := elemOf 128 (lineValue s f.a) (fieldOf f.b 9 3)
  vSlot s f [f.a] 3 (mapElems 32 (vMask s f) (fun k => fp32.round 0 false (q4xElem codes scale k))) (vMask s f)

/-! ## Reductions (R131) -/

/-- A node of the tree: an absent child passes the other on. -/
def sumNode (rnd : Nat) (a b : Option F32) : Option F32 :=
  match a, b with
  | none, none => none
  | some x, none => some x
  | none, some y => some y
  | some x, some y => let z := add32 rnd x.1 y.1; some (z.1, x.2 ||| y.2 ||| z.2)
/-- One level of a pairwise tree. -/
def pairUp {α : Type} (op : α → α → α) : List α → List α
  | a :: b :: l => op a b :: pairUp op l
  | [a] => [a]
  | [] => []
/-- `n` levels of a pairwise tree. -/
def tree {α : Type} (op : α → α → α) : Nat → List α → List α
  | 0, l => l
  | n + 1, l => tree op n (pairUp op l)
/-- The lanes that take part. -/
def taking (mask : BitVec 32) (a : Line) : List Nat := ((upTo 32 0).filter (bitOf mask)).map (elemOf 32 a)
/-- VRSUM on f32. -/
def sumF32 (rnd : Nat) (mask : BitVec 32) (a : Line) : F32 :=
  let leaves := (upTo 32 0).map (fun i => if bitOf mask i then some ((elemOf 32 a i, 0) : F32) else none)
  let root := match tree (sumNode rnd) 5 leaves with
    | some x :: _ => x
    | none :: _ | [] => (0, 0)
  if (taking mask a).any (fun x => (num32 x).isNan) ∨ (num32 root.1).isNan then (fp32.nanBits, root.2) else root
/-- A reduction's result in every lane of d. -/
def reduced (f : VSlot) (s : State) (r : Nat × FlagBits) : Res :=
  vSlot s f [f.a] 5 (lineOf (fun _ => BitVec.ofNat 32 r.1), r.2) allLanes
def execVrsum (f : VSlot) (s : State) : Res :=
  let a := lineValue s f.a
  reduced f s (if f.fmt = 0 then sumF32 f.rnd.toNat (vMask s f) a
    else intResult 32 (decide (f.sat = 1)) (((taking (vMask s f) a).map (signedOf 32)).foldl (· + ·) 0))
def execVrmax (f : VSlot) (s : State) : Res :=
  reduced f s ((taking (vMask s f) (lineValue s f.a)).foldl (elemMax f.fmt.toNat)
    (if f.fmt = 0 then 0xFF800000 else 0x80000000), 0)
def execVrmin (f : VSlot) (s : State) : Res :=
  reduced f s ((taking (vMask s f) (lineValue s f.a)).foldl (elemMin f.fmt.toNat)
    (if f.fmt = 0 then 0x7F800000 else 0x7FFFFFFF), 0)

/-! ## Lane moves (R132) -/

def execVrot (f : VSlot) (s : State) : Res :=
  lanes (fun a i => laneOf a ((i + f.b.toNat) % 32)) (vMask s f) f s
def execVperm (f : VSlot) (s : State) : Res :=
  let a := lineValue s f.a
  let b := lineValue s f.b
  vSlot s f [f.a, f.b] 2 (lineOf (fun i => laneOf a (fieldOf (laneOf b i) 0 5)), 0) (vMask s f)
def execVbcast (f : VSlot) (s : State) : Res := lanes (fun a _ => laneOf a f.b.toNat) (vMask s f) f s
def execVins (f : VSlot) (s : State) : Res :=
  lanes (fun a _ => laneOf a 0) (laneRange f.b.toNat 1 &&& vMask s f) f s
def execVext (f : VSlot) (s : State) : Res :=
  lanes (fun a i => if i = 0 then laneOf a f.b.toNat else 0) (vMask s f) f s
def execVidx (f : VSlot) (s : State) : Res :=
  vSlot s f [] 2 (lineOf (fun i => BitVec.ofNat 32 (f.b.toNat + i)), 0) (vMask s f)

/-! ## Special functions (R133) -/

/-- A function on FP32; a BF16 element is widened exactly and the result rounded once.
Log entry 15 (DEDUCED). -/
def special (fn : Nat → F32) (f : VSlot) (s : State) : Res :=
  let w := fmtWidth f.fmt.toNat
  let a := lineValue s f.a
  let op (i : Nat) : Nat × FlagBits :=
    if f.fmt = 0 then fn (elemOf 32 a i)
    else
      let y := fn (elemOf 16 a i * 65536)
      let z := bf16.round 0 false (num32 y.1)
      (z.1, y.2 ||| z.2)
  vSlot s f [f.a] 8 (mapElems w (vMask s f) op) (vMask s f)
def execVexp2 (f : VSlot) (s : State) : Res := special vexp2 f s
def execVlog2 (f : VSlot) (s : State) : Res := special vlog2 f s
def execVrcp (f : VSlot) (s : State) : Res := special vrcp32 f s
def execVrsq (f : VSlot) (s : State) : Res := special vrsq32 f s

/-! ## VCHK (R134) -/

/-- The enabled lanes of two tile lines, bit by bit. -/
def execVchk (f : VSlot) (s : State) : Res :=
  let a := lineValue s f.a
  let b := lineValue s f.b
  slot s f.g (lineChecks s f.a ++ lineChecks s f.b ++
    (if mergeLanes (vMask s f) 0 a = mergeLanes (vMask s f) 0 b then [] else [.mismatch true]))

end Sys2Proof.Machine
end

