-- ==== Sys2Proof/Machine/Matrix.lean ====
section
/-!
DEFINITION. The matrix engine (chapter 8): the seven commands at issue (R151, R153, R162), the start of a command, the
stream reader, the steps of a run and the completion (R155 to R168), and the arithmetic of a step (R43 to R45).
-/
namespace Sys2Proof.Machine

/-! ## Shapes (Table 8.1) -/

def Shape.weightLines : Shape → Nat
  | .fp8 _ | .bf16 => 256
  | .fp32 => 64
  | .grouped => 0
def Shape.depth : Shape → Nat
  | .fp8 _ => 128
  | .bf16 => 64
  | .fp32 => 32
  | .grouped => 512
def Shape.columns : Shape → Nat
  | .fp32 => 64
  | .fp8 _ | .bf16 | .grouped => 256
def Shape.groupSize : Shape → Nat
  | .fp32 => 2
  | .fp8 _ | .bf16 | .grouped => 8
def Shape.linesPerStep : Shape → Nat
  | .grouped => 4
  | .fp8 _ | .bf16 | .fp32 => 1
def Shape.takesFormat (fmt : Nat) : Shape → Bool
  | .fp8 _ => decide (fmt = 2 ∨ fmt = 3)
  | .bf16 => decide (fmt = 1)
  | .fp32 => decide (fmt = 0)
  | .grouped => decide (fmt = 2)
/-- The format of the weights. -/
def Shape.weightFormat : Shape → Format
  | .fp8 e5 => if e5 then e5m2 else e4m3
  | .bf16 => Machine.bf16
  | .fp32 => Machine.fp32
  | .grouped => Machine.bf16
/-- The width in bits of a weight. -/
def Shape.weightWidth (sh : Shape) : Nat := sh.weightFormat.width
/-- Weights of one line, and lines of one K-row (R150). -/
def Shape.perLine (sh : Shape) : Nat := 1024 / sh.weightWidth
def Shape.perRow (sh : Shape) : Nat := sh.columns / sh.perLine

/-! ## Arithmetic of a step (R43 to R45) -/

def gatherFlags (l : List (Nat × FlagBits)) : FlagBits := l.foldl (fun f e => f ||| e.2) 0
/-- The exact sum of exact products with the special cases of R43. -/
def exactSum (ps : List (Num × FlagBits)) : Num × FlagBits :=
  let xs := ps.map (fun p => p.1)
  let flags := ps.foldl (fun f p => f ||| p.2) 0
  let pos := xs.any (fun x => decide (x = .inf false))
  let neg := xs.any (fun x => decide (x = .inf true))
  if pos && neg then (.nan, flags ||| invalidFlag)
  else if xs.any Num.isNan then (.nan, flags)
  else if pos then (.inf false, flags)
  else if neg then (.inf true, flags)
  else
    match xs with
    | [] => (Num.zero, flags)
    | x :: l => (l.foldl (fun a b => (a.add 0 b).1) x, flags)
/-- R43: an FP8 step on one accumulator. -/
def stepFp8 (xs ws : List Num) (acc : Nat) : F32 :=
  let (v, f) := exactSum (List.zipWith Num.mul xs ws)
  let (r, g) := (num32 acc).add 0 v
  to32 0 (r, f ||| g)
def addNode (a b : F32) : F32 :=
  let r := add32 0 a.1 b.1
  (r.1, a.2 ||| b.2 ||| r.2)
/-- R44: products rounded to FP32, summed by a pairwise tree of `levels` levels, and added to the accumulator. -/
def stepTree (levels : Nat) (xs ws : List Num) (acc : Nat) : F32 :=
  match tree addNode levels (List.zipWith (fun x w => to32 0 (x.mul w)) xs ws) with
  | root :: _ => addNode (acc, 0) root
  | [] => (acc, 0)
/-- R45: the sum of a bin. -/
def binSum (xs : List Int) (codes : List Nat) (g : Nat) : Int :=
  (List.zipWith (fun x c => if c = g then x else 0) xs codes).foldl (· + ·) 0
/-- The product of a bin: +0 for one that no position selects. -/
def binProduct (xs : List Int) (codes : List Nat) (v : Num) (g : Nat) : F32 :=
  if codes.contains g then to32 0 (((Num.ofInt (binSum xs codes g)).scale (-9)).mul v) else (0, 0)
/-- R45: a grouped step on one accumulator; `values` gives the table's entries. -/
def stepGrouped (acts : List Num) (codes : List Nat) (values : Nat → Num) (acc : Nat) : F32 :=
  if acts.any Num.isNan then (Machine.fp32.nanBits, invalidFlag)
  else
    let xs := acts.map (fun a => match a with | .fin n m e => onGrid (-9) n m e | .nan | .inf _ => 0)
    let ps := (upTo 16 0).map (fun g => binProduct xs codes (values g) g)
    match ps with
    | [] => (acc, 0)
    | p :: l => addNode (acc, 0) (l.foldl addNode p)
/-- Weight (k, n) of a dense buffer. -/
def Buffer.weight (b : Buffer) (k n : Nat) : Num :=
  let sh := b.goodShape
  sh.weightFormat.decode (elemOf sh.weightWidth (b.lines.get 0 (sh.perRow * k + n / sh.perLine)) (n % sh.perLine))
/-- Code (k, n) and value (g, n) of a grouped buffer (Table 8.7). -/
def Buffer.code (b : Buffer) (k n : Nat) : Nat := elemOf 4 (b.lines.get 0 k) n
def Buffer.value (b : Buffer) (n g : Nat) : Num :=
  if g < b.nval then bf16.decode (elemOf 16 (b.lines.get 0 (512 + 4 * g + n / 64)) (n % 64)) else Num.zero
/-- The activations of a step, in position order. -/
def activations (fmt : Nat) (x : List Line) : List Num :=
  let f := (floatFormat fmt).getD fp32
  x.flatMap (fun l => (upTo (1024 / f.width) 0).map (fun i => f.decode (elemOf f.width l i)))
/-- One step on column `n`. -/
def Buffer.step (b : Buffer) (xs : List Num) (n acc : Nat) : F32 :=
  match b.goodShape with
  | .fp8 _ => stepFp8 xs ((upTo 128 0).map (fun k => b.weight k n)) acc
  | .bf16 => stepTree 6 xs ((upTo 64 0).map (fun k => b.weight k n)) acc
  | .fp32 => stepTree 5 xs ((upTo 32 0).map (fun k => b.weight k n)) acc
  | .grouped => stepGrouped xs ((upTo 512 0).map (fun k => b.code k n)) (b.value n) acc
/-- A folded weight: the exact product rounded once to the weight format (R156). -/
def foldWeight (fmt : Format) (sat : Bool) (slope w : Nat) : Nat × FlagBits :=
  let (p, f) := (num32 slope).mul (fmt.decode w)
  let (r, g) := fmt.round 0 sat p
  (r, f ||| g)
/-- Slope k of a slope stream: packed, or the first word of a tangent record (R156). -/
def slopeAt (rec : Bool) (l : List Line) (k : Nat) : Nat :=
  if rec then elemOf 128 (nthD 0 l (k / 8)) (k % 8) % 2 ^ 32 else elemOf 32 (nthD 0 l (k / 32)) (k % 32)
/-- Line ℓ of a folded load. -/
def foldLine (sh : Shape) (sat rec : Bool) (slopes : List Line) (l : Nat) (v : Line) : Line × FlagBits :=
  let a := slopeAt rec slopes (l / sh.perRow)
  let rs := (upTo sh.perLine 0).map (fun i => foldWeight sh.weightFormat sat a (elemOf sh.weightWidth v i))
  (BitVec.ofNat 1024 (packList sh.weightWidth (rs.map (fun r => r.1))), gatherFlags rs)

/-! ## Issue (R151, R153, R162) -/

def eBuffer (f : ESlot) : Nat := fieldOf f.f 0 1
def eSrc (f : ESlot) : Nat := modeField f 5 2
def eRows (f : ESlot) : Nat := modeField f 0 5 + 1
/-- GLB or EXP set in a descriptor that the stream reader walks, or a COUNT product other than `n`. -/
def walkRefused (d : Descr) (no : Nat) (ok : Nat → Bool) : List Effect :=
  illWith (Descr.glb d || (Descr.exp d || !ok (Descr.product d))) no
/-- The buffer is held by another user context, or not reserved to the context's launch (R151). -/
def bufferHeld (s : State) (n : Nat) : List Effect :=
  let b := s.here.buffer n
  illWith ((s.user && (match b.holder with | none => false | some h => decide (h ≠ s.cur.ctx))) ||
    notReserved s b.reserved) n
def queueFull (q : List Cmd) (n : Nat) : Bool := decide (n ≤ q.length)
/-- A load command: its checks, and its entry into the load pipe. -/
def loadIssue (f : ESlot) (op : Nat) (checks : List Effect) (s : State) : Res :=
  slot s f.g (bufferHeld s (eBuffer f) ++ checks ++ commandWait s f (queueFull s.here.loadQ 4) ++
    [.command .load (newCommand s f op [] [])])
/-- The shape an MX.WLD or MX.WFOLD names. -/
def denseShape (f : ESlot) : Shape := loadShapeOf 0x01 f.mode
def execMxWld (f : ESlot) (s : State) : Res :=
  loadIssue f 0x01 (walkRefused (s.me.readD f.da.toNat) f.da.toNat (fun n => decide (n = (denseShape f).weightLines))) s
def execMxWldg (f : ESlot) (s : State) : Res :=
  loadIssue f 0x02 (walkRefused (s.me.readD f.da.toNat) f.da.toNat (fun _ => true)) s
/-- Lines of the slope stream (R156). -/
def slopeLines (sh : Shape) (rec : Bool) : Nat := if rec then sh.depth / 8 else sh.depth / 32
def execMxWfold (f : ESlot) (s : State) : Res :=
  loadIssue f 0x03
    (walkRefused (s.me.readD f.da.toNat) f.da.toNat (fun n => decide (n = (denseShape f).weightLines)) ++
     walkRefused (s.me.readD f.db.toNat) f.db.toNat
       (fun n => decide (n = slopeLines (denseShape f) (modeField f 4 1 = 1)))) s
/-- A run-pipe command on a group of `n` tiles. -/
def runIssue (f : ESlot) (op n : Nat) (ports : List Nat) (checks : List Effect) (s : State) : Res :=
  slot s f.g (groupChecks s false f.t.toNat n ++ checks ++ commandWait s f (queueFull s.here.runQ 8) ++
    [.command .run (newCommand s f op (groupOf s f.t.toNat n) ports)])
/-- Table 8.9's conditions on a run's buffer. -/
def runBuffer (s : State) (f : ESlot) (grouped : Bool) : List Effect :=
  let n := eBuffer f
  let b := s.here.buffer n
  bufferHeld s n ++ illWith (decide (b.holder ≠ some s.cur.ctx ∨ b.state = .empty) || decide (decide (b.shape = .grouped) ≠ grouped)) n
/-- Table 8.9's conditions on a run's stream. -/
def runStream (s : State) (f : ESlot) : List Effect :=
  let sh := (s.here.buffer (eBuffer f)).shape
  let d := s.me.readD f.da.toNat
  let n := Descr.product d
  let unit := fieldOf f.f 1 3
  illWith (decide (n = 0 ∨ n % sh.linesPerStep ≠ 0) || (!sh.takesFormat (Descr.fmt d) ||
    (decide (eSrc f = 0) && (Descr.glb d || Descr.exp d)))) f.da.toNat ++
  illWith (decide (eSrc f = 1) && portNotHeld s unit) unit ++
  illWith (decide (eSrc f = 2) && fifoRefused s unit false) unit
/-- The port of SRC 01. -/
def runPorts (f : ESlot) : List Nat := if eSrc f = 1 then [fieldOf f.f 1 3] else []
def execMxRun (f : ESlot) (s : State) : Res :=
  runIssue f 0x04 (s.here.buffer (eBuffer f)).shape.groupSize (runPorts f)
    (runBuffer s f false ++ runStream s f ++ lentWaits s (runPorts f)) s
def execMxRung (f : ESlot) (s : State) : Res :=
  runIssue f 0x05 8 (runPorts f) (runBuffer s f true ++ runStream s f ++ lentWaits s (runPorts f)) s
/-- Tiles of the group of MX.ACCZ and MX.ACCB. -/
def accTiles (f : ESlot) : Nat := if eSrc f = 1 then 2 else 8
def execMxAccz (f : ESlot) (s : State) : Res := runIssue f 0x06 (accTiles f) [] [] s
def execMxAccb (f : ESlot) (s : State) : Res :=
  runIssue f 0x07 (accTiles f) []
    (walkRefused (s.me.readD f.da.toNat) f.da.toNat (fun n => decide (n = accTiles f))) s

/-! ## Start (R163) -/

def Core.pipeQ (k : Core) : Pipe → List Cmd
  | .load => k.loadQ
  | .run => k.runQ
def Core.pipeNow (k : Core) : Pipe → Option Running
  | .load => k.loadNow
  | .run => k.runNow
def Core.setPipeNow (k : Core) (p : Pipe) (r : Option Running) : Core :=
  match p with
  | .load => { k with loadNow := r }
  | .run => { k with runNow := r }
def Core.popPipe (k : Core) : Pipe → Core
  | .load => { k with loadQ := k.loadQ.drop 1 }
  | .run => { k with runQ := k.runQ.drop 1 }
/-- A run waits for the loads of its buffer issued before it, a load for the last step of the runs issued before it. -/
def Core.ordered (k : Core) (p : Pipe) (c : Cmd) : Bool :=
  let sameBuffer (d : Cmd) : Bool := decide (bufferNo d = bufferNo c ∧ d.id < c.id)
  match p with
  | .run =>
    !isRun c || !(k.loadQ ++ (match k.loadNow with | none => [] | some r => [r.cmd])).any sameBuffer
  | .load =>
    !(k.runQ ++ (match k.runNow with | none => [] | some r => if r.ending then [] else [r.cmd])).any
      (fun d => isRun d && sameBuffer d)
def newRunning (c : Cmd) (cyc count : Nat) : Running :=
  { cmd := c, linesA := [], low := 0, linesB := [], token := none, stop := none, steps := 0, nextStep := cyc, flg := 0,
    residue := false, waitSince := count, ending := false }
def statusStop (status : BitVec 8) (addr : Nat) : Option Stop := some { pos := 0, status := status, addr := addr }
/-- The status with which a command ends as soon as it starts: that of a consumed token (R197), or STINV (R151). -/
def Core.startStop (k : Core) (c : Cmd) : Option Stop :=
  let (st, a) := inputStatus c.ins
  if st ≠ 0 then statusStop st a
  else if isRun c && !(k.buffer (bufferNo c)).good then statusStop stStinv 0
  else none
def execMatrixCommandStart (core : Nat) (pipe : Pipe) (s : State) : Res :=
  if Config.cores ≤ core then .fault .noSuchUnit
  else
    let k := s.core core
    match k.pipeNow pipe, k.pipeQ pipe with
    | none, c :: _ =>
      if s.halted core || !(inputsDone c.ins && k.ordered pipe c) then .next s
      else
        let r := newRunning c s.cyc (s.watchAt core s.cyc)
        let k1 := k.popPipe pipe
        match k.startStop c with
        | some st =>
          .next ((s.setCore core (k1.setPipeNow pipe (some { r with stop := some st, ending := true }))).schedule s.cyc
            (.matrixCommandComplete core pipe))
        | none =>
          let s1 := s.setCore core (k1.setPipeNow pipe (some { r with ending := decide (c.op = 0x06) }))
          if c.op = 0x06 then .next (s1.schedule (s.cyc + 2) (.matrixCommandComplete core pipe))
          else if isRun c ∧ eSrc c.f ≠ 0 then .next (s1.schedule s.cyc (.matrixRunStep core))
          else .next (s1.schedule s.cyc (.streamReaderLine core pipe))
    | some _, _ | none, [] => .next s

/-! ## The stream reader (R155, R156, R158, R160, R168) -/

/-- The next access of a command: a line of the slope stream, or one of several lines of its first stream; none when no
more are due. -/
inductive NextRead where
  | slope (i : Nat)
  | lines (is : List Nat)
  | after (cyc : Nat)
  | none
  deriving DecidableEq, Repr
def hasLine (l : List ReadLine) (i : Nat) : Bool := l.any (fun e => decide (e.pos = i))
def advanceLow (l : List ReadLine) : Nat → Nat → Nat
  | 0, i => i
  | n + 1, i => if hasLine l i then advanceLow l n (i + 1) else i
def lineAt (l : List ReadLine) (i : Nat) : Line :=
  match l.find? (fun e => decide (e.pos = i)) with
  | some e => e.val
  | none => 0
def lastDue (l : List ReadLine) : Nat := l.foldl (fun m e => Nat.max m e.due) 0
/-- The positions of the first stream that may be read next. A bank that is busy delays only its own lines (R48), so the
reader looks past them; a grouped stream is read in order, since no line after its token is read (R158).
Log entry 7 (DEDUCED). -/
def Running.open (r : Running) : List Nat :=
  let limit := match r.stop with
    | some st => st.pos
    | none => Descr.product r.cmd.da
  (upTo (if r.cmd.op = 0x02 then 1 else 64) r.low).filter (fun i => decide (i < limit) && !hasLine r.linesA i)
/-- A fault of the slope stream ends the load before any weight line is read (R156).
Log entry 7 (DEDUCED). -/
def Running.nextRead (r : Running) (cyc : Nat) : NextRead :=
  let c := r.cmd
  let slopes := decide (c.op = 0x03 ∧ r.linesB.length < Descr.product c.db)
  if r.token.isSome || r.ending || (isRun c && decide (eSrc c.f ≠ 0)) || (slopes && r.stop.isSome) then .none
  else if slopes then .slope r.linesB.length
  else if c.op = 0x03 ∧ cyc < lastArrival r.linesB then .after (lastArrival r.linesB)
  else if c.op = 0x02 ∧ r.stop.isSome then .none
  else
    match r.open with
    | [] => .none
    | is => .lines is
/-- What a line of a grouped stream says (R158): a token, a decode error, or another line. -/
def groupedLine (i : Nat) (v : Line) (marked : Bool) (lines : List ReadLine) : Option (Option Nat) :=
  if marked then
    let nval := fieldOf v 0 4 + 1
    let codes := lines.take 512
    if i < 512 ∨ i - 512 ≠ 4 * nval ∨ codes.any (fun l => (upTo 256 0).any (fun n => decide (nval ≤ elemOf 4 l.val n)))
    then some none else some (some nval)
  else if 576 ≤ i then some none
  else none
/-- One access of the stream reader at flat address `flat`; the line counts as position `i` of its stream. A fault of the
slope stream leaves no line of the weight stream to be read (R156). -/
def State.readerAccess (s : State) (c : Nat) (pipe : Pipe) (r : Running) (slope : Bool) (i : Nat) (flat : Int) : State :=
  let put (s : State) (r : Running) : State := s.modCore c (fun k => k.setPipeNow pipe (some r))
  let k := s.core c
  let st := k.accessStatus 4 (s.actsFor c r.cmd.ctx) flat
  let i := if slope then 0 else i
  if st ≠ 0 then put s { r with stop := some { pos := i, status := st, addr := flatAddr flat } }
  else
    let (v, m, s1) := s.engineRead c flat.toNat
    let at_ := s.cyc + loadLatency flat.toNat
    let la := r.linesA ++ [{ pos := i, due := at_, val := v }]
    let r1 := if slope then { r with linesB := r.linesB ++ [(at_, v)] }
              else { r with linesA := la, low := advanceLow la la.length r.low }
    if markStatus m ≠ 0 then put s1 { r1 with stop := some { pos := i, status := markStatus m, addr := flatAddr flat } }
    else if r.cmd.op = 0x02 then
      match groupedLine i v (decide (m = .group)) r.linesA with
      | some none => put s1 { r1 with stop := some { pos := i, status := stDecode, addr := flatAddr flat } }
      | some (some n) => put s1 { r1 with token := some n }
      | none =>
        if r1.linesA.length = Descr.product r.cmd.da then
          put s1 { r1 with stop := some { pos := i, status := stDecode, addr := flatAddr flat } }
        else put s1 r1
    else put s1 r1
/-- Accesses left to the stream reader in this cycle. -/
def Core.readerRoom (k : Core) (cyc : Nat) : Nat := if k.readerUse.1 = cyc then 4 - k.readerUse.2 else 4
def Core.useReader (k : Core) (cyc : Nat) : Core :=
  { k with readerUse := (cyc, (if k.readerUse.1 = cyc then k.readerUse.2 else 0) + 1) }
/-- A grouped nest that ends before a token, one without any line too, ends its load with DECODE (R158). -/
def Running.ended (r : Running) : Running :=
  if r.cmd.op = 0x02 ∧ r.token = none ∧ r.stop = none then { r with stop := statusStop stDecode 0 } else r
/-- What follows when a command has no further line to read: the completion of a load or a bias, a step of a run. -/
def State.readerDone (s : State) (c : Nat) (pipe : Pipe) (r0 : Running) : State :=
  let r := r0.ended
  if isRun r.cmd then s.schedule (Nat.max s.cyc (lastDue r.linesA)) (.matrixRunStep c)
  else if r.ending then s
  else
    (s.modCore c (fun k => k.setPipeNow pipe (some { r with ending := true }))).schedule
      (Nat.max s.cyc (Nat.max (lastDue r.linesA) (lastArrival r.linesB)) + 2) (.matrixCommandComplete c pipe)
/-- The bank of a line of a nest can be accessed now, or the access faults. -/
def Core.readerFree (k : Core) (actor : Option Nat) (d : Descr) (cyc i : Nat) : Bool :=
  let flat := Descr.flatAt d i
  decide (k.accessStatus 4 actor flat ≠ 0) || k.lineFree flat.toNat cyc
/-- The first cycle in which one of the lines can be accessed. -/
def Core.readerTime (k : Core) (d : Descr) (cyc : Nat) : List Nat → Nat
  | [] => cyc + 1
  | i :: is =>
    let flat := (Descr.flatAt d i).toNat
    let t := k.streamTime (bankOf flat) (busyTime flat) cyc
    match is with
    | [] => t
    | j :: js => Nat.min t (k.readerTime d cyc (j :: js))
/-- The accesses of one cycle, `n` at most, the lowest position first. -/
def State.readerRun (c : Nat) (pipe : Pipe) : Nat → State → State
  | 0, s => s.schedule (s.cyc + 1) (.streamReaderLine c pipe)
  | n + 1, s =>
    let k := s.core c
    match k.pipeNow pipe with
    | none => s
    | some r =>
      let go (slope : Bool) (is : List Nat) (d : Descr) : State :=
        match is.find? (k.readerFree (s.actsFor c r.cmd.ctx) d s.cyc) with
        | none => s.schedule (k.readerTime d s.cyc is) (.streamReaderLine c pipe)
        | some i =>
          let flat := Descr.flatAt d i
          let s1 := (s.readerAccess c pipe r slope i flat).modCore c (fun k => k.useReader s.cyc)
          let s2 := if isRun r.cmd then s1.schedule (s.cyc + loadLatency flat.toNat) (.matrixRunStep c) else s1
          State.readerRun c pipe n s2
      match r.nextRead s.cyc with
      | .slope i => go true [i] r.cmd.db
      | .lines is => go false is r.cmd.da
      | .after t => s.schedule t (.streamReaderLine c pipe)
      | .none => s.readerDone c pipe r
/-- The stream reader's accesses for a pipe in this cycle.
Log entry 7 (DEDUCED). -/
def execStreamReaderLine (core : Nat) (pipe : Pipe) (s : State) : Res :=
  if Config.cores ≤ core then .fault .noSuchUnit
  else .next (State.readerRun core pipe ((s.core core).readerRoom s.cyc) s)

/-! ## Steps (R159, R160) -/

/-- A row written whole: the mark of global data that nothing has read there ends (R140). -/
def Core.cleanRow (t m : Nat) (k : Core) : Core :=
  { k with ctxs := k.ctxs.map (fun e => (e.1, { e.2 with
      dirtyLines := e.2.dirtyLines.filter (fun d => !decide (e.2.tileBase ≤ t ∧ operandOf d.1 = .row (t - e.2.tileBase) m)) })) }
/-- Rows written in the tiles of a command: the physical tile and its new row. Their parity is good (Table 16.1). -/
def Core.putRows (m : Nat) : List (Nat × Line) → Core → Core
  | [], k => k
  | (t, v) :: l, k => Core.putRows m l (((k.setTileRow t m v).mend (upTo 32 (locLane t m 0))).cleanRow t m)
/-- A row of a group with bad parity (Table 16.1).
Log entry 46 (DEDUCED). -/
def Core.rowBad (k : Core) (tiles : List Nat) (m : Nat) : Bool := tiles.any (fun t => k.rowHurt t m)
/-- The rows of a step: for every tile of the group, its new row and the flags of its lanes. -/
def stepRows (b : Buffer) (xs : List Num) (k : Core) (m : Nat) : List Nat → Nat → List ((Nat × Line) × FlagBits)
  | [], _ => []
  | t :: ts, j =>
    let rs := (upTo 32 0).map (fun i => b.step xs (32 * j + i) (elemOf 32 (k.tileRow t m) i))
    ((t, BitVec.ofNat 1024 (packList 32 (rs.map (fun r => r.1)))), gatherFlags rs) :: stepRows b xs k m ts (j + 1)
/-- The step's lines taken from a port or FIFO, one popped for each that is missing. -/
inductive Supply where
  | line (v : Line) (s : State)
  | fault (st : BitVec 8) (addr : Nat)
  | empty
/-- A line of a FIFO with bad parity leaves it: a transient of the command's context (Table 16.1). -/
def State.consumeLine (s : State) (c : Nat) (j : Cmd) (loc : Nat) : State :=
  if (s.core c).bad loc then (s.modCore c (fun k => k.mend [loc])).modCtx c j.ctx (Ctx.consumed j [loc]) else s
/-- Pop one line of a run's port (R160) or FIFO; a port's fault is met once every line before it has been taken (R66). -/
def State.popSource (s : State) (c : Nat) (cmd : Cmd) : Supply :=
  let n := fieldOf cmd.f.f 1 3
  if eSrc cmd.f = 1 then
    let p := (s.core c).port n
    match p.fifo with
    | l :: _ =>
      .line l.val ((s.popPort c n).consumeLine c cmd (locPort n))
    | [] => (match p.stopped with
      | some (cause, a) => .fault cause.code a
      | none => .empty)
  else
    match (s.fifo (clusterOf c) n).lines with
    | v :: vs => .line v ((s.popFifo (clusterOf c) n vs).consumeLine c cmd (locFifo n))
    | [] => .empty
/-- A run that has taken its last step, or met its fault: it completes 8 cycles later (Table 8.12). -/
def State.endRun (s : State) (c : Nat) (r : Running) : State :=
  ((s.modCore c (fun k => k.setPipeNow .run (some { r with ending := true }))).schedule s.cyc
    (.matrixCommandStart c .load)).schedule (s.cyc + 8) (.matrixCommandComplete c .run)
/-- The steps a run takes: all, or those before the one that holds the fault. -/
def Running.stepLimit (r : Running) (p : Nat) : Nat :=
  match r.stop with
  | none => Descr.product r.cmd.da / p
  | some st => st.pos / p
/-- One step with its lines.
Log entry 46 (DEDUCED). -/
def State.takeStep (s : State) (c : Nat) (r : Running) (x : List Line) : State :=
  let k := s.core c
  let b := k.buffer (bufferNo r.cmd)
  let m := r.steps % eRows r.cmd.f
  if k.rowBad r.cmd.tiles m then
    s.endRun c { r with stop := some { pos := r.steps * b.goodShape.linesPerStep, status := stUncr, addr := 0 } }
  else
    let rows := stepRows b (activations (Descr.fmt r.cmd.da) x) k m r.cmd.tiles 0
    let r1 := { r with steps := r.steps + 1, nextStep := s.cyc + 1, waitSince := s.watchAt c (s.cyc + 1),
                       flg := r.flg ||| rows.foldl (fun f e => f ||| e.2) 0,
                       residue := r.residue || k.bad (locBuffer (bufferNo r.cmd)),
                       linesA := if eSrc r.cmd.f = 0 then r.linesA.filter (fun e => decide (b.goodShape.linesPerStep * (r.steps + 1) ≤ e.pos)) else [] }
    let s1 := s.setCore c ((Core.putRows m (rows.map (fun e => e.1)) k).setPipeNow .run (some r1))
    if r1.steps = r1.stepLimit b.goodShape.linesPerStep then s1.endRun c r1
    else s1.schedule (s.cyc + 1) (.matrixRunStep c)
/-- A run fed by a port or FIFO takes lines until it has those of its step; a run that finds none waits, under the
watchdog of R160. -/
def State.supply (c : Nat) (p : Nat) : Nat → State → Running → State
  | 0, s, _ => s
  | n + 1, s, r =>
    if r.linesA.length = p then s.takeStep c r (r.linesA.map (fun e => e.val))
    else
      match s.popSource c r.cmd with
      | .line v s1 =>
        let r1 := { r with linesA := r.linesA ++ [{ pos := 0, due := s.cyc, val := v }], waitSince := s.watchAt c s.cyc }
        State.supply c p n (s1.modCore c (fun k => k.setPipeNow .run (some r1))) r1
      | .fault st a => s.endRun c { r with stop := some { pos := r.steps * p, status := st, addr := a } }
      | .empty => s.watch c r.waitSince (.engineWatchdogExpiry c .matrixRun)
def execMatrixRunStep (core : Nat) (s : State) : Res :=
  if Config.cores ≤ core then .fault .noSuchUnit
  else
    match (s.core core).runNow with
    | none => .next s
    | some r =>
      let p := ((s.core core).buffer (bufferNo r.cmd)).goodShape.linesPerStep
      if !isRun r.cmd || r.ending || decide (s.cyc < r.nextStep) then .next s
      else if r.steps = r.stepLimit p then .next (s.endRun core r)
      else if eSrc r.cmd.f ≠ 0 then .next (State.supply core p 5 s r)
      else
        let x := (upTo p (p * r.steps)).filterMap (fun i => r.linesA.find? (fun e => decide (e.pos = i)))
        if x.length = p ∧ lastDue x ≤ s.cyc then .next (s.takeStep core r (x.map (fun e => e.val))) else .next s

/-! ## Completion (R155 to R158, R161, R166, R167) -/

/-- The buffer as a completed load leaves it, with the flags of a fold. -/
def Running.loaded (r : Running) (b : Buffer) : Buffer × FlagBits :=
  let sh := loadShape r.cmd
  let rows := (upTo r.linesA.length 0).map (fun i =>
    let v := lineAt r.linesA i
    if r.cmd.op = 0x03 then
      foldLine sh (modeField r.cmd.f 3 1 = 1) (modeField r.cmd.f 4 1 = 1) (r.linesB.map (fun e => e.2)) i v
    else (v, 0))
  ({ b with good := true, goodShape := sh, lines := rows.zipIdx.map (fun e => (e.2, e.1.1)), nval := r.token.getD 0 },
   rows.foldl (fun f e => f ||| e.2) 0)
/-- A load ends: the buffer becomes VALID or INVALID unless a later load of it is queued, which keeps it LOADING. A load
that ends at a fault reports no flags of the weights it had folded (log entry 65).
Log entry 37 (DEDUCED). -/
def Core.endLoad (k : Core) (r : Running) : Core × FlagBits :=
  let n := bufferNo r.cmd
  let b := k.buffer n
  let more := k.loadQ.any (fun c => decide (bufferNo c = n))
  match r.stop with
  | some _ => (k.setBuffer n { b with good := false, state := if more then .loading else .invalid }, 0)
  | none =>
    let (b1, f) := r.loaded b
    ({ k.setBuffer n { b1 with state := if more then .loading else .valid } with
       parity := k.parity.filter (fun p => decide (p ≠ locBuffer n)) }, f)
/-- MX.ACCZ and MX.ACCB write their rows.
Log entry 46 (DEDUCED). -/
def Core.endAcc (k : Core) (r : Running) : Core :=
  let row (j : Nat) : Line := if r.cmd.op = 0x06 then 0 else lineAt r.linesA j
  let rows := r.cmd.tiles.zipIdx.map (fun e => (e.1, row e.2))
  (upTo (eRows r.cmd.f) 0).foldl (fun k m => Core.putRows m rows k) k
/-- The end of a command before its token: what it writes, and its flags. -/
def Core.endCommand (k : Core) (pipe : Pipe) (r : Running) : Core × FlagBits :=
  match pipe with
  | .load => k.endLoad r
  | .run => if isRun r.cmd || r.stop.isSome then (k, r.flg) else (k.endAcc r, 0)
/-- A residue mismatch is found at the issuing context's next boundary (R167); one of a command of a run that is being
discarded is discarded with it (R22). -/
def residueEvent (r : Running) (v : Ctx) : Ctx :=
  if r.residue && !(v.rewind.isSome && r.cmd.inSeg) then
    { v with events := { v.events with residue := true, buffer := some (locBuffer (bufferNo r.cmd)) } }
  else v
def execMatrixCommandComplete (core : Nat) (pipe : Pipe) (s : State) : Res :=
  if Config.cores ≤ core then .fault .noSuchUnit
  else
    let k := s.core core
    match k.pipeNow pipe with
    | none => .next s
    | some r =>
      if !r.ending then .next s
      else
        let (k1, f) := k.endCommand pipe r
        let (st, a) := match r.stop with
          | none => ((0 : BitVec 8), 0)
          | some q => (q.status, q.addr)
        let x := r.cmd.ctx
        let s1 := (s.setCore core (k1.setPipeNow pipe none)).modCtx core x (residueEvent r)
        .next ((s1.engineDone core x f 0 r.cmd.inSeg).complete core r.cmd st a)

end Sys2Proof.Machine
end

