-- ==== Sys2Proof/Machine/Ppe.lean ====
section
/-!
DEFINITION. The post-processing engine (R181 to R193): its five commands at issue, the start of a command, a drain's
arithmetic and lines, and the completion.
-/
namespace Sys2Proof.Machine

/-! ## Issue (R183, R190, R191) -/

def ppeSet (f : ESlot) : Nat := fieldOf f.f 0 1
/-- The configuration a PPE.CFG makes (R184, Table 9.11). -/
def configOf (c : Cmd) : PpeState :=
  let m := c.f.mode
  { tmode := fieldOf m 0 2, ofmt := fieldOf m 2 2, e := fieldOf m 4 2, sat := bitOf m 6, ts := ppeSet c.f,
    bias := if bitOf c.f.f 1 then some c.lines else none, scale := if bitOf c.f.f 2 then some c.scales else none,
    esc := c.db, ep := 0, lost := 0, rc := 0, tail := [] }
/-- The configuration that governs a drain issued now: the latest CFG of the context still in the queue, else its
state (R191).
Log entry 36 (DEDUCED). -/
def governing (s : State) : PpeState :=
  match s.here.ppeQ.reverse.find? (fun c => decide (c.op = 0x10 ∧ c.ctx = s.cur.ctx)) with
  | some c => configOf c
  | none => s.me.ppe
/-- A set that is not reserved to the issuing context's launch (R181). -/
def setReserved (s : State) (n : Nat) : List Effect := illWith (notReserved s (s.here.tanSet n).reserved) n
/-- A set that another context holds (Table 9.13). -/
def setHeldElsewhere (s : State) (n : Nat) : List Effect :=
  illWith (match (s.here.tanSet n).holder with | none => false | some h => decide (h ≠ s.cur.ctx)) n
def setNotHeld (s : State) (n : Nat) : List Effect :=
  illWith (decide ((s.here.tanSet n).holder ≠ some s.cur.ctx)) n
/-- A PPE command: its checks, and its entry into the queue. -/
def ppeIssue (f : ESlot) (checks : List Effect) (c : Cmd) (s : State) : Res :=
  slot s f.g (checks ++ commandWait s f (queueFull s.here.ppeQ 8) ++ [.command .ppe c])
/-- CFG copies rows 0 to 7 of the bias tile, the scale register and the escape descriptor (R184). -/
def execPpeCfg (f : ESlot) (s : State) : Res :=
  let t := f.t.toNat
  let bias := bitOf f.f 1
  let c := newCommand s f 0x10 [] []
  ppeIssue f
    (setReserved s (ppeSet f) ++ (if bias then groupChecks s true t 1 else []) ++
      (if modeField f 0 2 = 0 then [] else illWith (Descr.glb c.db || decide (Descr.product c.db = 0)) f.db.toNat))
    { c with
      ins := c.ins ++ (if bias then rowsRead s t (upTo 8 0) else []),
      lines := if bias then (upTo 8 0).map (fun r => s.here.tileRow (s.me.tileBase + t) r) else [],
      scales := s.me.readE f.da.toNat, db := if modeField f 0 2 = 0 then 0 else c.db } s
def drainKind (f : ESlot) : Nat := fieldOf f.f 2 2
/-- Tiles of a drain's group and columns of its rows. -/
def drainTiles (f : ESlot) : Nat := if modeField f 5 2 = 0 then 8 else if modeField f 5 2 = 1 then 2 else 1
/-- Output lines per row (Table 9.12). -/
def linesPerRow (ofmt tiles : Nat) : Nat :=
  if ofmt = 3 then 1 else Nat.max 1 (if ofmt = 0 then tiles else if ofmt = 1 then tiles / 2 else tiles / 4)
def drainLines (f : ESlot) (ofmt : Nat) : Nat := eRows f * linesPerRow ofmt (drainTiles f)
/-- The tile base of DKIND 11 and the tiles its lines need (R187). -/
def tileDest (d : Descr) : Nat := fieldOf d 0 7
def tileDestSize (lines : Nat) : Nat := (lines + 31) / 32
def execPpeDrain (f : ESlot) (s : State) : Res :=
  let p := governing s
  let t := f.t.toNat
  let n := drainTiles f
  let d := s.me.readD f.da.toNat
  let k := drainKind f
  let lines := drainLines f p.ofmt
  let unit := f.da.toNat
  let m := tileDestSize lines
  let checks :=
    groupChecks s true t n ++
    (if p.tmode = 0 then [] else setNotHeld s p.ts) ++
    illWith (decide (p.ofmt = 3 ∧ (n ≠ 8 ∨ k ≠ 0))) t ++
    (if k = 0 then illWith (Descr.glb d || decide (Descr.product d ≠ lines)) unit
     else if k = 1 then illWith (portNotHeld s (6 + unit)) unit ++ lentWaits s [6 + unit]
     else if k = 2 then illWith (fifoRefused s unit true) unit
     else illWith (decide (tileDest d < t + n ∧ t < tileDest d + m)) (tileDest d) ++ groupChecks s true (tileDest d) m)
  ppeIssue f checks
    (newCommand s f 0x11 (groupOf s t n ++ (if k = 3 then groupOf s (tileDest d) m else []))
      (if k = 1 then [6 + unit] else [])) s
/-- TLD, TST and ECNT: one set and one tile. -/
def setIssue (f : ESlot) (op : Nat) (checks : List Effect) (s : State) : Res :=
  ppeIssue f (groupChecks s true f.t.toNat 1 ++ setReserved s (ppeSet f) ++ checks)
    (newCommand s f op (groupOf s f.t.toNat 1) []) s
def execPpeTld (f : ESlot) (s : State) : Res := setIssue f 0x12 (setHeldElsewhere s (ppeSet f)) s
def execPpeTst (f : ESlot) (s : State) : Res := setIssue f 0x13 (setHeldElsewhere s (ppeSet f)) s
def execPpeEcnt (f : ESlot) (s : State) : Res := setIssue f 0x14 (setNotHeld s (ppeSet f)) s

/-! ## A drain's arithmetic (R185, R186, R188) -/

def recordField (r : BitVec 128) (i : Nat) : Nat := fieldOf r (32 * i) 32
/-- What a drain makes of one element: its output value, its flags, and h when it escapes. -/
structure Drained where
  out : Nat
  flg : FlagBits
  escape : Option Nat
/-- h of R185 before the tangent check. -/
def drainH (p : PpeState) (n v : Nat) : F32 :=
  let scale := match p.scale with
    | none => Num.one
    | some e => scaleNum (elemOf 8 (e.zeroExtend 1024) (n % 32))
  let bias := match p.bias with
    | none => Num.fin true 0 0
    | some l => num32 (elemOf 32 (nthD 0 l (n / 32)) (n % 32))
  to32 0 (Num.fma 0 (num32 v) scale bias)
/-- LO ≤ h ≤ HI; false for a NaN, and −0 equals +0. -/
def inInterval (r : BitVec 128) (h : Nat) : Bool :=
  (num32 (recordField r 2)).le (num32 h) && (num32 h).le (num32 (recordField r 3))
/-- One element up to the output conversion. -/
def drainElement (p : PpeState) (r : BitVec 128) (n v : Nat) : Drained :=
  let h := drainH p n v
  if p.tmode = 0 then { out := h.1, flg := h.2, escape := none }
  else if !inInterval r h.1 then { out := h.1, flg := h.2, escape := some h.1 }
  else if p.tmode = 2 then
    let y := fma32 (recordField r 0) h.1 (recordField r 1)
    { out := y.1, flg := h.2 ||| y.2, escape := none }
  else { out := h.1, flg := h.2, escape := none }
/-- The output format of an OFMT below 3. -/
def outFormat (ofmt : Nat) : Format := if ofmt = 0 then fp32 else if ofmt = 1 then bf16 else e4m3
/-- A row's output lines, its scale bytes and the flags of the conversion. -/
def rowLines (p : PpeState) (tiles : Nat) (hs : List Nat) : List Line × Nat × FlagBits :=
  if p.ofmt = 3 then
    let blocks := (upTo 8 0).map (fun j => q4xEncode p.e (((hs.drop (32 * j)).take 32).map num32))
    ([BitVec.ofNat 1024 (packList 128 (blocks.map (fun b => b.1)))], packList 8 (blocks.map (fun b => b.2.1)),
      blocks.foldl (fun f b => f ||| b.2.2) 0)
  else
    let fmt := outFormat p.ofmt
    let rs := hs.map (fun h => fmt.round 0 p.sat (num32 h))
    let per := 1024 / fmt.width
    ((upTo (linesPerRow p.ofmt tiles) 0).map (fun j =>
        BitVec.ofNat 1024 (packList fmt.width (((rs.drop (per * j)).take per).map (fun r => r.1)))),
      0, gatherFlags rs)
/-- An escape record (R188). -/
def escapeRecord (h n row : Nat) : Word := BitVec.ofNat 64 (h + n % 256 * 2 ^ 32 + row % 2 ^ 24 * 2 ^ 40)
/-- The lines of a drain as they are gathered, row by row. -/
structure Gather where
  todo : List DrainLine
  ep : Nat
  tail : List Word
  /-- Columns of the records in `tail` that this drain made. -/
  cols : List Nat
  scaleBytes : List Nat
  out : Nat
/-- Slots of the escape stream (R188). -/
def escapeSlots (p : PpeState) : Nat := 16 * Descr.product p.esc
/-- An escape line with its records; unused slots are all ones. -/
def escapeLine (records : List Word) : Line :=
  BitVec.ofNat 1024 (packList 64 ((records ++ repeatN (BitVec.allOnes 64) (16 - records.length)).map BitVec.toNat))
/-- The escape line that holds slot `e`. -/
def escapeTo (p : PpeState) (e : Nat) : DrainTo := .scratch (Descr.flatAt p.esc (e / 16))
/-- One escape joins the stream: a full line is written, and a full stream loses it.
Log entry 38 (DEDUCED). -/
def Gather.escape (p : PpeState) (h n row : Nat) (g : Gather) : Gather × List Nat :=
  if escapeSlots p ≤ g.ep then (g, [n])
  else
    let tail := g.tail ++ [escapeRecord h n row]
    let cols := g.cols ++ [n]
    if tail.length = 16 then
      ({ g with ep := g.ep + 1, tail := [], cols := [],
                todo := g.todo ++ [{ dest := escapeTo p g.ep, val := escapeLine tail, stream := 1, records := cols, lost := [],
                                     tail := [], flg := 0 }] }, [])
    else ({ g with ep := g.ep + 1, tail := tail, cols := cols }, [])
def Gather.escapes (p : PpeState) (row : Nat) : List (Nat × Nat) → Gather → Gather × List Nat
  | [], g => (g, [])
  | (n, h) :: l, g =>
    let (g1, lost) := g.escape p h n row
    let (g2, more) := Gather.escapes p row l g1
    (g2, lost ++ more)
/-- Where output line `i` of a drain goes (R187). -/
def outputTo (c : Cmd) (base i : Nat) : DrainTo :=
  let k := drainKind c.f
  if k = 0 then .scratch (Descr.flatAt c.da i)
  else if k = 1 then .port (6 + c.f.da.toNat)
  else if k = 2 then .fifo c.f.da.toNat
  else .tileRow (base + tileDest c.da + i / 32) (i % 32)
/-- The scale line of rows 16q to 16q + 15.
Log entry 40 (DEDUCED). -/
def scaleLine (c : Cmd) (q : Nat) (bytes : List Nat) : DrainLine :=
  { dest := .scratch ((natField (Descr.aux c.da) 0 22 + q : Nat) : Int), val := BitVec.ofNat 1024 (packList 64 bytes), stream := 2,
    records := [], lost := [], tail := [], flg := 0 }
/-- The last of a row's output lines carries the row's flags and the escapes that are lost with the row (log entry 65). -/
def withLost (lost : List Nat) (f : FlagBits) : List DrainLine → List DrainLine
  | [] => []
  | [l] => [{ l with lost := lost, flg := f }]
  | l :: ls => l :: withLost lost f ls
/-- Row `m` of a drain (R185, R186, R188). -/
def Gather.row (p : PpeState) (c : Cmd) (base m : Nat) (elems : List Drained) (g : Gather) : Gather :=
  let (lines, scales, f) := rowLines p (drainTiles c.f) (elems.map (fun e => e.out))
  let out := lines.zipIdx.map (fun e =>
    { dest := outputTo c base (g.out + e.2), val := e.1, stream := 0, records := [], lost := [], tail := [], flg := 0 : DrainLine })
  let esc := elems.zipIdx.filterMap (fun e => e.1.escape.map (fun h => (e.2, h)))
  let (g1, lost) := Gather.escapes p ((p.rc + m) % 2 ^ 24) esc { g with todo := [] }
  let bytes := g.scaleBytes ++ (if p.ofmt = 3 then [scales] else [])
  let full := decide (bytes.length = 16)
  { g1 with
    todo := g.todo ++ withLost lost (f ||| elems.foldl (fun a e => a ||| e.flg) 0) out ++ g1.todo ++ (if full then [scaleLine c (m / 16) bytes] else []),
    scaleBytes := if full then [] else bytes, out := g.out + out.length }
/-- The end of a drain: the partial escape line and the partial scale line.
Log entry 38 (DEDUCED). -/
def Gather.finish (p : PpeState) (c : Cmd) (g : Gather) : List DrainLine :=
  g.todo ++
    (if g.cols.isEmpty then [] else
      [{ dest := escapeTo p (g.ep - 1), val := escapeLine g.tail, stream := 1, records := g.cols, lost := [], tail := g.tail, flg := 0 }]) ++
    (if g.scaleBytes.isEmpty then [] else [scaleLine c ((eRows c.f - 1) / 16) g.scaleBytes])
/-- Row `m`'s elements, with the records of its columns. -/
def rowElements (p : PpeState) (k : Core) (tiles : List Nat) (m : Nat) : List Drained :=
  (upTo (32 * tiles.length) 0).map (fun n =>
    drainElement p ((k.tanSet p.ts).recs.get 0 n) n (elemOf 32 (k.tileRow (nthD 0 tiles (n / 32)) m) (n % 32)))
/-- Rows `m` and later, `n` of them; a row with bad parity ends the drain (Table 16.1).
Log entry 36 (DEDUCED). -/
def drainRows (p : PpeState) (c : Cmd) (base : Nat) (k : Core) (tiles : List Nat) : Nat → Nat → Gather → List DrainLine
  | 0, _, g => g.finish p c
  | n + 1, m, g =>
    if k.rowBad tiles m then
      g.todo ++ [{ dest := .fail stUncr 0, val := 0, stream := 0, records := [], lost := [], tail := [], flg := 0 }]
    else drainRows p c base k tiles n (m + 1) (g.row p c base m (rowElements p k tiles m))
/-- The running command of a drain that starts.
Log entry 36 (DEDUCED). -/
def startDrain (k : Core) (c : Cmd) (cyc count : Nat) : Draining :=
  let v := k.ctx c.ctx
  let p := v.ppe
  let tiles := c.tiles.take (drainTiles c.f)
  let todo := drainRows p c v.tileBase k tiles (eRows c.f) 0
    { todo := [], ep := p.ep, tail := p.tail, cols := [], scaleBytes := [], out := 0 }
  let bad := if p.tmode = 0 then [] else
    ((upTo (32 * tiles.length) 0).filter (fun n => k.bad (locRecord p.ts n))).map (locRecord p.ts)
  { cmd := c, todo := todo, stop := none, flg := 0, escapes := 0, damaged := bad, nextLine := cyc, waitSince := count, ending := false }

/-! ## Start (R191, R193) -/

/-- TLD, TST, ECNT and CFG make their whole effect when they start. -/
def Core.ppeEffect (k : Core) (c : Cmd) : Core :=
  let t := nthD 0 c.tiles 0
  let n := ppeSet c.f
  let z := k.tanSet n
  let v := k.ctx c.ctx
  if c.op = 0x10 then k.setCtx c.ctx { v with ppe := configOf c }
  else if c.op = 0x12 then
    { k.setTanSet n { z with recs := (upTo 256 0).map (fun i => (i, (k.tileRow t (i / 8)).extractLsb' (128 * (i % 8)) 128)) } with
      parity := k.parity.filter (fun p => !decide (locRecord n 0 ≤ p ∧ p < locRecord n 256)) }
  else if c.op = 0x13 then
    (upTo 32 0).foldl (fun k r => Core.putRows r [(t, packLine 128 8 (fun i => (z.recs.get 0 (8 * r + i)).toNat))] k) k
  else
    let k1 := (upTo 8 0).foldl (fun k r => Core.putRows r [(t, lineOf (fun i => (z.counts.get 0 (32 * r + i)).zeroExtend 32))] k) k
    let k2 := Core.putRows 8 [(t, BitVec.ofNat 1024 (v.ppe.ep % 2 ^ 32 + v.ppe.lost % 2 ^ 32 * 2 ^ 32))] k1
    if modeField c.f 0 1 = 1 then k2.setTanSet n { z with counts := [] } else k2
/-- An engine that reads a tile row with bad parity ends with UNCR (Table 16.1): a TLD then changes nothing.
Log entry 46 (DEDUCED). -/
def Core.tldStop (k : Core) (c : Cmd) : Option Stop :=
  if c.op = 0x12 ∧ (upTo 32 0).any (k.rowBad c.tiles) then statusStop stUncr 0 else none
/-- Records with bad parity that a PPE.TST reads (R263). -/
def Core.ppeDamage (k : Core) (c : Cmd) : List Nat :=
  let n := ppeSet c.f
  if c.op = 0x13 then ((upTo 256 0).filter (fun i => k.bad (locRecord n i))).map (locRecord n) else []
def execPpeCommandStart (core : Nat) (s : State) : Res :=
  if Config.cores ≤ core then .fault .noSuchUnit
  else
    let k := s.core core
    match k.drainNow, k.ppeQ with
    | none, c :: q =>
      if s.halted core || !inputsDone c.ins then .next s
      else
        let k1 := { k with ppeQ := q }
        let blank : Draining :=
          { cmd := c, todo := [], stop := none, flg := 0, escapes := 0, damaged := [], nextLine := s.cyc, waitSince := 0, ending := true }
        let (st, a) := inputStatus c.ins
        if st ≠ 0 then
          .next ((s.setCore core { k1 with drainNow := some { blank with stop := statusStop st a } }).schedule s.cyc
            (.ppeCommandComplete core))
        else if c.op = 0x11 then
          .next ((s.setCore core { k1 with drainNow := some (startDrain k1 c (s.cyc + 4) (s.watchAt core (s.cyc + 4))) }).schedule (s.cyc + 4)
            (.ppeLineWrite core))
        else
          let k2 := if (k.tldStop c).isSome then k1 else k1.ppeEffect c
          .next ((s.setCore core { k2 with
            drainNow := some { blank with stop := k.tldStop c, damaged := k.ppeDamage c } }).schedule (s.cyc + 1) (.ppeCommandComplete core))
    | some _, _ | none, [] => .next s

/-! ## Lines (R187, R188, R193) -/

/-- What stands in the way of a line. -/
inductive DrainCheck where
  | go
  | later (cyc : Nat)
  | blocked
  | fails (status : BitVec 8) (addr : Nat)
  deriving DecidableEq, Repr
def State.drainCheck (s : State) (c x : Nat) (l : DrainLine) : DrainCheck :=
  let k := s.core c
  match l.dest with
  | .scratch flat =>
    let st := k.accessStatus 5 (s.actsFor c x) flat
    if st ≠ 0 then .fails st (flatAddr flat)
    else if k.lineFree flat.toNat s.cyc then .go
    else .later (k.streamTime (bankOf flat.toNat) (busyTime flat.toNat) s.cyc)
  | .port n =>
    let p := k.port n
    (match p.fault with
    | some (cause, a) => .fails cause.code a
    | none => if 16 ≤ p.fifo.length + p.reserved ∨ Descr.product p.cfg ≤ p.pos + p.reserved then .blocked else .go)
  | .fifo n => if fifoDepth ≤ (s.fifo (clusterOf c) n).lines.length then .blocked else .go
  | .tileRow _ _ => .go
  | .fail st a => .fails st a
/-- A line is written. -/
def State.drainPut (s : State) (c id : Nat) (l : DrainLine) : State :=
  match l.dest with
  | .scratch flat => (s.occupy c flat.toNat).writeFlat c flat.toNat l.val
  | .port n =>
    (s.modCore c (fun k =>
      let p := k.port n
      k.setPort n { p with fifo := p.fifo ++ [{ val := l.val, flg := 0 }], pos := p.pos + 1 })).schedule s.cyc
        (.writePortWrite c (n - 6))
  | .fifo n => s.pushFifo (clusterOf c) n (c, id) l.val
  | .tileRow t r => s.modCore c (Core.putRows r [(t, l.val)])
  | .fail _ _ => s
/-- An escape count rises by 1 and saturates (R181). -/
def TanSet.countUp (z : TanSet) (n : Nat) : TanSet :=
  { z with counts := z.counts.set n (BitVec.ofNat 16 (Nat.min 65535 ((z.counts.get 0 n).toNat + 1))) }
/-- The counters after a line: records written, escapes lost, counts of their columns (R188).
Log entry 38 (DEDUCED). -/
def Core.drainCounts (k : Core) (x : Nat) (l : DrainLine) : Core :=
  let v := k.ctx x
  let p := v.ppe
  let z := (l.records ++ l.lost).foldl TanSet.countUp (k.tanSet p.ts)
  (k.setTanSet p.ts z).setCtx x
    { v with ppe := { p with ep := p.ep + l.records.length, lost := p.lost + l.lost.length,
                             tail := if l.stream = 1 then l.tail else p.tail } }
/-- The drain has written its last line, or ends at a fault: its token completes 4 cycles later. -/
def State.endDrain (s : State) (c : Nat) (d : Draining) : State :=
  (s.modCore c (fun k => { k with drainNow := some { d with ending := true } })).schedule (s.cyc + 4) (.ppeCommandComplete c)
/-- The lines of one cycle, at most one of each stream. -/
def State.drainRun (c : Nat) : List Nat → Nat → State → Draining → State
  | _, 0, s, _ => s
  | used, n + 1, s, d =>
    match d.todo with
    | [] => s.endDrain c d
    | l :: ls =>
      if l.stream ∈ used then
        (s.modCore c (fun k => { k with drainNow := some d })).schedule (s.cyc + 1) (.ppeLineWrite c)
      else
        match s.drainCheck c d.cmd.ctx l with
        | .go =>
          let d1 := { d with
            todo := ls, escapes := d.escapes + l.records.length + l.lost.length, flg := d.flg ||| l.flg,
            nextLine := s.cyc + 1, waitSince := s.watchAt c (s.cyc + 1) }
          State.drainRun c (l.stream :: used) n
            ((s.drainPut c d.cmd.id l).modCore c (fun k => { k.drainCounts d.cmd.ctx l with drainNow := some d1 })) d1
        | .later t => (s.modCore c (fun k => { k with drainNow := some d })).schedule t (.ppeLineWrite c)
        | .blocked =>
          (s.modCore c (fun k => { k with drainNow := some d })).watch c d.waitSince (.engineWatchdogExpiry c .ppeDrain)
        | .fails st a => s.endDrain c { d with stop := statusStop st a, todo := [] }
def execPpeLineWrite (core : Nat) (s : State) : Res :=
  if Config.cores ≤ core then .fault .noSuchUnit
  else
    match (s.core core).drainNow with
    | none => .next s
    | some d => if d.ending || decide (s.cyc < d.nextLine) then .next s else .next (State.drainRun core [] 4 s d)

/-! ## Completion -/

/-- A drain into a port waits until the port has written its last line (R187). -/
def Core.drainPending (k : Core) (d : Draining) : Bool :=
  d.cmd.ports.any (fun n => !(k.port n).fifo.isEmpty && ((k.port n).fault.isNone && d.stop.isNone))
/-- The token of a drain into a port completes 4 cycles after the port's last write has been performed (R187, R193). -/
def Core.drainTime (k : Core) (d : Draining) : Nat :=
  d.cmd.ports.foldl (fun t n => if (k.port n).fault.isNone && d.stop.isNone then Nat.max t ((k.port n).performed + 4) else t) 0
def drainStatus (k : Core) (d : Draining) : BitVec 8 × Nat :=
  match d.stop with
  | some q => (q.status, q.addr)
  | none =>
    match d.cmd.ports with
    | n :: _ => (match (k.port n).fault with | some (c, a) => (c.code, a) | none => (0, 0))
    | [] => (0, 0)
/-- RC advances by M, whether the drain ended well or not; not when a consumed token stopped it (R185, R193, R197). -/
def rowCounter (d : Draining) (v : Ctx) : Ctx :=
  if d.cmd.op = 0x11 ∧ (inputStatus d.cmd.ins).1 = 0 then
    { v with ppe := { v.ppe with rc := (v.ppe.rc + eRows d.cmd.f) % 2 ^ 24 } }
  else v
def execPpeCommandComplete (core : Nat) (s : State) : Res :=
  if Config.cores ≤ core then .fault .noSuchUnit
  else
    let k := s.core core
    match k.drainNow with
    | none => .next s
    | some d =>
      if !d.ending || k.drainPending d then .next s
      else if s.cyc < k.drainTime d then .next (s.schedule (k.drainTime d) (.ppeCommandComplete core))
      else
        let (st, a) := drainStatus k d
        let s1 := (s.setCore core { k with drainNow := none }).modCtx core d.cmd.ctx (fun v =>
          (rowCounter d v).consumed d.cmd d.damaged)
        .next ((s1.engineDone core d.cmd.ctx d.flg d.escapes d.cmd.inSeg).complete core d.cmd st a)

end Sys2Proof.Machine
end

