-- ==== Sys2Proof/Machine/Detect.lean ====
section
/-!
DEFINITION. The trace ring (R271, R272), the causes of a trap and their order (R249, R250), and what a detected error
leads to (R22, R23, R137, R263, R264).
-/
namespace Sys2Proof.Machine

/-! ## Trace (R271, Table 16.8) -/

/-- A number between two bounds, in 32 bits of two's complement. -/
def saturated32 (x : Int) : Nat := wrapOf 32 (clampInt (-(2 ^ 31 : Nat)) ((2 ^ 31 : Nat) - 1) x)
/-- A trace record. -/
def traceRecord (cyc data segid code addr ctx type : Nat) : Nat :=
  type % 16 + ctx % 8 * 2 ^ 24 + addr % 2 ^ 13 * 2 ^ 27 + code % 256 * 2 ^ 40 + segid % 2 ^ 16 * 2 ^ 48 +
    data % 2 ^ 32 * 2 ^ 64 + cyc % 2 ^ 32 * 2 ^ 96
/-- A record is made while TEN is 1; it is written at the end of the cycle's issue stage (R271). -/
def State.trace (s : State) (c x type code data addr : Nat) : State :=
  if !bitOf (s.core c).dbg.control 9 then s
  else s.modCore c (fun k =>
    { k with traceQ := k.traceQ ++ [(x, traceRecord s.cyc data (s.ctx c x).segid code addr x type)] })
/-- A record is appended to the ring; the writer's access keeps the trace bank busy (R49, R271).
Log entry 48 (DEDUCED). -/
def State.writeTrace (s : State) (c : Nat) (r : Nat) : State :=
    let k := s.core c
    let b := fieldOf k.dbg.control 0 9
    let slot := (b * Config.bankLines + k.tcnt % 8192 / 8) * 8 + k.tcnt % 8
    let start := k.streamTime b 4 s.cyc
    let s1 := s.setSyncWord c slot r
    s1.modCore c (fun k =>
      { k.setBank b { k.bank b with busyUntil := Nat.max (k.bank b).busyUntil (start + 4) } with
        tcnt := (k.tcnt + 1) % 2 ^ 32 })
/-- The records of a cycle are written in ascending context order (R271). -/
def State.flushTrace (s : State) (c : Nat) : State :=
  let q := (s.core c).traceQ
  ((upTo 5 0).flatMap (fun x => q.filter (fun e => decide (e.1 = x)))).foldl (fun t e => t.writeTrace c e.2)
    (s.modCore c (fun k => { k with traceQ := [] }))
/-- A run of cycles without issue ends by an issue of the bundle at an address (R272).
Log entry 48 (DEDUCED). -/
def State.endStall (s : State) (c x addr : Nat) : State :=
  let v := s.ctx c x
  let s1 := if v.stall.armed ∧ 0 < v.stall.cycles then s.trace c x 2 v.stall.kind v.stall.cycles addr else s
  s1.modCtx c x (fun v => { v with stall := { v.stall with cycles := 0, kind := 0 } })
/-- A cycle in which a context issues nothing, with the lowest code that holds (R272).
Log entry 48 (DEDUCED). -/
def Ctx.stalled (v : Ctx) (code : Nat) : Ctx :=
  if v.stall.armed then { v with stall := { v.stall with cycles := v.stall.cycles + 1, kind := code } } else v

/-! ## Raising a trap (R249, R251) -/

/-- The context's trap in front of, or at, the bundle at its pc. The done mask of a resumed bundle that has not issued
since stays (R255). -/
def State.raise (s : State) (c x : Nat) (cause : Cause) (status : BitVec 8) (async more : Bool) (fault done : BitVec 8)
    (val : Word) : State :=
  let v := s.ctx c x
  let s1 := s.modCtx c x (fun v =>
    { v with walkFault := none, yielded := none, stall := { v.stall with cycles := 0, kind := 0 } })
  s1.takeTrap c x
    { ctx := x, cause := cause, status := status, async := async, more := more, tpc := v.pc, faultMask := fault,
      doneMask := v.skip ||| done, tval := val, taken := s.cyc, written := false }

/-! ## Detected errors (R22, R23, R264) -/

/-- What was detected: a CHK or CHKP, a VCHK, a residue mismatch, or an uncorrectable error consumed at a location. -/
inductive Finding where
  | check
  | vector
  | residue (buffer : Option Nat)
  | consumed (loc : Nat)
  deriving DecidableEq, Repr
/-- DATA of a REWIND record (R271). -/
def Finding.code : Finding → Nat
  | .check => 0
  | .vector => 1
  | .residue _ => 2
  | .consumed _ => 3
def Finding.loc? : Finding → Option Nat
  | .consumed l => some l
  | .residue b => b
  | .check | .vector => none
/-- An uncorrectable error was consumed. -/
def Finding.isConsumed : Finding → Bool
  | .consumed _ => true
  | .check | .vector | .residue _ => false
/-- The location of the last uncorrectable error that rewound the segment is kept (R264). -/
def Ctx.repeats (v : Ctx) (f : Finding) : Bool :=
  match f.loc?, v.lastUncr with
  | some l, some p => decide (p.2 = l)
  | some _, none | none, some _ | none, none => false
/-- A detection rewinds the segment, or escalates at SEGTRY 3, or at a location that rewound it before. An error that
context 4 consumes is a supervisor fault (R262, R247). With bad parity in the checkpoint there is no rewind: the error
goes to the supervisor as UNCR (Table 16.1). -/
def State.detect (s0 : State) (c x : Nat) (f : Finding) (fault : BitVec 8) (more : Bool) : State :=
  let s := if f.isConsumed then s0.modCore c (fun k => k.countError false) else s0
  let v := s.ctx c x
  if v.repeats f then s.raise c x .uncr 0 true more 0 0 (BitVec.ofNat 64 (f.loc?.getD 0))
  else if v.segtry = 3 ∨ (x = 4 ∧ f.isConsumed) then
    match f with
    | .consumed l => s.raise c x .uncr 0 true more 0 0 (BitVec.ofNat 64 l)
    | .residue _ => s.raise c x .serr 0 true more 0 0 (BitVec.ofNat 64 v.segid)
    | .check | .vector => s.raise c x .serr 0 false more fault 0 (BitVec.ofNat 64 v.segid)
  else if (s.core c).bad (locCkpt x) then s.raise c x .uncr 0 true more 0 0 (BitVec.ofNat 64 (locCkpt x))
  else
    let s1 := s.trace c x 4 (v.segtry + 1) f.code v.pc
    let s2 := s1.startRewind c x false
    match f.loc? with
    | some l => s2.modCtx c x (fun v => { v with lastUncr := some (0, l) })
    | none => s2

/-! ## Boundary events (R250 part 1) -/

/-- An entry due in front of the next bundle whose line carried a mark does not land: the error is an event there
(R137, R219). -/
def Pending.faulty (e : Pending) : Bool := e.due && decide (e.mark ≠ .clean)
def Events.mark (e : Events) (m : Mark) (addr : Nat) : Events :=
  match m with
  | .poison => { e with pois := some (e.pois.getD addr) }
  | .uncorrectable _ => { e with uncr := some (e.uncr.getD addr) }
  | .clean | .group => e
/-- What the boundary in front of the next bundle brings: damaged loads that are due, and errors whose detection is
due (R263). -/
def Ctx.gather (v : Ctx) : Ctx :=
  let bad := if v.dbgPass then [] else v.pwq.filter Pending.faulty
  let hurt := v.damage.filter (fun d => decide (d.1 ≤ v.issued))
  let e1 := bad.foldl (fun e p => e.mark p.mark p.addr) v.events
  let e2 := hurt.foldl (fun e d => { e with uncr := some (e.uncr.getD d.2) }) e1
  { v with
    pwq := if v.dbgPass then v.pwq else v.pwq.filter (fun p => !p.faulty),
    damage := v.damage.filter (fun d => !decide (d.1 ≤ v.issued)),
    events := e2 }
/-- The number of events pending. -/
def Events.count (e : Events) : Nat :=
  e.residue.toNat + e.uncr.isSome.toNat + e.pois.isSome.toNat + e.wdog.isSome.toNat + e.pre.isSome.toNat +
    e.therm.isSome.toNat
def State.modEvents (s : State) (c x : Nat) (f : Events → Events) : State :=
  s.modCtx c x (fun v => { v with events := f v.events })
/-- The first pending event is taken; the others stay pending, and MORE says that there are any; a rewind ends a residue
mismatch that is pending beside it (R250). -/
def State.takeEvent (s : State) (c x : Nat) : State :=
  let e := (s.ctx c x).events
  let more := decide (1 < e.count)
  match e.uncr with
  | some l => (s.modEvents c x (fun e => { e with uncr := none })).detect c x (.consumed l) 0 more
  | none =>
    if e.residue then (s.modEvents c x (fun e => { e with residue := false, buffer := none })).detect c x (.residue e.buffer) 0 more
    else
      match e.pois with
      | some a => (s.modEvents c x (fun e => { e with pois := none })).raise c x .pois 0 true more 0 0 (BitVec.ofNat 64 a)
      | none =>
        match e.wdog with
        | some w => (s.modEvents c x (fun e => { e with wdog := none })).raise c x .wdog 0 true more 0 0 w
        | none =>
          match e.pre with
          | some w => (s.modEvents c x (fun e => { e with pre := none })).raise c x .pre 0 true more 0 0 w
          | none =>
            match e.therm with
            | some w => (s.modEvents c x (fun e => { e with therm := none })).raise c x .therm 0 true more 0 0 w
            | none => s

/-! ## Causes of the bundle itself (R250 part 2) -/

/-- The place of a slot's cause in the order of R250, which names neither UNCR nor POIS of a slot itself.
Log entry 81 (DESIGN CHOICE). -/
def Cause.rank : Cause → Nat
  | .priv => 0 | .ill => 1 | .tile => 2 | .brange => 3 | .bown => 4 | .shad => 5 | .bank => 6 | .uncr => 7 | .pois => 7
  | .xlat => 8 | .eng => 9 | .serr => 10 | .trap => 11 | .sys => 11 | .dbg => 12 | .pre => 12 | .therm => 12 | .wdog => 12
/-- The causes the slots of a bundle raise: slot, cause and value; a mismatch stands as SERR (R112, R134). -/
def slotCauses (effs : List (Nat × Effect)) : List (Nat × Cause × Word) :=
  effs.filterMap (fun e =>
    match e.2 with
    | .trap c v => some (e.1, c, v)
    | .mismatch _ => some (e.1, .serr, 0)
    | _ => none)
/-- The first cause in the order of R250, of the lowest slot that raises it.
Log entry 11 (DEDUCED). -/
def topCause : List (Nat × Cause × Word) → Option (Nat × Cause × Word)
  | [] => none
  | a :: as =>
    match topCause as with
    | none => some a
    | some b => if b.2.1.rank < a.2.1.rank ∨ (b.2.1.rank = a.2.1.rank ∧ b.1 < a.1) then some b else some a
/-- A VCHK is among the slots that mismatch. -/
def vectorMismatch (effs : List (Nat × Effect)) : Bool :=
  effs.any (fun e => match e.2 with | .mismatch v => v | _ => false)
/-- The STATUS field of an ENG trap: that of the token its value names (Table 15.2); 0 for any other cause, the XLAT trap of
a KWAIT among them.
Log entry 80 (DEDUCED). -/
def Ctx.engStatus (v : Ctx) (c : Cause) (w : Word) : BitVec 8 := if c = .eng then (v.token w.toNat).status else 0

end Sys2Proof.Machine
end

