-- ==== Sys2Proof/Machine/Retire.lean ====
section
/-!
DEFINITION. The end of a context (R27, R59, R255) and of the reservations of its launch (R169, R181, R228, R280).
-/
namespace Sys2Proof.Machine

/-! ## Banks (R27, R59) -/

/-- Dirty valid slots of a bank are written back to their slow rows. -/
def State.writeBack (c b : Nat) : List Nat → State → State
  | [], s => s
  | i :: is, s =>
    let t := ((s.core c).bank b).tag i
    let s1 := if t.valid && t.dirty then s.copyRow c b i t.srow else s
    State.writeBack c b is s1
/-- A bank its context's L slots own is cleaned and returns to the pool.
Log entry 47 (DEDUCED). -/
def State.cleanBank (c : Nat) (s : State) (b : Nat) : State :=
  (State.writeBack c b (upTo 128 0) s).modCore c (fun k =>
    k.setBank b { k.bank b with owner := 0, grantor := none, launch := 0, tags := [], nv := 0 })
/-- A bank that a port or engine owns under the context's grant returns with its tag table. -/
def State.returnBank (c : Nat) (s : State) (b : Nat) : State :=
  s.modCore c (fun k => k.setBank b { k.bank b with owner := 0, grantor := none, launch := 0 })
/-- Banks of its launch that a context's L slots own, and those it has granted. -/
def Core.ownBanks (k : Core) (x : Nat) : List Nat :=
  (k.banks.filter (fun e => decide (e.2.owner = lCode x) && k.reaches x e.2)).map (fun e => e.1)
def Core.grantedBanks (k : Core) (x : Nat) : List Nat :=
  (k.banks.filter (fun e => decide (2 ≤ fieldOf e.2.owner 12 4 ∧ e.2.grantor = some x) && k.reaches x e.2)).map (fun e => e.1)

/-! ## Resources a context holds -/

/-- Curve tables, tangent sets and buffers of a retiring context: tables and sets are cleared, buffers are held by
nobody. -/
def Core.dropHeld (x : Nat) (k : Core) : Core :=
  { k with
    tables := k.tables.map (fun e =>
      (e.1, if e.2.holder = some x then { CurveTable.idle with reserved := e.2.reserved } else e.2)),
    sets := k.sets.map (fun e =>
      (e.1, if e.2.holder = some x then { TanSet.idle with reserved := e.2.reserved } else e.2)),
    buffers := k.buffers.map (fun e => (e.1, if e.2.holder = some x then { e.2 with holder := none } else e.2)) }
/-- The ports a context holds are stopped (R145). -/
def State.stopHeldPorts (s : State) (c x : Nat) : State :=
  (upTo 10 0).foldl (fun t n => if (t.port c n).holder = some x then t.stopPort c n else t) s
/-- The reservations of a launch on a core end, and what they cover is cleared (R280). -/
def Core.freeReserved (launch : Nat) (k : Core) : Core :=
  { k with
    tables := k.tables.map (fun e => (e.1, if e.2.reserved = launch then CurveTable.idle else e.2)),
    sets := k.sets.map (fun e => (e.1, if e.2.reserved = launch then TanSet.idle else e.2)),
    buffers := k.buffers.map (fun e => (e.1, if e.2.reserved = launch then { e.2 with holder := none, reserved := 0 } else e.2)) }
def Cluster.freeReserved (launch : Nat) (k : Cluster) : Cluster :=
  { k with fifos := k.fifos.map (fun e => (e.1, if e.2.reserved = launch then Fifo.idle else e.2)) }
/-- No context of a launch in a cluster is active or finished: each has been saved or aborted. -/
def Launch.leftCluster (l : Launch) (cl : Nat) : Bool :=
  l.members.all (fun m => decide (clusterOf m.core ≠ cl ∨ m.state = .saved ∨ m.state = .aborted))

/-! ## The launch of an ending context (R28) -/

/-- Every context of a launch has retired. -/
def Launch.over (l : Launch) : Bool := l.members.all (fun m => decide (m.state = .finished ∨ m.state = .aborted))
/-- The dispatcher looks at its queues again within the time of Table 17.5 (R286, log entry 27). -/
def State.schedulePlacement (s : State) : State := s.schedule (s.cyc + 275) .launchPlacement
/-- A context of a launch ends, or is saved: its reservations end with an ABORT or a CSAVE, and the completion record
follows the last context (R28, R280). -/
def State.memberEnds (s : State) (lidx c x : Nat) (st : MemberState) : State :=
  match s.launchOf lidx with
  | none => s
  | some l =>
    let l1 := { l with members := l.members.map (fun m =>
      if m.core = c ∧ m.ctx = x ∧ m.state = .active then { m with state := st } else m) }
    let s1 := s.setLaunch l1
    let s2 := if st = .finished then s1 else s1.modCore c (Core.freeReserved lidx)
    let s3 := if st ≠ .finished ∧ l1.leftCluster (clusterOf c) then s2.modCluster (clusterOf c) (Cluster.freeReserved lidx)
              else s2
    (if l1.over then s3.scheduleFree (.launchCompletion lidx) else s3).schedulePlacement

/-! ## Retirement (R27, R255) -/

/-- Retirement waits for the context's accesses, its released entries, its commands and the lines of its write ports; an
END waits for its tokens too.
Log entry 47 (DEDUCED). -/
def State.retireReady (s : State) (c x : Nat) (aborted : Bool) : Bool :=
  let v := s.ctx c x
  let k := s.core c
  v.out.isEmpty && (v.releasing.isEmpty &&
    (!(k.commands.any (fun j => decide (j.ctx = x))) &&
      ((upTo 4 6).all (fun n =>
        let p := k.port n
        decide (p.holder ≠ some x) || (p.fifo.isEmpty && decide (p.performed ≤ s.cyc)) || p.fault.isSome) &&
        (aborted || (upTo 31 1).all (fun n => !(v.token n).pendingAt s.cyc)))))
/-- The context is free: its ports stop, its banks and tiles return, what it holds is cleared, and its launch learns of
it. DRIFT stays as it is, as Table 20.4 shows it; the other registers hold what a context of a new launch sees.
Log entry 47 (DEDUCED). -/
def State.retire (s : State) (c x : Nat) (aborted : Bool) : State :=
  let launch := (s.ctx c x).launch
  let s1 := s.stopHeldPorts c x
  let s2 := ((s1.core c).ownBanks x).foldl (State.cleanBank c) s1
  let s3 := ((s2.core c).grantedBanks x).foldl (State.returnBank c) s2
  let s4 := (s3.modCore c (Core.dropHeld x)).modCluster (clusterOf c) (Cluster.resetHeld c x)
  (s4.setCtx c x { Ctx.blank with drift := (s.ctx c x).drift }).memberEnds launch c x (if aborted then .aborted else .finished)
/-- A context in the middle of END or of an ABORT (R27, R255, R256): a boundary event, or a token that completed with a
status, is taken in front of the END, whose other slots have acted; otherwise it retires once it may.
Log entry 20 (DEDUCED). -/
def State.tryRetire (s : State) (c x : Nat) (aborted : Bool) : State :=
  let v := s.ctx c x
  let back (t : State) : State :=
    t.modCtx c x (fun u => { u with status := .running, skip := 0xFE, bcnt := u.bcnt - 1 })
  if !aborted ∧ 0 < v.events.count then (back s).takeEvent c x
  else if s.retireReady c x aborted then
    match findFrom (fun k => !(v.token k).pend && decide ((v.token k).status ≠ 0)) 31 1 with
    | some k =>
      if aborted then s.retire c x aborted
      else (back s).raise c x .eng (v.token k).status false false 1 0 (BitVec.ofNat 64 k)
    | none => s.retire c x aborted
  else s

end Sys2Proof.Machine
end

