-- ==== Sys2Proof/Machine/System.lean ====
section
/-!
DEFINITION. Special registers (R116, R54, R248, R252, R268, R275, R289) and the privileged instructions TRET, CSAVE,
CLOAD, TLBI and WAITI (R117, R252, R255, R258, R291).
-/
namespace Sys2Proof.Machine

/-- R2: privileged state used by a user context.
Log entry 19 (DEDUCED). -/
def privCheck (s : State) : List Effect := if s.user then [.trap .priv 0] else []

/-- The payload of the DBG entry that the latest MTS named (R268). -/
def Core.readDbg (k : Core) : Word :=
  let d := k.dbg
  let pay :=
    if d.sel = 0 then BitVec.ofNat 64 (d.control.toNat + k.tcnt % 2 ^ 32 * 2 ^ 28)
    else if d.sel ≤ 8 then d.breakpoints.get 0 (d.sel - 1)
    else d.watches.get 0 (d.sel - 9)
  putField pay 60 4 d.sel
/-- Table 17.9: PART of a core. -/
def State.partReg (s : State) (c : Nat) : Word :=
  let p := (s.cluster (clusterOf c)).part
  let members := (upTo Config.clusters 0).map (fun i => if (s.cluster i).part = p then 2 ^ i else 0)
  BitVec.ofNat 64 (p % 8 + (s.partOf p).otag.toNat * 2 ^ 8 + members.foldl (· + ·) 0 * 2 ^ 16)
/-- A special register as it reads at an issue (Tables 5.14 and 15.1). In context 4, which has no launch and no virtual
core, CORE, CLU and LIDX read 0 (log entry 26). -/
def readSpecial (s : State) (n : Nat) : Word :=
  let x := s.me
  let k := s.here
  if n = 0x00 then BitVec.ofNat 64 s.cyc
  else if n = 0x01 then x.bcnt
  else if n = 0x02 then BitVec.ofNat 64 s.cur.ctx
  else if n = 0x03 then BitVec.ofNat 64 x.vcore
  else if n = 0x04 then BitVec.ofNat 64 (x.vcore / 4)
  else if n = 0x05 then BitVec.ofNat 64 x.launch
  else if n = 0x06 then x.argp
  else if n = 0x07 then x.flags.zeroExtend 64
  else if n = 0x08 then x.escn.zeroExtend 64
  else if n = 0x09 then BitVec.ofNat 64 k.tallow
  else if n = 0x0A then BitVec.ofNat 64 k.rfsh
  else if n = 0x0B then x.drift
  else if n = 0x0C then BitVec.ofNat 64 x.segid
  else if n = 0x0D then BitVec.ofNat 64 x.segtry
  else if n = 0x0E then BitVec.ofNat 64 x.yptr
  else if n = 0x0F then BitVec.ofNat 64 x.tmask.toNat
  else if n = 0x10 then BitVec.ofNat 64 x.pwin
  else if n = 0x20 then k.trapinfo
  else if n = 0x21 then k.tpc
  else if n = 0x22 then k.tslot
  else if n = 0x23 then k.tval
  else if n = 0x24 then k.snap
  else if n = 0x25 then k.inj
  else if n = 0x26 then (s.partOf (s.cluster (clusterOf s.cur.core)).part).troot
  else if n = 0x27 then s.partReg s.cur.core
  else if n = 0x28 then k.readDbg
  else if n = 0x29 then k.dthr
  else 0
def specialOf (f : SSlot) : Nat := fieldOf f.imm 0 8
/-- MFS reads at issue, with latency 2; 0x20 and above are privileged (R116). -/
def execMfs (f : SSlot) (s : State) : Res :=
  slot s f.g ((if 0x20 ≤ specialOf f then privCheck s else []) ++ [scalarResult f.d.toNat 2 (readSpecial s (specialOf f))])
/-- The landing write of an MTS, latency 1. -/
def writeOf (n : Nat) (v : Word) : Effect := result (.special n) 1 (v.zeroExtend 1024) allLanes 0

/-- Reserved payload bits, or a SEL of 13 to 15 (R268). -/
def dbgRefused (v : Word) : Bool :=
  let sel := fieldOf v 60 4
  decide (12 < sel) || (decide (sel = 0) && decide (fieldOf v 12 16 ≠ 0)) ||
    (decide (1 ≤ sel ∧ sel ≤ 8) && decide (fieldOf v 21 39 ≠ 0)) ||
    (decide (9 ≤ sel ∧ sel ≤ 12) && decide (fieldOf v 42 18 ≠ 0))
/-- An MTS to DBG: the entry that SEL of the value names (R268). -/
def writeDbgSlot (f : SSlot) (s : State) : Res :=
  let v := srcA s f
  slot s f.g (privCheck s ++ (if dbgRefused v then [.trap .ill 0] else []) ++ [writeOf 0x28 v])
/-- MTS to a register without a row of its own.
Log entry 30 (DEDUCED). -/
def execMts (f : SSlot) (s : State) : Res :=
  let n := specialOf f
  if n = 0x28 then writeDbgSlot f s
  else slot s f.g ((if 0x20 ≤ n then privCheck s else []) ++ [writeOf n (srcA s f)])
def execPwinWrite (f : SSlot) (s : State) : Res := slot s f.g [writeOf 0x10 (srcA s f)]
/-- An MTS to TRAPINFO, of any value, dismisses the current trap or message (R252). -/
def execTrapinfoDismiss (f : SSlot) (s : State) : Res := slot s f.g (privCheck s ++ [writeOf 0x20 (srcA s f)])
/-- A user context of the core is trapped, parked or being restored. -/
def Core.anyTrapped (k : Core) : Bool :=
  (upTo 4 0).any (fun x =>
    match (k.ctx x).status with
    | .trapped _ | .queued | .current | .parked | .restoring => true
    | .free | .running | .retiring _ => false)
/-- R248: the three cases in which an MTS to SNAP raises ILL. -/
def snapRefused (k : Core) (v : Word) : Bool :=
  decide (380 < snapBank v ∨ 0x363 < snapLine v) ||
    (upTo 4 0).any (fun i => decide (fieldOf (k.bank (snapBank v + i)).owner 12 4 ≠ 0)) ||
    (decide (snapBank v ≠ snapBank k.snap ∨ snapLine v ≠ snapLine k.snap) && k.anyTrapped)
def execSnapWrite (f : SSlot) (s : State) : Res :=
  let v := srcA s f
  slot s f.g (privCheck s ++ (if snapRefused s.here v then [.trap .ill 0] else []) ++ [writeOf 0x24 v])
/-- R275: KIND 01 with SLOT 6 or 7, or with CTX 4 to 7. -/
def injRefused (v : Word) : Bool :=
  decide (fieldOf v 0 2 = 1) && (decide (6 ≤ fieldOf v 23 3) || decide (4 ≤ fieldOf v 26 3))
def execInjWrite (f : SSlot) (s : State) : Res :=
  let v := srcA s f
  slot s f.g (privCheck s ++ (if injRefused v then [.trap .ill 0] else []) ++ [writeOf 0x25 v])
/-- TROOT belongs to the partition; walks that begin after the write lands use the new root (R289). -/
def execTrootWrite (f : SSlot) (s : State) : Res := slot s f.g (privCheck s ++ [writeOf 0x26 (srcA s f)])
def execDbgControlWrite (f : SSlot) (s : State) : Res := writeDbgSlot f s
def execDbgBreakpointWrite (f : SSlot) (s : State) : Res := writeDbgSlot f s
def execDbgWatchWrite (f : SSlot) (s : State) : Res := writeDbgSlot f s

/-- A context whose trap is current or parked. -/
def Ctx.held (x : Ctx) : Bool := decide (x.status = .current ∨ x.status = .parked)
/-- A line of a context's record that holds an uncorrectable error (R262). -/
def recordHurt (s : State) (x : Nat) : Option Nat :=
  findFrom (fun i =>
    match s.readMark s.cur.core (s.here.recordFlat x i) with
    | .uncorrectable _ => true
    | .clean | .poison | .group => false) 157 0
/-- TRET (R255): the context must be current or parked, and its record must be readable (Table 16.1) and pass the
checks; TVAL is the flat line that fails (log entry 21). -/
def execTret (f : SSlot) (s : State) : Res :=
  let x := snapCtx s.here.snap
  slot s f.g (privCheck s ++
    (if 4 ≤ x ∨ !(s.here.ctx x).held then [.trap .ill (BitVec.ofNat 64 x)]
     else
      match recordHurt s x with
      | some l => [.trap .uncr (BitVec.ofNat 64 (s.here.recordFlat x l)), .met (s.here.recordFlat x l)]
      | none =>
        match badRecordLine (s.recordAt s.cur.core x) with
        | some l => [.trap .ill (BitVec.ofNat 64 (s.here.recordFlat x l))]
        | none => []) ++ [.tret x])
/-- The operand of CSAVE and CLOAD: reserved bits must be 0, and the context is a user context (R258). -/
def saveOperandBad (v : Word) : Bool :=
  decide (4 ≤ fieldOf v 0 3 ∨ fieldOf v 4 8 ≠ 0 ∨ fieldOf v 57 7 ≠ 0)
def saveVa (v : Word) : Nat := fieldOf v 12 45 * 2 ^ 12
/-- TLBI (R291): all ones name every entry; otherwise bits [63:57] must be 0. -/
def execTlbi (f : SSlot) (s : State) : Res :=
  let v := srcA s f
  slot s f.g (privCheck s ++
    (if v ≠ BitVec.allOnes 64 ∧ fieldOf v 57 7 ≠ 0 then [.trap .ill v] else []) ++ [.tlbi v])
/-- A trap or a message is current: TRAPINFO has it, until it is dismissed or resumed (R251, R252). A CSAVE of its context
does not dismiss it (log entry 73). -/
def Core.someCurrent (k : Core) : Bool := decide (k.trapinfo ≠ 0)
/-- WAITI (R252): in a user context it traps and does not wait. -/
def execWaiti (f : SSlot) (s : State) : Res :=
  let k := s.here
  slot s f.g (if s.user then privCheck s else if k.someCurrent then []
    else if k.trapQ.isEmpty ∧ k.msgQ.isEmpty then [.wait 14 none] else [.waiti])

end Sys2Proof.Machine
end

