-- ==== Sys2Proof/Machine/Save.lean ====
section
/-!
DEFINITION. CSAVE and CLOAD (R258, Tables 15.11 and 15.12): the checks at issue, the save area as one image, and the
steps in which a context is written away and its core's share freed, or read back and left parked.
-/
namespace Sys2Proof.Machine

/-! ## Offsets of the save area (Table 15.12) -/

def areaRecord : Nat := 4 * 1024
def areaHeld : Nat := 24 * 1024
def areaTiles : Nat := 88 * 1024
def tileBytes : Nat := 4 * 1024
def bufferBytes : Nat := 72 * 1024
def tableBytes : Nat := 1024
def setBytes : Nat := 4608
def fifoBytes : Nat := 16 * 1024
def bankBytes : Nat := 1028 * 1024

/-- What a save area names: tiles, and the numbers of its buffers, curve tables, tangent sets, FIFOs and banks. -/
structure Named where
  tiles : Nat
  buffers : List Nat
  tables : List Nat
  sets : List Nat
  fifos : List Nat
  ports : List Nat
  banks : List Nat
  deriving DecidableEq, Repr
def Named.offBuffers (n : Named) : Nat := areaTiles + n.tiles * tileBytes
def Named.offTables (n : Named) : Nat := n.offBuffers + n.buffers.length * bufferBytes
def Named.offSets (n : Named) : Nat := n.offTables + n.tables.length * tableBytes
def Named.offFifos (n : Named) : Nat := n.offSets + n.sets.length * setBytes
def Named.offBanks (n : Named) : Nat := n.offFifos + n.fifos.length * fifoBytes
def Named.bytes (n : Named) : Nat := n.offBanks + n.banks.length * bankBytes
/-- Size in KiB, as word 0 holds it. -/
def Named.kib (n : Named) : Nat := (n.bytes + 1023) / 1024
def Named.pages (n : Named) : Nat := (n.bytes + 4095) / 4096

/-! ## The image -/

/-- The cells of an `n`-byte number at an offset. -/
def numberCells (off n v : Nat) : Memory := Memory.cellsOf off (bytesOf n v)
/-- A mask with a bit for each number of a list. -/
def natMask (l : List Nat) : Nat := l.foldl (fun m i => if natBit m i then m else m + 2 ^ i) 0
/-- The numbers whose bit is set. -/
def bitsOf (n v : Nat) : List Nat := (upTo n 0).filter (natBit v)
/-- The header page. -/
def headerCells (n : Named) (lidx ctx : Nat) (banksSaved : Bool) : Memory :=
  numberCells 0 8 (1 + n.kib * 2 ^ 32) ++ (numberCells 8 8 lidx ++
    (numberCells 16 8 (ctx + n.tiles * 2 ^ 8 + natMask n.buffers * 2 ^ 16 + natMask n.tables * 2 ^ 18 + natMask n.sets * 2 ^ 22 +
      natMask n.fifos * 2 ^ 24 + natMask n.ports * 2 ^ 32 + bitNat banksSaved 42) ++
    (numberCells 24 8 n.banks.length ++ n.banks.zipIdx.flatMap (fun e => numberCells (64 + 2 * e.2) 2 e.1))))
/-- What a header page names; none when it is not of format 1. -/
def headerNamed (m : Memory) : Option Named :=
  if m.load 0 2 ≠ 1 then none
  else
    let w := m.load 16 8
    some { tiles := natField w 8 8, buffers := bitsOf 2 (natField w 16 2), tables := bitsOf 4 (natField w 18 4),
           sets := bitsOf 2 (natField w 22 2), fifos := bitsOf 8 (natField w 24 8), ports := bitsOf 10 (natField w 32 10),
           banks := (upTo (Nat.min (m.load 24 8) Config.banks) 0).map (fun i => m.load (64 + 2 * i) 2) }
/-- A tag entry as Table 3.4 lays it out. -/
def tagBits (t : TagEntry) : Nat := bitNat t.valid 15 + bitNat t.dirty 14 + bitNat t.pin 13 + t.srow % 1024
def tagOf (v : Nat) : TagEntry := { valid := natBit v 15, dirty := natBit v 14, pin := natBit v 13, srow := natField v 0 10 }
/-- Numbered sections, each at its place. -/
def sections (off size : Nat) (f : Nat → Nat → Memory) (l : List Nat) : Memory :=
  l.zipIdx.flatMap (fun e => f e.1 (off + e.2 * size))
/-- A bank: its lines, its tag table and NV. -/
def bankCells (s : State) (c b off : Nat) : Memory :=
  let k := (s.core c).bank b
  let base := spAddr c (b * Config.bankLines)
  ((s.mem.window base (2 ^ 20)).move base off) ++
    ((upTo 128 0).flatMap (fun i => numberCells (off + 2 ^ 20 + 2 * i) 2 (tagBits (k.tag i))) ++
      numberCells (off + 2 ^ 20 + 256) 1 k.nv)
/-- The save area of a context as it stands.
Log entry 29 (DESIGN CHOICE). -/
def areaImage (s : State) (c x : Nat) (n : Named) (id : Nat) (banksSaved : Bool) : Memory :=
  let k := s.core c
  let v := k.ctx x
  let rec0 := (upTo 157 0).flatMap (fun i => numberCells (areaRecord + 128 * i) 128 (s.recordAt c x i).toNat)
  let tiles := (upTo (32 * n.tiles) 0).flatMap (fun i =>
    numberCells (areaTiles + 128 * i) 128 (k.tiles.get 0 (32 * v.tileBase + i)).toNat)
  let buf (i off : Nat) : Memory := (upTo 576 0).flatMap (fun j => numberCells (off + 128 * j) 128 ((k.buffer i).lines.get 0 j).toNat)
  let tab (i off : Nat) : Memory := (upTo 64 0).flatMap (fun j => numberCells (off + 16 * j) 16 ((k.table i).knots.get 0 j).toNat)
  let set (i off : Nat) : Memory :=
    (upTo 256 0).flatMap (fun j => numberCells (off + 16 * j) 16 ((k.tanSet i).recs.get 0 j).toNat) ++
      (upTo 256 0).flatMap (fun j => numberCells (off + 4096 + 2 * j) 2 ((k.tanSet i).counts.get 0 j).toNat)
  let fifo (i off : Nat) : Memory :=
    ((s.cluster (clusterOf c)).fifo i).lines.zipIdx.flatMap (fun e => numberCells (off + 128 * e.2) 128 e.1.toNat)
  headerCells n v.launch x banksSaved ++ (rec0 ++ (numberCells areaHeld 8 id ++ (tiles ++
    (sections n.offBuffers bufferBytes buf n.buffers ++ (sections n.offTables tableBytes tab n.tables ++
      (sections n.offSets setBytes set n.sets ++ (sections n.offFifos fifoBytes fifo n.fifos ++
        sections n.offBanks bankBytes (bankCells s c) n.banks)))))))

/-! ## The transfer, page by page -/

/-- Up to 4,096 bytes of an image performed at an address: the lines written whole lose their marks. -/
def State.writePage (s : State) (pa : Nat) (bs : List Byte) : State :=
  if s.revoked pa then s
  else
    let a := s.storeAddr pa
    { s with mem := s.mem.write a bs,
             marks := s.marks.filter (fun e => !decide (a / 128 ≤ e.1 ∧ e.1 < a / 128 + bs.length / 128)) }
/-- The first `len` bytes of an image written under TROOT, page by page; none when one cannot be translated.
Log entry 29 (DESIGN CHOICE). -/
def State.writePages (part va len : Nat) (image : Memory) : Nat → Nat → State → Option State
  | 0, _, s => some s
  | n + 1, i, s =>
    match s.xlatePart part (va + 4096 * i) true with
    | none => none
    | some pa =>
      State.writePages part va len image n (i + 1)
        (s.writePage pa (image.bytes (4096 * i) (Nat.min 4096 (len - 4096 * i))))
/-- The image that pages hold as a core of a cluster reads them through its switch (R232), and whether a line of them
holds an uncorrectable error; none when a page cannot be translated, or lies behind a window that is not open.
Log entries 29 (DESIGN CHOICE) and 75 (DESIGN CHOICE). -/
def State.readPages (s : State) (cl va : Nat) : Nat → Nat → Option (Memory × Bool)
  | 0, _ => some ([], false)
  | n + 1, i =>
    match s.xlatePart (s.cluster cl).part (va + 4096 * i) false with
    | none => none
    | some pa =>
      let a := s.storeAddr pa
      let page := (s.switchWrites cl pa 4096).foldl (fun m g => m.write (s.storeAddr g.pa) g.bytes) (s.mem.window a 4096)
      let bad := s.marks.any (fun e => decide (a / 128 ≤ e.1 ∧ e.1 < a / 128 + 32) &&
        (match e.2 with | .uncorrectable _ => true | .clean | .poison | .group => false))
      match s.revoked pa, s.readPages cl va n (i + 1) with
      | true, _ | false, none => none
      | false, some (m, b) => some ((page.window a 4096).move a (4096 * i) ++ m, bad || b)
/-- A page has a write at the switch of a cluster that has not been passed on. -/
def State.pagesBehind (s : State) (cl va n : Nat) : Bool :=
  (upTo n 0).any (fun i =>
    match s.xlatePart (s.cluster cl).part (va + 4096 * i) false with
    | none => false
    | some pa => !(s.switchWrites cl pa 4096).isEmpty)

/-! ## At issue -/

/-- CSAVE requires a context that is current or parked; TVAL of its ILL is c[A].
Log entry 77 (DEDUCED). -/
def execCsave (f : SSlot) (s : State) : Res :=
  let v := srcA s f
  let x := fieldOf v 0 3
  slot s f.g (privCheck s ++
    (if saveOperandBad v ∨ !(s.here.ctx x).held then [.trap .ill v] else []) ++ [.csave x (bitOf v 3) (saveVa v)])
/-- A unit that no context holds and that is reserved to no other launch. -/
def unitFree (holder : Bool) (reserved launch : Nat) : Bool := !holder && decide (reserved = 0 ∨ reserved = launch)
/-- The first tile of the lowest free block of `n` tiles of a core (R279). -/
def Core.tileFree (k : Core) (t : Nat) : Bool :=
  !((upTo 4 0).any (fun x => decide ((k.ctx x).status ≠ .free ∧ (k.ctx x).tileBase ≤ t ∧ t < (k.ctx x).tileBase + (k.ctx x).tileCount)))
def Core.tileBlock (k : Core) (n : Nat) : Option Nat :=
  findFrom (fun b => (upTo n b).all k.tileFree) (97 - n) 0
/-- Everything a save area names is free on the core, and the launch's reservations may be taken back (R258, R280). -/
def areaFits (s : State) (c : Nat) (n : Named) (z : Saved) : Bool :=
  let k := s.core c
  let l := z.v.launch
  let q := s.cluster (clusterOf c)
  n.buffers.all (fun i => unitFree (k.buffer i).holder.isSome (k.buffer i).reserved l) &&
  (n.tables.all (fun i => unitFree (k.table i).holder.isSome (k.table i).reserved l) &&
  (n.sets.all (fun i => unitFree (k.tanSet i).holder.isSome (k.tanSet i).reserved l) &&
  (n.fifos.all (fun i => unitFree (q.fifo i).holder.isSome (q.fifo i).reserved l) &&
  (n.ports.all (fun i => (k.port i).holder.isNone) &&
  (n.banks.all (fun b => decide (b < Config.banks ∧ fieldOf (k.bank b).owner 12 4 = 0)) &&
  ((nthD [] z.reserved 0).all (fun i => unitFree false (k.buffer i).reserved l) &&
  ((nthD [] z.reserved 1).all (fun i => unitFree false (k.table i).reserved l) &&
  ((nthD [] z.reserved 2).all (fun i => unitFree false (k.tanSet i).reserved l) &&
  ((nthD [] z.reserved 3).all (fun i => unitFree false (q.fifo i).reserved l) &&
    (k.tileBlock n.tiles).isSome)))))))))
/-- The state a save area stands for. -/
def State.savedIn (s : State) (m : Memory) : Option Saved := s.saved.at? (m.load areaHeld 8)
/-- The header page and the number in the core-held state, as CLOAD finds them. -/
def State.areaHead (s : State) (cl va : Nat) : Option Memory :=
  match s.readPages cl va 1 0, s.readPages cl (va + areaHeld) 1 0 with
  | some (h, _), some (g, _) => some (h ++ g.move 0 areaHeld)
  | some _, none | none, some _ | none, none => none
/-- CLOAD requires a free context, and everything the area names free (R258); it asks nothing of the area's launch, which
may be gone.
Log entry 77 (DEDUCED). -/
def execCload (f : SSlot) (s : State) : Res :=
  let v := srcA s f
  let x := fieldOf v 0 3
  let c := s.cur.core
  slot s f.g (privCheck s ++
    (if saveOperandBad v ∨ (s.here.ctx x).status ≠ .free then [.trap .ill v]
     else
      match s.areaHead (clusterOf c) (saveVa v) with
      | none => [.trap .xlat (BitVec.ofNat 64 (saveVa v))]
      | some m =>
        match headerNamed m, s.savedIn m with
        | some n, some z => if areaFits s c n z then [] else [.trap .ill v]
        | some _, none | none, some _ | none, none => [.trap .ill v]) ++ [.cload x (saveVa v)])

/-! ## CSAVE at its end -/

def heldNumbers {α : Type} (p : α → Bool) (m : FMap α) : List Nat := (m.filter (fun e => p e.2)).map (fun e => e.1)
/-- Numbers in rising order. -/
def sortNumbers (n : Nat) (l : List Nat) : List Nat := (upTo n 0).filter (fun i => l.contains i)
/-- What a context holds. -/
def namedOf (s : State) (c x : Nat) (withBanks : Bool) : Named :=
  let k := s.core c
  let q := s.cluster (clusterOf c)
  { tiles := (k.ctx x).tileCount, buffers := sortNumbers 2 (heldNumbers (fun b => decide (b.holder = some x)) k.buffers),
    tables := sortNumbers 4 (heldNumbers (fun b => decide (b.holder = some x)) k.tables),
    sets := sortNumbers 2 (heldNumbers (fun b => decide (b.holder = some x)) k.sets),
    fifos := sortNumbers 8 (heldNumbers (fun b => decide (b.holder = some (c, x))) q.fifos),
    ports := sortNumbers 10 (heldNumbers (fun b => decide (b.holder = some x)) k.ports),
    banks := if withBanks then sortNumbers Config.banks (k.ownBanks x ++ k.grantedBanks x) else [] }
/-- Entries of a sparse array at the numbers of a list. -/
def pick {α : Type} (f : Nat → α) (l : List Nat) : FMap α := l.map (fun i => (i, f i))
def savedOf (s : State) (c x : Nat) (n : Named) : Saved :=
  let k := s.core c
  let q := s.cluster (clusterOf c)
  let l := (k.ctx x).launch
  { core := c, ctx := x, loaded := false, v := k.ctx x, ports := pick k.port n.ports, buffers := pick k.buffer n.buffers,
    tables := pick k.table n.tables, sets := pick k.tanSet n.sets, fifos := pick q.fifo n.fifos, banks := pick k.bank n.banks,
    joins := k.joins.filter (fun j => decide (j.ctx = x)),
    reserved := [heldNumbers (fun b => decide (b.reserved = l)) k.buffers, heldNumbers (fun b => decide (b.reserved = l)) k.tables,
      heldNumbers (fun b => decide (b.reserved = l)) k.sets, heldNumbers (fun b => decide (b.reserved = l)) q.fifos],
    marks := s.marks.filter (fun e => n.banks.any (fun b =>
      let a := spAddr c (b * Config.bankLines) / 128
      decide (a ≤ e.1 ∧ e.1 < a + Config.bankLines))) }
/-- The parity sweep of a wake: bad rows of tiles that are not allocated are zeroed (R265). -/
def Core.sweep (k : Core) (cyc : Nat) : Core :=
  let hit (n : Nat) : Bool := k.rowHurt (n / 32) (n % 32) && k.tileFree (n / 32)
  { k with
    asleep := false, awakeFrom := cyc + 8192, idleSince := none,
    tiles := k.tiles.filter (fun e => !hit e.1),
    parity := k.parity.filter (fun p => !(decide (locLane 0 0 0 ≤ p) && k.tileFree ((p - locLane 0 0 0) / 1024))) }
/-- The map update of a migration: the bank that lay there takes the place that becomes free (log entry 55). -/
def Core.migrate (k : Core) (bank phys : Nat) : Core :=
  let old := k.physical bank
  let k1 : Core := match findFrom (fun b => decide (k.physical b = phys)) Config.banks 0 with
    | some other => { k with bankMap := k.bankMap.set other old }
    | none => k
  { k1 with bankMap := k1.bankMap.set bank phys }
/-- A core wakes, unless it is awake. -/
def State.wakeCore (s : State) (c : Nat) : State := s.modCore c (fun k => if k.asleep then k.sweep s.cyc else k)
/-- Tiles of a block are zeroed. -/
def Core.zeroTiles (k : Core) (base n : Nat) : Core :=
  { k with tiles := k.tiles.filter (fun e => !decide (32 * base ≤ e.1 ∧ e.1 < 32 * (base + n))) }
/-- A place of a context and of what it holds, by its location number (Table 16.1): its registers and queues, its tiles,
tables, sets, buffers, ports and FIFOs. -/
def placeNamed (k : Core) (x : Nat) (n : Named) (l : Nat) : Bool :=
  let v := k.ctx x
  decide (locLane v.tileBase 0 0 ≤ l ∧ l < locLane (v.tileBase + v.tileCount) 0 0) ||
    (decide (locReg x 0 ≤ l ∧ l < locReg (x + 1) 0 ∨ locP x 0 ≤ l ∧ l < locP (x + 1) 0) ||
      (n.tables.any (fun t => decide (locKnot t 0 ≤ l ∧ l < locKnot (t + 1) 0)) ||
        (n.sets.any (fun t => decide (locRecord t 0 ≤ l ∧ l < locRecord (t + 1) 0)) ||
          (n.buffers.any (fun i => decide (l = locBuffer i)) ||
            (n.ports.any (fun i => decide (l = locPort i)) || n.fifos.any (fun i => decide (l = locFifo i)))))))
/-- Everything a saved context held is free, and zeroed; saved banks go to the pool. TRAPINFO, TPC, TSLOT and TVAL stay.
Log entry 73 (DEDUCED). -/
def State.freeSaved (s : State) (c x : Nat) (n : Named) : State :=
  let s1 := s.modCore c (fun k =>
    let v := k.ctx x
    let k1 := (k.zeroTiles v.tileBase v.tileCount).setCtx x Ctx.blank
    { k1 with
      ports := k1.ports.map (fun e => if n.ports.contains e.1 then (e.1, Port.idle) else e),
      buffers := k1.buffers.map (fun e => if n.buffers.contains e.1 then (e.1, { Buffer.idle with reserved := e.2.reserved }) else e),
      tables := k1.tables.map (fun e => if n.tables.contains e.1 then (e.1, { CurveTable.idle with reserved := e.2.reserved }) else e),
      sets := k1.sets.map (fun e => if n.sets.contains e.1 then (e.1, { TanSet.idle with reserved := e.2.reserved }) else e),
      banks := k1.banks.map (fun e => if n.banks.contains e.1 then (e.1, { Bank.pool with busyUntil := e.2.busyUntil }) else e),
      parity := k1.parity.filter (fun l => !placeNamed k x n l),
      joins := k1.joins.filter (fun j => decide (j.ctx ≠ x)) })
  s1.modCluster (clusterOf c) (fun q =>
    { q with fifos := q.fifos.map (fun e => if n.fifos.contains e.1 then (e.1, { Fifo.idle with reserved := e.2.reserved }) else e) })
/-- A line or another place of what is saved holds an uncorrectable error; it is counted once.
Log entry 49 (DEDUCED). -/
def savedBad (s : State) (c x : Nat) (n : Named) (z : Saved) : Bool :=
  let k := s.core c
  let hurt (m : Mark) : Bool := match m with | .uncorrectable _ => true | .clean | .poison | .group => false
  z.marks.any (fun e => hurt e.2) || ((upTo 157 0).any (fun i => hurt (s.markOf (spAddr c (k.recordFlat x i)))) ||
    k.parity.any (placeNamed k x n))
/-- A transfer fails as a supervisor fault of context 4, whose TVAL is the VA of the area, and changes nothing (R258).
Log entry 77 (DEDUCED). -/
def State.saveFails (s : State) (c : Nat) (cause : Cause) (va : Nat) : State :=
  (s.modCore c (fun k => { k with saving := none })).raise c 4 cause 0 false false 0 0 (BitVec.ofNat 64 va)
/-- Commands of the context that CSAVE waits for: all but those that only join tokens, and its accesses. -/
def saveWaits (k : Core) (x : Nat) : Bool :=
  (k.loadQ ++ (k.runQ ++ (k.ppeQ ++ (k.copyQ ++ (k.chans.map (fun e => e.2.cmd) ++ (k.scaQ ++
    ((match k.loadNow with | none => [] | some r => [r.cmd]) ++ ((match k.runNow with | none => [] | some r => [r.cmd]) ++
      ((match k.drainNow with | none => [] | some r => [r.cmd]) ++
        (match k.scaNow with | none => [] | some r => [r.cmd])))))))))).any (fun j => decide (j.ctx = x)) ||
    (!(k.ctx x).out.isEmpty || !(k.ctx x).releasing.isEmpty)
/-- The area is written under the number the core-held state has, and the context is gone; or the transfer fails, and
memory is as it was.
Log entry 77 (DEDUCED). -/
def State.saveOut (s : State) (core : Nat) (j : SaveJob) (n : Named) (z : Saved) (id : Nat) (s0 : State) : State :=
  if savedBad s core j.ctx n z then (s.modCore core (fun k => k.countError false)).saveFails core .uncr j.va
  else
    match State.writePages (s.cluster (clusterOf core)).part j.va n.bytes (areaImage s core j.ctx n id j.banks) n.pages 0 s0 with
    | none => s.saveFails core .xlat j.va
    | some s1 =>
      ((({ s1 with saved := s1.saved.set id z } : State).freeSaved core j.ctx n).modCore core (fun k =>
        { k with saving := none })).memberEnds ((s.core core).ctx j.ctx).launch core j.ctx .saved
/-- A CSAVE reads a line of the scratchpad: one of its record or of the banks it saves. -/
def savesLine (k : Core) (x : Nat) (n : Named) (flat : Nat) : Bool :=
  n.banks.contains (bankOf flat) || decide (k.recordFlat x 0 ≤ flat ∧ flat < k.recordFlat x 0 + 157)
/-- The scratchpad lines of a CSAVE have been read: an injection fires in the line it is armed for (R275). -/
def State.saveReads (s : State) (c x : Nat) (n : Named) : State :=
  let flat := fieldOf (s.core c).inj 16 22
  if savesLine (s.core c) x n flat then s.firedRead c flat else s
/-- What the context of a CSAVE holds, written away. -/
def State.saveContext (s : State) (core : Nat) (j : SaveJob) : State :=
  let n := namedOf s core j.ctx j.banks
  let t := s.saveReads core j.ctx n
  t.saveOut core j n (savedOf t core j.ctx n) t.newId.1 t.newId.2
/-- CSAVE ends once the context's commands and accesses have: the area is written, and the context is gone (R258). -/
def execCsaveComplete (core : Nat) (s : State) : Res :=
  if Config.cores ≤ core then .fault .noSuchUnit
  else
    match (s.core core).saving with
    | none => .next s
    | some j =>
      if j.load then .next s
      else if saveWaits (s.core core) j.ctx then .next (s.scheduleFree (.csaveComplete core))
      else .next (s.saveContext core j)

/-! ## CLOAD at its end -/

def Cmd.move (x base old : Nat) (k : Cmd) : Cmd := { k with ctx := x, tiles := k.tiles.map (fun t => t - old + base) }
def AccessKind.move (x base old : Nat) : AccessKind → AccessKind
  | .command k => .command (k.move x base old)
  | .loadTile o => .loadTile o
  | .loadReg n => .loadReg n
  | .storeLine v => .storeLine v
  | .storeWord v => .storeWord v
  | .post w v => .post w v
  | .grow v => .grow v
  | .fence m sc => .fence m sc
  | .rel m sc => .rel m sc
  | .acq m => .acq m
/-- A context in its new place: its number in its held commands, and its tiles. -/
def Ctx.move (x base : Nat) (v : Ctx) : Ctx :=
  { v with
    status := .parked, tileBase := base,
    srq := v.srq.map (fun h => { h with kind := h.kind.move x base v.tileBase }),
    kept := v.kept.map (fun e => match e.2 with | .command en k => (e.1, .command en (k.move x base v.tileBase)) | _ => e) }
/-- The bytes of an area's section as numbers of `size` bytes. -/
def areaArray (m : Memory) (off size count : Nat) : FMap Nat :=
  (upTo count 0).map (fun i => (i, m.load (off + size * i) size))
def bufferFrom (m : Memory) (off : Nat) (b : Buffer) : Buffer :=
  { b with lines := b.lines.map (fun e => (e.1, BitVec.ofNat 1024 (m.load (off + 128 * e.1) 128))) }
def tableFrom (m : Memory) (off : Nat) (t : CurveTable) : CurveTable :=
  { t with knots := (areaArray m off 16 64).map (fun e => (e.1, BitVec.ofNat 128 e.2)) }
def setFrom (m : Memory) (off : Nat) (t : TanSet) : TanSet :=
  { t with recs := (areaArray m off 16 256).map (fun e => (e.1, BitVec.ofNat 128 e.2)),
           counts := (areaArray m (off + 4096) 2 256).map (fun e => (e.1, BitVec.ofNat 16 e.2)) }
def fifoFrom (m : Memory) (off : Nat) (q : Fifo) : Fifo :=
  { q with lines := q.lines.zipIdx.map (fun e => BitVec.ofNat 1024 (m.load (off + 128 * e.2) 128)) }
/-- The owner a bank has in the new place. -/
def movedOwner (old x : Nat) (code : BitVec 16) : BitVec 16 := if code = lCode old then lCode x else code
def bankFrom (m : Memory) (off old x busy : Nat) (b : Bank) : Bank :=
  { b with owner := movedOwner old x b.owner, grantor := b.grantor.map (fun _ => x), busyUntil := busy,
           tags := (areaArray m (off + 2 ^ 20) 2 128).map (fun e => (e.1, tagOf e.2)), nv := m.load (off + 2 ^ 20 + 256) 1 }
/-- Each number of a list with its place in its section. -/
def places (off size : Nat) (l : List Nat) : List (Nat × Nat) := l.zipIdx.map (fun e => (e.1, off + e.2 * size))
/-- The units of an area set up again on a core. -/
def Core.takeArea (k : Core) (x base : Nat) (m : Memory) (n : Named) (z : Saved) : Core :=
  let l := z.v.launch
  let k0 := k.setCtx x (z.v.move x base)
  let k1 := { k0 with
    tiles := (upTo (32 * n.tiles) 0).foldl (fun t i => t.set (32 * base + i) (BitVec.ofNat 1024 (m.load (areaTiles + 128 * i) 128))) k0.tiles,
    ports := n.ports.foldl (fun t i => t.set i { z.ports.get Port.idle i with
      holder := some x, kend := (z.ports.get Port.idle i).kend.map (fun e => (e.1, x)) }) k0.ports,
    joins := k0.joins ++ z.joins.map (Cmd.move x base z.v.tileBase) }
  let k2 := (places n.offBuffers bufferBytes n.buffers).foldl (fun t e =>
    t.setBuffer e.1 { bufferFrom m e.2 (z.buffers.get Buffer.idle e.1) with holder := some x, reserved := l }) k1
  let k3 := (places n.offTables tableBytes n.tables).foldl (fun t e =>
    t.setTable e.1 { tableFrom m e.2 (z.tables.get CurveTable.idle e.1) with holder := some x, reserved := l }) k2
  let k4 := (places n.offSets setBytes n.sets).foldl (fun t e =>
    t.setTanSet e.1 { setFrom m e.2 (z.sets.get TanSet.idle e.1) with holder := some x, reserved := l }) k3
  let k5 := (places n.offBanks bankBytes n.banks).foldl (fun t e =>
    t.setBank e.1 (bankFrom m e.2 z.ctx x (t.bank e.1).busyUntil (z.banks.get Bank.pool e.1))) k4
  let k6 := (nthD [] z.reserved 0).foldl (fun t i => t.setBuffer i { t.buffer i with reserved := l }) k5
  let k7 := (nthD [] z.reserved 1).foldl (fun t i => t.setTable i { t.table i with reserved := l }) k6
  (nthD [] z.reserved 2).foldl (fun t i => t.setTanSet i { t.tanSet i with reserved := l }) k7
/-- The lines of saved banks with their marks, the record, and the cluster's FIFOs. -/
def State.takeMemory (s : State) (c x : Nat) (m : Memory) (n : Named) (z : Saved) : State :=
  let s1 := (places n.offBanks bankBytes n.banks).foldl (fun t e =>
    let a := spAddr c (e.1 * Config.bankLines)
    let old := spAddr z.core (e.1 * Config.bankLines)
    let mine := z.marks.filter (fun q => decide (old / 128 ≤ q.1 ∧ q.1 < old / 128 + Config.bankLines))
    { t with
      mem := t.mem.write a (m.bytes e.2 (2 ^ 20)),
      marks := mine.foldl (fun w q => w.set (q.1 - old / 128 + a / 128) q.2)
        (t.marks.filter (fun q => !decide (a / 128 ≤ q.1 ∧ q.1 < a / 128 + Config.bankLines))) }) s
  let s2 := State.writeLines c ((s.core c).recordFlat x 0) (fun i => BitVec.ofNat 1024 (m.load (areaRecord + 128 * i) 128)) 157 0 s1
  s2.modCluster (clusterOf c) (fun q =>
    let q1 := (places n.offFifos fifoBytes n.fifos).foldl (fun t e =>
      t.setFifo e.1 { fifoFrom m e.2 (z.fifos.get Fifo.idle e.1) with holder := some (c, x), reserved := z.v.launch }) q
    (nthD [] z.reserved 3).foldl (fun t i => t.setFifo i { t.fifo i with reserved := z.v.launch }) q1)
/-- The context's place in its launch. -/
def State.rejoin (s : State) (c x : Nat) (z : Saved) : State :=
  match s.launchOf z.v.launch with
  | none => s
  | some l =>
    s.setLaunch { l with members := l.members.map (fun m =>
      if m.vcore = z.v.vcore then { m with core := c, ctx := x, state := .active } else m) }
/-- The ports and engines of a restored context look again. -/
def State.wakeContext (s : State) (c : Nat) : State := (s.wakePorts c).wake c
/-- Everything that an area names set up on a core for a context, whose tiles begin at `base`. -/
def State.takeContext (s : State) (core : Nat) (j : SaveJob) (n : Named) (z : Saved) (id base : Nat) (m : Memory) : State :=
  let s1 := (s.takeMemory core j.ctx m n z).modCore core (fun k =>
    { k.takeArea j.ctx base m n z with saving := none })
  (({ s1 with saved := s1.saved.set id { z with loaded := true } } : State).rejoin core j.ctx z).wakeContext core
/-- The area is read, checked, and taken; or the transfer fails. Layers of its banks that are off are powered first
(R305), and writes to the area that stand at the cluster's switch are passed on first, so that a line is read in one
action (R232, R233). -/
def State.loadIn (s : State) (core : Nat) (j : SaveJob) (n : Named) (z : Saved) (id : Nat) : State :=
  if !areaFits s core n z then s.saveFails core .ill j.va
  else if !((s.core core).banksOff n.banks).isEmpty then
    (s.powerBanks core n.banks).schedule (s.cyc + 22000) (.cloadComplete core)
  else if s.pagesBehind (clusterOf core) j.va n.pages then s.scheduleFree (.cloadComplete core)
  else
    match s.readPages (clusterOf core) j.va n.pages 0, (s.core core).tileBlock n.tiles with
    | some (m, bad), some base => if bad then s.saveFails core .uncr j.va else s.takeContext core j n z id base m
    | some _, none | none, some _ | none, none => s.saveFails core .xlat j.va
/-- CLOAD ends: the area is read, everything it names is set up on this core, and the context is parked (R258). -/
def execCloadComplete (core : Nat) (s : State) : Res :=
  if Config.cores ≤ core then .fault .noSuchUnit
  else
    match (s.core core).saving with
    | none => .next s
    | some j =>
      if !j.load then .next s
      else
        match s.areaHead (clusterOf core) j.va with
        | none => .next (s.saveFails core .xlat j.va)
        | some h =>
          match headerNamed h, s.savedIn h with
          | some n, some z => .next (s.loadIn core j n z (h.load areaHeld 8))
          | some _, none | none, some _ | none, none => .next (s.saveFails core .ill j.va)

end Sys2Proof.Machine
end

