-- ==== Sys2Proof/Machine/Sca.lean ====
section
/-!
DEFINITION. The scatter-accumulate engine (R223 to R226): the two commands at issue, the start of a command, the
windows of 64 updates, the returned old values, and the completion.
-/
namespace Sys2Proof.Machine

/-! ## Issue (R222, R223, R226) -/

def scaWide (c : Cmd) : Bool := decide (modeField c.f 3 1 = 1)
/-- The size of a word in bytes, and values per line. -/
def scaSize (c : Cmd) : Nat := if scaWide c then 8 else 4
def scaPerLine (c : Cmd) : Nat := 128 / scaSize c
/-- Entries of the index stream. -/
def scaEntries (c : Cmd) : Nat := 32 * Descr.product c.da
/-- The refusals of R222 and the issue of a command. TVAL names DA for counts that do not match, and DB for a return port
that is not held.
Log entry 79 (DESIGN CHOICE). -/
def scaIssue (f : ESlot) (op : Nat) (ports : List Nat) (s : State) : Res :=
  let c := newCommand s f op [] ports
  slot s f.g
    (illWith (Descr.glb c.da || decide (scaEntries c ≠ scaPerLine c * Descr.product c.db)) f.da.toNat ++
      illWith (Descr.glb c.db) f.db.toNat ++ illWith (ports.any (portNotHeld s)) f.db.toNat ++
      lentWaits s ports ++ commandWait s f false ++ [.command .sca c])
def execScaUpd (f : ESlot) (s : State) : Res := scaIssue f 0x30 [] s
def execScaFupd (f : ESlot) (s : State) : Res := scaIssue f 0x31 [6 + fieldOf f.f 0 2] s

/-! ## Updates (R224) -/

/-- The new value of a word (R224). -/
def scaApply (c : Cmd) (old v : Nat) : Nat :=
  let w := 8 * scaSize c
  let op := modeField c.f 0 3
  let flt := modeField c.f 4 1 = 1
  if op = 0 then (old + v) % 2 ^ w
  else if op = 1 then (add32 0 old v).1
  else if op = 2 then
    (if flt then elemMax 0 old v else if signedOf w old < signedOf w v then v else old)
  else if op = 3 then
    (if flt then elemMin 0 old v else if signedOf w v < signedOf w old then v else old)
  else if op = 4 then old ||| v
  else if op = 5 then old &&& v
  else v
/-- Where a word lies: in the model's memory, in a scratchpad line of a core or not, or the fault of its address. -/
inductive Target where
  | word (a : Nat) (line : Option (Nat × Nat))
  | bad (status : BitVec 8) (addr : Nat)
  deriving DecidableEq, Repr
/-- A word in a scratchpad line that an engine of the core's KIND 7 may change for a launch. -/
def State.lineTarget (s : State) (actor : Option Nat) (core flat byte : Nat) : Target :=
  let st := (s.core core).accessStatus 7 actor (flat : Nat)
  if st ≠ 0 then .bad st flat
  else if markStatus (s.readMark core flat) ≠ 0 then .bad (markStatus (s.readMark core flat)) flat
  else .word (spAddr core flat + byte) (some (core, flat))
/-- The target of index `x` (R223, R225).
Log entry 40 (DEDUCED). -/
def State.scaTarget (s : State) (c : Nat) (cmd : Cmd) (x : Nat) : Target × State :=
  let size := scaSize cmd
  let aux := Descr.aux cmd.db
  if modeField cmd.f 5 1 = 0 then
    let a := aux * 128 + x * size
    (s.lineTarget (s.actsFor c cmd.ctx) c (a / 128) (a % 128), s)
  else
    let va := (aux + x * size) % 2 ^ 64
    if va % size ≠ 0 then (.bad stBrange va, s)
    else
      match apertureOf va with
      | some (vcore, flat, byte) =>
        (match s.coreOf (s.ctx c cmd.ctx).launch vcore with
        | some core => (s.lineTarget (s.actsFor c cmd.ctx) core flat byte, s)
        | none => (.bad stXlat va, s))
      | none =>
        match s.xlateNow (clusterOf c) va size true true true with
        | (some pa, s1) =>
          (if s1.revoked pa then .bad stRevoked va
           else if markStatus (s1.markOf (s1.storeAddr pa)) ≠ 0 then .bad (markStatus (s1.markOf (s1.storeAddr pa))) va
           else .word (s1.storeAddr pa) none, s1)
        | (none, s1) => (.bad stXlat va, s1)
/-- A word changed in one action: a line keeps no group-boundary mark, and a valid tag slot becomes dirty. -/
def State.putWord (s : State) (a size v : Nat) (line : Option (Nat × Nat)) : State :=
  let s1 := { s with mem := s.mem.store a size v }
  match line with
  | none => s1
  | some (core, flat) =>
    let s2 := if s1.markOf (spAddr core flat) = .group then s1.setMark (spAddr core flat) .clean else s1
    s2.modCore core (fun k => k.setBank (bankOf flat) ((k.bank (bankOf flat)).wrote flat))

/-! ## Windows (R225) -/

/-- The status of an access to a line of a local stream. -/
def State.streamStatus (s : State) (c : Nat) (cmd : Cmd) (flat : Int) : BitVec 8 :=
  let st := (s.core c).accessStatus 7 (s.actsFor c cmd.ctx) flat
  if st ≠ 0 then st else markStatus (s.readMark c flat.toNat)
/-- The lines of a window's streams: `n` entries from entry `i` on. -/
def streamLines (cmd : Cmd) (i n : Nat) : List Int :=
  (upTo ((n + 31) / 32) (i / 32)).map (Descr.flatAt cmd.da) ++
    (upTo ((n + scaPerLine cmd - 1) / scaPerLine cmd) (i / scaPerLine cmd)).map (Descr.flatAt cmd.db)
/-- The first fault of a list of stream lines. -/
def State.streamFault (s : State) (c : Nat) (cmd : Cmd) : List Int → Option (BitVec 8 × Nat)
  | [] => none
  | flat :: l =>
    let st := s.streamStatus c cmd flat
    if st ≠ 0 then some (st, flatAddr flat) else s.streamFault c cmd l
/-- Entries `i` and later, `n` of them, each an index and a value.
Log entry 41 (DEDUCED). -/
def State.scaEntriesFrom (s : State) (c : Nat) (cmd : Cmd) (n i : Nat) : List (Nat × Nat) :=
  (upTo n i).map (fun j =>
    (elemOf 32 (s.readFlat c (Descr.flatAt cmd.da (j / 32)).toNat) (j % 32),
     elemOf (8 * scaSize cmd) (s.readFlat c (Descr.flatAt cmd.db (j / scaPerLine cmd)).toNat) (j % scaPerLine cmd)))
/-- The targets of a window's updates, none for a skipped index; or the first fault.
Log entry 41 (DEDUCED). -/
def State.scaTargets (c : Nat) (cmd : Cmd) : List (Nat × Nat) → State → Except (BitVec 8 × Nat) (List (Option (Nat × Option (Nat × Nat)))) × State
  | [], s => (.ok [], s)
  | (x, _) :: es, s =>
    if x = 0xFFFFFFFF then
      match State.scaTargets c cmd es s with
      | (.ok ts, s1) => (.ok (none :: ts), s1)
      | (.error e, s1) => (.error e, s1)
    else
      match s.scaTarget c cmd x with
      | (.bad st a, s1) => (.error (st, a), s1)
      | (.word a line, s1) =>
        match State.scaTargets c cmd es s1 with
        | (.ok ts, s2) => (.ok (some (a, line) :: ts), s2)
        | (.error e, s2) => (.error e, s2)
/-- The updates of a window in stream order, with the old values; a skipped index returns 0. -/
def State.scaUpdates (cmd : Cmd) : List (Option (Nat × Option (Nat × Nat))) → List (Nat × Nat) → State → List Nat × State
  | some (a, line) :: ts, (_, v) :: es, s =>
    let old := s.mem.load a (scaSize cmd)
    let (rs, s1) := State.scaUpdates cmd ts es (s.putWord a (scaSize cmd) (scaApply cmd old v) line)
    (old :: rs, s1)
  | none :: ts, _ :: es, s =>
    let (rs, s1) := State.scaUpdates cmd ts es s
    (0 :: rs, s1)
  | [], _, s => ([], s)
  | _ :: _, [], s => ([], s)
/-- Lines of old values. -/
def oldLines (per : Nat) : Nat → List Nat → List Line
  | 0, _ => []
  | n + 1, l => BitVec.ofNat 1024 (packList (1024 / per) (l.take per)) :: oldLines per n (l.drop per)
def State.setSca (s : State) (c : Nat) (r : Scattering) : State := s.modCore c (fun k => { k with scaNow := some r })
/-- The command goes on with its next window after a delay the spec leaves open, or ends. Once the last window has been
applied every read of the command has returned and every write has been performed (R107, R230). -/
def State.scaNext (s : State) (c : Nat) (r : Scattering) : State :=
  let s0 := if scaEntries r.cmd ≤ 64 * r.window then s.performedTo c r.cmd.ctx r.access .system else s
  if scaEntries r.cmd ≤ 64 * r.window ∧ r.outq.isEmpty then
    (s0.setSca c { r with ending := true }).schedule (s.cyc + 1) (.scaCommandComplete c)
  else
    let (d, s1) := s0.drawDelay
    (s1.setSca c { r with due := s.cyc + 1 + d }).schedule (s.cyc + 1 + d) (.scaWindowApply c)
def State.scaFault (s : State) (c : Nat) (r : Scattering) (st : BitVec 8) (a : Nat) : State :=
  (s.setSca c { r with ending := true, outq := [], stop := some { pos := r.window, status := st, addr := a } }).schedule
    (s.cyc + 1) (.scaCommandComplete c)
/-- The accesses of a phase are to be made; one without any goes on at once. -/
def State.scaAccesses (s : State) (c : Nat) (r : Scattering) (todo : List (Nat × Nat)) : State :=
  (s.setSca c { r with todo := todo, due := s.cyc, last := s.cyc }).schedule s.cyc (.scaWindowApply c)
/-- The next access of a phase, once its bank is free and in no refresh window (R48, R49, R61): the bank becomes busy,
and the phase goes on when the last of its accesses has ended. -/
def State.scaAccess (s : State) (c : Nat) (r : Scattering) (d flat : Nat) (rest : List (Nat × Nat)) : State :=
  let k := s.core d
  if k.lineFree flat s.cyc then
    let last := Nat.max r.last (s.cyc + busyTime flat)
    let due := if rest.isEmpty then last else s.cyc + 1
    let (_, _, s1) := s.engineRead d flat
    (s1.setSca c { r with todo := rest, last := last, due := due }).schedule due (.scaWindowApply c)
  else s.schedule (k.streamTime (bankOf flat) (busyTime flat) s.cyc) (.scaWindowApply c)
/-- The number of updates of the next window. -/
def Scattering.size (r : Scattering) : Nat := Nat.min 64 (scaEntries r.cmd - 64 * r.window)
/-- A window begins: the lines of its streams are to be read. -/
def State.scaStreams (s : State) (c : Nat) (r : Scattering) : State :=
  let ls := streamLines r.cmd (64 * r.window) r.size
  match (ls.find? (fun f => decide ((s.core c).accessStatus 7 (s.actsFor c r.cmd.ctx) f ≠ 0))) with
  | some f => s.scaFault c r ((s.core c).accessStatus 7 (s.actsFor c r.cmd.ctx) f) (flatAddr f)
  | none => s.scaAccesses c { r with phase := .streams } (ls.map (fun f => (c, f.toNat)))
/-- The scratchpad lines of a window's targets, each once. -/
def targetLines : List (Option (Nat × Option (Nat × Nat))) → List (Nat × Nat) → List (Nat × Nat)
  | some (_, some l) :: ts, seen => if l ∈ seen then targetLines ts seen else targetLines ts (seen ++ [l])
  | some (_, none) :: ts, seen => targetLines ts seen
  | none :: ts, seen => targetLines ts seen
  | [], seen => seen
/-- The streams have been read: the accesses to the targets' lines are to be made.
Log entry 41 (DEDUCED). -/
def State.scaTargetPhase (s : State) (c : Nat) (r : Scattering) : State :=
  match s.streamFault c r.cmd (streamLines r.cmd (64 * r.window) r.size) with
  | some (st, a) => s.scaFault c r st a
  | none =>
    let es := s.scaEntriesFrom c r.cmd r.size (64 * r.window)
    match State.scaTargets c r.cmd es s with
    | (.error (st, a), s1) => s1.scaFault c r st a
    | (.ok ts, s1) => s1.scaAccesses c { r with phase := .targets, entries := es } (targetLines ts [])
/-- Where index `x`'s update goes to when its word lies behind a peer window. -/
def State.scaRequest (s : State) (c : Nat) (cmd : Cmd) (x : Nat) : Option Nat :=
  let va := (Descr.aux cmd.db + x * scaSize cmd) % 2 ^ 64
  if modeField cmd.f 5 1 = 0 ∨ x = 0xFFFFFFFF ∨ apertureVa va then none
  else
    match (s.xlateNow (clusterOf c) va (scaSize cmd) true true true).1 with
    | none => none
    | some pa => (match placeOf pa with | .window _ => some pa | .hbm | .host | .scratch _ => none)
/-- Requests for updates are sent to peers (R311). -/
def State.sendUpdates (c : Nat) : List Nat → State → State
  | [], s => s
  | pa :: l, s => State.sendUpdates c l ((s.firedFlit c pa).inflight pa true)
/-- Updates sent to peers have been answered. -/
def State.answered (l : List Nat) (s : State) : State := l.foldl (fun t pa => t.inflight pa false) s
/-- One window applied: every update in stream order, or, when one of them meets a fault, none (R225 allows it). An atomic
is served where its word lies, so it waits for writes of its cluster that the switch has not passed on (R232, R233); one
behind a peer window waits while flits to the peer have stopped (R311).
Log entry 41 (DEDUCED). -/
def State.applyWindow (s : State) (c : Nat) (r : Scattering) : State :=
  let cmd := r.cmd
  match State.scaTargets c cmd r.entries s with
  | (.error (st, a), s1) => (State.answered r.sent s1).scaFault c { r with sent := [] } st a
  | (.ok ts, s1) =>
    if ts.any (fun t => match t with | some (a, _) => s1.switchHolds (clusterOf c) a (scaSize cmd) | none => false) ||
        r.sent.any s1.flitsStopped then
      s1.scheduleFree (.scaWindowApply c)
    else
      let (rs, s2) := State.scaUpdates cmd ts r.entries (State.answered r.sent s1)
      let out := if cmd.op = 0x31 then oldLines (scaPerLine cmd) (r.size / scaPerLine cmd) rs else []
      s2.scaNext c { r with window := r.window + 1, phase := .idle, entries := [], sent := [], outq := r.outq ++ out }
/-- The accesses to the targets' lines have been made: the updates behind peer windows are sent, and the window is applied
when they are answered, or at once when there are none. -/
def State.sendWindow (s : State) (c : Nat) (r : Scattering) : State :=
  let pas := r.entries.filterMap (fun e => s.scaRequest c r.cmd e.1)
  if pas.isEmpty then s.applyWindow c r
  else
    let (d, s1) := (State.sendUpdates c pas s).drawDelay
    (s1.setSca c { r with phase := .answers, sent := pas, due := s.cyc + 1 + d }).schedule (s.cyc + 1 + d) (.scaWindowApply c)
/-- A line of old values pushed into the return port; a full port delays it (R226). -/
def State.scaPush (s : State) (c : Nat) (r : Scattering) (v : Line) (vs : List Line) (n : Nat) : State :=
  let p := (s.core c).port n
  match p.fault with
  | some (cause, a) => s.scaFault c r cause.code a
  | none =>
    if 16 ≤ p.fifo.length + p.reserved ∨ Descr.product p.cfg ≤ p.pos + p.reserved then
      s.schedule (s.cyc + 1) (.scaWindowApply c)
    else
      let r1 := { r with outq := vs }
      let s1 := ((s.modCore c (fun k => k.setPort n { p with fifo := p.fifo ++ [{ val := v, flg := 0 }], pos := p.pos + 1 })).setSca
        c r1).schedule s.cyc (.writePortWrite c (n - 6))
      if vs.isEmpty then s1.scaNext c r1 else s1.schedule (s.cyc + 1) (.scaWindowApply c)
/-- The access of the running command may begin (R211). -/
def State.scaMayBegin (s : State) (c : Nat) (r : Scattering) : Bool :=
  match (s.ctx c r.cmd.ctx).findAccess r.access with
  | none => false
  | some a => !decide (a.progress = .waiting)
def execScaWindowApply (core : Nat) (s : State) : Res :=
  if Config.cores ≤ core then .fault .noSuchUnit
  else
    match (s.core core).scaNow with
    | none => .next s
    | some r =>
      if r.ending || !s.scaMayBegin core r then .next s
      else
        match r.outq, r.cmd.ports with
        | v :: vs, n :: _ => .next (s.scaPush core r v vs n)
        | _ :: _, [] | [], _ =>
          if s.cyc < r.due then .next s
          else
            match r.todo with
            | (d, flat) :: rest => .next (s.scaAccess core r d flat rest)
            | [] =>
              (match r.phase with
              | .idle =>
                if scaEntries r.cmd ≤ 64 * r.window then .next (s.scaNext core { r with outq := [] })
                else .next (s.scaStreams core r)
              | .streams => .next (s.scaTargetPhase core r)
              | .targets => .next (s.sendWindow core r)
              | .answers => .next (s.applyWindow core r))

/-! ## Start and completion -/

def execScaCommandStart (core : Nat) (s : State) : Res :=
  if Config.cores ≤ core then .fault .noSuchUnit
  else
    let k := s.core core
    match k.scaNow, k.scaQ with
    | none, c :: q =>
      let start := Nat.max c.at_ (inputsCycle c.ins) + 2
      if s.halted core || !inputsDone c.ins then .next s
      else if s.cyc < start ∧ (inputStatus c.ins).1 = 0 then .next (s.schedule start (.scaCommandStart core))
      else
        let num := match (s.ctx core c.ctx).accessOf c.id with | some a => a.num | none => 0
        let r : Scattering :=
          { cmd := c, access := num, window := 0, phase := .idle, todo := [], entries := [], due := s.cyc, last := s.cyc,
            sent := [], outq := [], stop := none, ending := false }
        let s1 := (s.setCore core { k with scaQ := q }).retryRelease core
        let (st, a) := inputStatus c.ins
        if st ≠ 0 then
          .next ((s1.setSca core { r with ending := true, stop := some { pos := 0, status := st, addr := a } }).schedule s.cyc
            (.scaCommandComplete core))
        else .next ((s1.setSca core r).schedule s.cyc (.scaWindowApply core))
    | some _, _ | none, [] => .next s
/-- The returned lines have not all been written by the port, to the end of the last busy window (R198, R226). -/
def Core.scaPending (k : Core) (r : Scattering) (cyc : Nat) : Bool :=
  r.cmd.ports.any (fun n =>
    (!(k.port n).fifo.isEmpty || decide (cyc < (k.port n).performed)) && (k.port n).fault.isNone)
def scaStatus (k : Core) (r : Scattering) : BitVec 8 × Nat :=
  match r.stop with
  | some q => (q.status, q.addr)
  | none =>
    match r.cmd.ports with
    | n :: _ => (match (k.port n).fault with | some (c, a) => (c.code, a) | none => (0, 0))
    | [] => (0, 0)
def execScaCommandComplete (core : Nat) (s : State) : Res :=
  if Config.cores ≤ core then .fault .noSuchUnit
  else
    let k := s.core core
    match k.scaNow with
    | none => .next s
    | some r =>
      if !r.ending || k.scaPending r s.cyc then .next s
      else
        let (st, a) := scaStatus k r
        let s1 := s.setCore core { k with scaNow := none }
        .next ((((s1.finishAccess core r.cmd.ctx r.access 0 0).complete core r.cmd st a).schedule s.cyc
          (.scaCommandStart core)).retryRelease core)

end Sys2Proof.Machine
end

