-- ==== Sys2Proof/Machine/Bundle.lean ====
section
/-!
DEFINITION. A bundle as the decoder sees it: what each slot reads and writes, the refusals of Table 4.16 that need the
whole bundle or the issuing context, and the meaning of one slot (the same meanings that exec calls).
-/
namespace Sys2Proof.Machine

/-! ## What a slot reads and writes -/

/-- A destination that two slots of a bundle may share (R82). -/
inductive Written where
  | creg (n : Nat)
  | pred (k : Nat)
  | qmask (n : Nat)
  | line (v : BitVec 14)
  | dreg (n : Nat)
  | special (n : Nat)
  | sync (n : Nat)
  | ereg (n : Nat)
  /-- A write port that an E command fills. -/
  | port (n : Nat)
  deriving DecidableEq, Repr

/-- What a slot names: its guard, the c registers it reads, its destinations, the vector operands it reads, the bank it
names by immediate, the port it names (and whether it configures or stops it), and the first tile an E command names. -/
structure Uses where
  guard : BitVec 4
  creads : List Nat
  writes : List Written
  lines : List (BitVec 14)
  bank : Option Nat
  port : Option (Nat × Bool)
  tile : Option Nat
  deriving DecidableEq, Repr

/-- A slot that names nothing but its guard. -/
def Uses.plain (g : BitVec 4) : Uses :=
  { guard := g, creads := [], writes := [], lines := [], bank := none, port := none, tile := none }
/-- A move's destination: a c register or a tile row. -/
def moveTarget (p : Nat) : List Written :=
  if p = 0 then []
  else if 0x400 ≤ p then [.line (BitVec.ofNat 14 (p - 0x400))]
  else if 0x100 ≤ p then [.creg (p - 0x100)]
  else []
def moveUses (f : Move) : Uses :=
  let src := f.src.toNat
  { Uses.plain f.g with
    creads := if 0x100 ≤ src ∧ src < 0x140 then [src - 0x100] else [],
    writes := moveTarget f.dst.toNat,
    lines := if 0x400 ≤ src then [BitVec.ofNat 14 (src - 0x400)] else [] }
/-- What an instruction names; nothing for a step of the part. CALL's c63 and the predicate pairs 4 to 7 of STAGE, which no
field names and the list of R82 does not count, are destinations like those a field names.
Log entry 76 (DEDUCED). -/
def usesOf : Instr → Uses
  | .add f | .sub f | .mul f | .mulh f | .mulhn f | .and f | .or f | .xor f | .shl f | .shr f | .sar f | .min f
  | .max f | .minn f | .maxn f | .sel f | .add32 f =>
    { Uses.plain f.g with creads := [f.a.toNat, f.b.toNat], writes := [.creg f.d.toNat] }
  | .addi f | .muli f | .andi f | .ori f | .xori f | .shli f | .shri f | .sari f | .clz f | .popc f =>
    { Uses.plain f.g with creads := [f.a.toNat], writes := [.creg f.d.toNat] }
  | .movi f | .swaitany f | .claim f | .mfs f =>
    { Uses.plain f.g with writes := [.creg f.d.toNat] }
  | .movhi f =>
    { Uses.plain f.g with creads := [f.d.toNat], writes := [.creg f.d.toNat] }
  | .addp f =>
    { Uses.plain f.g with creads := [f.a.toNat, f.a.toNat + 1, f.b.toNat, f.b.toNat + 1], writes := [.creg f.d.toNat, .creg (f.d.toNat + 1)] }
  | .mulw f =>
    { Uses.plain f.g with creads := [f.a.toNat, f.b.toNat], writes := [.creg f.d.toNat, .creg (f.d.toNat + 1)] }
  | .cmpEq f | .cmpNe f | .cmpLt f | .cmpLe f | .cmpLtn f | .cmpLen f =>
    { Uses.plain f.g with creads := [f.a.toNat, f.b.toNat], writes := [.pred f.d.toNat] }
  | .cmpiEq f | .cmpiNe f | .cmpiLt f | .cmpiLe f | .cmpiLtn f | .cmpiLen f =>
    { Uses.plain f.g with creads := [f.a.toNat], writes := [.pred f.d.toNat] }
  | .pand f | .por f | .pxor f | .pset f =>
    { Uses.plain f.g with writes := [.pred f.d.toNat] }
  | .br f | .loop f | .loopi f | .lexit f | .kwait f | .fence f | .rel f | .acq f | .seg f | .rdv f | .mark f
  | .yield f | .trap f | .sys f | .end_ f | .tret f | .waiti f =>
    Uses.plain f.g
  | .brx f | .swait f | .spost f | .grow f | .csave f | .cload f | .tlbi f =>
    { Uses.plain f.g with creads := [f.a.toNat] }
  | .call f =>
    { Uses.plain f.g with writes := [.creg 63] }
  | .ret f =>
    { Uses.plain f.g with creads := [63] }
  | .stage f =>
    { Uses.plain f.g with writes := [.pred 4, .pred 5, .pred 6, .pred 7] }
  | .yset f =>
    { Uses.plain f.g with creads := [f.a.toNat], writes := [.sync f.d.toNat] }
  | .chk f =>
    { Uses.plain f.g with creads := [f.a.toNat, f.b.toNat] }
  | .chkp f =>
    { Uses.plain f.g with creads := [f.a.toNat, f.a.toNat + 1, f.b.toNat, f.b.toNat + 1] }
  | .mts f | .pwinWrite f | .trapinfoDismiss f | .snapWrite f | .injWrite f | .trootWrite f
  | .dbgControlWrite f | .dbgBreakpointWrite f | .dbgWatchWrite f =>
    { Uses.plain f.g with creads := [f.a.toNat], writes := [.special (specialOf f)] }
  | .vadd f | .vsub f | .vmul f | .vmin f | .vmax f | .vminn f | .vmaxn f | .vsel f | .vdif f | .vand f
  | .vor f | .vxor f | .vshl f | .vshr f | .vsar f | .vmulh f | .vmulhn f | .vsrnd f | .vperm f =>
    { Uses.plain f.g with writes := [.line f.d], lines := [f.a, f.b] }
  | .vfma f | .vfms f =>
    { Uses.plain f.g with writes := [.line f.d], lines := [f.a, f.b, f.d] }
  | .vabs f | .vneg f | .vmov f | .vnot f | .vclz f | .vpopc f | .vcvt f | .vqpack f | .vqunpk f | .vscl f
  | .vrnd f | .vrsum f | .vrmax f | .vrmin f | .vrot f | .vbcast f | .vins f | .vext f | .vexp2 f | .vlog2 f
  | .vrcp f | .vrsq f =>
    { Uses.plain f.g with writes := [.line f.d], lines := [f.a] }
  | .vcmpEq f | .vcmpNe f | .vcmpLt f | .vcmpLe f | .vcmpLtn f | .vcmpLen f =>
    { Uses.plain f.g with writes := [.qmask f.d.toNat], lines := [f.a, f.b] }
  | .vqand f | .vqor f | .vqxor f =>
    { Uses.plain f.g with writes := [.qmask f.d.toNat] }
  | .vqcnt f | .vqfirst f | .vidx f =>
    { Uses.plain f.g with writes := [.line f.d] }
  | .vbscl f =>
    { Uses.plain f.g with writes := [.line f.d], lines := [f.a, f.d] }
  | .vchk f =>
    { Uses.plain f.g with lines := [f.a, f.b] }
  | .ld f =>
    { Uses.plain f.g with writes := [.line f.opnd], bank := some f.bank.toNat }
  | .ldx f | .gld f =>
    { Uses.plain f.g with creads := [f.c.toNat], writes := [.line f.opnd] }
  | .st f =>
    { Uses.plain f.g with lines := [f.opnd], bank := some f.bank.toNat }
  | .stx f | .gst f =>
    { Uses.plain f.g with creads := [f.c.toNat], lines := [f.opnd] }
  | .lds f | .tlk f | .bqry f =>
    { Uses.plain f.g with writes := [.creg f.c.toNat], bank := some f.bank.toNat }
  | .sts f | .bown f =>
    { Uses.plain f.g with creads := [f.c.toNat], bank := some f.bank.toNat }
  | .eld f =>
    { Uses.plain f.g with writes := [.ereg f.opnd.toNat], bank := some f.bank.toNat }
  | .prom f | .demo f | .tpin f =>
    { Uses.plain f.g with bank := some f.bank.toNat }
  | .glds f =>
    { Uses.plain f.g with creads := [f.c.toNat], writes := [.creg (fieldOf f.opnd 0 6)] }
  | .gsts f =>
    { Uses.plain f.g with creads := [f.c.toNat, fieldOf f.opnd 0 6] }
  | .dset f =>
    { Uses.plain f.g with writes := [.dreg f.opnd.toNat], bank := some f.bank.toNat }
  | .dsetf f =>
    { Uses.plain f.g with creads := [f.c.toNat], writes := [.dreg f.opnd.toNat] }
  | .dget f =>
    { Uses.plain f.g with writes := [.creg f.c.toNat] }
  | .pcfg f | .pstop f =>
    { Uses.plain f.g with port := some (portOf f.opnd, true) }
  | .pstat f =>
    { Uses.plain f.g with writes := [.creg f.c.toNat], port := some (portOf f.opnd, false) }
  | .xmov f | .xmovl f | .xtrg f | .tanKset f | .tanFit f | .tanEval f | .tanSlope f | .rngSeed f | .rngNext f
  | .crcInit f | .crcLine f =>
    moveUses f
  | .mxWld f | .mxWldg f | .mxWfold f | .mxAccz f | .mxAccb f | .cpyGs f | .cpySg f | .cpySs f | .cpyGg f
  | .cpyXgrf f | .cpyXdn f | .cpyFpr f | .cpyCmp f | .cpyCrc f | .scaUpd f | .cfCfg f | .cfRst f
  | .kjoin f | .ksig f =>
    Uses.plain f.g
  | .scaFupd f =>
    { Uses.plain f.g with writes := [.port (fieldOf f.f 0 2)] }
  | .mxRun f | .mxRung f | .ppeCfg f | .ppeTld f | .ppeTst f | .ppeEcnt f | .cpyFill f =>
    { Uses.plain f.g with tile := some f.t.toNat }
  | .ppeDrain f =>
    { Uses.plain f.g with tile := some f.t.toNat, writes := if fieldOf f.f 2 2 = 1 then [.port f.da.toNat] else [] }
  | .issueCycle _ | .srqEntryEnqueue _ _ | .rewindResume _ _ | .watchdogExpiry _ _ | .engineWatchdogExpiry _ _
  | .claimAnswer _ _ | .nop | .syncPostPerform _ _ _ | .contextRestoreDone _ _ | .csaveComplete _
  | .cloadComplete _ | .globalLoadReturn _ _ _ | .writePerformed _ _ _ _ | .translationWalkDone _ _
  | .readPortFetch _ _ | .writePortWrite _ _ | .matrixCommandStart _ _ | .streamReaderLine _ _
  | .matrixRunStep _ | .matrixCommandComplete _ _ | .ppeCommandStart _ | .ppeLineWrite _
  | .ppeCommandComplete _ | .copyCommandStart _ | .copyUnitRead _ _ | .copyUnitWritePerformed _ _ _
  | .copyCommandComplete _ _ | .scaCommandStart _ | .scaWindowApply _ | .scaCommandComplete _
  | .refreshWindow _ _ | .rfshChange _ | .bankMigration _ _ _ | .repairEntrySwitch _ | .snapshotRecordWrite _ _
  | .supervisorFault _ | .launchSlotWrite _ _ _ _ | .launchCommit _ _ _ | .queueStatusRead _ _
  | .launchPlacement | .launchCompletion _ | .eventSet _ _ _ | .eventClear _ _ _ | .onaetClaim _ _ _
  | .handover _ _ | .cancel _ | .supmsg _ _ _ | .attestationRequest _ _ | .keyInstall _ _ _ _ _
  | .partitionConfig _ _ | .cthrWrite _ _ _ | .powerCapWrite _ _ | .windowOpen _ _ _ _ _ | .windowRevoke _ _
  | .windowFree _ _ | .inboundRequest _ _ _ _ _ | .flitReceive _ _ | .linkRetrain _ | .linkLaneLoss _
  | .sensorSample _ _ _ _ | .layerPowerOn _ _ | .coreSleep _ | .coreWake _ | .powerUp | .bootGo _ _ _
  | .bootFetch _ | .bootVerify | .bootMarchTest _ _ _ | .bootTraining _ _ | .bootBringup
  | .hostMemoryAccess _ _ _ | .linkTrainingComplete _ | .layerPowerOff _ _ =>
    Uses.plain 0

/-! ## The refusals of the whole bundle (R82, R143) -/

/-- Two destinations that are one. -/
def Written.clash : Written → Written → Bool
  | .line u, .line v =>
    (operandOf u).overlaps (operandOf v) ||
      (match operandOf u with
      | .op n => decide (operandOf v = .op n)
      | .row _ _ | .col _ _ | .diag _ _ | .zero | .bc | .ip _ | .bad => false)
  | .creg m, t => decide (t = .creg m)
  | .pred m, t => decide (t = .pred m)
  | .qmask m, t => decide (t = .qmask m)
  | .dreg m, t => decide (t = .dreg m)
  | .special m, t => decide (t = .special m)
  | .sync m, t => decide (t = .sync m)
  | .ereg m, t => decide (t = .ereg m)
  | .port m, .port n => decide (m = n)
  | .port m, .line v | .line v, .port m => decide (operandOf v = .op m)
  | .port _, .creg _ | .port _, .pred _ | .port _, .qmask _ | .port _, .dreg _ | .port _, .special _ | .port _, .sync _
  | .port _, .ereg _ => false
  | .line _, .creg _ | .line _, .pred _ | .line _, .qmask _ | .line _, .dreg _ | .line _, .special _ | .line _, .sync _
  | .line _, .ereg _ => false
/-- Guards of one pair, p2k and p2k+1. -/
def complementary (g h : BitVec 4) : Bool := decide (g ≠ h ∧ g.toNat / 2 = h.toNat / 2)
/-- Ports of a V slot's operands: 0 to 5 read ports, 6 to 9 write ports. -/
def portsRead (u : Uses) : List Nat :=
  u.lines.filterMap (fun v =>
    match operandOf v with
    | .ip n => some n
    | .row _ _ | .col _ _ | .diag _ _ | .zero | .bc | .op _ | .bad => none)
def portsPushed (u : Uses) : List Nat :=
  u.writes.filterMap (fun t =>
    match t with
    | .line v =>
      (match operandOf v with
      | .op n => some (6 + n)
      | .row _ _ | .col _ _ | .diag _ _ | .zero | .bc | .ip _ | .bad => none)
    | .creg _ | .pred _ | .qmask _ | .dreg _ | .special _ | .sync _ | .ereg _ | .port _ => none)
/-- What a slot's word alone does not tell: a branch out of range, a rendezvous without its own core, an MTS of context 4
to a read-only register (R24, R82, R248). -/
def slotRefused (core ctx pc : Nat) (i : Instr) : Bool :=
  match i with
  | .br f | .call f =>
    let t : Int := (pc : Int) + f.imm.toInt
    decide (t < 0 ∨ (if ctx = 4 then (Config.supBundles : Int) else Config.bundles) ≤ t)
  | .rdv f => !natBit (fieldOf f.imm 16 4) (core % Config.coresPerCluster)
  | .mts f => decide (ctx = 4 ∧ (specialOf f = 0x21 ∨ specialOf f = 0x22 ∨ specialOf f = 0x23 ∨ specialOf f = 0x27))
  | _ => false
/-- The destination port of a move. -/
def moveDst : Instr → Option Nat
  | .xmov f | .xmovl f | .xtrg f => if f.dst = 0 then none else some f.dst.toNat
  | _ => none
/-- Two slots, with their numbers in the bundle's order (7 and 8 are the moves), that clash. -/
def pairRefused (a b : Nat × Instr) : Bool :=
  let u := usesOf a.2
  let v := usesOf b.2
  (u.bank.isSome && decide (u.bank = v.bank)) ||
    ((match u.port, v.port with
      | some p, some q => decide (p.1 = q.1)
      | some p, none => p.2 && (portsRead v ++ portsPushed v).contains p.1
      | none, some q => q.2 && (portsRead u ++ portsPushed u).contains q.1
      | none, none => false) ||
    ((!((portsRead u).filter (fun n => (portsRead v).contains n)).isEmpty) ||
    (((moveDst a.2).isSome && decide (moveDst a.2 = moveDst b.2)) ||
    (!complementary u.guard v.guard && u.writes.any (fun t => v.writes.any t.clash)))))
/-- A slot that reads one port twice. -/
def doubleRead (i : Instr) : Bool :=
  match portsRead (usesOf i) with
  | [m, n] => decide (m = n)
  | _ => false
/-- The instructions of a bundle, in slot order. -/
def bundleInstrs : List (Nat × Decoded) → List (Nat × Instr)
  | [] => []
  | (k, .instr i) :: ds => (k, i) :: bundleInstrs ds
  | (_, .empty) :: ds => bundleInstrs ds
  | (_, .reject _) :: ds => bundleInstrs ds
/-- Slots 7 and 8 are both the X slot. -/
def slotOf (k : Nat) : Nat := Nat.min k 7
/-- The pairs of a list. -/
def pairsOf {α : Type} : List α → List (α × α)
  | [] => []
  | a :: as => as.map (fun b => (a, b)) ++ pairsOf as
/-- The slots for which the decoder refuses a bundle (R82). -/
def refusedSlots (b : BitVec 512) (core ctx pc : Nat) : List Nat :=
  let ds := decodeSlots b
  let is := bundleInstrs ds
  (ds.filterMap (fun d => match d.2 with | .reject _ => some (slotOf d.1) | .empty | .instr _ => none)) ++
    ((is.filter (fun d => slotRefused core ctx pc d.2 || doubleRead d.2)).map (fun d => slotOf d.1) ++
      (pairsOf is).flatMap (fun p => if pairRefused p.1 p.2 then [slotOf p.1.1, slotOf p.2.1] else []))
/-- A mask with the bits of a list. -/
def maskOf (l : List Nat) : BitVec 8 := l.foldl (fun m k => m ||| BitVec.ofNat 8 (2 ^ k)) 0
/-- The non-empty slots, judged on the raw words (R13). -/
def rawSlots (b : BitVec 512) : BitVec 8 :=
  maskOf ((upTo 8 0).filter (fun k => if k = 7 then decide (slotWord b 7 ≠ 0) else decide (opcodeOf (slotWord b k) ≠ 0)))

/-! ## Running the slots of a bundle -/

/-- The meaning of a slot: that of its instruction. A step of the part is no slot. -/
def runSlot (i : Instr) (s : State) : Res :=
  match i with
  | .nop => execNop s
  | .add f => execAdd f s
  | .addi f => execAddi f s
  | .sub f => execSub f s
  | .mul f => execMul f s
  | .muli f => execMuli f s
  | .mulh f => execMulh f s
  | .mulhn f => execMulhn f s
  | .and f => execAnd f s
  | .andi f => execAndi f s
  | .or f => execOr f s
  | .ori f => execOri f s
  | .xor f => execXor f s
  | .xori f => execXori f s
  | .shl f => execShl f s
  | .shli f => execShli f s
  | .shr f => execShr f s
  | .shri f => execShri f s
  | .sar f => execSar f s
  | .sari f => execSari f s
  | .min f => execMin f s
  | .max f => execMax f s
  | .minn f => execMinn f s
  | .maxn f => execMaxn f s
  | .sel f => execSel f s
  | .movi f => execMovi f s
  | .movhi f => execMovhi f s
  | .clz f => execClz f s
  | .popc f => execPopc f s
  | .add32 f => execAdd32 f s
  | .addp f => execAddp f s
  | .mulw f => execMulw f s
  | .cmpEq f => execCmpEq f s
  | .cmpNe f => execCmpNe f s
  | .cmpLt f => execCmpLt f s
  | .cmpLe f => execCmpLe f s
  | .cmpLtn f => execCmpLtn f s
  | .cmpLen f => execCmpLen f s
  | .cmpiEq f => execCmpiEq f s
  | .cmpiNe f => execCmpiNe f s
  | .cmpiLt f => execCmpiLt f s
  | .cmpiLe f => execCmpiLe f s
  | .cmpiLtn f => execCmpiLtn f s
  | .cmpiLen f => execCmpiLen f s
  | .pand f => execPand f s
  | .por f => execPor f s
  | .pxor f => execPxor f s
  | .pset f => execPset f s
  | .br f => execBr f s
  | .brx f => execBrx f s
  | .call f => execCall f s
  | .ret f => execRet f s
  | .loop f => execLoop f s
  | .loopi f => execLoopi f s
  | .lexit f => execLexit f s
  | .stage f => execStage f s
  | .kwait f => execKwait f s
  | .swait f => execSwait f s
  | .swaitany f => execSwaitany f s
  | .yset f => execYset f s
  | .spost f => execSpost f s
  | .fence f => execFence f s
  | .rel f => execRel f s
  | .acq f => execAcq f s
  | .claim f => execClaim f s
  | .grow f => execGrow f s
  | .seg f => execSeg f s
  | .rdv f => execRdv f s
  | .mark f => execMark f s
  | .chk f => execChk f s
  | .chkp f => execChkp f s
  | .yield f => execYield f s
  | .trap f => execTrap f s
  | .sys f => execSys f s
  | .end_ f => execEnd f s
  | .mfs f => execMfs f s
  | .mts f => execMts f s
  | .pwinWrite f => execPwinWrite f s
  | .trapinfoDismiss f => execTrapinfoDismiss f s
  | .snapWrite f => execSnapWrite f s
  | .injWrite f => execInjWrite f s
  | .trootWrite f => execTrootWrite f s
  | .dbgControlWrite f => execDbgControlWrite f s
  | .dbgBreakpointWrite f => execDbgBreakpointWrite f s
  | .dbgWatchWrite f => execDbgWatchWrite f s
  | .tret f => execTret f s
  | .csave f => execCsave f s
  | .cload f => execCload f s
  | .tlbi f => execTlbi f s
  | .waiti f => execWaiti f s
  | .vadd f => execVadd f s
  | .vsub f => execVsub f s
  | .vmul f => execVmul f s
  | .vfma f => execVfma f s
  | .vfms f => execVfms f s
  | .vmin f => execVmin f s
  | .vmax f => execVmax f s
  | .vminn f => execVminn f s
  | .vmaxn f => execVmaxn f s
  | .vabs f => execVabs f s
  | .vneg f => execVneg f s
  | .vmov f => execVmov f s
  | .vsel f => execVsel f s
  | .vdif f => execVdif f s
  | .vand f => execVand f s
  | .vor f => execVor f s
  | .vxor f => execVxor f s
  | .vnot f => execVnot f s
  | .vshl f => execVshl f s
  | .vshr f => execVshr f s
  | .vsar f => execVsar f s
  | .vmulh f => execVmulh f s
  | .vmulhn f => execVmulhn f s
  | .vclz f => execVclz f s
  | .vpopc f => execVpopc f s
  | .vcmpEq f => execVcmpEq f s
  | .vcmpNe f => execVcmpNe f s
  | .vcmpLt f => execVcmpLt f s
  | .vcmpLe f => execVcmpLe f s
  | .vcmpLtn f => execVcmpLtn f s
  | .vcmpLen f => execVcmpLen f s
  | .vqand f => execVqand f s
  | .vqor f => execVqor f s
  | .vqxor f => execVqxor f s
  | .vqcnt f => execVqcnt f s
  | .vqfirst f => execVqfirst f s
  | .vcvt f => execVcvt f s
  | .vqpack f => execVqpack f s
  | .vqunpk f => execVqunpk f s
  | .vscl f => execVscl f s
  | .vbscl f => execVbscl f s
  | .vrnd f => execVrnd f s
  | .vsrnd f => execVsrnd f s
  | .vrsum f => execVrsum f s
  | .vrmax f => execVrmax f s
  | .vrmin f => execVrmin f s
  | .vrot f => execVrot f s
  | .vperm f => execVperm f s
  | .vbcast f => execVbcast f s
  | .vins f => execVins f s
  | .vext f => execVext f s
  | .vidx f => execVidx f s
  | .vexp2 f => execVexp2 f s
  | .vlog2 f => execVlog2 f s
  | .vrcp f => execVrcp f s
  | .vrsq f => execVrsq f s
  | .vchk f => execVchk f s
  | .ld f => execLd f s
  | .ldx f => execLdx f s
  | .st f => execSt f s
  | .stx f => execStx f s
  | .lds f => execLds f s
  | .sts f => execSts f s
  | .eld f => execEld f s
  | .prom f => execProm f s
  | .demo f => execDemo f s
  | .tlk f => execTlk f s
  | .tpin f => execTpin f s
  | .gld f => execGld f s
  | .gst f => execGst f s
  | .glds f => execGlds f s
  | .gsts f => execGsts f s
  | .dset f => execDset f s
  | .dsetf f => execDsetf f s
  | .dget f => execDget f s
  | .pcfg f => execPcfg f s
  | .pstop f => execPstop f s
  | .pstat f => execPstat f s
  | .bown f => execBown f s
  | .bqry f => execBqry f s
  | .xmov f => execXmov f s
  | .xmovl f => execXmovl f s
  | .xtrg f => execXtrg f s
  | .tanKset f => execTanKset f s
  | .tanFit f => execTanFit f s
  | .tanEval f => execTanEval f s
  | .tanSlope f => execTanSlope f s
  | .rngSeed f => execRngSeed f s
  | .rngNext f => execRngNext f s
  | .crcInit f => execCrcInit f s
  | .crcLine f => execCrcLine f s
  | .mxWld f => execMxWld f s
  | .mxWldg f => execMxWldg f s
  | .mxWfold f => execMxWfold f s
  | .mxRun f => execMxRun f s
  | .mxRung f => execMxRung f s
  | .mxAccz f => execMxAccz f s
  | .mxAccb f => execMxAccb f s
  | .ppeCfg f => execPpeCfg f s
  | .ppeDrain f => execPpeDrain f s
  | .ppeTld f => execPpeTld f s
  | .ppeTst f => execPpeTst f s
  | .ppeEcnt f => execPpeEcnt f s
  | .cpyGs f => execCpyGs f s
  | .cpySg f => execCpySg f s
  | .cpySs f => execCpySs f s
  | .cpyGg f => execCpyGg f s
  | .cpyXgrf f => execCpyXgrf f s
  | .cpyXdn f => execCpyXdn f s
  | .cpyFpr f => execCpyFpr f s
  | .cpyCmp f => execCpyCmp f s
  | .cpyFill f => execCpyFill f s
  | .cpyCrc f => execCpyCrc f s
  | .scaUpd f => execScaUpd f s
  | .scaFupd f => execScaFupd f s
  | .cfCfg f => execCfCfg f s
  | .cfRst f => execCfRst f s
  | .kjoin f => execKjoin f s
  | .ksig f => execKsig f s
  | .issueCycle _ | .srqEntryEnqueue _ _ | .rewindResume _ _ | .watchdogExpiry _ _ | .engineWatchdogExpiry _ _
  | .claimAnswer _ _ | .syncPostPerform _ _ _ | .contextRestoreDone _ _ | .csaveComplete _ | .cloadComplete _
  | .globalLoadReturn _ _ _ | .writePerformed _ _ _ _ | .translationWalkDone _ _ | .readPortFetch _ _
  | .writePortWrite _ _ | .matrixCommandStart _ _ | .streamReaderLine _ _ | .matrixRunStep _
  | .matrixCommandComplete _ _ | .ppeCommandStart _ | .ppeLineWrite _ | .ppeCommandComplete _
  | .copyCommandStart _ | .copyUnitRead _ _ | .copyUnitWritePerformed _ _ _ | .copyCommandComplete _ _
  | .scaCommandStart _ | .scaWindowApply _ | .scaCommandComplete _ | .refreshWindow _ _ | .rfshChange _
  | .bankMigration _ _ _ | .repairEntrySwitch _ | .snapshotRecordWrite _ _ | .supervisorFault _
  | .launchSlotWrite _ _ _ _ | .launchCommit _ _ _ | .queueStatusRead _ _ | .launchPlacement
  | .launchCompletion _ | .eventSet _ _ _ | .eventClear _ _ _ | .onaetClaim _ _ _ | .handover _ _ | .cancel _
  | .supmsg _ _ _ | .attestationRequest _ _ | .keyInstall _ _ _ _ _ | .partitionConfig _ _ | .cthrWrite _ _ _
  | .powerCapWrite _ _ | .windowOpen _ _ _ _ _ | .windowRevoke _ _ | .windowFree _ _
  | .inboundRequest _ _ _ _ _ | .flitReceive _ _ | .linkRetrain _ | .linkLaneLoss _ | .sensorSample _ _ _ _
  | .layerPowerOn _ _ | .coreSleep _ | .coreWake _ | .powerUp | .bootGo _ _ _ | .bootFetch _ | .bootVerify
  | .bootMarchTest _ _ _ | .bootTraining _ _ | .bootBringup | .hostMemoryAccess _ _ _ | .linkTrainingComplete _
  | .layerPowerOff _ _ =>
    .next s
/-- A slot acts, unless the done mask names it (R114, R270). -/
def runAt (k : Nat) (i : Instr) (s : State) : State :=
  if bitOf s.cur.skip (slotOf k) then s
  else
    match runSlot i { s with cur := { s.cur with slot := slotOf k } } with
    | .next t => t
    | .fault _ => s
    | .refused _ => s
/-- The trigger that a move fires (Table 4.11, R80). -/
def triggerOf : Instr → Option Instr
  | .xmov f | .xtrg f | .xmovl f =>
    let p := f.dst.toNat
    if p = 0x048 then some (.tanFit f)
    else if p = 0x049 then some (.tanEval f)
    else if p = 0x04A then some (.tanSlope f)
    else if p = 0x04B then some (.tanKset f)
    else if p = 0x060 then some (.rngSeed f)
    else if p = 0x061 then some (.rngNext f)
    else if p = 0x070 then some (.crcInit f)
    else if p = 0x071 then some (.crcLine f)
    else none
  | _ => none
/-- The V slots of the bundle see the value a move gave to `bc` (R76). -/
def State.takeBc (s : State) : State :=
  { s with cur := { s.cur with
      bc := s.cur.effs.foldl (fun v e => match e.2 with | .bc w => w | _ => v) 0 } }
/-- The slots of a bundle: the moves first, since they set `bc`, then the triggers they fire, then slots 0 to 6. -/
def runBundle (is : List (Nat × Instr)) (s : State) : State :=
  let xs := is.filter (fun d => decide (7 ≤ d.1))
  let s1 := xs.foldl (fun t d => runAt d.1 d.2 t) s
  let s2 := (xs.filterMap (fun d => (triggerOf d.2).map (fun i => (d.1, i)))).foldl (fun t d => runAt d.1 d.2 t) s1
  (is.filter (fun d => decide (d.1 < 7))).foldl (fun t d => runAt d.1 d.2 t) s2.takeBc

end Sys2Proof.Machine
end

