-- ==== Sys2Proof/Machine/Commit.lean ====
section
/-!
DEFINITION. A bundle as issue sees it, and what takes place when it commits (R14 to R18, R20 to R22, R25, R94 to R100,
R270, R275): its effects one by one, the next bundle address, and the segment boundary, rendezvous or END it makes.
-/
namespace Sys2Proof.Machine

/-! ## The bundle at a context's pc -/

/-- The 64 bytes of a context's next bundle (R70, R247). -/
def State.bundle (s : State) (c x : Nat) : BitVec 512 := BitVec.ofNat 512 (s.mem.load (bundleAddr c x (s.ctx c x).pc) 64)
/-- The bundle after the last of a store is the first (log entry 24). -/
def wrapPc (x pc : Nat) : Nat := pc % (if x = 4 then Config.supBundles else Config.bundles)
/-- Flags and escapes of engine commands that a boundary takes (R38, R188). -/
def Ctx.takeDone (v : Ctx) (cyc : Nat) : Ctx :=
  let due := v.engDone.filter (fun e => decide (e.since ≤ cyc))
  { v with
    engDone := v.engDone.filter (fun e => decide (cyc < e.since)),
    flags := due.foldl (fun f e => f ||| e.flg) v.flags,
    escn := due.foldl (fun n e => BitVec.ofNat 32 (Nat.min (n.toNat + e.escapes) 0xFFFFFFFF)) v.escn }
/-- The context at the boundary in front of its next bundle: due entries have landed, but for the resumed issue of a
stopped bundle (R14, R270); then the flags of engines and ports are taken, so that a write of FLAGS that lands there
does not undo them (log entry 65).
Log entry 59 (DEDUCED). -/
def State.landed (s : State) (c x : Nat) : State :=
  (if (s.ctx c x).dbgPass then s else s.landDue c x).modCtx c x (fun v => v.takeDone s.cyc)
/-- The instructions of a context's next bundle. -/
def State.instrs (s : State) (c x : Nat) : List (Nat × Instr) := bundleInstrs (decodeSlots (s.bundle c x))
/-- The slots that act: not done before, and guarded true (R72, R255). -/
def State.acting (s : State) (is : List (Nat × Instr)) : List (Nat × Instr) :=
  is.filter (fun d => !bitOf s.cur.skip (slotOf d.1) && s.guard (usesOf d.2).guard)
/-- c registers a slot reads or writes. -/
def Uses.cregs (u : Uses) : List Nat :=
  u.creads ++ u.writes.filterMap (fun t =>
    match t with
    | .creg n => some n
    | .pred _ | .qmask _ | .line _ | .dreg _ | .special _ | .sync _ | .ereg _ | .port _ => none)

/-! ## Checks of the whole bundle at issue (R14, R83, R107, R140, R262) -/

/-- The places of predicate n, of lane mask n and of a tile line's registers that hold state (p0, p1 and q0 are
constants). -/
def predPlaces (x n : Nat) : List Nat := if n < 2 then [] else [locP x (n / 2)]
def maskPlaces (x n : Nat) : List Nat := if n = 0 then [] else [locQ x n]
/-- The p, q, d, e and y registers that a slot reads besides its guard (Table 16.1). -/
def placesRead (x : Nat) : Instr → List Nat
  | .sel f => predPlaces x (fieldOf f.imm 30 4)
  | .pand f | .por f | .pxor f => predPlaces x f.a.toNat ++ predPlaces x f.b.toNat
  | .vqand f | .vqor f | .vqxor f => maskPlaces x f.a.toNat ++ maskPlaces x f.b.toNat
  | .vqcnt f | .vqfirst f => maskPlaces x f.m.toNat ++ maskPlaces x f.a.toNat
  | .vscl f | .vqunpk f => maskPlaces x f.m.toNat ++ [locE x (fieldOf f.b 0 4)]
  | .vadd f | .vsub f | .vmul f | .vmin f | .vmax f | .vminn f | .vmaxn f | .vsel f | .vdif f | .vand f | .vor f | .vxor f
  | .vshl f | .vshr f | .vsar f | .vmulh f | .vmulhn f | .vsrnd f | .vperm f | .vfma f | .vfms f | .vabs f | .vneg f
  | .vmov f | .vnot f | .vclz f | .vpopc f | .vcvt f | .vqpack f | .vrnd f | .vrsum f | .vrmax f | .vrmin f | .vrot f
  | .vbcast f | .vins f | .vext f | .vexp2 f | .vlog2 f | .vrcp f | .vrsq f | .vcmpEq f | .vcmpNe f | .vcmpLt f
  | .vcmpLe f | .vcmpLtn f | .vcmpLen f | .vidx f | .vbscl f | .vchk f => maskPlaces x f.m.toNat
  | .loop f => [locD x f.d.toNat]
  | .swait f | .spost f => [locY x f.d.toNat]
  | .swaitany f => ((upTo 8 0).filter (natBit (fieldOf f.imm 0 8))).map (locY x)
  | .dget f | .dsetf f => [locD x f.opnd.toNat]
  | .pcfg f => [locD x (fieldOf f.flags 0 4)]
  | .ppeCfg f => locE x f.da.toNat :: (if modeField f 0 2 = 0 then [] else [locD x f.db.toNat])
  | .mxWld f | .mxWldg f | .mxRun f | .mxRung f | .mxAccb f => [locD x f.da.toNat]
  | .mxWfold f => [locD x f.da.toNat, locD x f.db.toNat]
  | .ppeDrain f => [locD x f.da.toNat]
  | .cpyFill f => [locD x f.db.toNat]
  | .cpyGs f | .cpySg f | .cpySs f | .cpyGg f | .cpyXgrf f | .cpyXdn f | .cpyFpr f | .cpyCmp f | .cpyCrc f | .scaUpd f
  | .scaFupd f => [locD x f.da.toNat, locD x f.db.toNat]
  | _ => []
/-- Registers with bad parity that the bundle reads, a guard whatever it holds among them: consumed as transients
(Table 16.1).
Log entry 49 (DEDUCED). -/
def parityChecks (s : State) (is acting : List (Nat × Instr)) : List (Nat × Effect) :=
  ((is.flatMap (fun d => predPlaces s.cur.ctx (usesOf d.2).guard.toNat)) ++
      acting.flatMap (fun d => placesRead s.cur.ctx d.2)).eraseDups.filterMap (fun l =>
    if s.here.bad l then some (0, Effect.damaged 0 l) else none)
/-- The c registers with both copies bad that a slot reads (Table 16.1). -/
def badRegs (s : State) (d : Nat × Instr) : List Nat :=
  (usesOf d.2).creads.filter (fun n => decide (n ≠ 0) && s.here.bad (locReg s.cur.ctx n))
/-- A register that a global load holds busy, and one with both copies bad. -/
def regChecks (s : State) (d : Nat × Instr) : List (Nat × Effect) :=
  (if (usesOf d.2).cregs.any (fun n => s.me.regHeld n s.cyc) then [(slotOf d.1, Effect.wait 11 none)] else []) ++
    (badRegs s d).map (fun n => (slotOf d.1, Effect.trap .uncr (BitVec.ofNat 64 n)))
/-- The banks an effect of an L slot reaches, with the address that TVAL takes.
Log entry 61 (DEDUCED). -/
def reachedBank (e : Nat × Effect) : Option (Nat × Nat × Nat) :=
  match e.2 with
  | .access flat _ _ => some (e.1, bankOf flat, flat)
  | .occupy b _ => some (e.1, b, b * Config.bankLines)
  | _ => none
def byRegister : Instr → Bool
  | .ldx _ | .stx _ => true
  | _ => false
/-- Two L slots that reach one bank, at least one of them through a register (R49, R83).
Log entry 61 (DEDUCED). -/
def bankClash (is : List (Nat × Instr)) (effs : List (Nat × Effect)) : List (Nat × Effect) :=
  if is.any (fun d => byRegister d.2) then
    let rs := effs.filterMap reachedBank
    (rs.filter (fun r => rs.any (fun q => decide (q.1 ≠ r.1 ∧ q.2.1 = r.2.1)))).map (fun r =>
      (r.1, Effect.trap .bank (BitVec.ofNat 64 r.2.2)))
  else []
def countLands (effs : List (Nat × Effect)) : Nat :=
  (effs.filter (fun e => match e.2 with | .land _ | .claim _ _ => true | _ => false)).length
def countLoads (effs : List (Nat × Effect)) : Nat :=
  (effs.filter (fun e => match e.2 with | .load _ _ _ _ => true | _ => false)).length
/-- Effects that enter the SRQ (R20, R108). -/
def entersSrq (srqEmpty : Bool) (e : Nat × Effect) : Bool :=
  match e.2 with
  | .held _ _ _ _ => true
  | .command .copy _ | .command .sca _ => true
  | .order (.fence _ _) | .order (.rel _ _) => !srqEmpty
  | _ => false
def countHeld (srqEmpty : Bool) (effs : List (Nat × Effect)) : Nat := (effs.filter (entersSrq srqEmpty)).length
/-- The PWQ and the outbound queue have room (Table 1.3, R107). -/
def roomChecks (v : Ctx) (effs : List (Nat × Effect)) : List (Nat × Effect) :=
  (if 128 < v.pwq.length + countLands effs then [(0, Effect.wait 7 none)] else []) ++
    (if 32 < classedCount v.out + countLoads effs then [(0, Effect.wait 5 none)] else [])
/-- The next bundle of a context as issue sees it in this cycle: the landed state, with everything its slots would do
gathered in `cur`. -/
def State.evaluate (s : State) (c x : Nat) : State :=
  let v := s.ctx c x
  let s1 : State := { s.landed c x with
    cur := { core := c, ctx := x, pc := v.pc, slot := 0, skip := v.skip, bc := 0, effs := [] } }
  let is := s.instrs c x
  let s2 := runBundle is s1
  let effs := s2.cur.effs
  let more := (s1.acting is).flatMap (regChecks s1) ++
    (parityChecks s1 is (s1.acting is) ++ (bankClash is effs ++ roomChecks (s1.ctx c x) effs))
  { s2 with cur := { s2.cur with effs := effs ++ more } }
/-- The waits of a bundle. -/
def waitsOf (effs : List (Nat × Effect)) : List (Nat × Option WaitOn) :=
  effs.filterMap (fun e => match e.2 with | .wait n w => some (n, w) | _ => none)
def hasEffect (p : Effect → Bool) (effs : List (Nat × Effect)) : Bool := effs.any (fun e => p e.2)
def Effect.isImplicit : Effect → Bool
  | .implicit => true
  | _ => false
def Effect.isRelease : Effect → Bool
  | .release => true
  | _ => false
/-- SEG, RDV and END end the segment with their own bundle in it. -/
def Effect.endsSegment : Effect → Bool
  | .seg _ | .rdv _ _ | .finish => true
  | _ => false
def Effect.isRdv : Effect → Bool
  | .rdv _ _ => true
  | _ => false

/-! ## Promotion (R55, R56) -/

/-- A dirty victim is written back to its own slow row. -/
def State.evict (s : State) (c b slot : Nat) : State :=
  let t := ((s.core c).bank b).tag slot
  if t.valid && t.dirty then s.copyRow c b slot t.srow else s
def State.setTag (s : State) (c b slot : Nat) (t : TagEntry) : State :=
  s.modCore c (fun k => k.setBank b ((k.bank b).setTag slot t))
def State.promote (s : State) (c b slot srow : Nat) (nv : Option Nat) : State :=
  let s1 := ((s.evict c b slot).copyRow c b srow slot).setTag c b slot { valid := true, dirty := false, pin := false, srow := srow }
  match nv with
  | none => s1
  | some n => s1.modCore c (fun k => k.setBank b { k.bank b with nv := n })
/-- DEMO clears VALID, DIRTY and PIN. -/
def State.demote (s : State) (c b slot : Nat) : State :=
  let t := ((s.core c).bank b).tag slot
  (s.evict c b slot).setTag c b slot { t with valid := false, dirty := false, pin := false }
def State.pinTag (s : State) (c b slot : Nat) (v : Bool) : State :=
  s.setTag c b slot { ((s.core c).bank b).tag slot with pin := v }

/-! ## Ownership (R51, R52, R147) -/

/-- The launch to which a bank is allocated after a BOWN: a bank that context 4 gives to a user context's L slots joins
its launch, one that returns to the pool or to context 4 leaves it (log entry 25). -/
def Core.launchAfter (k : Core) (code : BitVec 16) (old : Nat) : Nat :=
  let kind := fieldOf code 12 4
  let index := fieldOf code 8 4
  if kind = 0 ∨ (kind = 1 ∧ index = 4) then 0 else if kind = 1 then (k.ctx index).launch else old
/-- The port that an owner code names. -/
def ownerPort (code : BitVec 16) : Option Nat :=
  if fieldOf code 12 4 = 2 then some (fieldOf code 8 4) else if fieldOf code 12 4 = 3 then some (6 + fieldOf code 8 4) else none
/-- The port that an owner code names, with the banks taken from it changed. -/
def Core.modTaken (k : Core) (code : BitVec 16) (f : List Nat → List Nat) : Core :=
  match ownerPort code with
  | none => k
  | some n => k.setPort n { k.port n with taken := f (k.port n).taken }
/-- A change of owner; giving a bank to its owner changes nothing. A port loses the bank, or has it again (R52). The layer
of a bank that joins a launch is powered (R305).
Log entry 25 (DEDUCED). -/
def State.giveBank (s : State) (c x b : Nat) (code : BitVec 16) : State :=
  if ((s.core c).bank b).owner = code then s
  else
    let old := ((s.core c).bank b).owner
    let s1 := (s.modCore c (fun k =>
      ((k.setBank b { k.bank b with
        owner := code, grantor := some x, launch := k.launchAfter code (k.bank b).launch }).modTaken old (b :: ·)).modTaken code
          (fun l => l.filter (fun i => decide (i ≠ b))))).wakePorts c
    let s2 := if ((s1.core c).bank b).launch = 0 then s1 else s1.powerBanks c [b]
    if fieldOf code 12 4 = 0 then s2.schedulePlacement else s2

/-! ## Translation invalidation (R291) -/

/-- TLBI: the matching entries leave every translation unit of the partition, context 4 waits for the walks in flight,
and what these find is not kept. -/
def State.invalidate (s : State) (c : Nat) (v : Word) : State :=
  let p := (s.cluster (clusterOf c)).part
  let mine := (upTo Config.clusters 0).filter (fun i => decide ((s.cluster i).part = p))
  let hit (t : TlbEntry) : Bool := decide (v = BitVec.allOnes 64) || t.covers p v.toNat
  let s1 := mine.foldl (fun t i => t.modCluster i (fun k => { k with tlb := k.tlb.filter (fun e => !(decide (e.part = p) && hit e)) })) s
  let walks := mine.flatMap (fun i => (s.cluster i).walks.map (fun w => (i, w.1)))
  let s2 := mine.foldl (fun t i => t.modCluster i (fun k =>
    { k with walks := k.walks.map (fun w => (w.1, { w.2 with stale := true })) })) s1
  s2.modCtx c 4 (fun u => { u with tlbiWait := walks })

/-! ## CLAIM (R25) -/

/-- A CLAIM of a bundle that commits: a logged index, or a request to the command processor. Context 4 has no launch and
is answered −1 at once (log entry 26). -/
def State.startClaim (s : State) (c x dest : Nat) (flip : Word) : State :=
  let v := s.ctx c x
  let answer (w : Word) : Pending :=
    { dest := .creg dest, val := (w ^^^ flip).zeroExtend 1024, mask := allLanes, rem := 1, flg := 0, mark := .clean, addr := 0 }
  if x = 4 then s.setCtx c x { v with pwq := v.pwq ++ [answer (BitVec.allOnes 64)] }
  else if v.replay < v.claims.length then
    s.setCtx c x { v with pwq := v.pwq ++ [answer (nthD 0 v.claims v.replay)], replay := v.replay + 1 }
  else
    let t := Nat.max (s.cyc + 60) s.claimFree
    (({ s with claimFree := t + 1 } : State).setCtx c x { v with claimWait := some { dest := dest, flip := flip } }).schedule t
      (.claimAnswer c x)

/-! ## One effect at the boundary after the bundle -/

/-- A classed access joins the outbound queue (R107, R140). -/
def State.appendAccess (s : State) (c x oc : Nat) (k : AccessKind) (va pa : Nat) : State :=
  s.modCtx c x (fun v =>
    { v with
      out := v.out ++ [{ num := v.nextAccess, oc := oc, kind := k, va := va, pa := pa, progress := .waiting, discard := false, served := none }],
      nextAccess := v.nextAccess + 1 })
def State.holdEntry (s : State) (c x oc : Nat) (k : AccessKind) (va pa : Nat) : State :=
  s.modCtx c x (fun v =>
    { v with srq := v.srq ++ [{ oc := oc, kind := k, va := va, pa := pa, num := v.nextAccess }], nextAccess := v.nextAccess + 1 })
/-- The destination of a global load is held busy; an error of an earlier load that nothing has read is gone. -/
def Ctx.holdDest (v : Ctx) (k : AccessKind) : Ctx :=
  match k with
  | .loadTile o =>
    { v with busyLines := (v.busyLines.filter (fun e => decide (e.2 = 0))) ++ [(o, 0)],
             dirtyLines := v.dirtyLines.filter (fun e => decide (e.1 ≠ o)) }
  | .loadReg n =>
    { v with busyRegs := (v.busyRegs.filter (fun e => decide (e.2 = 0))) ++ [(n, 0)],
             dirtyRegs := v.dirtyRegs.filter (fun e => decide (e.1 ≠ n)) }
  | .storeLine _ | .storeWord _ | .post _ _ | .grow _ | .command _ | .fence _ _ | .rel _ _ | .acq _ => v
/-- FENCE and REL enter a non-empty SRQ; an ACQ never does (R108). -/
def State.orderAccess (s : State) (c x : Nat) (k : AccessKind) : State :=
  match k with
  | .fence _ _ | .rel _ _ => if (s.ctx c x).srq.isEmpty then s.appendAccess c x 0 k 0 0 else s.holdEntry c x 0 k 0 0
  | .acq _ => s.appendAccess c x 0 k 0 0
  | .loadTile _ | .loadReg _ | .storeLine _ | .storeWord _ | .post _ _ | .grow _ | .command _ => s
/-- A trigger's result. -/
def Ctx.putResult (v : Ctx) (port : Nat) (val : Line) (latency : Nat) : Ctx :=
  let put (l : Results) : Results := pushResult v.issued (v.issued + latency) val l
  if port = 0 then { v with tanA := put v.tanA }
  else if port = 1 then { v with tanB := put v.tanB }
  else if port = 2 then { v with tanLo := put v.tanLo }
  else if port = 3 then { v with tanHi := put v.tanHi }
  else if port = 4 then { v with tanY := put v.tanY }
  else if port = 5 then { v with rngOut := put v.rngOut }
  else { v with crcVal := put v.crcVal }
/-- The stage predicates of a pass (R98). -/
def Ctx.setStage (v : Ctx) : Ctx :=
  if v.loop.stages < 2 then v
  else
    let j := nthD 0 v.loop.idx 0
    { v with p := (upTo 4 0).foldl (fun p i =>
        let b := decide (i < v.loop.stages ∧ i ≤ j ∧ j - i < v.loop.n0)
        putField p (8 + 2 * i) 2 (b.toNat + 2 * (!b).toNat)) v.p }
/-- WAITI of a bundle that commits (R252). -/
def Core.nextEvent (k : Core) : Core :=
  match k.trapQ with
  | t :: ts => { k with trapQ := ts }.loadTrap t
  | [] =>
    match k.msgQ with
    | m :: ms => { k with msgQ := ms }.loadMessage m
    | [] => k
/-- The reads of a TRET: an injection into a line of the record fires (R275). -/
def State.fireRecord (s : State) (c x : Nat) : State :=
  (upTo (s.recordLength c x) 0).foldl (fun t i => t.firedRead c ((s.core c).recordFlat x i)) s
/-- What an effect of a bundle that commits does to the machine, apart from the end of its segment. -/
def State.apply (c x : Nat) (s : State) (e : Effect) : State :=
  match e with
  | .land p => s.modCtx c x (fun v => { v with pwq := v.pwq ++ [p] })
  | .pop n => s.popPort c n
  | .reserve n => s.modCore c (fun k => k.setPort n { k.port n with reserved := (k.port n).reserved + 1 })
  | .access flat write busy =>
    let s1 := s.modCore c (fun k => k.setBank (bankOf flat) ((k.bank (bankOf flat)).occupy s.cyc busy))
    if write then s1 else s1.firedRead c flat
  | .occupy b busy => s.modCore c (fun k => k.setBank b ((k.bank b).occupy s.cyc busy))
  | .fires flat => s.firedRead c flat
  | .storeLine flat v => s.writeFlat c flat v
  | .storeWord flat w v => (s.firedRead c flat).writeFlatWord c flat w v
  | .prom b slot srow nv => s.promote c b slot srow nv
  | .promHit _ => s
  | .demo b slot => s.demote c b slot
  | .tpin b slot v => s.pinTag c b slot v
  | .owner b code => s.giveBank c x b code
  | .pcfg n d => s.configPort c x n d
  | .pstop n => s.stopPort c n
  | .load oc k va pa => (s.modCtx c x (fun v => v.holdDest k)).appendAccess c x oc k va pa
  | .held oc k va pa => s.holdEntry c x oc k va pa
  | .order k => s.orderAccess c x k
  | .command en cmd => if en = .chain then (s.issueCommand c x en cmd).chainEffect c x cmd else s.issueCommand c x en cmd
  | .redirect t => s.modCtx c x (fun v => { v with redirect := some (t, 4) })
  | .startLoop l => s.modCtx c x (fun v => { v with loop := l }.setStage)
  | .lexit => s.modCtx c x (fun v => { v with loop := { v.loop with lexit := true } })
  | .claim dest flip => s.startClaim c x dest flip
  | .consume n =>
    s.modCtx c x (fun v => { v with sg := v.sg.set n (BitVec.ofNat 16 (v.readSg n + 1)), yptr := (n + 1) % 8 })
  | .drift v arm =>
    let s1 := if bitOf (s.core c).dbg.control 11 ∨ arm then
        s.trace c x 1 0 (saturated32 v.toInt) (s.ctx c x).pc
      else s
    if arm then s1.modCtx c x (fun u => { u with stall := { u.stall with armed := true } }) else s1
  | .yielded => s.modCtx c x (fun v => { v with yielded := some (s.cyc + 1) })
  | .operand port v => s.modCtx c x (fun u => { u with tan := u.tan.take port v })
  | .result port v lat => s.modCtx c x (fun u => u.putResult port v lat)
  | .rng v => s.modCtx c x (fun u => { u with tan := { u.tan with rng := v } })
  | .crc v => s.modCtx c x (fun u => { u with tan := { u.tan with crc := v } })
  | .kset k => s.modCtx c x (fun u => { u with ksets := u.ksets ++ [k] })
  | .damaged lat loc => s.modCtx c x (fun u => { u with damage := u.damage ++ [(u.issued + lat, loc)] })
  | .waiti => s.modCore c Core.nextEvent
  | .tret y => ((s.fireRecord c y).abandonHeld c y).resume c y
  | .csave y banks va => (s.modCore c (fun k => { k with saving := some { load := false, ctx := y, banks := banks, va := va } })).schedule
      (s.cyc + 1) (.csaveComplete c)
  | .cload y va => (s.modCore c (fun k => { k with saving := some { load := true, ctx := y, banks := false, va := va } })).scheduleFree
      (.cloadComplete c)
  | .tlbi v => s.invalidate c v
  | .trap _ _ | .portFault _ _ _ | .met _ | .wait _ _ | .implicit | .release | .mismatch _ | .bc _ | .walk _ _ _ | .seg _ | .rdv _ _ | .finish => s

/-! ## Error injection into results (R275, KIND 01) -/

/-- The flip of a result of one destination kind, by the BIT and LANE of INJ; none outside its range. -/
def flipOf (d : Dest) (bit lane : Nat) : Line :=
  let one (i : Nat) : Line := BitVec.ofNat 1024 (2 ^ i)
  match d with
  | .creg _ | .dword _ _ | .special _ | .sync _ => if bit < 64 then one bit else 0
  | .tile _ | .push _ => if bit < 32 then one (32 * lane + bit) else 0
  | .ereg _ => if bit < 8 then one (8 * lane + bit) else 0
  | .dreg _ => if bit < 64 ∧ lane < 8 then one (64 * lane + bit) else 0
  | .pred _ => if bit < 2 then one bit else 0
  | .qmask _ => if bit < 32 then one bit else 0
  | .flags => 0
def Dest.isFlags (d : Dest) : Bool := decide (d = .flags)
/-- An effect that is a result of a slot. -/
def isResultOf (slot : Nat) (e : Nat × Effect) : Bool :=
  decide (e.1 = slot) && (match e.2 with | .land p => !p.dest.isFlags | .claim _ _ => true | _ => false)
def isRegResult (slot : Nat) (e : Nat × Effect) : Bool :=
  decide (e.1 = slot) && (match e.2 with | .land p => (match p.dest with | .creg _ => true | _ => false) | _ => false)
/-- The `i`-th matching effect of a list changed. -/
def changeNth (p : Nat × Effect → Bool) (f : Effect → Effect) : Nat → List (Nat × Effect) → List (Nat × Effect)
  | _, [] => []
  | i, e :: es =>
    if p e then (match i with | 0 => (e.1, f e.2) :: es | j + 1 => e :: changeNth p f j es)
    else e :: changeNth p f i es
def flipLand (bit lane : Nat) (e : Effect) : Effect :=
  match e with
  | .land p => .land { p with val := p.val ^^^ flipOf p.dest bit lane }
  | .claim d f => .claim d (f ^^^ BitVec.ofNat 64 (2 ^ bit))
  | e => e
/-- Whether INJ matches a bundle that commits. -/
def Core.injMatches (k : Core) (x pc : Nat) (effs : List (Nat × Effect)) : Bool :=
  bitOf k.inj 2 && (decide (fieldOf k.inj 0 2 = 1 ∧ fieldOf k.inj 26 3 = x ∧ fieldOf k.inj 10 13 = pc) &&
    effs.any (isResultOf (fieldOf k.inj 23 3)))
/-- The effects with the injected flip; a register pair takes it in the register that LANE selects. -/
def Core.injected (k : Core) (effs : List (Nat × Effect)) : List (Nat × Effect) :=
  let slot := fieldOf k.inj 23 3
  let bit := fieldOf k.inj 34 6
  let lane := fieldOf k.inj 29 5
  let pair := decide (2 ≤ (effs.filter (isRegResult slot)).length)
  if pair then (if lane < 2 then changeNth (isRegResult slot) (flipLand bit lane) lane effs else effs)
  else changeNth (isResultOf slot) (flipLand bit lane) 0 effs

/-! ## The next bundle (R94, R96, R100) -/

/-- The indices after a pass, level 0 fastest, and whether every level has wrapped. -/
def nextIndex : List Nat → List Nat → List Nat × Bool
  | i :: is, c :: cs => if i + 1 < c then ((i + 1) :: is, false) else
      let (js, done) := nextIndex is cs
      (0 :: js, done)
  | is, _ => (is, true)
/-- The end of a pass: the loop goes on with its next pass, or ends. -/
def Ctx.endPass (v : Ctx) : Ctx :=
  let (idx, done) := nextIndex v.loop.idx v.loop.cnt
  if v.loop.lexit ∨ done then { v with loop := { v.loop with active := false } }
  else { v with loop := { v.loop with idx := idx }, pc := v.loop.first }.setStage
/-- The pc after a bundle at address `pc` that commits; `pend` is the redirect that was pending when it issued. The
end of a loop body is looked for at an address that does not wrap.
Log entry 24 (DESIGN CHOICE). -/
def Ctx.advance (v : Ctx) (x pc : Nat) (inBody : Bool) (pend : Option (Nat × Nat)) : Ctx :=
  let v1 := { v with pc := wrapPc x (pc + 1) }
  let v2 := if inBody ∧ pc + 1 = v.loop.first + v.loop.body then v1.endPass else v1
  match pend with
  | none => v2
  | some (t, n) => if n ≤ 1 then { v2 with pc := t, redirect := none } else { v2 with redirect := some (t, n - 1) }

/-! ## Commit -/

/-- Slots in their order, the moves last. -/
def slotOrder (effs : List (Nat × Effect)) : List (Nat × Effect) :=
  effs.filter (fun e => decide (e.1 < 7)) ++ effs.filter (fun e => decide (7 ≤ e.1))
/-- Effects applied one after another. -/
def State.applyAll (c x : Nat) : List (Nat × Effect) → State → State
  | [], s => s
  | e :: es, s => State.applyAll c x es (s.apply c x e.2)
/-- The effects of a bundle, with an injection that hits it. -/
def State.withInjection (s : State) (c x pc : Nat) (effs : List (Nat × Effect)) : List (Nat × Effect) × State :=
  let k := s.core c
  if k.injMatches x pc effs then (k.injected effs, s.modCore c Core.disarm) else (effs, s)
/-- Accesses that may begin do (R107). -/
def State.startOut (s : State) (c x : Nat) : State :=
  (s.modCtx c x (fun v => { v with out := pruneFences [] v.out })).pump c x
/-- The rendezvous boundaries of a cluster that have come about are taken by the contexts that run (R24). An error met in
the SRQ that leaves there is a transient of the segment that begins, since the rendezvous has ended the other
(log entry 49). -/
def State.takeBoundary (s : State) (c x : Nat) : State :=
  let v := s.ctx c x
  match v.arrival with
  | none => s
  | some a =>
    if v.status = .running ∧ v.rewind = none ∧ a.completed ∧ !a.taken then
      ((if v.srq.isEmpty then s else s.consumeQueue c x (locSrq x)).boundary c x a.id).modCtx c x (fun v => { v with arrival := some { a with taken := true } })
    else s
def State.takeBoundaries (s : State) (cl : Nat) : State :=
  (upTo Config.coresPerCluster (cl * Config.coresPerCluster)).foldl (fun t c =>
    (upTo 4 0).foldl (fun t x => t.takeBoundary c x) t) s
/-- A context begins to wait under a watchdog (R29). -/
def State.startWatch (s : State) (c x : Nat) (w : WaitOn) : State :=
  (s.modCtx c x (fun v => { v with waitOn := some (w, s.watchAt c s.cyc) })).watch c (s.watchAt c s.cyc) (.watchdogExpiry c x)
/-- What the bundle does to its segment, once everything else has taken place (R18, R24, R27). A context in the middle
of END stands in front of it (R256). -/
def State.endBundle (s : State) (c x : Nat) (e : Effect) : State :=
  match e with
  | .seg id => s.boundary c x id
  | .rdv id mask =>
    let s1 := (s.logChunk c x (s.ctx c x).segBundles).modCtx c x (fun v =>
      { v with arrival := some { id := id, mask := mask, completed := false, taken := false, since := 0 },
               waitOn := none })
    ((s1.startWatch c x (.rdv id)).tryRendezvous c x).takeBoundaries (clusterOf c)
  | .finish =>
    ((s.logChunk c x (s.ctx c x).segBundles).release c x).modCtx c x (fun v =>
      { v with status := .retiring false, pc := s.cur.pc })
  | _ => s
def State.endAll (c x : Nat) : List (Nat × Effect) → State → State
  | [], s => s
  | e :: es, s => State.endAll c x es (s.endBundle c x e.2)
/-- The bundle that `cur` holds commits (R17): the effects a debug stop kept, then its own, the next bundle address, the
counts, and the end of its segment. -/
def State.commit (s : State) : State :=
  let c := s.cur.core
  let x := s.cur.ctx
  let pc := s.cur.pc
  let v := s.ctx c x
  let (effs, s1) := s.withInjection c x pc s.cur.effs
  let all := v.kept ++ slotOrder effs
  let s2 := State.applyAll c x all s1
  let s3 := (s2.endStall c x pc).modCtx c x (fun u =>
    { u.advance x pc v.loop.active v.redirect with
      bcnt := u.bcnt + 1, issued := u.issued + 1, segBundles := u.segBundles + 1,
      segStart := if u.segFirst then s.cyc else u.segStart, segFirst := false, skip := 0, dbgPass := false, kept := [],
      walkFault := none, waitOn := none })
  let s4 := State.endAll c x all (s3.startOut c x)
  { s4 with cur := Issue.none }

end Sys2Proof.Machine
end

