-- ==== Sys2Proof/Machine/Issue.lean ====
section
/-!
DEFINITION. The issue stage of a core in one cycle (R11 to R13, R17, R21 to R25, R29, R113, R250, R256, R269, R270):
what each context meets in front of its next bundle, which contexts issue, and what the issue of a bundle leads to; and
the steps that end a wait: watchdogs, claims, records and restores.
-/
namespace Sys2Proof.Machine

/-! ## In front of the next bundle -/

/-- The context takes part in issue. -/
def Ctx.runs (v : Ctx) : Bool := decide (v.status = .running) && v.rewind.isNone
/-- A rendezvous that is over is forgotten when the context may issue again. -/
def Ctx.endArrival (v : Ctx) (cyc : Nat) : Ctx :=
  match v.arrival with
  | none => v
  | some a => if a.taken ∧ a.since ≤ cyc then { v with arrival := none, waitOn := none } else v
/-- An uncorrectable error in the next bundle is a trap in front of it (Table 16.1). -/
def State.bundleBad (s : State) (c x : Nat) : Bool := (s.core c).bad (locBundle x (s.ctx c x).pc)
/-- Boundary events that may be taken now: a rewind waits for the answer of a CLAIM.
Log entry 12 (DEDUCED). -/
def Ctx.eventDue (v : Ctx) : Bool :=
  decide (0 < v.events.count) && !(v.claimWait.isSome && (v.events.residue || v.events.uncr.isSome))
/-- What blocks a context whatever its next bundle is: the code of Table 16.9, and what a watchdog watches. -/
def State.blocked (s : State) (c x : Nat) : Option (Nat × Option WaitOn) :=
  let v := s.ctx c x
  if v.claimWait.isSome then some (9, none)
  else
    match v.arrival with
    | some a => some (10, if a.completed then none else some (.rdv a.id))
    | none =>
      if !v.releasing.isEmpty then some (5, none)
      else if v.walk.isSome then some (12, none)
      else if !v.tlbiWait.isEmpty ∨ (x = 4 ∧ (s.core c).saving.isSome) then some (14, none)
      else none

/-! ## Debug stops (R269, R270) -/

/-- What a slot in front of a debug stop does at once: its results enter the PWQ, and its reads and pops have been
made. The rest is kept until the resumed issue commits.
Log entry 17 (DEDUCED). -/
def stopsNow (effs : List (Nat × Effect)) (e : Nat × Effect) : Bool :=
  match e.2 with
  | .land _ | .pop _ | .reserve _ | .damaged _ _ | .drift _ _ | .load _ _ _ _ => true
  | .access _ write _ => !write
  | .occupy _ _ => !(effs.any (fun d => decide (d.1 = e.1) &&
      (match d.2 with | .prom _ _ _ _ | .promHit _ | .demo _ _ => true | _ => false)))
  | _ => false
/-- A debug stop with stop slot k: the slots before it commit into the PWQ, and the boundary in front of the bundle has
been counted.
Log entry 17 (DEDUCED). -/
def State.debugStop (s : State) (c x k : Nat) (tval : Word) (effs0 : List (Nat × Effect)) : State :=
  let (effs, s0) := s.withInjection c x (s.ctx c x).pc (effs0.filter (fun e => decide (e.1 < k)))
  let s1 := State.applyAll c x (effs.filter (stopsNow effs)) s0
  let s2 := (s1.startOut c x).modCtx c x (fun v => { v with kept := v.kept ++ effs.filter (fun e => !stopsNow effs e) })
  let s3 := s2.trace c x 3 k (fieldOf tval 0 32) (s.ctx c x).pc
  ({ s3 with cur := Issue.none } : State).raise c x .dbg 0 false false (BitVec.ofNat 8 (2 ^ k)) (BitVec.ofNat 8 (2 ^ k - 1)) tval
/-- The stop of an enabled breakpoint: its slot and its SEL (Table 16.4). -/
def breakpointStop (k : Core) (x pc i : Nat) : Option (Nat × Nat) :=
  let b := k.dbg.breakpoints.get 0 i
  if bitOf b 20 ∧ bitOf b (16 + x) ∧ fieldOf b 0 13 = pc then some (fieldOf b 13 3, i + 1) else none
/-- The stop of an enabled watch that an access matches: its slot and its TVAL (Table 16.5). -/
def watchStop (k : Core) (x i : Nat) (e : Nat × Effect) : Option (Nat × Nat) :=
  let w := k.dbg.watches.get 0 i
  match e.2 with
  | .access flat write _ =>
    if bitOf w 41 ∧ bitOf w (37 + x) ∧ (if write then bitOf w 36 else bitOf w 35) ∧ fieldOf w 0 22 ≤ flat ∧
        flat ≤ fieldOf w 0 22 + fieldOf w 22 13 then
      some (e.1, i + 9 + flat * 16)
    else none
  | _ => none
/-- The stop of the lowest slot; among equals, the first entry. -/
def lowestStop : List (Nat × Nat) → Option (Nat × Nat)
  | [] => none
  | a :: as =>
    match lowestStop as with
    | none => some a
    | some b => if b.1 < a.1 then some b else some a
/-- The debug stop of a bundle that raises no cause. -/
def debugStopOf (k : Core) (x pc : Nat) (effs : List (Nat × Effect)) : Option (Nat × Nat) :=
  if x = 4 then none
  else lowestStop ((upTo 8 0).filterMap (breakpointStop k x pc) ++
    (upTo 4 0).flatMap (fun i => effs.filterMap (watchStop k x i)))

/-! ## Issue of a ready bundle (R17, R82, R250) -/

/-- A rewind takes precedence over every other cause of a bundle (R250).
Log entry 11 (DEDUCED). -/
def State.rewindsNow (s : State) (c x : Nat) (effs : List (Nat × Effect)) : Bool :=
  hasEffect (fun e => match e with | .mismatch _ => true | _ => false) effs && decide ((s.ctx c x).segtry ≠ 3)
/-- The slots that raise a cause. -/
def slotsOf (cs : List (Nat × Cause × Word)) (cause : Cause) : BitVec 8 :=
  maskOf ((cs.filter (fun e => decide (e.2.1 = cause))).map (fun e => slotOf e.1))
/-- The ports whose pushes raise the trap that is taken stop at the line that cannot be written (R66). -/
def State.stopPorts (s : State) (c : Nat) (cause : Cause) (effs : List (Nat × Effect)) : State :=
  s.modCore c (fun k => effs.foldl (fun k e =>
    match e.2 with
    | .portFault n f flat =>
      if f = cause then
        k.setPort n { k.port n with fault := some (f, flatAddr flat), faultAt := (k.port n).pos + (k.port n).reserved }
      else k
    | _ => k) k)
/-- What a bundle that is trapped has still done: the ports its pushes stop, the reads of a TRET that met an uncorrectable
error, and the count of an error met in a c register (R66, R264, R275). -/
def State.atTrap (s : State) (c : Nat) (cause : Cause) (regs : Bool) (effs : List (Nat × Effect)) : State :=
  let s1 := s.stopPorts c cause effs
  if cause = .uncr then
    effs.foldl (fun t e => match e.2 with | .met flat => (t.firedRead c flat).countMet c (t.readMark c flat) | _ => t)
      (if regs then s1.modCore c (fun k => k.countError false) else s1)
  else s1
/-- The issue of a ready context's bundle: the decoder's refusal, a detection, a trap, a debug stop, or its commit.
Log entry 11 (DEDUCED). -/
def State.issue (s : State) (c x : Nat) : State :=
  let v := s.ctx c x
  let bad := refusedSlots (s.bundle c x) c x v.pc
  if !bad.isEmpty then s.raise c x .ill 0 false false (maskOf bad) 0 0
  else
    let t := s.evaluate c x
    let effs := t.cur.effs
    let cs := slotCauses effs
    let mism := slotsOf cs .serr
    if s.rewindsNow c x effs then s.detect c x (if vectorMismatch effs then .vector else .check) mism false
    else
      match topCause cs with
      | some (_, cause, val) =>
        let mask := slotsOf cs cause
        let more := cs.any (fun e => decide (e.2.1 ≠ cause))
        if cause = .serr then s.detect c x (if vectorMismatch effs then .vector else .check) mism more
        else
          (s.atTrap c cause ((t.acting (s.instrs c x)).any (fun d => !(badRegs t d).isEmpty)) effs).raise c x cause ((t.ctx c x).engStatus cause val) false more mask
            (if cause = .trap ∨ cause = .sys then mask else 0) val
      | none =>
        match (if v.dbgPass then none else debugStopOf (s.core c) x v.pc effs) with
        | some (k, tval) => t.debugStop c x k (BitVec.ofNat 64 tval) effs
        | none => t.commit

/-! ## Preparing the next bundle -/

/-- A walk for a context begins, if the cluster has one free (R139, R290).
Log entry 60 (DEDUCED). -/
def State.startWalk (s : State) (c x va : Nat) (read write : Bool) : State :=
  let cl := clusterOf c
  let k := s.cluster cl
  if 128 ≤ k.walks.length then s
  else
    let w : Walk := { part := k.part, va := va, root := s.rootOf k.part, read := read, write := write, core := c, ctx := x, stale := false }
    ((s.setCluster cl { k with walks := k.walks.set k.nextWalk w, nextWalk := k.nextWalk + 1 }).modCtx c x (fun v =>
      { v with walk := some k.nextWalk })).scheduleFree (.translationWalkDone cl k.nextWalk)
/-- The first walk the slots of a bundle ask for.
Log entry 9 (DEDUCED). -/
def walkWanted : List (Nat × Effect) → Option (Nat × Bool × Bool)
  | [] => none
  | (_, .walk va r w) :: _ => some (va, r, w)
  | _ :: es => walkWanted es
/-- The bundle needs an implicit boundary for its own outbound effects (R21).
Log entry 10 (DEDUCED). -/
def overflowsSrq (v : Ctx) (effs : List (Nat × Effect)) : Bool :=
  (waitsOf effs).isEmpty && ((slotCauses effs).isEmpty &&
    (decide (0 < countHeld v.srq.isEmpty effs) && (!v.srq.isEmpty &&
      decide (64 < v.srq.length + countHeld v.srq.isEmpty effs))))
/-- A release of this context would not match its next logged chunk (R274): one more bundle for SEG, RDV and END.
Log entry 18 (DEDUCED). -/
def State.diverges (s : State) (c x : Nat) (effs : List (Nat × Effect)) : Bool :=
  let v := s.ctx c x
  let own := hasEffect Effect.endsSegment effs && !v.chunkLogged
  if v.dbgPass then false
  else if own ∨ hasEffect Effect.isImplicit effs ∨ overflowsSrq v effs then
    s.chunkDiverges v.launch v.vcore x v.segid
      (v.segBundles + (if hasEffect Effect.isImplicit effs ∨ overflowsSrq v effs then 0 else 1))
  else false
/-- The tiles of its context whose rows an engine command reads, and these rows: a run reads its accumulators, a drain and
a TLD their tiles, a CFG its bias and a FILL its pattern; the other commands only write their tiles. -/
def Cmd.tilesRead (base : Nat) (j : Cmd) : List Nat :=
  if isRun j ∨ j.op = 0x12 then j.tiles.map (fun t => t - base)
  else if j.op = 0x11 then (j.tiles.take (drainTiles j.f)).map (fun t => t - base)
  else if (j.op = 0x10 ∧ bitOf j.f.f 1) ∨ j.op = 0x28 then [j.f.t.toNat]
  else []
def Cmd.rowsRead (j : Cmd) : List Nat :=
  if isRun j ∨ j.op = 0x11 then upTo (eRows j.f) 0
  else if j.op = 0x12 then upTo 32 0
  else if j.op = 0x10 then upTo 8 0
  else [modeField j.f 2 5]
/-- A command reads an element of a line. -/
def Cmd.readsLine (base : Nat) (j : Cmd) (o : Operand) : Bool :=
  match o.tile? with
  | none => false
  | some t => (j.tilesRead base).contains t && j.rowsRead.any (fun r => o.overlaps (.row t r))
/-- Errors of global data that the next bundle is the first to read (R140). -/
def readsDirty (s : State) (is : List (Nat × Instr)) : List (Mark × Nat) :=
  let us := is.map (fun d => usesOf d.2)
  let regs := s.me.dirtyRegs.filter (fun e => us.any (fun u => u.creads.contains e.1))
  let lines := s.me.dirtyLines.filter (fun e =>
    us.any (fun u => u.lines.any (fun v => (operandOf e.1).overlaps (operandOf v))) ||
      s.cur.effs.any (fun d => match d.2 with | .command _ j => j.readsLine s.me.tileBase (operandOf e.1) | _ => false))
  regs.map (fun e => e.2) ++ lines.map (fun e => e.2)
def Ctx.dropDirty (v : Ctx) (found : List (Mark × Nat)) : Ctx :=
  { v with
    dirtyRegs := v.dirtyRegs.filter (fun e => !found.contains e.2),
    dirtyLines := v.dirtyLines.filter (fun e => !found.contains e.2),
    events := found.foldl (fun e m => e.mark m.1 m.2) v.events }
/-- One round of what a context does in front of its next bundle: an error met in an SRQ that is about to leave, which
rewinds the segment before anything is released (Table 16.1), the release of R21, an implicit boundary, a walk, an
error it is the first to read. Nothing when the decoder refuses the bundle, or when nothing is to be done.
Log entry 9 (DEDUCED). -/
def State.prepareOnce (s : State) (c x : Nat) : State :=
  if !(s.ctx c x).runs || ((s.blocked c x).isSome || !(refusedSlots (s.bundle c x) c x (s.ctx c x).pc).isEmpty) then s
  else
    let v := s.ctx c x
    let t := s.evaluate c x
    let effs := t.cur.effs
    let turn := v.chunkLogged || s.chunkTurn v.launch v.vcore x
    let leaves := hasEffect Effect.isRelease effs || (hasEffect Effect.isImplicit effs || (hasEffect Effect.endsSegment effs ||
      overflowsSrq (t.ctx c x) effs))
    if leaves && (!v.srq.isEmpty && (s.core c).bad (locSrq x)) then
      ((s.consumeQueue c x (locSrq x)).modCtx c x Ctx.gather).takeEvent c x
    else if s.diverges c x effs then (if (slotCauses effs).isEmpty then t.debugStop c x 0 15 [] else s.issue c x)
    else if hasEffect Effect.isRelease effs ∧ turn then (s.logChunk c x (v.segBundles + 1)).release c x
    else if (hasEffect Effect.isImplicit effs ∨ overflowsSrq (t.ctx c x) effs) ∧ turn then s.boundary c x v.segid
    else
      match walkWanted effs with
      | some (va, r, w) => s.startWalk c x va r w
      | none =>
        if !(waitsOf effs).isEmpty then s
        else
          let found := readsDirty t (t.acting (s.instrs c x))
          if found.isEmpty then s else (s.modCtx c x (fun v => v.dropDirty found)).takeEvent c x
/-- What a context meets in front of its next bundle in this cycle: boundaries that have come about, events, and the
preparation of the bundle.
Log entry 9 (DEDUCED). -/
def State.frontOf (s : State) (c x : Nat) : State :=
  let v := s.ctx c x
  match v.status with
  | .retiring aborted => s.tryRetire c x aborted
  | .free | .trapped _ | .queued | .current | .parked | .restoring => s
  | .running =>
    if v.rewind.isSome then s
    else
      let s1 := ((s.flushKnots c x).takeBoundary c x).modCtx c x (fun v => (v.endArrival s.cyc).gather)
      let e := (s1.ctx c x).events
      let bad := (s1.blocked c x).isNone && s1.bundleBad c x
      if bad ∧ !e.residue ∧ e.uncr.isNone then
        (s1.modCore c (fun k => k.countError false)).raise c x .uncr 0 true (decide (0 < e.count)) 0 0
          (BitVec.ofNat 64 (s.ctx c x).pc)
      else if (s1.ctx c x).eventDue then s1.takeEvent c x
      else ((s1.prepareOnce c x).prepareOnce c x).prepareOnce c x

/-! ## Readiness (R12) -/

/-- How a context stands at issue. -/
inductive Standing where
  /-- It takes no part. -/
  | out
  /-- It waits, for the lowest code of Table 16.9. -/
  | waits (code : Nat) (on : Option WaitOn)
  | ready
  deriving DecidableEq, Repr
def leastCode : List (Nat × Option WaitOn) → Nat
  | [] => 14
  | [a] => a.1
  | a :: as => Nat.min a.1 (leastCode as)
def watched : List (Nat × Option WaitOn) → Option WaitOn
  | [] => none
  | a :: as => match a.2 with | some w => some w | none => watched as
/-- The waits of the next bundle, with those for a turn in a replay and for a boundary that has not been possible.
Log entry 18 (DEDUCED). -/
def State.bundleWaits (s : State) (c x : Nat) : List (Nat × Option WaitOn) :=
  let v := s.ctx c x
  let t := s.evaluate c x
  let effs := t.cur.effs
  let turnless := hasEffect Effect.endsSegment effs && !(v.chunkLogged || s.chunkTurn v.launch v.vcore x)
  waitsOf effs ++
    (if turnless || (hasEffect Effect.isImplicit effs || (hasEffect Effect.isRelease effs || overflowsSrq (t.ctx c x) effs))
     then [(if overflowsSrq (t.ctx c x) effs then 8 else 14, none)] else [])
/-- How a context stands at issue; the waits of its next bundle count beside what blocks it (R272). -/
def State.standing (s : State) (c x : Nat) : Standing :=
  if !(s.ctx c x).runs then .out
  else
    let own := if !(refusedSlots (s.bundle c x) c x (s.ctx c x).pc).isEmpty then [] else s.bundleWaits c x
    match (s.blocked c x).toList ++ own with
    | [] => .ready
    | ws => .waits (leastCode ws) (watched ws)

/-! ## The choice (R11, R13, R113) -/

/-- The rank of a context's priority: the supervisor context above priority 3. -/
def Core.rankOf (k : Core) (x : Nat) : Nat := if x = 4 then 4 else (k.ctx x).prio
/-- For one cycle a YIELD ranks its context below every other (R113). -/
def Ctx.yields (v : Ctx) (cyc : Nat) : Bool := decide (v.yielded = some cyc)
/-- Contexts 0 to 3 in round-robin order from a pointer. -/
def ringFrom (p : Nat) : List Nat := (upTo 4 0).map (fun i => (p + i) % 4)
/-- The order in which R13 looks at the contexts of a core: those that do not yield before those that do, the supervisor
context first, then by priority, and within a priority from its pointer.
Log entry 58 (DEDUCED). -/
def Core.issueOrder (k : Core) (cyc : Nat) : List Nat :=
  let all := 4 :: ([3, 2, 1, 0].flatMap (fun p => (ringFrom (k.rr.get 0 p)).filter (fun x => decide ((k.ctx x).prio = p))))
  all.filter (fun x => !(k.ctx x).yields cyc) ++ all.filter (fun x => (k.ctx x).yields cyc)

/-! ## One cycle of a core -/

/-- A context that did not issue: the run of its interlock trace, and the watchdog of what it waits for (R29, R272). -/
def State.noteWait (s : State) (c x code : Nat) (on : Option WaitOn) : State :=
  let s1 := s.modCtx c x (fun v => v.stalled code)
  match on with
  | none => s1.modCtx c x (fun v => { v with waitOn := none })
  | some w =>
    match (s1.ctx c x).waitOn with
    | some (u, _) => if u = w then s1 else s1.startWatch c x w
    | none => s1.startWatch c x w
/-- The first context of a list that is ready, with the rest of the list. -/
def State.firstReady (s : State) (c : Nat) : List Nat → Option (Nat × List Nat)
  | [] => none
  | x :: xs => if s.standing c x = .ready then some (x, xs) else s.firstReady c xs
/-- The secondary joins when its bundle fits into the slots the primary leaves empty.
Log entry 58 (DEDUCED). -/
def State.issueSecond (s : State) (c : Nat) (rest : List Nat) (used : BitVec 8) : State × List Nat :=
  match s.firstReady c rest with
  | none => (s, [])
  | some (y, _) => if used &&& rawSlots (s.bundle c y) = 0 then (s.issue c y, [y]) else (s, [])
/-- Contexts that did not issue are noted. -/
def State.noteAll (c : Nat) (issued : List Nat) : List Nat → State → State
  | [], s => s
  | x :: xs, s =>
    let s1 :=
      if issued.contains x then s
      else
        match s.standing c x with
        | .out => s
        | .waits n on => s.noteWait c x n on
        | .ready => s.noteWait c x 0 none
    State.noteAll c issued xs s1
/-- The issue stage in a cycle in which bundles may issue.
Log entry 58 (DEDUCED). -/
def State.issueBundles (s : State) (c : Nat) : State :=
  let s1 := (upTo 5 0).foldl (fun t x => t.frontOf c x) s
  let (s2, issued) :=
    match s1.firstReady c ((s1.core c).issueOrder s.cyc) with
    | none => (s1, [])
    | some (x, rest) =>
      let used := rawSlots (s1.bundle c x)
      let t := (s1.issue c x).modCore c (fun k => if x = 4 then k else
        { k with rr := k.rr.set ((s1.core c).rankOf x) ((x + 1) % 4) })
      let (t2, second) := t.issueSecond c rest used
      (t2, x :: second)
  State.noteAll c issued (upTo 5 0) s2

/-- Issue is not held back by the throttle level of the cluster (R308, Table 19.5). -/
def State.unthrottled (s : State) (c : Nat) : Bool :=
  let l := (s.cluster (clusterOf c)).throttle
  decide (l = 0 ∨ (l = 1 ∧ s.cyc % 2 = 0) ∨ (l = 2 ∧ s.cyc % 4 = 0))
/-- Contexts in the middle of END go on when nothing may issue. -/
def State.retireAll (s : State) (c : Nat) : State :=
  (upTo 5 0).foldl (fun t x =>
    match (t.ctx c x).status with
    | .retiring aborted => t.tryRetire c x aborted
    | .free | .running | .trapped _ | .queued | .current | .parked | .restoring => t) s
/-- Context 4 waits in WAITI (R252, R265). -/
def State.idles (s : State) (c : Nat) : Bool :=
  (s.ctx c 4).runs && (s.bundleWaits c 4).any (fun e => decide (e.1 = 14)) &&
    (s.instrs c 4).any (fun e => match e.2 with | .waiti _ => true | _ => false)
/-- Since when context 4 waits in WAITI. -/
def State.noteIdle (s : State) (c : Nat) : State :=
  let w := s.idles c
  s.modCore c (fun k => { k with idleSince := if w then some (k.idleSince.getD s.cyc) else none })
/-- One cycle of a core's issue stage; a core that sleeps or is being swept takes no part (R265). -/
def State.issueCore (s : State) (c : Nat) : State :=
  if (s.core c).asleep ∨ s.cyc < (s.core c).awakeFrom then s
  else ((if s.unthrottled c then s.issueBundles c else State.noteAll c [] (upTo 5 0) (s.retireAll c)).noteIdle c).flushTrace c

/-! ## Steps -/

def onCore (c : Nat) (r : Res) : Res := if Config.cores ≤ c then .fault .noSuchUnit else r
def execIssueCycle (core : Nat) (s : State) : Res := onCore core (.next { s.issueCore core with turn := core + 1 })
/-- The code TVAL takes of a wait that its watchdog ends (Table 15.4). -/
def WaitOn.code : WaitOn → Nat
  | .port n => n
  | .fifo n => 0x3100 + n
  | .rdv id => 0x40000000 + id
/-- R29: a wait of 1,048,576 cycles for a port, a chain FIFO or a rendezvous ends in WDOG. -/
def execWatchdogExpiry (core ctx : Nat) (s : State) : Res :=
  onCtx core ctx (
    match (s.ctx core ctx).waitOn with
    | none => .next s
    | some (w, since) =>
      if s.watchOver core since then
        .next (s.modCtx core ctx (fun v =>
          { v with waitOn := none, events := { v.events with wdog := some (BitVec.ofNat 64 w.code) } }))
      else .next s)
/-- A run or a drain that has waited for a line for 1,048,576 cycles ends with WDOG (R160, R187). -/
def execEngineWatchdogExpiry (core : Nat) (unit : EngUnit) (s : State) : Res :=
  onCore core (
    match unit with
    | .matrixRun =>
      (match (s.core core).runNow with
      | some r =>
        if !r.ending && (isRun r.cmd && (decide (eSrc r.cmd.f ≠ 0) && s.watchOver core r.waitSince)) then
          .next (s.endRun core { r with stop := some { pos := 0, status := stWdog, addr := 0 } })
        else .next s
      | none => .next s)
    | .ppeDrain =>
      (match (s.core core).drainNow with
      | some d =>
        if !d.ending && s.watchOver core d.waitSince then
          .next (s.endDrain core { d with stop := statusStop stWdog 0, todo := [] })
        else .next s
      | none => .next s))
/-- The next index of a launch's claim counter, or −1 (R25). -/
def State.takeIndex (s : State) (lidx : Nat) : Word × State :=
  match s.launchOf lidx with
  | none => (BitVec.allOnes 64, s)
  | some l =>
    if l.claims < l.wcnt then (BitVec.ofNat 64 l.claims, s.setLaunch { l with claims := l.claims + 1 })
    else (BitVec.allOnes 64, s)
/-- The claim record whose turn it is in a replayed log, with the number of records it takes (R274). -/
def State.loggedClaim (s : State) (l : Launch) (vcore ctx : Nat) : Option (Nat × Nat) :=
  let r := s.logAt l l.logpos
  let low (q : Nat) : Nat := natField q 64 24 * 2 ^ 32 + natField q 32 32
  if recIs r 3 vcore ctx then some (low (s.logAt l (l.logpos + 1)) + natField r 32 8 * 2 ^ 56, 2)
  else if recIs r 2 vcore ctx then some (low r, 1)
  else none
/-- The answer of a CLAIM reaches its context: it lands at the next boundary, or in the register of a trapped context
(R25, R253).
Log entry 13 (DEDUCED). -/
def State.answerClaim (s : State) (c x : Nat) (w : ClaimWait) (index : Word) : State :=
  let v := s.ctx c x
  let val := index ^^^ w.flip
  let v1 := { v with claimWait := none, claims := v.claims ++ [index], replay := v.claims.length + 1 }
  let s1 := s.setCtx c x (
    if v.status = .running then
      { v1 with pwq := v1.pwq ++ [{ dest := .creg w.dest, val := val.zeroExtend 1024, mask := allLanes, rem := 1, flg := 0,
                                    mark := .clean, addr := 0 }] }
    else v1.writeC w.dest val)
  s1.afterAnswer c x
def execClaimAnswer (core ctx : Nat) (s : State) : Res :=
  onCtx core ctx (
    let v := s.ctx core ctx
    match v.claimWait with
    | none => .next s
    | some w =>
      match s.replayOf v.launch with
      | some l =>
        (match s.loggedClaim l v.vcore ctx with
        | some (index, n) => .next ((s.answerClaim core ctx w (BitVec.ofNat 64 index)).replayed v.launch n)
        | none => .next (s.scheduleFree (.claimAnswer core ctx)))
      | none =>
        let (index, s1) := s.takeIndex v.launch
        .next ((s1.answerClaim core ctx w index).logEvent v.launch (claimRecord v.vcore ctx index.toNat)))
/-- The trap of a context, with its place in the order of R251. -/
def Core.trapOf (k : Core) (x : Nat) : Option TrapRecord :=
  match (k.ctx x).status with
  | .trapped t => some t
  | .free | .running | .queued | .current | .parked | .restoring | .retiring _ => none
/-- The earliest trap that has not entered the queue; among traps of one cycle that of the lowest context.
Log entry 56 (DEDUCED). -/
def earliestTrap : List TrapRecord → Option TrapRecord
  | [] => none
  | t :: ts =>
    match earliestTrap ts with
    | none => some t
    | some u => if u.taken < t.taken then some u else some t
/-- Traps whose records are written enter the queue in their order, `n` at most.
Log entry 56 (DEDUCED). -/
def Core.queueTraps : Nat → Core → Core
  | 0, k => k
  | n + 1, k =>
    match earliestTrap ((upTo 4 0).filterMap k.trapOf) with
    | none => k
    | some t =>
      if t.written then
        Core.queueTraps n { k.setCtx t.ctx { k.ctx t.ctx with status := .queued } with trapQ := k.trapQ ++ [t] }
      else k
/-- The record of a trapped context is complete, and its trap enters the queue (R251, R254). -/
def execSnapshotRecordWrite (core ctx : Nat) (s : State) : Res :=
  onCtx core ctx (
    match (s.ctx core ctx).status with
    | .trapped t =>
      .next (((s.writeRecord core ctx t).modCtx core ctx (fun v => { v with status := .trapped { t with written := true } })).modCore
        core (Core.queueTraps 4))
    | .free | .running | .queued | .current | .parked | .restoring | .retiring _ => .next s)
/-- A restored context is ready; one whose record asked for it runs its segment again (R255), and the REWIND record of the
trace has a DATA that the spec does not state (log entry 48). -/
def execContextRestoreDone (core ctx : Nat) (s : State) : Res :=
  onCtx core ctx (
    match (s.ctx core ctx).status with
    | .restoring =>
      let s1 := s.modCtx core ctx (fun v => { v with status := .running })
      if (s1.ctx core ctx).rewind.isSome then
        .next ({ (s1.finishRewind core ctx) with draws := s.draws + 1 }.trace core ctx 4 0
          (fieldOf (Config.freeWord s.draws) 0 32) ((s1.finishRewind core ctx).ctx core ctx).pc)
      else .next s1
    | .free | .running | .queued | .current | .parked | .trapped _ | .retiring _ => .next s)
/-- Context 4 as at entry (R10), its accesses still on their way, with the checkpoint of its first segment. -/
def State.restartSupervisor (s : State) (c : Nat) : State :=
  (s.modCore c (fun k =>
    { k.setCtx 4 { Ctx.blank with status := .running, pc := k.supEntry, out := (k.ctx 4).out, nextAccess := (k.ctx 4).nextAccess,
                                  tileBase := (k.ctx 4).tileBase, tileCount := (k.ctx 4).tileCount } with saving := none })).openSegment
    c 4 0
/-- A supervisor fault (R247): firmware records the fault and starts context 4 again at its entry bundle, with its own
registers as at entry and its privileged registers unchanged.
Log entry 19 (DEDUCED). -/
def execSupervisorFault (core : Nat) (s : State) : Res :=
  onCore core (
    match (s.ctx core 4).status with
    | .trapped t => .next ((s.modCore core (fun k => { k with supFaults := k.supFaults ++ [t] })).restartSupervisor core)
    | .free | .running | .queued | .current | .parked | .restoring | .retiring _ => .next s)

end Sys2Proof.Machine
end

