-- ==== Sys2Proof/Machine/Launch.lean ====
section
/-!
DEFINITION. Launches (R8, R10, R28, R276 to R286): the host's writes to a launch slot, the start vector and its checks,
placement and pre-emption, what is set up before the first bundle, completion, and the partitions' events.
-/
namespace Sys2Proof.Machine

/-! ## The host and the launch slots (R276, R285, R292, R301) -/

/-- From stage 6 on a host may reach queues, events and the mailbox (R301). -/
def State.ready (s : State) : Bool := decide (s.boot.stage = 6)
def State.isOwner (s : State) (host : Nat) : Bool := s.ready && decide (s.owner.host = some host)
/-- Writes of a host without the right are discarded and counted in telemetry (R292). -/
def ownerWrite (host : Nat) (s : State) (t : State) : Res := .next (if s.isOwner host then t else s.count 1)
def execLaunchSlotWrite (host queue offset : Nat) (data : List Byte) (s : State) : Res :=
  if 64 ≤ queue then .fault .noSuchUnit
  else
    let q := s.queue queue
    ownerWrite host s (s.setQueue queue { q with staging := q.staging.write offset (data.take (0xFC0 - offset)) })
/-- The commit line: the staged vector joins the queue, which holds 32, and the staging copy is cleared. -/
def execLaunchCommit (host queue : Nat) (data : List Byte) (s : State) : Res :=
  if 64 ≤ queue then .fault .noSuchUnit
  else
    let q := s.queue queue
    ownerWrite host s
      (if 32 ≤ q.vectors.length then s.setQueue queue { q with ovf := true }
       else (s.setQueue queue { q with
         vectors := q.vectors ++ [q.staging.write 0xFC0 (data.take 64)], staging := [] }).schedulePlacement)
/-- Queue status: DEPTH, OVF and NOREC (R276). -/
def Queue.status (q : Queue) : Nat := q.vectors.length + bitNat q.ovf 6 + bitNat q.norec 7
/-- A boot register as it reads (Table 19.2). -/
def Boot.register (b : Boot) (offset : Nat) : Nat :=
  if offset = 0 then b.imgpa.toNat
  else if offset = 8 then b.pages
  else if offset = 0x18 then b.err.toNat * 2 ^ 8 + b.stage
  else if offset = 0x20 then b.statpa.toNat
  else 0
/-- Byte `i` of a number. -/
def byteOf (v i : Nat) : Nat := natField v (8 * i) 8
/-- A word of the telemetry page: a counter, or what it reports of a core: its counts of corrected and uncorrectable errors,
and whether it is fenced (R264, R304).
Log entry 69 (DESIGN CHOICE). -/
def State.telemetryWord (s : State) (w : Nat) : Nat :=
  if 0x300 ≤ w ∧ w < 0x300 + Config.cores then
    let k := s.core (w - 0x300)
    Nat.min k.corrected 0xFFFF + Nat.min k.uncorrectable 0x7FFF * 2 ^ 16 + (if s.telemetry.get 0 w = 0 then 0 else 2 ^ 31)
  else s.telemetry.get 0 w
/-- A byte of the device's register region (Table 19.1): boot registers, the nonce in the mailbox, telemetry counters,
events and queue status; every other byte reads 0.
Log entry 69 (DESIGN CHOICE). -/
def State.regionByte (s : State) (off : Nat) : Nat :=
  let inPage := off % 0x1000
  if off < 0x1000 then byteOf (s.boot.register (off - off % 8)) (off % 8)
  else if off < 0x2000 then (if inPage < 48 ∧ s.ready then byteOf (Config.nonce s.owner.nonceNo).toNat inPage else 0)
  else if off < 0x3000 then byteOf (s.telemetryWord (inPage / 4)) (inPage % 4)
  else if 0x80000 ≤ off ∧ off < 0x88000 then
    (if inPage < 0x200 then byteOf (s.partOf ((off - 0x80000) / 0x1000)).events.toNat inPage else 0)
  else if 0x100000 ≤ off ∧ off < 0x140000 then
    (if 0xFC0 ≤ inPage ∧ inPage < 0xFC8 then byteOf (s.queue ((off - 0x100000) / 0x1000)).status (inPage - 0xFC0) else 0)
  else 0
/-- The bytes that a read returns. -/
def State.regionValue (s : State) (offset len : Nat) : Nat :=
  (upTo len 0).foldl (fun v i => v + s.regionByte (offset + i) * 2 ^ (8 * i)) 0
/-- A read of a queue's status clears OVF and NOREC (R276). -/
def State.statusRead (offset len : Nat) (s : State) (q : Nat) : State :=
  let at_ := 0x100000 + 0x1000 * q + 0xFC0
  if at_ < offset + len ∧ offset < at_ + 8 then s.setQueue q { s.queue q with ovf := false, norec := false } else s
/-- A host's read of the register region, the queue status in it (R276, R285, R292, R300). -/
def execQueueStatusRead (host : Nat) (read : RegionRead) (s : State) : Res :=
  if 2 ^ 21 < read.offset + read.len then .fault .noSuchUnit
  else
    let s1 := (upTo 64 0).foldl (State.statusRead read.offset read.len) s
    .next { s1 with reply := s1.reply.set host (.value (s.regionValue read.offset read.len)) }
/-- Sets and clears of a partition's events; event 0 always reads clear (R285). -/
def Part.setEvents (p : Part) (bits : BitVec 4096) : Part := { p with events := (p.events ||| bits) &&& ~~~(1 : BitVec 4096) }
def Part.clearEvents (p : Part) (bits : BitVec 4096) : Part := { p with events := p.events &&& ~~~bits }
def execEventSet (host part : Nat) (bits : BitVec 4096) (s : State) : Res :=
  if 8 ≤ part then .fault .noSuchUnit
  else ownerWrite host s ((s.setPart part ((s.partOf part).setEvents bits)).schedulePlacement)
def execEventClear (host part : Nat) (bits : BitVec 4096) (s : State) : Res :=
  if 8 ≤ part then .fault .noSuchUnit
  else ownerWrite host s ((s.setPart part ((s.partOf part).clearEvents bits)).schedulePlacement)

/-! ## Start vectors and image tables (Tables 17.1 to 17.3) -/

def vecWord (v : Memory) (off : Nat) : Nat := v.load off 8
def vecImage (v : Memory) : Nat := natField (vecWord v 0) 0 32
def vecPart (v : Memory) : Nat := natField (vecWord v 0) 32 3
def vecPrio (v : Memory) : Nat := natField (vecWord v 0) 35 2
def vecRec (v : Memory) : Bool := natBit (vecWord v 0) 37
def vecReplay (v : Memory) : Bool := natBit (vecWord v 0) 38
def vecWait (v : Memory) (i : Nat) : Nat := natField (vecWord v 16) (16 * i) 12
def vecSignal (v : Memory) : Nat := natField (vecWord v 24) 0 12
def vecImgva (v : Memory) : Nat := vecWord v 32
def vecRecva (v : Memory) : Nat := vecWord v 40
def vecLogva (v : Memory) : Nat := vecWord v 48
def vecLogpages (v : Memory) : Nat := natField (vecWord v 56) 0 32
def vecEntry (v : Memory) (n : Nat) : Nat := v.load (64 + 4 * n) 4
/-- Virtual cores whose entry is used. -/
def vecCores (v : Memory) : List Nat := (upTo 192 0).filter (fun n => decide (vecEntry v n ≠ 0))
/-- Every event a vector awaits is set (R279). -/
def eventsSet (p : Part) (v : Memory) : Bool :=
  (upTo 4 0).all (fun i => decide (vecWait v i = 0) || bitOf p.events (vecWait v i))
/-- A reserved field or a field rule of the vector is broken. -/
def vecReserved (v : Memory) : Bool :=
  decide (natField (vecWord v 0) 39 25 ≠ 0) || (upTo 4 0).any (fun i => decide (natField (vecWord v 16) (16 * i + 12) 4 ≠ 0)) ||
    (decide (vecWord v 24 / 2 ^ 12 ≠ 0 ∨ vecWord v 56 / 2 ^ 32 ≠ 0 ∨ vecRecva v % 4096 ≠ 0 ∨ vecLogva v % 4096 ≠ 0) ||
      (decide (vecLogva v ≠ 0) && !(vecRec v || vecReplay v)) || !(v.window 960 3136).isEmpty)
/-- Where the command processor reads a VA; an address that a revoked window completes gives it nothing (R295).
Log entry 60 (DEDUCED). -/
def State.readPart (s : State) (part va : Nat) : Option Nat :=
  match s.xlatePart part va false with
  | none => none
  | some a => if s.revoked a then none else some a
/-- `n` bytes at a VA as the command processor reads them; at most one page boundary lies between. -/
def State.loadVa (s : State) (part va n : Nat) : Option Nat :=
  let first := 4096 - va % 4096
  if n ≤ first then (s.readPart part va).map (fun a => s.mem.load (s.storeAddr a) n)
  else
    match s.readPart part va, s.readPart part (va + first) with
    | some a, some b => some (s.mem.load (s.storeAddr a) first + 2 ^ (8 * first) * s.mem.load (s.storeAddr b) (n - first))
    | some _, none | none, some _ | none, none => none
/-- What a launch asks of one core. -/
structure Need where
  vcore : Nat
  entry : Nat
  codeva : Nat
  nb : Nat
  tiles : Nat
  blo : Nat
  bhi : Nat
  datava : Nat
  nd : Nat
  buffers : List Nat
  tables : List Nat
  sets : List Nat
  fifos : List Nat
  /-- Other bits of its table entry, which must be 0. -/
  other : Bool
  deriving DecidableEq, Repr
/-- The image-table entry of a virtual core. -/
def needOf (vcore entry : Nat) (e : Nat) : Need :=
  let w (i : Nat) : Nat := natField e (64 * i) 64
  { vcore := vcore, entry := entry, codeva := w 0, nb := natField (w 1) 0 14, tiles := natField (w 1) 16 7,
    blo := natField (w 1) 32 9, bhi := natField (w 1) 48 9, datava := w 2, nd := natField (w 3) 0 32,
    buffers := bitsOf 2 (natField (w 3) 32 2), tables := bitsOf 4 (natField (w 3) 34 4), sets := bitsOf 2 (natField (w 3) 38 2),
    fifos := bitsOf 8 (natField (w 3) 40 8),
    other := decide (natField (w 1) 14 2 ≠ 0 ∨ natField (w 1) 23 9 ≠ 0 ∨ natField (w 1) 41 7 ≠ 0 ∨ natField (w 1) 57 7 ≠ 0 ∨
      natField (w 3) 48 16 ≠ 0 ∨ w 0 % 64 ≠ 0) }
/-- The entries of the named cores, in order; none when one cannot be translated. -/
def State.needs (s : State) (part : Nat) (v : Memory) : List Nat → Option (List Need)
  | [] => some []
  | n :: ns =>
    match s.loadVa part (vecImgva v + 64 + 32 * n) 32, s.needs part v ns with
    | some e, some l => some (needOf n (vecEntry v n) e :: l)
    | some _, none | none, some _ | none, none => none
def allVas (s : State) (part : Nat) (write : Bool) (vas : List Nat) : Bool := vas.all (fun a => (s.xlatePart part a write).isSome)
/-- The addresses of pieces of `size` bytes. -/
def pieces (va size n : Nat) : List Nat := (upTo n 0).map (fun i => va + size * i)
/-- A core's code and data can be read. -/
def needReadable (s : State) (part : Nat) (n : Need) : Bool :=
  allVas s part false (pieces n.codeva 64 n.nb) &&
    (upTo n.nd 0).all (fun i => (s.loadVa part (n.datava + 144 * i) 144).isSome)
/-- Virtual clusters of a list of cores, in order. -/
def clustersOf : List Nat → List Nat
  | [] => []
  | n :: ns => let r := clustersOf ns; if r.contains (n / 4) then r else n / 4 :: r
def State.partClusters (s : State) (p : Nat) : List Nat := (upTo Config.clusters 0).filter (fun i => decide ((s.cluster i).part = p))
/-- RCODE of Table 17.4, 0 for a vector that may be placed (R282). The checks are made in this order (log entry 27). -/
def State.rejectCode (s : State) (q : Nat) (v : Memory) : Nat :=
  let part := (s.queue q).part
  if vecPart v ≠ part then 1
  else if vecReserved v then 2
  else if (vecCores v).isEmpty then 3
  else if (vecRec v && vecReplay v) || ((vecRec v || vecReplay v) && decide (vecLogpages v = 0)) then 7
  else if (s.xlatePart part (vecRecva v) true).isNone then 6
  else
    match s.loadVa part (vecImgva v) 8, s.needs part v (vecCores v) with
    | some w, some ns =>
      if w / 2 ^ 32 ≠ 0 ∨ ns.any (fun n => n.other) then 2
      else if w % 2 ^ 32 ≠ vecImage v ∨ ns.any (fun n => decide (n.nb < 2 ∨ Config.bundles < n.nb)) then 4
      else if ns.any (fun n => decide (n.nb ≤ n.entry)) then 3
      else if ns.any (fun n => decide (96 < n.tiles ∨ n.bhi < n.blo ∨ 383 < n.bhi)) ||
          decide ((s.partClusters part).length < (clustersOf (vecCores v)).length) then 5
      else if !(ns.all (needReadable s part)) then 6
      else if vecRec v && !(allVas s part true (pieces (vecLogva v) 4096 (vecLogpages v))) then 6
      else if vecReplay v && !(allVas s part false (pieces (vecLogva v) 4096 (vecLogpages v))) then 6
      else 0
    | some _, none | none, some _ | none, none => 6

/-! ## The conditions of R279 -/

/-- Contexts and launches that are gone, or are taken to be: a placement as it stands has none. -/
structure Gone where
  ctxs : List (Nat × Nat)
  launches : List Nat
  deriving DecidableEq, Repr
def Gone.nobody : Gone := { ctxs := [], launches := [] }
def Core.ctxFree (k : Core) (c : Nat) (g : Gone) (x : Nat) : Bool := decide ((k.ctx x).status = .free) || g.ctxs.contains (c, x)
def Core.tileFreeBut (k : Core) (c : Nat) (g : Gone) (t : Nat) : Bool :=
  !((upTo 4 0).any (fun x => !k.ctxFree c g x && decide ((k.ctx x).tileBase ≤ t ∧ t < (k.ctx x).tileBase + (k.ctx x).tileCount)))
def reservable (reserved : Nat) (g : Gone) : Bool := decide (reserved = 0) || g.launches.contains reserved
/-- A core meets the conditions for a need. -/
def Core.meets (k : Core) (c : Nat) (n : Need) (image : Nat) (g : Gone) : Bool :=
  !k.fenced && ((upTo 4 0).any (k.ctxFree c g) &&
    ((findFrom (fun b => (upTo n.tiles b).all (k.tileFreeBut c g)) (97 - n.tiles) 0).isSome &&
    ((upTo (n.bhi + 1 - n.blo) n.blo).all (fun b =>
        decide (fieldOf (k.bank b).owner 12 4 = 0) || g.launches.contains (k.bank b).launch) &&
    (n.buffers.all (fun i => reservable (k.buffer i).reserved g) && (n.tables.all (fun i => reservable (k.table i).reserved g) &&
    (n.sets.all (fun i => reservable (k.tanSet i).reserved g) &&
      (decide (k.image.map (fun e => e.1) = some image) || (upTo 4 0).all (k.ctxFree c g))))))))
def coreAt (cl vcore : Nat) : Nat := cl * Config.coresPerCluster + vcore % Config.coresPerCluster
/-- The FIFOs a cluster's entries name together are free. -/
def Cluster.fifosFree (q : Cluster) (ns : List Need) (g : Gone) : Bool :=
  ns.all (fun n => n.fifos.all (fun i => reservable (q.fifo i).reserved g))
/-- A cluster meets the conditions for the needs of one virtual cluster. -/
def State.clusterMeets (s : State) (cl prio image : Nat) (ns : List Need) (g : Gone) : Bool :=
  let q := s.cluster cl
  let cores := upTo Config.coresPerCluster (cl * Config.coresPerCluster)
  (decide (prio = 3) || cores.all (fun c => decide (q.cthr.toNat ≤ (s.core c).tallow))) &&
    (q.fifosFree ns g && ns.all (fun n => (s.core (coreAt cl n.vcore)).meets (coreAt cl n.vcore) n image g))
/-- Cores kept for another launch that pre-empts. -/
def State.keptFor (s : State) (queue cl : Nat) (ns : List Need) : Bool :=
  s.preempting.any (fun p => decide (p.queue ≠ queue) && ns.any (fun n => p.cores.contains (coreAt cl n.vcore)))
/-- Virtual clusters mapped, in order, to the lowest-numbered physical clusters that pass a test (R279). -/
def mapClusters (ok : Nat → List Need → Bool) (ns : List Need) : List Nat → List Nat → Option (List (Nat × Nat))
  | [], _ => some []
  | v :: vs, free =>
    match free.find? (fun cl => ok cl (ns.filter (fun n => decide (n.vcore / 4 = v)))) with
    | none => none
    | some cl => (mapClusters ok ns vs (free.filter (fun i => decide (i ≠ cl)))).map (fun l => (v, cl) :: l)
/-- The physical core of a virtual core under a map. -/
def mappedCore (m : List (Nat × Nat)) (vcore : Nat) : Nat :=
  match m.find? (fun e => decide (e.1 = vcore / 4)) with
  | none => 0
  | some e => coreAt e.2 vcore

/-! ## Setting up a core (R10, R283) -/

/-- The bundles of a core's image; the rest of instruction memory is cleared. -/
def State.loadCode (s : State) (part c : Nat) (n : Need) (image : Nat) : State :=
  let s0 := { s with mem := s.mem.clear (bundleAddr c 0 0) (64 * Config.bundles) }
  let s1 := (upTo n.nb 0).foldl (fun t i =>
    match s.loadVa part (n.codeva + 64 * i) 64 with
    | none => t
    | some v => { t with mem := t.mem.store (bundleAddr c 0 i) 64 v }) s0
  s1.modCore c (fun k => { k with image := some (image, n.nb), parity := k.parity.filter (fun l => decide (l < locBundle 0 0)) })
/-- A bank of the range: zeroed, its marks cleared, its tag table reset, owned by the context's L slots (R53). -/
def State.takeBank (c x launch : Nat) (s : State) (b : Nat) : State :=
  let a := spAddr c (b * Config.bankLines)
  { s with
    mem := s.mem.clear a (2 ^ 20),
    marks := s.marks.filter (fun e => !decide (a / 128 ≤ e.1 ∧ e.1 < a / 128 + Config.bankLines)) }.modCore c (fun k =>
      k.setBank b { Bank.pool with owner := lCode x, launch := launch, busyUntil := (k.bank b).busyUntil })
/-- The data records that name a line of the range (R88). -/
def State.loadData (s : State) (part c : Nat) (n : Need) : State :=
  (upTo n.nd 0).foldl (fun t i =>
    match s.loadVa part (n.datava + 144 * i) 144 with
    | none => t
    | some v =>
      let flat := natField v 0 64
      if n.blo ≤ bankOf flat ∧ bankOf flat ≤ n.bhi then t.storeLine (spAddr c flat) (BitVec.ofNat 1024 (v / 2 ^ 128)) else t) s
/-- Foreign logical banks leave the physical banks of the range, whose own banks come home (R305). -/
def Core.clearHomes (k : Core) (lo hi : Nat) : Core :=
  (upTo (hi + 1 - lo) lo).foldl (fun t b => if t.physical b = b then t else t.migrate b b) k
def Core.reserveFor (k : Core) (n : Need) (launch : Nat) : Core :=
  let k1 := n.buffers.foldl (fun t i => t.setBuffer i { t.buffer i with reserved := launch }) k
  let k2 := n.tables.foldl (fun t i => t.setTable i { t.table i with reserved := launch }) k1
  n.sets.foldl (fun t i => t.setTanSet i { t.tanSet i with reserved := launch }) k2
/-- The state a context first sees (Table 1.2), with segment 0 open and its checkpoint taken. -/
def entryCtx (l : Launch) (n : Need) (base : Nat) : Ctx :=
  { Ctx.blank with status := .running, launch := l.lidx, prio := l.prio, vcore := n.vcore, tileBase := base,
                   tileCount := n.tiles, pc := n.entry, argp := BitVec.ofNat 64 l.recva }
/-- What a start writes anew holds good parity: the context's registers and queues, and its tiles (Table 16.1). -/
def Core.mendStart (k : Core) (x base n : Nat) : Core :=
  { k with parity := k.parity.filter (fun l =>
      !decide (locReg x 0 ≤ l ∧ l < locReg (x + 1) 0 ∨ locP x 0 ≤ l ∧ l < locP (x + 1) 0 ∨
        locLane base 0 0 ≤ l ∧ l < locLane (base + n) 0 0)) }
/-- One core of a launch is set up, on its lowest-numbered free user context. The core is awake; one that sleeps wakes, and
issues after its sweep (R265). -/
def State.startCore (s : State) (part c image : Nat) (l : Launch) (n : Need) : State :=
  let s := s.wakeCore c
  let k := s.core c
  let x := (findFrom (fun x => decide ((k.ctx x).status = .free)) 4 0).getD 0
  let base := (k.tileBlock n.tiles).getD 0
  let s1 := if k.image.map (fun e => e.1) = some image then s else s.loadCode part c n image
  let s2 := (upTo (n.bhi + 1 - n.blo) n.blo).foldl (State.takeBank c x l.lidx) s1
  let s3 := s2.loadData part c n
  let s4 := s3.modCore c (fun k =>
    ((((k.zeroTiles base n.tiles).reserveFor n l.lidx).clearHomes n.blo n.bhi).setCtx x (entryCtx l n base)).mendStart x base n.tiles)
  let s5 := s4.modCluster (clusterOf c) (fun q => n.fifos.foldl (fun t i => t.setFifo i { t.fifo i with reserved := l.lidx }) q)
  s5.openSegment c x 0
/-- The place a core's need takes. -/
def State.memberOf (s : State) (m : List (Nat × Nat)) (n : Need) : Member :=
  let c := mappedCore m n.vcore
  { vcore := n.vcore, core := c, ctx := (findFrom (fun x => decide (((s.core c).ctx x).status = .free)) 4 0).getD 0, state := .active }
/-- The record of a launch as its vector describes it. -/
def launchFrom (v : Memory) (queue lidx rcode : Nat) (members : List Member) : Launch :=
  { lidx := lidx, part := vecPart v, prio := vecPrio v, recva := vecRecva v, signal := vecSignal v, wcnt := vecWord v 8,
    claims := 0, members := members, recording := vecRec v && decide (rcode = 0), replay := vecReplay v && decide (rcode = 0),
    logva := vecLogva v, logpages := vecLogpages v, logpos := 0, lost := false, queue := queue, rcode := rcode }
/-- A LIDX for a vector: that of its pre-emption, or the next (R283). -/
def State.takeLidx (s : State) (queue : Nat) : Nat × State :=
  match s.preempting.find? (fun p => decide (p.queue = queue)) with
  | some p => (p.lidx, { s with preempting := s.preempting.filter (fun p => decide (p.queue ≠ queue)) })
  | none => (s.lidx + 1, { s with lidx := s.lidx + 1 })
def State.dropHead (s : State) (queue : Nat) : State :=
  let q := s.queue queue
  s.setQueue queue { q with vectors := q.vectors.drop 1 }
/-- The argument line at RECVA, performed at device scope (R283). -/
def State.writeArg (s : State) (part : Nat) (v : Memory) : State :=
  match s.xlatePart part (vecRecva v) true with
  | none => s
  | some pa => s.performAt pa (v.bytes 832 128)
/-- A launch is placed on the clusters of a map (R283). -/
def State.place (s : State) (queue : Nat) (v : Memory) (ns : List Need) (m : List (Nat × Nat)) : State :=
  let (lidx, s0) := s.takeLidx queue
  let l := launchFrom v queue lidx 0 (ns.map (s.memberOf m))
  let s1 : State := { s0.dropHead queue with launches := s0.launches ++ [l] }
  (ns.foldl (fun t n => t.startCore l.part (mappedCore m n.vcore) (vecImage v) l n) s1).writeArg l.part v
/-- A rejected vector completes at once, without a context (R282). Its record and its event are those of its queue's
partition, whatever its PART names. -/
def State.reject (s : State) (queue : Nat) (v : Memory) (rcode : Nat) : State :=
  let (lidx, s0) := s.takeLidx queue
  { s0.dropHead queue with launches := s0.launches ++ [{ launchFrom v queue lidx rcode [] with part := (s.queue queue).part }] }.scheduleFree (.launchCompletion lidx)

/-- Layers of a core up to that of BHI that are off (R305).
Log entry 28 (DEDUCED). -/
def Core.layersOff (k : Core) (n : Need) : List Nat := (upTo (n.bhi / 64 + 1) 0).filter (fun i => !k.layerOn i)

/-! ## Pre-emption (R281) -/

/-- Contexts of a core that may be victims: lowest priority first, and among equals the latest-placed launch. -/
def Core.victims (k : Core) (c : Nat) : List (Nat × Nat × Nat) :=
  let all := ((upTo 4 0).filter (fun x => decide ((k.ctx x).status ≠ .free ∧ (k.ctx x).prio < 3))).map (fun x =>
    ((k.ctx x).prio, (k.ctx x).launch, x))
  [0, 1, 2].flatMap (fun p => (all.filter (fun e => decide (e.1 = p))).insertionSort (fun a b => b.2.1 ≤ a.2.1))
    |>.map (fun e => (c, e.2.2, e.2.1))
/-- The shortest start of a list of victims with which a test passes. -/
def growVictims (ok : Gone → Bool) : Gone → List (Nat × Nat × Nat) → Option Gone
  | g, [] => if ok g then some g else none
  | g, v :: vs =>
    if ok g then some g
    else growVictims ok { ctxs := g.ctxs ++ [(v.1, v.2.1)], launches := g.launches ++ [v.2.2] } vs
/-- What must be gone from a cluster for the needs of a virtual cluster, core by core, with its FIFOs.
Log entry 27 (DEDUCED). -/
def State.victimsOf (s : State) (cl image : Nat) (ns : List Need) : List Need → Gone → Option Gone
  | [], g =>
    growVictims (fun g => (s.cluster cl).fifosFree ns g) g
      ((upTo Config.coresPerCluster (cl * Config.coresPerCluster)).flatMap (fun c => (s.core c).victims c))
  | n :: rest, g =>
    let c := coreAt cl n.vcore
    match growVictims (fun g => (s.core c).meets c n image g) g ((s.core c).victims c) with
    | none => none
    | some g1 => s.victimsOf cl image ns rest g1
/-- The launches that must go for a map of clusters. -/
def State.allVictims (s : State) (image : Nat) (ns : List Need) : List (Nat × Nat) → Gone → Option Gone
  | [], g => some g
  | (v, cl) :: m, g =>
    let mine := ns.filter (fun n => decide (n.vcore / 4 = v))
    match s.victimsOf cl image mine mine g with
    | none => none
    | some g1 => s.allVictims image ns m g1
/-- Every context of a launch takes PRE, with the LIDX of the launch that pre-empts. -/
def State.preempt (lidx : Nat) (s : State) (victim : Nat) : State :=
  match s.launchOf victim with
  | none => s
  | some l =>
    (l.members.filter (fun m => decide (m.state = .active))).foldl (fun t m =>
      t.modEvents m.core m.ctx (fun e => { e with pre := some (BitVec.ofNat 64 lidx) })) s
/-- A priority-3 launch that lacks resources chooses its victims, unless it has. -/
def State.startPreemption (s : State) (queue : Nat) (v : Memory) (ns : List Need) : State :=
  if s.preempting.any (fun p => decide (p.queue = queue)) then s
  else
    let ok (cl : Nat) (mine : List Need) : Bool := !s.keptFor queue cl mine && (s.victimsOf cl (vecImage v) mine mine Gone.nobody).isSome
    match mapClusters ok ns (clustersOf (ns.map (fun n => n.vcore))) (s.partClusters (vecPart v)) with
    | none => s
    | some m =>
      match s.allVictims (vecImage v) ns m Gone.nobody with
      | none => s
      | some g =>
        let lidx := s.lidx + 1
        let p : Preempting := { queue := queue, lidx := lidx, cores := ns.map (fun n => mappedCore m n.vcore) }
        g.launches.eraseDups.foldl (State.preempt lidx) { s with lidx := lidx, preempting := s.preempting ++ [p] }

/-! ## The dispatcher (R279) -/

/-- What one look at the head of a queue leads to. -/
inductive Looked where
  | rejected (s : State)
  | placed (s : State)
  | waits (s : State)
  deriving DecidableEq, Repr
/-- Every layer that the needs of a launch await is powered on (R305). -/
def State.powerNeeds (s : State) (m : List (Nat × Nat)) (ns : List Need) : State :=
  ns.foldl (fun t n =>
    ((s.core (mappedCore m n.vcore)).layersOff n).foldl (State.powerLayer (mappedCore m n.vcore)) t) s
/-- One look at the head of a queue: rejected, placed, or waiting (R279). -/
def State.lookAt (s : State) (queue : Nat) (v : Memory) : Looked :=
  let rc := s.rejectCode queue v
  if rc ≠ 0 then .rejected (s.reject queue v rc)
  else
    let part := vecPart v
    match s.needs part v (vecCores v) with
    | none => .waits s
    | some ns =>
      let ok (cl : Nat) (mine : List Need) : Bool :=
        !s.keptFor queue cl mine && s.clusterMeets cl (vecPrio v) (vecImage v) mine Gone.nobody
      match mapClusters ok ns (clustersOf (vecCores v)) (s.partClusters part) with
      | some m =>
        if ns.all (fun n => ((s.core (mappedCore m n.vcore)).layersOff n).isEmpty) then .placed (s.place queue v ns m)
        else .waits (s.powerNeeds m ns)
      | none => .waits (if vecPrio v = 3 then s.startPreemption queue v ns else s)
/-- Queues in round-robin order from a pointer. -/
def queueRing (p : Nat) : List Nat := (upTo 64 0).map (fun i => (p + i) % 64)
/-- The head of a queue when it is eligible: every event it awaits is set. -/
def State.eligible (s : State) (q : Nat) : Option Memory :=
  match (s.queue q).vectors with
  | [] => none
  | v :: _ => if eventsSet (s.partOf (s.queue q).part) v then some v else none
/-- A launch of priority 0 to 2 that waits holds back a head of its partition with its priority or a lower one; of two
that wait with one priority, the earlier holds back the later (R279).
Log entry 27 (DEDUCED). -/
def State.heldBack (s : State) (q : Nat) (v : Memory) : Bool :=
  let before := s.waiters.takeWhile (fun w => decide (w ≠ q))
  s.waiters.any (fun w =>
    decide (w ≠ q ∧ (s.queue w).part = (s.queue q).part) &&
      (match s.eligible w with
      | none => false
      | some u => decide (vecPrio u < 3) && (decide (vecPrio v < vecPrio u) || (decide (vecPrio v = vecPrio u) && before.contains w))))
/-- The head of a queue has left it: the next is looked for, and those that it held back. -/
def State.leftQueue (s : State) (q : Nat) : State :=
  let t : State := { s with waiters := s.waiters.filter (fun w => decide (w ≠ q)) }
  if (t.queue q).vectors.isEmpty && !s.waiters.contains q then t else t.schedulePlacement
/-- The queues of one priority, in order: eligible heads that nothing holds back are looked at; a malformed one is rejected
whatever waits (R282). The pointer moves past a queue that is placed (R279).
Log entry 27 (DEDUCED). -/
def State.lookAll (prio : Nat) : List Nat → State → State
  | [], s => s
  | q :: qs, s =>
    match s.eligible q with
    | none => State.lookAll prio qs s
    | some v =>
      if vecPrio v ≠ prio ∨ s.heldBack q v ∧ s.rejectCode q v = 0 then State.lookAll prio qs s
      else
        match s.lookAt q v with
        | .rejected t => State.lookAll prio qs (t.leftQueue q)
        | .placed t => State.lookAll prio qs (({ t with qptr := t.qptr.set prio ((q + 1) % 64) } : State).leftQueue q)
        | .waits t => State.lookAll prio qs (if prio = 3 ∨ t.waiters.contains q then t else { t with waiters := t.waiters ++ [q] })
/-- One placement attempt: eligible heads in descending priority. -/
def execLaunchPlacement (s : State) : Res :=
  let run (s : State) (prio : Nat) : State := State.lookAll prio (queueRing (s.qptr.get 0 prio)) s
  .next ([3, 2, 1, 0].foldl run s)

/-! ## Completion (R28, R284) -/

/-- The words of a completion record. -/
def completionRecord (l : Launch) : Nat :=
  let aborted := l.members.any (fun m => decide (m.state = .aborted))
  let w0 := (if l.rcode ≠ 0 then 2 else aborted.toNat) + bitNat l.lost 2 + l.rcode * 2 ^ 8
  let bits := (l.members.filter (fun m => decide (m.state = .aborted))).foldl (fun n m => if natBit n m.vcore then n else n + 2 ^ m.vcore) 0
  w0 + l.lidx % 2 ^ 64 * 2 ^ 64 + l.wcnt % 2 ^ 64 * 2 ^ 128 + l.claims % 2 ^ 64 * 2 ^ 192 + bits % 2 ^ 192 * 2 ^ 256
/-- The record at RECVA + 128; one that cannot be written sets NOREC of the queue (R282). -/
def State.writeCompletion (s : State) (l : Launch) : State :=
  match s.xlatePart l.part (l.recva + 128) true with
  | none => s.setQueue l.queue { s.queue l.queue with norec := true }
  | some pa => s.performAt pa (bytesOf 56 (completionRecord l))
/-- The reservations of a launch end on its cores and clusters (R280). -/
def State.endReservations (s : State) (l : Launch) : State :=
  l.members.foldl (fun t m =>
    (t.modCore m.core (Core.freeReserved l.lidx)).modCluster (clusterOf m.core) (Cluster.freeReserved l.lidx)) s
/-- A launch whose contexts have all retired, or that was rejected, completes: its record, then its event. -/
def execLaunchCompletion (lidx : Nat) (s : State) : Res :=
  match s.launchOf lidx with
  | none => .next s
  | some l =>
    if !l.over then .next s
    else
      let s1 := (s.writeCompletion l).endReservations l
      let s2 : State := { s1 with launches := s1.launches.filter (fun q => decide (q.lidx ≠ lidx)) }
      .next ((s2.setPart l.part ((s2.partOf l.part).setEvents (BitVec.ofNat 4096 (2 ^ l.signal)))).schedulePlacement)

end Sys2Proof.Machine
end

