-- ==== Sys2Proof/Machine/Host.lean ====
section
/-!
DEFINITION. What hosts and peers do to the part (R252, R279, R292 to R296, R303, R308 to R313): the owner mailbox,
partitions, peer windows and their revocation, requests of peers, host accesses to HBM, and the links.
-/
namespace Sys2Proof.Machine

/-! ## The owner mailbox (R292, R301) -/

def State.answer (s : State) (host : Nat) (r : Reply) : State := { s with reply := s.reply.set host r }
/-- Until stage 6 the mailbox answers every request with NOTREADY (R301). -/
def mailbox (host : Nat) (s t : State) : Res := .next (if s.ready then t else s.answer host .notReady)
/-- A request that only the owner may make; another host's is discarded and counted (R292).
Log entry 51 (DEDUCED). -/
def ownerMail (host : Nat) (s t : State) : Res := mailbox host s (if s.isOwner host then t else s.count 1)
/-- The nonce of the current election. -/
def Owner.currentNonce (o : Owner) : BitVec 384 := Config.nonce o.nonceNo
/-- Whether a CLAIM makes its host the owner: its signature over the nonce verifies, and there is no owner or its key is
that of the pending hand-over (R292, log entry 51). -/
def Owner.accepts (o : Owner) (key sig : BitVec 768) : Bool :=
  Config.ecdsaVerifies key (Config.sha384 (bytesOf 48 o.currentNonce.toNat)) sig &&
    (o.host.isNone || decide (o.successor = some (Config.sha384 (bytesOf 96 key.toNat))))
def execOnaetClaim (host : Nat) (key sig : BitVec 768) (s : State) : Res :=
  mailbox host s
    (if s.owner.accepts key sig then
      ({ s with owner := { host := some host, key := Config.sha384 (bytesOf 96 key.toNat), successor := none,
                           nonceNo := s.owner.nonceNo + 1 } } : State).answer host .ok
     else s.answer host .notOwner)
def execHandover (host : Nat) (hash : BitVec 384) (s : State) : Res :=
  ownerMail host s (({ s with owner := { s.owner with successor := some hash } } : State).answer host .ok)
def execCancel (host : Nat) (s : State) : Res :=
  ownerMail host s (({ s with owner := { s.owner with successor := none } } : State).answer host .ok)
/-- SUPMSG: a core queues up to 4 messages and answers BUSY to a fifth; a core that sleeps wakes (R252, R265). -/
def execSupmsg (host core : Nat) (value : Word) (s : State) : Res :=
  if Config.cores ≤ core then .fault .noSuchUnit
  else
    ownerMail host s
      (if 4 ≤ (s.core core).msgQ.length then s.answer host .busy
       else ((s.modCore core (fun k => { k with msgQ := k.msgQ ++ [value] })).wakeCore core).answer host .ok)

/-! ## Attestation (R303, Table 19.4) -/

/-- An entry of the repair map as bytes (log entry 52). -/
def repairBytes : RepairEntry → List Byte
  | .row c b r n => bytesOf 1 0 ++ (bytesOf 2 c ++ (bytesOf 2 b ++ (bytesOf 2 r ++ bytesOf 2 n)))
  | .lane c v l n => bytesOf 1 1 ++ (bytesOf 2 c ++ (bytesOf 2 v ++ (bytesOf 2 l ++ bytesOf 2 n)))
/-- The owner's key hash, the partition table and the window table as bytes (log entry 52). -/
def State.tableBytes (s : State) : List Byte :=
  bytesOf 48 s.owner.key.toNat ++ ((upTo Config.clusters 0).flatMap (fun i => bytesOf 1 (s.cluster i).part) ++
    ((upTo 64 0).flatMap (fun q => bytesOf 1 (s.queue q).part) ++
      ((upTo 8 0).flatMap (fun p => bytesOf 1 (s.partOf p).otag.toNat) ++
        (upTo 64 0).flatMap (fun w =>
          bytesOf 8 (s.window w).word0.toNat ++ (bytesOf 8 (s.window w).base.toNat ++ bytesOf 8 (s.window w).size.toNat)))))
/-- Bytes of the image: its number of body bytes L, and the header and body. -/
def imageLength (img : List Byte) : Nat := natOfBytes ((img.drop 16).take 4)
def imageMeasured (img : List Byte) : List Byte := img.take (512 + imageLength img)
/-- Bytes 0 to 511 of the report.
Log entry 52 (DESIGN CHOICE). -/
def State.reportBytes (s : State) (nonce : BitVec 384) : List Byte :=
  let key := bytesOf 96 Config.identityKey.toNat
  (bytesOf 48 (Config.sha384 key).toNat).take 16 ++ (key ++ (bytesOf 48 nonce.toNat ++ (bytesOf 8 s.boot.version.toNat ++
    (bytesOf 48 (Config.sha384 (imageMeasured s.boot.image)).toNat ++
      (bytesOf 48 (Config.sha384 (s.repair.flatMap repairBytes)).toNat ++
        (bytesOf 48 (Config.sha384 s.tableBytes).toNat ++ bytesOf 200 0))))))
/-- The report, with its signature under the identity key, for any host. -/
def execAttestationRequest (host : Nat) (nonce : BitVec 384) (s : State) : Res :=
  mailbox host s
    (s.answer host (.report (s.reportBytes nonce ++ bytesOf 96 (Config.identitySign (s.reportBytes nonce)).toNat)))

/-! ## Keys, partitions, thresholds and the power cap (R279, R293, R308, R311) -/

/-- A new key of an owner tag: its flits count from 0 again, and those that had stopped are sent (R311, log entry 53). -/
def Link.install (l : Link) (n : Nat) (otag key : BitVec 8) (k : BitVec 256) : Link :=
  let l1 := { l with keys := l.keys.set (keyIndex otag key) k, seqs := l.seqs.erase otag.toNat,
                     waiting := l.waiting.filter (fun p => decide (p.otag ≠ otag)) }
  (l.waiting.filter (fun p => decide (p.otag = otag))).foldl (fun t p => t.send n p) l1
/-- A key is installed for a pair on a link. -/
def execKeyInstall (host link : Nat) (otag key : BitVec 8) (wrapped : BitVec 512) (s : State) : Res :=
  if 12 ≤ link then .fault .noSuchUnit
  else
    ownerMail host s ((s.setLink link ((s.link link).install link otag key (Config.unwrapKey wrapped))).answer host .ok)
/-- A context of a launch is in use on a cluster. -/
def State.clusterInUse (s : State) (cl : Nat) : Bool :=
  (upTo Config.coresPerCluster (cl * Config.coresPerCluster)).any (fun c =>
    (upTo 4 0).any (fun x => decide ((s.ctx c x).status ≠ .free)))
/-- A change of the partition table, or its refusal with a reason (R293). -/
def State.changePart (s : State) (host : Nat) : PartChange → State
  | .cluster cl p =>
    if s.clusterInUse cl then s.answer host (.refused 1)
    else ((s.modCluster cl (fun k => { k with part := p })).answer host .ok).schedulePlacement
  | .queue q p =>
    if !(s.queue q).vectors.isEmpty then s.answer host (.refused 2)
    else (s.setQueue q { s.queue q with part := p }).answer host .ok
  | .otag p tag => (s.setPart p { s.partOf p with otag := tag }).answer host .ok
/-- The cluster, queue and partition that a change names exist. -/
def execPartitionConfig (host : Nat) (change : PartChange) (s : State) : Res :=
  if !changeExists change then .fault .noSuchUnit else ownerMail host s (s.changePart host change)
def execCthrWrite (host cluster : Nat) (v : BitVec 8) (s : State) : Res :=
  if Config.clusters ≤ cluster then .fault .noSuchUnit
  else ownerMail host s (((s.modCluster cluster (fun k => { k with cthr := v })).answer host .ok).schedulePlacement)
/-- The cap may be 1,500 to 2,800 W (R308).
Log entry 34 (DEDUCED). -/
def execPowerCapWrite (host watts : Nat) (s : State) : Res :=
  ownerMail host s
    (if 1500 ≤ watts ∧ watts ≤ 2800 then ({ s with powerCap := watts } : State).answer host .ok
     else s.answer host (.refused 3))

/-! ## Requests cut off (R296, R313) -/

/-- A copy ends with REVOKED at an address: what it has in flight to a window is gone. -/
def State.cutChannel (s : State) (c ch addr : Nat) (keepWrite : OutLine → Bool) (keepRead : Fetch → Bool) : State :=
  match s.chan c ch with
  | none => s
  | some h =>
    (s.setChan c ch ({ h with
      coming := h.coming.filter keepRead,
      writing := h.writing.filter (fun w => w.flat.isSome || keepWrite w.out) }.fault stRevoked addr)).channelGoesOn c ch
/-- A write in flight completes with REVOKED: its command ends so, or its store is dropped and acknowledged. -/
def State.cutWrite (s : State) (g : GWrite) : State :=
  match (s.ctx g.core g.ctx).findAccess g.acc with
  | none => s
  | some a =>
    match (s.core g.core).channelOf g.ctx g.acc with
    | some ch =>
      (match s.chan g.core ch with
      | some h => s.cutChannel g.core ch (unitVa h.cmd.da (if h.cmd.isPlain then unitLines h.cmd else 1)
          (g.unit / (if h.cmd.isPlain then unitLines h.cmd else 1)) (g.unit % (if h.cmd.isPlain then unitLines h.cmd else 1)))
          (fun o => decide (o.idx ≠ g.unit)) (fun _ => true)
      | none => s)
    | none =>
      if s.writes.any (fun h => decide (h.core = g.core ∧ h.ctx = g.ctx ∧ h.acc = g.acc)) then s
      else s.finishAccess g.core g.ctx g.acc stRevoked a.va
/-- The reads of a core's copies that are in flight to addresses cut off. -/
def State.cutReads (hit : Nat → Bool) (s : State) (c ch : Nat) : State :=
  match s.chan c ch with
  | none => s
  | some h =>
    let cut (e : Fetch) : Bool := match e.pa with | some pa => hit pa | none => false
    match h.coming.find? cut with
    | none => s
    | some e => s.cutChannel c ch e.src (fun _ => true) (fun e => !cut e)
/-- Loads of a context in flight to addresses cut off return in this cycle (R140, R295). -/
def State.cutLoads (hit : Nat → Bool) (s : State) (c x : Nat) : State :=
  ((s.ctx c x).out.filter (fun a => a.kind.isLoad && (decide (a.progress = .started) && hit a.pa))).foldl (fun t a =>
    t.schedule t.cyc (.globalLoadReturn c x a.num)) s
/-- Updates of a core's scatter-accumulate engine in flight to addresses cut off: their window ends in this cycle. -/
def State.cutUpdates (hit : Nat → Bool) (s : State) (c : Nat) : State :=
  match (s.core c).scaNow with
  | none => s
  | some r =>
    if r.sent.any hit then (s.modCore c (fun k => { k with scaNow := some { r with due := s.cyc } })).schedule s.cyc (.scaWindowApply c)
    else s
/-- Every request in flight to addresses cut off completes locally in this cycle with REVOKED. -/
def State.cutOff (hit : Nat → Bool) (s : State) : State :=
  let gone := s.writes.filter (fun g => hit g.pa)
  let s1 := gone.foldl State.cutWrite { s with writes := s.writes.filter (fun g => !hit g.pa) }
  (upTo Config.cores 0).foldl (fun t c =>
    (upTo 4 0).foldl (fun t ch => State.cutReads hit t c ch)
      ((upTo 5 0).foldl (fun t x => State.cutLoads hit t c x) (State.cutUpdates hit t c))) s1

/-! ## Peer windows (R294 to R296) -/

/-- A full entry that may open a window: STATE 01, SIZE a multiple of 4 KiB. -/
def entryOk (word0 size : Word) : Bool := decide (fieldOf word0 0 2 = 1 ∧ size.toNat % 4096 = 0)
/-- Word 0 of a window as it is stored: its reserved fields stay 0 (R6, Table 17.12). -/
def windowWord (v : Word) : Word := v &&& 0x0000_FFFF_FFFF_073F
/-- A write of a full entry opens a FREE window; any other such write is discarded. -/
def execWindowOpen (host window : Nat) (word0 base size : Word) (s : State) : Res :=
  if 64 ≤ window then .fault .noSuchUnit
  else
    ownerMail host s
      (if (s.window window).stateNo = 0 ∧ entryOk word0 size then
        (s.setWindow window { word0 := windowWord word0, base := base, size := size, infl := 0 }).answer host .ok
       else s)
/-- A window with another STATE. -/
def Window.withState (w : Window) (n : Nat) : Window := { w with word0 := putField w.word0 0 2 n }
def inWindow (n pa : Nat) : Bool := decide (placeOf pa = .window n)
/-- A write of STATE 10 to an OPEN window. -/
def execWindowRevoke (host window : Nat) (s : State) : Res :=
  if 64 ≤ window then .fault .noSuchUnit
  else
    let w := s.window window
    ownerMail host s
      (if w.stateNo ≠ 1 then s
       else if w.dir then (s.setWindow window (w.withState 2)).answer host .ok
       else (State.cutOff (inWindow window) (s.setWindow window { w.withState 2 with infl := 0 })).answer host .ok)
/-- A write of STATE 00 frees a REVOKED window only when INFL is 0. -/
def execWindowFree (host window : Nat) (s : State) : Res :=
  if 64 ≤ window then .fault .noSuchUnit
  else
    let w := s.window window
    ownerMail host s
      (if w.stateNo = 2 ∧ w.infl = 0 then (s.setWindow window (w.withState 0)).answer host .ok else s)
/-- The bytes a request of a peer reaches. -/
def inboundSize : InboundOp → Nat
  | .read len => len
  | .write data => data.length
  | .atomicAdd _ => 8
/-- The permission bit a request needs (Table 17.12). -/
def inboundPermission : InboundOp → Nat
  | .read _ => 3
  | .write _ => 4
  | .atomicAdd _ => 5
/-- An OPEN inbound window accepts a request: OTAG, KEY, range and permission match. -/
def Window.accepts (w : Window) (otag key : BitVec 8) (addr n perm : Nat) : Bool :=
  decide (w.stateNo = 1) && (w.dir && (bitOf w.word0 perm &&
    decide (fieldOf w.word0 16 8 = otag.toNat ∧ fieldOf w.word0 24 8 = key.toNat ∧ w.base.toNat ≤ addr ∧
      addr + n ≤ w.base.toNat + w.size.toNat ∧ addr + n ≤ Config.hbmBytes)))
/-- Where the model keeps the answer to a peer's request, by owner tag. -/
def peerReply (otag : BitVec 8) : Nat := 2 ^ 32 + otag.toNat
/-- The flit that answers a peer's request, under the key of the request (R311).
Log entry 53 (DESIGN CHOICE). -/
def answerPacket (otag key : BitVec 8) (src draw : Nat) : Packet :=
  { otag := otag, key := key, typ := Config.answerType draw, dst := BitVec.ofNat 16 src, src := Config.deviceId,
    payload := (Config.answerBytes draw).take maxPayload }
/-- An answer to a peer's request, kept and sent. -/
def State.answerPeer (s : State) (otag key : BitVec 8) (src : Nat) (r : Reply) : State :=
  let s1 := s.answer (peerReply otag) r
  match s.linkTo src with
  | none => s1
  | some n => ({ s1 with draws := s1.draws + 1 } : State).sendPacket n (answerPacket otag key src s.draws)
/-- A request of the peer `src`: performed, or answered REVOKED and counted against its OTAG. -/
def execInboundRequest (otag key : BitVec 8) (addr : Nat) (op : InboundOp) (src : Nat) (s : State) : Res :=
  if (upTo 64 0).any (fun w => (s.window w).accepts otag key addr (inboundSize op) (inboundPermission op)) then
    match op with
    | .read len => .next (s.answerPeer otag key src (.value (s.mem.load addr len)))
    | .write data => .next ((s.performBytes addr data).answerPeer otag key src .ok)
    | .atomicAdd v =>
      .next ((s.performBytes addr (bytesOf 8 (s.loadWord addr + v).toNat)).answerPeer otag key src
        (.value (s.loadWord addr).toNat))
  else .next ((s.answerPeer otag key src (.refused 0x44)).count (0x200 + otag.toNat))

/-! ## Host accesses to HBM (R301, R309) -/

/-- CXL.mem exposes the HBM from stage 6 on; a host writes its own memory, from which the boot ROM reads the image (R301),
at any time. -/
def execHostMemoryAccess (host addr : Nat) (op : HostOp) (s : State) : Res :=
  match op with
  | .own data =>
    .next (if Config.hostBytes < addr + data.length then s.answer host .none
      else (s.performBytes (Config.hostBase + addr) data).answer host .ok)
  | .read len =>
    .next (if !s.ready || decide (Config.hbmBytes < addr + len) then s.answer host .none
      else s.answer host (.value (s.mem.load addr len)))
  | .write data =>
    .next (if !s.ready || decide (Config.hbmBytes < addr + data.length) then s.answer host .none
      else (s.performBytes addr data).answer host .ok)

/-! ## Links (R311 to R313, Table 19.9) -/

/-- A link's state, lanes and cost. -/
def Link.with_ (l : Link) (state lanes cost : Nat) : Link :=
  { l with word := putField (putField (putField l.word 0 2 state) 8 4 lanes) 16 16 cost }
/-- Every request in flight to peers that have lost their last route completes (R313). -/
def State.cutPeers (s : State) (lost : Nat → Bool) : State :=
  let gone (w : Nat) : Bool := lost (s.window w).peer
  State.cutOff (fun pa => match placeOf pa with | .window w => gone w | .hbm | .host | .scratch _ => false)
    { s with windows := s.windows.map (fun e => if e.2.dir ∨ !lost e.2.peer then e else (e.1, { e.2 with infl := 0 })) }
/-- A link changes: word n of the status page shows it, and peers without a route are cut off (R313). -/
def State.changeLink (s : State) (n : Nat) (l : Link) : State :=
  let s1 := s.setLink n l
  let s2 := if s.ready then s1.performBytes (s.boot.statpa.toNat + 8 * n) (bytesOf 8 l.word.toNat) else s1
  if s.windows.any (fun e => !e.2.dir && (s.routedTo e.2.peer && !s2.routedTo e.2.peer)) then
    s2.cutPeers (fun p => s.routedTo p && !s2.routedTo p)
  else s2
/-- A link that is not down retrains. -/
def State.retrain (s : State) (n : Nat) : State :=
  let l := s.link n
  if l.stateNo = 0 then s else s.changeLink n { l.with_ 3 l.lanes l.cost with failures := [] }
def execLinkRetrain (link : Nat) (s : State) : Res :=
  if 12 ≤ link then .fault .noSuchUnit else .next (s.retrain link)
/-- Training ends at full width with 8 lanes, at half width with fewer; without a lane the link is down. -/
def execLinkTrainingComplete (link : Nat) (s : State) : Res :=
  if 12 ≤ link then .fault .noSuchUnit
  else
    let l := s.link link
    if l.stateNo ≠ 3 then .next s
    else .next (s.changeLink link (l.with_ (if l.lanes = 8 then 1 else if l.lanes = 0 then 0 else 2) l.lanes l.cost))
/-- A lane is lost: a link of full width falls to 4 lanes, with half its window and weight and twice its cost; one of
half width loses a lane, and without a lane it is down (R313).
Log entry 50 (DESIGN CHOICE). -/
def Link.loseLane (l : Link) : Link :=
  if l.lanes = 8 then
    { l.with_ 2 4 (Nat.min (2 * l.cost) 0xFFFF) with window := l.window / 2, weight := l.weight / 2 }
  else l.with_ (if l.lanes ≤ 1 then 0 else if l.stateNo = 3 then 3 else 2) (l.lanes - 1) l.cost
def execLinkLaneLoss (link : Nat) (s : State) : Res :=
  if 12 ≤ link then .fault .noSuchUnit
  else if (s.link link).stateNo = 0 then .next s
  else .next (s.changeLink link (s.link link).loseLane)

/-! ## Flits that arrive (R311, R312, Table 19.8) -/

/-- What a flit holds when the key installed for its pair opens it, at most 224 bytes (R311).
Log entry 53 (DESIGN CHOICE). -/
def flitOpens (f : Flit) (link : Nat) (l : Link) : Option Packet :=
  match l.keys.at? (keyIndex f.otag f.key) with
  | none => none
  | some k =>
    (Config.gcmOpen k (flitIv f.seq.toNat link 1) (headerBytes f.otag f.key f.seq.toNat f.typ f.dst f.src) f.payload f.tag).map
      (fun bs => { otag := f.otag, key := f.key, typ := f.typ, dst := f.dst, src := f.src, payload := bs.take maxPayload })
/-- The key id under which an owner's packet goes on over a link: its own, or the first that is installed there for the
owner.
Log entry 53 (DESIGN CHOICE). -/
def Link.keyFor (l : Link) (p : Packet) : BitVec 8 :=
  if (l.keys.at? (keyIndex p.otag p.key)).isSome then p.key
  else
    match l.keys.find? (fun e => decide (e.1 / 256 = p.otag.toNat)) with
    | some e => BitVec.ofNat 8 e.1
    | none => p.key
/-- A packet for another device goes on over the next link, under the key of the same owner there (R311). -/
def State.forward (s : State) (p : Packet) : State :=
  match s.linkTo p.dst.toNat with
  | none => s
  | some n => s.sendPacket n { p with key := (s.link n).keyFor p }
/-- The number of a flit among those that have failed: its OTAG and SEQ. -/
def flitNumber (f : Flit) : Nat := f.otag.toNat * 2 ^ 48 + f.seq.toNat
/-- A flit that passes is taken or forwarded; one that fails is dropped and counted against its OTAG, and after 8
failures of one flit the link retrains (R311, R312). -/
def execFlitReceive (link : Nat) (flit : Flit) (s : State) : Res :=
  if 12 ≤ link then .fault .noSuchUnit
  else
    let l := s.link link
    match flitOpens flit link l with
    | some p =>
      let l1 := { l with failures := l.failures.erase (flitNumber flit) }
      .next (if flit.dst = Config.deviceId then s.setLink link { l1 with taken := l1.taken ++ [p] }
        else (s.setLink link l1).forward p)
    | none =>
      let n := l.failures.get 0 (flitNumber flit) + 1
      let s1 := (s.setLink link { l with failures := l.failures.set (flitNumber flit) n }).count (0x100 + flit.otag.toNat)
      .next (if 8 ≤ n then s1.retrain link else s1)

end Sys2Proof.Machine
end

