-- ==== Sys2Proof/Machine/Firmware.lean ====
section
/-!
DEFINITION. What the firmware does: power-up and boot (R301 to R304), layer power (R305), heat, refresh and throttling
(R306 to R308), sleep and wake (R265), refresh windows, bank migration and repair (R60, R62, R69, R266, R267).
-/
namespace Sys2Proof.Machine

/-! ## Boot (R300 to R304) -/

/-- Memory that belongs to the hosts or to a peer, which a power-up of this device leaves as it is. -/
def outsideMemory (m : Memory) : Memory :=
  m.filter (fun e => decide (Config.hostBase ≤ e.1 ∧ e.1 < Config.spBase ∨ Config.peerBase ≤ e.1))
/-- Power-up: nothing of the device is kept; inputs that follow it are still to come.
Log entry 54 (DEDUCED). -/
def execPowerUp (s : State) : Res := .next { State.reset with inbox := s.inbox, mem := outsideMemory s.mem }
def State.setBoot (s : State) (b : Boot) : State := { s with boot := b }
/-- A stage fails: its error, and the stage the device falls to (Table 19.3). -/
def State.bootFails (s : State) (err : BitVec 8) (stage : Nat) : State := s.setBoot { s.boot with err := err, stage := stage }
def State.bootStage (s : State) (stage : Nat) : State := s.setBoot { s.boot with stage := stage }
/-- A write of a boot register (Table 19.2): IMGPA, PAGES, or GO, which in stage 0 starts the fetch. -/
def State.writeBoot (s : State) (offset : Nat) (v : Word) : State :=
  if offset = 0 then s.setBoot { s.boot with imgpa := putField v 0 12 0 }
  else if offset = 8 then s.setBoot { s.boot with pages := fieldOf v 0 13 }
  else if offset ≠ 0x10 ∨ !bitOf v 0 ∨ s.boot.stage ≠ 0 then s
  else if s.boot.pages = 0 then s.bootFails 0x01 0
  else s.bootStage 1
/-- Any host may write the boot registers before there is an owner (R300).
Log entry 54 (DEDUCED). -/
def execBootGo (host offset : Nat) (value : Word) (s : State) : Res :=
  .next (if s.owner.host.isSome ∧ s.owner.host ≠ some host then s.count 1 else s.writeBoot offset value)
/-- The image: PAGES pages of host memory at IMGPA (R301). -/
def State.hostImage (s : State) : List Byte :=
  s.mem.bytes (Config.hostBase + s.boot.imgpa.toNat) (4096 * s.boot.pages)
/-- The fetch ends with the image's pages, or with a failed read; what lies beyond host memory cannot be read. -/
def execBootFetch (ok : Bool) (s : State) : Res :=
  if s.boot.stage ≠ 1 then .next s
  else if !ok ∨ Config.hostBytes < s.boot.imgpa.toNat + 4096 * s.boot.pages then .next (s.bootFails 0x02 0)
  else .next ((s.setBoot { s.boot with image := s.hostImage, stage := 2 }).scheduleFree .bootVerify)
/-- `n` bytes of the image from an offset, and their number. -/
def imageBytes (img : List Byte) (off n : Nat) : List Byte := (img.drop off).take n
def imageNat (img : List Byte) (off n : Nat) : Nat := natOfBytes (imageBytes img off n)
def imageBody (img : List Byte) : List Byte := imageBytes img 512 (imageLength img)
/-- The magic matches, and header, body and LMS signature fit in the pages (R302). -/
def headerOk (img : List Byte) (pages : Nat) : Bool :=
  decide (imageNat img 0 8 = 0x4854524F56414C56 ∧ 512 + imageLength img + 1612 ≤ 4096 * pages)
def digestOk (img : List Byte) : Bool := decide (BitVec.ofNat 384 (imageNat img 20 48) = Config.sha384 (imageBody img))
def ecdsaOk (img : List Byte) : Bool :=
  decide (Config.sha384 (imageBytes img 68 96) = Config.romEcdsaHash) &&
    Config.ecdsaVerifies (BitVec.ofNat 768 (imageNat img 68 96)) (BitVec.ofNat 384 (imageNat img 20 48))
      (BitVec.ofNat 768 (imageNat img 164 96))
def lmsOk (img : List Byte) : Bool :=
  decide (Config.sha384 (imageBytes img 260 56) = Config.romLmsHash) &&
    Config.lmsVerifies (imageBytes img 260 56) (imageBody img) (imageBytes img (512 + imageLength img) 1612)
/-- The boot ROM verifies the image, in the order of the error codes (log entry 54). -/
def execBootVerify (s : State) : Res :=
  let img := s.boot.image
  if s.boot.stage ≠ 2 then .next s
  else if !headerOk img s.boot.pages then .next (s.bootFails 0x03 0)
  else if !digestOk img then .next (s.bootFails 0x04 0)
  else if !ecdsaOk img then .next (s.bootFails 0x05 0)
  else if !lmsOk img then .next (s.bootFails 0x06 0)
  else .next (s.setBoot { s.boot with stage := 3, version := BitVec.ofNat 64 (imageNat img 8 8) })
/-- Two failing places share their spares: 16 rows a bank, 4 lanes a vertical channel (R267). -/
def sharesSpares : RepairEntry → RepairEntry → Bool
  | .row c b _ _, .row d e _ _ => decide (c = d ∧ b = e)
  | .lane c v _ _, .lane d w _ _ => decide (c = d ∧ v = w)
  | .row _ _ _ _, .lane _ _ _ _ | .lane _ _ _ _, .row _ _ _ _ => false
def entryCore : RepairEntry → Nat
  | .row c _ _ _ => c
  | .lane c _ _ _ => c
def entrySpares : RepairEntry → Nat
  | .row _ _ _ _ => 16
  | .lane _ _ _ _ => 4
/-- A spare is left for one more failing place. -/
def spareLeft (map : List RepairEntry) (e : RepairEntry) : Bool := decide ((map.filter (sharesSpares e)).length < entrySpares e)
/-- The repair map that failing places make, and the cores that need more spares than exist. -/
def repairMap : List RepairEntry → List RepairEntry → List Nat → List RepairEntry × List Nat
  | [], map, lost => (map, lost)
  | e :: es, map, lost =>
    if spareLeft map e then repairMap es (map ++ [e]) lost else repairMap es map (lost ++ [entryCore e])
/-- The march test: failing rows and lanes take spares; cores that need more than exist, or fail where there are no
spares (`beyond`), are fenced; or a fault beyond repair (R304). -/
def execBootMarchTest (fatal : Bool) (failing : List RepairEntry) (beyond : List Nat) (s : State) : Res :=
  if s.boot.stage ≠ 3 then .next s
  else if fatal then .next (s.bootFails 0x10 15)
  else
    let (map, lost) := repairMap failing [] []
    let s1 := (lost ++ beyond).eraseDups.foldl (fun t c => (t.modCore c (fun k => { k with fenced := true })).count (0x300 + c))
      { s with repair := map }
    .next (s1.bootStage 4)
/-- A link that training brings up at full width, with the device at its far end and the cost of one hop.
Log entry 50 (DESIGN CHOICE). -/
def State.linkUp (s : State) (u : LinkUp) : State :=
  let l := (s.link u.link).with_ 1 8 1
  s.setLink u.link { l with word := putField l.word 32 16 u.peer, reach := u.reach, failures := [] }
/-- HBM and link training. -/
def execBootTraining (hbmOk : Bool) (links : List LinkUp) (s : State) : Res :=
  if s.boot.stage ≠ 4 then .next s
  else if !hbmOk then .next (s.bootFails 0x11 15)
  else
    let s1 := (links.filter (fun u => decide (u.link < 12))).foldl State.linkUp s
    .next ((s1.bootStage 5).scheduleFree .bootBringup)
/-- The supervisor program lies at the start of the image's body (R247, log entry 54); context 4 of every core begins
at its entry bundle. -/
def State.startSupervisor (s : State) (c : Nat) : State :=
  let prog := imageBytes (imageBody s.boot.image) 0 (64 * Config.supBundles)
  let s1 := { s with mem := s.mem.write (bundleAddr c 4 0) prog }
  (s1.modCore c (fun k => k.setCtx 4 { Ctx.blank with status := .running, pc := k.supEntry })).openSegment c 4 0
/-- The words of the links in a status page. -/
def State.writeStatusPage (s : State) (pa : Nat) : State :=
  (upTo 12 0).foldl (fun t n => t.performBytes (pa + 8 * n) (bytesOf 8 (t.link n).word.toNat)) s
/-- The page of HBM at a number that the firmware chooses. -/
def statusPageAt (w : Word) : Word := putField (putField w 0 12 0) 39 25 0
/-- The status page, at a place the firmware chooses (log entry 54). -/
def State.placeStatusPage (s : State) : State :=
  ({ s with boot := { s.boot with statpa := statusPageAt (Config.freeWord s.draws) }, draws := s.draws + 1 } : State).writeStatusPage
    (statusPageAt (Config.freeWord s.draws)).toNat
/-- Bring-up: bank maps and layer power as at power-up, the supervisors and the status page; the device is ready. -/
def execBootBringup (s : State) : Res :=
  if s.boot.stage ≠ 5 then .next s
  else .next (((upTo Config.cores 0).foldl State.startSupervisor s).placeStatusPage.bootStage 6)

/-! ## Layer power (R305) -/

/-- Banks of the supervisor pool's working set: bank 0, the snapshot banks, and the trace bank (log entry 55). -/
def Core.workingSet (k : Core) : List Nat :=
  0 :: (upTo 4 (snapBank k.snap) ++ if bitOf k.dbg.control 9 then [fieldOf k.dbg.control 0 9] else [])
/-- A layer must stay powered.
Log entry 28 (DEDUCED). -/
def Core.layerNeeded (k : Core) (layer : Nat) : Bool :=
  (upTo 64 (64 * layer)).any (fun p => (upTo Config.banks 0).any (fun b =>
    decide (k.physical b = p) && (decide ((k.bank b).launch ≠ 0 ∨ b ≠ p) || k.workingSet.contains b)))
def onLayer (core layer : Nat) (r : Res) : Res := if Config.cores ≤ core ∨ 6 ≤ layer then .fault .noSuchUnit else r
def execLayerPowerOn (core layer : Nat) (s : State) : Res :=
  onLayer core layer (.next ((s.modCore core (fun k => { k with layers := k.layers.set layer true })).schedulePlacement))
def execLayerPowerOff (core layer : Nat) (s : State) : Res :=
  onLayer core layer
    (.next (if (s.core core).layerNeeded layer then s
      else s.modCore core (fun k => { k with layers := k.layers.set layer false })))

/-! ## Heat (R306 to R308) -/

/-- TALLOW of the hottest sensor, in thousandths of a degree. -/
def tallowOf (milli : Int) : Nat := (clampInt 0 255 (2 * (85000 - milli) / 1000)).toNat
def hottest : List Int → Option Int
  | [] => none
  | m :: ms =>
    match hottest ms with
    | none => some m
    | some h => some (if m < h then h else m)
/-- Table 19.5: the highest level that is entered at T, or that is held and not left.
Log entry 34 (DEDUCED). -/
def nextLevel (old : Nat) (milli : Int) : Nat :=
  if 105000 < milli ∨ (3 ≤ old ∧ 100000 < milli) then 3
  else if 100000 < milli ∨ (2 ≤ old ∧ 98000 < milli) then 2
  else if 95000 < milli ∨ (1 ≤ old ∧ 93000 < milli) then 1
  else 0
/-- The hottest core of a cluster. -/
def State.clusterHeat (s : State) (cl : Nat) : Int :=
  (upTo Config.coresPerCluster (cl * Config.coresPerCluster)).foldl (fun m c =>
    if m < (s.core c).temp then (s.core c).temp else m) (s.core (cl * Config.coresPerCluster)).temp
/-- The watchdogs of a core under a new rate: the ends of the waits that are running. -/
def State.watchAgain (s : State) (c : Nat) : State :=
  let s1 := (upTo 5 0).foldl (fun t x =>
    match (t.ctx c x).waitOn with
    | none => t
    | some (_, since) => t.watch c since (.watchdogExpiry c x)) s
  let s2 := match (s1.core c).runNow with
    | some r => s1.watch c r.waitSince (.engineWatchdogExpiry c .matrixRun)
    | none => s1
  match (s2.core c).drainNow with
  | some d => s2.watch c d.waitSince (.engineWatchdogExpiry c .ppeDrain)
  | none => s2
/-- A cluster enters a throttle level: its watchdogs count on at the new rate, and engines may start commands again.
Log entry 34 (DEDUCED). -/
def State.setThrottle (s : State) (cl level : Nat) : State :=
  let k := s.cluster cl
  if k.throttle = level then s
  else
    let s1 := s.setCluster cl { k with throttle := level, throttleAt := s.cyc, watchBase := k.watchAt s.cyc }
    (upTo Config.coresPerCluster (cl * Config.coresPerCluster)).foldl (fun t c => (t.watchAgain c).wake c) s1
/-- THERM is pending for every user context of a core whose TMASK[0] is 1.
Log entry 62 (DEDUCED). -/
def State.therm (s : State) (c : Nat) (tallow : Nat) : State :=
  (upTo 4 0).foldl (fun t x =>
    if (t.ctx c x).status ≠ .free ∧ (t.ctx c x).tmask then
      t.modEvents c x (fun e => { e with therm := some (BitVec.ofNat 64 tallow) })
    else t) s
/-- A written refresh multiplier takes effect at the next cycle with CYC mod 68,750 = 0 (R60).
Log entry 62 (DEDUCED). -/
def State.writeRfsh (s : State) (c v : Nat) : State :=
  let at_ := (s.cyc / refreshPeriod + 1) * refreshPeriod
  (s.modCore c (fun k => { k with rfshNext := v, rfshNextAt := at_ })).schedule at_ (.rfshChange c)
/-- The throttle levels of all clusters: by the hottest core of each, and no lower than the level the firmware applies
while the module's power exceeds the cap (R308).
Log entry 34 (DEDUCED). -/
def State.throttleAll (s : State) (watts level : Nat) : State :=
  let p := if s.powerCap < watts then min level 3 else 0
  (upTo Config.clusters 0).foldl (fun t cl => t.setThrottle cl (max (nextLevel (t.cluster cl).throttle (t.clusterHeat cl)) p)) s
/-- Cycles from one sample to the next (R306). -/
def samplePeriod : Nat := 11000
/-- A sample may be taken: the first of a core at any time, the others 11,000 cycles apart. -/
def Core.sampleDue (k : Core) (cyc : Nat) : Bool :=
  decide (k.nextSample = 0 ∨ (k.nextSample ≤ cyc ∧ (cyc - k.nextSample) % samplePeriod = 0))
/-- One sample of a core's sensors.
Log entry 62 (DEDUCED). -/
def State.sample (s : State) (c : Nat) (t : Int) (watts level : Nat) : State :=
  let rise := decide (85000 < t ∧ (s.core c).temp ≤ 85000)
  let s1 := s.modCore c (fun k => { k with temp := t, tallow := tallowOf t })
  let s2 := if rise then (s1.therm c (tallowOf t)).writeRfsh c 2 else if t ≤ 83000 then s1.writeRfsh c 1 else s1
  (s2.throttleAll watts level).schedulePlacement
/-- A core's six sensors are sampled every 11,000 cycles from its first sample on; readings of another cycle or number are
no sample (R306).
Log entry 57 (DEDUCED). -/
def execSensorSample (core : Nat) (milli : List Int) (watts level : Nat) (s : State) : Res :=
  if Config.cores ≤ core then .fault .noSuchUnit
  else if !(s.core core).sampleDue s.cyc ∨ milli.length ≠ 6 then .next s
  else
    match hottest milli with
    | none => .next s
    | some t =>
      .next ((s.modCore core (fun k => { k with nextSample := s.cyc + samplePeriod })).sample core t watts level)
/-- The value of RFSH written last takes effect, in a cycle with CYC mod 68,750 = 0 (R60). -/
def execRfshChange (core : Nat) (s : State) : Res :=
  if Config.cores ≤ core then .fault .noSuchUnit
  else if s.cyc % refreshPeriod ≠ 0 then .next (s.writeRfsh core (s.core core).rfshNext)
  else .next (s.modCore core (fun k =>
    if k.rfsh = k.rfshNext then k else { k with rfshPrev := k.rfsh, rfshAt := s.cyc, rfsh := k.rfshNext }))

/-! ## Sleep (R265) -/

/-- The conditions of R265: no launch on the core, no image resident for a queued launch, and context 4 in WAITI for
65,536 cycles. -/
def State.maySleep (s : State) (c : Nat) : Bool :=
  let k := s.core c
  (upTo 4 0).all (fun x => decide ((k.ctx x).status = .free)) &&
    (!(s.queues.any (fun q => q.2.vectors.any (fun v => decide (k.image.map (fun e => e.1) = some (vecImage v))))) &&
      (match k.idleSince with
      | some t => decide (t + 65536 ≤ s.cyc)
      | none => false))
def execCoreSleep (core : Nat) (s : State) : Res :=
  if Config.cores ≤ core then .fault .noSuchUnit
  else .next (if s.maySleep core then s.modCore core (fun k => { k with asleep := true }) else s)
/-- A trap or a message is pending for a core (R265); an image load wakes it by itself (R283). -/
def Core.eventPending (k : Core) : Bool := !k.trapQ.isEmpty || !k.msgQ.isEmpty
def execCoreWake (core : Nat) (s : State) : Res :=
  if Config.cores ≤ core then .fault .noSuchUnit
  else .next (if (s.core core).eventPending then s.wakeCore core else s)

/-! ## Refresh, migration and repair (R60, R62, R69, R266, R267) -/

/-- A refresh window opens. Which accesses it holds back follows from CYC (R60, R61; `refreshEnd`); the tester's work in
it changes nothing that the state holds (R266).
Log entry 57 (DEDUCED). -/
def execRefreshWindow (core bank : Nat) (s : State) : Res :=
  if Config.cores ≤ core ∨ Config.banks ≤ bank then .fault .noSuchUnit else .next s
/-- The end of the refresh window of a bank's place that is open, or of the next one (R60). -/
def Core.windowAfter (k : Core) (bank cyc : Nat) : Nat :=
  match k.refreshEnd bank cyc 1 with
  | some t => t
  | none => cyc + (179 * k.physical bank + refreshPeriod - cyc % refreshPeriod) % refreshPeriod + 16
/-- A refresh window of a bank's place has just ended. -/
def Core.windowEnds (k : Core) (bank cyc : Nat) : Bool :=
  decide (0 < cyc) && decide (k.refreshEnd bank (cyc - 1) 1 = some cyc)
/-- The bank that lies at a physical place. -/
def Core.bankAt (k : Core) (phys : Nat) : Option Nat := findFrom (fun b => decide (k.physical b = phys)) Config.banks 0
/-- Firmware may migrate a bank: to compact, under a power cap below that of power-up or while no user context is on the
core (R305), or because the bank has no spare row left (R267).
Log entry 74 (DEDUCED). -/
def State.mayMigrate (s : State) (c b : Nat) : Bool :=
  decide (s.powerCap < 2800) || ((upTo 4 0).all (fun x => decide (((s.core c).ctx x).status = .free)) ||
    !spareLeft s.repair (.row c b 0 0))
/-- A migration switches the map at the end of a refresh window of the source's place (R69). Both places are in layers
that are on (R305); a bank that lay at the new place is not busy.
Log entry 57 (DEDUCED). -/
def execBankMigration (core bank phys : Nat) (s : State) : Res :=
  if Config.cores ≤ core ∨ Config.banks ≤ bank ∨ Config.banks ≤ phys then .fault .noSuchUnit
  else
    let k := s.core core
    let busy := match k.bankAt phys with | some b => (k.bank b).busyAt s.cyc | none => false
    if !s.mayMigrate core bank || (!k.layerOn (phys / 64) || !k.layerOn (k.physical bank / 64)) then .next s
    else if !k.windowEnds bank s.cyc || busy then
      .next (s.schedule (k.windowAfter bank s.cyc) (.bankMigration core bank phys))
    else .next (s.modCore core (fun k => k.migrate bank phys))
/-- The places a bank can be migrated to: those of other banks in layers that are on. -/
def Core.placesFor (k : Core) (b : Nat) : List Nat :=
  (upTo Config.banks 0).filter (fun p => decide (p ≠ k.physical b) && k.layerOn (p / 64))
/-- The banks whose refresh windows a repair entry may be switched at the end of: its own bank's for a row, any for a lane
(R267). -/
def repairBanks : RepairEntry → List Nat
  | .row _ b _ _ => [b]
  | .lane _ _ _ _ => upTo Config.banks 0
/-- A new entry of the repair map takes effect at the end of a refresh window; it changes no value that a program can
observe. A bank without a spare row left is migrated, to a place the firmware chooses (R267).
Log entry 57 (DEDUCED). -/
def execRepairEntrySwitch (e : RepairEntry) (s : State) : Res :=
  let c := entryCore e
  let k := s.core c
  if Config.cores ≤ c then .fault .noSuchUnit
  else if spareLeft s.repair e then
    (if (repairBanks e).any (fun b => k.windowEnds b s.cyc) then .next { s with repair := s.repair ++ [e] }
     else
      match (repairBanks e).map (fun b => k.windowAfter b s.cyc) with
      | t :: ts => .next (s.schedule (ts.foldl Nat.min t) (.repairEntrySwitch e))
      | [] => .next s)
  else
    match e with
    | .row _ b _ _ =>
      let ps := k.placesFor b
      .next (({ s with draws := s.draws + 1 } : State).schedule s.cyc
        (.bankMigration c b (nthD 0 ps ((Config.freeWord s.draws).toNat % ps.length))))
    | .lane _ _ _ _ => .next s

end Sys2Proof.Machine
end

