-- ==== Sys2Proof/Machine/Dispatch.lean ====
section
/-!
DEFINITION. What each instruction does: one direct call of its meaning for every row of the opcode table.
-/
namespace Sys2Proof.Machine

def exec (i : Instr) (s : State) : Host.Outcome State Fault Refusal :=
  match i with
  | .issueCycle core => Sys2Proof.Machine.execIssueCycle core s
  | .srqEntryEnqueue core ctx => Sys2Proof.Machine.execSrqEntryEnqueue core ctx s
  | .rewindResume core ctx => Sys2Proof.Machine.execRewindResume core ctx s
  | .watchdogExpiry core ctx => Sys2Proof.Machine.execWatchdogExpiry core ctx s
  | .engineWatchdogExpiry core unit => Sys2Proof.Machine.execEngineWatchdogExpiry core unit s
  | .claimAnswer core ctx => Sys2Proof.Machine.execClaimAnswer core ctx s
  | .nop => Sys2Proof.Machine.execNop s
  | .add f => Sys2Proof.Machine.execAdd f s
  | .addi f => Sys2Proof.Machine.execAddi f s
  | .sub f => Sys2Proof.Machine.execSub f s
  | .mul f => Sys2Proof.Machine.execMul f s
  | .muli f => Sys2Proof.Machine.execMuli f s
  | .mulh f => Sys2Proof.Machine.execMulh f s
  | .mulhn f => Sys2Proof.Machine.execMulhn f s
  | .and f => Sys2Proof.Machine.execAnd f s
  | .andi f => Sys2Proof.Machine.execAndi f s
  | .or f => Sys2Proof.Machine.execOr f s
  | .ori f => Sys2Proof.Machine.execOri f s
  | .xor f => Sys2Proof.Machine.execXor f s
  | .xori f => Sys2Proof.Machine.execXori f s
  | .shl f => Sys2Proof.Machine.execShl f s
  | .shli f => Sys2Proof.Machine.execShli f s
  | .shr f => Sys2Proof.Machine.execShr f s
  | .shri f => Sys2Proof.Machine.execShri f s
  | .sar f => Sys2Proof.Machine.execSar f s
  | .sari f => Sys2Proof.Machine.execSari f s
  | .min f => Sys2Proof.Machine.execMin f s
  | .max f => Sys2Proof.Machine.execMax f s
  | .minn f => Sys2Proof.Machine.execMinn f s
  | .maxn f => Sys2Proof.Machine.execMaxn f s
  | .sel f => Sys2Proof.Machine.execSel f s
  | .movi f => Sys2Proof.Machine.execMovi f s
  | .movhi f => Sys2Proof.Machine.execMovhi f s
  | .clz f => Sys2Proof.Machine.execClz f s
  | .popc f => Sys2Proof.Machine.execPopc f s
  | .add32 f => Sys2Proof.Machine.execAdd32 f s
  | .addp f => Sys2Proof.Machine.execAddp f s
  | .mulw f => Sys2Proof.Machine.execMulw f s
  | .cmpEq f => Sys2Proof.Machine.execCmpEq f s
  | .cmpNe f => Sys2Proof.Machine.execCmpNe f s
  | .cmpLt f => Sys2Proof.Machine.execCmpLt f s
  | .cmpLe f => Sys2Proof.Machine.execCmpLe f s
  | .cmpLtn f => Sys2Proof.Machine.execCmpLtn f s
  | .cmpLen f => Sys2Proof.Machine.execCmpLen f s
  | .cmpiEq f => Sys2Proof.Machine.execCmpiEq f s
  | .cmpiNe f => Sys2Proof.Machine.execCmpiNe f s
  | .cmpiLt f => Sys2Proof.Machine.execCmpiLt f s
  | .cmpiLe f => Sys2Proof.Machine.execCmpiLe f s
  | .cmpiLtn f => Sys2Proof.Machine.execCmpiLtn f s
  | .cmpiLen f => Sys2Proof.Machine.execCmpiLen f s
  | .pand f => Sys2Proof.Machine.execPand f s
  | .por f => Sys2Proof.Machine.execPor f s
  | .pxor f => Sys2Proof.Machine.execPxor f s
  | .pset f => Sys2Proof.Machine.execPset f s
  | .br f => Sys2Proof.Machine.execBr f s
  | .brx f => Sys2Proof.Machine.execBrx f s
  | .call f => Sys2Proof.Machine.execCall f s
  | .ret f => Sys2Proof.Machine.execRet f s
  | .loop f => Sys2Proof.Machine.execLoop f s
  | .loopi f => Sys2Proof.Machine.execLoopi f s
  | .lexit f => Sys2Proof.Machine.execLexit f s
  | .stage f => Sys2Proof.Machine.execStage f s
  | .kwait f => Sys2Proof.Machine.execKwait f s
  | .swait f => Sys2Proof.Machine.execSwait f s
  | .swaitany f => Sys2Proof.Machine.execSwaitany f s
  | .yset f => Sys2Proof.Machine.execYset f s
  | .spost f => Sys2Proof.Machine.execSpost f s
  | .syncPostPerform core ctx acc => Sys2Proof.Machine.execSyncPostPerform core ctx acc s
  | .fence f => Sys2Proof.Machine.execFence f s
  | .rel f => Sys2Proof.Machine.execRel f s
  | .acq f => Sys2Proof.Machine.execAcq f s
  | .claim f => Sys2Proof.Machine.execClaim f s
  | .grow f => Sys2Proof.Machine.execGrow f s
  | .seg f => Sys2Proof.Machine.execSeg f s
  | .rdv f => Sys2Proof.Machine.execRdv f s
  | .mark f => Sys2Proof.Machine.execMark f s
  | .chk f => Sys2Proof.Machine.execChk f s
  | .chkp f => Sys2Proof.Machine.execChkp f s
  | .yield f => Sys2Proof.Machine.execYield f s
  | .trap f => Sys2Proof.Machine.execTrap f s
  | .sys f => Sys2Proof.Machine.execSys f s
  | .end_ f => Sys2Proof.Machine.execEnd f s
  | .mfs f => Sys2Proof.Machine.execMfs f s
  | .mts f => Sys2Proof.Machine.execMts f s
  | .pwinWrite f => Sys2Proof.Machine.execPwinWrite f s
  | .trapinfoDismiss f => Sys2Proof.Machine.execTrapinfoDismiss f s
  | .snapWrite f => Sys2Proof.Machine.execSnapWrite f s
  | .injWrite f => Sys2Proof.Machine.execInjWrite f s
  | .trootWrite f => Sys2Proof.Machine.execTrootWrite f s
  | .tret f => Sys2Proof.Machine.execTret f s
  | .contextRestoreDone core ctx => Sys2Proof.Machine.execContextRestoreDone core ctx s
  | .csave f => Sys2Proof.Machine.execCsave f s
  | .csaveComplete core => Sys2Proof.Machine.execCsaveComplete core s
  | .cload f => Sys2Proof.Machine.execCload f s
  | .cloadComplete core => Sys2Proof.Machine.execCloadComplete core s
  | .tlbi f => Sys2Proof.Machine.execTlbi f s
  | .waiti f => Sys2Proof.Machine.execWaiti f s
  | .vadd f => Sys2Proof.Machine.execVadd f s
  | .vsub f => Sys2Proof.Machine.execVsub f s
  | .vmul f => Sys2Proof.Machine.execVmul f s
  | .vfma f => Sys2Proof.Machine.execVfma f s
  | .vfms f => Sys2Proof.Machine.execVfms f s
  | .vmin f => Sys2Proof.Machine.execVmin f s
  | .vmax f => Sys2Proof.Machine.execVmax f s
  | .vminn f => Sys2Proof.Machine.execVminn f s
  | .vmaxn f => Sys2Proof.Machine.execVmaxn f s
  | .vabs f => Sys2Proof.Machine.execVabs f s
  | .vneg f => Sys2Proof.Machine.execVneg f s
  | .vmov f => Sys2Proof.Machine.execVmov f s
  | .vsel f => Sys2Proof.Machine.execVsel f s
  | .vdif f => Sys2Proof.Machine.execVdif f s
  | .vand f => Sys2Proof.Machine.execVand f s
  | .vor f => Sys2Proof.Machine.execVor f s
  | .vxor f => Sys2Proof.Machine.execVxor f s
  | .vnot f => Sys2Proof.Machine.execVnot f s
  | .vshl f => Sys2Proof.Machine.execVshl f s
  | .vshr f => Sys2Proof.Machine.execVshr f s
  | .vsar f => Sys2Proof.Machine.execVsar f s
  | .vmulh f => Sys2Proof.Machine.execVmulh f s
  | .vmulhn f => Sys2Proof.Machine.execVmulhn f s
  | .vclz f => Sys2Proof.Machine.execVclz f s
  | .vpopc f => Sys2Proof.Machine.execVpopc f s
  | .vcmpEq f => Sys2Proof.Machine.execVcmpEq f s
  | .vcmpNe f => Sys2Proof.Machine.execVcmpNe f s
  | .vcmpLt f => Sys2Proof.Machine.execVcmpLt f s
  | .vcmpLe f => Sys2Proof.Machine.execVcmpLe f s
  | .vcmpLtn f => Sys2Proof.Machine.execVcmpLtn f s
  | .vcmpLen f => Sys2Proof.Machine.execVcmpLen f s
  | .vqand f => Sys2Proof.Machine.execVqand f s
  | .vqor f => Sys2Proof.Machine.execVqor f s
  | .vqxor f => Sys2Proof.Machine.execVqxor f s
  | .vqcnt f => Sys2Proof.Machine.execVqcnt f s
  | .vqfirst f => Sys2Proof.Machine.execVqfirst f s
  | .vcvt f => Sys2Proof.Machine.execVcvt f s
  | .vqpack f => Sys2Proof.Machine.execVqpack f s
  | .vqunpk f => Sys2Proof.Machine.execVqunpk f s
  | .vscl f => Sys2Proof.Machine.execVscl f s
  | .vbscl f => Sys2Proof.Machine.execVbscl f s
  | .vrnd f => Sys2Proof.Machine.execVrnd f s
  | .vsrnd f => Sys2Proof.Machine.execVsrnd f s
  | .vrsum f => Sys2Proof.Machine.execVrsum f s
  | .vrmax f => Sys2Proof.Machine.execVrmax f s
  | .vrmin f => Sys2Proof.Machine.execVrmin f s
  | .vrot f => Sys2Proof.Machine.execVrot f s
  | .vperm f => Sys2Proof.Machine.execVperm f s
  | .vbcast f => Sys2Proof.Machine.execVbcast f s
  | .vins f => Sys2Proof.Machine.execVins f s
  | .vext f => Sys2Proof.Machine.execVext f s
  | .vidx f => Sys2Proof.Machine.execVidx f s
  | .vexp2 f => Sys2Proof.Machine.execVexp2 f s
  | .vlog2 f => Sys2Proof.Machine.execVlog2 f s
  | .vrcp f => Sys2Proof.Machine.execVrcp f s
  | .vrsq f => Sys2Proof.Machine.execVrsq f s
  | .vchk f => Sys2Proof.Machine.execVchk f s
  | .ld f => Sys2Proof.Machine.execLd f s
  | .ldx f => Sys2Proof.Machine.execLdx f s
  | .st f => Sys2Proof.Machine.execSt f s
  | .stx f => Sys2Proof.Machine.execStx f s
  | .lds f => Sys2Proof.Machine.execLds f s
  | .sts f => Sys2Proof.Machine.execSts f s
  | .eld f => Sys2Proof.Machine.execEld f s
  | .prom f => Sys2Proof.Machine.execProm f s
  | .demo f => Sys2Proof.Machine.execDemo f s
  | .tlk f => Sys2Proof.Machine.execTlk f s
  | .tpin f => Sys2Proof.Machine.execTpin f s
  | .gld f => Sys2Proof.Machine.execGld f s
  | .gst f => Sys2Proof.Machine.execGst f s
  | .glds f => Sys2Proof.Machine.execGlds f s
  | .gsts f => Sys2Proof.Machine.execGsts f s
  | .globalLoadReturn core ctx acc => Sys2Proof.Machine.execGlobalLoadReturn core ctx acc s
  | .writePerformed core ctx acc pt => Sys2Proof.Machine.execWritePerformed core ctx acc pt s
  | .translationWalkDone cluster walk => Sys2Proof.Machine.execTranslationWalkDone cluster walk s
  | .dset f => Sys2Proof.Machine.execDset f s
  | .dsetf f => Sys2Proof.Machine.execDsetf f s
  | .dget f => Sys2Proof.Machine.execDget f s
  | .pcfg f => Sys2Proof.Machine.execPcfg f s
  | .pstop f => Sys2Proof.Machine.execPstop f s
  | .pstat f => Sys2Proof.Machine.execPstat f s
  | .readPortFetch core port => Sys2Proof.Machine.execReadPortFetch core port s
  | .writePortWrite core port => Sys2Proof.Machine.execWritePortWrite core port s
  | .bown f => Sys2Proof.Machine.execBown f s
  | .bqry f => Sys2Proof.Machine.execBqry f s
  | .xmov f => Sys2Proof.Machine.execXmov f s
  | .xmovl f => Sys2Proof.Machine.execXmovl f s
  | .xtrg f => Sys2Proof.Machine.execXtrg f s
  | .tanKset f => Sys2Proof.Machine.execTanKset f s
  | .tanFit f => Sys2Proof.Machine.execTanFit f s
  | .tanEval f => Sys2Proof.Machine.execTanEval f s
  | .tanSlope f => Sys2Proof.Machine.execTanSlope f s
  | .rngSeed f => Sys2Proof.Machine.execRngSeed f s
  | .rngNext f => Sys2Proof.Machine.execRngNext f s
  | .crcInit f => Sys2Proof.Machine.execCrcInit f s
  | .crcLine f => Sys2Proof.Machine.execCrcLine f s
  | .mxWld f => Sys2Proof.Machine.execMxWld f s
  | .mxWldg f => Sys2Proof.Machine.execMxWldg f s
  | .mxWfold f => Sys2Proof.Machine.execMxWfold f s
  | .mxRun f => Sys2Proof.Machine.execMxRun f s
  | .mxRung f => Sys2Proof.Machine.execMxRung f s
  | .mxAccz f => Sys2Proof.Machine.execMxAccz f s
  | .mxAccb f => Sys2Proof.Machine.execMxAccb f s
  | .matrixCommandStart core pipe => Sys2Proof.Machine.execMatrixCommandStart core pipe s
  | .streamReaderLine core pipe => Sys2Proof.Machine.execStreamReaderLine core pipe s
  | .matrixRunStep core => Sys2Proof.Machine.execMatrixRunStep core s
  | .matrixCommandComplete core pipe => Sys2Proof.Machine.execMatrixCommandComplete core pipe s
  | .ppeCfg f => Sys2Proof.Machine.execPpeCfg f s
  | .ppeDrain f => Sys2Proof.Machine.execPpeDrain f s
  | .ppeTld f => Sys2Proof.Machine.execPpeTld f s
  | .ppeTst f => Sys2Proof.Machine.execPpeTst f s
  | .ppeEcnt f => Sys2Proof.Machine.execPpeEcnt f s
  | .ppeCommandStart core => Sys2Proof.Machine.execPpeCommandStart core s
  | .ppeLineWrite core => Sys2Proof.Machine.execPpeLineWrite core s
  | .ppeCommandComplete core => Sys2Proof.Machine.execPpeCommandComplete core s
  | .cpyGs f => Sys2Proof.Machine.execCpyGs f s
  | .cpySg f => Sys2Proof.Machine.execCpySg f s
  | .cpySs f => Sys2Proof.Machine.execCpySs f s
  | .cpyGg f => Sys2Proof.Machine.execCpyGg f s
  | .cpyXgrf f => Sys2Proof.Machine.execCpyXgrf f s
  | .cpyXdn f => Sys2Proof.Machine.execCpyXdn f s
  | .cpyFpr f => Sys2Proof.Machine.execCpyFpr f s
  | .cpyCmp f => Sys2Proof.Machine.execCpyCmp f s
  | .cpyFill f => Sys2Proof.Machine.execCpyFill f s
  | .cpyCrc f => Sys2Proof.Machine.execCpyCrc f s
  | .copyCommandStart core => Sys2Proof.Machine.execCopyCommandStart core s
  | .copyUnitRead core chan => Sys2Proof.Machine.execCopyUnitRead core chan s
  | .copyUnitWritePerformed core chan unit => Sys2Proof.Machine.execCopyUnitWritePerformed core chan unit s
  | .copyCommandComplete core chan => Sys2Proof.Machine.execCopyCommandComplete core chan s
  | .scaUpd f => Sys2Proof.Machine.execScaUpd f s
  | .scaFupd f => Sys2Proof.Machine.execScaFupd f s
  | .scaCommandStart core => Sys2Proof.Machine.execScaCommandStart core s
  | .scaWindowApply core => Sys2Proof.Machine.execScaWindowApply core s
  | .scaCommandComplete core => Sys2Proof.Machine.execScaCommandComplete core s
  | .cfCfg f => Sys2Proof.Machine.execCfCfg f s
  | .cfRst f => Sys2Proof.Machine.execCfRst f s
  | .kjoin f => Sys2Proof.Machine.execKjoin f s
  | .ksig f => Sys2Proof.Machine.execKsig f s
  | .rfshChange core => Sys2Proof.Machine.execRfshChange core s
  | .snapshotRecordWrite core ctx => Sys2Proof.Machine.execSnapshotRecordWrite core ctx s
  | .supervisorFault core => Sys2Proof.Machine.execSupervisorFault core s
  | .launchPlacement => Sys2Proof.Machine.execLaunchPlacement s
  | .launchCompletion lidx => Sys2Proof.Machine.execLaunchCompletion lidx s
  | .layerPowerOn core layer => Sys2Proof.Machine.execLayerPowerOn core layer s
  | .bootVerify => Sys2Proof.Machine.execBootVerify s
  | .bootBringup => Sys2Proof.Machine.execBootBringup s
  | .dbgControlWrite f => Sys2Proof.Machine.execDbgControlWrite f s
  | .dbgBreakpointWrite f => Sys2Proof.Machine.execDbgBreakpointWrite f s
  | .dbgWatchWrite f => Sys2Proof.Machine.execDbgWatchWrite f s
  | .refreshWindow core bank => Sys2Proof.Machine.execRefreshWindow core bank s
  | .bankMigration core bank phys => Sys2Proof.Machine.execBankMigration core bank phys s
  | .repairEntrySwitch e => Sys2Proof.Machine.execRepairEntrySwitch e s
  | .launchSlotWrite host queue offset data => Sys2Proof.Machine.execLaunchSlotWrite host queue offset data s
  | .launchCommit host queue data => Sys2Proof.Machine.execLaunchCommit host queue data s
  | .queueStatusRead host read => Sys2Proof.Machine.execQueueStatusRead host read s
  | .eventSet host part bits => Sys2Proof.Machine.execEventSet host part bits s
  | .eventClear host part bits => Sys2Proof.Machine.execEventClear host part bits s
  | .onaetClaim host key sig => Sys2Proof.Machine.execOnaetClaim host key sig s
  | .handover host hash => Sys2Proof.Machine.execHandover host hash s
  | .cancel host => Sys2Proof.Machine.execCancel host s
  | .supmsg host core value => Sys2Proof.Machine.execSupmsg host core value s
  | .attestationRequest host nonce => Sys2Proof.Machine.execAttestationRequest host nonce s
  | .keyInstall host link otag key wrapped => Sys2Proof.Machine.execKeyInstall host link otag key wrapped s
  | .partitionConfig host change => Sys2Proof.Machine.execPartitionConfig host change s
  | .cthrWrite host cluster v => Sys2Proof.Machine.execCthrWrite host cluster v s
  | .powerCapWrite host watts => Sys2Proof.Machine.execPowerCapWrite host watts s
  | .windowOpen host window word0 base size => Sys2Proof.Machine.execWindowOpen host window word0 base size s
  | .windowRevoke host window => Sys2Proof.Machine.execWindowRevoke host window s
  | .windowFree host window => Sys2Proof.Machine.execWindowFree host window s
  | .inboundRequest otag key addr op src => Sys2Proof.Machine.execInboundRequest otag key addr op src s
  | .flitReceive link flit => Sys2Proof.Machine.execFlitReceive link flit s
  | .linkRetrain link => Sys2Proof.Machine.execLinkRetrain link s
  | .linkLaneLoss link => Sys2Proof.Machine.execLinkLaneLoss link s
  | .sensorSample core milli watts level => Sys2Proof.Machine.execSensorSample core milli watts level s
  | .powerUp => Sys2Proof.Machine.execPowerUp s
  | .coreSleep core => Sys2Proof.Machine.execCoreSleep core s
  | .coreWake core => Sys2Proof.Machine.execCoreWake core s
  | .bootGo host offset value => Sys2Proof.Machine.execBootGo host offset value s
  | .bootFetch ok => Sys2Proof.Machine.execBootFetch ok s
  | .bootMarchTest fatal entries fenced => Sys2Proof.Machine.execBootMarchTest fatal entries fenced s
  | .bootTraining hbmOk links => Sys2Proof.Machine.execBootTraining hbmOk links s
  | .hostMemoryAccess host addr op => Sys2Proof.Machine.execHostMemoryAccess host addr op s
  | .linkTrainingComplete link => Sys2Proof.Machine.execLinkTrainingComplete link s
  | .layerPowerOff core layer => Sys2Proof.Machine.execLayerPowerOff core layer s

end Sys2Proof.Machine
end

