-- ==== Sys2Proof/Machine/Schedule.lean ====
section
/-!
DEFINITION. The order in which the part's steps are taken (log entry 1): steps that are due, then the issue stages of the
cores in order, then inputs from outside, then the next cycle; and where the first instruction of a run is fetched.
-/
namespace Sys2Proof.Machine

/-- A core whose issue stage has something to do in this cycle. -/
def Core.live (k : Core) : Bool :=
  !k.asleep && (upTo 5 0).any (fun x =>
    match (k.ctx x).status with
    | .running | .retiring _ => true
    | .free | .trapped _ | .queued | .current | .parked | .restoring => false)
/-- The next core, from the one whose turn it is, whose issue stage has something to do.
Log entry 1 (DESIGN CHOICE). -/
def State.nextCore (s : State) : Option Nat := findFrom (fun c => (s.core c).live) (Config.cores - s.turn) s.turn
/-- The next cycle. -/
def State.tick (s : State) : State := { s with cyc := s.cyc + 1, turn := 0 }
/-- A step is due now: the head of the calendar.
Log entry 1 (DESIGN CHOICE). -/
def State.dueNow (s : State) : Option (Instr × State) :=
  match s.calendar with
  | [] => none
  | (d, i) :: es => if d ≤ s.cyc then some (i, { s with calendar := es }) else none
/-- An input that may be taken in this cycle: a sample only when it is due (R306). -/
def State.takes (s : State) : Instr → Bool
  | .sensorSample core _ _ _ => decide (Config.cores ≤ core) || (s.core core).sampleDue s.cyc
  | _ => true
/-- The first input that may be taken, and the others. -/
def State.pickInput (s : State) : List Instr → Option (Instr × List Instr)
  | [] => none
  | i :: is =>
    if s.takes i then some (i, is)
    else
      match s.pickInput is with
      | none => none
      | some (j, js) => some (j, i :: js)
/-- What is taken from outside: the first input that has arrived and may be taken.
Log entry 1 (DESIGN CHOICE). -/
def State.nextInput (s : State) : Option (Instr × State) :=
  match s.pickInput s.inbox with
  | none => none
  | some (i, is) => some (i, { s with inbox := is })
/-- The step that comes next, and the state it acts on; none when the cycle is over. -/
def State.upcoming (s : State) : Option (Instr × State) :=
  match s.dueNow with
  | some p => some p
  | none =>
    match s.nextCore with
    | some c => some (.issueCycle c, s)
    | none => s.nextInput
/-- One step of the machine: the step that comes next, or the next cycle. -/
def State.advance (s : State) : Res :=
  match s.upcoming with
  | some (i, t) => exec i t
  | none => .next s.tick

/-! ## The first instruction (log entry 2) -/

/-- A context that issues at its next turn, whatever it was doing: nothing blocks it, and no loop, branch, boundary event
or done mask is pending. -/
def Ctx.fetchable (v : Ctx) : Ctx :=
  { v with
    status := .running, redirect := none, loop := Loop.none, rewind := none, claimWait := none, arrival := none, releasing := [],
    walk := none, walkFault := none, tlbiWait := [], skip := 0, dbgPass := false, kept := [], events := Events.none,
    yielded := none, damage := [] }
/-- Core 0 with context 0 alone, ready to issue.
Log entry 2 (DESIGN CHOICE). -/
def Core.fetchable (k : Core) : Core :=
  { k with ctxs := [(0, (k.ctx 0).fetchable)], asleep := false, awakeFrom := 0, saving := none, parity := [],
           dbg := { k.dbg with breakpoints := [], watches := [] } }
/-- The state whose next step fetches a bundle at the next bundle address of context 0 of core 0.
Log entry 2 (DESIGN CHOICE). -/
def State.withBundle (s : State) (b : BitVec 512) : State :=
  { s with
    turn := 0, calendar := [], inbox := [],
    mem := s.mem.store (bundleAddr 0 0 (s.ctx 0 0).pc) 64 b.toNat,
    cores := s.cores.set 0 (s.core 0).fetchable,
    clusters := s.clusters.set 0 { s.cluster 0 with throttle := 0 } }

end Sys2Proof.Machine
end

