-- ==== Sys2Proof/Machine/Step.lean ====
section
/-!
DEFINITION. The step of the machine, and the state in which it fetches a given instruction next.
-/
namespace Sys2Proof.Machine

/-- One step. -/
def step (s : State) : Host.Outcome State Fault Refusal := s.advance

/-- The state with an instruction stored where the next step fetches.
Log entry 2 (DESIGN CHOICE). -/
def State.withFetchWord (s : State) (nbits w : Nat) : State := s.withBundle (tableBundle nbits w)

end Sys2Proof.Machine
end

