-- ==== Sys2Proof/Safety.lean ====
section
/-!
DEFINITION. What counts as a safe run, in the terms that statements use.
-/
namespace Sys2Proof

open Sys2Proof.Machine

/-- The memory is in its canonical form: addresses strictly rising, no blank byte listed (log entry 3). -/
def MemOk (s : State) : Prop := s.mem.wf = true

/-- A queue's stored bytes are in canonical form too: what a start vector holds is equal data when it reads alike. -/
def QueueOk (q : Queue) : Prop := q.staging.wf = true ∧ ∀ v ∈ q.vectors, Memory.wf v = true

/-- A memory and launch queues in canonical form. -/
def StoresOk (m : Memory) (qs : FMap Queue) : Prop := m.wf = true ∧ ∀ e ∈ qs, QueueOk e.2

/-- Every store of the machine is in canonical form. -/
abbrev Canonical (s : State) : Prop := StoresOk s.mem s.queues

/-- A step goes on: the machine neither faults nor refuses. -/
def GoesOn (r : Res) : Prop := ∃ t, r = .next t

/-- A run of `k` steps goes on to a state. -/
inductive RunsTo : Nat → State → State → Prop where
  | done (s : State) : RunsTo 0 s s
  | more (k : Nat) (s t u : State) : step s = .next t → RunsTo k t u → RunsTo (k + 1) s u

end Sys2Proof
end

