-- ==== Sys2Proof/Certificates/Slice0/Obligations.lean ====
section
/-!
DEFINITION. What the model is claimed to do, in the terms of the spec's numbered rules. An instruction of a bundle adds
effects to its bundle (R17), and its statement says which; further statements say what each effect does when the bundle
commits, what a result does when it lands, and what the steps of the part do.
-/
namespace Sys2Proof

open Sys2Proof.Machine

/-! ## Words of the statements -/

/-- The state in which the slot in hand has added effects to its bundle; everything else is as it was. -/
def emitted (s : State) (es : List Effect) : State :=
  { s with cur := { s.cur with effs := s.cur.effs ++ es.map (fun e => (s.cur.slot, e)) } }
/-- An instruction answers a next state, in which it has added exactly these effects and changed nothing else. -/
def Does (i : Instr) (s : State) (es : List Effect) : Prop := exec i s = .next (emitted s es)
/-- The guard of a slot reads true (R16, R72). -/
def GuardTrue (s : State) (g : BitVec 4) : Prop := s.me.pred g.toNat = true
/-- A pending write of a 64-bit value to c[n], to land after `lat` bundles, without a flag. -/
def cWrite (n lat : Nat) (v : Word) : Effect :=
  .land { dest := .creg n, val := v.setWidth 1024, mask := BitVec.allOnes 32, rem := lat, flg := 0, mark := .clean, addr := 0 }
/-- A pending write of a condition and its negation to a predicate pair, of latency 2. -/
def pWrite (k : Nat) (b : Bool) : Effect :=
  .land { dest := .pred k, val := BitVec.ofNat 1024 (if b then 1 else 2), mask := BitVec.allOnes 32, rem := 2, flg := 0,
          mark := .clean, addr := 0 }
/-- A pending write of a 64-bit value to a special register, of latency 1. -/
def sWrite (n : Nat) (v : Word) : Effect :=
  .land { dest := .special n, val := v.setWidth 1024, mask := BitVec.allOnes 32, rem := 1, flg := 0, mark := .clean, addr := 0 }
/-- A source register of an S slot as its bundle reads it. -/
abbrev regA (s : State) (f : SSlot) : Word := s.me.readC f.a.toNat
abbrev regB (s : State) (f : SSlot) : Word := s.me.readC f.b.toNat

end Sys2Proof

open Sys2Proof Sys2Proof.Machine

/-! ## Slots in general (R17, R72) -/

/-- R72: a slot whose guard reads false has no effect, whatever its instruction. -/
def Sys2Proof.GuardFalseDoesNothing : Prop :=
  ∀ (i : Instr) (s : State), (encode i).isSome = true → s.me.pred (usesOf i).guard.toNat = false → exec i s = .next s

/-- R17: no slot of a bundle changes anything before the bundle commits: it only adds effects to its bundle. -/
def Sys2Proof.SlotsOnlyAddEffects : Prop :=
  ∀ (i : Instr) (s : State), (encode i).isSome = true → ∃ es, Does i s es

/-- R72: bits [63:60] of a slot hold the guard and bits [59:52] the opcode; p0 is always true and p1 always false. -/
def Sys2Proof.SlotFields : Prop :=
  (∀ (i : Instr) (w : Word), i ≠ .nop → encode i = some (.s w) ∨ encode i = some (.v w) ∨ encode i = some (.l w) ∨
    encode i = some (.e w) → (usesOf i).guard.toNat = w.toNat / 2 ^ 60 ∧ opcodeOf w = w.toNat / 2 ^ 52 % 2 ^ 8) ∧
  ∀ (s : State) (c x : Nat), (s.ctx c x).pred 0 = true ∧ (s.ctx c x).pred 1 = false

/-- Whatever its instruction, a slot whose guard reads false changes nothing, and a slot whose guard reads true only
adds effects to its bundle; bits [63:60] of its word are the guard and [59:52] the opcode; p0 reads true and p1 false
(R17, R72). -/
def Obligations.SlotsAndGuards : Prop :=
  GuardFalseDoesNothing ∧ SlotsOnlyAddEffects ∧ SlotFields

/-- The decoder refuses the code of an instruction, by name (R82). -/
def Sys2Proof.DecoderRefuses (i : Instr) : Prop := ∃ code r, encode i = some code ∧ decodeCode code = .reject r

/-! ## Integer arithmetic (R89 to R93) -/

/-- R90: sums, differences, logic, immediates and selection, of latency 1, in exact integer arithmetic modulo 2^64. -/
def Sys2Proof.ScalarAddLogic : Prop :=
  ∀ (s : State) (f : SSlot), GuardTrue s f.g →
    Does (.add f) s [cWrite f.d.toNat 1 (BitVec.ofInt 64 ((regA s f).toInt + (regB s f).toInt))] ∧
    Does (.addi f) s [cWrite f.d.toNat 1 (BitVec.ofInt 64 ((regA s f).toInt + f.imm.toInt))] ∧
    Does (.sub f) s [cWrite f.d.toNat 1 (BitVec.ofInt 64 ((regA s f).toInt - (regB s f).toInt))] ∧
    Does (.movi f) s [cWrite f.d.toNat 1 (BitVec.ofInt 64 f.imm.toInt)] ∧
    Does (.movhi f) s [cWrite f.d.toNat 1
      (BitVec.ofNat 64 (f.imm.toNat % 2 ^ 30 * 2 ^ 34 + (s.me.readC f.d.toNat).toNat % 2 ^ 34))] ∧
    Does (.sel f) s [cWrite f.d.toNat 1 (if s.me.pred (f.imm.toNat / 2 ^ 30) = true then regA s f else regB s f)] ∧
    ∃ v1 v2 v3 v4 v5 v6 : Word,
      (Does (.and f) s [cWrite f.d.toNat 1 v1] ∧ Does (.andi f) s [cWrite f.d.toNat 1 v2] ∧
        Does (.or f) s [cWrite f.d.toNat 1 v3] ∧ Does (.ori f) s [cWrite f.d.toNat 1 v4] ∧
        Does (.xor f) s [cWrite f.d.toNat 1 v5] ∧ Does (.xori f) s [cWrite f.d.toNat 1 v6]) ∧
      ∀ i : Nat, i < 64 →
        v1.getLsbD i = ((regA s f).getLsbD i && (regB s f).getLsbD i) ∧
        v2.getLsbD i = ((regA s f).getLsbD i && f.imm.getLsbD (min i 33)) ∧
        v3.getLsbD i = ((regA s f).getLsbD i || (regB s f).getLsbD i) ∧
        v4.getLsbD i = ((regA s f).getLsbD i || f.imm.getLsbD (min i 33)) ∧
        v5.getLsbD i = ((regA s f).getLsbD i ^^ (regB s f).getLsbD i) ∧
        v6.getLsbD i = ((regA s f).getLsbD i ^^ f.imm.getLsbD (min i 33))

/-- R90: shifts by b[5:0], with zeros or copies of the sign coming in, of latency 1; and the products of latency 3. -/
def Sys2Proof.ScalarShiftsProducts : Prop :=
  ∀ (s : State) (f : SSlot), GuardTrue s f.g →
    let a := regA s f
    let b := regB s f
    let n := b.toNat % 64
    let m := f.imm.toNat % 64
    Does (.shl f) s [cWrite f.d.toNat 1 (BitVec.ofNat 64 (a.toNat * 2 ^ n))] ∧
    Does (.shli f) s [cWrite f.d.toNat 1 (BitVec.ofNat 64 (a.toNat * 2 ^ m))] ∧
    Does (.shr f) s [cWrite f.d.toNat 1 (BitVec.ofNat 64 (a.toNat / 2 ^ n))] ∧
    Does (.shri f) s [cWrite f.d.toNat 1 (BitVec.ofNat 64 (a.toNat / 2 ^ m))] ∧
    Does (.sar f) s [cWrite f.d.toNat 1 (BitVec.ofInt 64 (a.toInt / 2 ^ n))] ∧
    Does (.sari f) s [cWrite f.d.toNat 1 (BitVec.ofInt 64 (a.toInt / 2 ^ m))] ∧
    Does (.mul f) s [cWrite f.d.toNat 3 (BitVec.ofInt 64 (a.toInt * b.toInt))] ∧
    Does (.muli f) s [cWrite f.d.toNat 3 (BitVec.ofInt 64 (a.toInt * f.imm.toInt))] ∧
    Does (.mulh f) s [cWrite f.d.toNat 3 (BitVec.ofInt 64 (a.toInt * b.toInt / 2 ^ 64))] ∧
    Does (.mulhn f) s [cWrite f.d.toNat 3 (BitVec.ofNat 64 (a.toNat * b.toNat / 2 ^ 64))]

/-- R90: the smaller and the larger of two registers, and the counts of bits, of latency 1; NOP does nothing (R71). -/
def Sys2Proof.ScalarMinMaxCounts : Prop :=
  ∀ (s : State) (f : SSlot), GuardTrue s f.g →
    let a := regA s f
    let b := regB s f
    Does .nop s [] ∧
    (∃ lo hi lon hin : Word,
      Does (.min f) s [cWrite f.d.toNat 1 lo] ∧ Does (.max f) s [cWrite f.d.toNat 1 hi] ∧
      Does (.minn f) s [cWrite f.d.toNat 1 lon] ∧ Does (.maxn f) s [cWrite f.d.toNat 1 hin] ∧
      lo.toInt = min a.toInt b.toInt ∧ hi.toInt = max a.toInt b.toInt ∧
      lon.toNat = min a.toNat b.toNat ∧ hin.toNat = max a.toNat b.toNat) ∧
    Does (.add32 f) s [cWrite f.d.toNat 1 (BitVec.ofInt 64 (BitVec.ofInt 32 (a.toInt + b.toInt)).toInt)] ∧
    (∃ z : Nat, Does (.clz f) s [cWrite f.d.toNat 1 (BitVec.ofNat 64 z)] ∧ z ≤ 64 ∧
      (∀ i, 64 - z ≤ i → a.getLsbD i = false) ∧ (z < 64 → a.getLsbD (63 - z) = true)) ∧
    Does (.popc f) s [cWrite f.d.toNat 1 (BitVec.ofNat 64 ((List.range 64).filter (fun i => a.getLsbD i)).length)]

/-- R90: a shift by an immediate requires IMM34 = 0 to 63, and MOVHI requires IMM34[33:30] = 0. -/
def Sys2Proof.ScalarRefusals : Prop :=
  ∀ f : SSlot, (64 ≤ f.imm.toNat → ∀ i ∈ [Instr.shli f, .shri f, .sari f], DecoderRefuses i) ∧
    (2 ^ 30 ≤ f.imm.toNat → DecoderRefuses (.movhi f))

/-- R90: the single-register integer forms write c[D] as Table 5.2 states, modulo 2^64, with latency 1 or, for the
products, 3; a shift count is b[5:0]; an immediate shift count above 63 and a MOVHI with IMM34[33:30] set are refused
by the decoder; NOP does nothing. -/
def Obligations.ScalarArithmetic : Prop :=
  ScalarAddLogic ∧ ScalarShiftsProducts ∧ ScalarMinMaxCounts ∧ ScalarRefusals

/-- R91: the register pairs of ADDP and MULW, low half at the base, with latencies 1 and 3; the two halves together are
the 128-bit sum and the exact signed 128-bit product. A pair base that is odd is refused; c63 is odd. -/
def Obligations.ScalarPairs : Prop :=
  (∀ f : SSlot, (f.d.toNat % 2 = 1 → DecoderRefuses (.addp f) ∧ DecoderRefuses (.mulw f)) ∧
    (f.a.toNat % 2 = 1 ∨ f.b.toNat % 2 = 1 → DecoderRefuses (.addp f))) ∧
  decodeSlot 0 0x01E28C3800000000 = .instr (.addp { g := 0, d := 10, a := 12, b := 14, imm := 0 }) ∧
  ∀ (s : State) (f : SSlot), GuardTrue s f.g →
    (∃ lo hi : Word, Does (.addp f) s [cWrite f.d.toNat 1 lo, cWrite (f.d.toNat + 1) 1 hi] ∧
      lo.toNat + 2 ^ 64 * hi.toNat =
        ((regA s f).toNat + 2 ^ 64 * (s.me.readC (f.a.toNat + 1)).toNat +
          ((regB s f).toNat + 2 ^ 64 * (s.me.readC (f.b.toNat + 1)).toNat)) % 2 ^ 128) ∧
    ∃ lo hi : Word, Does (.mulw f) s [cWrite f.d.toNat 3 lo, cWrite (f.d.toNat + 1) 3 hi] ∧
      lo.toNat + 2 ^ 64 * hi.toInt = (regA s f).toInt * (regB s f).toInt

/-- R92: a compare writes the pair (cond, NOT cond) of Table 5.4 with latency 2, against a register or sext(IMM34);
k is 1 to 7. -/
def Sys2Proof.Compares : Prop :=
  (∀ f : SSlot, f.d.toNat = 0 ∨ 8 ≤ f.d.toNat → ∀ i ∈ [Instr.cmpEq f, .cmpNe f, .cmpLt f, .cmpLe f, .cmpLtn f, .cmpLen f,
    .cmpiEq f, .cmpiNe f, .cmpiLt f, .cmpiLe f, .cmpiLtn f, .cmpiLen f], DecoderRefuses i) ∧
  decodeSlot 0 0x0280830000000064 = .instr (.cmpiLt { g := 0, d := 2, a := 3, b := 0, imm := 100 }) ∧
  ∀ (s : State) (f : SSlot), GuardTrue s f.g →
    let a := regA s f
    let b := regB s f
    let i := BitVec.ofInt 64 f.imm.toInt
    let k := f.d.toNat
    Does (.cmpEq f) s [pWrite k (decide (a.toNat = b.toNat))] ∧ Does (.cmpNe f) s [pWrite k (decide (a.toNat ≠ b.toNat))] ∧
    Does (.cmpLt f) s [pWrite k (decide (a.toInt < b.toInt))] ∧ Does (.cmpLe f) s [pWrite k (decide (a.toInt ≤ b.toInt))] ∧
    Does (.cmpLtn f) s [pWrite k (decide (a.toNat < b.toNat))] ∧ Does (.cmpLen f) s [pWrite k (decide (a.toNat ≤ b.toNat))] ∧
    Does (.cmpiEq f) s [pWrite k (decide (a.toInt = f.imm.toInt))] ∧
    Does (.cmpiNe f) s [pWrite k (decide (a.toInt ≠ f.imm.toInt))] ∧
    Does (.cmpiLt f) s [pWrite k (decide (a.toInt < f.imm.toInt))] ∧
    Does (.cmpiLe f) s [pWrite k (decide (a.toInt ≤ f.imm.toInt))] ∧
    Does (.cmpiLtn f) s [pWrite k (decide (a.toNat < i.toNat))] ∧ Does (.cmpiLen f) s [pWrite k (decide (a.toNat ≤ i.toNat))]

/-- R93: the predicate operations write the pair (result, NOT result) with latency 2. They do not write pair 0, and
while a loop of two or more stages is active a result for pairs 4 to 7 is discarded when it lands. -/
def Sys2Proof.PredicateOps : Prop :=
  (∀ f : SSlot, f.d.toNat = 0 → ∀ i ∈ [Instr.pand f, .por f, .pxor f, .pset f], DecoderRefuses i) ∧
  (∀ (s : State) (c x : Nat) (e : Pending) (k : Nat), e.dest = .pred k → (s.ctx c x).loop.active = true →
    2 ≤ (s.ctx c x).loop.stages → 4 ≤ k → ((s.land c x e).ctx c x).p = (s.ctx c x).p) ∧
  ∀ (s : State) (f : SSlot), GuardTrue s f.g →
    let a := s.me.pred f.a.toNat
    let b := s.me.pred f.b.toNat
    let k := f.d.toNat
    Does (.pand f) s [pWrite k (decide (a = true ∧ b = true))] ∧ Does (.por f) s [pWrite k (decide (a = true ∨ b = true))] ∧
    Does (.pxor f) s [pWrite k (decide (a ≠ b))] ∧ Does (.pset f) s [pWrite k (decide (f.imm.toNat % 2 = 1))]

/-- R92, R93: a compare writes (cond, NOT cond) of Table 5.4 to the pair k = D = 1 to 7 with latency 2, against c[B]
or sext(IMM34); PAND, POR, PXOR and PSET write (result, NOT result) with latency 2; none writes pair 0, and a loop of
two or more stages discards results for pairs 4 to 7. The word of Table 5.5 decodes to its instruction. -/
def Obligations.ComparesAndPredicates : Prop :=
  Compares ∧ PredicateOps

/-! ## Control (R94 to R115) -/

/-- R94: a taken branch outside a delay bundle and outside a loop names its target; CALL also writes the address of the
bundle after its four delay bundles to c63, with latency 1. A register target at or above the limit of the context is
ILL, with the target in TVAL. -/
def Sys2Proof.Branches : Prop :=
  ∀ (s : State) (f : SSlot), GuardTrue s f.g → s.me.redirect = none → s.me.loop.active = false →
    let limit := if s.cur.ctx = 4 then Config.supBundles else Config.bundles
    Does (.br f) s [.redirect (s.cur.pc + f.imm.toInt).toNat] ∧
    Does (.call f) s [.redirect (s.cur.pc + f.imm.toInt).toNat, cWrite 63 1 (BitVec.ofNat 64 (s.cur.pc + 5))] ∧
    Does (.brx f) s (if (regA s f).toNat < limit then [.redirect (regA s f).toNat] else [.trap .ill (regA s f)]) ∧
    Does (.ret f) s (if (s.me.readC 63).toNat < limit then [.redirect (s.me.readC 63).toNat]
      else [.trap .ill (s.me.readC 63)])

/-- R95, R97: in the delay bundles of a taken branch the listed instructions raise ILL, and in a loop body the branches,
LOOP, LOOPI and END do. -/
def Sys2Proof.DelayAndBodyRestrictions : Prop :=
  ∀ (s : State) (f : SSlot), GuardTrue s f.g →
    (s.me.redirect.isSome = true →
      ∀ i ∈ [Instr.br f, .brx f, .call f, .ret f, .loop f, .loopi f, .lexit f, .stage f, .kwait f, .swait f, .swaitany f,
          .claim f, .seg f, .rdv f, .end_ f],
        ∃ es, Does i s (.trap .ill 0 :: es)) ∧
    (s.me.redirect = none → s.me.loop.active = true →
      ∀ i ∈ [Instr.br f, .brx f, .call f, .ret f, .loop f, .loopi f, .end_ f], ∃ es, Does i s (.trap .ill 0 :: es))

/-- R96, R97, R99: LOOP takes its six counts from the COUNT fields of d[D], each at least 1, and LOOPI has the one count
N; both take BODY + 1 bundles from the next one and STAGES + 1 stages, and level 0 runs STAGES more passes; LEXIT needs
an active loop; STAGE writes the four stage predicates, the first N + 1 of them true. -/
def Sys2Proof.Loops : Prop :=
  ∀ (s : State) (f : SSlot), GuardTrue s f.g → s.me.redirect = none →
    let body := f.imm.toNat % 32 + 1
    let stages := f.imm.toNat / 32 % 4 + 1
    (s.me.loop.active = false →
      (∃ l, Does (.loop f) s [.startLoop l] ∧ l.active = true ∧ l.stages = stages ∧ l.body = body ∧
        l.first = s.cur.pc + 1 ∧ l.lexit = false ∧ l.idx = [0, 0, 0, 0, 0, 0] ∧
        ∃ n : Nat → Nat, (∀ k, n k = max ((s.me.readD f.d.toNat).toNat / 2 ^ (128 + 64 * k) % 2 ^ 16) 1) ∧
          l.n0 = n 0 ∧ l.cnt = [n 0 + stages - 1, n 1, n 2, n 3, n 4, n 5]) ∧
      (∃ l, Does (.loopi f) s [.startLoop l] ∧ l.active = true ∧ l.stages = stages ∧ l.body = body ∧
        l.first = s.cur.pc + 1 ∧ l.lexit = false ∧ l.idx = [0, 0, 0, 0, 0, 0] ∧
        l.n0 = f.imm.toNat / 128 % 2 ^ 16 ∧ l.cnt = [f.imm.toNat / 128 % 2 ^ 16 + stages - 1, 1, 1, 1, 1, 1]) ∧
      Does (.lexit f) s [.trap .ill 0]) ∧
    (s.me.loop.active = true → Does (.lexit f) s [.lexit]) ∧
    Does (.stage f) s ((List.range 4).map (fun i => pWrite (4 + i) (decide (i ≤ f.imm.toNat % 4))))

/-- Branches, CALL and RET name their targets and CALL links (R94); in a delay bundle or a loop body the listed
instructions raise ILL (R95, R97); LOOP, LOOPI, LEXIT and STAGE (R96, R97, R99). -/
def Obligations.BranchesAndLoops : Prop :=
  Branches ∧ DelayAndBodyRestrictions ∧ Loops

/-- R101: outside a delay bundle and with nothing held back, KWAIT goes on when every token it names has completed
without error; it waits while one is pending; a token that completed with a status raises XLAT, with the address, or
ENG, with the token's number. -/
def Sys2Proof.TokenWait : Prop :=
  ∀ (s : State) (f : SSlot), GuardTrue s f.g → s.me.redirect = none → s.me.srq = [] →
    let ks := [f.d.toNat, f.a.toNat, f.b.toNat].filter (fun k => decide (k ≠ 0))
    ((∀ k ∈ ks, (s.me.token k).pend = false ∧ (s.me.token k).since ≤ s.cyc ∧ (s.me.token k).status = 0) →
      Does (.kwait f) s []) ∧
    ((∃ k ∈ ks, (s.me.token k).pend = true) → ∃ es, Does (.kwait f) s (.wait 1 none :: es)) ∧
    (∀ k, ks = [k] → (s.me.token k).pend = false → (s.me.token k).since ≤ s.cyc → (s.me.token k).status ≠ 0 →
      Does (.kwait f) s [if (s.me.token k).status = 0x06 then .trap .xlat (BitVec.ofNat 64 (s.me.token k).addr)
        else .trap .eng (BitVec.ofNat 64 k)])

/-- The bank of the sync word that a register names is the launch's, and it meets no refresh window (R103). -/
def Sys2Proof.WordReady (s : State) (y : Word) : Prop :=
  (s.here.bank (bankOf (y.toNat / 8 % 2 ^ 22))).allocatedTo s.me s.cur.ctx = true ∧
  s.here.refreshEnd (bankOf (y.toNat / 8 % 2 ^ 22)) s.cyc 1 = none
/-- The generation of the word that a register names, as this cycle sees it (R202), has passed the value seen by 1 to
0x7FFF (R104, R105). -/
def Sys2Proof.GenPassed (s : State) (y : Word) (seen : Nat) : Prop :=
  ∃ k : Nat, 1 ≤ k ∧ k ≤ 0x7FFF ∧ s.genSeen s.cur.core y = (seen + k) % 2 ^ 16

/-- R102, R104 to R106: YSET writes y[D] with latency 1, or raises BRANGE for a value outside Table 5.10; SWAIT goes on
when the generation has passed c[A], and else waits; SWAITANY returns the first complete slot of its mask in the order
YPTR, YPTR + 1, …, and consumes it; SPOST holds back a post of c[A][31:0] in its class. -/
def Sys2Proof.SyncWords : Prop :=
  ∀ (s : State) (f : SSlot), GuardTrue s f.g →
    let v := regA s f
    let y := s.me.readY f.d.toNat
    Does (.yset f) s
      (if v.toNat < 2 ^ 25 ∧ v.toNat / 8 ≤ 0x2FFFFF then
        [.land { dest := .sync f.d.toNat, val := v.setWidth 1024, mask := BitVec.allOnes 32, rem := 1, flg := 0, mark := .clean,
                 addr := 0 }]
       else [.trap .brange v]) ∧
    (WordReady s y → s.me.redirect = none → s.me.srq = [] → (GenPassed s y (v.toNat % 2 ^ 16) → Does (.swait f) s []) ∧
      (¬ GenPassed s y (v.toNat % 2 ^ 16) → Does (.swait f) s [.wait 2 none])) ∧
    (WordReady s y → Does (.spost f) s [.held (f.imm.toNat % 16)
      (.post (spAddr s.cur.core (y.toNat / 8 % 2 ^ 22) + 16 * (y.toNat % 8)) (v.setWidth 32)) (y.toNat / 8 % 2 ^ 22)
      (spAddr s.cur.core (y.toNat / 8 % 2 ^ 22) + 16 * (y.toNat % 8))]) ∧
    (s.me.redirect = none → s.me.srq = [] → (∀ n, n < 8 → f.imm.getLsbD n = true → WordReady s (s.me.readY n)) →
      (∀ n, n < 8 → f.imm.getLsbD n = true → GenPassed s (s.me.readY n) (s.me.readSg n) →
        (∀ i, i < (n + 8 - s.me.yptr % 8) % 8 → f.imm.getLsbD ((s.me.yptr + i) % 8) = true →
          ¬ GenPassed s (s.me.readY ((s.me.yptr + i) % 8)) (s.me.readSg ((s.me.yptr + i) % 8))) →
        Does (.swaitany f) s [cWrite f.d.toNat 1 (BitVec.ofNat 64 n), .consume n]) ∧
      ((∀ n, n < 8 → f.imm.getLsbD n = true → ¬ GenPassed s (s.me.readY n) (s.me.readSg n)) →
        Does (.swaitany f) s [.wait 2 none]))

/-- R103: a sync instruction whose word lies in a bank that is not the launch's raises BOWN, with the flat address;
SWAITANY for the first such word of its mask. -/
def Sys2Proof.SyncWordOwnership : Prop :=
  ∀ (s : State) (f : SSlot), GuardTrue s f.g → s.me.redirect = none → s.me.srq = [] →
    let flat := (s.me.readY f.d.toNat).toNat / 8 % 2 ^ 22
    ((s.here.bank (bankOf flat)).allocatedTo s.me s.cur.ctx = false →
      ∀ i ∈ [Instr.swait f, .spost f], ∃ es, Does i s (.trap .bown (BitVec.ofNat 64 flat) :: es)) ∧
    ∀ n, n < 8 → f.imm.getLsbD n = true →
      let word := (s.me.readY n).toNat / 8 % 2 ^ 22
      (s.here.bank (bankOf word)).allocatedTo s.me s.cur.ctx = false →
      (∀ k, k < n → f.imm.getLsbD k = true → WordReady s (s.me.readY k)) →
      ∃ es, Does (.swaitany f) s (.trap .bown (BitVec.ofNat 64 word) :: es)

/-- YSET, SWAIT, SWAITANY and SPOST on sync words, with the BRANGE and BOWN traps of R102 and R103 (R102 to R106). -/
def Obligations.SyncInstructions : Prop :=
  SyncWords ∧ SyncWordOwnership

/-- R107, R108: FENCE and REL order their classes at their scope and ACQ its classes, and a mask of 0 does nothing. -/
def Sys2Proof.Fences : Prop :=
  ∀ (s : State) (f : SSlot), GuardTrue s f.g →
    let mask : BitVec 16 := f.imm.setWidth 16
    let n := f.imm.toNat / 2 ^ 16 % 4
    let scope := if n = 0 then Scope.cluster else if n = 1 then Scope.device else Scope.system
    (mask ≠ 0 → Does (.fence f) s [.order (.fence mask scope)] ∧ Does (.rel f) s [.order (.rel mask scope)] ∧
      Does (.acq f) s [.order (.acq mask)]) ∧
    (mask = 0 → ∀ i ∈ [Instr.fence f, .rel f, .acq f], Does i s [])

/-- KWAIT goes on, waits or traps by the state of the tokens it names (R101); FENCE, REL and ACQ order their classes,
and a mask of 0 does nothing (R107, R108). -/
def Obligations.TokensAndFences : Prop :=
  TokenWait ∧ Fences

/-- R25, R26, R109 to R112: CLAIM asks for an index for c[D]; GROW holds back its count; SEG and RDV end the segment when
nothing is held back and no command issued in the segment is in the matrix engine or the PPE, and wait for such commands
else, which they see complete from the next cycle on (R101, R165, R192); MARK writes the drift; CHK and CHKP detect unequal values. -/
def Obligations.WorkAndSegments : Prop :=
  ∀ (s : State) (f : SSlot), GuardTrue s f.g →
    Does (.grow f) s [.held 0 (.grow (regA s f)) 0 0] ∧
    Does (.chk f) s (if (regA s f).toNat = (regB s f).toNat then [] else [.mismatch false]) ∧
    Does (.chkp f) s (if (regA s f).toNat = (regB s f).toNat ∧
        (s.me.readC (f.a.toNat + 1)).toNat = (s.me.readC (f.b.toNat + 1)).toNat then [] else [.mismatch false]) ∧
    (let drift : Int := (s.cyc : Int) - (if s.me.segFirst = true then (s.cyc : Int) else s.me.segStart) - (f.imm.toNat % 2 ^ 24 : Nat)
     Does (.mark f) s [sWrite 0x0B (BitVec.ofInt 64 drift),
       .drift (BitVec.ofInt 64 drift) (decide ((s.here.dthr.toNat : Int) < |drift|))]) ∧
    (let unfinished := s.here.tileCommands ++ (s.here.endedNow s.cyc).filter Cmd.isTileWork
     s.me.redirect = none →
      (s.me.replay < s.me.claims.length ∨ s.me.claims.length < 16 → Does (.claim f) s [.claim f.d.toNat 0]) ∧
      (s.me.claims.length ≤ s.me.replay → 16 ≤ s.me.claims.length → Does (.claim f) s [.implicit, .claim f.d.toNat 0]) ∧
      (s.me.srq = [] →
        ((∀ c ∈ unfinished, ¬ (c.ctx = s.cur.ctx ∧ c.inSeg = true)) →
          Does (.seg f) s [.seg (f.imm.toNat % 2 ^ 16)] ∧
          Does (.rdv f) s [.rdv (f.imm.toNat % 2 ^ 16) (f.imm.toNat / 2 ^ 16 % 16)]) ∧
        ((∃ c ∈ unfinished, c.ctx = s.cur.ctx ∧ c.inSeg = true) →
          Does (.seg f) s [.wait 13 none, .seg (f.imm.toNat % 2 ^ 16)] ∧
          Does (.rdv f) s [.wait 13 none, .rdv (f.imm.toNat % 2 ^ 16) (f.imm.toNat / 2 ^ 16 % 16)])))

/-- R113 to R115, R252: YIELD gives up its turn; TRAP and SYS raise their traps with the code in TVAL; END, outside a delay
bundle and a loop body, makes its bundle the context's last; WAITI of context 4 goes on while something is current, loads the
next event, or waits for one. -/
def Obligations.ContextInstructions : Prop :=
  ∀ (s : State) (f : SSlot), GuardTrue s f.g →
    Does (.yield f) s [.yielded] ∧
    Does (.trap f) s [.trap .trap (BitVec.ofNat 64 (f.imm.toNat % 2 ^ 16))] ∧
    Does (.sys f) s [.trap .sys (BitVec.ofNat 64 (f.imm.toNat % 2 ^ 16))] ∧
    (s.me.redirect = none → s.me.loop.active = false → Does (.end_ f) s [.finish]) ∧
    (s.cur.ctx = 4 →
      (s.here.trapinfo ≠ 0 → Does (.waiti f) s []) ∧
      (s.here.trapinfo = 0 →
        (s.here.trapQ ≠ [] ∨ s.here.msgQ ≠ [] → Does (.waiti f) s [.waiti]) ∧
        (s.here.trapQ = [] → s.here.msgQ = [] → Does (.waiti f) s [.wait 14 none])))

/-- Table 5.14 and Table 15.1: what MFS reads from each special register, at issue. -/
def Sys2Proof.specials (s : State) : List (Nat × Word) :=
  let x := s.me
  let k := s.here
  let part := (s.cluster (s.cur.core / 4)).part
  [(0x00, BitVec.ofNat 64 s.cyc), (0x01, x.bcnt), (0x02, BitVec.ofNat 64 s.cur.ctx), (0x03, BitVec.ofNat 64 x.vcore),
    (0x04, BitVec.ofNat 64 (x.vcore / 4)), (0x05, BitVec.ofNat 64 x.launch), (0x06, x.argp), (0x07, x.flags.setWidth 64),
    (0x08, x.escn.setWidth 64), (0x09, BitVec.ofNat 64 k.tallow), (0x0A, BitVec.ofNat 64 k.rfsh), (0x0B, x.drift),
    (0x0C, BitVec.ofNat 64 x.segid), (0x0D, BitVec.ofNat 64 x.segtry), (0x0E, BitVec.ofNat 64 x.yptr),
    (0x0F, BitVec.ofNat 64 (if x.tmask = true then 1 else 0)), (0x10, BitVec.ofNat 64 x.pwin), (0x20, k.trapinfo), (0x21, k.tpc),
    (0x22, k.tslot), (0x23, k.tval), (0x24, k.snap), (0x25, k.inj), (0x26, (s.partOf part).troot), (0x27, s.partReg s.cur.core),
    (0x28, k.readDbg), (0x29, k.dthr)]

/-- R116: MFS reads the register at issue and writes c[D] with latency 2; the registers from 0x20 on only in context 4. -/
def Sys2Proof.SpecialReads : Prop :=
  ∀ (s : State) (f : SSlot), GuardTrue s f.g → ∀ e ∈ specials s, f.imm.toNat % 2 ^ 8 = e.1 →
    (e.1 < 0x20 ∨ s.cur.ctx = 4 → Does (.mfs f) s [cWrite f.d.toNat 2 e.2]) ∧
    (0x20 ≤ e.1 → s.cur.ctx ≠ 4 → Does (.mfs f) s [.trap .priv 0, cWrite f.d.toNat 2 e.2])

/-- R116, R54, R248, R252, R268, R275, R289: MTS of each register writes c[A] with latency 1; context 4 alone writes the
registers from 0x20 on, and any other raises PRIV; SNAP, INJ and DBG raise ILL for the values that their rules refuse. -/
def Sys2Proof.SpecialWrites : Prop :=
  ∀ (s : State) (f : SSlot), GuardTrue s f.g →
    let v := regA s f
    let n := f.imm.toNat % 2 ^ 8
    (n < 0x20 → Does (.mts f) s [sWrite n v]) ∧
    (0x20 ≤ n → s.cur.ctx ≠ 4 → ∃ es, Does (.mts f) s (.trap .priv 0 :: es)) ∧
    Does (.pwinWrite f) s [sWrite 0x10 v] ∧
    (s.cur.ctx = 4 →
      (n ≠ 0x28 → Does (.mts f) s [sWrite n v]) ∧ (n = 0x28 → exec (.mts f) s = exec (.dbgControlWrite f) s) ∧
      Does (.trapinfoDismiss f) s [sWrite 0x20 v] ∧ Does (.trootWrite f) s [sWrite 0x26 v] ∧
      (snapRefused s.here v = false → Does (.snapWrite f) s [sWrite 0x24 v]) ∧
      (snapRefused s.here v = true → Does (.snapWrite f) s [.trap .ill 0, sWrite 0x24 v]) ∧
      (let bad := v.toNat % 4 = 1 ∧ (6 ≤ v.toNat / 2 ^ 23 % 8 ∨ 4 ≤ v.toNat / 2 ^ 26 % 8)
       (¬ bad → Does (.injWrite f) s [sWrite 0x25 v]) ∧ (bad → Does (.injWrite f) s [.trap .ill 0, sWrite 0x25 v])) ∧
      (let sel := v.toNat / 2 ^ 60
       let bad := 12 < sel ∨ (sel = 0 ∧ v.toNat / 2 ^ 12 % 2 ^ 16 ≠ 0) ∨ (1 ≤ sel ∧ sel ≤ 8 ∧ v.toNat / 2 ^ 21 % 2 ^ 39 ≠ 0) ∨
         (9 ≤ sel ∧ sel ≤ 12 ∧ v.toNat / 2 ^ 42 % 2 ^ 18 ≠ 0)
       ∀ i ∈ [Instr.dbgControlWrite f, .dbgBreakpointWrite f, .dbgWatchWrite f],
         (¬ bad → Does i s [sWrite 0x28 v]) ∧ (bad → Does i s [.trap .ill 0, sWrite 0x28 v])))

/-- MFS reads each special register and writes c[D] with latency 2; MTS of each register writes c[A] with latency 1;
the registers from 0x20 on in context 4 only; SNAP, INJ and DBG raise ILL for the values their rules refuse (R54,
R116, R248, R268, R275, R289). -/
def Obligations.SpecialRegisters : Prop :=
  SpecialReads ∧ SpecialWrites

/-- R2: in a user context every privileged instruction, and an MTS of every register from 0x20 on, raises PRIV. -/
def Sys2Proof.PrivilegedInstructions : Prop :=
  ∀ (s : State) (f : SSlot), GuardTrue s f.g → s.cur.ctx ≠ 4 →
    ∀ i ∈ [Instr.tret f, .csave f, .cload f, .tlbi f, .waiti f, .trapinfoDismiss f, .snapWrite f, .injWrite f, .trootWrite f,
        .dbgControlWrite f, .dbgBreakpointWrite f, .dbgWatchWrite f] ++
        (if 0x20 ≤ f.imm.toNat % 2 ^ 8 then [.mts f, .mfs f] else []),
      ∃ es, Does i s (.trap .priv 0 :: es)

/-- R117, R255, R258, R291: in context 4, TRET restores the context that SNAP names when its trap is current or parked and
its record can be read and is sound, and raises UNCR for a line that cannot be read (R262); CSAVE takes a current or parked
context, CLOAD a free one with an area that fits; TLBI takes all ones or an address below 2^57. Anything else raises ILL.
That TVAL of a refused TRET is the flat line of the record (log entry 21), and that of a refused CSAVE or CLOAD is c[A], or
the VA of an area without a translation (log entry 77), are the model's readings. -/
def Sys2Proof.SupervisorInstructions : Prop :=
  ∀ (s : State) (f : SSlot), GuardTrue s f.g → s.cur.ctx = 4 →
    let v := regA s f
    let x := v.toNat % 8
    let va := v.toNat / 2 ^ 12 % 2 ^ 45 * 2 ^ 12
    let good := x < 4 ∧ v.toNat / 2 ^ 4 % 2 ^ 8 = 0 ∧ v.toNat / 2 ^ 57 = 0
    let held := fun n => (s.here.ctx n).status = .current ∨ (s.here.ctx n).status = .parked
    let named := s.here.snap.toNat / 2 ^ 24 % 8
    let hurt := fun l => ∃ words, s.readMark s.cur.core (s.here.recordFlat named l) = .uncorrectable words
    let readable := ∀ l, l < 157 → ¬ hurt l
    (named < 4 → held named → readable → badRecordLine (s.recordAt s.cur.core named) = none →
      Does (.tret f) s [.tret named]) ∧
    (∀ l, named < 4 → held named → l < 157 → hurt l → (∀ i, i < l → ¬ hurt i) →
      Does (.tret f) s [.trap .uncr (BitVec.ofNat 64 (s.here.recordFlat named l)), .met (s.here.recordFlat named l), .tret named]) ∧
    (4 ≤ named ∨ ¬ held named → Does (.tret f) s [.trap .ill (BitVec.ofNat 64 named), .tret named]) ∧
    (∀ l, named < 4 → held named → readable → badRecordLine (s.recordAt s.cur.core named) = some l →
      Does (.tret f) s [.trap .ill (BitVec.ofNat 64 (s.here.recordFlat named l)), .tret named]) ∧
    (good → held x → Does (.csave f) s [.csave x (v.getLsbD 3) va]) ∧
    (¬ good ∨ ¬ held x → Does (.csave f) s [.trap .ill v, .csave x (v.getLsbD 3) va]) ∧
    (good → (s.here.ctx x).status = .free →
      (∀ m n z, s.areaHead (s.cur.core / 4) va = some m → headerNamed m = some n → s.savedIn m = some z →
        areaFits s s.cur.core n z = true → Does (.cload f) s [.cload x va]) ∧
      (∀ m, s.areaHead (s.cur.core / 4) va = some m →
        headerNamed m = none ∨ s.savedIn m = none ∨
          (∃ n z, headerNamed m = some n ∧ s.savedIn m = some z ∧ areaFits s s.cur.core n z = false) →
        Does (.cload f) s [.trap .ill v, .cload x va]) ∧
      (s.areaHead (s.cur.core / 4) va = none →
        Does (.cload f) s [.trap .xlat (BitVec.ofNat 64 va), .cload x va])) ∧
    (¬ good ∨ (s.here.ctx x).status ≠ .free → Does (.cload f) s [.trap .ill v, .cload x va]) ∧
    (v = BitVec.allOnes 64 ∨ v.toNat < 2 ^ 57 → Does (.tlbi f) s [.tlbi v]) ∧
    (v ≠ BitVec.allOnes 64 → 2 ^ 57 ≤ v.toNat → Does (.tlbi f) s [.trap .ill v, .tlbi v])

/-- In a user context every privileged instruction raises PRIV, and so does an MFS or MTS of every register from 0x20
on (R2, R117, R248); in context 4 TRET, CSAVE, CLOAD and TLBI act on a sound operand and raise ILL for any other, and
a TRET of a record that cannot be read raises UNCR (R255, R258, R291). Which line of a bad record TVAL names (log
entry 21), and what it is for a refused CSAVE or CLOAD (log entry 77), are the model's readings. -/
def Obligations.PrivilegeAndSupervisor : Prop :=
  PrivilegedInstructions ∧ SupervisorInstructions

/-! ## Numbers (R30 to R34) -/

/-- The value of a finite number, (−1)^n · m · 2^e. -/
def Sys2Proof.ratOf (n : Bool) (m : Nat) (e : Int) : ℚ := (if n = true then -(m : ℚ) else (m : ℚ)) * 2 ^ e

/-- R33, R37: sums, products and fused products of finite numbers are exact; an exact zero sum is +0, or −0 in RD, unless
both are zeros of one sign; ∞ − ∞ and 0 · ∞ are invalid; the order of finite numbers is that of their values. -/
def Obligations.ExactArithmetic : Prop :=
  ∀ (rnd : Nat) (a b c : Bool) (m n l : Nat) (e k j : Int),
    (∃ z p q, Machine.Num.add rnd (.fin a m e) (.fin b n k) = (.fin z p q, 0) ∧ ratOf z p q = ratOf a m e + ratOf b n k ∧
      (p = 0 → z = if m = 0 ∧ n = 0 ∧ a = b then a else decide (rnd = 3))) ∧
    (∃ p q, Machine.Num.mul (.fin a m e) (.fin b n k) = (.fin (a ^^ b) p q, 0) ∧
      ratOf (a ^^ b) p q = ratOf a m e * ratOf b n k) ∧
    (∃ z p q, Machine.Num.fma rnd (.fin a m e) (.fin b n k) (.fin c l j) = (.fin z p q, 0) ∧
      ratOf z p q = ratOf a m e * ratOf b n k + ratOf c l j) ∧
    (Machine.Num.lt (.fin a m e) (.fin b n k) = true ↔ ratOf a m e < ratOf b n k) ∧
    Machine.Num.add rnd (.inf a) (.inf (!a)) = (.nan, 0b00001) ∧ Machine.Num.add rnd (.inf a) (.inf a) = (.inf a, 0) ∧
    Machine.Num.mul (.inf a) (.fin b 0 e) = (.nan, 0b00001) ∧ Machine.Num.mul (.fin b 0 e) (.inf a) = (.nan, 0b00001)

/-- Table 2.4: what each mode makes of a magnitude m · 2^e on the grid of the multiples of 2^q. -/
def Sys2Proof.RoundingModes : Prop :=
  ∀ (rnd : Nat) (neg : Bool) (m : Nat) (e q : Int), rnd < 4 →
    let x : ℚ := m * 2 ^ e
    let n := (roundGrid rnd neg m e q).1
    let y : ℚ := n * 2 ^ q
    let up := (rnd = 2 ∧ neg = false) ∨ (rnd = 3 ∧ neg = true)
    ((roundGrid rnd neg m e q).2 = true ↔ y ≠ x) ∧
    (rnd = 0 → 2 * |y - x| ≤ 2 ^ q ∧ (2 * |y - x| = 2 ^ q → n % 2 = 0)) ∧
    (up → x ≤ y ∧ y < x + 2 ^ q) ∧
    (rnd ≠ 0 → ¬ up → y ≤ x ∧ x < y + 2 ^ q)

/-- The four float formats with the largest finite magnitude of each (Table 2.2). -/
def Sys2Proof.formats : List (Format × ℚ) :=
  [(fp32, (2 ^ 24 - 1) * 2 ^ 104), (bf16, (2 ^ 8 - 1) * 2 ^ 120), (e4m3, 448), (e5m2, 57344)]

/-- R33, R34, Table 2.5: a non-zero value rounds to the encoding of the value its mode gives on the grid of its last
mantissa bit or of the smallest subnormal; a rounded magnitude above the largest finite one overflows. -/
def Sys2Proof.RoundingToFormats : Prop :=
  ∀ p ∈ formats, ∀ (rnd : Nat) (sat neg : Bool) (m : Nat) (e : Int), rnd < 4 → m ≠ 0 →
    let q := p.1.grid m e
    let n := (roundGrid rnd neg m e q).1
    let r := p.1.round rnd sat (.fin neg m e)
    ((n : ℚ) * 2 ^ q ≤ p.2 →
      ∃ u k, p.1.decode r.1 = .fin neg u k ∧ ratOf neg u k = ratOf neg n q ∧
        (r.2.getLsbD 3 = true ↔ ratOf neg n q ≠ ratOf neg m e) ∧ r.2.getLsbD 0 = false ∧ r.2.getLsbD 1 = false ∧
        r.2.getLsbD 4 = false) ∧
    (p.2 < (n : ℚ) * 2 ^ q →
      if sat = true ∧ p.1.expBits < 8 then p.1.decode r.1 = p.1.decode (p.1.sign neg + p.1.maxBits) ∧ r.2 = 0b11000
      else if rnd = 0 ∨ (rnd = 2 ∧ neg = false) ∨ (rnd = 3 ∧ neg = true) then
        p.1.decode r.1 = (if p.1.hasInf = true then .inf neg else .nan) ∧ r.2 = 0b01010
      else p.1.decode r.1 = p.1.decode (p.1.sign neg + p.1.maxBits) ∧ r.2 = 0b01010)

/-- What each mode of Table 2.4 makes of a magnitude on a grid, and that a non-zero value rounds to a format on the
grid of its last mantissa bit or of the smallest subnormal, overflowing above the largest finite one (R33, R34, Table
2.5). -/
def Obligations.Rounding : Prop :=
  RoundingModes ∧ RoundingToFormats

/-! ## Vector instructions (R118 to R134) -/

/-- A V slot answers with a line of a latency for lanes of its destination, beside the checks of its sources. -/
def Sys2Proof.Yields (i : Instr) (s : State) (f : VSlot) (srcs : List (BitVec 14)) (lat : Nat) (v : Line) (mask : BitVec 32)
    (g : BitVec 5) : Prop :=
  Does i s (srcs.flatMap (lineChecks s) ++ lineResult s f.d lat v mask g)
/-- Every element of `w` bits is what an operation gives it, and a flag is set when an element of an enabled lane sets it. -/
def Sys2Proof.Elements (w : Nat) (mask : BitVec 32) (v : Line) (g : BitVec 5) (op : Nat → Nat × BitVec 5) : Prop :=
  (∀ j, j < 1024 / w → elemOf w v j = (op j).1) ∧
  ∀ k, g.getLsbD k = true ↔ ∃ j, j < 1024 / w ∧ mask.getLsbD (j * w / 32) = true ∧ (op j).2.getLsbD k = true
/-- A V slot that writes a lane mask, of latency 2. -/
def Sys2Proof.qWrite (n : Nat) (v mask : BitVec 32) : Effect :=
  .land { dest := .qmask n, val := v.setWidth 1024, mask := mask, rem := 2, flg := 0, mark := .clean, addr := 0 }
/-- An exact integer in `w` bits: wrapped, or clamped with the flags saturated and inexact (R36, R37). -/
def Sys2Proof.intOut (w : Nat) (sat : Bool) (x : Int) : Nat × BitVec 5 :=
  let y := if sat = true then max (-(2 ^ (w - 1) : Int)) (min x (2 ^ (w - 1) - 1)) else x
  ((y % 2 ^ w).toNat, if sat = true ∧ y ≠ x then 0b11000 else 0)

/-- R124: the float forms compute exactly and round once in the slot's mode. -/
def Obligations.VectorFloatArithmetic : Prop :=
  ∀ (s : State) (f : VSlot) (F : Format), GuardTrue s f.g → floatFormat f.fmt.toNat = some F →
    let mask := s.me.readQ f.m.toNat
    let r := f.rnd.toNat
    let a := fun j => F.decode (elemOf F.width (lineValue s f.a) j)
    let b := fun j => F.decode (elemOf F.width (lineValue s f.b) j)
    let d := fun j => F.decode (elemOf F.width (lineValue s f.d) j)
    let out := fun x : Machine.Num × BitVec 5 => ((F.round r (decide (f.sat = 1)) x.1).1, x.2 ||| (F.round r (decide (f.sat = 1)) x.1).2)
    ∀ p ∈ [(Instr.vadd f, 2, [f.a, f.b], fun j => (a j).add r (b j)),
        (Instr.vsub f, 2, [f.a, f.b], fun j => (a j).add r (b j).negate),
        (Instr.vmul f, 4, [f.a, f.b], fun j => (a j).mul (b j)),
        (Instr.vfma f, 4, [f.d, f.a, f.b], fun j => Machine.Num.fma r (a j) (b j) (d j)),
        (Instr.vfms f, 4, [f.d, f.a, f.b], fun j => Machine.Num.fma r (a j).negate (b j) (d j)),
        (Instr.vdif f, 2, [f.a, f.b], fun j => (((a j).add r (b j).negate).1.abs, ((a j).add r (b j).negate).2)),
        (Instr.vabs f, 2, [f.a], fun j => ((a j).abs, 0)), (Instr.vneg f, 2, [f.a], fun j => ((a j).negate, 0))],
      ∃ v g, Yields p.1 s f p.2.2.1 p.2.1 v mask g ∧ Elements F.width mask v g (fun j => out (p.2.2.2 j))

/-- R124, R36: the integer forms compute exactly from signed elements and wrap or clamp once. -/
def Sys2Proof.VectorIntegerSums : Prop :=
  ∀ (s : State) (f : VSlot) (w : Nat), GuardTrue s f.g → (f.fmt.toNat, w) ∈ [(4, 32), (5, 16), (6, 8)] →
    let mask := s.me.readQ f.m.toNat
    let a := fun j => signedOf w (elemOf w (lineValue s f.a) j)
    let b := fun j => signedOf w (elemOf w (lineValue s f.b) j)
    let d := fun j => signedOf w (elemOf w (lineValue s f.d) j)
    ∀ p ∈ [(Instr.vadd f, 2, [f.a, f.b], fun j => a j + b j), (Instr.vsub f, 2, [f.a, f.b], fun j => a j - b j),
        (Instr.vmul f, 4, [f.a, f.b], fun j => a j * b j), (Instr.vfma f, 4, [f.d, f.a, f.b], fun j => d j + a j * b j),
        (Instr.vfms f, 4, [f.d, f.a, f.b], fun j => d j - a j * b j), (Instr.vdif f, 2, [f.a, f.b], fun j => |a j - b j|),
        (Instr.vabs f, 2, [f.a], fun j => |a j|), (Instr.vneg f, 2, [f.a], fun j => -(a j))],
      ∃ v g, Yields p.1 s f p.2.2.1 p.2.1 v mask g ∧ Elements w mask v g (fun j => intOut w (decide (f.sat = 1)) (p.2.2.2 j))

/-- The smaller of two float encodings (R124): the default NaN if one is a NaN; else one of the two that the other is not
below, −0 before +0. -/
def Sys2Proof.MinOf (F : Format) (a b r : Nat) : Prop :=
  if (F.decode a).isNan = true ∨ (F.decode b).isNan = true then r = F.nanBits
  else (r = a ∨ r = b) ∧ (F.decode a).lt (F.decode r) = false ∧ (F.decode b).lt (F.decode r) = false ∧
    ((F.decode a).isZero = true → (F.decode b).isZero = true →
      (F.decode r).neg? = ((F.decode a).neg? || (F.decode b).neg?))
/-- The larger of two float encodings. -/
def Sys2Proof.MaxOf (F : Format) (a b r : Nat) : Prop :=
  if (F.decode a).isNan = true ∨ (F.decode b).isNan = true then r = F.nanBits
  else (r = a ∨ r = b) ∧ (F.decode r).lt (F.decode a) = false ∧ (F.decode r).lt (F.decode b) = false ∧
    ((F.decode a).isZero = true → (F.decode b).isZero = true →
      (F.decode r).neg? = ((F.decode a).neg? && (F.decode b).neg?))

/-- R124: VMIN and VMAX of float, signed and (VMINN, VMAXN) unsigned elements; no flag. -/
def Sys2Proof.VectorMinMax : Prop :=
  ∀ (s : State) (f : VSlot), GuardTrue s f.g →
    let w := fmtWidth f.fmt.toNat
    let mask := s.me.readQ f.m.toNat
    let a := fun j => elemOf w (lineValue s f.a) j
    let b := fun j => elemOf w (lineValue s f.b) j
    ∃ lo hi lon hin : Line,
      Yields (.vmin f) s f [f.a, f.b] 2 lo mask 0 ∧ Yields (.vmax f) s f [f.a, f.b] 2 hi mask 0 ∧
      Yields (.vminn f) s f [f.a, f.b] 2 lon mask 0 ∧ Yields (.vmaxn f) s f [f.a, f.b] 2 hin mask 0 ∧
      ∀ j, j < 1024 / w →
        elemOf w lon j = min (a j) (b j) ∧ elemOf w hin j = max (a j) (b j) ∧
        (∀ F, floatFormat f.fmt.toNat = some F → MinOf F (a j) (b j) (elemOf w lo j) ∧ MaxOf F (a j) (b j) (elemOf w hi j)) ∧
        (floatFormat f.fmt.toNat = none → signedOf w (elemOf w lo j) = min (signedOf w (a j)) (signedOf w (b j)) ∧
          signedOf w (elemOf w hi j) = max (signedOf w (a j)) (signedOf w (b j)))

/-- The integer forms compute exactly from signed elements and wrap or clamp once (R36, R124); VMIN, VMAX, VMINN and
VMAXN choose an element and set no flag (R124). -/
def Obligations.VectorIntegerArithmetic : Prop :=
  VectorIntegerSums ∧ VectorMinMax

/-- R125: the bit forms, on raw lanes and on elements; no flag. -/
def Sys2Proof.VectorBits : Prop :=
  ∀ (s : State) (f : VSlot), GuardTrue s f.g →
    let w := fmtWidth f.fmt.toNat
    let mask := s.me.readQ f.m.toNat
    let a := lineValue s f.a
    let b := lineValue s f.b
    Yields (.vmov f) s f [f.a] 2 a mask 0 ∧
    (∃ v, Yields (.vsel f) s f [f.a, f.b] 2 v (BitVec.allOnes 32) 0 ∧
      ∀ i, i < 32 → laneOf v i = if mask.getLsbD i = true then laneOf a i else laneOf b i) ∧
    (∃ v1 v2 v3 v4 : Line, (Yields (.vand f) s f [f.a, f.b] 2 v1 mask 0 ∧ Yields (.vor f) s f [f.a, f.b] 2 v2 mask 0 ∧
      Yields (.vxor f) s f [f.a, f.b] 2 v3 mask 0 ∧ Yields (.vnot f) s f [f.a] 2 v4 mask 0) ∧
      ∀ i, i < 1024 → v1.getLsbD i = (a.getLsbD i && b.getLsbD i) ∧ v2.getLsbD i = (a.getLsbD i || b.getLsbD i) ∧
        v3.getLsbD i = (a.getLsbD i ^^ b.getLsbD i) ∧ v4.getLsbD i = !a.getLsbD i) ∧
    (∃ v1 v2 v3 v4 v5 v6 v7 : Line,
      (Yields (.vshl f) s f [f.a, f.b] 2 v1 mask 0 ∧ Yields (.vshr f) s f [f.a, f.b] 2 v2 mask 0 ∧
        Yields (.vsar f) s f [f.a, f.b] 2 v3 mask 0 ∧ Yields (.vmulh f) s f [f.a, f.b] 4 v4 mask 0 ∧
        Yields (.vmulhn f) s f [f.a, f.b] 4 v5 mask 0 ∧ Yields (.vclz f) s f [f.a] 2 v6 mask 0 ∧
        Yields (.vpopc f) s f [f.a] 2 v7 mask 0) ∧
      ∀ j, j < 1024 / w →
        let x := elemOf w a j
        let y := elemOf w b j
        elemOf w v1 j = x * 2 ^ (y % w) % 2 ^ w ∧ elemOf w v2 j = x / 2 ^ (y % w) ∧
        signedOf w (elemOf w v3 j) = signedOf w x / 2 ^ (y % w) ∧
        signedOf w (elemOf w v4 j) = signedOf w x * signedOf w y / 2 ^ w ∧ elemOf w v5 j = x * y / 2 ^ w ∧
        (elemOf w v6 j ≤ w ∧ (∀ i, w - elemOf w v6 j ≤ i → i < w → x.testBit i = false) ∧
          (elemOf w v6 j < w → x.testBit (w - 1 - elemOf w v6 j) = true)) ∧
        elemOf w v7 j = ((List.range w).filter (fun i => x.testBit i)).length)

/-- R126, Table 5.4: the compares into a lane mask, on f32 when FMT is 0 and on s32 else; the logic of lane masks; the
count and the first of their bits. -/
def Sys2Proof.VectorMasks : Prop :=
  ∀ (s : State) (f : VSlot), GuardTrue s f.g →
    let mask := s.me.readQ f.m.toNat
    let x := fun i => elemOf 32 (lineValue s f.a) i
    let y := fun i => elemOf 32 (lineValue s f.b) i
    let num := fun z => fp32.decode z
    let checks := [f.a, f.b].flatMap (lineChecks s)
    let q := s.me.readQ f.a.toNat
    (∀ p ∈ [(Instr.vcmpEq f, fun i => decide (x i = y i), fun i => (num (x i)).eq (num (y i))),
        (Instr.vcmpNe f, fun i => decide (x i ≠ y i), fun i => !(num (x i)).eq (num (y i))),
        (Instr.vcmpLt f, fun i => decide (signedOf 32 (x i) < signedOf 32 (y i)), fun i => (num (x i)).lt (num (y i))),
        (Instr.vcmpLe f, fun i => decide (signedOf 32 (x i) ≤ signedOf 32 (y i)), fun i => (num (x i)).le (num (y i))),
        (Instr.vcmpLtn f, fun i => decide (x i < y i), fun i => (num (x i)).lt (num (y i))),
        (Instr.vcmpLen f, fun i => decide (x i ≤ y i), fun i => (num (x i)).le (num (y i)))],
      ∃ v, Does p.1 s (checks ++ [qWrite f.d.toNat v mask]) ∧
        ∀ i, i < 32 → v.getLsbD i = if f.fmt = 0 then p.2.2 i else p.2.1 i) ∧
    (∃ v1 v2 v3 : BitVec 32, (Does (.vqand f) s [qWrite f.d.toNat v1 (BitVec.allOnes 32)] ∧
      Does (.vqor f) s [qWrite f.d.toNat v2 (BitVec.allOnes 32)] ∧ Does (.vqxor f) s [qWrite f.d.toNat v3 (BitVec.allOnes 32)]) ∧
      ∀ i, i < 32 → v1.getLsbD i = (q.getLsbD i && (s.me.readQ f.b.toNat).getLsbD i) ∧
        v2.getLsbD i = (q.getLsbD i || (s.me.readQ f.b.toNat).getLsbD i) ∧
        v3.getLsbD i = (q.getLsbD i ^^ (s.me.readQ f.b.toNat).getLsbD i)) ∧
    (∃ v, Yields (.vqcnt f) s f [] 2 v mask 0 ∧
      ∀ i, i < 32 → elemOf 32 v i = ((List.range 32).filter (fun k => q.getLsbD k)).length) ∧
    (∃ v, Yields (.vqfirst f) s f [] 2 v mask 0 ∧ ∀ i, i < 32 →
      (q = 0 → elemOf 32 v i = 0xFFFFFFFF) ∧
      (q ≠ 0 → elemOf 32 v i < 32 ∧ q.getLsbD (elemOf 32 v i) = true ∧ ∀ k, k < elemOf 32 v i → q.getLsbD k = false))

/-- The bit forms on raw lanes and on elements (R125); compares into a lane mask, the logic of lane masks and their
counts (R126). None sets a flag. -/
def Obligations.VectorBitsAndMasks : Prop :=
  VectorBits ∧ VectorMasks

/-- The flags of a value m · 2^e rounded to an integer (R37): inexact when it changed, underflow too when a non-zero value
became 0. -/
def Sys2Proof.integerLoss (rnd : Nat) (n : Bool) (m : Nat) (e : Int) : BitVec 5 :=
  (if (roundGrid rnd n m e 0).2 = true then 0b01000 else 0) ||| (if m ≠ 0 ∧ (roundGrid rnd n m e 0).1 = 0 then 0b00100 else 0)
/-- R127, R36: one element converted between two formats of Table 2.3: floats round once in the mode, a float that becomes
an integer rounds to an integer and clamps, an integer wraps or clamps by SAT. That a clamp of an integral value out of
range is not inexact is the model's reading (log entry 14). -/
def Sys2Proof.converted (src dst rnd : Nat) (sat : Bool) (x : Nat) : Nat × BitVec 5 :=
  let w := fmtWidth dst
  let lo : Int := -(2 ^ (w - 1))
  let hi : Int := 2 ^ (w - 1) - 1
  match floatFormat src, floatFormat dst with
  | some S, some D => D.round rnd sat (S.decode x)
  | some S, none =>
    (match S.decode x with
    | .nan => (0, 0b00001)
    | .inf n => (((if n = true then lo else hi) % 2 ^ w).toNat, 0b00001)
    | .fin n m e =>
      let k : Int := (roundGrid rnd n m e 0).1
      let v := if n = true then -k else k
      ((max lo (min v hi) % 2 ^ w).toNat, (if v < lo ∨ hi < v then 0b00001 else 0) ||| integerLoss rnd n m e))
  | none, some D =>
    D.round rnd sat (.fin (decide (signedOf (fmtWidth src) x < 0)) (signedOf (fmtWidth src) x).natAbs 0)
  | none, none => intOut w sat (signedOf (fmtWidth src) x)
/-- Elements that a conversion of `n` elements writes from element `first` on, into lanes `lo` to `lo + len - 1`. -/
def Sys2Proof.Placed (w : Nat) (mask m : BitVec 32) (v : Line) (g : BitVec 5) (first n lo len : Nat) (op : Nat → Nat × BitVec 5) : Prop :=
  (∀ i, i < 32 → m.getLsbD i = (mask.getLsbD i && decide (lo ≤ i ∧ i < lo + len))) ∧
  (∀ j, j < n → elemOf w v (first + j) = (op j).1) ∧
  ∀ k, g.getLsbD k = true ↔ ∃ j, j < n ∧ m.getLsbD ((first + j) * w / 32) = true ∧ (op j).2.getLsbD k = true

/-- R127 to R129: VCVT between formats of one width, narrowing into part PART and widening from part PART; VSCL by the byte
of e[N]; VRND to integer values; VSRND with the random element of its line. The flags of a rounding to an integer are the
model's reading of R37 (log entry 14), those of an overflowing VSRND that of R129 (log entry 22). -/
def Sys2Proof.VectorConversions : Prop :=
  ∀ (s : State) (f : VSlot), GuardTrue s f.g →
    let mask := s.me.readQ f.m.toNat
    let rnd := f.rnd.toNat
    let sat := decide (f.sat = 1)
    let a := lineValue s f.a
    let w := fmtWidth f.fmt.toNat
    (let src := f.b.toNat % 8
     let part := f.b.toNat / 8 % 4
     let es := fmtWidth src
     let op := fun x => converted src f.fmt.toNat rnd sat x
     src < 7 → f.fmt.toNat < 7 →
     (w < es → part * w < es → ∃ v m g, Yields (.vcvt f) s f [f.a] 3 v m g ∧
       Placed w mask m v g (part * (1024 / es)) (1024 / es) (32 * part * w / es) (32 * w / es) (fun j => op (elemOf es a j))) ∧
     (es ≤ w → ∃ v g, Yields (.vcvt f) s f [f.a] 3 v mask g ∧
       Elements w mask v g (fun j => op (elemOf es a (part * (1024 / w) + j))))) ∧
    (∀ F, floatFormat f.fmt.toNat = some F →
      (∃ v g, Yields (.vscl f) s f [f.a] 3 v mask g ∧ Elements w mask v g (fun j =>
        let e := (s.me.readE (f.b.toNat % 16)).toNat / 2 ^ (8 * (j * w / 32)) % 256
        if e = 255 then (F.nanBits, 0) else F.round rnd false ((F.decode (elemOf w a j)).scale ((e : Int) - 127)))) ∧
      (∃ v g, Yields (.vrnd f) s f [f.a] 3 v mask g ∧ Elements w mask v g (fun j =>
        match F.decode (elemOf w a j) with
        | .nan => (F.nanBits, 0)
        | .inf n => (F.sign n + F.infBits, 0)
        | .fin n m e => ((F.round rnd false (.fin n (roundGrid rnd n m e 0).1 0)).1, integerLoss rnd n m e))) ∧
      (w < 32 → rnd * w < 32 → ∃ v m g, Yields (.vsrnd f) s f [f.a, f.b] 3 v m g ∧
        Placed w mask m v g (rnd * 32) 32 (rnd * w) w (fun j =>
          F.stochastic sat (elemOf 16 (lineValue s f.b) j) (fp32.decode (elemOf 32 a j)))))

/-- R130: VBSCL writes the scale byte of a block, VQPACK its 16 code bytes with the flags of the elements in the lanes it
writes (R119), and VQUNPK decodes a block, each element rounded to f32 (R39 to R42). That an expansion or a limit counts
for every element of a block is the model's reading (log entry 22). -/
def Sys2Proof.VectorBlocks : Prop :=
  ∀ (s : State) (f : VSlot), GuardTrue s f.g →
    let mask := s.me.readQ f.m.toNat
    let block := fun v : Line => (List.range 32).map (fun i => fp32.decode (elemOf 32 v i))
    (let n := f.b.toNat / 4 % 128
     let r := q4xScale (f.b.toNat % 4) (block (lineValue s f.a))
     ∃ v m g, Yields (.vbscl f) s f [f.d, f.a] 3 v m g ∧
       (∀ i, i < 32 → m.getLsbD i = (mask.getLsbD i && decide (i = n / 4))) ∧
       (∀ i, i < 128 → elemOf 8 v i = if i = n then r.1 % 256 else elemOf 8 (lineValue s f.d) i) ∧
       (g = if r.2 = true ∧ m ≠ 0 then 0b10000 else 0)) ∧
    (let j := f.b.toNat / 4 % 8
     let x := block (lineValue s f.a)
     let r := q4xEncode (f.b.toNat % 4) x
     ∃ v m g, Yields (.vqpack f) s f [f.a] 3 v m g ∧
       (∀ i, i < 32 → m.getLsbD i = (mask.getLsbD i && decide (i / 4 = j))) ∧
       elemOf 128 v j = r.1 % 2 ^ 128 ∧
       let written := fun k => k < 32 ∧ m.getLsbD (4 * j + k / 8) = true
       (g.getLsbD 0 = true ↔ ∃ k, written k ∧ (x.getD k .nan).isFinite = false) ∧ g.getLsbD 1 = false ∧ g.getLsbD 2 = false ∧
       (g.getLsbD 3 = true ↔ ∃ k, written k ∧ (x.getD k .nan).eq (q4xElem r.1 r.2.1 k) = false) ∧
       (g.getLsbD 4 = true ↔ (q4xScale (f.b.toNat % 4) x).2 = true ∧ ∃ k, written k)) ∧
    (let e := (s.me.readE (f.b.toNat % 16)).toNat / 2 ^ (8 * (f.b.toNat / 16 % 32)) % 256
     let codes := elemOf 128 (lineValue s f.a) (f.b.toNat / 512 % 8)
     ∃ v g, Yields (.vqunpk f) s f [f.a] 3 v mask g ∧
       Elements 32 mask v g (fun k => fp32.round 0 false (q4xDecode e (codes / 16 ^ k % 16)
         (codes / 16 ^ (if k % 2 = 0 then k + 1 else k - 1) % 16))))

/-- VCVT, VSCL, VRND and VSRND (R127 to R129); VBSCL, VQPACK and VQUNPK of blocks (R130, R39 to R42). The flags of a
float outside the integer range and of VSRND (log entry 14), and those of a VQPACK's block (log entry 22), are the
model's readings. -/
def Obligations.VectorConversionsAndBlocks : Prop :=
  VectorConversions ∧ VectorBlocks

/-- R44, R131: the pairwise tree of a float sum; a node without one child passes the other on. -/
def Sys2Proof.sumTree (rnd : Nat) (leaf : Nat → Option (Nat × BitVec 5)) : Nat → Nat → Option (Nat × BitVec 5)
  | 0, i => leaf i
  | l + 1, i =>
    match sumTree rnd leaf l (2 * i), sumTree rnd leaf l (2 * i + 1) with
    | none, y => y
    | some x, none => some x
    | some x, some y =>
      let z := (fp32.decode x.1).add rnd (fp32.decode y.1)
      let r := fp32.round rnd false z.1
      some (r.1, x.2 ||| y.2 ||| (z.2 ||| r.2))

/-- R131: the reductions write one value to every lane: the exact s32 sum, wrapped or clamped; the tree of float sums, a
NaN giving the default NaN; the largest and the smallest of the lanes that take part. -/
def Obligations.VectorReductions : Prop :=
  ∀ (s : State) (f : VSlot), GuardTrue s f.g →
    let mask := s.me.readQ f.m.toNat
    let x := fun i => elemOf 32 (lineValue s f.a) i
    let takes := (List.range 32).filter (fun i => mask.getLsbD i)
    let gives := fun (i : Instr) (r : Nat) (g : BitVec 5) =>
      ∃ v, Yields i s f [f.a] 5 v (BitVec.allOnes 32) g ∧ ∀ i, i < 32 → elemOf 32 v i = r
    (f.fmt ≠ 0 → gives (.vrsum f) (intOut 32 (decide (f.sat = 1)) (takes.map (fun i => signedOf 32 (x i))).sum).1
      (intOut 32 (decide (f.sat = 1)) (takes.map (fun i => signedOf 32 (x i))).sum).2) ∧
    (f.fmt = 0 →
      let root := (sumTree f.rnd.toNat (fun i => if mask.getLsbD i = true then some (x i, 0) else none) 5 0).getD (0, 0)
      gives (.vrsum f) (if (∃ i ∈ takes, (fp32.decode (x i)).isNan = true) ∨ (fp32.decode root.1).isNan = true then fp32.nanBits
        else root.1) root.2) ∧
    (f.fmt = 4 →
      (∃ r, gives (.vrmax f) r 0 ∧ (takes = [] → r = 0x80000000) ∧
        (takes ≠ [] → (∃ i ∈ takes, r = x i) ∧ ∀ i ∈ takes, signedOf 32 (x i) ≤ signedOf 32 r)) ∧
      (∃ r, gives (.vrmin f) r 0 ∧ (takes = [] → r = 0x7FFFFFFF) ∧
        (takes ≠ [] → (∃ i ∈ takes, r = x i) ∧ ∀ i ∈ takes, signedOf 32 r ≤ signedOf 32 (x i)))) ∧
    (f.fmt = 0 →
      (∃ r, gives (.vrmax f) r 0 ∧ (takes = [] → r = 0xFF800000) ∧
        ((∃ i ∈ takes, (fp32.decode (x i)).isNan = true) → r = fp32.nanBits) ∧
        (takes ≠ [] → (∀ i ∈ takes, (fp32.decode (x i)).isNan = false) →
          (∃ i ∈ takes, r = x i) ∧ ∀ i ∈ takes, (fp32.decode r).lt (fp32.decode (x i)) = false)) ∧
      (∃ r, gives (.vrmin f) r 0 ∧ (takes = [] → r = 0x7F800000) ∧
        ((∃ i ∈ takes, (fp32.decode (x i)).isNan = true) → r = fp32.nanBits) ∧
        (takes ≠ [] → (∀ i ∈ takes, (fp32.decode (x i)).isNan = false) →
          (∃ i ∈ takes, r = x i) ∧ ∀ i ∈ takes, (fp32.decode (x i)).lt (fp32.decode r) = false)))

/-- R132: the lane moves. -/
def Obligations.VectorLaneMoves : Prop :=
  ∀ (s : State) (f : VSlot), GuardTrue s f.g →
    let mask := s.me.readQ f.m.toNat
    let a := lineValue s f.a
    let n := f.b.toNat
    let gives := fun (i : Instr) (srcs : List (BitVec 14)) (lane : Nat → Lane) =>
      ∃ v, Yields i s f srcs 2 v mask 0 ∧ ∀ k, k < 32 → laneOf v k = lane k
    gives (.vrot f) [f.a] (fun i => laneOf a ((i + n) % 32)) ∧
    gives (.vperm f) [f.a, f.b] (fun i => laneOf a ((laneOf (lineValue s f.b) i).toNat % 32)) ∧
    gives (.vbcast f) [f.a] (fun _ => laneOf a n) ∧
    gives (.vext f) [f.a] (fun i => if i = 0 then laneOf a n else 0) ∧
    gives (.vidx f) [] (fun i => BitVec.ofNat 32 (n + i)) ∧
    (n < 32 → ∃ v m, Yields (.vins f) s f [f.a] 2 v m 0 ∧ (∀ k, k < 32 → m.getLsbD k = (mask.getLsbD k && decide (k = n))) ∧
      laneOf v n = laneOf a 0)

/-- R133: the special functions of f32 elements and of bf16 elements, widened exactly and rounded once, with latency 8; what
they give for NaN, the infinities, zeros and values outside their ranges. R134: VCHK detects unequal enabled lanes. That a
bf16 form ORs the flags of both roundings is the model's reading (log entry 15). -/
def Obligations.VectorSpecialFunctions : Prop :=
  (∀ (s : State) (f : VSlot), GuardTrue s f.g →
    let mask := s.me.readQ f.m.toNat
    let a := lineValue s f.a
    (∀ p ∈ [(Instr.vexp2 f, vexp2), (Instr.vlog2 f, vlog2), (Instr.vrcp f, vrcp32), (Instr.vrsq f, vrsq32)],
      (f.fmt = 0 → ∃ v g, Yields p.1 s f [f.a] 8 v mask g ∧
        Elements 32 mask v g (fun j => p.2 (elemOf 32 a j))) ∧
      (f.fmt = 1 → ∃ v g, Yields p.1 s f [f.a] 8 v mask g ∧ Elements 16 mask v g (fun j =>
        let y := p.2 (elemOf 16 a j * 2 ^ 16)
        let z := bf16.round 0 false (fp32.decode y.1)
        (z.1, y.2 ||| z.2)))) ∧
    Does (.vchk f) s (lineChecks s f.a ++ lineChecks s f.b ++
      (if ∀ i ∈ List.range 32, mask.getLsbD i = true → laneOf a i = laneOf (lineValue s f.b) i then [] else [.mismatch true]))) ∧
  ∀ (x : Nat) (n : Bool) (m : Nat) (e : Int),
    (fp32.decode x = .nan → ∀ fn ∈ [vexp2, vlog2, vrcp32, vrsq32], fn x = (0x7FC00000, 0)) ∧
    (fp32.decode x = .inf n → vexp2 x = (if n = true then 0 else 0x7F800000, 0) ∧ vrcp32 x = (if n = true then 0x80000000 else 0, 0) ∧
      vlog2 x = (if n = true then (0x7FC00000, 0b00001) else (0x7F800000, 0)) ∧
      vrsq32 x = (if n = true then (0x7FC00000, 0b00001) else (0, 0))) ∧
    (fp32.decode x = .fin n 0 e → vlog2 x = (0xFF800000, 0) ∧ vrcp32 x = (if n = true then 0xFF800000 else 0x7F800000, 0) ∧
      vrsq32 x = (if n = true then 0xFF800000 else 0x7F800000, 0)) ∧
    (fp32.decode x = .fin true m e → m ≠ 0 → vlog2 x = (0x7FC00000, 0b00001) ∧ vrsq32 x = (0x7FC00000, 0b00001)) ∧
    (fp32.decode x = .fin n m e → 128 ≤ ratOf n m e → vexp2 x = (0x7F800000, 0b01010)) ∧
    (fp32.decode x = .fin n m e → ratOf n m e < -150 → vexp2 x = (0, 0b01100))

/-- A port that is lent to no engine command, as the issue stage of a cycle sees it (R101, R160). -/
def Sys2Proof.AtHome (p : Port) (cyc : Nat) : Prop := p.lent = none ∧ p.freeFrom ≤ cyc
/-- R66, R75, R76, R118, R119, R143: the value of each form of operand; the waits and refusals that it brings; where a
result of each form goes. That a push beyond the last line of a write port waits (log entry 63), and what a port that has
met a fault, or finds its line unwritable, gives (log entry 32), are the model's choices. -/
def Obligations.VectorOperands : Prop :=
  ∀ (s : State) (v : BitVec 14),
    (∀ t n : Nat, t < 96 → n < 32 →
      (v.toNat = 32 * t + n → operandOf v = .row t n ∧ lineValue s v = s.here.tileRow (s.me.tileBase + t) n) ∧
      (v.toNat = 2 ^ 12 + 32 * t + n → operandOf v = .col t n ∧
        ∀ i, i < 32 → laneOf (lineValue s v) i = laneOf (s.here.tileRow (s.me.tileBase + t) i) n) ∧
      (v.toNat = 2 ^ 13 + 32 * t + n → operandOf v = .diag t n ∧
        ∀ i, i < 32 → laneOf (lineValue s v) i = laneOf (s.here.tileRow (s.me.tileBase + t) i) ((i + n) % 32))) ∧
    (∀ t, (operandOf v).tile? = some t →
      (s.me.tileCount ≤ t → ∃ es, lineChecks s v = .trap .tile (BitVec.ofNat 64 t) :: es) ∧
      (t < s.me.tileCount → s.here.tileHeld (s.me.tileBase + t) s.cyc = true →
        ∃ es es', lineChecks s v = es ++ .wait 3 none :: es' ∧ ∀ e ∈ es, e = .implicit) ∧
      ∀ lat x mask g, lineResult s v lat x mask g = tileChecks s v ++
        [.land { dest := .tile v, val := x, mask := mask, rem := lat, flg := g, mark := .clean, addr := 0 }]) ∧
    (v.toNat = 0x3000 → lineChecks s v = [] ∧ lineValue s v = 0 ∧ ∀ lat x mask g, lineResult s v lat x mask g =
      [.land { dest := .flags, val := 0, mask := 0, rem := lat, flg := g, mark := .clean, addr := 0 }]) ∧
    (v.toNat = 0x3001 → lineChecks s v = [] ∧ lineValue s v = s.cur.bc) ∧
    (∀ n h, n < 6 → v.toNat = 0x3010 + n →
      ((s.here.port n).holder = none → lineChecks s v = [.trap .ill (BitVec.ofNat 64 (0x3010 + n))]) ∧
      (let p := s.here.port n
       p.holder = some h → h = s.cur.ctx ∨ s.cur.ctx = 4 → AtHome p s.cyc →
        (∀ l ls, p.fifo = l :: ls → s.here.bad (locPort n) = false → lineChecks s v = [.pop n] ∧ lineValue s v = l.val) ∧
        (p.fifo = [] → p.fault = none ∨ p.coming ≠ [] → ∃ w, lineChecks s v = [.wait 4 (some w)]) ∧
        (∀ c a, p.fifo = [] → p.coming = [] → p.fault = some (c, a) → lineChecks s v = [.trap c (BitVec.ofNat 64 a)]))) ∧
    (∀ n h lat x mask g, n < 4 → v.toNat = 0x3020 + n →
      ((s.here.port (6 + n)).holder = none → ∃ es, lineResult s v lat x mask g = .trap .ill (BitVec.ofNat 64 (0x3020 + n)) :: es) ∧
      (let p := s.here.port (6 + n)
       let i := p.pos + p.reserved
       p.holder = some h → h = s.cur.ctx ∨ s.cur.ctx = 4 → AtHome p s.cyc → p.fault = none →
       (∀ cause, i < Descr.product p.cfg → p.fifo.length + p.reserved < 16 →
         s.here.portAccess 3 n p.holder (Descr.flatAt p.cfg i) = .faults cause →
         ∃ es, lineResult s v lat x mask g = .trap cause (BitVec.ofInt 64 (Descr.flatAt p.cfg i)) ::
           .portFault (6 + n) cause (Descr.flatAt p.cfg i) :: es) ∧
       (i < Descr.product p.cfg → p.fifo.length + p.reserved < 16 →
         s.here.portAccess 3 n p.holder (Descr.flatAt p.cfg i) = .ready →
         ∃ y : Line, (∀ k, k < 32 → laneOf y k = if mask.getLsbD k = true then laneOf x k else 0) ∧
           lineResult s v lat x mask g = [.reserve n,
             .land { dest := .push n, val := y, mask := BitVec.allOnes 32, rem := lat, flg := g, mark := .clean, addr := 0 }]) ∧
       (Descr.product p.cfg ≤ i ∨ 16 ≤ p.fifo.length + p.reserved →
         ∃ w es, lineResult s v lat x mask g = .wait 4 (some w) :: es)))

/-! ## Scratchpad instructions (R135 to R148) -/

/-- The flat line that an L slot names by immediate, and with its register (R47, R135). -/
def Sys2Proof.immLine (f : LSlot) : Nat := f.bank.toNat * 8192 + f.line.toNat
def Sys2Proof.regLine (s : State) (f : LSlot) : Int := (immLine f : Int) + (s.me.readC f.c.toNat).toInt
/-- A bank that the context's L slots own and that is free and outside refresh for an access of `w` cycles (R48, R51, R60). -/
def Sys2Proof.BankReady (s : State) (flat w : Nat) : Prop :=
  s.here.owns s.cur.ctx (flat / 8192) = true ∧ (s.here.bank (flat / 8192)).busyUntil ≤ s.cyc ∧
  s.here.refreshEnd (flat / 8192) s.cyc w = none
/-- Table 3.2: the cycles that an access to a line keeps its bank busy. -/
def Sys2Proof.busyFor (flat : Nat) : Nat := if flat % 8192 < 0x400 then 4 else 12
/-- A line that an L slot may access now: inside the scratchpad, in a ready bank, not the slow copy of a promoted row. -/
def Sys2Proof.LineReady (s : State) (flat : Nat) : Prop :=
  flat < 0x300000 ∧ BankReady s flat (busyFor flat) ∧ (s.here.bank (flat / 8192)).shadowed flat = false
/-- A tile line that exists, is held by no engine or load, and has no bad parity (R75, R140, R164). -/
def Sys2Proof.TileReady (s : State) (v : BitVec 14) : Prop :=
  ∃ t, (operandOf v).tile? = some t ∧ t < s.me.tileCount ∧ s.here.tileHeld (s.me.tileBase + t) s.cyc = false ∧
    s.me.lineHeld (operandOf v) s.cyc = false ∧
    s.here.hurtRows s.me.tileBase (operandOf v) = []
/-- A pending load of a line: its latency is that of the line's class (Table 3.2), or another that the form has. -/
def Sys2Proof.loads (s : State) (flat : Nat) (d : Dest) (lat : Nat) (v : Line) : Effect :=
  .land { dest := d, val := v, mask := BitVec.allOnes 32, rem := lat, flg := 0,
          mark := if s.readMark s.cur.core flat = .group then .clean else s.readMark s.cur.core flat, addr := flat }

/-- R135, R136: LD and LDX load the line into a tile line, ST and STX store a tile line, LDS, STS and ELD move a word or
a scale half; the latency is 6 in the fast segment and 18 outside. -/
def Sys2Proof.ScratchpadTransfers : Prop :=
  ∀ (s : State) (f : LSlot) (a : Nat), GuardTrue s f.g → LineReady s a →
    let lat := if a % 8192 < 0x400 then 6 else 18
    let line := BitVec.ofNat 1024 (s.mem.load (spAddr s.cur.core a) 128)
    let w := f.flags.toNat
    (TileReady s f.opnd →
      (immLine f = a → Does (.ld f) s [.access a false (busyFor a), loads s a (.tile f.opnd) lat line] ∧
        Does (.st f) s [.access a true (busyFor a), .storeLine a (lineValue s f.opnd)]) ∧
      (regLine s f = a → Does (.ldx f) s [.access a false (busyFor a), loads s a (.tile f.opnd) lat line] ∧
        Does (.stx f) s [.access a true (busyFor a), .storeLine a (lineValue s f.opnd)])) ∧
    (immLine f = a →
      (w < 16 → ∃ v : Line, Does (.lds f) s [.access a false (busyFor a), loads s a (.creg f.c.toNat) lat v] ∧
        v.toNat = s.mem.load (spAddr s.cur.core a) 128 / 2 ^ (64 * w) % 2 ^ 64) ∧
      ((∀ cw, s.readMark s.cur.core a ≠ .uncorrectable cw) →
        Does (.sts f) s [.access a true (busyFor a), .storeWord a w (s.me.readC f.c.toNat)]) ∧
      (w < 4 → ∃ v : Line, Does (.eld f) s [.access a false (busyFor a), loads s a (.ereg f.opnd.toNat) lat v] ∧
        v.toNat = s.mem.load (spAddr s.cur.core a) 128 / 2 ^ (256 * w) % 2 ^ 256))

/-- R47, R51, R58, R83, R61, R135: what stops or delays an access of an L slot: an address outside the scratchpad, a bank of
another owner, a line whose row is promoted, a bank that is busy, a refresh window. -/
def Sys2Proof.ScratchpadRefusals : Prop :=
  ∀ (s : State) (f : LSlot), GuardTrue s f.g →
    let holds := fun (i : Instr) (e : Effect) => ∃ es es', Does i s (es ++ e :: es')
    (0x300000 ≤ immLine f → ∀ i ∈ [Instr.ld f, .st f, .lds f, .sts f, .eld f, .prom f, .demo f, .tlk f, .tpin f, .dset f, .bown f,
        .bqry f], holds i (.trap .brange (BitVec.ofNat 64 (immLine f)))) ∧
    (regLine s f < 0 ∨ 0x300000 ≤ regLine s f → ∀ i ∈ [Instr.ldx f, .stx f],
      holds i (.trap .brange (BitVec.ofInt 64 (regLine s f)))) ∧
    (∀ a : Nat, a < 0x300000 →
      ∀ i ∈ ([Instr.ld f, .st f, .lds f, .sts f, .eld f].filter (fun _ => decide (immLine f = a))) ++
          ([Instr.ldx f, .stx f].filter (fun _ => decide (regLine s f = a))),
        (s.here.owns s.cur.ctx (a / 8192) = false → holds i (.trap .bown (BitVec.ofNat 64 a))) ∧
        ((s.here.bank (a / 8192)).shadowed a = true → holds i (.trap .shad (BitVec.ofNat 64 a))) ∧
        (s.cyc < (s.here.bank (a / 8192)).busyUntil → holds i (.trap .bank (BitVec.ofNat 64 a))) ∧
        ((s.here.refreshEnd (a / 8192) s.cyc (busyFor a)).isSome = true → holds i (.wait 6 none)))

/-- LD, LDX, ST, STX, LDS, STS and ELD transfer a line, a word or a scale half, with latency 6 or 18 (R135, R136);
what stops or delays an access: BRANGE, BOWN, SHAD, a busy bank, a refresh window (R47, R51, R58, R61). -/
def Obligations.Scratchpad : Prop :=
  ScratchpadTransfers ∧ ScratchpadRefusals

/-- R54 to R56, R138: PROM promotes a slow row into the slot it names or into the one AUTO chooses, and hits when the row is
promoted already; DEMO, TLK and TPIN. -/
def Sys2Proof.Promotion : Prop :=
  ∀ (s : State) (f : LSlot), GuardTrue s f.g → immLine f < 0x300000 →
    let b := f.bank.toNat
    let k := s.here.bank b
    let srow := f.line.toNat % 2 ^ 10
    let slot := f.opnd.toNat % 2 ^ 7
    let dirty := fun n => (k.tag n).valid = true ∧ (k.tag n).dirty = true
    (∀ n, k.findSlot srow = some n → 128 ≤ srow →
      (BankReady s (immLine f) 4 → Does (.prom f) s [.occupy b 4, .promHit b]) ∧
      (s.here.owns s.cur.ctx b = true → s.here.refreshEnd b s.cyc 1 = none →
        Does (.tlk f) s [cWrite f.c.toNat 2 (BitVec.ofNat 64 n)])) ∧
    (k.findSlot srow = none ∨ srow < 128 → s.here.owns s.cur.ctx b = true → s.here.refreshEnd b s.cyc 1 = none →
      Does (.tlk f) s [cWrite f.c.toNat 2 (BitVec.allOnes 64)]) ∧
    (k.findSlot srow = none → 128 ≤ srow → f.opnd.getLsbD 7 = false → s.me.pwin ≤ slot →
      let w := if dirty slot then 80 else 40
      BankReady s (immLine f) w → Does (.prom f) s [.occupy b w, .prom b slot srow none]) ∧
    (k.findSlot srow = none → 128 ≤ srow → f.opnd.getLsbD 7 = true → ∀ v, autoVictim k s.me.pwin = some v →
      let w := if dirty v then 80 else 40
      BankReady s (immLine f) w →
        Does (.prom f) s [.occupy b w, .prom b v srow (some (if v = 127 then s.me.pwin else v + 1))]) ∧
    (s.here.owns s.cur.ctx b = true →
      srow < 128 ∨ (k.findSlot srow = none ∧ (f.opnd.getLsbD 7 = true → autoVictim k s.me.pwin = none) ∧
        (f.opnd.getLsbD 7 = false → slot < s.me.pwin)) →
      Does (.prom f) s [.trap .shad (BitVec.ofNat 64 (immLine f))]) ∧
    (let w := if dirty slot then 40 else 4
     BankReady s (immLine f) w → Does (.demo f) s [.occupy b w, .demo b slot]) ∧
    (s.here.owns s.cur.ctx b = true → s.here.refreshEnd b s.cyc 1 = none →
      Does (.tpin f) s [.tpin b slot (f.flags.getLsbD 0)])

/-- R55: the slot that AUTO chooses lies at or above PWIN, is not pinned, and is the first such from max(NV, PWIN) on,
wrapping from 127 to PWIN; there is none when every slot from PWIN on is pinned. -/
def Sys2Proof.AutoPromotionSlot : Prop :=
  ∀ (b : Bank) (pwin : Nat), pwin ≤ 128 → b.nv ≤ 127 →
    (autoVictim b pwin = none ↔ ∀ v, pwin ≤ v → v < 128 → (b.tag v).pin = true) ∧
    ∀ v, autoVictim b pwin = some v → pwin ≤ v ∧ v < 128 ∧ (b.tag v).pin = false ∧
      (max b.nv pwin ≤ v → ∀ u, max b.nv pwin ≤ u → u < v → (b.tag u).pin = true) ∧
      (v < max b.nv pwin → (∀ u, max b.nv pwin ≤ u → u < 128 → (b.tag u).pin = true) ∧
        ∀ u, pwin ≤ u → u < v → (b.tag u).pin = true)

/-- PROM, DEMO, TLK and TPIN on the tag table of a bank, and the slot that AUTO chooses (R54 to R56, R138). -/
def Obligations.PromotionForms : Prop :=
  Promotion ∧ AutoPromotionSlot

/-- R67, R68, R142 to R146: DSET, DSETF and DGET of descriptor registers; PCFG, PSTOP and PSTAT of ports. -/
def Obligations.DescriptorsAndPorts : Prop :=
  ∀ (s : State) (f : LSlot), GuardTrue s f.g →
    let w := f.flags.toNat
    (immLine f < 0x300000 → BankReady s (immLine f) 4 → w < 2 → ∃ v : Line,
      Does (.dset f) s [.occupy f.bank.toNat 4, .fires (immLine f), loads s (immLine f) (.dreg f.opnd.toNat) 3 v] ∧
      ∀ i, i < 512 → v.getLsbD i = ((s.mem.load (spAddr s.cur.core (immLine f)) 128).testBit (512 * w + i) &&
        !decide (192 ≤ i ∧ 48 ≤ i % 64))) ∧
    (w < 8 → ∃ v : Line,
      Does (.dsetf f) s
        [.land { dest := .dword f.opnd.toNat w, val := v, mask := BitVec.allOnes 32, rem := 3, flg := 0, mark := .clean,
                 addr := 0 }] ∧
      ∀ i, i < 64 → v.getLsbD i = ((s.me.readC f.c.toNat).getLsbD i && !decide (3 ≤ w ∧ 48 ≤ i))) ∧
    (w < 8 → Does (.dget f) s [cWrite f.c.toNat 2
      (BitVec.ofNat 64 ((s.me.readD f.opnd.toNat).toNat / 2 ^ (64 * w) % 2 ^ 64))]) ∧
    (∀ n, (n < 6 ∧ f.opnd.toNat = 0x3010 + n) ∨ (6 ≤ n ∧ n < 10 ∧ f.opnd.toNat = 0x3020 + (n - 6)) →
      let p := s.here.port n
      let d := s.me.readD (w % 16)
      (p.holder = none ∨ p.holder = some s.cur.ctx ∨ s.cur.ctx = 4) → AtHome p s.cyc →
      (6 ≤ n → p.fifo = [] ∧ p.performed ≤ s.cyc ∧ ∀ x, x < 5 → ∀ e ∈ (s.here.ctx x).pwq, e.dest ≠ .push (n - 6)) →
      Does (.pstop f) s [.pstop n] ∧
      (Descr.glb d = false → (Descr.exp d = true → Descr.fmt d = 7 ∧ Descr.scl d = true) →
        (Descr.kend d = 0 ∨ (s.me.token (Descr.kend d)).pend = false ∧ (s.me.token (Descr.kend d)).since ≤ s.cyc) →
        Does (.pcfg f) s [.pcfg n d])) ∧
    (∀ n h, (n < 6 ∧ f.opnd.toNat = 0x3010 + n) ∨ (6 ≤ n ∧ n < 10 ∧ f.opnd.toNat = 0x3020 + (n - 6)) →
      ((s.here.port n).holder = some h → h ≠ s.cur.ctx → s.cur.ctx ≠ 4 →
        ∀ i ∈ [Instr.pcfg f, .pstop f], ∃ es, Does i s (.trap .ill (BitVec.ofNat 64 f.opnd.toNat) :: es)) ∧
      (let p := s.here.port n
       let other := ∃ h, p.holder = some h ∧ (s.here.ctx h).launch ≠ s.me.launch
       ∃ v : Word, Does (.pstat f) s [cWrite f.c.toNat 2 v] ∧ (other → v = 0) ∧
         (¬ other → p.holder = none ∨ (∃ x, p.holder = some x ∧ x < 5) →
           v.toNat % 32 = min p.fifo.length 16 ∧
           v.getLsbD 5 = (p.running && !p.done && p.fault.isNone) ∧ v.getLsbD 6 = p.done ∧ v.getLsbD 7 = p.fault.isSome ∧
           v.getLsbD 8 = p.holder.isSome ∧ v.toNat / 2 ^ 24 % 2 ^ 32 = min p.moved (2 ^ 32 - 1) ∧
           v.toNat / 2 ^ 56 = p.holder.getD 0)))

/-- R51, R147, R148: BOWN gives a bank that the context may give to an owner it may give it to, and BQRY reads the owner of
a bank of the launch; anything else raises BOWN with the first line of the bank. -/
def Obligations.Ownership : Prop :=
  ∀ (s : State) (f : LSlot), GuardTrue s f.g → immLine f < 0x300000 →
    let b := f.bank.toNat
    let k := s.here.bank b
    let v : BitVec 16 := (s.me.readC f.c.toNat).setWidth 16 &&& 0xFF00
    let kind := v.toNat / 4096
    let index := v.toNat / 256 % 16
    let names := (kind = 0 ∧ index = 0) ∨ (kind = 1 ∧ index ≤ 4) ∨ (kind = 2 ∧ index ≤ 5) ∨ (kind = 3 ∧ index ≤ 3) ∨
      (4 ≤ kind ∧ kind ≤ 7 ∧ index = 0)
    let launchOfPort := fun n => ∃ h, (s.here.port n).holder = some h ∧ (s.here.ctx h).launch = s.me.launch
    let user := k.launch = s.me.launch ∧ (k.owner = BitVec.ofNat 16 (0x1000 + 0x100 * s.cur.ctx) ∨
        (2 ≤ k.owner.toNat / 4096 ∧ k.grantor = some s.cur.ctx)) ∧
      ((kind = 1 ∧ index < 4 ∧ (s.here.ctx index).launch = s.me.launch ∧ (s.here.ctx index).status ≠ .free) ∨
       (kind = 2 ∧ launchOfPort index) ∨ (kind = 3 ∧ launchOfPort (6 + index)) ∨ 4 ≤ kind)
    let sup := ¬ (snapBank s.here.snap ≤ b ∧ b < snapBank s.here.snap + 4 ∧ kind ≠ 0)
    let ok := names ∧ (if s.cur.ctx = 4 then sup else user)
    (ok → Does (.bown f) s [.owner b v]) ∧
    (¬ ok → Does (.bown f) s [.trap .bown (BitVec.ofNat 64 (b * 8192)), .owner b v]) ∧
    (k.allocatedTo s.me s.cur.ctx = true → Does (.bqry f) s [cWrite f.c.toNat 2 (k.owner.setWidth 64)]) ∧
    (k.allocatedTo s.me s.cur.ctx = false →
      Does (.bqry f) s [.trap .bown (BitVec.ofNat 64 (b * 8192)), cWrite f.c.toNat 2 (k.owner.setWidth 64)])

/-! ## Global loads and stores (R77, R139 to R141) -/

/-- R77, R139 to R141: the address is c[C] plus the signed offset times the size, with its low bits 0; when its
translation is cached with the permission, GLD and GLDS send a load and GST and GSTS hold a store back; an address in
an aperture, or a leaf without the permission, raises XLAT, and one that is not cached starts a walk and waits. A load
whose destination awaits a pending result raises ILL, and one that finds the outbound queue full waits (R107, R140). A form
waits for its tile line while an engine or a load holds it, and its bundle for its register while a load holds that. -/
def Obligations.GlobalTransfers : Prop :=
  ∀ (s : State) (f : LSlot), GuardTrue s f.g →
    let off : Nat := f.flags.toNat * 2 ^ 22 + f.bank.toNat * 2 ^ 13 + f.line.toNat
    let soff : Int := if off < 2 ^ 27 then off else (off : Int) - 2 ^ 28
    let va := fun size : Nat => ((((s.me.readC f.c.toNat).toNat : Int) + size * soff) % 2 ^ 64).toNat / size * size
    let r := f.opnd.toNat % 64
    let hit := fun size read write pa =>
      apertureOf (va size) = none ∧ s.xlate (s.cur.core / 4) (va size) size read write false = .hit pa
    let room := classedCount s.me.out < 32
    let xlat := fun size => Effect.trap .xlat (BitVec.ofNat 64 (va size))
    (∀ pa, hit 128 true false pa → room → TileReady s f.opnd → pendingTile s f.opnd = false →
      Does (.gld f) s [.load f.oc.toNat (.loadTile f.opnd) (va 128) pa]) ∧
    (∀ pa, hit 8 true false pa → room → (∀ e ∈ s.me.pwq, e.dest ≠ .creg r) →
      Does (.glds f) s [.load f.oc.toNat (.loadReg r) (va 8) pa]) ∧
    (∀ pa, hit 128 false true pa → TileReady s f.opnd →
      Does (.gst f) s [.held f.oc.toNat (.storeLine (lineValue s f.opnd)) (va 128) pa]) ∧
    (∀ pa, hit 8 false true pa → Does (.gsts f) s [.held f.oc.toNat (.storeWord (s.me.readC r)) (va 8) pa]) ∧
    let faults := fun size read write => (apertureOf (va size)).isSome = true ∨
      s.xlate (s.cur.core / 4) (va size) size read write false = .fault ∨
      (s.xlate (s.cur.core / 4) (va size) size read write false = .miss ∧ s.me.walkFault = some (va size))
    let misses := fun size read write => apertureOf (va size) = none ∧
      s.xlate (s.cur.core / 4) (va size) size read write false = .miss ∧ s.me.walkFault ≠ some (va size)
    let walks := fun size read write => [Effect.walk (va size) read write, .wait 12 none]
    let pending := s.me.pwq.any (fun e => decide (e.dest = .creg r)) = true
    (room → TileReady s f.opnd → pendingTile s f.opnd = false →
      (faults 128 true false → Does (.gld f) s [xlat 128]) ∧ (misses 128 true false → Does (.gld f) s (walks 128 true false))) ∧
    (room → ¬ pending →
      (faults 8 true false → Does (.glds f) s [xlat 8]) ∧ (misses 8 true false → Does (.glds f) s (walks 8 true false))) ∧
    (TileReady s f.opnd →
      (faults 128 false true → Does (.gst f) s [xlat 128]) ∧ (misses 128 false true → Does (.gst f) s (walks 128 false true))) ∧
    (faults 8 false true → Does (.gsts f) s [xlat 8]) ∧ (misses 8 false true → Does (.gsts f) s (walks 8 false true)) ∧
    (TileReady s f.opnd → pendingTile s f.opnd = true → ∃ es, Does (.gld f) s (.trap .ill 0 :: es)) ∧
    (pending → ∃ es, Does (.glds f) s (.trap .ill 0 :: es)) ∧
    (¬ room → ∀ i ∈ [Instr.gld f, .glds f], ∃ es es', Does i s (es ++ .wait 5 none :: es')) ∧
    (∀ t, (operandOf f.opnd).tile? = some t →
      s.here.tileHeld (s.me.tileBase + t) s.cyc = true ∨ s.me.lineHeld (operandOf f.opnd) s.cyc = true →
      ∀ i ∈ [Instr.gld f, .gst f], ∃ es es', Does i s (es ++ .wait 3 none :: es')) ∧
    ∀ d : Nat × Instr, d.2 = .glds f ∨ d.2 = .gsts f → s.me.regHeld r s.cyc = true →
      (slotOf d.1, Effect.wait 11 none) ∈ regChecks s d

/-! ## Transport moves and the tangent unit (R79, R80, R169 to R179) -/

/-- R79, R80: scalar moves between c registers, `CRC.VAL`, `bc` and the scalar operand ports, with XTRG moving zero; line
moves between tile rows, result ports, `bc` and the line operand ports; a register or row is written with latency 1. -/
def Sys2Proof.TransportMoves : Prop :=
  ∀ (s : State) (f : Move), GuardTrue s f.g →
    let src := f.src.toNat
    let dst := f.dst.toNat
    (∀ v : Word, (src = 0 ∧ v = 0) ∨ (0x100 ≤ src ∧ src < 0x140 ∧ v = s.me.readC (src - 0x100)) ∨
        (src = 0x078 ∧ v = (dueResult s.me.issued s.me.crcVal).setWidth 64) →
      (dst = 0x001 → ∃ l, Does (.xmov f) s [.bc l] ∧ ∀ i, i < 32 → laneOf l i = v.setWidth 32) ∧
      (dst = 0x040 → Does (.xmov f) s [.operand 0 (v.setWidth 1024)]) ∧
      (dst = 0x041 → Does (.xmov f) s [.operand 1 (v.setWidth 1024)]) ∧
      (0x100 ≤ dst → dst < 0x140 → Does (.xmov f) s [cWrite (dst - 0x100) 1 v])) ∧
    ((dst = 0x001 → Does (.xtrg f) s [.bc 0]) ∧ (dst = 0x040 → Does (.xtrg f) s [.operand 0 0]) ∧
      (dst = 0x041 → Does (.xtrg f) s [.operand 1 0]) ∧
      (0x100 ≤ dst → dst < 0x140 → Does (.xtrg f) s [cWrite (dst - 0x100) 1 0])) ∧
    (∀ v : Line, (src = 0 ∧ v = 0) ∨
        (∃ p ∈ [(0x050, s.me.tanA), (0x051, s.me.tanB), (0x052, s.me.tanLo), (0x053, s.me.tanHi), (0x054, s.me.tanY),
            (0x068, s.me.rngOut)], src = p.1 ∧ v = dueResult s.me.issued p.2) ∨
        (0x400 ≤ src ∧ src < 0x1000 ∧ TileReady s (BitVec.ofNat 14 (src - 0x400)) ∧
          v = s.here.tileRow (s.me.tileBase + (src - 0x400) / 32) (src % 32)) →
      (dst = 0x001 → Does (.xmovl f) s [.bc v]) ∧ (dst = 0x042 → Does (.xmovl f) s [.operand 2 v]) ∧
      (dst = 0x043 → Does (.xmovl f) s [.operand 3 v]) ∧
      (0x400 ≤ dst → TileReady s (BitVec.ofNat 14 (dst - 0x400)) → Does (.xmovl f) s
        [.land { dest := .tile (BitVec.ofNat 14 (dst - 0x400)), val := v, mask := BitVec.allOnes 32, rem := 1, flg := 0,
                 mark := .clean, addr := 0 }]))

/-- The curve table that `TAN.TB` names is the launch's and held by no other context (R169; nothing is reserved to context
4, log entry 23), and none of its knots has bad parity (R263). -/
def Sys2Proof.TableReady (s : State) (n : Nat) : Prop :=
  s.cur.ctx ≠ 4 ∧ (s.here.table n).reserved = s.me.launch ∧
  ((s.here.table n).holder = none ∨ (s.here.table n).holder = some s.cur.ctx) ∧
  ∀ i, i < min 64 (s.here.table n).nk → s.here.bad (locKnot n i) = false

/-- R169, R173 to R179: KSET queues a group of knots, FIT gives its four lines after 12 bundles, EVAL and SLOPE theirs after
8; an unusable table gives the default NaN; the generator is the mix of its advancing counter; the CRC takes its initial
value or the bytes of a line. -/
def Sys2Proof.TangentTriggers : Prop :=
  ∀ (s : State) (f : Move), GuardTrue s f.g →
    let o := s.tanNow
    let n := o.tb.toNat % 4
    let t := s.here.table n
    let x := fun i => elemOf 32 o.x i
    let nan := 0x7FC00000
    (TableReady s n →
      Does (.tanKset f) s [.kset { due := s.me.issued + 2, table := n, group := o.tb.toNat / 4 % 8, nk := o.tb.toNat / 32 % 128,
                                   knots := o.k }] ∧
      (∃ a b lo hi : Line, Does (.tanFit f) s [.result 0 a 12, .result 1 b 12, .result 2 lo 12, .result 3 hi 12] ∧
        ∀ i, i < 32 →
          let r := if t.usable = true then fitLane t o.tol.toNat (x i) else (nan, nan, nan, nan)
          elemOf 32 a i = r.1 % 2 ^ 32 ∧ elemOf 32 b i = r.2.1 % 2 ^ 32 ∧ elemOf 32 lo i = r.2.2.1 % 2 ^ 32 ∧
            elemOf 32 hi i = r.2.2.2 % 2 ^ 32) ∧
      (∃ y : Line, Does (.tanEval f) s [.result 4 y 8] ∧
        ∀ i, i < 32 → elemOf 32 y i = (if t.usable = true then (curve t (x i)).1 else nan) % 2 ^ 32) ∧
      (∃ y : Line, Does (.tanSlope f) s [.result 4 y 8] ∧
        ∀ i, i < 32 → elemOf 32 y i = (if t.usable = true then (curve t (x i)).2 else nan) % 2 ^ 32)) ∧
    (s.cur.ctx = 4 ∨ t.reserved ≠ s.me.launch ∨ (∃ h, t.holder = some h ∧ h ≠ s.cur.ctx) →
      ∀ i ∈ [Instr.tanKset f, .tanFit f, .tanEval f, .tanSlope f], ∃ es, Does i s (.trap .ill (BitVec.ofNat 64 n) :: es)) ∧
    (f.src.toNat = 0 → Does (.rngSeed f) s [.rng 0] ∧ Does (.crcInit f) s [.crc 0, .result 6 0 2]) ∧
    (0x100 ≤ f.src.toNat → f.src.toNat < 0x140 →
      Does (.rngSeed f) s [.rng (s.me.readC (f.src.toNat - 0x100))] ∧
      Does (.crcInit f) s [.crc ((s.me.readC (f.src.toNat - 0x100)).setWidth 32),
        .result 6 (((s.me.readC (f.src.toNat - 0x100)).setWidth 32).setWidth 1024) 2]) ∧
    (∃ l : Line, Does (.rngNext f) s [.rng (o.rng + 16 * 0x9E3779B97F4A7C15), .result 5 l 1] ∧
      ∀ i : Nat, i < 16 →
        let z0 : Word := o.rng + BitVec.ofNat 64 (i + 1) * 0x9E3779B97F4A7C15
        let z1 := (z0 ^^^ (z0 >>> 30)) * 0xBF58476D1CE4E5B9
        let z2 := (z1 ^^^ (z1 >>> 27)) * 0x94D049BB133111EB
        elemOf 64 l i = (z2 ^^^ (z2 >>> 31)).toNat) ∧
    (let v := crcBytes 128 (lineSource s f.src.toNat).toNat o.crc.toNat
     Does (.crcLine f) s [.crc (BitVec.ofNat 32 v), .result 6 (BitVec.ofNat 1024 (v % 2 ^ 32)) 2])

/-- Scalar and line moves, and moves of zero (R79, R80); the triggers of the tangent unit, the generator and the CRC
unit, with their results and latencies (R169, R173 to R179). -/
def Obligations.TransportAndTriggers : Prop :=
  TransportMoves ∧ TangentTriggers

/-! ## Engine commands at issue (chapters 8 to 10) -/

/-- The token that a command produces is complete (R12, R196). -/
def Sys2Proof.KoFree (s : State) (f : ESlot) : Prop :=
  f.ko = 0 ∨ ((s.me.token f.ko.toNat).pend = false ∧ (s.me.token f.ko.toNat).since ≤ s.cyc)
/-- A command as it is issued: its fields, the descriptors and tokens its bundle sees, and the tiles and ports it holds. -/
def Sys2Proof.CommandOf (s : State) (f : ESlot) (op : Nat) (tiles ports : List Nat) (c : Cmd) : Prop :=
  c.ctx = s.cur.ctx ∧ c.op = op ∧ c.f = f ∧ c.da = s.me.readD f.da.toNat ∧ c.db = s.me.readD f.db.toNat ∧
  c.ins = [s.me.input f.ka.toNat, s.me.input f.kb.toNat, s.me.input f.kc.toNat] ∧ c.tiles = tiles ∧ c.ports = ports ∧
  c.at_ = s.cyc
/-- A group of tiles that a command of the PPE or of the matrix engine may name: inside the allocation, with no result
pending, awaited from no load and held by no command of the other engine (R75, R121, R164). -/
def Sys2Proof.GroupReady (s : State) (ppe : Bool) (t n : Nat) : Prop :=
  t + n ≤ s.me.tileCount ∧
  (∀ e ∈ s.me.pwq, ∀ v i, e.dest = .tile v → (operandOf v).tile? = some i → i < t ∨ t + n ≤ i) ∧
  (∀ e ∈ s.me.busyLines, ∀ i, (operandOf e.1).tile? = some i → t ≤ i → i < t + n → heldAt e.2 s.cyc = false) ∧
  ∀ e ∈ s.here.tileBusy, s.me.tileBase + t ≤ e.tile → e.tile < s.me.tileBase + t + n → heldAt e.clear s.cyc = true → e.ppe = ppe
def Sys2Proof.tilesFrom (s : State) (t n : Nat) : List Nat := (List.range n).map (fun i => s.me.tileBase + t + i)
/-- A command is queued for an engine. -/
def Sys2Proof.Queues (i : Instr) (s : State) (e : Engine) (f : ESlot) (op : Nat) (tiles ports : List Nat) : Prop :=
  ∃ c, Does i s [.command e c] ∧ CommandOf s f op tiles ports c
/-- Depth of the dense shape of MODE, its lines (Table 8.1). -/
def Sys2Proof.denseDepth (f : ESlot) : Nat := if f.mode.toNat % 4 = 0 then 128 else if f.mode.toNat % 4 = 1 then 64 else 32
def Sys2Proof.denseLines (f : ESlot) : Nat := if f.mode.toNat % 4 ≤ 1 then 256 else 64

/-- R149, R151 to R156, R160, R162, R163: what the matrix commands demand, and the pipe that takes them. Context 4 has no
launch, so no buffer is its (log entry 23). -/
def Obligations.MatrixCommands : Prop :=
  ∀ (s : State) (f : ESlot), GuardTrue s f.g → KoFree s f →
    let d := s.me.readD f.da.toNat
    let e := s.me.readD f.db.toNat
    let n := f.f.toNat % 2
    let b := s.here.buffer n
    let free := s.cur.ctx ≠ 4 ∧ (b.holder = none ∨ b.holder = some s.cur.ctx) ∧ b.reserved = s.me.launch
    let walk := fun x : Descr => Descr.glb x = false ∧ Descr.exp x = false
    let src := f.mode.toNat / 32 % 4
    let unit := f.f.toNat / 2 % 8
    let acc := if src = 1 then 2 else 8
    let t := f.t.toNat
    let slopes := if f.mode.toNat / 16 % 2 = 1 then denseDepth f / 8 else denseDepth f / 32
    (free → s.here.loadQ.length < 4 → walk d →
      (Descr.product d = denseLines f → Queues (.mxWld f) s .load f 0x01 [] []) ∧
      Queues (.mxWldg f) s .load f 0x02 [] [] ∧
      (Descr.product d = denseLines f → walk e → Descr.product e = slopes → Queues (.mxWfold f) s .load f 0x03 [] [])) ∧
    (GroupReady s false t acc → s.here.runQ.length < 8 →
      Queues (.mxAccz f) s .run f 0x06 (tilesFrom s t acc) [] ∧
      (walk d → Descr.product d = acc → Queues (.mxAccb f) s .run f 0x07 (tilesFrom s t acc) [])) ∧
    (b.holder = some s.cur.ctx → free → b.state ≠ .empty → s.here.runQ.length < 8 → Descr.product d ≠ 0 →
      (src = 0 → walk d) → (src = 1 → (s.here.port unit).holder = some s.cur.ctx ∧ AtHome (s.here.port unit) s.cyc) →
      (src = 2 → fifoRefused s unit false = false) →
      let ports := if src = 1 then [unit] else []
      let size := if b.shape = .fp32 then 2 else 8
      ((∃ e5, b.shape = .fp8 e5 ∧ (Descr.fmt d = 2 ∨ Descr.fmt d = 3)) ∨ (b.shape = .bf16 ∧ Descr.fmt d = 1) ∨
          (b.shape = .fp32 ∧ Descr.fmt d = 0) → GroupReady s false t size →
        Queues (.mxRun f) s .run f 0x04 (tilesFrom s t size) ports) ∧
      (b.shape = .grouped → Descr.fmt d = 2 → Descr.product d % 4 = 0 → GroupReady s false t 8 →
        Queues (.mxRung f) s .run f 0x05 (tilesFrom s t 8) ports)) ∧
    (s.cur.ctx = 4 ∨ b.reserved ≠ s.me.launch ∨ (∃ h, b.holder = some h ∧ h ≠ s.cur.ctx) →
      ∀ i ∈ [Instr.mxWld f, .mxWldg f, .mxWfold f], ∃ es, Does i s (.trap .ill (BitVec.ofNat 64 n) :: es))

/-- R181 to R184, R187, R190, R191: what the commands of the post-processing engine demand. Context 4 has no launch, so no
set is its (log entry 23). -/
def Obligations.PpeCommands : Prop :=
  ∀ (s : State) (f : ESlot), GuardTrue s f.g → KoFree s f → s.here.ppeQ.length < 8 →
    let d := s.me.readD f.da.toNat
    let e := s.me.readD f.db.toNat
    let n := f.f.toNat % 2
    let z := s.here.tanSet n
    let mine := s.cur.ctx ≠ 4 ∧ z.reserved = s.me.launch
    let t := f.t.toNat
    let bias := f.f.getLsbD 1
    (mine → (bias = true → GroupReady s true t 1) →
      (f.mode.toNat % 4 ≠ 0 → Descr.glb e = false ∧ Descr.product e ≠ 0) →
      ∃ c, Does (.ppeCfg f) s [.command .ppe c] ∧ c.ctx = s.cur.ctx ∧ c.op = 0x10 ∧ c.f = f ∧
        c.db = (if f.mode.toNat % 4 = 0 then 0 else e) ∧ c.scales = s.me.readE f.da.toNat ∧ c.tiles = [] ∧ c.ports = [] ∧
        c.lines = if bias = true then (List.range 8).map (fun r => s.here.tileRow (s.me.tileBase + t) r) else []) ∧
    (GroupReady s true t 1 → mine →
      (z.holder = none ∨ z.holder = some s.cur.ctx →
        Queues (.ppeTld f) s .ppe f 0x12 (tilesFrom s t 1) [] ∧ Queues (.ppeTst f) s .ppe f 0x13 (tilesFrom s t 1) []) ∧
      (z.holder = some s.cur.ctx → Queues (.ppeEcnt f) s .ppe f 0x14 (tilesFrom s t 1) [])) ∧
    (let p := governing s
     let tiles := if f.mode.toNat / 32 % 4 = 0 then 8 else if f.mode.toNat / 32 % 4 = 1 then 2 else 1
     let per := if p.ofmt = 0 then tiles else if p.ofmt = 1 then max 1 (tiles / 2) else if p.ofmt = 2 then max 1 (tiles / 4) else 1
     let lines := (f.mode.toNat % 32 + 1) * per
     let kind := f.f.toNat / 4
     p.ofmt < 4 → GroupReady s true t tiles → (p.tmode ≠ 0 → (s.here.tanSet p.ts).holder = some s.cur.ctx) →
     (p.ofmt = 3 → tiles = 8 ∧ kind = 0) →
     (kind = 0 → Descr.glb d = false → Descr.product d = lines →
       Queues (.ppeDrain f) s .ppe f 0x11 (tilesFrom s t tiles) []) ∧
     (kind = 1 → (s.here.port (6 + f.da.toNat)).holder = some s.cur.ctx → AtHome (s.here.port (6 + f.da.toNat)) s.cyc →
       Queues (.ppeDrain f) s .ppe f 0x11 (tilesFrom s t tiles) [6 + f.da.toNat]) ∧
     (kind = 2 → fifoRefused s f.da.toNat true = false → Queues (.ppeDrain f) s .ppe f 0x11 (tilesFrom s t tiles) []) ∧
     (let u := d.toNat % 128
      let m := (lines + 31) / 32
      kind = 3 → t + tiles ≤ u ∨ u + m ≤ t → GroupReady s true u m →
        Queues (.ppeDrain f) s .ppe f 0x11 (tilesFrom s t tiles ++ tilesFrom s u m) []))

/-- R199, R200, R204, R207 to R209, R222: the copy commands, each with the side rule and the count rule of Table 10.4, enter
the SRQ; KJOIN and KSIG are accepted at once. -/
def Sys2Proof.CopyCommands : Prop :=
  ∀ (s : State) (f : ESlot), GuardTrue s f.g → KoFree s f →
    let a := s.me.readD f.da.toNat
    let b := s.me.readD f.db.toNat
    let ga := Descr.glb a = true
    let gb := Descr.glb b = true
    let inAp := (apertureOf (Descr.base a)).isSome = true
    let same := Descr.product a = Descr.product b
    let sync := f.mode.getLsbD 1 = true
    (∀ p ∈ [(Instr.cpyGs f, 0x20, ¬ ga ∧ gb ∧ same), (Instr.cpySg f, 0x21, ga ∧ ¬ gb ∧ same ∧ (sync → inAp)),
        (Instr.cpySs f, 0x22, (ga → inAp) ∧ ¬ gb ∧ same), (Instr.cpyGg f, 0x23, ga ∧ gb ∧ same ∧ (sync → inAp)),
        (Instr.cpyXgrf f, 0x24, ¬ ga), (Instr.cpyXdn f, 0x25, ¬ ga),
        (Instr.cpyFpr f, 0x26, ¬ ga ∧ Descr.product a = (Descr.product b + 15) / 16), (Instr.cpyCmp f, 0x27, same),
        (Instr.cpyCrc f, 0x29, (ga → inAp) ∧ same)],
      (p.2.2 → Queues p.1 s .copy f p.2.1 [] []) ∧ (¬ p.2.2 → ∃ n es, Does p.1 s (.trap .ill n :: es))) ∧
    (GroupReady s true f.t.toNat 1 → GroupReady s false f.t.toNat 1 → (sync → ga → inAp) →
      s.here.rowHurt (s.me.tileBase + f.t.toNat) (f.mode.toNat / 4 % 32) = false →
      ∃ c, Does (.cpyFill f) s [.command .copy c] ∧ CommandOf s f 0x28 [] [] c ∧
        c.lines = [s.here.tileRow (s.me.tileBase + f.t.toNat) (f.mode.toNat / 4 % 32)]) ∧
    Queues (.kjoin f) s .join f 0x3A [] [] ∧ Queues (.ksig f) s .signal f 0x3B [] []

/-- R223, R226 to R228: the scatter-accumulate commands demand a local index stream and as many values as it has entries;
CF.CFG and CF.RST wait for their tokens and for the commands that name their FIFO, and raise ILL for a FIFO that is
another context's or not the launch's; context 4 has no launch (log entry 23). -/
def Sys2Proof.ScatterAndChainCommands : Prop :=
  ∀ (s : State) (f : ESlot), GuardTrue s f.g → KoFree s f →
    let a := s.me.readD f.da.toNat
    let b := s.me.readD f.db.toNat
    let perLine := if f.mode.getLsbD 3 = true then 16 else 32
    let port := 6 + f.f.toNat % 4
    let n := f.f.toNat % 8
    let q := s.fifo (s.cur.core / 4) n
    (Descr.glb a = false → Descr.glb b = false → 32 * Descr.product a = perLine * Descr.product b →
      Queues (.scaUpd f) s .sca f 0x30 [] [] ∧
      ((s.here.port port).holder = some s.cur.ctx → AtHome (s.here.port port) s.cyc →
        Queues (.scaFupd f) s .sca f 0x31 [] [port])) ∧
    (Descr.glb a = true ∨ 32 * Descr.product a ≠ perLine * Descr.product b →
      ∀ i ∈ [Instr.scaUpd f, .scaFupd f], ∃ es, Does i s (.trap .ill (BitVec.ofNat 64 f.da.toNat) :: es)) ∧
    (s.cur.ctx ≠ 4 → q.holder = none ∨ q.holder = some (s.cur.core, s.cur.ctx) → q.reserved = s.me.launch →
      (∀ k ∈ [f.ka, f.kb, f.kc], k ≠ 0 → (s.me.token k.toNat).pend = false ∧ (s.me.token k.toNat).since ≤ s.cyc) →
      fifoNamed s n = false →
      Queues (.cfCfg f) s .chain f 0x38 [] [] ∧ Queues (.cfRst f) s .chain f 0x39 [] []) ∧
    (s.cur.ctx = 4 ∨ q.reserved ≠ s.me.launch ∨ (∃ h, q.holder = some h ∧ h ≠ (s.cur.core, s.cur.ctx)) →
      ∀ i ∈ [Instr.cfCfg f, .cfRst f], ∃ es, Does i s (.trap .ill (BitVec.ofNat 64 n) :: es))

/-- The copy and scatter-accumulate commands, held back in the SRQ when they are sound, with KJOIN and KSIG, CF.CFG
and CF.RST (R199, R200, R204, R207 to R209, R222, R223, R226 to R228). That no FIFO is reserved to context 4, which
has no launch, is the model's reading (log entry 23). -/
def Obligations.CopyScatterChainCommands : Prop :=
  CopyCommands ∧ ScatterAndChainCommands

/-! ## Steps of the part: hosts and peers (R252, R265, R276, R285, R292 to R296, R303, R308 to R313) -/

/-- The machine answers a next state that meets a condition. -/
def Sys2Proof.Leads (i : Instr) (s : State) (P : State → Prop) : Prop := ∃ t, exec i s = .next t ∧ P t
/-- A device that has booted, and its owner (R292, R301). -/
def Sys2Proof.OwnedBy (s : State) (host : Nat) : Prop := s.boot.stage = 6 ∧ s.owner.host = some host
/-- Nothing a program can see has changed: memory, marks, cores and launches. -/
def Sys2Proof.ProgramsAlike (s t : State) : Prop :=
  t.mem = s.mem ∧ t.marks = s.marks ∧ t.cores = s.cores ∧ t.launches = s.launches ∧ t.cyc = s.cyc

/-- R252, R276, R285, R292, R293, R308, R311: what the owner's requests and its writes to launch slots and events do.
The reasons of a refusal are the model's own numbers (log entry 52), and that a request of another host leaves no answer
is its reading (log entries 51, 57); a new key lets its owner's flits count from 0 (log entry 53). -/
def Sys2Proof.OwnerRequests : Prop :=
  ∀ (s : State) (h : Nat), OwnedBy s h →
    (∀ hash, exec (.handover h hash) s =
      .next { s with owner := { s.owner with successor := some hash }, reply := s.reply.set h .ok }) ∧
    exec (.cancel h) s = .next { s with owner := { s.owner with successor := none }, reply := s.reply.set h .ok } ∧
    (∀ w, 1500 ≤ w → w ≤ 2800 →
      exec (.powerCapWrite h w) s = .next { s with powerCap := w, reply := s.reply.set h .ok }) ∧
    (∀ w, w < 1500 ∨ 2800 < w →
      ∃ r, exec (.powerCapWrite h w) s = .next { s with reply := s.reply.set h (.refused r) }) ∧
    (∀ cl v, cl < 48 → Leads (.cthrWrite h cl v) s (fun t => ProgramsAlike s t ∧ t.reply.get .none h = .ok ∧
      (t.cluster cl).cthr = v ∧ ∀ k, k ≠ cl → t.cluster k = s.cluster k)) ∧
    (∀ c v, c < 192 → (s.core c).msgQ.length < 4 → Leads (.supmsg h c v) s (fun t => t.mem = s.mem ∧
      t.reply.get .none h = .ok ∧ (t.core c).msgQ = (s.core c).msgQ ++ [v] ∧ (t.core c).asleep = false ∧
      ∀ d, d ≠ c → t.core d = s.core d)) ∧
    (∀ c v, c < 192 → 4 ≤ (s.core c).msgQ.length →
      exec (.supmsg h c v) s = .next { s with reply := s.reply.set h .busy }) ∧
    (∀ l otag key wrapped, l < 12 → Leads (.keyInstall h l otag key wrapped) s (fun t => ProgramsAlike s t ∧
      t.reply.get .none h = .ok ∧ (t.link l).keys.at? (otag.toNat * 256 + key.toNat) = some (Config.unwrapKey wrapped) ∧
      ((s.link l).waiting = [] → (t.link l).seqs.get 0 otag.toNat = 0) ∧
      (t.link l).word = (s.link l).word ∧ ∀ m, m ≠ l → t.link m = s.link m)) ∧
    (∀ p tag, p < 8 → Leads (.partitionConfig h (.otag p tag)) s (fun t => ProgramsAlike s t ∧
      t.reply.get .none h = .ok ∧ (t.partOf p).otag = tag ∧ ∀ r, r ≠ p → t.partOf r = s.partOf r)) ∧
    (∀ q p, q < 64 → p < 8 → Leads (.partitionConfig h (.queue q p)) s (fun t => ProgramsAlike s t ∧
      (t.queue q).vectors = (s.queue q).vectors ∧
      if (s.queue q).vectors = [] then (t.queue q).part = p ∧ t.reply.get .none h = .ok
      else (t.queue q).part = (s.queue q).part ∧ ∃ r, t.reply.get .none h = .refused r)) ∧
    (∀ cl p, cl < 48 → p < 8 → Leads (.partitionConfig h (.cluster cl p)) s (fun t => ProgramsAlike s t ∧
      ((∀ c x, 4 * cl ≤ c → c < 4 * cl + 4 → x < 4 → (s.ctx c x).status = .free) →
        (t.cluster cl).part = p ∧ t.reply.get .none h = .ok) ∧
      ∀ c x, 4 * cl ≤ c → c < 4 * cl + 4 → x < 4 → (s.ctx c x).status ≠ .free →
        (t.cluster cl).part = (s.cluster cl).part ∧ ∃ r, t.reply.get .none h = .refused r)) ∧
    (∀ p (bits : BitVec 4096), p < 8 → Leads (.eventSet h p bits) s (fun t => ProgramsAlike s t ∧
      ∀ i, (t.partOf p).events.getLsbD i = (decide (i ≠ 0) && ((s.partOf p).events.getLsbD i || bits.getLsbD i)))) ∧
    (∀ p (bits : BitVec 4096), p < 8 → Leads (.eventClear h p bits) s (fun t => ProgramsAlike s t ∧
      ∀ i, (t.partOf p).events.getLsbD i = ((s.partOf p).events.getLsbD i && !bits.getLsbD i))) ∧
    (∀ q off (data : List Byte), q < 64 → Leads (.launchSlotWrite h q off data) s (fun t => ProgramsAlike s t ∧
      (t.queue q).vectors = (s.queue q).vectors ∧ ∀ a, (t.queue q).staging.read a =
        if off ≤ a ∧ a < off + data.length ∧ a < 0xFC0 then data.getD (a - off) 0 else (s.queue q).staging.read a)) ∧
    (∀ q (data : List Byte), q < 64 → data.length = 64 → (s.queue q).vectors.length < 32 →
      Leads (.launchCommit h q data) s (fun t => ProgramsAlike s t ∧ (t.queue q).staging = [] ∧
        ∃ v : Memory, (t.queue q).vectors = (s.queue q).vectors ++ [v] ∧
          (∀ a, a < 0xFC0 → v.read a = (s.queue q).staging.read a) ∧
          ∀ i, i < 64 → v.read (0xFC0 + i) = data.getD i 0)) ∧
    ∀ q data, q < 64 → 32 ≤ (s.queue q).vectors.length → Leads (.launchCommit h q data) s (fun t => ProgramsAlike s t ∧
      (t.queue q).vectors = (s.queue q).vectors ∧ (t.queue q).staging = (s.queue q).staging ∧ (t.queue q).ovf = true)

/-- R292, R301: on a device that has booted, a request or write that only the owner may make is discarded when another
host makes it: only telemetry counts it. Until stage 6 the mailbox answers every request with NOTREADY. -/
def Sys2Proof.StrangersRequests : Prop :=
  ∀ (s : State) (h q c cl part w l off watts : Nat) (v : Word) (v8 otag key : BitVec 8) (hash : BitVec 384)
    (wrapped : BitVec 512) (bits : BitVec 4096) (data : List Byte) (b z : Word) (k sig : BitVec 768) (nonce : BitVec 384),
    q < 64 → c < 192 → cl < 48 → part < 8 → w < 64 → l < 12 →
    let mail : List Instr := [.handover h hash, .cancel h, .supmsg h c v, .keyInstall h l otag key wrapped,
      .partitionConfig h (.cluster cl part), .partitionConfig h (.queue q part), .partitionConfig h (.otag part v8),
      .cthrWrite h cl v8, .powerCapWrite h watts, .windowOpen h w v b z, .windowRevoke h w, .windowFree h w]
    let writes : List Instr := [.launchSlotWrite h q off data, .launchCommit h q data, .eventSet h part bits,
      .eventClear h part bits]
    let dropped : State := { s with telemetry := s.telemetry.set 1 (s.telemetry.get 0 1 + 1) }
    (s.boot.stage = 6 → s.owner.host ≠ some h → ∀ i ∈ mail ++ writes, exec i s = .next dropped) ∧
    (s.boot.stage ≠ 6 → (∀ i ∈ writes, exec i s = .next dropped) ∧
      ∀ i ∈ mail ++ [.onaetClaim h k sig, .attestationRequest h nonce],
        exec i s = .next { s with reply := s.reply.set h .notReady })

/-- R276, R285, R292, R300, R303: a CLAIM of the ownership, an attestation report for any host, and a host's reads: of a
queue's status, which clears OVF and NOREC, of a partition's events, of the nonce that a CLAIM signs and of the boot
registers. That a successor's CLAIM is signed too, and that the nonce changes only when a CLAIM succeeds, is the model's
reading (log entry 51). The places of the report's fields and of the nonce are the model's choice (log entries 52, 69). -/
def Sys2Proof.MailboxForAnyHost : Prop :=
  ∀ (s : State) (h : Nat), s.boot.stage = 6 →
    (∀ key sig,
      let hash := Config.sha384 (bytesOf 96 key.toNat)
      exec (.onaetClaim h key sig) s =
        if Config.ecdsaVerifies key (Config.sha384 (bytesOf 48 (Config.nonce s.owner.nonceNo).toNat)) sig = true ∧
            (s.owner.host = none ∨ s.owner.successor = some hash) then
          .next { s with
            owner := { host := some h, key := hash, successor := none, nonceNo := s.owner.nonceNo + 1 },
            reply := s.reply.set h .ok }
        else .next { s with reply := s.reply.set h .notOwner }) ∧
    (∀ nonce : BitVec 384, ∃ r : List Byte, r.length = 512 ∧ (r.drop 16).take 96 = bytesOf 96 Config.identityKey.toNat ∧
      (r.drop 112).take 48 = bytesOf 48 nonce.toNat ∧
      exec (.attestationRequest h nonce) s =
        .next { s with reply := s.reply.set h (.report (r ++ bytesOf 96 (Config.identitySign r).toNat)) }) ∧
    let reads := fun off len v => exec (.queueStatusRead h ⟨off, len⟩) s = .next { s with reply := s.reply.set h (.value v) }
    (∀ q, q < 64 → Leads (.queueStatusRead h ⟨0x100FC0 + 0x1000 * q, 8⟩) s (fun t => ProgramsAlike s t ∧
      t.reply.get .none h = .value (((s.queue q).vectors.length + (if (s.queue q).ovf = true then 64 else 0) +
        (if (s.queue q).norec = true then 128 else 0)) % 2 ^ 64) ∧
      (t.queue q).ovf = false ∧ (t.queue q).norec = false ∧ (t.queue q).vectors = (s.queue q).vectors ∧
      ∀ r, r < 64 → r ≠ q → t.queue r = s.queue r)) ∧
    (∀ p i, p < 8 → i < 64 →
      reads (0x80000 + 0x1000 * p + 8 * i) 8 ((s.partOf p).events.toNat / 2 ^ (64 * i) % 2 ^ 64)) ∧
    reads 0x1000 48 (Config.nonce s.owner.nonceNo).toNat ∧
    reads 0 8 s.boot.imgpa.toNat ∧ reads 8 8 (s.boot.pages % 2 ^ 64) ∧ reads 0x10 8 0 ∧
    reads 0x18 8 (256 * s.boot.err.toNat + s.boot.stage) ∧ reads 0x20 8 s.boot.statpa.toNat

/-- What the owner's requests, launch-slot writes and events do, what happens to a stranger's, and the requests any
host may make (R252, R276, R285, R292, R293, R300, R301, R303, R308, R311). That a stranger's request has no answer
(log entries 51, 57), that a successor's CLAIM is signed too and the nonce changes only when a CLAIM succeeds (log
entry 51), the reasons of a refusal and the measurements of the report (log entry 52), that a new key starts its
counter at 0 (log entry 53) and the layout of the register region (log entry 69) are the model's. -/
def Obligations.HostRequests : Prop :=
  OwnerRequests ∧ StrangersRequests ∧ MailboxForAnyHost

/-- The bytes of a store from an address on are replaced, and no other. -/
def Sys2Proof.Stored (m m' : Memory) (a : Nat) (bs : List Byte) : Prop :=
  ∀ x, m'.read x = if a ≤ x ∧ x < a + bs.length then bs.getD (x - a) 0 else m.read x
/-- An OPEN inbound window lets a peer's request in (Table 17.12). -/
def Sys2Proof.LetsIn (s : State) (w : Nat) (otag key : BitVec 8) (addr n perm : Nat) : Prop :=
  w < 64 ∧ (s.window w).word0.toNat % 4 = 1 ∧ (s.window w).word0.getLsbD 2 = true ∧
    (s.window w).word0.getLsbD perm = true ∧ (s.window w).word0.extractLsb' 16 8 = otag ∧
    (s.window w).word0.extractLsb' 24 8 = key ∧ (s.window w).base.toNat ≤ addr ∧
    addr + n ≤ (s.window w).base.toNat + (s.window w).size.toNat ∧ addr + n ≤ 2 ^ 39

/-- A peer's request has its answer: it is kept by owner tag, and where a link leads to the peer and the owner's flits
there have not stopped, one flit of the owner goes to the peer under the key of the request. -/
def Sys2Proof.Answered (s t : State) (otag key : BitVec 8) (src : Nat) (r : Reply) : Prop :=
  t.reply.get .none (2 ^ 32 + otag.toNat) = r ∧
  ∀ m, s.linkTo src = some m → (s.link m).seqs.get 0 otag.toNat < 2 ^ 48 →
    ∃ f : Flit, (t.link m).sent = (s.link m).sent ++ [f] ∧ f.otag = otag ∧ f.key = key ∧
      f.dst = BitVec.ofNat 16 src ∧ f.seq.toNat = (s.link m).seqs.get 0 otag.toNat
/-- A peer's request is turned away: it does nothing, is answered REVOKED and counts against its owner tag. -/
def Sys2Proof.TurnedAway (s : State) (otag key : BitVec 8) (addr : Nat) (op : InboundOp) (src : Nat) : Prop :=
  Leads (.inboundRequest otag key addr op src) s (fun t => ProgramsAlike s t ∧ Answered s t otag key src (.refused 0x44) ∧
    t.telemetry.get 0 (0x200 + otag.toNat) = s.telemetry.get 0 (0x200 + otag.toNat) + 1)

/-- R294 to R296: reads, writes and atomics of peers through OPEN inbound windows that allow them are performed and
answered; each of them is turned away where no window lets it in. The place of an answer (log entry 52), that it goes as a
flit of the request's owner and key (log entry 53) and where refused requests are counted (log entry 69) are the model's. -/
def Sys2Proof.PeerRequests : Prop :=
  ∀ (s : State) (otag key : BitVec 8) (addr len src : Nat) (data : List Byte) (v : Word),
    (∀ w, LetsIn s w otag key addr len 3 → Leads (.inboundRequest otag key addr (.read len) src) s (fun t =>
      ProgramsAlike s t ∧ Answered s t otag key src (.value (s.mem.load addr len)))) ∧
    (∀ w, LetsIn s w otag key addr data.length 4 → Leads (.inboundRequest otag key addr (.write data) src) s (fun t =>
      t.cores = s.cores ∧ Stored s.mem t.mem addr data ∧ Answered s t otag key src .ok)) ∧
    (∀ w, LetsIn s w otag key addr 8 5 → Leads (.inboundRequest otag key addr (.atomicAdd v) src) s (fun t =>
      t.cores = s.cores ∧ Stored s.mem t.mem addr (bytesOf 8 ((s.mem.load addr 8 + v.toNat) % 2 ^ 64)) ∧
        Answered s t otag key src (.value (s.mem.load addr 8)))) ∧
    ((∀ w, ¬ LetsIn s w otag key addr len 3) → TurnedAway s otag key addr (.read len) src) ∧
    ((∀ w, ¬ LetsIn s w otag key addr data.length 4) → TurnedAway s otag key addr (.write data) src) ∧
    ((∀ w, ¬ LetsIn s w otag key addr 8 5) → TurnedAway s otag key addr (.atomicAdd v) src)

/-- R6, R294 to R296, R309: the owner's writes to the window table, whose reserved fields read 0, and host accesses to HBM,
which is exposed from stage 6 on. What a write other than of a full entry leaves (log entry 57) and that a host writes its
own memory at any time (log entry 54) are the model's. -/
def Sys2Proof.WindowsAndHostMemory : Prop :=
  ∀ (s : State) (h : Nat), OwnedBy s h →
    (∀ n (w0 base size : Word), n < 64 → (s.window n).word0.toNat % 4 = 0 → w0.toNat % 4 = 1 → size.toNat % 4096 = 0 →
      exec (.windowOpen h n w0 base size) s =
        .next { s with windows := s.windows.set n { word0 := w0 &&& 0x0000FFFFFFFF073F, base := base, size := size, infl := 0 },
                       reply := s.reply.set h .ok }) ∧
    (∀ n (w0 base size : Word), n < 64 → (s.window n).word0.toNat % 4 ≠ 0 ∨ w0.toNat % 4 ≠ 1 ∨ size.toNat % 4096 ≠ 0 →
      exec (.windowOpen h n w0 base size) s = .next s) ∧
    (∀ n, n < 64 → (s.window n).word0.toNat % 4 = 1 →
      ((s.window n).word0.getLsbD 2 = true ∨
        ((∀ g ∈ s.writes, placeOf g.pa ≠ .window n) ∧ ∀ c, c < 192 → (s.core c).chans = [] ∧ (s.core c).scaNow = none ∧
          ∀ x, x < 5 → (s.ctx c x).out = [])) →
      Leads (.windowRevoke h n) s (fun t => ProgramsAlike s t ∧ (t.window n).word0.toNat % 4 = 2 ∧
        (t.window n).word0.toNat / 4 = (s.window n).word0.toNat / 4 ∧ ∀ m, m ≠ n → t.window m = s.window m)) ∧
    (∀ n, n < 64 → (s.window n).word0.toNat % 4 ≠ 1 → exec (.windowRevoke h n) s = .next s) ∧
    (∀ n, n < 64 → Leads (.windowFree h n) s (fun t => ProgramsAlike s t ∧ (t.window n).word0.toNat % 4 =
      if (s.window n).word0.toNat % 4 = 2 ∧ (s.window n).infl = 0 then 0 else (s.window n).word0.toNat % 4)) ∧
    (∀ g addr len, addr + len ≤ 2 ^ 39 →
      exec (.hostMemoryAccess g addr (.read len)) s = .next { s with reply := s.reply.set g (.value (s.mem.load addr len)) }) ∧
    (∀ g addr data, addr + data.length ≤ 2 ^ 39 →
      Leads (.hostMemoryAccess g addr (.write data)) s (fun t => t.cores = s.cores ∧ Stored s.mem t.mem addr data ∧
        t.reply.get .none g = .ok)) ∧
    ∀ g addr data, addr + data.length ≤ 2 ^ 52 →
      Leads (.hostMemoryAccess g addr (.own data)) s (fun t => t.cores = s.cores ∧
        Stored s.mem t.mem (Config.hostBase + addr) data ∧ t.reply.get .none g = .ok)

/-- Reads, writes and atomics of peers through OPEN inbound windows are performed and answered, and turned away and
counted where no window lets them in; the owner's writes to the window table, and host accesses to HBM (R294 to R296,
R309). The place of a peer's answer (log entry 52), that it goes as a flit of the request's owner and key (log entry
53), where refused requests are counted (log entry 69), what a write other than of a full entry leaves (log entry 57)
and that a host writes its own memory at any time (log entry 54) are the model's. -/
def Obligations.PeersAndWindows : Prop :=
  PeerRequests ∧ WindowsAndHostMemory

/-! ## Steps of the part: boot, heat, links and repair (R60, R69, R265, R300 to R313) -/

/-- A boot image: its magic, its length, and the bytes of a place in it (Table 19.1). -/
def Sys2Proof.imgPart (s : State) (off n : Nat) : List Byte := (s.boot.image.drop off).take n
def Sys2Proof.imgNum (s : State) (off n : Nat) : Nat := natOfBytes (imgPart s off n)
/-- The checks of the boot ROM on an image (R302). -/
def Sys2Proof.imageFits (s : State) : Bool :=
  decide (imgNum s 0 8 = 0x4854524F56414C56) && decide (512 + imgNum s 16 4 + 1612 ≤ 4096 * s.boot.pages)
def Sys2Proof.digestRight (s : State) : Bool :=
  decide (BitVec.ofNat 384 (imgNum s 20 48) = Config.sha384 (imgPart s 512 (imgNum s 16 4)))
def Sys2Proof.ecdsaRight (s : State) : Bool :=
  decide (Config.sha384 (imgPart s 68 96) = Config.romEcdsaHash) &&
    Config.ecdsaVerifies (BitVec.ofNat 768 (imgNum s 68 96)) (BitVec.ofNat 384 (imgNum s 20 48))
      (BitVec.ofNat 768 (imgNum s 164 96))
def Sys2Proof.lmsRight (s : State) : Bool :=
  decide (Config.sha384 (imgPart s 260 56) = Config.romLmsHash) &&
    Config.lmsVerifies (imgPart s 260 56) (imgPart s 512 (imgNum s 16 4)) (imgPart s (512 + imgNum s 16 4) 1612)
/-- A step that does nothing but put the device at a boot stage with an error code. -/
def Sys2Proof.FallsTo (i : Instr) (s : State) (stage : Nat) (err : BitVec 8) : Prop :=
  exec i s = .next { s with boot := { s.boot with stage := stage, err := err } }

/-- STATE, LANES and COST of a link's word (Table 19.9). -/
def Sys2Proof.LinkShows (t : State) (n state lanes cost : Nat) : Prop :=
  (t.link n).word.toNat % 4 = state ∧ (t.link n).word.toNat / 2 ^ 8 % 16 = lanes ∧ (t.link n).word.toNat / 2 ^ 16 % 2 ^ 16 = cost
/-- R267, R300 to R304, Tables 19.2 and 19.3: power-up, and the stages of boot with the errors that end them: the
image is read from host memory, failing rows and lanes take spares while there are any, and a core that needs more is
fenced. What power-up leaves where the spec is silent (log entry 4), that the hosts' and the peers' memory is outside the
device and survives it, the size of a host's memory and the order of the image's checks (log entry 54) and the COST of a new
link (log entry 50) are the model's choice. -/
def Obligations.BootStages : Prop :=
  ∀ s : State,
    (∃ m : Memory, exec .powerUp s = .next { State.reset with inbox := s.inbox, mem := m } ∧
      (s.mem.wf = true → ∀ a, m.read a =
        if Config.hostBase ≤ a ∧ a < Config.spBase ∨ Config.peerBase ≤ a then s.mem.read a else 0)) ∧
    (∀ (h off : Nat) (v : Word), s.owner.host = none ∨ s.owner.host = some h →
      (∃ a : Word, a.toNat = v.toNat / 4096 * 4096 ∧
        exec (.bootGo h 0 v) s = .next { s with boot := { s.boot with imgpa := a } }) ∧
      exec (.bootGo h 8 v) s = .next { s with boot := { s.boot with pages := v.toNat % 8192 } } ∧
      (s.boot.stage = 0 → v.getLsbD 0 = true →
        (s.boot.pages = 0 → FallsTo (.bootGo h 0x10 v) s 0 0x01) ∧
        (s.boot.pages ≠ 0 → FallsTo (.bootGo h 0x10 v) s 1 s.boot.err)) ∧
      (s.boot.stage ≠ 0 ∨ v.getLsbD 0 = false → exec (.bootGo h 0x10 v) s = .next s) ∧
      (off ∉ [0, 8, 0x10] → exec (.bootGo h off v) s = .next s)) ∧
    (s.boot.stage = 1 → FallsTo (.bootFetch false) s 0 0x02 ∧
      (2 ^ 52 < s.boot.imgpa.toNat + 4096 * s.boot.pages → FallsTo (.bootFetch true) s 0 0x02) ∧
      (s.boot.imgpa.toNat + 4096 * s.boot.pages ≤ 2 ^ 52 →
        Leads (.bootFetch true) s (fun t => ProgramsAlike s t ∧ t.boot.stage = 2 ∧
          t.boot.image.length = 4096 * s.boot.pages ∧
          ∀ i, i < 4096 * s.boot.pages → t.boot.image.getD i 0 = s.mem.read (Config.hostBase + s.boot.imgpa.toNat + i)))) ∧
    (s.boot.stage = 2 →
      exec .bootVerify s = .next { s with
        boot :=
          (if imageFits s = false then { s.boot with stage := 0, err := 0x03 }
          else if digestRight s = false then { s.boot with stage := 0, err := 0x04 }
          else if ecdsaRight s = false then { s.boot with stage := 0, err := 0x05 }
          else if lmsRight s = false then { s.boot with stage := 0, err := 0x06 }
          else { s.boot with stage := 3, version := BitVec.ofNat 64 (imgNum s 8 8) }) }) ∧
    (s.boot.stage = 3 → (∀ es fs, FallsTo (.bootMarchTest true es fs) s 15 0x10) ∧
      ∀ es fs, Leads (.bootMarchTest false es fs) s (fun t => t.boot.stage = 4 ∧ t.mem = s.mem ∧
        t.repair.Sublist es ∧
        (∀ e ∈ es, (t.repair.filter (sharesSpares e)).length = min (entrySpares e) (es.filter (sharesSpares e)).length) ∧
        ∀ c, (t.core c).fenced = true ↔ (s.core c).fenced = true ∨ c ∈ fs ∨
          ∃ e ∈ es, entryCore e = c ∧ entrySpares e < (es.filter (sharesSpares e)).length)) ∧
    (s.boot.stage = 4 → (∀ ls, FallsTo (.bootTraining false ls) s 15 0x11) ∧
      ∀ ls, Leads (.bootTraining true ls) s (fun t => ProgramsAlike s t ∧ t.boot.stage = 5 ∧
        (∀ u ∈ ls, u.link < 12 → (∀ w ∈ ls, w.link = u.link → w = u) →
          LinkShows t u.link 1 8 1 ∧ (t.link u.link).peer = u.peer % 2 ^ 16 ∧ (t.link u.link).reach = u.reach) ∧
        ∀ n, (∀ u ∈ ls, u.link ≠ n) → t.link n = s.link n)) ∧
    (s.boot.stage = 5 → Leads .bootBringup s (fun t => t.boot.stage = 6 ∧ t.owner = s.owner ∧
      ∀ c, c < 192 → (t.ctx c 4).status = .running ∧ (t.ctx c 4).pc = (s.core c).supEntry ∧
        ∀ x, x ≠ 4 → t.ctx c x = s.ctx c x))

/-- Every peer that an outbound window can reach now is also reached over another link than one (R313). -/
def Sys2Proof.OtherRoutes (s : State) (n : Nat) : Prop :=
  ∀ e ∈ s.windows, e.2.dir = false → s.routedTo e.2.peer = true →
    ∃ m, m < 12 ∧ m ≠ n ∧ (s.link m).word.toNat % 4 ≠ 0 ∧ (s.link m).reaches e.2.peer = true

/-- R311 to R313: a packet that is sent, a flit that passes its check and one that does not, a link that retrains, loses a
lane or ends its training; Table 19.9 is the link's word. How a flit is sealed and which key it goes on under are the
model's choice (log entry 53). So are the routes, and that a link which has fewer than 8 lanes loses one lane and keeps its
COST, and that a doubled COST stops at 0xFFFF (log entry 50). -/
def Sys2Proof.LinkSteps : Prop :=
  ∀ (s : State) (n : Nat), n < 12 →
    let l := s.link n
    let state := l.word.toNat % 4
    let lanes := l.word.toNat / 2 ^ 8 % 16
    let cost := l.word.toNat / 2 ^ 16 % 2 ^ 16
    (∀ p : Packet,
      let seq := l.seqs.get 0 p.otag.toNat
      let t := s.sendPacket n p
      ProgramsAlike s t ∧ (t.link n).word = l.word ∧
      (seq < 2 ^ 48 → (t.link n).sent = l.sent ++ [l.seal n seq p] ∧ (t.link n).seqs.get 0 p.otag.toNat = seq + 1 ∧
        (t.link n).waiting = l.waiting) ∧
      (2 ^ 48 ≤ seq → (t.link n).sent = l.sent ∧ (t.link n).waiting = l.waiting ++ [p])) ∧
    (∀ (f : Flit) (p : Packet), flitOpens f n l = some p →
      (f.dst = Config.deviceId → Leads (.flitReceive n f) s (fun t => ProgramsAlike s t ∧ (t.link n).taken = l.taken ++ [p] ∧
        (t.link n).failures.get 0 (flitNumber f) = 0 ∧ (t.link n).word = l.word ∧ (t.link n).sent = l.sent)) ∧
      (f.dst ≠ Config.deviceId → Leads (.flitReceive n f) s (fun t => ProgramsAlike s t ∧ (t.link n).taken = l.taken ∧
        ∀ m, s.linkTo f.dst.toNat = some m → (s.link m).seqs.get 0 p.otag.toNat < 2 ^ 48 →
          (t.link m).sent = (s.link m).sent ++
            [(s.link m).seal m ((s.link m).seqs.get 0 p.otag.toNat) { p with key := (s.link m).keyFor p }]))) ∧
    (∀ f : Flit, flitOpens f n l = none →
      let k := l.failures.get 0 (flitNumber f)
      Leads (.flitReceive n f) s (fun t =>
        t.telemetry.get 0 (0x100 + f.otag.toNat) = s.telemetry.get 0 (0x100 + f.otag.toNat) + 1 ∧
        (t.link n).taken = l.taken ∧
        (k < 7 → ProgramsAlike s t ∧ (t.link n).failures.get 0 (flitNumber f) = k + 1 ∧ (t.link n).seqs = l.seqs ∧
          (t.link n).word = l.word) ∧
        (7 ≤ k → state ≠ 0 → LinkShows t n 3 lanes cost))) ∧
    (state = 0 → exec (.linkRetrain n) s = .next s ∧ exec (.linkLaneLoss n) s = .next s) ∧
    (state ≠ 0 → Leads (.linkRetrain n) s (fun t => t.cores = s.cores ∧ LinkShows t n 3 lanes cost)) ∧
    (state ≠ 0 → lanes = 8 → Leads (.linkLaneLoss n) s (fun t => t.cores = s.cores ∧
      LinkShows t n 2 4 (min (2 * cost) 0xFFFF) ∧ (t.link n).window = l.window / 2 ∧ (t.link n).weight = l.weight / 2)) ∧
    (state ≠ 0 → lanes ≠ 8 → 2 ≤ lanes → Leads (.linkLaneLoss n) s (fun t => t.cores = s.cores ∧
      LinkShows t n (if state = 3 then 3 else 2) (lanes - 1) cost)) ∧
    (state ≠ 0 → lanes = 1 → OtherRoutes s n → Leads (.linkLaneLoss n) s (fun t => t.cores = s.cores ∧
      LinkShows t n 0 0 cost)) ∧
    (state = 3 → lanes ≠ 0 → Leads (.linkTrainingComplete n) s (fun t => t.cores = s.cores ∧
      LinkShows t n (if lanes = 8 then 1 else 2) lanes cost)) ∧
    (state = 3 → lanes = 0 → OtherRoutes s n → Leads (.linkTrainingComplete n) s (fun t => t.cores = s.cores ∧
      LinkShows t n 0 0 cost))

/-- R306: a core's sensors are sampled for the first time, or a multiple of 11,000 cycles after a sample. -/
def Sys2Proof.SampleDue (k : Core) (cyc : Nat) : Prop := k.nextSample = 0 ∨ ∃ j, cyc = k.nextSample + 11000 * j

/-- R60, R69, R265, R267, R305 to R308: layers, sensors, refresh, sleep and wake, migration and repair. A sample writes
TALLOW, a rise makes THERM pending and the refresh multiplier 2, and power over the cap throttles every cluster; a core
wakes with a sweep of 8,192 cycles. A new entry of the repair map is taken in at the end of a refresh window, and a bank
without a spare row left is migrated. What the firmware does in each of these is the model's reading where the spec leaves
it open (log entries 28, 34, 55, 57, 62, 74). -/
def Sys2Proof.PlatformSteps : Prop :=
  ∀ (s : State) (c : Nat), c < 192 →
    (∀ l, l < 6 → Leads (.layerPowerOn c l) s (fun t => t.mem = s.mem ∧ (t.core c).layers.get false l = true ∧
      (t.core c).ctxs = (s.core c).ctxs)) ∧
    (∀ l, l < 6 → (∀ b, b < 384 → (s.core c).physical b / 64 = l →
        (s.core c).physical b = b ∧ ((s.core c).bank b).launch = 0 ∧ b ∉ (s.core c).workingSet) →
      Leads (.layerPowerOff c l) s (fun t => t.mem = s.mem ∧ (t.core c).layers.get true l = false ∧
        (t.core c).ctxs = (s.core c).ctxs)) ∧
    (∀ l b, l < 6 → b < 384 → (s.core c).physical b / 64 = l → ((s.core c).bank b).launch ≠ 0 →
      exec (.layerPowerOff c l) s = .next s) ∧
    (∀ (milli : List Int) (t : Int) (watts level : Nat), milli.length = 6 → t ∈ milli → (∀ u ∈ milli, u ≤ t) →
      SampleDue (s.core c) s.cyc →
      Leads (.sensorSample c milli watts level) s (fun t' =>
        t'.mem = s.mem ∧ (t'.core c).temp = t ∧ (t'.core c).nextSample = s.cyc + 11000 ∧
        (t'.core c).tallow = (max 0 (min 255 (2 * (85000 - t) / 1000))).toNat ∧
        (85000 < t → (s.core c).temp ≤ 85000 → (t'.core c).rfshNext = 2 ∧
          ∀ x, x < 4 → (s.ctx c x).status ≠ .free → (s.ctx c x).tmask = true →
            (t'.ctx c x).events.therm = some (BitVec.ofNat 64 (t'.core c).tallow)) ∧
        (t ≤ 83000 → (t'.core c).rfshNext = 1) ∧
        (s.powerCap < watts → ∀ cl, cl < 48 → min level 3 ≤ (t'.cluster cl).throttle))) ∧
    (∀ milli watts level, milli.length ≠ 6 ∨ ¬SampleDue (s.core c) s.cyc →
      exec (.sensorSample c milli watts level) s = .next s) ∧
    Leads (.rfshChange c) s (fun t => t.mem = s.mem ∧ (t.core c).ctxs = (s.core c).ctxs ∧
      (t.core c).rfsh = (if s.cyc % 68750 = 0 then (s.core c).rfshNext else (s.core c).rfsh) ∧
      (∀ r, s.cyc % 68750 = 0 → (s.core c).rfsh ≠ (s.core c).rfshNext →
        (t.core c).rfshIn r = if r < s.cyc then (s.core c).rfsh else (s.core c).rfshNext) ∧
      ∀ d, d ≠ c → t.core d = s.core d) ∧
    (∀ b, b < 384 → exec (.refreshWindow c b) s = .next s) ∧
    (∀ b phys, b < 384 → phys < 384 →
      let on := fun p => (s.core c).layers.get (decide (p / 64 = 0)) (p / 64) = true
      let ends := 0 < s.cyc ∧ (s.core c).refreshEnd b (s.cyc - 1) 1 = some s.cyc
      (s.mayMigrate c b = true → on phys → on ((s.core c).physical b) → ends →
        (∀ d, d < 384 → (s.core c).physical d = phys → ((s.core c).bank d).busyUntil ≤ s.cyc) →
        Leads (.bankMigration c b phys) s (fun t => t.mem = s.mem ∧
          (t.core c).physical b = phys ∧
          ∀ a, a ≠ b →
            ((s.core c).physical a ≠ phys → (t.core c).physical a = (s.core c).physical a) ∧
            (a < 384 → (∀ d, d < 384 → (s.core c).physical d = phys → d = a) →
              (s.core c).physical a = phys → (t.core c).physical a = (s.core c).physical b))) ∧
      (s.mayMigrate c b = true ↔ s.powerCap < 2800 ∨ (∀ x, x < 4 → (s.ctx c x).status = .free) ∨
        16 ≤ (s.repair.filter (sharesSpares (.row c b 0 0))).length) ∧
      (s.mayMigrate c b = false ∨ ¬ on phys ∨ ¬ on ((s.core c).physical b) → exec (.bankMigration c b phys) s = .next s) ∧
      (¬ ends → Leads (.bankMigration c b phys) s (fun t => t.mem = s.mem ∧ t.cores = s.cores))) ∧
    (∀ e, entryCore e = c →
      let spare := (s.repair.filter (sharesSpares e)).length < entrySpares e
      let ends := ∃ b ∈ repairBanks e, 0 < s.cyc ∧ (s.core c).refreshEnd b (s.cyc - 1) 1 = some s.cyc
      (spare → ends → exec (.repairEntrySwitch e) s = .next { s with repair := s.repair ++ [e] }) ∧
      (spare → ¬ ends → Leads (.repairEntrySwitch e) s (fun t => t.mem = s.mem ∧ t.cores = s.cores ∧ t.repair = s.repair ∧
        ∃ at_, s.schedule at_ (.repairEntrySwitch e) = t)) ∧
      (¬ spare → Leads (.repairEntrySwitch e) s (fun t => t.mem = s.mem ∧ t.cores = s.cores ∧ t.repair = s.repair ∧
        ∀ d b r n, e = .row d b r n → ∃ phys, phys < 384 ∧ ({ s with draws := s.draws + 1 } : State).schedule s.cyc (.bankMigration c b phys) = t))) ∧
    Leads (.coreSleep c) s (fun t => t.mem = s.mem ∧
      t.core c = if s.maySleep c = true then { s.core c with asleep := true } else s.core c) ∧
    ((s.core c).trapQ ≠ [] ∨ (s.core c).msgQ ≠ [] →
      Leads (.coreWake c) s (fun t => t.mem = s.mem ∧ (t.core c).asleep = false ∧ (t.core c).ctxs = (s.core c).ctxs ∧
        (t.core c).awakeFrom = if (s.core c).asleep = true then s.cyc + 8192 else (s.core c).awakeFrom)) ∧
    ((s.core c).trapQ = [] → (s.core c).msgQ = [] → exec (.coreWake c) s = .next s)

/-- Flits, link training, lane loss and retraining (R311 to R313); layers, sensors (TALLOW, and on a rise THERM and
the refresh multiplier), throttling for power, refresh, sleep and wake, migration and repair (R60, R69, R265, R267,
R305 to R308). What a layer that is off holds (log entry 28), the module's power (log entry 34), routes, a link that
has fewer than 8 lanes and loses one, and the limit of a doubled COST at 0xFFFF (log entry 50), flits (log entry 53),
the working set and migration (log entry 55), the inputs of firmware (log entry 57), a rise (log entry 62) and when
the firmware migrates a bank or takes in a repair (log entry 74) are the model's readings. -/
def Obligations.LinksAndPlatform : Prop :=
  LinkSteps ∧ PlatformSteps

/-! ## Steps of the part: contexts (R14, R17, R20 to R29, R106, R139, R140, R231, R247, R251 to R255, R290) -/

/-- Everything of a state but one context of one core is as it was, apart from what is scheduled. -/
def Sys2Proof.OnlyCtx (s t : State) (c x : Nat) : Prop :=
  t.mem = s.mem ∧ t.marks = s.marks ∧ t.cyc = s.cyc ∧ t.launches = s.launches ∧
    (∀ d, d ≠ c → t.core d = s.core d) ∧ (∀ y, y ≠ x → t.ctx c y = s.ctx c y) ∧ (t.core c).tiles = (s.core c).tiles

/-- R29, R160, R187: a wait that has lasted 1,048,576 cycles ends in WDOG. For a context that is a boundary event; a run
or a drain ends with the status. -/
def Sys2Proof.WatchdogSteps : Prop :=
  ∀ (s : State) (c x : Nat), c < 192 → x < 5 →
    (∀ w since, (s.ctx c x).waitOn = some (w, since) → since + 4 * 1048576 ≤ s.watchAt c s.cyc →
      Leads (.watchdogExpiry c x) s (fun t => OnlyCtx s t c x ∧
        t.ctx c x = { s.ctx c x with
          waitOn := none, events := { (s.ctx c x).events with wdog := some (BitVec.ofNat 64 w.code) } })) ∧
    (∀ w since, (s.ctx c x).waitOn = some (w, since) → s.watchAt c s.cyc < since + 4 * 1048576 →
      exec (.watchdogExpiry c x) s = .next s) ∧
    (∀ r, (s.core c).runNow = some r → isRun r.cmd = true → r.ending = false → eSrc r.cmd.f ≠ 0 →
      r.waitSince + 4 * 1048576 ≤ s.watchAt c s.cyc → Leads (.engineWatchdogExpiry c .matrixRun) s (fun t =>
        (t.core c).ctxs = (s.core c).ctxs ∧ t.mem = s.mem ∧
        (t.core c).runNow = some { r with stop := some { pos := 0, status := 0x10, addr := 0 }, ending := true })) ∧
    (∀ d, (s.core c).drainNow = some d → d.ending = false → d.waitSince + 4 * 1048576 ≤ s.watchAt c s.cyc →
      Leads (.engineWatchdogExpiry c .ppeDrain) s (fun t => (t.core c).ctxs = (s.core c).ctxs ∧ t.mem = s.mem ∧
        (t.core c).drainNow =
          some { d with stop := some { pos := 0, status := 0x10, addr := 0 }, todo := [], ending := true }))

/-- R25, R273, R274: a CLAIM of a launch is answered with its next index, or with −1 when every index has been given; a
launch that replays answers it with the logged index when its turn has come, and waits before. The answer lands in front
of the next bundle. Memory changes only where the launch records. -/
def Sys2Proof.ClaimAnswers : Prop :=
  ∀ (s : State) (c x : Nat) (l : Launch) (w : ClaimWait), c < 192 → x < 5 →
    s.launchOf (s.ctx c x).launch = some l → (s.ctx c x).claimWait = some w → (s.ctx c x).status = .running →
    let answer := fun index : Word =>
      ({ dest := .creg w.dest, val := (index ^^^ w.flip).setWidth 1024, mask := BitVec.allOnes 32, rem := 1, flg := 0,
         mark := .clean, addr := 0 } : Pending)
    let answered := fun (t : State) (index : Word) =>
      (t.ctx c x).claimWait = none ∧ (t.ctx c x).claims = (s.ctx c x).claims ++ [index] ∧
        (t.ctx c x).pwq = (s.ctx c x).pwq ++ [answer index] ∧ (t.ctx c x).c = (s.ctx c x).c
    (l.replay = false → Leads (.claimAnswer c x) s (fun t =>
      answered t (if l.claims < l.wcnt then BitVec.ofNat 64 l.claims else BitVec.ofInt 64 (-1)) ∧
      (l.recording = false → t.mem = s.mem) ∧
      (t.launchOf l.lidx).map (fun m => m.claims) = some (if l.claims < l.wcnt then l.claims + 1 else l.claims))) ∧
    (l.replay = true →
      (∀ i n, s.loggedClaim l (s.ctx c x).vcore x = some (i, n) →
        Leads (.claimAnswer c x) s (fun t => answered t (BitVec.ofNat 64 i))) ∧
      (s.loggedClaim l (s.ctx c x).vcore x = none → Leads (.claimAnswer c x) s (fun t =>
        t.mem = s.mem ∧ t.cores = s.cores ∧ ∃ due, s.cyc < due ∧ (due, Instr.claimAnswer c x) ∈ t.calendar)))

/-- R106, R202, Table 10.2: a post that is performed sets TARGET and arms the word; when COUNT has reached TARGET the
generation advances, COUNT falls by TARGET, the word is no longer armed, and OVER is set where bytes are left; SWAIT and
SWAITANY see the advance from the next cycle on. ERR, POISON, REVOKED and STATUS stay. A post waits for the refresh
window of its word's bank. Stated for a queue that holds the post alone, and a word of no launch or of one that neither
records nor replays. -/
def Sys2Proof.PostsPerformed : Prop :=
  ∀ (s : State) (c x slot : Nat) (a : Access) (v : BitVec 32), c < 192 → x < 5 → slot < 2 ^ 25 →
    (s.ctx c x).out = [a] → a.kind = .post (spAddr c 0 + 16 * slot) v →
    (∀ due, (s.core c).refreshEnd (slot / 65536) s.cyc 1 = some due → Leads (.syncPostPerform c x a.num) s (fun t =>
      t.mem = s.mem ∧ t.cores = s.cores ∧ (due, Instr.syncPostPerform c x a.num) ∈ t.calendar)) ∧
    ((s.core c).refreshEnd (slot / 65536) s.cyc 1 = none →
      (∀ l vc y, s.wordLaunch c slot = some (l, vc, y) → l.recording = false ∧ l.replay = false) →
      let old := s.syncWord c slot
      let count := old % 2 ^ 32
      Leads (.syncPostPerform c x a.num) s (fun t =>
        let new := t.syncWord c slot
        (t.ctx c x).out = [] ∧ new / 2 ^ 32 % 2 ^ 32 = v.toNat ∧
        (if v.toNat ≤ count then
          new % 2 ^ 32 = count - v.toNat ∧ new / 2 ^ 64 % 2 ^ 16 = (old / 2 ^ 64 % 2 ^ 16 + 1) % 2 ^ 16 ∧
            new.testBit 80 = false ∧ new.testBit 81 = (old.testBit 81 || decide (count ≠ v.toNat)) ∧
            (slot, s.cyc) ∈ (t.core c).advances
        else new % 2 ^ 32 = count ∧ new / 2 ^ 64 % 2 ^ 16 = old / 2 ^ 64 % 2 ^ 16 ∧ new.testBit 80 = true ∧
          new.testBit 81 = old.testBit 81) ∧
        (∀ i, 82 ≤ i → i < 128 → new.testBit i = old.testBit i) ∧
        ∀ b, b < spAddr c 0 + 16 * slot ∨ spAddr c 0 + 16 * slot + 16 ≤ b → t.mem.read b = s.mem.read b))

/-- R20, R21, R107: entries of a release enter the outbound queue in their order while it has room for 32 classed accesses,
behind those it holds; the others wait, in their order. Stated for stores and posts that go through no peer window. -/
def Sys2Proof.ReleaseSteps : Prop :=
  ∀ (s : State) (c x : Nat), c < 192 → x < 5 →
    (∀ h ∈ (s.ctx c x).releasing, ((∃ v, h.kind = .storeLine v) ∨ (∃ v, h.kind = .storeWord v) ∨ ∃ w v, h.kind = .post w v) ∧
      ∀ w, placeOf h.pa ≠ .window w) →
    (∀ a ∈ (s.ctx c x).out, ∀ w, placeOf a.pa ≠ .window w) →
    let room := 32 - classedCount (s.ctx c x).out
    let classed := fun u : Ctx => (u.out.filter (fun a => !a.kind.isFence)).map (fun a => (a.num, a.oc, a.kind, a.va, a.pa))
    Leads (.srqEntryEnqueue c x) s (fun t => t.mem = s.mem ∧
      classed (t.ctx c x) = classed (s.ctx c x) ++
        ((s.ctx c x).releasing.take room).map (fun h => (h.num, h.oc, h.kind, h.va, h.pa)) ∧
      (t.ctx c x).releasing = (s.ctx c x).releasing.drop room ∧ (t.ctx c x).c = (s.ctx c x).c)

/-- A watched wait ends in WDOG (R29, R160, R187), a CLAIM is answered (R25, R274), a post is performed on its word
(R106, R202), and released entries enter the outbound queue in their order while there is room (R20, R21). -/
def Obligations.WaitsEndAndReleases : Prop :=
  WatchdogSteps ∧ ClaimAnswers ∧ PostsPerformed ∧ ReleaseSteps

/-- R22: at the end of a rewind the checkpoint is restored: the bundle address, pending results, loop, predicates p8 to
p15, descriptors, tokens, sync slots, operand ports, escape count and the positions of its ports, from which a read port
fetches again; SEGTRY rises, the discarded run's SRQ is empty, and no line that its drains pushed stands in a chain FIFO
(R192); what is written anew holds good parity (R262, log entry 49); c registers and tiles are left as they are. -/
def Obligations.RewindRestores : Prop :=
  ∀ (s : State) (c x : Nat) (r : Rewind) (q : Checkpoint) (n : Nat), c < 192 → x < 5 →
    (s.ctx c x).rewind = some r → r.settled = some n → (s.ctx c x).ckpt = some q →
    Leads (.rewindResume c x) s (fun t => OnlyCtx s t c x ∧
      let v := s.ctx c x
      let u := t.ctx c x
      u.rewind = none ∧ u.pc = q.pc ∧ u.pwq = q.pwq ∧ u.loop = q.loop ∧ u.redirect = q.redirect ∧ u.d = q.d ∧
      u.tok = q.tok ∧ u.y = q.y ∧ u.sg = q.sg ∧ u.yptr = q.yptr ∧ u.tan = q.tan ∧ u.ppe = q.ppe ∧ u.escn = q.escn ∧
      u.srq = [] ∧ u.segtry = (if r.fresh = true then 0 else v.segtry + 1) ∧
      u.p.toNat / 256 = q.preds.toNat / 256 ∧ u.p.toNat % 256 = v.p.toNat % 256 ∧
      u.c = v.c ∧ u.q = v.q ∧ u.e = v.e ∧ u.flags = v.flags ∧ u.segid = v.segid ∧
      (∀ n, n < 16 → (t.core c).bad (locD x n) = false) ∧ (∀ n, n < 8 → (t.core c).bad (locY x n) = false) ∧
      (∀ m e, (s.port c m).holder = some x → q.ports.find? (fun e => decide (e.port = m)) = some e →
        (t.port c m).pos = e.pos ∧ (t.port c m).fault = e.fault ∧
        (m < 6 → (t.port c m).fifo = [] ∧ (t.port c m).coming = [] ∧ (t.port c m).moved = e.moved ∧
          (t.port c m).done = e.done)) ∧
      ∀ m i, i ∈ (t.fifo (c / 4) m).pushers → ¬(i.1 = c ∧ i.2 ∈ v.segDrains))

/-- R140, R231, R232, R290, R291, R295, R296: a global load writes its destination when it returns, and one that was served
from writes at its cluster's switch when these have been passed on, or that one of them serves only in part (log entry 68); a
load through a revoked window returns at once, and its destination is poisoned; a write to HBM is visible to its cluster
first and then performed; a walk fills the TLB or finds a fault, and the leaf of a walk begun before a TLBI is not
kept. -/
def Obligations.GlobalSteps : Prop :=
  ∀ (s : State) (c x : Nat), c < 192 → x < 5 →
    (∀ a n, (s.ctx c x).out = [a] → a.kind = .loadReg n → a.discard = false → a.served = none → n ≠ 0 →
      (s.ctx c x).loop.active = false → s.revoked a.pa = false → s.flitsStopped a.pa = false →
      (s.ctx c x).status = .running →
      (s.switchWrites (c / 4) a.pa 8 = [] → loadMark s (c / 4) a.pa 8 = .clean →
        Leads (.globalLoadReturn c x a.num) s (fun t => t.mem = s.mem ∧ (t.ctx c x).out = [] ∧
          (t.ctx c x).readC n = BitVec.ofNat 64 (s.readSeen (c / 4) a.pa 8) ∧
          (∀ m, m ≠ n → (t.ctx c x).readC m = (s.ctx c x).readC m) ∧ (t.ctx c x).dirtyRegs = (s.ctx c x).dirtyRegs ∧
          (∀ e ∈ (t.ctx c x).busyRegs, e.1 = n → e.2 ≠ 0))) ∧
      (s.mixedAt (c / 4) a.pa 8 = true → Leads (.globalLoadReturn c x a.num) s (fun t => t.mem = s.mem ∧
        t.cores = s.cores ∧ ∃ due, s.cyc < due ∧ (due, Instr.globalLoadReturn c x a.num) ∈ t.calendar)) ∧
      (s.switchWrites (c / 4) a.pa 8 ≠ [] → s.mixedAt (c / 4) a.pa 8 = false → Leads (.globalLoadReturn c x a.num) s (fun t => t.mem = s.mem ∧
        (t.ctx c x).c = (s.ctx c x).c ∧ (∃ due, s.cyc < due ∧ (due, Instr.globalLoadReturn c x a.num) ∈ t.calendar) ∧
        ∃ r, (t.ctx c x).out = [{ a with served := some r }] ∧ r.val = s.readSeen (c / 4) a.pa 8 ∧
          r.after = (s.switchWrites (c / 4) a.pa 8).map (fun g => g.id)))) ∧
    (∀ a o tl r, (s.ctx c x).out = [a] → a.kind = .loadTile o → a.discard = false → a.served = none →
      operandOf o = .row tl r → s.revoked a.pa = false → s.flitsStopped a.pa = false → s.switchWrites (c / 4) a.pa 128 = [] →
      loadMark s (c / 4) a.pa 128 = .clean → (s.ctx c x).status = .running →
      Leads (.globalLoadReturn c x a.num) s (fun t => t.mem = s.mem ∧ (t.ctx c x).out = [] ∧
        (t.core c).tileRow ((s.ctx c x).tileBase + tl) r = BitVec.ofNat 1024 (s.readSeen (c / 4) a.pa 128) ∧
        (t.ctx c x).c = (s.ctx c x).c)) ∧
    (∀ a n, (s.ctx c x).out = [a] → a.kind = .loadReg n → a.discard = false → s.revoked a.pa = true →
      Leads (.globalLoadReturn c x a.num) s (fun t => t.mem = s.mem ∧ (t.ctx c x).out = [] ∧
        (t.ctx c x).dirtyRegs = (s.ctx c x).dirtyRegs ++ [(n, .poison, a.va)] ∧
        ∀ m, m ≠ n → (t.ctx c x).readC m = (s.ctx c x).readC m)) ∧
    (∀ g, s.writes = [g] → g.core = c → g.ctx = x → placeOf g.pa = .hbm → g.level = none →
      Leads (.writePerformed c x g.id .cluster) s (fun t => t.mem = s.mem ∧
        t.writes.find? (fun h => decide (h.id = g.id)) = some { g with level := some .cluster })) ∧
    (∀ g, s.writes = [g] → g.core = c → g.ctx = x → placeOf g.pa = .hbm → g.level = some .cluster →
      Leads (.writePerformed c x g.id .system) s (fun t => Stored s.mem t.mem g.pa g.bytes)) ∧
    ∀ cl n w base size e, cl < 48 → (s.cluster cl).walks.at? n = some w → s.rootEnabled w.part = true →
      (s.ctx w.core w.ctx).walk = some n → walkTables s.mem 4 w.root w.va = some (base, size, e) →
      Leads (.translationWalkDone cl n) s (fun t => t.mem = s.mem ∧ (t.cluster cl).walks.at? n = none ∧
        (t.ctx w.core w.ctx).walk = none ∧
        if w.stale = true then (t.cluster cl).tlb = (s.cluster cl).tlb ∧
          (t.ctx w.core w.ctx).walkFault = (s.ctx w.core w.ctx).walkFault
        else if (w.read = true → e.getLsbD 2 = true) ∧ (w.write = true → e.getLsbD 3 = true) then
          (t.cluster cl).tlb.head? = some { part := w.part, base := base, size := size, leaf := e } ∧
            (t.ctx w.core w.ctx).walkFault = (s.ctx w.core w.ctx).walkFault
        else (t.ctx w.core w.ctx).walkFault = some w.va)

/-- R10, R247: a supervisor fault is recorded, and context 4 starts again at its entry bundle, with its own registers as at
entry and the checkpoint of its segment taken there; the privileged registers and the queues of traps and messages are
left as they are. -/
def Obligations.SupervisorFaults : Prop :=
  ∀ (s : State) (c : Nat) (r : TrapRecord), c < 192 → (s.ctx c 4).status = .trapped r →
    Leads (.supervisorFault c) s (fun t =>
      t.mem = s.mem ∧ (∀ d, d ≠ c → t.core d = s.core d) ∧ (∀ y, y ≠ 4 → t.ctx c y = s.ctx c y) ∧
      (t.core c).supFaults = (s.core c).supFaults ++ [r] ∧
      (t.ctx c 4).status = .running ∧ (t.ctx c 4).pc = (s.core c).supEntry ∧ (t.ctx c 4).pwq = [] ∧
      (∀ n, (t.ctx c 4).readC n = 0) ∧ (t.ctx c 4).loop.active = false ∧ (t.ctx c 4).srq = [] ∧
      (∀ k, 2 ≤ k → k < 16 → (t.ctx c 4).pred k = decide (k % 2 = 1)) ∧
      (t.ctx c 4).segid = 0 ∧ (t.ctx c 4).segtry = 0 ∧
      (∃ q, (t.ctx c 4).ckpt = some q ∧ q.pc = (s.core c).supEntry ∧ q.pwq = []) ∧
      (t.core c).trapQ = (s.core c).trapQ ∧ (t.core c).msgQ = (s.core c).msgQ ∧
      (t.core c).trapinfo = (s.core c).trapinfo ∧ (t.core c).tpc = (s.core c).tpc ∧
      (t.core c).tslot = (s.core c).tslot ∧ (t.core c).tval = (s.core c).tval ∧ (t.core c).snap = (s.core c).snap ∧
      (t.core c).dbg = (s.core c).dbg)

/-! ## Taking a trap, and the return (R249 to R256) -/

/-- R251, R253, R254: a trap of a user context ends its part in issue; once its accesses have been answered its record
is being written. R254: the record holds the context, and then the trap enters the queue behind those before it. That the
record shows its tokens and its port positions as they were at the trap (log entry 21) and the ports of other contexts as they
stand (log entry 82) is the model's reading. -/
def Obligations.TrapsAreTaken : Prop :=
  (∀ (s : State) (c x : Nat) (cause : Cause) (st : BitVec 8) (async more : Bool) (fault done : BitVec 8) (val : Word),
    c < 192 → x < 4 →
    let t := s.raise c x cause st async more fault done val
    OnlyCtx s t c x ∧
      (∃ r, (t.ctx c x).status = .trapped r ∧ r.ctx = x ∧ r.cause = cause ∧ r.status = st ∧ r.async = async ∧
        r.more = more ∧ r.tpc = (s.ctx c x).pc ∧ r.faultMask = fault ∧ r.doneMask = (s.ctx c x).skip ||| done ∧
        r.tval = val ∧ r.taken = s.cyc ∧ r.written = false) ∧
      (t.ctx c x).c = (s.ctx c x).c ∧ (t.ctx c x).pwq = (s.ctx c x).pwq ∧ (t.ctx c x).pc = (s.ctx c x).pc ∧
      (t.ctx c x).trapTok = (s.ctx c x).tok ∧ (t.ctx c x).trapPorts = (s.core c).portPositions x ∧
      ((s.ctx c x).unanswered = false → (t.ctx c x).trapRdv = (s.ctx c x).arrival ∧
        ∃ due, s.cyc < due ∧ (due, Instr.snapshotRecordWrite c x) ∈ t.calendar)) ∧
  ∀ (s : State) (c x : Nat) (r : TrapRecord), c < 192 → x < 4 → (s.ctx c x).status = .trapped r → r.ctx = x →
    (∀ y, y < 4 → y ≠ x → ∀ q, (s.ctx c y).status ≠ .trapped q) →
    Leads (.snapshotRecordWrite c x) s (fun t =>
      (t.ctx c x).status = .queued ∧ (t.core c).trapQ = (s.core c).trapQ ++ [{ r with written := true }] ∧
      (∀ i, i < 29 + (s.ctx c x).pwq.length →
        t.recordAt c x i = recordLine (s.ctx c x) (s.core c).ports r.faultMask r.doneMask i) ∧
      (t.ctx c x).c = (s.ctx c x).c ∧ ∀ y, y ≠ x → t.ctx c y = s.ctx c y)

/-- R252: WAITI, as it commits, takes the oldest trap before any message: TRAPINFO, TPC, TSLOT and TVAL read it, and
SNAP.CTX names its context; without a trap it takes the oldest message. An MTS to TRAPINFO parks the context of the trap. -/
def Sys2Proof.WaitiLoadsTraps : Prop :=
  ∀ (s : State) (c : Nat),
    (∀ r rs, (s.core c).trapQ = r :: rs → r.ctx < 4 → r.tpc < 8192 →
      let k := (s.apply c 4 .waiti).core c
      k.trapQ = rs ∧ k.msgQ = (s.core c).msgQ ∧ (k.ctx r.ctx).status = .current ∧ k.tpc.toNat = r.tpc ∧
      k.tval = r.tval ∧ k.tslot.toNat = r.faultMask.toNat + 256 * r.doneMask.toNat ∧
      k.trapinfo.toNat = r.cause.code.toNat + 2 ^ 8 * r.ctx + 2 ^ 16 * r.status.toNat +
        (if r.more = true then 2 ^ 24 else 0) + (if r.async = true then 2 ^ 25 else 0) ∧
      fieldOf k.snap 24 3 = r.ctx ∧ fieldOf k.snap 0 22 = fieldOf (s.core c).snap 0 22) ∧
    (∀ m ms, (s.core c).trapQ = [] → (s.core c).msgQ = m :: ms →
      let k := (s.apply c 4 .waiti).core c
      k.msgQ = ms ∧ k.trapinfo = 0x400_0000 ∧ k.tval = m ∧ k.tpc = 0 ∧ k.tslot = 0) ∧
    ∀ x, x < 4 → (s.ctx c x).status = .current → (∀ y, y < x → (s.ctx c y).status ≠ .current) →
      let k := (s.writePriv c 0x20 0).core c
      (k.ctx x).status = .parked ∧ k.trapinfo = 0 ∧ k.tpc = 0 ∧ k.tslot = 0 ∧ k.tval = 0

/-- R255: TRET y restores what the record of the context holds, in the layout of Table 15.6; the FLAGS of a descriptor's
levels 1 to 5 are stored as 0 (R68), and a register written anew holds good parity (R262, log entry 49). A record with ABORT retires the context. A restored context issues again once the
record has been read. -/
def Sys2Proof.TretRestores : Prop :=
  (∀ (s : State) (c y : Nat), y < 4 →
    let line := s.recordAt c y
    let u := (s.apply c 4 (.tret y)).ctx c y
    let shown := fun (w : Nat) (v : Word) => if w < 3 then v else v &&& 0xFFFFFFFFFFFF
    ((line 0).getLsbD 50 = true → u.status = .retiring true ∧ u.srq = [] ∧ u.c = (s.ctx c y).c) ∧
    ((line 0).getLsbD 50 = false →
      u.status = .restoring ∧ u.pc = (line 0).toNat % 2 ^ 13 ∧ u.flags = (line 0).extractLsb' 384 5 ∧
      u.pwq.length = (line 0).toNat / 2 ^ 80 % 2 ^ 8 ∧
      (∀ k, 2 ≤ k → k < 16 → u.pred k = (line 0).getLsbD (64 + k)) ∧
      (∀ n, n < 64 → u.c.get 0 n = (line (2 + n / 16)).extractLsb' (64 * (n % 16)) 64) ∧
      (∀ n w, n < 16 → w < 8 → (u.readD n).extractLsb' (64 * w) 64 =
        shown w ((line (6 + n / 2)).extractLsb' (512 * (n % 2) + 64 * w) 64)) ∧
      (∀ n, n < 16 → u.readE n = (line (14 + n / 4)).extractLsb' (256 * (n % 4)) 256) ∧
      (∀ n, 1 ≤ n → n < 8 → u.readQ n = (line 0).extractLsb' (128 + 32 * n) 32) ∧
      (∀ n, n < 64 → ((s.apply c 4 (.tret y)).core c).bad (locReg y n) = false) ∧
      (u.rewind.isSome = true ↔ (line 0).getLsbD 49 = true ∨ (s.ctx c y).rewind.isSome = true) ∧
      (∃ due, s.cyc < due ∧ (due, Instr.contextRestoreDone c y) ∈ (s.apply c 4 (.tret y)).calendar) ∧
      ((s.ctx c y).status = .current → ((s.apply c 4 (.tret y)).core c).trapinfo = 0))) ∧
  ∀ (s : State) (c x : Nat), c < 192 → x < 5 → (s.ctx c x).status = .restoring → (s.ctx c x).rewind = none →
    Leads (.contextRestoreDone c x) s (fun t => OnlyCtx s t c x ∧ t.ctx c x = { s.ctx c x with status := .running })

/-- WAITI takes the oldest trap before any message into TRAPINFO, TPC, TSLOT, TVAL and SNAP.CTX, an MTS to TRAPINFO
parks it (R252), and TRET restores what the record of the context holds (R255); that a register written anew holds
good parity is the model's reading (log entry 49). -/
def Obligations.TrapHandling : Prop :=
  WaitiLoadsTraps ∧ TretRestores

/-! ## Steps of the part: ports and engines (R43, R63 to R66, R155 to R168, R185 to R193, R204 to R226) -/

/-- A line of a core's scratchpad that an access of this cycle reads or writes is free (R48, R49, R60, R61). -/
def Sys2Proof.LineFree (s : State) (c flat : Nat) : Prop := (s.core c).lineFree flat s.cyc = true
/-- The load latency of a line (Table 3.2). -/
def Sys2Proof.latency (flat : Nat) : Nat := if flat % 8192 < 0x400 then 6 else 18
/-- One line of a core's scratchpad has been written, and no other byte of memory. -/
def Sys2Proof.LineStored (s t : State) (c flat : Nat) (v : Line) : Prop :=
  Stored s.mem t.mem (spAddr c flat) (bytesOf 128 v.toNat)
/-- A token that a command produces is complete with a status, seen from the next cycle on. -/
def Sys2Proof.TokenDone (s t : State) (c x cmd : Nat) (status : BitVec 8) (addr : Nat) : Prop :=
  ∀ k, ((s.ctx c x).token k).pend = true → ((s.ctx c x).token k).cmd = cmd →
    ((t.ctx c x).token k).pend = false ∧ ((t.ctx c x).token k).status = status ∧ ((t.ctx c x).token k).addr = addr ∧
      ((t.ctx c x).token k).since = s.cyc + 1
/-- The status of a fault at which a command stopped, 0 without one, and its address. -/
def Sys2Proof.stopStatus (q : Option Stop) : BitVec 8 := (q.map (fun r => r.status)).getD 0
def Sys2Proof.stopAddr (q : Option Stop) : Nat := (q.map (fun r => r.addr)).getD 0
/-- The status that a mark gives an engine that reads its line (R166, R219). -/
def Sys2Proof.markCode : Mark → BitVec 8
  | .poison => 0x07
  | .uncorrectable _ => 0x09
  | .clean => 0
  | .group => 0

/-- R63 to R66: a read port fetches its next line when the bank is ready, and stops at a fault; lines that have arrived
enter its FIFO; a write port writes its next line, and is done once its last write has been performed. A bank that is
still its holder's is waited for (R144). Stated for a port lent to no command. -/
def Obligations.PortSteps : Prop :=
  ∀ (s : State) (c n : Nat), c < 192 →
    (n < 6 →
      let p := s.port c n
      let flat := Descr.flatAt p.cfg p.walked
      p.lent = none →
      (p.coming = [] → Descr.exp p.cfg = false → p.running = true → p.fault = none → p.walked < Descr.product p.cfg →
        p.fifo.length < 16 →
        ((s.core c).portAccess 2 n p.holder flat = .ready → LineFree s c flat.toNat → s.readMark c flat.toNat = .clean →
          Leads (.readPortFetch c n) s (fun t => t.mem = s.mem ∧ (t.port c n).walked = p.walked + 1 ∧
            (t.port c n).fifo = p.fifo ∧
            (t.port c n).coming = [(s.cyc + latency flat.toNat, { val := s.readFlat c flat.toNat, flg := 0 })])) ∧
        ((s.core c).portAccess 2 n p.holder flat = .waits → Leads (.readPortFetch c n) s (fun t => t.mem = s.mem ∧
          t.port c n = p)) ∧
        ∀ cause, (s.core c).portAccess 2 n p.holder flat = .faults cause →
          Leads (.readPortFetch c n) s (fun t => t.mem = s.mem ∧ (t.port c n).walked = p.walked ∧
            (t.port c n).fifo = p.fifo ∧ (t.port c n).fault = some (cause, wrapOf 64 flat) ∧
            (t.port c n).faultAt = p.walked)) ∧
      (∀ l due, p.coming = [(due, l)] → due ≤ s.cyc → p.running = false →
        Leads (.readPortFetch c n) s (fun t => t.mem = s.mem ∧ (t.port c n).coming = [] ∧
          (t.port c n).fifo = p.fifo ++ [l]))) ∧
    (n < 4 →
      let p := s.port c (6 + n)
      let flat := Descr.flatAt p.cfg p.walked
      p.lent = none → p.fault = none →
      (∀ l ls, p.fifo = l :: ls →
        ((s.core c).portAccess 3 n p.holder flat = .ready → LineFree s c flat.toNat →
          Leads (.writePortWrite c n) s (fun t => LineStored s t c flat.toNat l.val ∧ (t.port c (6 + n)).fifo = ls ∧
            (t.port c (6 + n)).walked = p.walked + 1 ∧ (t.port c (6 + n)).moved = p.moved + 1 ∧
            (t.port c (6 + n)).performed = s.cyc + busyFor flat.toNat)) ∧
        ((s.core c).portAccess 3 n p.holder flat = .waits → exec (.writePortWrite c n) s = .next s) ∧
        ∀ cause, (s.core c).portAccess 3 n p.holder flat = .faults cause →
          Leads (.writePortWrite c n) s (fun t => t.mem = s.mem ∧ (t.port c (6 + n)).fifo = p.fifo ∧
            (t.port c (6 + n)).fault = some (cause, wrapOf 64 flat))) ∧
      (p.fifo = [] → p.running = true → p.done = false → p.walked = Descr.product p.cfg → p.performed ≤ s.cyc →
        Leads (.writePortWrite c n) s (fun t => t.mem = s.mem ∧ (t.port c (6 + n)).done = true)))

/-- R150: what a step makes of a column of a buffer: FP8, BF16 and FP32 weights as the buffer's lines hold them, and the
codes and values of a grouped one (Table 8.7). -/
def Sys2Proof.ColumnSteps : Prop :=
  ∀ (b : Buffer) (xs : List Machine.Num) (n acc : Nat),
    let at_ := fun (w row : Nat) (k : Nat) => elemOf w (b.lines.get 0 (row * k + n / (1024 / w))) (n % (1024 / w))
    (∀ e5, b.goodShape = .fp8 e5 → b.step xs n acc =
      stepFp8 xs ((List.range 128).map (fun k => (if e5 = true then e5m2 else e4m3).decode (at_ 8 2 k))) acc) ∧
    (b.goodShape = .bf16 → b.step xs n acc =
      stepTree 6 xs ((List.range 64).map (fun k => bf16.decode (at_ 16 4 k))) acc) ∧
    (b.goodShape = .fp32 → b.step xs n acc =
      stepTree 5 xs ((List.range 32).map (fun k => fp32.decode (at_ 32 2 k))) acc) ∧
    (b.goodShape = .grouped → ∃ values : Nat → Machine.Num,
      b.step xs n acc = stepGrouped xs ((List.range 512).map (fun k => elemOf 4 (b.lines.get 0 k) n)) values acc ∧
      ∀ g, g < 16 → values g = if g < b.nval then
        bf16.decode (elemOf 16 (b.lines.get 0 (512 + 4 * g + n / 64)) (n % 64)) else .fin false 0 0)

/-- R44: a step of a tree forms each product exactly and rounds it to FP32, sums neighbours level by level with one rounding
each, and adds the root to the accumulator with one more; all to nearest even. -/
def Sys2Proof.TreeStep : Prop :=
  ∀ (levels : Nat) (xs ws : List Machine.Num) (acc : Nat), xs.length = 2 ^ levels → ws.length = 2 ^ levels →
    let add := fun x y : Nat => (fp32.round 0 false (Machine.Num.add 0 (num32 x) (num32 y)).1).1
    ∃ node : Nat → Nat → Nat,
      (∀ i x w, xs[i]? = some x → ws[i]? = some w → node 0 i = (fp32.round 0 false (Machine.Num.mul x w).1).1) ∧
      (∀ l j, l < levels → j < 2 ^ (levels - l - 1) → node (l + 1) j = add (node l (2 * j)) (node l (2 * j + 1))) ∧
      (stepTree levels xs ws acc).1 = add acc (node levels 0)

/-- R45: a grouped step sums the integers a · 2^9 of its activations by the code of their positions; the product of each
bin's sum, times 2^-9, with the bin's value is rounded once, an empty bin gives +0, and an infinity times a zero sum is NaN;
the 16 products are added in the order of the bins and the result to the accumulator, with one rounding each. A NaN
activation makes the result NaN and sets invalid. -/
def Sys2Proof.GroupedStep : Prop :=
  ∀ (acts : List Machine.Num) (codes : List Nat) (values : Nat → Machine.Num) (acc : Nat), acts.length = codes.length →
    (.nan ∈ acts → stepGrouped acts codes values acc = (0x7FC00000, 0b00001)) ∧
    ∀ ints : List Int, ints.length = acts.length →
      (∀ (i : Nat) (z : Int), ints[i]? = some z →
        ∃ n m e, acts[i]? = some (.fin n m e) ∧ -9 ≤ e ∧ ratOf n m e * 2 ^ (9 : Int) = (z : ℚ)) →
      let add := fun x y : Nat => (fp32.round 0 false (Machine.Num.add 0 (num32 x) (num32 y)).1).1
      let bin := fun g : Nat => (List.zipWith (fun (z : Int) c => if c = g then z else 0) ints codes).sum
      ∃ p sum : Nat → Nat,
        (∀ g, g < 16 → (g ∉ codes → p g = 0) ∧
          (g ∈ codes →
            (∀ n m e, values g = .fin n m e → ∃ z q k, ratOf z q k = (bin g : ℚ) * 2 ^ (-9 : Int) * ratOf n m e ∧
              p g = (fp32.round 0 false (.fin z q k)).1) ∧
            (values g = .nan → num32 (p g) = .nan) ∧
            (∀ n, values g = .inf n → num32 (p g) = if bin g = 0 then .nan else .inf (n ^^ decide (bin g < 0))))) ∧
        sum 0 = p 0 ∧ (∀ g, g < 15 → sum (g + 1) = add (sum g) (p (g + 1))) ∧
        (stepGrouped acts codes values acc).1 = add acc (sum 15)

/-- R43: a step of FP8 activations and weights, all finite, adds the exact sum of the exact products to the accumulator
and rounds once to FP32. -/
def Sys2Proof.Fp8Step : Prop :=
  ∀ (ps : List ((Bool × Nat × Int) × (Bool × Nat × Int))) (acc : Nat) (a : Bool) (m : Nat) (e : Int),
    num32 acc = .fin a m e →
    ∃ z p q, ratOf z p q = ratOf a m e + (ps.map (fun p => ratOf p.1.1 p.1.2.1 p.1.2.2 * ratOf p.2.1 p.2.2.1 p.2.2.2)).sum ∧
      (stepFp8 (ps.map (fun p => .fin p.1.1 p.1.2.1 p.1.2.2)) (ps.map (fun p => .fin p.2.1 p.2.2.1 p.2.2.2)) acc).1 =
        (fp32.round 0 false (.fin z p q)).1

/-- What a step makes of a column of weights: an FP8 step of finite operands adds the exact sum of the exact products
and rounds once (R43); a BF16 or FP32 step rounds each product, sums them by the fixed tree of pairs and adds the root
(R44); a grouped step bins the activations as integers by their codes, rounds each bin's product once and adds the 16
products in order (R45); and where a buffer's lines hold the weights, codes and values (R150, R158). -/
def Obligations.MatrixStepValues : Prop :=
  ColumnSteps ∧ Fp8Step ∧ TreeStep ∧ GroupedStep

/-- R163, R197, R308: a matrix command starts when its pipe is free, its tokens are complete and the commands it waits
for are done. A consumed token with a status, or a buffer that is not VALID for a run, ends it at once. -/
def Sys2Proof.MatrixStarts : Prop :=
  ∀ (s : State) (c : Nat) (pipe : Pipe), c < 192 →
    ∀ cmd q, (s.core c).pipeNow pipe = none → (s.core c).pipeQ pipe = cmd :: q → (s.cluster (c / 4)).throttle < 3 →
      inputsDone cmd.ins = true → (s.core c).ordered pipe cmd = true →
      Leads (.matrixCommandStart c pipe) s (fun t => t.mem = s.mem ∧ (t.core c).pipeQ pipe = q ∧
        (t.core c).ctxs = (s.core c).ctxs ∧ ∃ r, (t.core c).pipeNow pipe = some r ∧ r.cmd = cmd ∧ r.steps = 0 ∧
          r.linesA = [] ∧ r.linesB = [] ∧ r.low = 0 ∧ r.token = none ∧
          r.stop = (if (inputStatus cmd.ins).1 ≠ 0 then
              some { pos := 0, status := (inputStatus cmd.ins).1, addr := (inputStatus cmd.ins).2 }
            else if isRun cmd = true ∧ ((s.core c).buffer (cmd.f.f.toNat % 2)).good = false then
              some { pos := 0, status := 0x42, addr := 0 }
            else none))

/-- A command whose stream lines the reader reads: not over, not fed by a port or FIFO, its slope lines there. -/
def Sys2Proof.Reads (s : State) (r : Running) : Prop :=
  r.ending = false ∧ r.token = none ∧ (isRun r.cmd = true → r.cmd.f.mode.toNat / 32 % 4 = 0) ∧
    (r.cmd.op = 0x03 → r.linesB.length = Descr.product r.cmd.db ∧ ∀ e ∈ r.linesB, e.1 ≤ s.cyc) ∧
    (r.cmd.op = 0x02 → r.stop = none)
/-- The lines of a command's stream that are to be read: those before the one at which it stopped. -/
def Sys2Proof.readLimit (r : Running) : Nat := (r.stop.map (fun q => q.pos)).getD (Descr.product r.cmd.da)
/-- The next line the reader accesses (R155, R158, R168): the lowest position not read whose bank is free, among the 64
from the first that has not been read; a grouped stream is read in order. -/
def Sys2Proof.NextLine (s : State) (c : Nat) (r : Running) (i : Nat) : Prop :=
  let free := fun j => (s.core c).readerFree (s.actsFor c r.cmd.ctx) r.cmd.da s.cyc j
  r.low ≤ i ∧ i < r.low + (if r.cmd.op = 0x02 then 1 else 64) ∧ i < readLimit r ∧ (∀ e ∈ r.linesA, e.pos ≠ i) ∧
    free i = true ∧ ∀ j, r.low ≤ j → j < i → free j = false ∨ ∃ e ∈ r.linesA, e.pos = j
/-- One access of the reader has been made: what remains of the cycle goes on from `t`. -/
def Sys2Proof.Read (s t : State) (c : Nat) (pipe : Pipe) (r' : Running) : Prop :=
  (∀ n, State.readerRun c pipe (n + 1) s = State.readerRun c pipe n t) ∧ t.mem = s.mem ∧
    (t.core c).readerUse = (s.cyc, (if (s.core c).readerUse.1 = s.cyc then (s.core c).readerUse.2 else 0) + 1) ∧
    (t.core c).pipeNow pipe = some r'

/-- R155, R156, R158, R160, R168: the stream reader makes at most four accesses in a cycle, each to the next line of the
nest whose bank is free; a line arrives after its load latency; a fault stops the command at the line's position; the
slope lines of a fold come first, and a fault among them leaves no weight line to be read; a line with the group-boundary
mark ends a grouped stream. The order in which it looks past a busy bank is log entry 7. -/
def Sys2Proof.MatrixReads : Prop :=
  ∀ (s : State) (c : Nat) (pipe : Pipe), c < 192 →
    exec (.streamReaderLine c pipe) s = .next (State.readerRun c pipe
      (4 - if (s.core c).readerUse.1 = s.cyc then (s.core c).readerUse.2 else 0) s) ∧
    State.readerRun c pipe 0 s = s.schedule (s.cyc + 1) (.streamReaderLine c pipe) ∧
    ∀ r, (s.core c).pipeNow pipe = some r →
      (∀ i, Reads s r → NextLine s c r i →
        let flat := Descr.flatAt r.cmd.da i
        let st := (s.core c).accessStatus 4 (s.actsFor c r.cmd.ctx) flat
        let mark := s.readMark c flat.toNat
        let line : ReadLine := { pos := i, due := s.cyc + latency flat.toNat, val := s.readFlat c flat.toNat }
        let stopped := fun status : BitVec 8 => some ({ pos := i, status := status, addr := wrapOf 64 flat } : Stop)
        (st ≠ 0 → ∃ t r', Read s t c pipe r' ∧ r'.linesA = r.linesA ∧ r'.stop = stopped st) ∧
        (st = 0 → markCode mark ≠ 0 → ∃ t r', Read s t c pipe r' ∧ r'.stop = stopped (markCode mark)) ∧
        (st = 0 → markCode mark = 0 → ∃ t r', Read s t c pipe r' ∧ r'.cmd = r.cmd ∧ r'.linesA = r.linesA ++ [line] ∧
          (r.cmd.op ≠ 0x02 → r'.stop = r.stop ∧ r'.token = none) ∧
          (r.cmd.op = 0x02 →
            let nval := line.val.toNat % 16 + 1
            let token := i = 512 + 4 * nval ∧ ∀ l ∈ r.linesA.take 512, ∀ k, k < 256 → elemOf 4 l.val k < nval
            (mark = .group → token → r'.token = some nval ∧ r'.stop = none) ∧
            (mark = .group → ¬token → r'.stop = stopped 0x41) ∧
            (mark ≠ .group → r'.token = none ∧
              r'.stop = if 576 ≤ i ∨ r.linesA.length + 1 = Descr.product r.cmd.da then stopped 0x41 else none)))) ∧
      (r.ending = false → r.token = none → r.stop = none → r.cmd.op = 0x03 → r.linesB.length < Descr.product r.cmd.db →
        let flat := Descr.flatAt r.cmd.db r.linesB.length
        let st := (s.core c).accessStatus 4 (s.actsFor c r.cmd.ctx) flat
        (st ≠ 0 → ∃ t r', Read s t c pipe r' ∧ r'.stop = some { pos := 0, status := st, addr := wrapOf 64 flat }) ∧
        (st = 0 → LineFree s c flat.toNat → ∃ t r', Read s t c pipe r' ∧ r'.linesA = r.linesA ∧
          r'.linesB = r.linesB ++ [(s.cyc + latency flat.toNat, s.readFlat c flat.toNat)] ∧
          r'.stop = if markCode (s.readMark c flat.toNat) = 0 then none
            else some { pos := 0, status := markCode (s.readMark c flat.toNat), addr := wrapOf 64 flat })) ∧
      (isRun r.cmd = false → r.ending = false →
        (r.token.isSome = true ∨ (r.cmd.op = 0x02 ∧ r.stop.isSome = true) ∨
          (r.cmd.op = 0x03 ∧ r.stop.isSome = true ∧ r.linesB.length < Descr.product r.cmd.db) ∨
          (Reads s r ∧ ∀ i, r.low ≤ i → i < readLimit r → ∃ e ∈ r.linesA, e.pos = i)) →
        ∀ n, ∃ due, let t := State.readerRun c pipe (n + 1) s
          t.mem = s.mem ∧ s.cyc + 2 ≤ due ∧ (∀ e ∈ r.linesA, e.due + 2 ≤ due) ∧ (∀ e ∈ r.linesB, e.1 + 2 ≤ due) ∧
          (due, Instr.matrixCommandComplete c pipe) ∈ t.calendar ∧ ∃ r', (t.core c).pipeNow pipe = some r' ∧
            r'.ending = true ∧ r'.linesA = r.linesA ∧ r'.token = r.token ∧
            r'.stop = if r.cmd.op = 0x02 ∧ r.token = none ∧ r.stop = none then some { pos := 0, status := 0x41, addr := 0 }
              else r.stop)

/-- A step of a run has been taken with its lines (R159): the row of every tile of the group is the step's result on its
column, and no other row of a tile has changed. -/
def Sys2Proof.StepTaken (s t : State) (c : Nat) (r : Running) (xs : List Line) : Prop :=
  let m := r.steps % (r.cmd.f.mode.toNat % 32 + 1)
  let b := (s.core c).buffer (r.cmd.f.f.toNat % 2)
  t.mem = s.mem ∧
    (∃ r', (t.core c).runNow = some r' ∧ r'.cmd = r.cmd ∧ r'.steps = r.steps + 1 ∧ r'.stop = none ∧
      (r'.ending = true ↔ r.steps + 1 = Descr.product r.cmd.da / (if b.goodShape = .grouped then 4 else 1))) ∧
    (∀ j, j < r.cmd.tiles.length → ∀ i, i < 32 →
      elemOf 32 ((t.core c).tileRow (r.cmd.tiles.getD j 0) m) i =
        (b.step (activations (Descr.fmt r.cmd.da) xs) (32 * j + i)
          (elemOf 32 ((s.core c).tileRow (r.cmd.tiles.getD j 0) m) i)).1 % 2 ^ 32) ∧
    ∀ tile row, (tile ∉ r.cmd.tiles ∨ row ≠ m) → row < 32 → (t.core c).tileRow tile row = (s.core c).tileRow tile row

/-- R159, R160, R163, R166: a run takes a step with the lines of its nest once they have arrived, or with the lines that
its port or FIFO holds; it waits while these are empty, and ends with the port's fault after the lines before it. -/
def Sys2Proof.MatrixRuns : Prop :=
  ∀ (s : State) (c : Nat) (r : Running), c < 192 → (s.core c).runNow = some r → isRun r.cmd = true → r.ending = false →
    r.stop = none → r.nextStep ≤ s.cyc → r.cmd.tiles.Nodup →
    let b := (s.core c).buffer (r.cmd.f.f.toNat % 2)
    let p := if b.goodShape = .grouped then 4 else 1
    let unit := r.cmd.f.f.toNat / 2 % 8
    let src := r.cmd.f.mode.toNat / 32 % 4
    r.steps < Descr.product r.cmd.da / p →
    ((∀ tile ∈ r.cmd.tiles, (s.core c).rowHurt tile (r.steps % (r.cmd.f.mode.toNat % 32 + 1)) = false) →
      (src = 0 → ∀ xs : List ReadLine, xs.length = p →
        (∀ i, i < p → r.linesA.find? (fun e => decide (e.pos = p * r.steps + i)) = xs[i]?) → (∀ l ∈ xs, l.due ≤ s.cyc) →
        Leads (.matrixRunStep c) s (fun t => StepTaken s t c r (xs.map (fun l => l.val)) ∧
          ∀ x, { t.ctx c x with dirtyLines := [] } = { s.ctx c x with dirtyLines := [] })) ∧
      (src = 1 → r.linesA = [] → p ≤ (s.port c unit).fifo.length →
        Leads (.matrixRunStep c) s (fun t => StepTaken s t c r (((s.port c unit).fifo.take p).map (fun l => l.val)) ∧
          (t.port c unit).fifo = (s.port c unit).fifo.drop p)) ∧
      (src = 2 → r.linesA = [] → p ≤ (s.fifo (c / 4) unit).lines.length →
        Leads (.matrixRunStep c) s (fun t => StepTaken s t c r ((s.fifo (c / 4) unit).lines.take p) ∧
          (t.fifo (c / 4) unit).lines = (s.fifo (c / 4) unit).lines.drop p))) ∧
    (src = 1 → (s.port c unit).fifo = [] → r.linesA.length < p →
      (∀ cause a, (s.port c unit).coming = [] → (s.port c unit).fault = some (cause, a) →
        Leads (.matrixRunStep c) s (fun t => t.mem = s.mem ∧ (t.core c).tiles = (s.core c).tiles ∧
          ∃ r', (t.core c).runNow = some r' ∧ r'.ending = true ∧
            r'.stop = some { pos := r.steps * p, status := cause.code, addr := a })) ∧
      ((s.port c unit).coming ≠ [] ∨ (s.port c unit).fault = none →
        Leads (.matrixRunStep c) s (fun t => t.mem = s.mem ∧ t.cores = s.cores))) ∧
    (src = 2 → (s.fifo (c / 4) unit).lines = [] → r.linesA.length < p →
      Leads (.matrixRunStep c) s (fun t => t.mem = s.mem ∧ t.cores = s.cores))

/-- R155 to R158, R161, R164, R166, R167: a matrix command completes its token. A load that met no fault makes its buffer
VALID with the lines it read, those of a fold multiplied by their slopes and rounded once to the weights' format; one that
did makes it INVALID. MX.ACCZ zeroes its rows, MX.ACCB writes the line of each tile to them. A run that met bad parity in
its buffer leaves a residue mismatch. Stated for a core without joins. -/
def Sys2Proof.MatrixEnds : Prop :=
  ∀ (s : State) (c : Nat) (pipe : Pipe) (r : Running), c < 192 → (s.core c).pipeNow pipe = some r → r.ending = true →
    (s.core c).joins = [] →
    let rows := r.cmd.f.mode.toNat % 32 + 1
    let line := fun i => ((r.linesA.find? (fun e => decide (e.pos = i))).map (fun e => e.val)).getD 0
    Leads (.matrixCommandComplete c pipe) s (fun t => t.mem = s.mem ∧ (t.core c).pipeNow pipe = none ∧
      TokenDone s t c r.cmd.ctx r.cmd.id (stopStatus r.stop) (stopAddr r.stop) ∧
      (r.residue = true → (s.ctx c r.cmd.ctx).rewind = none → (t.ctx c r.cmd.ctx).events.residue = true) ∧
      (pipe = .load → (s.core c).loadQ = [] →
        let b := (t.core c).buffer (r.cmd.f.f.toNat % 2)
        (r.stop ≠ none → b.state = .invalid ∧ b.good = false) ∧
        (r.stop = none → b.state = .valid ∧ b.good = true ∧ b.goodShape = loadShape r.cmd ∧ b.nval = r.token.getD 0 ∧
          (r.cmd.op ≠ 0x03 → ∀ i, i < r.linesA.length → b.lines.get 0 i = line i) ∧
          (r.cmd.op = 0x03 →
            let sh := loadShape r.cmd
            let slope := fun k => if r.cmd.f.mode.getLsbD 4 = true
              then elemOf 128 ((r.linesB.map (fun e => e.2)).getD (k / 8) 0) (k % 8) % 2 ^ 32
              else elemOf 32 ((r.linesB.map (fun e => e.2)).getD (k / 32) 0) (k % 32)
            ∀ i n, i < r.linesA.length → n < sh.perLine →
              elemOf sh.weightWidth (b.lines.get 0 i) n =
                (sh.weightFormat.round 0 (r.cmd.f.mode.getLsbD 3) ((num32 (slope (i / sh.perRow))).mul
                  (sh.weightFormat.decode (elemOf sh.weightWidth (line i) n))).1).1 % 2 ^ sh.weightWidth))) ∧
      (pipe = .run → (isRun r.cmd = true ∨ r.stop ≠ none) → (t.core c).tiles = (s.core c).tiles) ∧
      (pipe = .run → isRun r.cmd = false → r.stop = none → r.cmd.tiles.Nodup →
        (∀ j m, j < r.cmd.tiles.length → m < rows →
          (t.core c).tileRow (r.cmd.tiles.getD j 0) m = if r.cmd.op = 0x06 then 0 else line j) ∧
        ∀ tile m, (tile ∉ r.cmd.tiles ∨ rows ≤ m) → m < 32 → (t.core c).tileRow tile m = (s.core c).tileRow tile m))

/-- A matrix command starts when its pipe is free and its tokens are complete, the stream reader reads the lines of
its nest in their order, what a load leaves in its buffer, what a run's steps, MX.ACCZ and MX.ACCB leave in the
accumulators, and a command completes its token with its status (R151 to R168, R197). The arbitration of two readers
and the pace of a load are the model's choice (log entry 7). -/
def Obligations.MatrixSteps : Prop :=
  MatrixStarts ∧ MatrixReads ∧ MatrixRuns ∧ MatrixEnds

/-- R185, R186: what a drain makes of one accumulator: the value, and h when the element escapes. -/
def Sys2Proof.drainedOf (p : PpeState) (rec : BitVec 128) (n acc : Nat) : Nat × Option Nat :=
  let scale := match p.scale with
    | none => Num.one
    | some e => scaleNum (e.toNat / 2 ^ (8 * (n % 32)) % 2 ^ 8)
  let bias := match p.bias with
    | none => Num.fin true 0 0
    | some l => num32 (elemOf 32 (l.getD (n / 32) 0) (n % 32))
  let h := (fp32.round 0 false (Num.fma 0 (num32 acc) scale bias).1).1
  let word := fun i => (rec.toNat / 2 ^ (32 * i)) % 2 ^ 32
  if p.tmode = 0 then (h, none)
  else if ((num32 (word 2)).le (num32 h) && (num32 h).le (num32 (word 3))) = true then
    (if p.tmode = 2 then (fp32.round 0 false (Num.fma 0 (num32 (word 0)) (num32 h) (num32 (word 1))).1).1 else h, none)
  else (h, some h)
/-- Element `n` of row `m` of a drain's group. -/
def Sys2Proof.drainedAt (p : PpeState) (k : Core) (tiles : List Nat) (m n : Nat) : Nat × Option Nat :=
  drainedOf p ((k.tanSet p.ts).recs.get 0 n) n (elemOf 32 (k.tileRow (tiles.getD (n / 32) 0) m) (n % 32))
/-- The escape records of a drain, row by row (R188). -/
def Sys2Proof.escapesOf (p : PpeState) (k : Core) (tiles : List Nat) (rows : Nat) : List Nat :=
  (List.range rows).flatMap (fun m => (List.range (32 * tiles.length)).filterMap (fun n =>
    (drainedAt p k tiles m n).2.map (fun h => (h + n % 256 * 2 ^ 32 + (p.rc + m) % 2 ^ 24 * 2 ^ 40) % 2 ^ 64)))
/-- The lines of one stream of a drain. -/
def Sys2Proof.streamOf (d : Draining) (n : Nat) : List DrainLine := d.todo.filter (fun l => decide (l.stream = n))

/-- R185 to R189: the lines that a drain has to write when it starts. Output line by line each row is converted to the
output format, rounding once; with Q4X each block of 32 is one of R42's, and the scale bytes of 16 rows make a line;
escapes are recorded in the order of rows and columns, 16 to a line, as many as the stream takes. Stated for rows of good
parity and, for the escapes, a stream at its beginning. -/
def Sys2Proof.DrainLines : Prop :=
  ∀ (s : State) (c : Nat) (cmd : Cmd) (q : List Cmd), c < 192 → (s.core c).drainNow = none → (s.core c).ppeQ = cmd :: q →
    (s.cluster (c / 4)).throttle < 3 → inputsDone cmd.ins = true → (inputStatus cmd.ins).1 = 0 → cmd.op = 0x11 →
    let p := (s.ctx c cmd.ctx).ppe
    let group := drainTiles cmd.f
    let tiles := cmd.tiles.take group
    let rows := cmd.f.mode.toNat % 32 + 1
    let per := linesPerRow p.ofmt group
    let value := fun m n => (drainedAt p (s.core c) tiles m n).1
    let esc := escapesOf p (s.core c) tiles rows
    let kept := esc.take (16 * Descr.product p.esc)
    tiles.length = group → p.ofmt < 4 → (p.ofmt = 3 → group = 8) →
    (∀ tile ∈ tiles, ∀ m, m < rows → (s.core c).rowHurt tile m = false) →
    Leads (.ppeCommandStart c) s (fun t => ∃ d, (t.core c).drainNow = some d ∧ d.cmd = cmd ∧ d.stop = none ∧
      d.ending = false ∧ d.nextLine = s.cyc + 4 ∧
      (streamOf d 0).length = rows * per ∧
      (∀ m j, m < rows → j < per → ∃ l, (streamOf d 0)[m * per + j]? = some l ∧
        l.dest = outputTo cmd (s.ctx c cmd.ctx).tileBase (m * per + j) ∧
        (p.ofmt ≠ 3 → let w := if p.ofmt = 0 then 32 else if p.ofmt = 1 then 16 else 8
          ∀ i, i < 1024 / w → elemOf w l.val i = if 1024 / w * j + i < 32 * group then
            ((outFormat p.ofmt).round 0 p.sat (num32 (value m (1024 / w * j + i)))).1 % 2 ^ w else 0) ∧
        (p.ofmt = 3 → ∀ b, b < 8 → elemOf 128 l.val b =
          (q4xEncode p.e ((List.range 32).map (fun i => num32 (value m (32 * b + i))))).1 % 2 ^ 128)) ∧
      (p.ofmt = 3 → (streamOf d 2).length = (rows + 15) / 16 ∧
        ∀ m b, m < rows → b < 8 → ∃ l, (streamOf d 2)[m / 16]? = some l ∧
          l.dest = .scratch ((Descr.aux cmd.da % 2 ^ 22 + m / 16 : Nat) : Int) ∧
          elemOf 8 l.val (8 * (m % 16) + b) =
            (q4xEncode p.e ((List.range 32).map (fun i => num32 (value m (32 * b + i))))).2.1 % 2 ^ 8) ∧
      (p.ep = 0 → p.tail = [] →
        (streamOf d 1).length = (kept.length + 15) / 16 ∧
        (∀ i, i < (kept.length + 15) / 16 → ∃ l, (streamOf d 1)[i]? = some l ∧ l.dest = .scratch (Descr.flatAt p.esc i) ∧
          ∀ e, e < 16 → elemOf 64 l.val e = (kept[16 * i + e]?).getD (2 ^ 64 - 1)) ∧
        (d.todo.map (fun l => l.records.length)).sum = kept.length ∧
        (d.todo.map (fun l => l.lost.length)).sum = esc.length - kept.length))

/-- R181, R184, R189, R191, R197: a PPE command starts in its turn; CFG, TLD, TST and ECNT make their effect when they
start; a consumed token with a status ends the command at once, and so does a row with bad parity a TLD, which then changes
nothing (log entry 46). -/
def Sys2Proof.PpeStarts : Prop :=
  ∀ (s : State) (c : Nat) (cmd : Cmd) (q : List Cmd), c < 192 → (s.core c).drainNow = none → (s.core c).ppeQ = cmd :: q →
    (s.cluster (c / 4)).throttle < 3 → inputsDone cmd.ins = true →
    let tile := cmd.tiles.getD 0 0
    let set := (s.core c).tanSet (cmd.f.f.toNat % 2)
    Leads (.ppeCommandStart c) s (fun t => t.mem = s.mem ∧ (t.core c).ppeQ = q ∧
      (∃ d, (t.core c).drainNow = some d ∧ d.cmd = cmd ∧ (d.ending = false → cmd.op = 0x11) ∧
        ((inputStatus cmd.ins).1 ≠ 0 → d.ending = true ∧ d.todo = [] ∧
          d.stop = some { pos := 0, status := (inputStatus cmd.ins).1, addr := (inputStatus cmd.ins).2 })) ∧
      ((inputStatus cmd.ins).1 ≠ 0 → (t.core c).ctxs = (s.core c).ctxs ∧ (t.core c).tiles = (s.core c).tiles ∧
        (t.core c).sets = (s.core c).sets) ∧
      ((inputStatus cmd.ins).1 = 0 → cmd.op = 0x10 →
        let p := (t.ctx c cmd.ctx).ppe
        p.tmode = cmd.f.mode.toNat % 4 ∧ p.ofmt = cmd.f.mode.toNat / 4 % 4 ∧ p.e = cmd.f.mode.toNat / 16 % 4 ∧
        p.sat = cmd.f.mode.getLsbD 6 ∧
        p.ts = cmd.f.f.toNat % 2 ∧ p.bias = (if cmd.f.f.getLsbD 1 = true then some cmd.lines else none) ∧
        p.scale = (if cmd.f.f.getLsbD 2 = true then some cmd.scales else none) ∧ p.esc = cmd.db ∧ p.ep = 0 ∧
        p.lost = 0 ∧ p.rc = 0) ∧
      ((inputStatus cmd.ins).1 = 0 → cmd.op = 0x12 →
        ((∀ u ∈ cmd.tiles, ∀ m, m < 32 → (s.core c).rowHurt u m = false) → ∀ i, i < 256 →
          ((t.core c).tanSet (cmd.f.f.toNat % 2)).recs.get 0 i =
            ((s.core c).tileRow tile (i / 8)).extractLsb' (128 * (i % 8)) 128) ∧
        ((∃ u ∈ cmd.tiles, ∃ m, m < 32 ∧ (s.core c).rowHurt u m = true) → (t.core c).sets = (s.core c).sets ∧
          ∃ d, (t.core c).drainNow = some d ∧ d.ending = true ∧ d.stop = some { pos := 0, status := 0x09, addr := 0 })) ∧
      ((inputStatus cmd.ins).1 = 0 → cmd.op = 0x13 → ∀ i, i < 256 →
        ((t.core c).tileRow tile (i / 8)).extractLsb' (128 * (i % 8)) 128 = set.recs.get 0 i) ∧
      ((inputStatus cmd.ins).1 = 0 → cmd.op = 0x14 →
        (∀ i, i < 256 → elemOf 32 ((t.core c).tileRow tile (i / 32)) (i % 32) = (set.counts.get 0 i).toNat) ∧
        elemOf 32 ((t.core c).tileRow tile 8) 0 = (s.ctx c cmd.ctx).ppe.ep % 2 ^ 32 ∧
        elemOf 32 ((t.core c).tileRow tile 8) 1 = (s.ctx c cmd.ctx).ppe.lost % 2 ^ 32 ∧
        (cmd.f.mode.getLsbD 0 = true → ∀ i, ((t.core c).tanSet (cmd.f.f.toNat % 2)).counts.get 0 i = 0)))

/-- A line of a drain has been written: what remains of the cycle goes on from `t`, with the counters of R188. -/
def Sys2Proof.DrainGoes (s t : State) (c : Nat) (used : List Nat) (d d' : Draining) (l : DrainLine) (ls : List DrainLine) : Prop :=
  (∀ n, State.drainRun c used (n + 1) s d = State.drainRun c (l.stream :: used) n t d') ∧ (t.core c).drainNow = some d' ∧
    d'.todo = ls ∧ d'.stop = d.stop ∧ d'.cmd = d.cmd ∧
    (t.ctx c d.cmd.ctx).ppe.ep = (s.ctx c d.cmd.ctx).ppe.ep + l.records.length ∧
    (t.ctx c d.cmd.ctx).ppe.lost = (s.ctx c d.cmd.ctx).ppe.lost + l.lost.length ∧
    d'.escapes = d.escapes + l.records.length + l.lost.length

/-- R187, R188, R193: a drain writes in a cycle at most one line of each of its streams, in their order; a line goes to
the scratchpad when its bank is free, to a port or FIFO that has room, or to a tile row; a fault ends the drain, and so
does its last line, 4 cycles before its token completes. -/
def Sys2Proof.DrainWrites : Prop :=
  ∀ (s : State) (c : Nat) (d : Draining), c < 192 → (s.core c).drainNow = some d → d.ending = false →
    (d.nextLine ≤ s.cyc → exec (.ppeLineWrite c) s = .next (State.drainRun c [] 4 s d)) ∧
    ∀ (used : List Nat) (n : Nat),
      let t := State.drainRun c used (n + 1) s d
      let ends := fun (t : State) (stop : Option Stop) => t.mem = s.mem ∧
        (s.cyc + 4, Instr.ppeCommandComplete c) ∈ t.calendar ∧
        ∃ d', (t.core c).drainNow = some d' ∧ d'.ending = true ∧ d'.todo = [] ∧ d'.stop = stop
      (d.todo = [] → ends t d.stop) ∧
      ∀ l ls, d.todo = l :: ls →
        (l.stream ∈ used → t.mem = s.mem ∧ (t.core c).drainNow = some d ∧
          (s.cyc + 1, Instr.ppeLineWrite c) ∈ t.calendar) ∧
        (l.stream ∉ used →
          (∀ flat, l.dest = .scratch flat →
            let st := (s.core c).accessStatus 5 (s.actsFor c d.cmd.ctx) flat
            (st ≠ 0 → ends t (some { pos := 0, status := st, addr := wrapOf 64 flat })) ∧
            (st = 0 → LineFree s c flat.toNat → ∃ u d', DrainGoes s u c used d d' l ls ∧
              LineStored s u c flat.toNat l.val)) ∧
          (∀ i, l.dest = .port i →
            let p := s.port c i
            (∀ cause a, p.fault = some (cause, a) → ends t (some { pos := 0, status := cause.code, addr := a })) ∧
            (p.fault = none → 16 ≤ p.fifo.length + p.reserved → t.mem = s.mem ∧ (t.core c).drainNow = some d) ∧
            (p.fault = none → p.fifo.length + p.reserved < 16 → p.pos + p.reserved < Descr.product p.cfg →
              ∃ u d', DrainGoes s u c used d d' l ls ∧ u.mem = s.mem ∧
                (u.port c i).fifo = p.fifo ++ [{ val := l.val, flg := 0 }] ∧ (u.port c i).pos = p.pos + 1)) ∧
          (∀ i, l.dest = .fifo i →
            let q := s.fifo (c / 4) i
            (128 ≤ q.lines.length → t.mem = s.mem ∧ (t.core c).drainNow = some d) ∧
            (q.lines.length < 128 → ∃ u d', DrainGoes s u c used d d' l ls ∧ u.mem = s.mem ∧
              (u.fifo (c / 4) i).lines = q.lines ++ [l.val])) ∧
          (∀ tile row, l.dest = .tileRow tile row → ∃ u d', DrainGoes s u c used d d' l ls ∧ u.mem = s.mem ∧
            (u.core c).tileRow tile row = l.val) ∧
          ∀ st a, l.dest = .fail st a → ends t (some { pos := 0, status := st, addr := a }))

/-- R185, R187, R193, R197: a PPE command completes its token, for a drain into a port 4 cycles after the port's last
write has been performed; RC advances by the drain's rows. Stated for a core without joins. -/
def Sys2Proof.PpeEnds : Prop :=
  ∀ (s : State) (c : Nat) (d : Draining), c < 192 → (s.core c).drainNow = some d → d.ending = true →
    (∀ n ∈ d.cmd.ports, (s.port c n).fifo = [] ∧ (s.port c n).performed + 4 ≤ s.cyc ∧ (s.port c n).fault = none) →
    (s.core c).joins = [] →
    Leads (.ppeCommandComplete c) s (fun t => t.mem = s.mem ∧ (t.core c).drainNow = none ∧
      TokenDone s t c d.cmd.ctx d.cmd.id (stopStatus d.stop) (stopAddr d.stop) ∧
      (t.ctx c d.cmd.ctx).ppe.rc = if d.cmd.op = 0x11 ∧ (inputStatus d.cmd.ins).1 = 0 then
        ((s.ctx c d.cmd.ctx).ppe.rc + (d.cmd.f.mode.toNat % 32 + 1)) % 2 ^ 24 else (s.ctx c d.cmd.ctx).ppe.rc)

/-- A PPE command starts in its turn, CFG and TLD act as they start, a drain has the lines that TMODE, bias, scale and
OFMT make of its accumulators and writes them in their order, escapes are counted, and a command completes its token
(R181 to R193, R197). That a row with bad parity ends a TLD (log entry 46), the copies a drain takes (log entry 36),
the partial escape line (log entry 38) and the flags of a drain that faults (log entry 65) are the model's readings.
-/
def Obligations.PpeSteps : Prop :=
  PpeStarts ∧ DrainLines ∧ DrainWrites ∧ PpeEnds

/-- R204, R206, R209, R212, R217: a copy takes a free channel and starts 2 cycles after its release, and after the last of
its tokens. A FILL has its row to write to every line of its destination, a comparison of empty regions its result word;
a command with SYNC whose word lies in a bank that is not its launch's ends with BOWN (log entry 43). -/
def Sys2Proof.CopyStarts : Prop :=
  ∀ (s : State) (c : Nat) (cmd : Cmd), c < 192 → (s.core c).copyQ = [cmd] → (s.core c).chans = [] →
    (s.cluster (c / 4)).throttle < 3 → inputsDone cmd.ins = true → (inputStatus cmd.ins).1 = 0 → cmd.at_ + 2 ≤ s.cyc →
    inputsCycle cmd.ins + 2 ≤ s.cyc →
    Leads (.copyCommandStart c) s (fun t => t.mem = s.mem ∧ (t.core c).copyQ = [] ∧
      ∃ h, t.chan c 0 = some h ∧ h.cmd = cmd ∧ h.started = true ∧ h.reads = 0 ∧ h.taken = 0 ∧ h.coming = [] ∧
        h.writing = [] ∧
        (hasSync cmd = true → s.syncTarget c cmd = none → h.outq = [] ∧ (h.stop.map (fun q => q.status)) = some 0x03) ∧
        (hasSync cmd = false ∨ (s.syncTarget c cmd).isSome = true →
          h.stop = none ∧ h.word = (if hasSync cmd = true then s.syncTarget c cmd else none) ∧
          (cmd.op = 0x28 → h.outq.length = cmd.destLines ∧ ∀ i, i < cmd.destLines →
            h.outq[i]? = some { idx := i, val := cmd.lines.getD 0 0, group := false, word := none }) ∧
          (cmd.op = 0x27 → cmd.readCount = 0 → ∃ w, h.outq = [{ idx := 0, val := 0, group := false, word := some w }] ∧
            w.1 = Descr.aux cmd.da / 2 ^ 4 % 2 ^ 22 ∧ w.2 = Descr.aux cmd.da % 2 ^ 4) ∧
          (cmd.op ≠ 0x28 → cmd.op ≠ 0x27 → h.outq = [])))

/-- R208, R216 to R218: what a line that has been read makes of the channel. A plain copy and a CPY.CRC have it to write
at its place; a fingerprint sums the page's words, each times an odd number, and has 16 prints to write as one line; a
comparison keeps the first byte in which two lines differ and has its word to write after the last; a checksum is
compared after the last line. -/
def Sys2Proof.CopyMakes : Prop :=
  ∀ (h : Channel) (n : Nat) (v : Line),
    let u := h.take n v
    let last := n + 1 = h.cmd.readCount
    let plain : OutLine := { idx := n, val := v, group := false, word := none }
    (h.cmd.op ≤ 0x23 → u.outq = h.outq ++ [plain] ∧ u.final = h.final) ∧
    (h.cmd.op = 0x29 → u.outq = h.outq ++ [plain] ∧
      (¬last → u.sum = crcBytes 128 v.toNat h.sum ∧ u.final = h.final) ∧
      (last → u.final = if 0xFFFFFFFF ^^^ crcBytes 124 v.toNat h.sum = elemOf 32 v 31 then none
        else some { pos := 0, status := 0x43, addr := 0 })) ∧
    (h.cmd.op = 0x26 →
      let sum := (h.sum + ((List.range 16).map (fun w => (2 * (16 * (n % 32) + w) + 1) * elemOf 64 v w)).sum) % 2 ^ 64
      (n % 32 ≠ 31 → u.sum = sum ∧ u.outq = h.outq ∧ u.data = h.data) ∧
      (n % 32 = 31 → u.sum = 0 ∧
        (¬(h.data.length = 15 ∨ last) → u.outq = h.outq ∧ u.data = h.data ++ [BitVec.ofNat 1024 sum]) ∧
        (h.data.length = 15 ∨ last → u.data = [] ∧ ∃ o, u.outq = h.outq ++ [o] ∧ o.idx = n / 512 ∧ o.word = none ∧
          o.group = false ∧ ∀ i, i < 16 → elemOf 64 o.val i =
            (((h.data.map BitVec.toNat ++ [sum])[i]?).getD 0) % 2 ^ 64))) ∧
    (h.cmd.op = 0x27 → (n % 2 = 0 → u.data = [v] ∧ u.sum = h.sum ∧ u.outq = h.outq) ∧
      (n % 2 = 1 → ∀ a, h.data = [a] →
        (h.sum ≠ 0 ∨ a = v → u.sum = h.sum) ∧
        (∀ i, h.sum = 0 → i < 128 → elemOf 8 a i ≠ elemOf 8 v i → (∀ j, j < i → elemOf 8 a j = elemOf 8 v j) →
          u.sum = 128 * (n / 2) + i + 1) ∧
        (last → ∃ o, u.outq = [o] ∧ (u.sum = 0 → o.val = 0) ∧
          (0 < u.sum → u.sum ≤ 2 ^ 63 → o.val.toNat = 2 ^ 63 + (u.sum - 1)) ∧
          ∃ w, o.word = some w ∧ w.1 = Descr.aux h.cmd.da / 2 ^ 4 % 2 ^ 22 ∧ w.2 = Descr.aux h.cmd.da % 2 ^ 4))) ∧
    (h.cmd.op = 0x24 ∨ h.cmd.op = 0x25 →
      (¬last → u.data = h.data ++ [v] ∧ u.outq = h.outq ∧ u.final = h.final) ∧
      (last → u.outq = (expandGrf h.cmd (h.data ++ [v])).1 ∧ u.final = (expandGrf h.cmd (h.data ++ [v])).2))

/-- R213 to R215: a row of the grouped-row format as it is decoded: the header, the values, the lists, each position in
one list at most and in ascending order; and the lines that rows make: for a grouped load the codes, the values as BF16
and the token with the group-boundary mark, for a dense load E4M3 values laid out by columns. An expansion writes the
lines of its loads in order, and ends with DECODE where the stream does not hold them or the destination has no room. -/
def Sys2Proof.GrfExpansion : Prop :=
  (∀ (v total p : Nat) (r : GrfRow) (q : Nat), grfRow v total p = some (r, q) →
    let nv := v / 2 ^ (p + 12) % 16 + 1
    let w := if v.testBit (p + 11) = true then 16 else 8
    r.span = v / 2 ^ p % 2 ^ 11 + 1 ∧ r.bf = v.testBit (p + 11) ∧ r.vals.length = nv ∧ r.lists.length = nv - 1 ∧
    (∀ g, g < nv → r.vals.getD g 0 = v / 2 ^ (p + 16 + w * g) % 2 ^ w) ∧
    r.span ≤ 512 ∧ (r.span < 512 → nv < 16) ∧ q % 16 = 0 ∧ p + 16 + nv * w ≤ q ∧
    (∀ l ∈ r.lists, l.Pairwise (· < ·) ∧ ∀ k ∈ l, k < r.span) ∧ r.lists.Pairwise (fun a b => ∀ k ∈ a, k ∉ b)) ∧
  (∀ (r : GrfRow) (k : Nat),
    (∀ g, g < r.lists.length → k ∈ r.lists.getD g [] → (∀ j, j < g → k ∉ r.lists.getD j []) → r.code k = g) ∧
    ((∀ l ∈ r.lists, k ∉ l) → r.code k = if k < r.span then r.vals.length - 1 else r.vals.length)) ∧
  (∀ (rows : List GrfRow) (seq : Nat), rows.length = 256 →
    let nval := rows.foldl (fun m r => max m r.codes) 1
    let ls := grfGrouped rows seq
    nval ≤ 16 → ls.length = 513 + 4 * nval ∧
      (∀ k n, k < 512 → n < 256 → ∃ l, ls[k]? = some (l, false) ∧ elemOf 4 l n = (rowAt rows n).code k % 16) ∧
      (∀ g n, g < nval → n < 256 → ∃ l, ls[512 + 4 * g + n / 64]? = some (l, false) ∧
        elemOf 16 l (n % 64) = (rowAt rows n).bf16 g % 2 ^ 16) ∧
      ∃ l, ls[512 + 4 * nval]? = some (l, true) ∧ l.toNat % 16 = nval - 1 ∧ l.toNat / 2 ^ 16 = seq % 2 ^ 16) ∧
  (∀ (rows : List GrfRow) (sat : Bool), rows.length = 256 →
    let ls := grfDense sat rows
    ls.length = 1024 ∧ ∀ k n, k < 512 → n < 256 → ∃ l,
      ls[256 * (k / 128) + 2 * (k % 128) + n / 128]? = some (l, false) ∧
        elemOf 8 l (n % 128) = (let r := rowAt rows n; r.e4m3 sat (r.code k)) % 256) ∧
  ∀ (cmd : Cmd) (data : List Line),
    let expand := fun rows seq => if cmd.op = 0x24 then grfGrouped rows seq else grfDense (cmd.f.mode.getLsbD 6) rows
    let g := grfLoads expand (packList 1024 (data.map BitVec.toNat)) (1024 * data.length) (cmd.f.mode.toNat / 4 % 16 + 1) 0 0
    let e := expandGrf cmd data
    e.1.map (fun o => (o.val, o.group)) = g.1.take (Descr.product cmd.da) ∧
    (∀ (i : Nat) (o : OutLine), e.1[i]? = some o → o.idx = i ∧ o.word = none) ∧
    (e.2 = none ↔ g.2 = false ∧ g.1.length ≤ Descr.product cmd.da) ∧
    (e.2 ≠ none → e.2 = some { pos := 0, status := 0x41, addr := 0 })

/-- A channel whose accesses may be made now (R211). -/
def Sys2Proof.ChannelRuns (s : State) (c ch : Nat) (h : Channel) : Prop :=
  c < 192 ∧ ch < 4 ∧ s.chan c ch = some h ∧ h.started = true ∧ h.ending = false ∧
    ∃ a, (s.ctx c h.cmd.ctx).findAccess h.access = some a ∧ a.progress ≠ .waiting
/-- The line of the core's own scratchpad that line `n` of a nest, in units of `l` lines, names (R64, R204). -/
def Sys2Proof.nestLine (d : Descr) (l n : Nat) : Int := Descr.flatAt d (n / l) + (n % l : Nat)

/-- R204, R206, R208, R210 to R212: a copy reads the lines of its source nest, takes what has arrived in order, and writes
the lines of its destination nest, each unit once all of it has been read; the bank takes the line at the end of the busy
window, a line with the group-boundary mark carries it, and a line in other memory leaves through the switch. A fault
ends the reads, and units whose write has not begun are not written. -/
def Sys2Proof.CopyAccesses : Prop :=
  ∀ (s : State) (c ch : Nat) (h : Channel), ChannelRuns s c ch h →
    let actor := s.actsFor c h.cmd.ctx
    let l := if h.cmd.f.mode.getLsbD 0 = true then 32 else 1
    let write := if h.cmd.op ≤ 0x23 ∨ h.cmd.op = 0x28 ∨ h.cmd.op = 0x29 then l else 1
    (∀ flat : Int, h.stop = none → h.coming = [] → h.readAt ≤ s.cyc → h.outq = [] → h.taken < h.cmd.readCount →
      h.reads < h.cmd.readCount → h.cmd.op ≠ 0x27 → Descr.glb h.cmd.db = false →
      flat = nestLine h.cmd.db (if h.cmd.op = 0x24 ∨ h.cmd.op = 0x25 then 1 else l) h.reads →
      let st := (s.core c).accessStatus 6 actor flat
      (st = 0 → LineFree s c flat.toNat → Leads (.copyUnitRead c ch) s (fun t => t.mem = s.mem ∧
        ∃ h', t.chan c ch = some h' ∧ h'.reads = h.reads + 1 ∧ h'.stop = none ∧
          h'.coming = [{ idx := h.reads, at_ := s.cyc + latency flat.toNat, pa := none, src := flat.toNat, fixed := true,
                         val := s.readFlat c flat.toNat, status := markCode (s.readMark c flat.toNat), after := [] }])) ∧
      (st ≠ 0 → Leads (.copyUnitRead c ch) s (fun t => t.mem = s.mem ∧ ∃ h', t.chan c ch = some h' ∧ h'.reads = h.reads ∧
        h'.stop = some { pos := 0, status := st, addr := wrapOf 64 flat }))) ∧
    (∀ e, h.stop = none → h.coming = [e] → e.at_ ≤ s.cyc → e.pa = none → e.after = [] → s.cyc < h.writeAt →
      h.cmd.readCount ≤ h.reads →
      (e.status = 0 → Leads (.copyUnitRead c ch) s (fun t => t.mem = s.mem ∧ ∃ h', t.chan c ch = some h' ∧ h'.coming = [] ∧
        h'.taken = h.taken + 1 ∧ h'.outq = (h.take e.idx e.val).outq ∧ h'.final = (h.take e.idx e.val).final ∧
        h'.sum = (h.take e.idx e.val).sum ∧ h'.data = (h.take e.idx e.val).data)) ∧
      (e.status ≠ 0 → Leads (.copyUnitRead c ch) s (fun t => t.mem = s.mem ∧ ∃ h', t.chan c ch = some h' ∧ h'.coming = [] ∧
        h'.stop = some { pos := 0, status := e.status, addr := e.src } ∧
        h'.outq = h.outq.filter (fun o => h.begun (h.unitOf o.idx))))) ∧
    (∀ o os, h.stop = none → h.coming = [] → h.writeAt ≤ s.cyc → h.cmd.readCount ≤ h.reads → h.outq = o :: os →
      o.word = none →
      (h.cmd.op ≠ 0x28 → h.cmd.op ≤ 0x23 ∨ h.cmd.op = 0x29 → (o.idx / l + 1) * l ≤ h.taken) →
      (Descr.glb h.cmd.da = false →
        let flat := nestLine h.cmd.da write o.idx
        (s.core c).accessStatus 6 actor flat = 0 → LineFree s c flat.toNat →
        Leads (.copyUnitRead c ch) s (fun t => t.mem = s.mem ∧ ∃ h', t.chan c ch = some h' ∧ h'.outq = os ∧
          h'.writing = h.writing ++
            [{ out := o, flat := some flat.toNat, at_ := s.cyc + busyFor flat.toNat, bad := none }])) ∧
      (∀ pa s1, s.writeSide c h.cmd o.idx = (.memory pa, s1) → Leads (.copyUnitRead c ch) s (fun t => t.mem = s.mem ∧
        (∃ h', t.chan c ch = some h' ∧ h'.outq = os ∧
          h'.writing = h.writing ++ [{ out := o, flat := none, at_ := 0, bad := none }]) ∧
        ∃ g ∈ t.writes, g.pa = pa ∧ g.bytes = bytesOf 128 o.val.toNat ∧ g.core = c ∧ g.ctx = h.cmd.ctx ∧ g.acc = h.access ∧
          g.unit = o.idx ∧ g.level = none)))

/-- R52, R206, R208, R210, R218: a local write of a copy is performed at the end of its busy window, unless its bank has
changed owners, which ends the command with BOWN; a copy whose writes have been performed completes its token, and one
that met a fault leaves the lines it has not written, in banks of its launch, marked POISON. -/
def Sys2Proof.CopyEnds : Prop :=
  ∀ (s : State) (c ch : Nat) (h : Channel), c < 192 → ch < 4 → s.chan c ch = some h →
    (∀ w flat, h.writing = [w] → w.flat = some flat → w.bad = none → w.at_ ≤ s.cyc → w.out.word = none →
      let st := (s.core c).accessStatus 6 (s.actsFor c h.cmd.ctx) (flat : Nat)
      (st = 0 → hasSync h.cmd = false → Leads (.copyUnitWritePerformed c ch w.out.idx) s (fun t =>
        LineStored s t c flat w.out.val ∧ t.markOf (spAddr c flat) = (if w.out.group = true then .group else .clean) ∧
        ∃ h', t.chan c ch = some h' ∧ h'.writing = [] ∧ h'.written = h.written ++ [(c, flat)])) ∧
      (st ≠ 0 → Leads (.copyUnitWritePerformed c ch w.out.idx) s (fun t => t.mem = s.mem ∧
        ∃ h', t.chan c ch = some h' ∧ h'.writing = [] ∧ h'.written = h.written ∧
          h'.stop = some (h.stop.getD { pos := 0, status := st, addr := flat })))) ∧
    (h.started = true → h.finished = true → h.final = none → (inputStatus h.cmd.ins).1 = 0 → h.word = none →
      (s.core c).joins = [] → s.writes = [] → h.cmd.ctx < 5 → stopStatus h.stop ≠ 0x43 →
      Leads (.copyCommandComplete c ch) s (fun t => t.mem = s.mem ∧ t.chan c ch = none ∧
        TokenDone s t c h.cmd.ctx h.cmd.id (stopStatus h.stop) (stopAddr h.stop) ∧
        (stopStatus h.stop = 0 → t.marks = s.marks) ∧
        (stopStatus h.stop ≠ 0 → h.cmd.op ≠ 0x27 →
          ∀ e ∈ s.poisonTargets c h.cmd h.written false, t.markOf (spAddr e.1 e.2) = .poison)))

/-- R202, R206: a credit of a unit's bytes adds them to COUNT, which saturates; when an armed word's COUNT reaches TARGET
the generation advances. Stated for a word of no launch or of one that neither records nor replays. -/
def Sys2Proof.Credits : Prop :=
  ∀ (s : State) (c slot n : Nat), slot < 2 ^ 25 →
    (∀ l vc y, s.wordLaunch c slot = some (l, vc, y) → l.recording = false ∧ l.replay = false) →
    let old := s.syncWord c slot
    let count := min (old % 2 ^ 32 + n) (2 ^ 32 - 1)
    let target := old / 2 ^ 32 % 2 ^ 32
    let t := s.credit c slot n 0 false
    let new := t.syncWord c slot
    new / 2 ^ 32 % 2 ^ 32 = target ∧ (∀ i, 82 ≤ i → i < 128 → new.testBit i = old.testBit i) ∧
    (if old.testBit 80 = true ∧ target ≤ count then
      new % 2 ^ 32 = count - target ∧ new / 2 ^ 64 % 2 ^ 16 = (old / 2 ^ 64 % 2 ^ 16 + 1) % 2 ^ 16 ∧
        new.testBit 80 = false ∧ new.testBit 81 = (old.testBit 81 || decide (count ≠ target))
    else new % 2 ^ 32 = count ∧ new / 2 ^ 64 % 2 ^ 18 = old / 2 ^ 64 % 2 ^ 18) ∧
    ∀ b, b < spAddr c 0 + 16 * slot ∨ spAddr c 0 + 16 * slot + 16 ≤ b → t.mem.read b = s.mem.read b

/-- The updates of a window, one after another in the order of the stream; an index of all ones is skipped (R224). -/
def Sys2Proof.scattered (cmd : Cmd) (c : Nat) (es : List (Nat × Nat)) (m : Memory) : Memory :=
  es.foldl (fun m e =>
    let a := spAddr c 0 + Descr.aux cmd.db * 128 + e.1 * scaSize cmd
    if e.1 = 0xFFFFFFFF then m else m.store a (scaSize cmd) (scaApply cmd (m.load a (scaSize cmd)) e.2)) m
/-- R224: what each operation makes of the old word and the operand. -/
def Sys2Proof.ScatterOperations : Prop :=
  ∀ (cmd : Cmd) (old v : Nat),
    let op := cmd.f.mode.toNat % 8
    let w := if cmd.f.mode.getLsbD 3 = true then 64 else 32
    let r := scaApply cmd old v
    8 * scaSize cmd = w ∧
    (op = 0 → r = (old + v) % 2 ^ w) ∧
    (op = 1 → r = (fp32.round 0 false (Machine.Num.add 0 (num32 old) (num32 v)).1).1) ∧
    (op = 2 → cmd.f.mode.getLsbD 4 = false → (r = old ∨ r = v) ∧ signedOf w r = max (signedOf w old) (signedOf w v)) ∧
    (op = 3 → cmd.f.mode.getLsbD 4 = false → (r = old ∨ r = v) ∧ signedOf w r = min (signedOf w old) (signedOf w v)) ∧
    (op = 2 → cmd.f.mode.getLsbD 4 = true → MaxOf fp32 old v r) ∧
    (op = 3 → cmd.f.mode.getLsbD 4 = true → MinOf fp32 old v r) ∧
    (op = 4 → r = old ||| v) ∧ (op = 5 → r = old &&& v) ∧ (op = 6 → r = v)

/-- R210: the lines that a copy which met a fault marks POISON: the lines of its destination nest, in its own scratchpad or
through the aperture in that of another core of its launch, that lie in a bank of its launch and have not been written, or
with `all` the written ones too (R218); a comparison has none. -/
def Sys2Proof.PoisonedLines : Prop :=
  ∀ (s : State) (c : Nat) (cmd : Cmd) (written : List (Nat × Nat)) (all : Bool) (d flat : Nat),
    let l := if (cmd.op ≤ 0x23 ∨ cmd.op = 0x28 ∨ cmd.op = 0x29) ∧ cmd.f.mode.getLsbD 0 = true then 32 else 1
    let va := fun n => (Descr.vaAt cmd.da (n / l) % (2 ^ 64 : Int)).toNat / (128 * l) * (128 * l) + 128 * (n % l)
    let named := fun n => if Descr.glb cmd.da = true
      then va n < 2 ^ 57 ∧ va n / 2 ^ 37 = 2 ^ 20 - 1 ∧ va n / 2 ^ 7 % 2 ^ 22 = flat ∧
        s.coreOf (s.ctx c cmd.ctx).launch (va n / 2 ^ 29 % 2 ^ 8) = some d
      else d = c ∧ nestLine cmd.da l n = (flat : Int)
    (d, flat) ∈ s.poisonTargets c cmd written all ↔
      cmd.op ≠ 0x27 ∧ (∃ n, n < Descr.product cmd.da * l ∧ named n) ∧ flat < 384 * 8192 ∧
        (all = true ∨ (d, flat) ∉ written) ∧ cmd.ctx ≠ 4 ∧ ((s.core d).bank (flat / 8192)).launch ≠ 0 ∧
        ((s.core d).bank (flat / 8192)).launch = (s.ctx c cmd.ctx).launch

/-- The command that the scatter-accumulate engine runs, in a phase of its window whose accesses are made. -/
def Sys2Proof.ScaAt (s : State) (c : Nat) (r : Scattering) (phase : Phase) : Prop :=
  c < 192 ∧ (s.core c).scaNow = some r ∧ r.ending = false ∧ s.scaMayBegin c r = true ∧ r.outq = [] ∧ r.due ≤ s.cyc ∧
    r.phase = phase ∧ r.todo = []

/-- R223 to R226: a scatter-accumulate command starts 2 cycles after its release; for every window of 64 updates it reads
the lines of its streams and then accesses those of its targets, each when its bank is free, and applies the updates in
the order of the stream; SCA.FUPD pushes the old values into its port; the token follows the last write. Stated for
targets in the core's own scratchpad; that the lines are accessed one after another is log entry 41. -/
def Sys2Proof.ScatterSteps : Prop :=
  (∀ (s : State) (c : Nat) (cmd : Cmd) (q : List Cmd), c < 192 → (s.core c).scaNow = none → (s.core c).scaQ = cmd :: q →
    (s.cluster (c / 4)).throttle < 3 → inputsDone cmd.ins = true → cmd.at_ + 2 ≤ s.cyc → inputsCycle cmd.ins + 2 ≤ s.cyc →
    Leads (.scaCommandStart c) s (fun t => t.mem = s.mem ∧ (t.core c).scaQ = q ∧ ∃ r, (t.core c).scaNow = some r ∧
      r.cmd = cmd ∧ r.window = 0 ∧ r.phase = .idle ∧ r.todo = [] ∧ r.outq = [] ∧
      (if (inputStatus cmd.ins).1 = 0 then r.ending = false ∧ r.stop = none
        else r.ending = true ∧
          r.stop = some { pos := 0, status := (inputStatus cmd.ins).1, addr := (inputStatus cmd.ins).2 }))) ∧
  (∀ (s : State) (c : Nat) (r : Scattering), ScaAt s c r .idle → 64 * r.window < scaEntries r.cmd →
    (∀ f ∈ streamLines r.cmd (64 * r.window) r.size, (s.core c).accessStatus 7 (s.actsFor c r.cmd.ctx) f = 0) →
    Leads (.scaWindowApply c) s (fun t => t.mem = s.mem ∧ ∃ r', (t.core c).scaNow = some r' ∧ r'.phase = .streams ∧
      r'.todo = (streamLines r.cmd (64 * r.window) r.size).map (fun f => (c, f.toNat)) ∧ r'.window = r.window)) ∧
  (∀ (s : State) (c : Nat) (r : Scattering) (d flat : Nat) (rest : List (Nat × Nat)), c < 192 → (s.core c).scaNow = some r →
    r.ending = false → s.scaMayBegin c r = true → r.outq = [] → r.due ≤ s.cyc → r.todo = (d, flat) :: rest →
    LineFree s d flat →
    Leads (.scaWindowApply c) s (fun t => t.mem = s.mem ∧ s.cyc + busyFor flat ≤ ((t.core d).bank (flat / 8192)).busyUntil ∧
      ∃ r', (t.core c).scaNow = some r' ∧ r'.todo = rest ∧ r'.phase = r.phase ∧
        (rest = [] → s.cyc + busyFor flat ≤ r'.due ∧ r.last ≤ r'.due))) ∧
  (∀ (s : State) (c : Nat) (r : Scattering), ScaAt s c r .targets → r.entries.length = r.size → s.writes = [] → r.sent = [] →
    r.cmd.f.mode.getLsbD 5 = false →
    (∀ e ∈ r.entries, e.1 ≠ 0xFFFFFFFF →
      let flat := (Descr.aux r.cmd.db * 128 + e.1 * scaSize r.cmd) / 128
      (s.core c).accessStatus 7 (s.actsFor c r.cmd.ctx) (flat : Nat) = 0 ∧ markCode (s.readMark c flat) = 0) →
    let size := scaSize r.cmd
    Leads (.scaWindowApply c) s (fun t => t.mem = scattered r.cmd c r.entries s.mem ∧
      ∃ r', (t.core c).scaNow = some r' ∧ r'.window = r.window + 1 ∧ r'.stop = r.stop ∧ r'.phase = .idle ∧
        (r.cmd.op = 0x30 → r'.outq = []) ∧
        (r.cmd.op = 0x31 → ∀ i e, i < r.size / (128 / size) * (128 / size) → r.entries[i]? = some e →
          elemOf (8 * size) (r'.outq.getD (i / (128 / size)) 0) (i % (128 / size)) = if e.1 = 0xFFFFFFFF then 0 else
            (scattered r.cmd c (r.entries.take i) s.mem).load
              (spAddr c 0 + Descr.aux r.cmd.db * 128 + e.1 * size) size))) ∧
  (∀ (s : State) (c n : Nat) (r : Scattering) (v : Line) (vs : List Line) (ns : List Nat), c < 192 →
    (s.core c).scaNow = some r → r.ending = false → s.scaMayBegin c r = true → r.outq = v :: vs → r.cmd.ports = n :: ns →
    (s.port c n).fault = none → (s.port c n).fifo.length + (s.port c n).reserved < 16 →
    (s.port c n).pos + (s.port c n).reserved < Descr.product (s.port c n).cfg →
    Leads (.scaWindowApply c) s (fun t => t.mem = s.mem ∧ (t.port c n).fifo = (s.port c n).fifo ++ [{ val := v, flg := 0 }] ∧
      ∃ r', (t.core c).scaNow = some r' ∧ r'.outq = vs)) ∧
  ∀ (s : State) (c : Nat) (r : Scattering), c < 192 → (s.core c).scaNow = some r → r.ending = true →
    (∀ n ∈ r.cmd.ports, (s.port c n).fifo = [] ∧ (s.port c n).performed ≤ s.cyc ∧ (s.port c n).fault = none) →
    (s.core c).joins = [] → r.cmd.ctx < 5 →
    Leads (.scaCommandComplete c) s (fun t => t.mem = s.mem ∧ (t.core c).scaNow = none ∧
      TokenDone s t c r.cmd.ctx r.cmd.id (stopStatus r.stop) (stopAddr r.stop))

/-- A copy takes a free channel and starts 2 cycles after its release, reads and writes the lines and pages of its
nests, makes of them what its command says (a copy, an expansion, a dense row, a fingerprint, a comparison, a fill, a
CRC), credits its sync word and completes its token, or marks the lines it has not written (R202, R204 to R218); a
scatter-accumulate applies its updates window by window in the order of its stream, each operation as R224 states it
(R223 to R226). What a window with a fault applies (log entry 41), when an expansion writes its rows (log entry 42),
the word that a SYNC copy credits (log entry 43), the lines of a page unit (log entry 44) and accesses to other cores
(log entry 45) are the model's readings. -/
def Obligations.CopyAndScatterSteps : Prop :=
  CopyStarts ∧ CopyMakes ∧ GrfExpansion ∧ CopyAccesses ∧ CopyEnds ∧ PoisonedLines ∧ Credits ∧ ScatterOperations
  ∧ ScatterSteps

/-! ## Launches, and contexts saved and restored (R258, R276 to R286) -/

/-- A queue is the only one that holds a vector, and its head is `v`. -/
def Sys2Proof.OneHead (s : State) (q : Nat) (v : Memory) : Prop :=
  q < 64 ∧ (s.queue q).vectors = [v] ∧ ∀ r, r ≠ q → (s.queue r).vectors = []
/-- The same, while no launch waits for a pre-emption. -/
def Sys2Proof.LoneHead (s : State) (q : Nat) (v : Memory) : Prop := OneHead s q v ∧ s.preempting = []
/-- Two queues hold one vector each, no others hold any, and nothing waits. The first is looked at before the second:
for its higher priority, or for its place behind the pointer of their priority. -/
def Sys2Proof.TwoHeads (s : State) (a b : Nat) (u v : Memory) : Prop :=
  a < 64 ∧ b < 64 ∧ a ≠ b ∧ (s.queue a).vectors = [u] ∧ (s.queue b).vectors = [v] ∧
    (∀ r, r ≠ a → r ≠ b → (s.queue r).vectors = []) ∧ s.preempting = [] ∧ s.waiters = [] ∧
    eventsSet (s.partOf (s.queue a).part) u = true ∧ eventsSet (s.partOf (s.queue b).part) v = true ∧
    let p := s.qptr.get 0 (vecPrio u)
    (vecPrio v < vecPrio u ∨ (vecPrio v = vecPrio u ∧ (a + 64 - p % 64) % 64 < (b + 64 - p % 64) % 64))
/-- The lowest-numbered free user context of a core. -/
def Sys2Proof.LowestFree (s : State) (c x : Nat) : Prop :=
  x < 4 ∧ (s.ctx c x).status = .free ∧ ∀ y, y < x → (s.ctx c y).status ≠ .free
/-- A map of virtual clusters to physical ones is the one of R279: in order, each to the lowest-numbered cluster of the
partition that no earlier one took and that meets the conditions `ok` for its cores. -/
def Sys2Proof.LowestMap (s : State) (part : Nat) (ok : Nat → Nat → Prop) (m : List (Nat × Nat)) : Prop :=
  ∀ i v cl, m[i]? = some (v, cl) → ok cl v ∧ (s.cluster cl).part = part ∧ cl < 48 ∧ (∀ e ∈ m.take i, e.2 ≠ cl) ∧
    ∀ d, d < cl → (s.cluster d).part = part → (∀ e ∈ m.take i, e.2 ≠ d) → ¬ ok d v
/-- A cluster meets the conditions of R279 for the cores of one virtual cluster. -/
abbrev Sys2Proof.meetsFor (s : State) (v : Memory) (cl : Nat) (mine : List Need) : Bool :=
  s.clusterMeets cl (vecPrio v) (vecImage v) mine Gone.nobody
/-- The cores of a launch that lie in one virtual cluster. -/
abbrev Sys2Proof.inCluster (ns : List Need) (v : Nat) : List Need := ns.filter (fun n => decide (n.vcore / 4 = v))
/-- The state in which a queue's head waits. -/
def Sys2Proof.waiting (s : State) (q : Nat) : State :=
  if s.waiters.contains q = true then s else { s with waiters := s.waiters ++ [q] }

/-- R279, R282: an attempt without an eligible head does nothing; a rejected vector completes without a context; of two
heads the higher priority comes first, and within a priority the queue that follows the pointer; a launch of priority 0 to
2 that cannot be placed waits, and holds back a head of its partition with its priority or a lower one, but a malformed
head is rejected all the same; when a waiting head leaves its queue another attempt follows (log entry 27). -/
def Sys2Proof.DispatchOrder : Prop :=
  ∀ s : State,
    ((∀ q, q < 64 → s.eligible q = none) → exec .launchPlacement s = .next s) ∧
    (∀ q v, OneHead s q v →
      (eventsSet (s.partOf (s.queue q).part) v = false → exec .launchPlacement s = .next s) ∧
      (eventsSet (s.partOf (s.queue q).part) v = true → s.rejectCode q v ≠ 0 → Leads .launchPlacement s (fun t =>
        t.mem = s.mem ∧ t.cores = s.cores ∧ (t.queue q).vectors = [] ∧
        ∃ l, t.launches = s.launches ++ [l] ∧ l.rcode = s.rejectCode q v ∧ l.members = [] ∧
          ((∀ p ∈ s.preempting, p.queue ≠ q) → l.lidx = s.lidx + 1 ∧ t.lidx = s.lidx + 1) ∧
          (∀ p, s.preempting = [p] → p.queue = q → l.lidx = p.lidx ∧ t.lidx = s.lidx ∧ t.preempting = []) ∧
          (s.waiters.contains q = true → t.waiters.contains q = false ∧ (s.cyc + 275, Instr.launchPlacement) ∈ t.calendar) ∧
          ∃ due, s.cyc < due ∧ (due, Instr.launchCompletion l.lidx) ∈ t.calendar)) ∧
      ∀ ns, eventsSet (s.partOf (s.queue q).part) v = true → s.rejectCode q v = 0 → vecPrio v < 3 →
        s.needs (vecPart v) v (vecCores v) = some ns →
        mapClusters (fun cl mine => !s.keptFor q cl mine && meetsFor s v cl mine) ns (clustersOf (vecCores v))
          (s.partClusters (vecPart v)) = none →
        exec .launchPlacement s = .next (waiting s q)) ∧
    ∀ a b u v, TwoHeads s a b u v →
      (s.rejectCode a u ≠ 0 → s.rejectCode b v ≠ 0 → Leads .launchPlacement s (fun t => ∃ l m,
        t.launches = s.launches ++ [l, m] ∧ l.queue = a ∧ l.lidx = s.lidx + 1 ∧ l.rcode = s.rejectCode a u ∧
        m.queue = b ∧ m.lidx = s.lidx + 2 ∧ m.rcode = s.rejectCode b v ∧ t.cores = s.cores)) ∧
      ∀ ns, s.rejectCode a u = 0 → vecPrio u < 3 → (s.queue a).part = (s.queue b).part →
        s.needs (vecPart u) u (vecCores u) = some ns →
        mapClusters (meetsFor s u) ns (clustersOf (vecCores u)) (s.partClusters (vecPart u)) = none →
        (s.rejectCode b v = 0 → exec .launchPlacement s = .next (waiting s a)) ∧
        (s.rejectCode b v ≠ 0 → Leads .launchPlacement s (fun t => t.cores = s.cores ∧ t.waiters = [a] ∧
          (t.queue a).vectors = [u] ∧ (t.queue b).vectors = [] ∧
          ∃ m, t.launches = s.launches ++ [m] ∧ m.queue = b ∧ m.lidx = s.lidx + 1 ∧ m.rcode = s.rejectCode b v))

/-- R282, Tables 17.1 to 17.4: what each RCODE says of its vector, and that a vector with none of these faults is not rejected. The
order of the checks is the model's choice (log entry 27). -/
def Sys2Proof.RejectionCodes : Prop :=
  ∀ (s : State) (q : Nat) (v : Memory),
    let part := (s.queue q).part
    let code := s.rejectCode q v
    let w := v.load 0 8
    let logs := fun write => ∃ i, i < vecLogpages v ∧ s.xlatePart part (vecLogva v + 4096 * i) write = none
    let table := s.loadVa part (vecImgva v) 8
    let needs := s.needs part v (vecCores v)
    code ≤ 7 ∧
    (vecReserved v = true ↔ w / 2 ^ 39 % 2 ^ 25 ≠ 0 ∨ (∃ i, i < 4 ∧ v.load 16 8 / 2 ^ (16 * i + 12) % 16 ≠ 0) ∨
      v.load 24 8 / 2 ^ 12 ≠ 0 ∨ v.load 56 8 / 2 ^ 32 ≠ 0 ∨ v.load 40 8 % 4096 ≠ 0 ∨ v.load 48 8 % 4096 ≠ 0 ∨
      (v.load 48 8 ≠ 0 ∧ w.testBit 37 = false ∧ w.testBit 38 = false) ∨ v.window 960 3136 ≠ []) ∧
    (code = 1 ↔ w / 2 ^ 32 % 8 ≠ part) ∧
    (w / 2 ^ 32 % 8 = part → w / 2 ^ 39 ≠ 0 ∨ v.load 40 8 % 4096 ≠ 0 ∨ v.load 48 8 % 4096 ≠ 0 →
      w < 2 ^ 64 → code = 2) ∧
    (code = 2 → vecReserved v = true ∨ ∃ x ns, table = some x ∧ needs = some ns ∧ (x / 2 ^ 32 ≠ 0 ∨ ∃ n ∈ ns, n.other = true)) ∧
    (code = 3 → vecCores v = [] ∨ ∃ ns, needs = some ns ∧ ∃ n ∈ ns, n.nb ≤ n.entry) ∧
    (code = 4 → ∃ x ns, table = some x ∧ needs = some ns ∧
      (x % 2 ^ 32 ≠ w % 2 ^ 32 ∨ ∃ n ∈ ns, n.nb < 2 ∨ 8192 < n.nb)) ∧
    (code = 5 → ∃ ns, needs = some ns ∧ ((∃ n ∈ ns, 96 < n.tiles ∨ n.bhi < n.blo ∨ 383 < n.bhi) ∨
      (s.partClusters part).length < (clustersOf (vecCores v)).length)) ∧
    (code = 6 → s.xlatePart part (v.load 40 8) true = none ∨ table = none ∨ needs = none ∨
      (∃ ns, needs = some ns ∧ ∃ n ∈ ns, needReadable s part n = false) ∨
      (w.testBit 37 = true ∧ logs true) ∨ (w.testBit 38 = true ∧ logs false)) ∧
    (code = 7 ↔ w / 2 ^ 32 % 8 = part ∧ vecReserved v = false ∧ vecCores v ≠ [] ∧
      ((w.testBit 37 = true ∧ w.testBit 38 = true) ∨
        ((w.testBit 37 = true ∨ w.testBit 38 = true) ∧ v.load 56 8 % 2 ^ 32 = 0))) ∧
    (code = 0 → w / 2 ^ 32 % 8 = part ∧ vecReserved v = false ∧ vecCores v ≠ [] ∧
      (s.xlatePart part (v.load 40 8) true).isSome = true ∧
      ∃ x ns, table = some x ∧ needs = some ns ∧ x = w % 2 ^ 32 ∧
        (clustersOf (vecCores v)).length ≤ (s.partClusters part).length ∧
        ∀ n ∈ ns, n.entry < n.nb ∧ 2 ≤ n.nb ∧ n.nb ≤ 8192 ∧ n.tiles ≤ 96 ∧ n.blo ≤ n.bhi ∧ n.bhi ≤ 383 ∧
          needReadable s part n = true)

/-- R8, R10, R279, R283, R305: a launch is placed, virtual cluster by virtual cluster, on the lowest clusters of its partition
that meet its needs: every core it names gets its lowest free context, a block of tiles that read 0, the banks of its
range with a reset tag table, and the state of Table 1.2; ARG is written at RECVA after code and data. A core that sleeps
wakes, and issues after its sweep of 8,192 cycles (R265). Where a layer of its banks is off, that layer is powered first
and the launch waits. -/
def Sys2Proof.LaunchPlacementStep : Prop :=
  ∀ (s : State) (q : Nat) (v : Memory) (ns : List Need) (m : List (Nat × Nat)), LoneHead s q v →
    eventsSet (s.partOf (s.queue q).part) v = true → s.rejectCode q v = 0 →
    s.needs (vecPart v) v (vecCores v) = some ns →
    mapClusters (meetsFor s v) ns (clustersOf (vecCores v)) (s.partClusters (vecPart v)) = some m →
    LowestMap s (vecPart v) (fun cl w => meetsFor s v cl (inCluster ns w) = true) m ∧
    m.map (fun e => e.1) = clustersOf (vecCores v) ∧
    (∀ n c layer, n ∈ ns → c = mappedCore m n.vcore → layer ∈ (s.core c).layersOff n → Leads .launchPlacement s (fun t =>
      t.cores = s.cores ∧ t.mem = s.mem ∧ (t.queue q).vectors = [v] ∧ t.launches = s.launches ∧
      ∃ due, (due, Instr.layerPowerOn c layer) ∈ t.calendar)) ∧
    ((∀ n ∈ ns, (s.core (mappedCore m n.vcore)).layersOff n = []) → Leads .launchPlacement s (fun t =>
      (t.queue q).vectors = [] ∧ t.lidx = s.lidx + 1 ∧ t.qptr.get 0 (vecPrio v) = (q + 1) % 64 ∧
      ∃ l : Launch, t.launches = s.launches ++ [l] ∧ l.lidx = s.lidx + 1 ∧ l.rcode = 0 ∧ l.claims = 0 ∧ l.wcnt = v.load 8 8 ∧
        l.prio = vecPrio v ∧ l.part = vecPart v ∧ l.members.length = ns.length ∧
        (let begun : State := { ({ s with lidx := s.lidx + 1 } : State).dropHead q with launches := s.launches ++ [l] }
         let set := ns.foldl (fun t n => t.startCore (vecPart v) (mappedCore m n.vcore) (vecImage v) l n) begun
         ∀ pa, set.xlatePart (vecPart v) (vecRecva v) true = some pa → set.revoked pa = false →
           Stored set.mem t.mem (set.storeAddr pa) (v.bytes 832 128)) ∧
        ∀ (i : Nat) (n : Need), ns[i]? = some n →
          let c := mappedCore m n.vcore
          ∃ x base, LowestFree s c x ∧ (s.core c).tileBlock n.tiles = some base ∧
            l.members[i]? = some { vcore := n.vcore, core := c, ctx := x, state := .active } ∧
            (∀ y, y ≠ x → t.ctx c y = s.ctx c y) ∧ (t.core c).asleep = false ∧
            (t.core c).awakeFrom = (if (s.core c).asleep = true then s.cyc + 8192 else (s.core c).awakeFrom) ∧
            (∀ b, n.blo ≤ b → b ≤ n.bhi → ((t.core c).bank b).owner = BitVec.ofNat 16 (0x1000 + 0x100 * x) ∧
              ((t.core c).bank b).launch = s.lidx + 1 ∧ ∀ k, (((t.core c).bank b).tag k).valid = false) ∧
            (∀ r b, r < 32 → base ≤ b → b < base + n.tiles → (t.core c).tileRow b r = 0) ∧
            let u := t.ctx c x
            u.status = .running ∧ u.launch = s.lidx + 1 ∧ u.prio = vecPrio v ∧ u.vcore = n.vcore ∧ u.pc = n.entry ∧
            u.tileBase = base ∧ u.tileCount = n.tiles ∧ u.argp = BitVec.ofNat 64 (vecRecva v) ∧ u.segid = 0 ∧
            u.segtry = 0 ∧ u.pwq = [] ∧ u.loop.active = false ∧ u.redirect = none ∧ u.flags = 0 ∧ u.bcnt = 0 ∧
            (∃ k, u.ckpt = some k ∧ k.pc = n.entry ∧ k.pwq = []) ∧
            (∀ r, u.readC r = 0) ∧ (∀ r, r ≠ 0 → u.readQ r = 0) ∧ (∀ r, u.readE r = 0 ∧ u.readD r = 0)))

/-- R281: a launch of priority 3 that lacks resources takes its LIDX and sends PRE, with that LIDX, to every active context
of each victim launch; no victim has priority 3; and no other launch is placed on the cores it needs. Victims of a core
are taken with the lowest priority first and, among equals, the latest-placed launch, until what they hold suffices
(which of them a cluster needs, core by core, is the model's choice, log entry 27). -/
def Sys2Proof.Preemption : Prop :=
  (∀ (s : State) (q : Nat) (v : Memory) (ns : List Need) (m : List (Nat × Nat)) (g : Gone), LoneHead s q v →
    eventsSet (s.partOf (s.queue q).part) v = true → s.rejectCode q v = 0 → vecPrio v = 3 →
    s.needs (vecPart v) v (vecCores v) = some ns →
    mapClusters (meetsFor s v) ns (clustersOf (vecCores v)) (s.partClusters (vecPart v)) = none →
    mapClusters (fun cl mine => (s.victimsOf cl (vecImage v) mine mine Gone.nobody).isSome) ns
      (clustersOf (ns.map (fun n => n.vcore))) (s.partClusters (vecPart v)) = some m →
    s.allVictims (vecImage v) ns m Gone.nobody = some g →
    (∀ p ∈ g.ctxs, (s.ctx p.1 p.2).status ≠ .free ∧ (s.ctx p.1 p.2).prio < 3) ∧
    Leads .launchPlacement s (fun t =>
      t.mem = s.mem ∧ t.launches = s.launches ∧ (t.queue q).vectors = [v] ∧ t.lidx = s.lidx + 1 ∧
      t.preempting = [{ queue := q, lidx := s.lidx + 1, cores := ns.map (fun n => mappedCore m n.vcore) }] ∧
      ∀ c x, t.ctx c x = s.ctx c x ∨ t.ctx c x = { s.ctx c x with
          events := { (s.ctx c x).events with pre := some (BitVec.ofNat 64 (s.lidx + 1)) } } ∧
        ∃ i ∈ g.launches, ∃ l, s.launchOf i = some l ∧ ∃ e ∈ l.members, e.core = c ∧ e.ctx = x ∧ e.state = .active) ∧
    Leads .launchPlacement s (fun t => ∀ i ∈ g.launches, ∀ l, s.launchOf i = some l → ∀ e ∈ l.members, e.state = .active →
      (t.ctx e.core e.ctx).events.pre = some (BitVec.ofNat 64 (s.lidx + 1)))) ∧
  (∀ (s : State) (q : Nat) (v : Memory) (n : Need), OneHead s q v → eventsSet (s.partOf (s.queue q).part) v = true →
    s.rejectCode q v = 0 → vecPrio v < 3 → s.needs (vecPart v) v (vecCores v) = some [n] → vecCores v = [n.vcore] →
    (∀ cl, cl < 48 → (s.cluster cl).part = vecPart v → ∃ p ∈ s.preempting, p.queue ≠ q ∧ 4 * cl + n.vcore % 4 ∈ p.cores) →
    exec .launchPlacement s = .next (waiting s q)) ∧
  ∀ (k : Core) (c : Nat),
    (∀ e, e ∈ k.victims c ↔ e.1 = c ∧ e.2.1 < 4 ∧ (k.ctx e.2.1).status ≠ .free ∧ (k.ctx e.2.1).prio < 3 ∧
      e.2.2 = (k.ctx e.2.1).launch) ∧
    (k.victims c).Pairwise (fun a b => (k.ctx a.2.1).prio < (k.ctx b.2.1).prio ∨
      ((k.ctx a.2.1).prio = (k.ctx b.2.1).prio ∧ b.2.2 ≤ a.2.2)) ∧
    ∀ (ok : Gone → Bool) (g h : Gone) (vs : List (Nat × Nat × Nat)), growVictims ok g vs = some h →
      let gone := fun n => ({ ctxs := g.ctxs ++ (vs.take n).map (fun e => (e.1, e.2.1)),
                              launches := g.launches ++ (vs.take n).map (fun e => e.2.2) } : Gone)
      ∃ n, n ≤ vs.length ∧ h = gone n ∧ ok h = true ∧ ∀ j, j < n → ok (gone j) = false

/-- R28, R282, R284, R285, R295, Table 17.4: a launch whose contexts have all retired leaves the part; its record is written at
RECVA + 128 and then its event is set. A record that cannot be written sets NOREC of its queue; through a revoked window
nothing is written. -/
def Sys2Proof.LaunchCompletionStep : Prop :=
  ∀ (s : State) (lidx : Nat) (l : Launch), s.launchOf lidx = some l →
    (l.over = false → exec (.launchCompletion lidx) s = .next s) ∧
    (l.over = true →
      (∀ pa, s.xlatePart l.part (l.recva + 128) true = some pa → Leads (.launchCompletion lidx) s (fun t =>
        t.launchOf lidx = none ∧ (∀ i, i ≠ lidx → t.launchOf i = s.launchOf i) ∧
        (l.signal ≠ 0 → l.signal < 4096 → (t.partOf l.part).events.getLsbD l.signal = true) ∧
        (s.revoked pa = true → t.mem = s.mem) ∧
        let a := s.storeAddr pa
        (s.revoked pa = false →
          t.mem.load (a + 8) 8 = l.lidx % 2 ^ 64 ∧ t.mem.load (a + 16) 8 = l.wcnt % 2 ^ 64 ∧
          t.mem.load (a + 24) 8 = l.claims % 2 ^ 64 ∧
          (∀ vc, vc < 192 → (t.mem.load (a + 32) 24).testBit vc =
            l.members.any (fun e => decide (e.vcore = vc ∧ e.state = .aborted))) ∧
          (l.rcode < 256 → t.mem.load a 8 = (if l.rcode ≠ 0 then 2
            else if l.members.any (fun m => decide (m.state = .aborted)) = true then 1 else 0) +
              (if l.lost = true then 4 else 0) + 256 * l.rcode)) ∧
        ∀ b, b < a ∨ a + 56 ≤ b → t.mem.read b = s.mem.read b)) ∧
      (s.xlatePart l.part (l.recva + 128) true = none → Leads (.launchCompletion lidx) s (fun t => t.mem = s.mem ∧
        t.launchOf lidx = none ∧ (t.queue l.queue).norec = true)))

/-- The dispatcher leaves, rejects, holds back or places the heads of the queues in the order of R279, with the codes
of R282; placement sets up every core the launch names (R283), a launch of priority 3 pre-empts (R281), and a launch
whose contexts have retired leaves its record and then its event (R28, R284). Which heads a waiting launch holds back,
the order of the checks of a vector, and the victims of a cluster, are the model's choice (log entry 27). -/
def Obligations.LaunchSteps : Prop :=
  DispatchOrder ∧ RejectionCodes ∧ LaunchPlacementStep ∧ Preemption ∧ LaunchCompletionStep

/-- R258: CSAVE writes its context away and frees it once its commands and accesses are done; CLOAD sets a saved context
up again, parked; an area that cannot be translated, and an uncorrectable error in what is saved or read, are supervisor
faults and change nothing. That TVAL is the VA of the area for XLAT and UNCR alike, that UNCR comes before XLAT, that a
CSAVE which fails half way leaves memory as it was and that a CLOAD whose area does not fit ends in ILL are the model's
readings (log entry 77); the layout inside the area is its choice (log entry 29). The reads of a CSAVE fire an injection
that is armed for one of their lines (R275, log entry 49), and a CLOAD waits for writes of its cluster to the area that
stand at the switch (R232, R233, log entry 68). -/
def Obligations.SaveAndRestore : Prop :=
  ∀ (s : State) (c : Nat) (j : SaveJob), c < 192 → (s.core c).saving = some j →
    let part := (s.cluster (c / 4)).part
    let fails := fun (i : Instr) (cause : Cause) => Leads i s (fun t =>
      t.mem = s.mem ∧ (t.core c).saving = none ∧ (∀ y, y ≠ 4 → t.ctx c y = s.ctx c y) ∧
      ∃ r, (t.ctx c 4).status = .trapped r ∧ r.cause = cause ∧ r.tval = BitVec.ofNat 64 j.va)
    (j.load = false → saveWaits (s.core c) j.ctx = true → Leads (.csaveComplete c) s (fun t =>
      t.cores = s.cores ∧ t.mem = s.mem ∧ ∃ due, s.cyc < due ∧ (due, Instr.csaveComplete c) ∈ t.calendar)) ∧
    (let n := namedOf s c j.ctx j.banks
     let read := s.saveReads c j.ctx n
     let z := savedOf read c j.ctx n
     j.load = false → saveWaits (s.core c) j.ctx = false →
     (savesLine (s.core c) j.ctx n ((s.core c).inj.toNat / 2 ^ 16 % 2 ^ 22) = false → read = s) ∧
     read.mem = s.mem ∧ (∀ y, read.ctx c y = s.ctx c y) ∧
     (savedBad read c j.ctx n z = true → fails (.csaveComplete c) .uncr) ∧
     (savedBad read c j.ctx n z = false → j.ctx < 4 →
       let written := State.writePages part j.va n.bytes (areaImage read c j.ctx n s.nextId j.banks) n.pages 0
         { read with nextId := s.nextId + 1 }
       (written = none → fails (.csaveComplete c) .xlat) ∧
       ∀ s1, written = some s1 → Leads (.csaveComplete c) s (fun t => t.mem = s1.mem ∧ (t.core c).saving = none ∧
         t.ctx c j.ctx = Ctx.blank ∧ (∀ y, y ≠ j.ctx → t.ctx c y = s.ctx c y) ∧
         t.saved.at? s.nextId = some z ∧ z.v = s.ctx c j.ctx))) ∧
    (j.load = true → ∀ h n z, s.areaHead (c / 4) j.va = some h → headerNamed h = some n → s.savedIn h = some z →
      areaFits s c n z = false → fails (.cloadComplete c) .ill) ∧
    (j.load = true → ∀ h n z m base, s.areaHead (c / 4) j.va = some h → headerNamed h = some n →
      s.savedIn h = some z → areaFits s c n z = true → (s.core c).banksOff n.banks = [] →
      (s.pagesBehind (c / 4) j.va n.pages = true → Leads (.cloadComplete c) s (fun t =>
        t.cores = s.cores ∧ t.mem = s.mem ∧ ∃ due, s.cyc < due ∧ (due, Instr.cloadComplete c) ∈ t.calendar)) ∧
      (s.pagesBehind (c / 4) j.va n.pages = false → s.readPages (c / 4) j.va n.pages 0 = none →
        fails (.cloadComplete c) .xlat) ∧
      (s.pagesBehind (c / 4) j.va n.pages = false → s.readPages (c / 4) j.va n.pages 0 = some (m, true) →
        fails (.cloadComplete c) .uncr) ∧
      (s.pagesBehind (c / 4) j.va n.pages = false → s.readPages (c / 4) j.va n.pages 0 = some (m, false) →
        (s.core c).tileBlock n.tiles = some base → Leads (.cloadComplete c) s (fun t => (t.core c).saving = none ∧ (∀ y, y ≠ j.ctx → t.ctx c y = s.ctx c y) ∧
          let u := t.ctx c j.ctx
          u.status = .parked ∧ u.tileBase = base ∧ u.pc = z.v.pc ∧ u.c = z.v.c ∧ u.p = z.v.p ∧ u.q = z.v.q ∧
          u.e = z.v.e ∧ u.d = z.v.d ∧ u.pwq = z.v.pwq ∧ u.loop = z.v.loop ∧ u.tok = z.v.tok ∧ u.launch = z.v.launch ∧
          u.vcore = z.v.vcore))) ∧
    (j.load = true → s.areaHead (c / 4) j.va = none → fails (.cloadComplete c) .xlat)

/-! ## What the effects of a bundle do, and where results land (R14 to R17, R57, R89, R93, R94 to R100, R118, R119) -/

/-- R14, R89, R93, R98: a result for a register lands in that register and in no other; c0, the loop indices while a
loop is active, predicate pair 0 and the stage predicates of a loop of two or more stages discard it; the FLAGS of a
descriptor's levels 1 to 5 are stored as 0 (R6, R68). -/
def Sys2Proof.RegisterResultsLand : Prop :=
  ∀ (s : State) (c x : Nat) (e : Pending),
    let shown := fun (w : Nat) (v : Word) => if w < 3 then v else v &&& 0xFFFFFFFFFFFF
    let v := s.ctx c x
    let t := s.land c x e
    let u := t.ctx c x
    (∀ n, e.dest = .creg n → OnlyCtx s t c x ∧ u.flags = v.flags ||| e.flg ∧ u.p = v.p ∧ u.pc = v.pc ∧ u.pwq = v.pwq ∧
      (∀ m, m ≠ n → u.readC m = v.readC m) ∧
      u.readC n = if n = 0 then 0 else if v.loop.active = true ∧ 56 ≤ n ∧ n ≤ 61 then v.readC n
        else e.val.extractLsb' 0 64) ∧
    (∀ k, e.dest = .pred k → k < 8 → OnlyCtx s t c x ∧ u.c = v.c ∧ u.pc = v.pc ∧
      (∀ m, m / 2 ≠ k → u.pred m = v.pred m) ∧
      (if k = 0 ∨ (v.loop.active = true ∧ 2 ≤ v.loop.stages ∧ 4 ≤ k) then u.p = v.p
       else u.pred (2 * k) = e.val.getLsbD 0 ∧ u.pred (2 * k + 1) = e.val.getLsbD 1)) ∧
    (∀ n, e.dest = .qmask n → OnlyCtx s t c x ∧ u.c = v.c ∧ u.p = v.p ∧ (∀ m, m ≠ n → u.readQ m = v.readQ m) ∧
      ∀ i, i < 32 → (u.readQ n).getLsbD i =
        if n = 0 then true else if e.mask.getLsbD i = true then e.val.getLsbD i else (v.readQ n).getLsbD i) ∧
    (∀ n, e.dest = .ereg n → OnlyCtx s t c x ∧ u.c = v.c ∧ u.readE n = e.val.extractLsb' 0 256 ∧
      ∀ m, m ≠ n → u.readE m = v.readE m) ∧
    (∀ n, e.dest = .dreg n → OnlyCtx s t c x ∧ u.c = v.c ∧ (∀ m, m ≠ n → u.readD m = v.readD m) ∧
      ∀ i, i < 8 → (u.readD n).extractLsb' (64 * i) 64 = shown i (e.val.extractLsb' (64 * i) 64)) ∧
    (∀ n w, e.dest = .dword n w → w < 8 → OnlyCtx s t c x ∧ u.c = v.c ∧ (∀ m, m ≠ n → u.readD m = v.readD m) ∧
      ∀ i, i < 8 → (u.readD n).extractLsb' (64 * i) 64 =
        if i = w then shown w (e.val.extractLsb' 0 64) else (v.readD n).extractLsb' (64 * i) 64) ∧
    (∀ n, e.dest = .sync n → OnlyCtx s t c x ∧ u.c = v.c ∧ u.readY n = e.val.extractLsb' 0 64 ∧
      u.readSg n = s.genOf c (e.val.extractLsb' 0 64) % 65536 ∧ ∀ m, m ≠ n → u.readY m = v.readY m)

/-- R54, R116, R248, R252, R268: what a write to a special register leaves when it lands. The register numbers are those of
Table 5.14 and Table 15.1; bits outside the writable fields are ignored (R6). A write of TRAPINFO parks the context of the
current trap (log entry 56); one of DBG writes the entry that SEL names, with TCNT from 0 when TEN becomes 1. -/
def Sys2Proof.SpecialResultsLand : Prop :=
  ∀ (s : State) (c x : Nat) (w : Word),
    let put := fun n : Nat => s.land c x
      { dest := .special n, val := w.setWidth 1024, mask := BitVec.allOnes 32, rem := 1, flg := 0, mark := .clean, addr := 0 }
    ((put 0x07).ctx c x).flags = w.extractLsb' 0 5 ∧ ((put 0x08).ctx c x).escn = w.extractLsb' 0 32 ∧
    ((put 0x0B).ctx c x).drift = w ∧ ((put 0x0E).ctx c x).yptr = w.toNat % 8 ∧
    ((put 0x0F).ctx c x).tmask = w.getLsbD 0 ∧ ((put 0x10).ctx c x).pwin = min w.toNat 128 ∧
    (∀ n ∈ [0x07, 0x08, 0x0B, 0x0E, 0x0F, 0x10], OnlyCtx s (put n) c x ∧ ((put n).ctx c x).c = (s.ctx c x).c) ∧
    ((put 0x24).core c).snap = w &&& 0x73FFFFF ∧ ((put 0x25).core c).inj = w &&& 0x1FFFFFFFFFFFF ∧
    ((put 0x29).core c).dthr = w &&& 0xFFFFFF ∧
    ((put 0x26).partOf (s.cluster (c / 4)).part).troot = w &&& 0xFFFFFFFE00001 ∧
    (let k := (put 0x20).core c
     k.trapinfo = 0 ∧ k.tpc = 0 ∧ k.tslot = 0 ∧ k.tval = 0 ∧
     ∀ y, y < 4 → (s.ctx c y).status = .current → (∀ z, z < y → (s.ctx c z).status ≠ .current) →
       (k.ctx y).status = .parked ∧ ∀ z, z ≠ y → (k.ctx z).status = (s.ctx c z).status) ∧
    let d := (s.core c).dbg
    let k := (put 0x28).core c
    let sel := w.toNat / 2 ^ 60
    (sel = 0 → k.dbg = { d with control := w &&& 0xFFF, sel := 0 } ∧
      k.tcnt = if w.getLsbD 9 = true ∧ d.control.getLsbD 9 = false then 0 else (s.core c).tcnt) ∧
    (1 ≤ sel → sel ≤ 8 → k.dbg = { d with breakpoints := d.breakpoints.set (sel - 1) (w &&& 0x1FFFFF), sel := sel } ∧
      k.tcnt = (s.core c).tcnt) ∧
    (9 ≤ sel → sel ≤ 12 → k.dbg = { d with watches := d.watches.set (sel - 9) (w &&& 0x3FFFFFFFFFF), sel := sel } ∧
      k.tcnt = (s.core c).tcnt) ∧
    (12 < sel → k.dbg = d)

/-- R63, R119: a pushed line joins its write port's FIFO, in the place it had reserved, and the port looks at it in the same
cycle. -/
def Sys2Proof.PushesLand : Prop :=
  ∀ (s : State) (c x n : Nat) (e : Pending), e.dest = .push n → n < 4 →
    let t := s.land c x e
    let p := s.port c (6 + n)
    t.mem = s.mem ∧ (t.ctx c x).c = (s.ctx c x).c ∧ (t.ctx c x).flags = (s.ctx c x).flags ||| e.flg ∧
    (t.port c (6 + n)).fifo = p.fifo ++ [{ val := e.val, flg := 0 }] ∧ (t.port c (6 + n)).pos = p.pos + 1 ∧
    (t.port c (6 + n)).reserved = p.reserved - 1 ∧ (∀ m, m ≠ 6 + n → t.port c m = s.port c m) ∧
    (s.cyc, Instr.writePortWrite c n) ∈ t.calendar

/-- R38, R188: in front of a bundle, behind the results that land there, FLAGS takes the flags of the engine commands and
port lines that are done by then, and ESCN their escapes, up to 2^32 − 1; the others stay for a later boundary. That
a write of FLAGS landing there does not undo them is the model's choice (log entry 65). -/
def Sys2Proof.EngineFlagsLand : Prop :=
  ∀ (s : State) (c x : Nat), (s.ctx c x).dbgPass = false →
    let v := (s.landDue c x).ctx c x
    let u := (s.landed c x).ctx c x
    let due := v.engDone.filter (fun e => decide (e.since ≤ s.cyc))
    (∀ b, b < 5 → u.flags.getLsbD b = (v.flags.getLsbD b || due.any (fun e => e.flg.getLsbD b))) ∧
    u.escn.toNat = min (v.escn.toNat + (due.map (fun e => e.escapes)).sum) (2 ^ 32 - 1) ∧
    u.engDone = v.engDone.filter (fun e => decide (s.cyc < e.since)) ∧ u.c = v.c ∧ u.pwq = v.pwq ∧ u.p = v.p ∧
    (∀ y, y ≠ x → (s.landed c x).ctx c y = (s.landDue c x).ctx c y) ∧ (s.landed c x).mem = (s.landDue c x).mem

/-- R118, R119: a result for a tile line lands in the lanes of its mask: lane i of a row is word i of that row, lane i
of a column is word n of row i, lane i of a diagonal is word (i + n) mod 32 of row i. Every other word stays. -/
def Sys2Proof.TileResultsLand : Prop :=
  ∀ (s : State) (c x : Nat) (e : Pending) (o : BitVec 14) (tl n : Nat), e.dest = .tile o → n < 32 →
    let base := (s.ctx c x).tileBase
    let place : Option (Nat → Nat × Nat) := match operandOf o with
      | .row _ m => some (fun i => (m, i))
      | .col _ m => some (fun i => (i, m))
      | .diag _ m => some (fun i => (i, (i + m) % 32))
      | _ => none
    let t := s.land c x e
    operandOf o = .row tl n ∨ operandOf o = .col tl n ∨ operandOf o = .diag tl n →
    t.mem = s.mem ∧ (t.ctx c x).c = (s.ctx c x).c ∧
    (∀ at_, place = some at_ → ∀ i, i < 32 → laneOf ((t.core c).tileRow (base + tl) (at_ i).1) (at_ i).2 =
      if e.mask.getLsbD i = true then laneOf e.val i else laneOf ((s.core c).tileRow (base + tl) (at_ i).1) (at_ i).2) ∧
    (∀ at_ r l, place = some at_ → r < 32 → l < 32 → (∀ i, i < 32 → at_ i ≠ (r, l)) →
      laneOf ((t.core c).tileRow (base + tl) r) l = laneOf ((s.core c).tileRow (base + tl) r) l) ∧
    ∀ b r, r < 32 → b ≠ base + tl → (t.core c).tileRow b r = (s.core c).tileRow b r

/-- R14, R15: in front of a bundle the entries with one bundle left land in their order, and every other entry has one
bundle less to wait. -/
def Sys2Proof.ResultsFallDue : Prop :=
  ∀ (s : State) (c x : Nat),
    let q := (s.ctx c x).pwq
    ((s.landDue c x).ctx c x).pwq = (q.filter (fun e => decide (1 < e.rem))).map (fun e => { e with rem := e.rem - 1 }) ∧
    (s.landDue c x).cyc = s.cyc ∧ (s.landDue c x).mem = s.mem ∧
    (∀ n, ((s.ctx c x).loop.active = false ∨ n < 56 ∨ 61 < n) → n ≠ 0 →
      ((s.landDue c x).ctx c x).readC n =
        match (q.filter (fun e => decide (e.rem ≤ 1 ∧ e.dest = .creg n))).getLast? with
        | some e => e.val.extractLsb' 0 64
        | none => (s.ctx c x).readC n)

/-- A result lands in its register, special register, write port or tile lanes and nowhere else, with the discards of
R89, R93 and R98; in front of a bundle the entries due land in their order, then the flags and escapes of engines are
taken, and every other entry has one bundle less to wait (R14, R15, R38, R54, R89, R93, R98, R116, R118, R119, R248,
R252, R268). That engine flags are taken behind a landing write of FLAGS is the model's choice (log entry 65), and a
loop that begins or ends goes before what lands (log entry 59). -/
def Obligations.ResultsLand : Prop :=
  RegisterResultsLand ∧ SpecialResultsLand ∧ PushesLand ∧ EngineFlagsLand ∧ TileResultsLand ∧ ResultsFallDue

/-- R48, R57, R157, R219, R275: what the accesses of a bundle do when it commits. A store writes the bytes of the line or of
the word, and no others; a whole line clears its marks; a busy window of 4 or 12 cycles (Table 3.2). A read that an
armed injection hits (KIND 10) is `fired`: with a double flip it leaves an uncorrectable error in the line. -/
def Sys2Proof.StoresCommit : Prop :=
  ∀ (s : State) (c x flat : Nat),
    let hit := (s.core c).injHits flat
    let fired := s.firedRead c flat
    (hit = (((s.core c).inj.getLsbD 2 && decide ((s.core c).inj.toNat % 4 = 2)) &&
      decide ((s.core c).inj.toNat / 2 ^ 16 % 2 ^ 22 = flat))) ∧
    (hit = false → fired = s) ∧
    (hit = true → fired.mem = s.mem ∧ (fired.core c).ctxs = (s.core c).ctxs ∧
      (fired.core c).inj.getLsbD 2 = (s.core c).inj.getLsbD 3 ∧
      ((s.core c).inj.getLsbD 48 = false → fired.markOf (spAddr c flat) = s.markOf (spAddr c flat)) ∧
      ((s.core c).inj.getLsbD 48 = true → s.markOf (spAddr c flat) = .clean →
        ∃ w, fired.markOf (spAddr c flat) = .uncorrectable w ∧
          w.getLsbD ((s.core c).inj.toNat / 2 ^ 38 % 2 ^ 10 / 128) = true)) ∧
    (∀ v, LineStored s (s.apply c x (.storeLine flat v)) c flat v ∧
      (s.apply c x (.storeLine flat v)).markOf (spAddr c flat) = .clean ∧
      ((s.apply c x (.storeLine flat v)).core c).ctxs = (s.core c).ctxs ∧
      (flat % 8192 < 0x400 → (((s.core c).bank (flat / 8192)).tag (flat % 8192 / 8)).valid = true →
        ((((s.apply c x (.storeLine flat v)).core c).bank (flat / 8192)).tag (flat % 8192 / 8)).dirty = true)) ∧
    (∀ w v, w < 16 →
      let t := s.apply c x (.storeWord flat w v)
      Stored s.mem t.mem (spAddr c flat + 8 * w) (bytesOf 8 v.toNat) ∧ (t.core c).ctxs = (s.core c).ctxs ∧
      t.markOf (spAddr c flat) =
        if fired.markOf (spAddr c flat) = .group then .clean else fired.markOf (spAddr c flat)) ∧
    ∀ write busy, let t := s.apply c x (.access flat write busy)
      t.mem = s.mem ∧ (t.core c).ctxs = (s.core c).ctxs ∧
      ((t.core c).bank (flat / 8192)).busyUntil = max ((s.core c).bank (flat / 8192)).busyUntil (s.cyc + busy) ∧
      (write = true ∨ hit = false → t.marks = s.marks)

/-- R55, R56: PROM writes a dirty row that its slot held back to its slow row, copies the new row into the slot, and names it
in the tag; DEMO writes a dirty row back and clears VALID, DIRTY and PIN; TPIN sets PIN. No other line of the scratchpad
and no other tag changes. Stated while no injection is armed. -/
def Sys2Proof.TagTableChanges : Prop :=
  ∀ (s : State) (c x b slot : Nat), b < 384 → slot < 128 → (s.core c).inj.getLsbD 2 = false →
    let old := ((s.core c).bank b).tag slot
    let back := old.valid = true ∧ old.dirty = true
    let line := fun (t : State) (row i : Nat) => t.readFlat c (8192 * b + 8 * row + i)
    let elsewhere := fun (t : State) => ∀ a, (a < spAddr c (8192 * b) ∨ spAddr c (8192 * b + 8192) ≤ a) →
      t.mem.read a = s.mem.read a
    let others := fun (t : State) => (∀ k, k ≠ slot → ((t.core c).bank b).tag k = ((s.core c).bank b).tag k) ∧
      (∀ d, d ≠ b → (t.core c).bank d = (s.core c).bank d) ∧ (t.core c).ctxs = (s.core c).ctxs
    (back → 128 ≤ old.srow ∧ old.srow < 1024) →
    (∀ srow nv, 128 ≤ srow → srow < 1024 → (back → srow ≠ old.srow) →
      let t := s.apply c x (.prom b slot srow nv)
      ((t.core c).bank b).tag slot = { valid := true, dirty := false, pin := false, srow := srow } ∧
      ((t.core c).bank b).nv = nv.getD ((s.core c).bank b).nv ∧ others t ∧ elsewhere t ∧
      ∀ row i, row < 1024 → i < 8 → line t row i =
        if row = slot then line s srow i else if back ∧ row = old.srow then line s slot i else line s row i) ∧
    (let t := s.apply c x (.demo b slot)
     ((t.core c).bank b).tag slot = { old with valid := false, dirty := false, pin := false } ∧ others t ∧ elsewhere t ∧
     ∀ row i, row < 1024 → i < 8 → line t row i = if back ∧ row = old.srow then line s slot i else line s row i) ∧
    ∀ v, let t := s.apply c x (.tpin b slot v)
      ((t.core c).bank b).tag slot = { old with pin := v } ∧ others t ∧ t.mem = s.mem

/-- R51, R52, R63, R68, R143, R145: BOWN makes another agent the owner of a bank and leaves its lines and its tag table; a
bank that returns to the pool may let a launch be placed (R286). The launch it then counts to is the model's choice (log
entry 25), and that the pop of a port's last line sets DONE and completes its KEND its reading (log entry 39); a layer that is off is powered when a bank of it joins a launch (R305), and a port notes that a bank of its
own has gone to another (R52). PCFG gives the port its stream and its holder, with KEND pending; a pop takes a line from a port's FIFO; PSTOP
ends the stream and completes its KEND. -/
def Sys2Proof.BanksAndPortsChange : Prop :=
  ∀ (s : State) (c x : Nat),
    (∀ b code,
      let t := s.apply c x (.owner b code)
      let old := (s.core c).bank b
      (old.owner = code → t = s) ∧
      (old.owner ≠ code → (t.core c).bank b = { old with owner := code, grantor := some x, launch :=
          if code.toNat / 2 ^ 12 = 0 ∨ (code.toNat / 2 ^ 12 = 1 ∧ code.toNat / 2 ^ 8 % 16 = 4) then 0
          else if code.toNat / 2 ^ 12 = 1 then (s.ctx c (code.toNat / 2 ^ 8 % 16)).launch else old.launch } ∧
        (∀ d, d ≠ b → (t.core c).bank d = (s.core c).bank d) ∧ t.mem = s.mem ∧ t.marks = s.marks ∧
        (t.core c).ctxs = (s.core c).ctxs ∧
        (∀ n, ownerPort old.owner = some n → ownerPort code ≠ some n → b ∈ (t.port c n).taken) ∧
        (∀ n, ownerPort code = some n → b ∉ (t.port c n).taken) ∧
        (((t.core c).bank b).launch ≠ 0 → (s.core c).layerOn ((s.core c).physical b / 64) = false →
          ∃ due, (due, Instr.layerPowerOn c ((s.core c).physical b / 64)) ∈ t.calendar) ∧
        (code.toNat / 2 ^ 12 = 0 → (s.cyc + 275, Instr.launchPlacement) ∈ t.calendar))) ∧
    (∀ n d,
      let t := s.apply c x (.pcfg n d)
      let ko := Descr.kend d
      (∀ m, m ≠ n → (t.port c m).fifo = (s.port c m).fifo ∧ (t.port c m).cfg = (s.port c m).cfg) ∧
      t.mem = s.mem ∧ (t.port c n).holder = some x ∧ (t.port c n).cfg = d ∧ (t.port c n).running = true ∧
      (t.port c n).pos = 0 ∧ (t.port c n).fifo = [] ∧ (t.port c n).fault = none ∧
      (Descr.product d ≠ 0 → (t.port c n).done = false ∧
        (ko ≠ 0 → ((t.ctx c x).token ko).pend = true ∧ ((t.ctx c x).token ko).cmd = s.nextId ∧
          (t.port c n).kend = some (s.nextId, x)) ∧
        (n < 6 → (s.cyc + 1, Instr.readPortFetch c n) ∈ t.calendar)) ∧
      (Descr.product d = 0 → (t.port c n).done = true ∧
        (ko ≠ 0 → ((t.ctx c x).token ko).pend = false ∧ ((t.ctx c x).token ko).status = 0))) ∧
    (∀ n,
      let t := s.apply c x (.pstop n)
      (t.port c n).holder = none ∧ (t.port c n).running = false ∧ (t.port c n).fifo = [] ∧ t.mem = s.mem ∧
      (t.port c n).pos = (s.port c n).pos ∧
      ∀ id y, (s.port c n).kend = some (id, y) → TokenDone s t c y id 0 0) ∧
    ∀ n l ls, (s.port c n).fifo = l :: ls →
      let t := s.apply c x (.pop n)
      (t.port c n).fifo = ls ∧ (t.port c n).pos = (s.port c n).pos + 1 ∧
      (t.port c n).moved = (s.port c n).moved + 1 ∧ (s.cyc, Instr.readPortFetch c n) ∈ t.calendar ∧
      ((s.port c n).pos + 1 = (s.port c n).total → (t.port c n).done = true ∧
        ∀ id y, (s.port c n).kend = some (id, y) → TokenDone s t c y id 0 0)

/-- R20, R107, R108, R140: a global load leaves at once and holds its destination busy; every other outbound effect waits in
the SRQ, and so does a FENCE or REL behind others. -/
def Sys2Proof.OutboundEffects : Prop :=
  ∀ (s : State) (c x oc : Nat) (k : AccessKind) (va pa : Nat),
    let v := s.ctx c x
    let entry : Held := { oc := oc, kind := k, va := va, pa := pa, num := v.nextAccess }
    let access : Access := { num := v.nextAccess, oc := oc, kind := k, va := va, pa := pa, progress := .waiting, discard := false, served := none }
    s.apply c x (.held oc k va pa) = s.setCtx c x { v with srq := v.srq ++ [entry], nextAccess := v.nextAccess + 1 } ∧
    (let u := (s.apply c x (.load oc k va pa)).ctx c x
     OnlyCtx s (s.apply c x (.load oc k va pa)) c x ∧ u.out = v.out ++ [access] ∧ u.srq = v.srq ∧ u.c = v.c ∧
     (∀ n, k = .loadReg n → (n, 0) ∈ u.busyRegs ∧ ∀ e ∈ u.dirtyRegs, e.1 ≠ n) ∧
     (∀ o, k = .loadTile o → (o, 0) ∈ u.busyLines ∧ ∀ e ∈ u.dirtyLines, e.1 ≠ o)) ∧
    (∀ m sc, k = .fence m sc ∨ k = .rel m sc → oc = 0 → va = 0 → pa = 0 →
      s.apply c x (.order k) = s.setCtx c x
        (if v.srq = [] then { v with out := v.out ++ [access], nextAccess := v.nextAccess + 1 }
         else { v with srq := v.srq ++ [entry], nextAccess := v.nextAccess + 1 })) ∧
    ∀ m, k = .acq m → oc = 0 → va = 0 → pa = 0 →
      s.apply c x (.order k) = s.setCtx c x { v with out := v.out ++ [access], nextAccess := v.nextAccess + 1 }

/-- R151, R155, R163, R164, R191, R196, R204, R223: a command of a bundle that commits stands last in the queue of its pipe
or, for the copy and scatter-accumulate engines, in the SRQ; its KO is pending, its tiles are busy, its ports lent, and a
load's buffer is LOADING under the holder. -/
def Sys2Proof.CommandsQueue : Prop :=
  ∀ (s : State) (c x : Nat) (cmd0 : Cmd),
    let cmd := { cmd0 with id := s.nextId, at_ := s.cyc }
    let ko := cmd0.f.ko.toNat
    let v := s.ctx c x
    let queued := fun (e : Engine) (held : Bool) (P : State → Prop) =>
      let t := s.apply c x (.command e cmd0)
      t.mem = s.mem ∧ (∀ y, y ≠ x → t.ctx c y = s.ctx c y) ∧ (t.ctx c x).c = v.c ∧
      (ko ≠ 0 → ((t.ctx c x).token ko).pend = true ∧ ((t.ctx c x).token ko).cmd = s.nextId ∧
        ∀ j, j ≠ ko → (t.ctx c x).token j = v.token j) ∧
      (held = true → ∀ j ∈ cmd0.tiles, ∃ b ∈ (t.core c).tileBusy, b.tile = j ∧ b.cmd = s.nextId ∧ b.clear = 0) ∧
      (∀ n ∈ cmd0.ports, (t.port c n).lent = some s.nextId) ∧ P t
    queued .load false (fun t => (t.core c).loadQ = (s.core c).loadQ ++ [cmd] ∧
      ((t.core c).buffer (cmd.f.f.toNat % 2)).state = .loading ∧
      ((t.core c).buffer (cmd.f.f.toNat % 2)).holder = some cmd0.ctx ∧
      (s.cyc, Instr.matrixCommandStart c .load) ∈ t.calendar) ∧
    queued .run true (fun t => (t.core c).runQ = (s.core c).runQ ++ [cmd] ∧
      (s.cyc, Instr.matrixCommandStart c .run) ∈ t.calendar) ∧
    queued .ppe true (fun t => (t.core c).ppeQ = (s.core c).ppeQ ++ [cmd] ∧
      (cmd0.op = 0x12 → ((t.core c).tanSet (cmd.f.f.toNat % 2)).holder = some cmd0.ctx) ∧
      (s.cyc, Instr.ppeCommandStart c) ∈ t.calendar) ∧
    ∀ e, e = .copy ∨ e = .sca → queued e true (fun t => (t.core c).copyQ = (s.core c).copyQ ∧
      (t.core c).scaQ = (s.core c).scaQ ∧ (t.ctx c x).srq = v.srq ++
        [{ oc := cmd0.f.oc.toNat, kind := .command cmd, va := 0, pa := 0, num := v.nextAccess }])

/-- R196, R197, R199, R200, R228: a KJOIN whose tokens are complete completes at once with the first status among them, and
waits otherwise; CF.CFG gives an emptied FIFO its producer, its consumer and its holder, CF.RST leaves it without, and
neither does where a token it consumes has a status. -/
def Sys2Proof.JoinsAndChains : Prop :=
  ∀ (s : State) (c x : Nat) (cmd0 : Cmd), (s.core c).joins = [] → cmd0.covers = [] →
    let cmd := { cmd0 with id := s.nextId, at_ := s.cyc }
    let ko := cmd0.f.ko.toNat
    let status := (inputStatus cmd0.ins).1
    let joined := fun t : State =>
      (inputsDone cmd0.ins = true → (t.core c).joins = [] ∧ (ko ≠ 0 → ((t.ctx c x).token ko).pend = false ∧
        ((t.ctx c x).token ko).status = status ∧ ((t.ctx c x).token ko).since = s.cyc + 1)) ∧
      (inputsDone cmd0.ins = false → (t.core c).joins = [cmd] ∧ (ko ≠ 0 → ((t.ctx c x).token ko).pend = true)) ∧
      t.mem = s.mem ∧ (t.ctx c x).c = (s.ctx c x).c
    joined (s.apply c x (.command .join cmd0)) ∧ joined (s.apply c x (.command .chain cmd0)) ∧
    let n := cmd0.f.f.toNat % 8
    let t := s.apply c x (.command .chain cmd0)
    let q := t.fifo (c / 4) n
    (∀ m, m ≠ n → t.fifo (c / 4) m = s.fifo (c / 4) m) ∧ (status ≠ 0 → q = s.fifo (c / 4) n) ∧
    (status = 0 → q.lines = [] ∧ q.reserved = (s.fifo (c / 4) n).reserved ∧
      (cmd0.op = 0x38 → q.holder = some (c, x) ∧
        q.cfg = some (cmd0.f.mode.toNat % 4, cmd0.f.mode.toNat / 4 % 4, (s.ctx c x).launch)) ∧
      (cmd0.op = 0x39 → q.holder = none ∧ q.cfg = none))

/-- R25, R80, R94, R96 to R99, R105, R113, R169, R174, R258, R291: what the other effects of a bundle do when it commits.
That context 4 is answered −1 is the model's choice (log entry 26), as are the cycle in which the wait of a CSAVE begins
(log entry 29) and that a TLBI keeps nothing of any walk in flight (log entry 60). -/
def Sys2Proof.OtherEffects : Prop :=
  ∀ (s : State) (c x : Nat),
    let v := s.ctx c x
    let only := fun (e : Effect) (u : Ctx) => s.apply c x e = s.setCtx c x u
    (∀ target, only (.redirect target) { v with redirect := some (target, 4) }) ∧
    only .lexit { v with loop := { v.loop with lexit := true } } ∧
    only .yielded { v with yielded := some (s.cyc + 1) } ∧
    (∀ n, only (.consume n) { v with sg := v.sg.set n (BitVec.ofNat 16 (v.readSg n + 1)), yptr := (n + 1) % 8 }) ∧
    (∀ k, only (.kset k) { v with ksets := v.ksets ++ [k] }) ∧
    (∀ w, only (.operand 0 w) { v with tan := { v.tan with tb := w.extractLsb' 0 64 } } ∧
      only (.operand 1 w) { v with tan := { v.tan with tol := w.extractLsb' 0 32 } } ∧
      only (.operand 2 w) { v with tan := { v.tan with x := w } } ∧
      only (.operand 3 w) { v with tan := { v.tan with k := w } }) ∧
    (∀ w, only (.rng w) { v with tan := { v.tan with rng := w } }) ∧
    (∀ w, only (.crc w) { v with tan := { v.tan with crc := w } }) ∧
    (∀ l : Loop,
      let u := (s.apply c x (.startLoop l)).ctx c x
      let j := l.idx.getD 0 0
      OnlyCtx s (s.apply c x (.startLoop l)) c x ∧ u.loop = l ∧ u.c = v.c ∧ (∀ k, k < 8 → u.pred k = v.pred k) ∧
      (l.stages < 2 → u.p = v.p) ∧
      (2 ≤ l.stages → ∀ i, i < 4 → u.pred (8 + 2 * i) = decide (i < l.stages ∧ i ≤ j ∧ j - i < l.n0) ∧
        u.pred (9 + 2 * i) = !decide (i < l.stages ∧ i ≤ j ∧ j - i < l.n0))) ∧
    (∀ port val lat, port < 7 →
      let read := fun (u : Ctx) (b : Nat) =>
        dueResult b ([u.tanA, u.tanB, u.tanLo, u.tanHi, u.tanY, u.rngOut, u.crcVal].getD port [])
      let u := (s.apply c x (.result port val lat)).ctx c x
      OnlyCtx s (s.apply c x (.result port val lat)) c x ∧ u.c = v.c ∧
      (∀ b, v.issued + lat ≤ b → read u b = val) ∧
      ∀ b, v.issued ≤ b → b < v.issued + lat → read u b = read v b) ∧
    (∀ dest flip,
      let t := s.apply c x (.claim dest flip)
      let answer := fun w : Word => ({ dest := .creg dest, val := (w ^^^ flip).setWidth 1024, mask := BitVec.allOnes 32,
                                        rem := 1, flg := 0, mark := .clean, addr := 0 } : Pending)
      t.mem = s.mem ∧ (x = 4 → (t.ctx c x).pwq = v.pwq ++ [answer (BitVec.ofInt 64 (-1))]) ∧
      (x ≠ 4 → ∀ w, v.claims[v.replay]? = some w →
        (t.ctx c x).pwq = v.pwq ++ [answer w] ∧ (t.ctx c x).replay = v.replay + 1 ∧ (t.ctx c x).claims = v.claims) ∧
      (x ≠ 4 → v.claims.length ≤ v.replay → (t.ctx c x).pwq = v.pwq ∧
        (t.ctx c x).claimWait = some { dest := dest, flip := flip } ∧
        ∃ due, s.cyc + 60 ≤ due ∧ (due, Instr.claimAnswer c x) ∈ t.calendar)) ∧
    (∀ y banks va,
      let t := s.apply c x (.csave y banks va)
      t.mem = s.mem ∧ (t.core c).ctxs = (s.core c).ctxs ∧
      (t.core c).saving = some { load := false, ctx := y, banks := banks, va := va } ∧
      (s.cyc + 1, Instr.csaveComplete c) ∈ t.calendar) ∧
    (∀ y va,
      let t := s.apply c x (.cload y va)
      t.mem = s.mem ∧ (t.core c).ctxs = (s.core c).ctxs ∧
      (t.core c).saving = some { load := true, ctx := y, banks := false, va := va } ∧
      ∃ due, s.cyc < due ∧ (due, Instr.cloadComplete c) ∈ t.calendar) ∧
    ∀ w : Word,
      let t := s.apply c x (.tlbi w)
      let p := (s.cluster (c / 4)).part
      t.mem = s.mem ∧ (∀ cl, cl < 48 → (s.cluster cl).part ≠ p → t.cluster cl = s.cluster cl) ∧
      ∀ cl, cl < 48 → (s.cluster cl).part = p →
        (∀ e, e ∈ (t.cluster cl).tlb ↔ e ∈ (s.cluster cl).tlb ∧
          ¬(e.part = p ∧ (w = BitVec.allOnes 64 ∨ (e.base ≤ w.toNat ∧ w.toNat < e.base + e.size)))) ∧
        (∀ n k, (n, k) ∈ (t.cluster cl).walks → k.stale = true) ∧
        ∀ n k, (n, k) ∈ (s.cluster cl).walks → (cl, n) ∈ (t.ctx c 4).tlbiWait

/-- R10, R18, R20, R22, R24, R27: SEG ends the segment with its bundle: the SRQ is released in its order, a new segment has its
number, budget 3 and a checkpoint of the context as it stands; RDV waits for its partners under the watchdog; END waits
in front of itself until the context can retire. Stated for an SRQ of stores and posts that go through no peer window
and, for memory, a launch that is not recorded. -/
def Sys2Proof.SegmentsEnd : Prop :=
  ∀ (s : State) (c x : Nat),
    let v := s.ctx c x
    let plain := (∀ h ∈ v.releasing ++ v.srq, ((∃ w, h.kind = .storeLine w) ∨ (∃ w, h.kind = .storeWord w) ∨
        ∃ i w, h.kind = .post i w) ∧ ∀ w, placeOf h.pa ≠ .window w) ∧
      (∀ a ∈ v.out, ∀ w, placeOf a.pa ≠ .window w) ∧
      ∀ l, s.launchOf v.launch = some l → l.recording = false ∧ l.replay = false
    let room := 32 - classedCount v.out
    let classed := fun u : Ctx => (u.out.filter (fun a => !a.kind.isFence)).map (fun a => (a.num, a.oc, a.kind, a.va, a.pa))
    let released := fun u : Ctx => u.srq = [] ∧ u.releasing = (v.releasing ++ v.srq).drop room ∧
      classed u = classed v ++ ((v.releasing ++ v.srq).take room).map (fun h => (h.num, h.oc, h.kind, h.va, h.pa))
    (∀ id, plain →
      let t := s.endBundle c x (.seg id)
      let u := t.ctx c x
      t.mem = s.mem ∧ released u ∧ u.segid = id ∧ u.segtry = 0 ∧ u.segBundles = 0 ∧ u.claims = [] ∧ u.replay = 0 ∧
      u.lastUncr = none ∧ u.c = v.c ∧ u.pc = v.pc ∧
      ∃ k, u.ckpt = some k ∧ k.pc = v.pc ∧ k.pwq = v.pwq ∧ k.loop = v.loop ∧ k.preds = v.p ∧ k.redirect = v.redirect ∧
        k.d = v.d ∧ k.y = v.y ∧ k.sg = v.sg ∧ k.yptr = v.yptr ∧ k.tan = v.tan ∧ k.ppe = v.ppe ∧ k.escn = v.escn ∧
        k.ports = (s.core c).portPositions x) ∧
    (∀ id mask p, plain → p < 4 → p ≠ c % 4 → mask.testBit p = true → (∀ d y, (d, y) ≠ (c, x) → (s.ctx d y).arrival = none) →
      (∀ e ∈ s.saved, e.2.v.arrival = none) →
      let t := s.endBundle c x (.rdv id mask)
      t.mem = s.mem ∧ (t.ctx c x).srq = v.srq ∧ (t.ctx c x).segid = v.segid ∧
      (t.ctx c x).waitOn = some (.rdv id, s.watchAt c s.cyc) ∧
      (t.ctx c x).arrival = some { id := id, mask := mask, completed := false, taken := false, since := 0 }) ∧
    (∀ id, plain → x < 4 → v.status = .running → v.rewind = none → v.srq = [] → v.releasing = [] → v.out = [] →
      (∀ y, y < x → (s.ctx c y).launch = v.launch → (s.ctx c y).status = .free) →
      let u := (s.endBundle c x (.rdv id (2 ^ (c % 4)))).ctx c x
      u.segid = id ∧ u.segtry = 0 ∧ u.c = v.c ∧ (∃ k, u.ckpt = some k ∧ k.pc = v.pc ∧ k.pwq = v.pwq) ∧
      u.arrival = some { id := id, mask := 2 ^ (c % 4), completed := true, taken := true, since := s.cyc + 1 }) ∧
    (plain →
      let t := s.endBundle c x .finish
      t.mem = s.mem ∧ released (t.ctx c x) ∧ (t.ctx c x).status = .retiring false ∧ (t.ctx c x).pc = s.cur.pc ∧
      (t.ctx c x).c = v.c)

/-- The number of a pass of a loop nest: level 0 is the fastest; a level that is not used counts once. -/
def Sys2Proof.passOf : List Nat → List Nat → Nat
  | i :: is, n :: ns => i + max n 1 * passOf is ns
  | _, _ => 0
/-- The passes of a loop nest. -/
def Sys2Proof.passes (ns : List Nat) : Nat := (ns.map (fun n => max n 1)).prod

/-- R94, R96, R100: after a bundle the next address follows; a branch takes effect after the four bundles behind it; the
end of a loop body goes on with the next pass of the nest, or leaves the loop after the last pass or a LEXIT. -/
def Obligations.NextBundle : Prop :=
  (∀ (v : Ctx) (x pc : Nat) (body : Bool), (body = false ∨ pc + 1 ≠ v.loop.first + v.loop.body) →
    (v.advance x pc body none).pc = (pc + 1) % (if x = 4 then 1024 else 8192) ∧
    (v.advance x pc body none).loop = v.loop ∧ (v.advance x pc body none).c = v.c ∧
    ∀ target n, v.redirect = some (target, n) →
      (n ≤ 1 → (v.advance x pc body (some (target, n))).pc = target ∧
        (v.advance x pc body (some (target, n))).redirect = none) ∧
      (1 < n → (v.advance x pc body (some (target, n))).pc = (pc + 1) % (if x = 4 then 1024 else 8192) ∧
        (v.advance x pc body (some (target, n))).redirect = some (target, n - 1))) ∧
  (∀ (v : Ctx) (x pc : Nat), pc + 1 = v.loop.first + v.loop.body → v.loop.idx.length = v.loop.cnt.length →
    (∀ l, l < v.loop.cnt.length → v.loop.idx.getD l 0 < max (v.loop.cnt.getD l 0) 1) →
    let u := v.advance x pc true none
    (v.loop.lexit = false → passOf v.loop.idx v.loop.cnt + 1 < passes v.loop.cnt →
      u.pc = v.loop.first ∧ u.loop.active = v.loop.active ∧ u.loop.cnt = v.loop.cnt ∧
      passOf u.loop.idx u.loop.cnt = passOf v.loop.idx v.loop.cnt + 1) ∧
    (v.loop.lexit = true ∨ passOf v.loop.idx v.loop.cnt + 1 = passes v.loop.cnt →
      u.pc = (pc + 1) % (if x = 4 then 1024 else 8192) ∧ u.loop.active = false)) ∧
  ∀ (s : State) (c x target : Nat), ((s.apply c x (.redirect target)).ctx c x).redirect = some (target, 4)

/-- R14, R17: a bundle whose slots only produce results adds them to the pending results when it commits, the moves
last; BCNT counts it, and nothing else of the context, and no byte of memory, changes. -/
def Sys2Proof.ResultsCommit : Prop :=
  ∀ (s : State) (ps : List (Nat × Pending)),
    let c := s.cur.core
    let x := s.cur.ctx
    let v := s.ctx c x
    s.cur.effs = ps.map (fun p => (p.1, Effect.land p.2)) → v.kept = [] → v.out = [] → v.loop.active = false →
    v.redirect = none → v.stall.armed = false → (s.core c).inj.getLsbD 2 = false → s.cur.pc < 8192 →
    let t := s.commit
    t.mem = s.mem ∧ t.cyc = s.cyc ∧ (∀ y, y ≠ x → t.ctx c y = s.ctx c y) ∧ (∀ d, d ≠ c → t.core d = s.core d) ∧
    (t.ctx c x).pwq = v.pwq ++ ((ps.filter (fun p => decide (p.1 < 7))) ++ ps.filter (fun p => decide (7 ≤ p.1))).map
      (fun p => p.2) ∧
    (t.ctx c x).pc = (s.cur.pc + 1) % (if x = 4 then 1024 else 8192) ∧ (t.ctx c x).bcnt = v.bcnt + 1 ∧
    (t.ctx c x).c = v.c ∧ (t.ctx c x).p = v.p ∧ (t.ctx c x).q = v.q ∧ (t.ctx c x).flags = v.flags ∧
    (t.ctx c x).tok = v.tok ∧ (t.ctx c x).srq = v.srq ∧ (t.core c).tiles = (s.core c).tiles

/-- R14, R17: a bundle that has one effect does that effect when it commits: what the effect leaves of memory, marks, other
contexts and the units of the core stays, and its own context goes on to the next bundle. Stated for an effect that
neither accesses anything nor ends the segment. -/
def Sys2Proof.CommitDoesItsEffect : Prop :=
  ∀ (s : State) (k : Nat) (e : Effect),
    let c := s.cur.core
    let x := s.cur.ctx
    let v := s.ctx c x
    let e' := s.apply c x e
    s.cur.effs = [(k, e)] → v.kept = [] → v.loop.active = false → v.stall.armed = false → (s.core c).inj.getLsbD 2 = false →
    (e'.ctx c x).out = [] → (e'.ctx c x).stall.armed = false → e.endsSegment = false →
    let t := s.commit
    t.mem = e'.mem ∧ t.marks = e'.marks ∧ t.calendar = e'.calendar ∧ t.clusters = e'.clusters ∧ t.launches = e'.launches ∧
    (∀ d, d ≠ c → t.core d = e'.core d) ∧ (∀ y, y ≠ x → t.ctx c y = e'.ctx c y) ∧
    (t.core c).banks = (e'.core c).banks ∧ (t.core c).ports = (e'.core c).ports ∧ (t.core c).tiles = (e'.core c).tiles ∧
    (t.core c).saving = (e'.core c).saving ∧ (t.core c).loadQ = (e'.core c).loadQ ∧ (t.core c).runQ = (e'.core c).runQ ∧
    (t.core c).ppeQ = (e'.core c).ppeQ ∧ (t.core c).joins = (e'.core c).joins ∧
    (let u := t.ctx c x
     let w := e'.ctx c x
     u.c = w.c ∧ u.p = w.p ∧ u.pwq = w.pwq ∧ u.srq = w.srq ∧ u.tok = w.tok ∧ u.sg = w.sg ∧ u.yptr = w.yptr ∧
     u.ksets = w.ksets ∧ u.tan = w.tan ∧ u.claimWait = w.claimWait ∧ u.yielded = w.yielded ∧ u.bcnt = w.bcnt + 1 ∧
     (v.redirect = none →
       u.pc = (s.cur.pc + 1) % (if x = 4 then 1024 else 8192) ∧ u.redirect = w.redirect ∧ u.loop.cnt = w.loop.cnt))

/-- What each effect of a bundle does when it commits: stores (R48, R57, R219), promotion and the tag table (R55,
R56), owners of banks (R51), ports (R143, R145), entries of the SRQ and the outbound queue (R20), commands, joins and
chain FIFOs (R196), branches, loops, claims, the tangent unit, saves and TLBI, and the end of a segment with its
checkpoint (R18). A bundle whose slots only produce results adds them to the pending results, the moves last (R14,
R17). The launch of a bank that changes hands (log entry 25), the answer of context 4's CLAIM (log entry 26), DONE and
KEND at the pop of a port's last line (log entry 39), the cycle in which the wait of a CSAVE begins (log entry 29),
that a TLBI keeps nothing of any walk in flight (log entry 60), an injected read (log entry 49) and the bundle behind
the last of a store (log entry 24) are the model's. -/
def Obligations.WhatBundlesCommit : Prop :=
  StoresCommit ∧ TagTableChanges ∧ BanksAndPortsChange ∧ OutboundEffects ∧ CommandsQueue ∧ JoinsAndChains ∧
  OtherEffects ∧ SegmentsEnd ∧ ResultsCommit ∧ CommitDoesItsEffect

/-! ## Issue (R11 to R13, R17, R82, R113, R250) -/

/-- R11, R13, R113: every context has its place in the order of issue; those that do not yield come first, then the
supervisor context, then the higher priority, and within a priority the round robin from its pointer. That a YIELD
outranks priority is the model's reading (log entry 58). -/
def Obligations.IssueOrder : Prop :=
  ∀ (k : Core) (cyc : Nat), (∀ x, x < 4 → (k.ctx x).prio < 4) → (∀ p, k.rr.get 0 p < 4) →
    List.Perm (k.issueOrder cyc) [0, 1, 2, 3, 4] ∧
    (k.issueOrder cyc).Pairwise (fun a b =>
      let ya := (k.ctx a).yielded = some cyc
      let yb := (k.ctx b).yielded = some cyc
      let rank := fun x : Nat => if x = 4 then 4 else (k.ctx x).prio
      (ya → yb) ∧ ((ya ↔ yb) → rank b < rank a ∨ (rank b = rank a ∧
        (a + 4 - k.rr.get 0 (rank a)) % 4 < (b + 4 - k.rr.get 0 (rank a)) % 4)))

/-- R17, R82, R249, R250: a bundle that the decoder refuses raises ILL and does nothing else; a bundle with a cause
raises the first cause in the order of R250 in front of itself, of the lowest slot that raises it, with every slot that
raises it in its fault mask, MORE where a slot raises another cause, STATUS only for ENG, where it is the token's, and,
for TRAP and SYS alone, the slots done; a mismatch rewinds before any other cause while SEGTRY is not 3 (log entry 11) and
raises SERR at 3, with the segment's number; only a bundle without a cause and without a debug stop commits. R250 names
neither UNCR nor POIS of a slot itself: that they stand between BANK and XLAT is the model's choice (log entry 81). -/
def Obligations.IssueOfABundle : Prop :=
  (∀ (s : State) (c x : Nat),
    let bad := refusedSlots (s.bundle c x) c x (s.ctx c x).pc
    let t := s.evaluate c x
    let effs := t.cur.effs
    let cs := slotCauses effs
    let raises := fun cause => fun k : Nat => cs.any (fun e => decide (e.2.1 = cause ∧ min e.1 7 = k))
    (bad ≠ [] → s.issue c x = s.raise c x .ill 0 false false (maskOf bad) 0 0) ∧
    (s.rewindsNow c x effs = true ↔ (∃ e ∈ effs, ∃ v, e.2 = .mismatch v) ∧ (s.ctx c x).segtry ≠ 3) ∧
    (bad = [] → s.rewindsNow c x effs = true → ∃ fault : BitVec 8, (∀ b, b < 8 → fault.getLsbD b = raises .serr b) ∧
      s.issue c x = s.detect c x (if vectorMismatch effs = true then .vector else .check) fault false) ∧
    (bad = [] → s.rewindsNow c x effs = false →
      (∀ k cause val, topCause cs = some (k, cause, val) → cause ≠ .serr →
        ∃ fault : BitVec 8, (∀ b, b < 8 → fault.getLsbD b = raises cause b) ∧
          ∃ u : State, u.mem = s.mem ∧ (∀ y, u.ctx c y = s.ctx c y) ∧ (cause ≠ .uncr → u = s.stopPorts c cause effs) ∧
          s.issue c x = u.raise c x cause
            (if cause = .eng then ((t.ctx c x).token val.toNat).status else 0) false
            (cs.any (fun e => decide (e.2.1 ≠ cause))) fault (if cause = .trap ∨ cause = .sys then fault else 0) val) ∧
      (∀ k val, topCause cs = some (k, .serr, val) → (s.ctx c x).segtry = 3 →
        ∃ fault : BitVec 8, (∀ b, b < 8 → fault.getLsbD b = raises .serr b) ∧
          s.issue c x = s.raise c x .serr 0 false (cs.any (fun e => decide (e.2.1 ≠ .serr))) fault 0
            (BitVec.ofNat 64 (s.ctx c x).segid)) ∧
      (cs = [] → (s.ctx c x).dbgPass = true ∨ debugStopOf (s.core c) x (s.ctx c x).pc effs = none →
        s.issue c x = t.commit))) ∧
  (∀ cs k cause val, topCause cs = some (k, cause, val) →
    (k, cause, val) ∈ cs ∧ ∀ e ∈ cs, cause.rank ≤ e.2.1.rank ∧ (e.2.1.rank = cause.rank → k ≤ e.1)) ∧
  [Cause.priv, .ill, .tile, .brange, .bown, .shad, .bank, .uncr, .xlat, .eng, .serr, .trap, .dbg].Pairwise
    (fun a b => a.rank < b.rank) ∧
  Cause.rank .pois = Cause.rank .uncr ∧ Cause.rank .sys = Cause.rank .trap

/-- A STEP RUNS THE DECODED INSTRUCTION. The step that is due is taken first; then the issue stage of the next core that
has something to do; then what has arrived from outside; then the next cycle. In the issue stage a context that alone is
on its core and ready issues its bundle, and a bundle of one instruction does what exec of that instruction does, with
the checks of R14, R107 and R262 beside it. -/
def Obligations.StepRunsInstruction : Prop :=
  (∀ (s : State) (due : Nat) (i : Instr) (rest : List (Nat × Instr)), s.calendar = (due, i) :: rest → due ≤ s.cyc →
    step s = exec i { s with calendar := rest }) ∧
  (∀ (s : State) (c : Nat), (∀ e ∈ s.calendar, s.cyc < e.1) → s.turn ≤ c → c < 192 → (s.core c).live = true →
    (∀ d, s.turn ≤ d → d < c → (s.core d).live = false) → step s = exec (.issueCycle c) s) ∧
  (∀ s : State, (∀ e ∈ s.calendar, s.cyc < e.1) → (∀ d, s.turn ≤ d → d < 192 → (s.core d).live = false) →
    (∀ early i late, s.inbox = early ++ i :: late → s.takes i = true → (∀ j ∈ early, s.takes j = false) →
      step s = exec i { s with inbox := early ++ late }) ∧
    ((∀ i ∈ s.inbox, s.takes i = false) → step s = .next { s with cyc := s.cyc + 1, turn := 0 }) ∧
    ∀ i, s.takes i = false → ∃ c t f p, i = .sensorSample c t f p ∧ c < 192 ∧
      ¬SampleDue (s.core c) s.cyc) ∧
  (∀ (s : State) (c : Nat), c < 192 → (s.core c).asleep = true →
    exec (.issueCycle c) s = .next { s with turn := c + 1 }) ∧
  (∀ (s : State) (c x : Nat), c < 192 → x < 4 → (s.core c).asleep = false → (s.core c).awakeFrom ≤ s.cyc →
    (s.cluster (c / 4)).throttle = 0 → (s.ctx c x).prio < 4 → (∀ y, y < 5 → s.frontOf c y = s) →
    s.standing c x = .ready →
    (∀ y, y < 5 → y ≠ x → (s.ctx c y).status = .free ∧ ((s.issue c x).ctx c y).status = .free) →
    Leads (.issueCycle c) s (fun t => t.cyc = (s.issue c x).cyc ∧
      (((s.issue c x).core c).traceQ = [] → t.mem = (s.issue c x).mem) ∧
      t.turn = c + 1 ∧ (∀ y, t.ctx c y = (s.issue c x).ctx c y) ∧ (t.core c).tiles = ((s.issue c x).core c).tiles ∧
      ∀ d, d ≠ c → t.core d = (s.issue c x).core d)) ∧
  ∀ (s : State) (c x k : Nat) (i : Instr), s.instrs c x = [(k, i)] → k < 7 → (encode i).isSome = true →
    (s.ctx c x).skip = 0 →
    let s1 : State := { s.landed c x with
      cur := { core := c, ctx := x, pc := (s.ctx c x).pc, slot := k, skip := 0, bc := 0, effs := [] } }
    ∃ es more, exec i s1 = .next (emitted s1 es) ∧
      (s.evaluate c x).cur.effs = es.map (fun e => (k, e)) ++ more ∧
      ∀ e ∈ more, (∃ n, e.2 = .wait n none) ∨ (∃ n, e.2 = .trap .uncr n) ∨ (∃ n, e.2 = .trap .bank n) ∨
        ∃ l, e.2 = .damaged 0 l

/-! ## The machine as a whole -/

/-- R301, Table 1.2: the machine right after power-up: nothing runs, there is no owner and no launch, and the
boot ROM is at stage 0. That memory reads 0 is the model's choice (log entry 3), as are the registers' values (log entry
4). -/
def Obligations.ResetState : Prop :=
  State.reset.cyc = 0 ∧ State.reset.boot.stage = 0 ∧ State.reset.owner.host = none ∧ State.reset.launches = [] ∧
  State.reset.calendar = [] ∧ State.reset.inbox = [] ∧
  (∀ c x, (State.reset.ctx c x).status = .free ∧ (State.reset.ctx c x).pwq = [] ∧
    (∀ n, (State.reset.ctx c x).readC n = 0) ∧ (State.reset.ctx c x).pred 0 = true ∧
    (State.reset.ctx c x).pred 1 = false ∧ (State.reset.ctx c x).readQ 0 = BitVec.allOnes 32) ∧
  (∀ c b, ((State.reset.core c).bank b).owner = 0 ∧ (State.reset.core c).asleep = false) ∧
  ∀ q, (State.reset.queue q).vectors = []

/-- Memory and the stored start vectors have one canonical form, so equal contents are equal data. -/
def Obligations.CanonicalAtReset : Prop := Canonical State.reset

/-- Every step keeps the canonical form of memory and of the stored start vectors, from every state that has it. -/
def Obligations.CanonicalKept : Prop := ∀ s t : State, Canonical s → step s = .next t → Canonical t

/-- R292: the owner, its key and the pending hand-over change only by a CLAIM, HANDOVER or CANCEL of the mailbox or at
power-up; R308: the power cap only by a write of the owner or at power-up; and no step but the next cycle moves time. -/
def Obligations.OwnershipChangesOnlyThere : Prop :=
  (∀ (i : Instr) (s t : State), exec i s = .next t →
    (t.owner = s.owner ∨ i = .powerUp ∨ (∃ h k sig, i = .onaetClaim h k sig) ∨ (∃ h x, i = .handover h x) ∨
      ∃ h, i = .cancel h) ∧
    (t.powerCap = s.powerCap ∨ i = .powerUp ∨ ∃ h w, i = .powerCapWrite h w) ∧
    (t.cyc = s.cyc ∨ i = .powerUp)) ∧
  ∀ (s t : State), step s = .next t → t.cyc = s.cyc ∨ t.cyc = s.cyc + 1 ∨ t.cyc = 0

/-- Every instruction that names units that exist goes on: no program, and no step of the part, stops the machine. -/
def Sys2Proof.NamedUnitsGoOn : Prop := ∀ (i : Instr) (s : State), i.wf = true → GoesOn (exec i s)

/-- A step of the part that names a core, context, queue, window or link that does not exist is no step of the hardware:
the model stops there, and so does a read behind the register region (log entry 67: the spec names no such step). -/
def Sys2Proof.UnitsThatDoNotExist : Prop :=
  ∀ (s : State) (n x h : Nat) (v : Word),
    (192 ≤ n → ∀ i ∈ [Instr.issueCycle n, .srqEntryEnqueue n x, .rewindResume n x, .claimAnswer n x, .csaveComplete n,
      .readPortFetch n x, .matrixRunStep n, .ppeLineWrite n, .copyCommandStart n, .scaCommandStart n, .coreSleep n,
      .rfshChange n, .supmsg h n v], exec i s = .fault .noSuchUnit) ∧
    (64 ≤ n → ∀ i ∈ [Instr.windowRevoke h n, .windowFree h n], exec i s = .fault .noSuchUnit) ∧
    (∀ off, 2 ^ 21 < off + n → exec (.queueStatusRead h ⟨off, n⟩) s = .fault .noSuchUnit) ∧
    (12 ≤ n → ∀ i ∈ [Instr.linkRetrain n, .linkLaneLoss n, .linkTrainingComplete n], exec i s = .fault .noSuchUnit)

/-- Every instruction that names units that exist answers a next state; a step of the part that names a core, queue,
window or link that does not exist stops the model (R8, R276, R294), which is its choice (log entry 67). -/
def Obligations.NothingStops : Prop :=
  NamedUnitsGoOn ∧ UnitsThatDoNotExist

/-! ## Encodings (R70 to R82, Tables 4.2 to 4.16) -/

/-- The instructions that a write of a special register, or a move to a trigger port, stands for: their words are those of
an MTS or of a move. -/
def Sys2Proof.OtherName (i : Instr) : Prop :=
  (∃ f, i ∈ [Instr.dbgControlWrite f, .dbgBreakpointWrite f, .dbgWatchWrite f]) ∨
  ∃ m, i ∈ [Instr.tanFit m, .tanEval m, .tanSlope m, .tanKset m, .rngSeed m, .rngNext m, .crcInit m, .crcLine m]

/-- Decoding the code of a well-formed instruction gives it back, with every operand at every value the encoding
admits. A NOP is an empty slot; a write of DBG decodes as its MTS; a move to a trigger port fires its trigger (R80). -/
def Sys2Proof.DecodeEncode : Prop :=
  (∀ (i : Instr) (code : Code), i.wf = true → encode i = some code → i ≠ .nop → ¬ OtherName i →
    decodeCode code = .instr i) ∧
  (∃ code, encode .nop = some code ∧ decodeCode code = .empty) ∧
  (∀ f : SSlot, ∀ i ∈ [Instr.dbgControlWrite f, .dbgBreakpointWrite f, .dbgWatchWrite f], i.wf = true →
    ∃ code, encode i = some code ∧ decodeCode code = .instr (.mts f)) ∧
  ∀ m : Move, ∀ i ∈ [Instr.xmov m, .xmovl m, .xtrg m],
    ∀ p ∈ [(0x048, Instr.tanFit m), (0x049, .tanEval m), (0x04A, .tanSlope m), (0x04B, .tanKset m), (0x060, .rngSeed m),
      (0x061, .rngNext m), (0x070, .crcInit m), (0x071, .crcLine m)], m.dst.toNat = p.1 → triggerOf i = some p.2

/-- The pattern of R79 and Table 4.11: the low four bits of a move are 0000 for XMOV and XTRG, whose source is null, and
0100 for XMOVL; the destination stands in bits [27:16], the source in [15:4], the guard in [31:28]. -/
def Sys2Proof.MoveWords : Prop :=
  ∀ w : BitVec 32, (w.toNat % 4 ≠ 0 → decodeMove w = .reject .reservedBit) ∧
    (∀ i, decodeMove w = .instr i → ∃ m : Move, m.g.toNat = w.toNat / 2 ^ 28 ∧ m.dst.toNat = w.toNat / 2 ^ 16 % 2 ^ 12 ∧
      m.src.toNat = w.toNat / 2 ^ 4 % 2 ^ 12 ∧
      ((w.toNat % 16 = 0 ∧ m.src = 0 ∧ i = .xtrg m) ∨ (w.toNat % 16 = 0 ∧ m.src ≠ 0 ∧ i = .xmov m) ∨
        (w.toNat % 16 = 4 ∧ i = .xmovl m)))

/-- Decoding the code of a well-formed instruction gives it back, with every operand at every value the encoding
admits, and the low bits of a move tell XMOV, XTRG and XMOVL apart (R70 to R82). -/
def Obligations.DecodeEncodeAgree : Prop :=
  DecodeEncode ∧ MoveWords

/-- Words written out from Tables 4.2, 4.4, 4.7, 4.9 and 4.11 to 4.15 decode to the instructions they stand for. -/
def Obligations.WordsOfTheTables : Prop :=
  decodeSlot 0 0x01E28C3800000000 = .instr (.addp { g := 0, d := 10, a := 12, b := 14, imm := 0 }) ∧
  decodeSlot 1 0x0280830000000064 = .instr (.cmpiLt { g := 0, d := 2, a := 3, b := 0, imm := 100 }) ∧
  decodeSlot 2 0x0220001808002080 =
    .instr (.vcmpLt { g := 0, fmt := 0, d := 3, a := 64, b := 65, m := 0, rnd := 0, sat := 0 }) ∧
  decodeSlot 0 0x0532800000000009 = .instr (.mfs { g := 0, d := 10, a := 0, b := 0, imm := 9 }) ∧
  decodeSlot 0 0x0560050000000000 = .instr (.csave { g := 0, d := 0, a := 5, b := 0, imm := 0 }) ∧
  decodeSlot 4 0x001411400000A010 = .instr (.ld { g := 0, opnd := 0x1045, c := 0, oc := 0, flags := 0, bank := 5, line := 0x10 }) ∧
  decodeSlot 5 0x3050000900EFFFFF =
    .instr (.lds { g := 3, opnd := 0, c := 9, oc := 0, flags := 3, bank := 383, line := 0x1FFF }) ∧
  decodeSlot 4 0x010008042FFFFFFF =
    .instr (.gld { g := 0, opnd := 0x0020, c := 4, oc := 2, flags := 0x3F, bank := 0x1FF, line := 0x1FFF }) ∧
  decodeSlot 5 0x01EC048500000000 =
    .instr (.pstat { g := 0, opnd := 0x3012, c := 5, oc := 0, flags := 0, bank := 0, line := 0 }) ∧
  decodeSlot 6 0x03A1844000000000 =
    .instr (.kjoin { g := 0, ko := 3, ka := 1, kb := 2, kc := 0, da := 0, db := 0, t := 0, f := 0, oc := 0, scope := 0, mode := 0 }) ∧
  decodeSlot 6 0x2220900023000A80 =
    .instr (.cpySs { g := 2, ko := 1, ka := 4, kb := 0, kc := 0, da := 2, db := 3, t := 0, f := 0, oc := 5, scope := 1, mode := 0 }) ∧
  decodeSlot 6 0x0123800000142000 =
    .instr (.ppeTld { g := 0, ko := 7, ka := 0, kb := 0, kc := 0, da := 0, db := 0, t := 10, f := 1, oc := 0, scope := 0, mode := 0 }) ∧
  decodeMove 0x01011000 = .instr (.xmov { g := 0, dst := 0x101, src := 0x100 }) ∧
  decodeSlot 0 0 = .empty
end

