-- ==== Sys2Proof/Laws/Encoding.lean ====
section
/-!
SUPPORT. The encoder against the decoder's fields (Tables 4.2 to 4.11): each field of a code is the field it was made of.
-/
namespace Sys2Proof

/-- The opcode of an encoded S slot. -/
theorem opcodeOf_encS (op : BitVec 8) (f : SSlot) : opcodeOf (encS op f) = op.toNat := by
  unfold opcodeOf encS
  congr 1
  all_goals
    apply BitVec.eq_of_getLsbD_eq
    intro i hi
    simp (disch := omega) only [BitVec.getLsbD_extractLsb', BitVec.getLsbD_append, hi, decide_true, Bool.true_and, if_neg, if_pos]
    all_goals (congr 1; omega)

/-- The fields of an encoded S slot. -/
theorem sFields_encS (op : BitVec 8) (f : SSlot) : sFields (encS op f) = f := by
  rcases f with ⟨g, d, a, b, imm⟩
  simp only [sFields, encS, SSlot.mk.injEq]
  refine ⟨?_, ?_, ?_, ?_, ?_⟩
  all_goals
    apply BitVec.eq_of_getLsbD_eq
    intro i hi
    simp (disch := omega) only [BitVec.getLsbD_extractLsb', BitVec.getLsbD_append, hi, decide_true, Bool.true_and, if_neg, if_pos]
    all_goals (congr 1; omega)

/-- The opcode of an encoded V slot. -/
theorem opcodeOf_encV (op : BitVec 8) (f : VSlot) : opcodeOf (encV op f) = op.toNat := by
  unfold opcodeOf encV
  congr 1
  all_goals
    apply BitVec.eq_of_getLsbD_eq
    intro i hi
    simp (disch := omega) only [BitVec.getLsbD_extractLsb', BitVec.getLsbD_append, hi, decide_true, Bool.true_and, if_neg, if_pos]
    all_goals (congr 1; omega)

/-- The fields of an encoded V slot. -/
theorem vFields_encV (op : BitVec 8) (f : VSlot) : vFields (encV op f) = f := by
  rcases f with ⟨g, fmt, d, a, b, m, rnd, sat⟩
  simp only [vFields, encV, VSlot.mk.injEq]
  refine ⟨?_, ?_, ?_, ?_, ?_, ?_, ?_, ?_⟩
  all_goals
    apply BitVec.eq_of_getLsbD_eq
    intro i hi
    simp (disch := omega) only [BitVec.getLsbD_extractLsb', BitVec.getLsbD_append, hi, decide_true, Bool.true_and, if_neg, if_pos]
    all_goals (congr 1; omega)

/-- The opcode of an encoded L slot. -/
theorem opcodeOf_encL (op : BitVec 8) (f : LSlot) : opcodeOf (encL op f) = op.toNat := by
  unfold opcodeOf encL
  congr 1
  all_goals
    apply BitVec.eq_of_getLsbD_eq
    intro i hi
    simp (disch := omega) only [BitVec.getLsbD_extractLsb', BitVec.getLsbD_append, hi, decide_true, Bool.true_and, if_neg, if_pos]
    all_goals (congr 1; omega)

/-- The fields of an encoded L slot. -/
theorem lFields_encL (op : BitVec 8) (f : LSlot) : lFields (encL op f) = f := by
  rcases f with ⟨g, opnd, c, oc, flags, bank, line⟩
  simp only [lFields, encL, LSlot.mk.injEq]
  refine ⟨?_, ?_, ?_, ?_, ?_, ?_, ?_⟩
  all_goals
    apply BitVec.eq_of_getLsbD_eq
    intro i hi
    simp (disch := omega) only [BitVec.getLsbD_extractLsb', BitVec.getLsbD_append, hi, decide_true, Bool.true_and, if_neg, if_pos]
    all_goals (congr 1; omega)

/-- The opcode of an encoded E slot. -/
theorem opcodeOf_encE (op : BitVec 8) (f : ESlot) : opcodeOf (encE op f) = op.toNat := by
  unfold opcodeOf encE
  congr 1
  all_goals
    apply BitVec.eq_of_getLsbD_eq
    intro i hi
    simp (disch := omega) only [BitVec.getLsbD_extractLsb', BitVec.getLsbD_append, hi, decide_true, Bool.true_and, if_neg, if_pos]
    all_goals (congr 1; omega)

/-- The fields of an encoded E slot. -/
theorem eFields_encE (op : BitVec 8) (f : ESlot) : eFields (encE op f) = f := by
  rcases f with ⟨g, ko, ka, kb, kc, da, db, t, f, oc, scope, mode⟩
  simp only [eFields, encE, ESlot.mk.injEq]
  refine ⟨?_, ?_, ?_, ?_, ?_, ?_, ?_, ?_, ?_, ?_, ?_, ?_⟩
  all_goals
    apply BitVec.eq_of_getLsbD_eq
    intro i hi
    simp (disch := omega) only [BitVec.getLsbD_extractLsb', BitVec.getLsbD_append, hi, decide_true, Bool.true_and, if_neg, if_pos]
    all_goals (congr 1; omega)

/-- The reserved bit of an encoded V slot is 0. -/
theorem encV_bit0 (op : BitVec 8) (f : VSlot) : bitOfWord (encV op f) 0 = false := by
  simp only [bitOfWord, encV, Machine.bitOf, BitVec.toNat_append]
  simp [Nat.shiftLeft_eq]

/-- The fields of an encoded move. -/
theorem moveFields_encMove (w : BitVec 2) (f : Move) : moveFields (encMove w f) = f := by
  rcases f with ⟨g, dst, src⟩
  simp only [moveFields, encMove, Move.mk.injEq]
  refine ⟨?_, ?_, ?_⟩
  all_goals
    apply BitVec.eq_of_getLsbD_eq
    intro i hi
    simp (disch := omega) only [BitVec.getLsbD_extractLsb', BitVec.getLsbD_append, hi, decide_true, Bool.true_and, if_neg, if_pos]
    all_goals (congr 1; omega)

/-- The reserved bits of an encoded move are 0. -/
theorem encMove_low (w : BitVec 2) (f : Move) : (encMove w f).extractLsb' 0 2 = 0 := by
  unfold encMove
  all_goals
    apply BitVec.eq_of_getLsbD_eq
    intro i hi
    simp (disch := omega) only [BitVec.getLsbD_extractLsb', BitVec.getLsbD_append, hi, decide_true, Bool.true_and, if_neg, if_pos]
    all_goals (congr 1; omega)

/-- The width of an encoded move. -/
theorem encMove_width (w : BitVec 2) (f : Move) : (encMove w f).extractLsb' 2 2 = w := by
  unfold encMove
  all_goals
    apply BitVec.eq_of_getLsbD_eq
    intro i hi
    simp (disch := omega) only [BitVec.getLsbD_extractLsb', BitVec.getLsbD_append, hi, decide_true, Bool.true_and, if_neg, if_pos]
    all_goals (congr 1; omega)

end Sys2Proof
end

