-- ==== Sys2Proof/Laws/Memory.lean ====
section
/-!
SUPPORT. Laws of the memory (R4, log entry 3): every operation keeps the canonical form; reads after writes, byte by
byte and of whole numbers; equal reads are equal memories.
-/
namespace Sys2Proof.Machine

/-! ## The canonical form -/

theorem Memory.risingFrom_iff (m : Memory) : ∀ lo, Memory.risingFrom lo m = true ↔
    m.Pairwise (fun c d => c.1 < d.1) ∧ ∀ c ∈ m, lo ≤ c.1 ∧ c.2 ≠ Memory.blank := by
  induction m with
  | nil => simp [Memory.risingFrom]
  | cons c m ih =>
    intro lo
    obtain ⟨k, b⟩ := c
    simp only [Memory.risingFrom, Bool.and_eq_true, decide_eq_true_eq, ih, List.pairwise_cons, List.mem_cons,
      forall_eq_or_imp]
    constructor
    · rintro ⟨h1, h2, h3, h4⟩
      exact ⟨⟨fun d hd => (h4 d hd).1, h3⟩, ⟨h1, h2⟩, fun d hd => ⟨by have := (h4 d hd).1; omega, (h4 d hd).2⟩⟩
    · rintro ⟨⟨h1, h2⟩, ⟨h3, h4⟩, h5⟩
      exact ⟨h3, h4, h2, fun d hd => ⟨h1 d hd, (h5 d hd).2⟩⟩

theorem Memory.wf_iff (m : Memory) :
    m.wf = true ↔ m.Pairwise (fun c d => c.1 < d.1) ∧ ∀ c ∈ m, c.2 ≠ Memory.blank := by
  simp [Memory.wf, Memory.risingFrom_iff]

theorem Memory.wf_nil : Memory.wf [] = true := rfl

theorem Memory.wf_filter {m : Memory} (p : Host.Cell → Bool) (h : m.wf = true) : Memory.wf (m.filter p) = true := by
  rw [Memory.wf_iff] at *
  exact ⟨h.1.filter _, fun c hc => h.2 c (List.mem_filter.mp hc).1⟩

theorem Memory.wf_window {m : Memory} (a n : Nat) (h : m.wf = true) : (m.window a n).wf = true := Memory.wf_filter _ h
theorem Memory.wf_clear {m : Memory} (a n : Nat) (h : m.wf = true) : (m.clear a n).wf = true := Memory.wf_filter _ h

theorem Memory.cellsOf_spec (bs : List Byte) : ∀ a, (Memory.cellsOf a bs).Pairwise (fun c d => c.1 < d.1) ∧
    ∀ c ∈ Memory.cellsOf a bs, a ≤ c.1 ∧ c.1 < a + bs.length ∧ c.2 ≠ Memory.blank := by
  induction bs with
  | nil => simp [Memory.cellsOf]
  | cons b bs ih =>
    intro a
    obtain ⟨h1, h2⟩ := ih (a + 1)
    simp only [Memory.cellsOf]
    split
    · exact ⟨h1, fun c hc => by
        obtain ⟨h3, h4, h5⟩ := h2 c hc
        refine ⟨by omega, ?_, h5⟩
        simp only [List.length_cons]
        omega⟩
    · next hb =>
      refine ⟨List.pairwise_cons.mpr ⟨fun d hd => by have := (h2 d hd).1; omega, h1⟩, ?_⟩
      intro c hc
      rcases List.mem_cons.mp hc with rfl | hc
      · exact ⟨Nat.le_refl _, by simp, hb⟩
      · obtain ⟨h3, h4, h5⟩ := h2 c hc
        refine ⟨by omega, ?_, h5⟩
        simp only [List.length_cons]
        omega

theorem Memory.wf_write {m : Memory} (a : Nat) (bs : List Byte) (h : m.wf = true) : (m.write a bs).wf = true := by
  rw [Memory.wf_iff] at *
  obtain ⟨hp, hb⟩ := h
  obtain ⟨h1, h2⟩ := Memory.cellsOf_spec bs a
  constructor
  · simp only [Memory.write, List.pairwise_append, List.mem_append, List.mem_filter, decide_eq_true_eq]
    refine ⟨hp.filter _, ⟨h1, hp.filter _, ?_⟩, ?_⟩
    · intro c hc d hd
      have := h2 c hc
      omega
    · rintro c ⟨-, hc⟩ d (hd | ⟨-, hd⟩)
      · have := h2 d hd
        omega
      · omega
  · intro c hc
    simp only [Memory.write, List.mem_append, List.mem_filter] at hc
    rcases hc with hc | hc | hc
    · exact hb c hc.1
    · exact (h2 c hc).2.2
    · exact hb c hc.1

theorem Memory.wf_store {m : Memory} (a n v : Nat) (h : m.wf = true) : (m.store a n v).wf = true :=
  Memory.wf_write _ _ h

/-- Cells that all lie at or above their old place keep the form when they move. -/
theorem Memory.wf_move {m : Memory} (src dst : Nat) (h : m.wf = true) (hs : ∀ c ∈ m, src ≤ c.1) :
    (m.move src dst).wf = true := by
  rw [Memory.wf_iff] at *
  refine ⟨List.pairwise_map.mpr (h.1.imp_of_mem ?_), ?_⟩
  · intro c d hc hd hcd
    have := hs c hc
    have := hs d hd
    show c.1 - src + dst < d.1 - src + dst
    omega
  · intro c hc
    obtain ⟨d, hd, rfl⟩ := List.mem_map.mp hc
    exact h.2 d hd

theorem Memory.wf_window_move {m : Memory} (a n dst : Nat) (h : m.wf = true) : ((m.window a n).move a dst).wf = true :=
  Memory.wf_move _ _ (Memory.wf_window _ _ h) (fun c hc => by
    have := (List.mem_filter.mp hc).2
    simp only [decide_eq_true_eq] at this
    exact this.1)

/-! ## Reads -/

theorem Memory.read_filter (m : Memory) (p : Nat → Bool) (x : Nat) :
    Memory.read (m.filter (fun c => p c.1)) x = if p x then m.read x else Memory.blank := by
  induction m with
  | nil => simp [Memory.read]
  | cons c m ih =>
    obtain ⟨k, b⟩ := c
    simp only [List.filter_cons]
    by_cases hx : x = k
    · subst hx
      by_cases hp : p x
      · simp [hp, Memory.read]
      · simp [hp, ih]
    · by_cases hp : p k <;> simp [hp, hx, Memory.read, ih]

theorem Memory.read_blank {m : Memory} {x : Nat} (h : ∀ c ∈ m, c.1 ≠ x) : m.read x = Memory.blank := by
  induction m with
  | nil => rfl
  | cons c m ih =>
    obtain ⟨k, b⟩ := c
    have hk := h (k, b) (List.mem_cons_self)
    rw [Memory.read, if_neg (fun e => hk e.symm)]
    exact ih (fun c hc => h c (List.mem_cons_of_mem _ hc))

theorem Memory.read_append (m n : Memory) (x : Nat) :
    Memory.read (m ++ n) x = if m.any (fun c => decide (c.1 = x)) then m.read x else Memory.read n x := by
  induction m with
  | nil => simp
  | cons c m ih =>
    obtain ⟨k, b⟩ := c
    by_cases hx : x = k
    · subst hx
      simp [Memory.read]
    · have hk : ¬k = x := fun e => hx e.symm
      rw [List.cons_append, Memory.read, if_neg hx, ih, List.any_cons, Memory.read, if_neg hx]
      simp only [hk, decide_false, Bool.false_or]

theorem Memory.read_append_blank {m n : Memory} {x : Nat} (h : ∀ c ∈ m, c.1 ≠ x) : Memory.read (m ++ n) x = Memory.read n x := by
  rw [Memory.read_append, if_neg]
  intro e
  obtain ⟨c, hc, hx⟩ := List.any_eq_true.mp e
  exact h c hc (of_decide_eq_true hx)

theorem Memory.read_append_left {m n : Memory} {x : Nat} (h : ∀ c ∈ n, c.1 ≠ x) : Memory.read (m ++ n) x = m.read x := by
  rw [Memory.read_append]
  split
  · rfl
  · next hm =>
    rw [Memory.read_blank h, Memory.read_blank]
    intro c hc e
    exact hm (List.any_eq_true.mpr ⟨c, hc, decide_eq_true e⟩)

theorem Memory.read_cellsOf (bs : List Byte) : ∀ a x, Memory.read (Memory.cellsOf a bs) x =
    if a ≤ x ∧ x < a + bs.length then bs.getD (x - a) Memory.blank else Memory.blank := by
  induction bs with
  | nil => intro a x; simp [Memory.cellsOf, Memory.read]
  | cons b bs ih =>
    intro a x
    have key : Memory.read (Memory.cellsOf a (b :: bs)) x = if x = a then b else Memory.read (Memory.cellsOf (a + 1) bs) x := by
      simp only [Memory.cellsOf]
      split
      · next hb =>
        split
        · next hx =>
          subst hx
          rw [ih, if_neg (by omega), hb]
        · rfl
      · simp [Memory.read]
    rw [key, ih]
    by_cases hx : x = a
    · subst hx
      simp
    · rw [if_neg hx]
      by_cases h2 : a + 1 ≤ x ∧ x < a + 1 + bs.length
      · have h3 : a ≤ x ∧ x < a + (b :: bs).length := by simp only [List.length_cons]; omega
        obtain ⟨j, rfl⟩ : ∃ j, x = a + 1 + j := ⟨x - (a + 1), by omega⟩
        rw [if_pos h2, if_pos h3, show a + 1 + j - (a + 1) = j by omega, show a + 1 + j - a = j + 1 by omega,
          List.getD_cons_succ]
      · have h3 : ¬(a ≤ x ∧ x < a + (b :: bs).length) := by simp only [List.length_cons]; omega
        rw [if_neg h2, if_neg h3]

/-- A byte after a write: the byte written there, or the byte before. -/
theorem Memory.read_write (m : Memory) (a : Nat) (bs : List Byte) (x : Nat) :
    (m.write a bs).read x = if a ≤ x ∧ x < a + bs.length then bs.getD (x - a) Memory.blank else m.read x := by
  obtain ⟨-, h2⟩ := Memory.cellsOf_spec bs a
  have hl : Memory.read (m.filter (fun c => decide (c.1 < a))) x = if x < a then m.read x else Memory.blank := by
    simpa using Memory.read_filter m (fun k => decide (k < a)) x
  have hr : Memory.read (m.filter (fun c => decide (a + bs.length ≤ c.1))) x =
      if a + bs.length ≤ x then m.read x else Memory.blank := by
    simpa using Memory.read_filter m (fun k => decide (a + bs.length ≤ k)) x
  unfold Memory.write
  by_cases h1 : x < a
  · rw [Memory.read_append_left, hl, if_pos h1, if_neg (by omega)]
    intro c hc
    rcases List.mem_append.mp hc with hc | hc
    · have := h2 c hc
      omega
    · have := (List.mem_filter.mp hc).2
      simp only [decide_eq_true_eq] at this
      omega
  · rw [Memory.read_append_blank]
    · by_cases h3 : x < a + bs.length
      · rw [Memory.read_append_left, Memory.read_cellsOf]
        · rw [if_pos ⟨by omega, h3⟩, if_pos ⟨by omega, h3⟩]
        · intro c hc
          have := (List.mem_filter.mp hc).2
          simp only [decide_eq_true_eq] at this
          omega
      · rw [Memory.read_append_blank, hr, if_pos (by omega), if_neg (by omega)]
        intro c hc
        have := h2 c hc
        omega
    · intro c hc
      have := (List.mem_filter.mp hc).2
      simp only [decide_eq_true_eq] at this
      omega

theorem Memory.read_clear (m : Memory) (a n x : Nat) :
    (m.clear a n).read x = if a ≤ x ∧ x < a + n then Memory.blank else m.read x := by
  rw [Memory.clear, Memory.read_filter m (fun k => !decide (a ≤ k ∧ k < a + n)) x]
  by_cases h : a ≤ x ∧ x < a + n <;> simp [h]

theorem Memory.read_window (m : Memory) (a n x : Nat) :
    (m.window a n).read x = if a ≤ x ∧ x < a + n then m.read x else Memory.blank := by
  rw [Memory.window, Memory.read_filter m (fun k => decide (a ≤ k ∧ k < a + n)) x]
  by_cases h : a ≤ x ∧ x < a + n <;> simp [h]

/-! ## Numbers -/

theorem bytesOf_length (n : Nat) : ∀ v, (bytesOf n v).length = n := by
  induction n with
  | zero => intro v; rfl
  | succ n ih => intro v; simp [bytesOf, ih]

theorem Memory.readNat_congr {m m' : Memory} (n : Nat) : ∀ a, (∀ x, a ≤ x → x < a + n → m.read x = m'.read x) →
    m.readNat a n = m'.readNat a n := by
  induction n with
  | zero => intro a _; rfl
  | succ n ih =>
    intro a h
    rw [Memory.readNat, Memory.readNat, h a (Nat.le_refl _) (by omega),
      ih (a + 1) (fun x h1 h2 => h x (by omega) (by omega))]

/-- A load is the number in the bytes from its address on. -/
theorem Memory.load_eq (m : Memory) (a n : Nat) : m.load a n = m.readNat a n := by
  apply Memory.readNat_congr
  intro x h1 h2
  rw [Memory.read_window, if_pos ⟨h1, h2⟩]

theorem Memory.readNat_lt (m : Memory) (n : Nat) : ∀ a, m.readNat a n < 256 ^ n := by
  induction n with
  | zero => intro a; simp [Memory.readNat]
  | succ n ih =>
    intro a
    have h1 := (m.read a).isLt
    have h2 := ih (a + 1)
    simp only [Memory.readNat]
    have : 256 * m.readNat (a + 1) n + 256 ≤ 256 * 256 ^ n := by omega
    rw [show (256 : Nat) ^ (n + 1) = 256 * 256 ^ n by ring]
    omega

theorem Memory.load_lt (m : Memory) (a n : Nat) : m.load a n < 256 ^ n := by
  rw [Memory.load_eq]
  exact Memory.readNat_lt m n a

/-- The number of the bytes of a number is the number, cut to their count. -/
theorem natOfBytes_bytesOf (n : Nat) : ∀ v, natOfBytes (bytesOf n v) = v % 256 ^ n := by
  induction n with
  | zero => intro v; simp [bytesOf, natOfBytes, Nat.mod_one]
  | succ n ih =>
    intro v
    have h : (BitVec.ofNat 8 v).toNat = v % 256 := rfl
    rw [bytesOf, natOfBytes, ih, h, Nat.pow_succ, Nat.mul_comm (256 ^ n), Nat.mod_mul]

theorem bytesOf_getD (n : Nat) : ∀ v i, i < n → (bytesOf n v).getD i Memory.blank = BitVec.ofNat 8 (v / 256 ^ i) := by
  induction n with
  | zero => intro v i h; omega
  | succ n ih =>
    intro v i h
    cases i with
    | zero => simp [bytesOf]
    | succ i =>
      rw [bytesOf, List.getD_cons_succ, ih _ _ (by omega), Nat.div_div_eq_div_mul, Nat.pow_succ, Nat.mul_comm]

/-- A byte after a store of a number. -/
theorem Memory.read_store (m : Memory) (a n v x : Nat) :
    (m.store a n v).read x = if a ≤ x ∧ x < a + n then BitVec.ofNat 8 (v / 256 ^ (x - a)) else m.read x := by
  rw [Memory.store, Memory.read_write, bytesOf_length]
  split
  · next h => rw [bytesOf_getD _ _ _ (by omega)]
  · rfl

theorem Memory.readNat_bytes (n : Nat) : ∀ (m : Memory) (a v : Nat),
    (∀ x, a ≤ x → x < a + n → m.read x = BitVec.ofNat 8 (v / 256 ^ (x - a))) → m.readNat a n = v % 256 ^ n := by
  induction n with
  | zero => intro m a v _; simp [Memory.readNat, Nat.mod_one]
  | succ n ih =>
    intro m a v h
    rw [Memory.readNat, h a (Nat.le_refl _) (by omega), ih m (a + 1) (v / 256)]
    · rw [Nat.sub_self, Nat.pow_zero, Nat.div_one, BitVec.toNat_ofNat]
      have e : v % 256 ^ (n + 1) = v % 256 + 256 * (v / 256 % 256 ^ n) := by
        rw [Nat.pow_succ, Nat.mul_comm, Nat.mod_mul]
      rw [e]
    · intro x h1 h2
      rw [h x (by omega) (by omega), Nat.div_div_eq_div_mul]
      congr 2
      rw [show x - a = x - (a + 1) + 1 by omega, Nat.pow_succ, Nat.mul_comm]

/-- A load after a store to the same bytes gives the number stored. -/
theorem Memory.load_store (m : Memory) (a n v : Nat) : (m.store a n v).load a n = v % 256 ^ n := by
  rw [Memory.load_eq]
  apply Memory.readNat_bytes
  intro x h1 h2
  rw [Memory.read_store, if_pos ⟨h1, h2⟩]

/-- A load from other bytes than those stored gives what it gave before. -/
theorem Memory.load_store_apart (m : Memory) (a n v b k : Nat) (h : b + k ≤ a ∨ a + n ≤ b) :
    (m.store a n v).load b k = m.load b k := by
  rw [Memory.load_eq, Memory.load_eq]
  apply Memory.readNat_congr
  intro x h1 h2
  rw [Memory.read_store, if_neg (by omega)]

/-! ## Equal reads are equal memories -/

theorem Memory.read_mem {m : Memory} (h : m.wf = true) {c : Host.Cell} (hc : c ∈ m) : m.read c.1 = c.2 := by
  rw [Memory.wf_iff] at h
  induction m with
  | nil => cases hc
  | cons d m ih =>
    obtain ⟨k, b⟩ := d
    obtain ⟨h1, h2⟩ := h
    rw [List.pairwise_cons] at h1
    rcases List.mem_cons.mp hc with rfl | hc
    · simp [Memory.read]
    · have := h1.1 c hc
      rw [Memory.read, if_neg (by omega)]
      exact ih ⟨h1.2, fun d hd => h2 d (List.mem_cons_of_mem _ hd)⟩ hc

theorem Memory.mem_of_read {m : Memory} {x : Nat} (h : m.read x ≠ Memory.blank) : (x, m.read x) ∈ m := by
  induction m with
  | nil => simp [Memory.read] at h
  | cons d m ih =>
    obtain ⟨k, b⟩ := d
    by_cases hx : x = k
    · subst hx
      simp [Memory.read]
    · rw [Memory.read, if_neg hx] at *
      exact List.mem_cons_of_mem _ (ih h)

/-- Canonical memories that read alike are equal data. -/
theorem Memory.ext_read {m n : Memory} (hm : m.wf = true) (hn : n.wf = true) (h : ∀ x, m.read x = n.read x) : m = n := by
  have key : ∀ {m n : Memory}, m.wf = true → n.wf = true → (∀ x, m.read x = n.read x) → ∀ c ∈ m, c ∈ n := by
    intro m n hm _ h c hc
    have e := Memory.read_mem hm hc
    have hb := ((Memory.wf_iff m).mp hm).2 c hc
    have := @Memory.mem_of_read n c.1 (by rw [← h, e]; exact hb)
    rwa [← h, e] at this
  have p1 := ((Memory.wf_iff m).mp hm).1
  have p2 := ((Memory.wf_iff n).mp hn).1
  have nd1 : m.Nodup := p1.imp (fun {a b} hab e => by rw [e] at hab; exact Nat.lt_irrefl _ hab)
  have nd2 : n.Nodup := p2.imp (fun {a b} hab e => by rw [e] at hab; exact Nat.lt_irrefl _ hab)
  have perm : m.Perm n := (List.perm_ext_iff_of_nodup nd1 nd2).mpr
    (fun c => ⟨key hm hn h c, key hn hm (fun x => (h x).symm) c⟩)
  exact perm.eq_of_pairwise (fun a b _ _ h1 h2 => absurd (Nat.lt_trans h1 h2) (Nat.lt_irrefl _)) p1 p2

end Sys2Proof.Machine
end

