-- ==== Sys2Proof/Laws/KeptBase.lean ====
section
/-!
SUPPORT. What the operations of the machine keep: a property of the memory, the launch queues, the cycle counter, the
owner and the power cap that outlives stores and changes of the queues is kept by every operation that touches the
memory only through stores and the counter, the owner and the cap not at all. With the property 'the stores are in
canonical form' this is an invariant; with 'the counter is c' or 'the owner is o' it is a frame.
-/
namespace Sys2Proof.Machine

/-- A property of memory, queues, cycle counter, owner and power cap. -/
abbrev Property := Memory → FMap Queue → Nat → Owner → Nat → Prop

/-- A property that stores to memory and harmless changes of the queues keep. -/
structure Closed (P : Property) : Prop where
  store : ∀ {m q c o w} (a n v : Nat), P m q c o w → P (Memory.store m a n v) q c o w
  write : ∀ {m q c o w} (a : Nat) (bs : List Byte), P m q c o w → P (Memory.write m a bs) q c o w
  clear : ∀ {m q c o w} (a n : Nat), P m q c o w → P (Memory.clear m a n) q c o w
  queues : ∀ {m q c o w} (q' : FMap Queue), ((∀ e ∈ q, QueueOk e.2) → ∀ e ∈ q', QueueOk e.2) → P m q c o w → P m q' c o w

/-- A state with the property. -/
abbrev Has (P : Property) (s : State) : Prop := P s.mem s.queues s.cyc s.owner s.powerCap

/-- The next state of an outcome, if there is one, has the property. -/
def ResHas (P : Property) (r : Res) : Prop :=
  match r with
  | .next t => Has P t
  | .fault _ => True
  | .refused _ => True

theorem resHas_next {P : Property} (t : State) (h : Has P t) : ResHas P (.next t) := h

theorem resHas_onCtx {P : Property} (c x : Nat) (r : Res) (h : ResHas P r) : ResHas P (onCtx c x r) := by
  unfold onCtx
  split
  · trivial
  · exact h

theorem resHas_onCore {P : Property} (c : Nat) (r : Res) (h : ResHas P r) : ResHas P (onCore c r) := by
  unfold onCore
  split
  · trivial
  · exact h

theorem resHas_onLayer {P : Property} (c l : Nat) (r : Res) (h : ResHas P r) : ResHas P (onLayer c l r) := by
  unfold onLayer
  split
  · trivial
  · exact h

theorem State.emit_kept {P : Property} (s : State) (g : BitVec 4) (es : List Effect) (h : Has P s) : Has P (s.emit g es) := by
  unfold State.emit
  split <;> exact h

/-- A slot of a bundle does nothing but add to the effects of the bundle, whatever its instruction. -/
theorem runSlot_emits (i : Instr) (s : State) : ∃ g es, runSlot i s = .next (s.emit g es) := by
  cases i
  all_goals first
    | exact ⟨_, _, rfl⟩
    | exact ⟨1, [], rfl⟩
    | skip
  case mts f =>
    unfold runSlot execMts
    dsimp only
    split
    · exact ⟨_, _, rfl⟩
    · exact ⟨_, _, rfl⟩

/-- A fold keeps what each of its steps keeps. -/
theorem has_foldl {P : Property} {α : Type} (f : State → α → State) (hf : ∀ s a, Has P s → Has P (f s a)) :
    ∀ (l : List α) (s : State), Has P s → Has P (l.foldl f s)
  | [], _, h => h
  | a :: l, s, h => has_foldl f hf l (f s a) (hf s a h)

/-! ## The launch queues -/

/-- A queue of the listed ones, or an idle one. -/
theorem queueOk_get {qs : FMap Queue} (h : ∀ e ∈ qs, QueueOk e.2) (q : Nat) : QueueOk (FMap.get Queue.idle qs q) := by
  induction qs with
  | nil => exact ⟨rfl, by simp [FMap.get, Queue.idle]⟩
  | cons e qs ih =>
    obtain ⟨k, v⟩ := e
    rw [FMap.get]
    split
    · exact h (k, v) List.mem_cons_self
    · exact ih (fun e he => h e (List.mem_cons_of_mem _ he))

theorem FMap.mem_set {α : Type} {m : FMap α} {i : Nat} {v : α} {e : Nat × α} (h : e ∈ m.set i v) : e = (i, v) ∨ e ∈ m := by
  induction m with
  | nil => simpa [FMap.set] using h
  | cons d m ih =>
    obtain ⟨k, w⟩ := d
    rw [FMap.set] at h
    split at h
    · rcases List.mem_cons.mp h with h | h
      · exact .inl h
      · exact .inr (List.mem_cons_of_mem _ h)
    · split at h
      · rcases List.mem_cons.mp h with h | h
        · exact .inl h
        · exact .inr h
      · rcases List.mem_cons.mp h with h | h
        · exact .inr (h ▸ List.mem_cons_self)
        · rcases ih h with h | h
          · exact .inl h
          · exact .inr (List.mem_cons_of_mem _ h)

/-- A queue replaced by one that is in canonical form if the queues were. -/
theorem State.setQueue_kept {P : Property} (hP : Closed P) (s : State) (q : Nat) (x : Queue)
    (hx : QueueOk (s.queue q) → QueueOk x) (h : Has P s) : Has P (s.setQueue q x) := by
  refine hP.queues _ (fun hq e he => ?_) h
  rcases FMap.mem_set he with rfl | he
  · exact hx (queueOk_get hq q)
  · exact hq e he

/-- Bytes of a start vector staged. -/
theorem QueueOk.stage {q : Queue} (a : Nat) (bs : List Byte) (h : QueueOk q) :
    QueueOk { q with staging := q.staging.write a bs } :=
  ⟨Memory.wf_write _ _ h.1, h.2⟩
/-- The staged vector queued. -/
theorem QueueOk.commit {q : Queue} (a : Nat) (bs : List Byte) (h : QueueOk q) :
    QueueOk { q with vectors := q.vectors ++ [q.staging.write a bs], staging := [] } :=
  ⟨rfl, fun v hv => by
    rcases List.mem_append.mp hv with hv | hv
    · exact h.2 v hv
    · rw [List.mem_singleton.mp hv]
      exact Memory.wf_write _ _ h.1⟩
/-- The first vector dropped. -/
theorem QueueOk.drop {q : Queue} (n : Nat) (h : QueueOk q) : QueueOk { q with vectors := q.vectors.drop n } :=
  ⟨h.1, fun v hv => h.2 v (List.mem_of_mem_drop hv)⟩

/-! ## The properties themselves -/

/-- 'The stores are in canonical form' is such a property. -/
theorem closed_storesOk : Closed (fun m q _ _ _ => StoresOk m q) where
  store a n v h := ⟨Memory.wf_store a n v h.1, h.2⟩
  write a bs h := ⟨Memory.wf_write a bs h.1, h.2⟩
  clear a n h := ⟨Memory.wf_clear a n h.1, h.2⟩
  queues _ hq h := ⟨h.1, hq h.2⟩

/-- 'The cycle counter is c, the owner o and the power cap w' is such a property. -/
theorem closed_quiet (c : Nat) (o : Owner) (w : Nat) : Closed (fun _ _ c' o' w' => c' = c ∧ o' = o ∧ w' = w) where
  store _ _ _ h := h
  write _ _ h := h
  clear _ _ h := h
  queues _ _ h := h

end Sys2Proof.Machine
end

