-- ==== Sys2Proof/Laws/Kept.lean ====
section
/-!
SUPPORT. One lemma per operation of the machine and per step of the part: it keeps every closed property (see
KeptBase). The steps that change the owner, the power cap or the cycle counter themselves are not among them.
-/
namespace Sys2Proof.Machine

theorem State.setCore_kept {P : Property} (hP : Closed P) (s : State) (c : ℕ) (x : Core) (h0 : Has P s) : Has P (State.setCore s c x) := by
  unfold State.setCore
  repeat' first
    | with_reducible assumption
theorem State.setCtx_kept {P : Property} (hP : Closed P) (s : State) (c : ℕ) (x : ℕ) (v : Ctx) (h0 : Has P s) : Has P (State.setCtx s c x v) := by
  unfold State.setCtx
  repeat' first
    | with_reducible assumption
    | with_reducible apply State.setCore_kept hP
theorem State.setCluster_kept {P : Property} (hP : Closed P) (s : State) (k : ℕ) (x : Cluster) (h0 : Has P s) : Has P (State.setCluster s k x) := by
  unfold State.setCluster
  repeat' first
    | with_reducible assumption
theorem State.modCore_kept {P : Property} (hP : Closed P) (s : State) (c : ℕ) (f : Core → Core) (h0 : Has P s) : Has P (State.modCore s c f) := by
  unfold State.modCore
  repeat' first
    | with_reducible assumption
    | with_reducible apply State.setCore_kept hP
theorem State.modCtx_kept {P : Property} (hP : Closed P) (s : State) (c : ℕ) (x : ℕ) (f : Ctx → Ctx) (h0 : Has P s) : Has P (State.modCtx s c x f) := by
  unfold State.modCtx
  repeat' first
    | with_reducible assumption
    | with_reducible apply State.setCtx_kept hP
theorem State.modCluster_kept {P : Property} (hP : Closed P) (s : State) (k : ℕ) (f : Cluster → Cluster) (h0 : Has P s) : Has P (State.modCluster s k f) := by
  unfold State.modCluster
  repeat' first
    | with_reducible assumption
    | with_reducible apply State.setCluster_kept hP
theorem State.setPart_kept {P : Property} (hP : Closed P) (s : State) (p : ℕ) (x : Part) (h0 : Has P s) : Has P (State.setPart s p x) := by
  unfold State.setPart
  repeat' first
    | with_reducible assumption
theorem State.setWindow_kept {P : Property} (hP : Closed P) (s : State) (n : ℕ) (x : Window) (h0 : Has P s) : Has P (State.setWindow s n x) := by
  unfold State.setWindow
  repeat' first
    | with_reducible assumption
theorem State.setLink_kept {P : Property} (hP : Closed P) (s : State) (n : ℕ) (x : Link) (h0 : Has P s) : Has P (State.setLink s n x) := by
  unfold State.setLink
  repeat' first
    | with_reducible assumption
theorem State.count_kept {P : Property} (hP : Closed P) (s : State) (k : ℕ) (h0 : Has P s) : Has P (State.count s k) := by
  unfold State.count
  repeat' first
    | with_reducible assumption
theorem State.newId_kept {P : Property} (hP : Closed P) (s : State) (h0 : Has P s) : Has P (State.newId s).2 := by
  unfold State.newId
  repeat' first
    | with_reducible assumption
theorem State.newId_kept_eq {P : Property} (hP : Closed P) {s : State} {t : State} {a : _} (e : (State.newId s) = (a, t)) (h0 : Has P s) : Has P t := by
  have := State.newId_kept hP s h0
  rwa [e] at this
theorem State.drawDelay_kept {P : Property} (hP : Closed P) (s : State) (h0 : Has P s) : Has P (State.drawDelay s).2 := by
  unfold State.drawDelay
  repeat' first
    | with_reducible assumption
theorem State.drawDelay_kept_eq {P : Property} (hP : Closed P) {s : State} {t : State} {a : _} (e : (State.drawDelay s) = (a, t)) (h0 : Has P s) : Has P t := by
  have := State.drawDelay_kept hP s h0
  rwa [e] at this
theorem State.schedule_kept {P : Property} (hP : Closed P) (s : State) (due : ℕ) (i : Instr) (h0 : Has P s) : Has P (State.schedule s due i) := by
  unfold State.schedule
  repeat' first
    | with_reducible assumption
theorem State.scheduleFree_kept {P : Property} (hP : Closed P) (s : State) (i : Instr) (h0 : Has P s) : Has P (State.scheduleFree s i) := by
  unfold State.scheduleFree
  repeat' first
    | with_reducible assumption
    | with_reducible apply State.schedule_kept hP
    | with_reducible apply State.drawDelay_kept hP
theorem State.watch_kept {P : Property} (hP : Closed P) (s : State) (c : ℕ) (since : ℕ) (i : Instr) (h0 : Has P s) : Has P (State.watch s c since i) := by
  unfold State.watch
  repeat' first
    | with_reducible assumption
    | with_reducible apply State.schedule_kept hP
    | split
    | (dsimp only)
theorem State.storeLine_kept {P : Property} (hP : Closed P) (s : State) (a : ℕ) (v : Line) (h0 : Has P s) : Has P (State.storeLine s a v) := by
  unfold State.storeLine
  repeat' first
    | with_reducible assumption
    | with_reducible apply hP.store
theorem State.storeWord_kept {P : Property} (hP : Closed P) (s : State) (a : ℕ) (v : Word) (h0 : Has P s) : Has P (State.storeWord s a v) := by
  unfold State.storeWord
  repeat' first
    | with_reducible assumption
    | with_reducible apply hP.store
theorem State.setMark_kept {P : Property} (hP : Closed P) (s : State) (a : ℕ) (m : Mark) (h0 : Has P s) : Has P (State.setMark s a m) := by
  unfold State.setMark
  repeat' first
    | with_reducible assumption
theorem State.writeFlat_kept {P : Property} (hP : Closed P) (s : State) (c : ℕ) (flat : ℕ) (v : Line) (h0 : Has P s) : Has P (State.writeFlat s c flat v) := by
  unfold State.writeFlat
  repeat' first
    | with_reducible assumption
    | with_reducible apply State.setMark_kept hP
    | with_reducible apply State.storeLine_kept hP
    | with_reducible apply State.modCore_kept hP
theorem State.writeFlatWord_kept {P : Property} (hP : Closed P) (s : State) (c : ℕ) (flat : ℕ) (w : ℕ) (v : Word) (h0 : Has P s) : Has P (State.writeFlatWord s c flat w v) := by
  unfold State.writeFlatWord
  repeat' first
    | with_reducible assumption
    | with_reducible apply State.setMark_kept hP
    | with_reducible apply State.storeWord_kept hP
    | with_reducible apply State.modCore_kept hP
theorem State.powerLayer_kept {P : Property} (hP : Closed P) (c : ℕ) (s : State) (layer : ℕ) (h1 : Has P s) : Has P (State.powerLayer c s layer) := by
  unfold State.powerLayer
  repeat' first
    | with_reducible assumption
    | with_reducible apply State.schedule_kept hP
    | split
theorem State.powerBanks_kept {P : Property} (hP : Closed P) (s : State) (c : ℕ) (banks : List ℕ) (h0 : Has P s) : Has P (State.powerBanks s c banks) := by
  unfold State.powerBanks
  repeat' first
    | with_reducible assumption
    | with_reducible apply State.powerLayer_kept hP
    | (with_reducible refine has_foldl _ (fun _ _ _ => ?_) _ _ ?_)
theorem State.writePriv_kept {P : Property} (hP : Closed P) (s : State) (c : ℕ) (n : ℕ) (v : Word) (h0 : Has P s) : Has P (State.writePriv s c n v) := by
  unfold State.writePriv
  repeat' first
    | with_reducible assumption
    | with_reducible apply State.powerBanks_kept hP
    | with_reducible apply State.setPart_kept hP
    | with_reducible apply State.modCore_kept hP
    | split
    | (dsimp only)
theorem State.land_kept {P : Property} (hP : Closed P) (s : State) (c : ℕ) (x : ℕ) (e : Pending) (h0 : Has P s) : Has P (State.land s c x e) := by
  unfold State.land
  repeat' first
    | with_reducible assumption
    | with_reducible apply State.writePriv_kept hP
    | with_reducible apply State.schedule_kept hP
    | with_reducible apply State.modCtx_kept hP
    | with_reducible apply State.modCore_kept hP
    | split
theorem landAll_kept {P : Property} (hP : Closed P) (c : ℕ) (x : ℕ) (a2 : List Pending) (a3 : State) (h3 : Has P a3) : Has P (landAll c x a2 a3) := by
  induction a2 generalizing a3
  case nil =>
    unfold landAll
    repeat' first
      | with_reducible assumption
  case cons _ _ ih =>
    unfold landAll
    repeat' first
      | with_reducible apply ih
      | with_reducible assumption
      | with_reducible apply State.land_kept hP
theorem State.consumeQueue_kept {P : Property} (hP : Closed P) (s : State) (c : ℕ) (x : ℕ) (loc : ℕ) (h0 : Has P s) : Has P (State.consumeQueue s c x loc) := by
  unfold State.consumeQueue
  repeat' first
    | with_reducible assumption
    | with_reducible apply State.modCtx_kept hP
    | with_reducible apply State.modCore_kept hP
    | split
theorem State.landDue_kept {P : Property} (hP : Closed P) (s : State) (c : ℕ) (x : ℕ) (h0 : Has P s) : Has P (State.landDue s c x) := by
  unfold State.landDue
  repeat' first
    | with_reducible assumption
    | with_reducible apply State.consumeQueue_kept hP
    | with_reducible apply landAll_kept hP
    | with_reducible apply State.modCtx_kept hP
    | split
theorem State.startRecord_kept {P : Property} (hP : Closed P) (s : State) (c : ℕ) (x : ℕ) (h0 : Has P s) : Has P (State.startRecord s c x) := by
  unfold State.startRecord
  repeat' first
    | with_reducible assumption
    | with_reducible apply State.schedule_kept hP
    | with_reducible apply State.modCtx_kept hP
    | with_reducible apply State.setCore_kept hP
theorem State.takeTrap_kept {P : Property} (hP : Closed P) (s : State) (c : ℕ) (x : ℕ) (t : TrapRecord) (h0 : Has P s) : Has P (State.takeTrap s c x t) := by
  unfold State.takeTrap
  repeat' first
    | with_reducible assumption
    | with_reducible apply State.startRecord_kept hP
    | with_reducible apply State.scheduleFree_kept hP
    | with_reducible apply State.modCtx_kept hP
    | split
    | (dsimp only)
theorem State.afterAnswer_kept {P : Property} (hP : Closed P) (s : State) (c : ℕ) (x : ℕ) (h0 : Has P s) : Has P (State.afterAnswer s c x) := by
  unfold State.afterAnswer
  repeat' first
    | with_reducible assumption
    | with_reducible apply State.startRecord_kept hP
    | split
theorem State.writeLines_kept {P : Property} (hP : Closed P) (c : ℕ) (flat : ℕ) (line : ℕ → Line) (a3 : ℕ) (a4 : ℕ) (a5 : State) (h5 : Has P a5) : Has P (State.writeLines c flat line a3 a4 a5) := by
  induction a3 generalizing a4 a5
  case zero =>
    unfold State.writeLines
    repeat' first
      | with_reducible assumption
  case succ _ ih =>
    unfold State.writeLines
    repeat' first
      | with_reducible apply ih
      | with_reducible assumption
      | with_reducible apply State.writeFlat_kept hP
theorem State.writeRecord_kept {P : Property} (hP : Closed P) (s : State) (c : ℕ) (x : ℕ) (t : TrapRecord) (h0 : Has P s) : Has P (State.writeRecord s c x t) := by
  unfold State.writeRecord
  repeat' first
    | with_reducible assumption
    | with_reducible apply State.writeLines_kept hP
theorem State.resume_kept {P : Property} (hP : Closed P) (s : State) (c : ℕ) (x : ℕ) (h0 : Has P s) : Has P (State.resume s c x) := by
  unfold State.resume
  repeat' first
    | with_reducible assumption
    | with_reducible apply State.schedule_kept hP
    | with_reducible apply State.setCore_kept hP
    | (with_reducible refine has_foldl _ (fun _ _ _ => ?_) _ _ ?_)
    | split
    | (dsimp only)
theorem State.firedRead_kept {P : Property} (hP : Closed P) (s : State) (c : ℕ) (flat : ℕ) (h0 : Has P s) : Has P (State.firedRead s c flat) := by
  unfold State.firedRead
  repeat' first
    | with_reducible assumption
    | with_reducible apply State.setMark_kept hP
    | with_reducible apply State.modCore_kept hP
    | split
theorem State.copyLines_kept {P : Property} (hP : Closed P) (c src dst n : ℕ) (s : State) (h : Has P s) : Has P (State.copyLines c src dst n s) := by
  induction n generalizing src dst s with
  | zero => exact h
  | succ n ih =>
    exact ih _ _ _ (State.setMark_kept hP _ _ _ (State.storeLine_kept hP _ _ _ (State.firedRead_kept hP _ _ _ h)))
theorem State.copyRow_kept {P : Property} (hP : Closed P) (s : State) (c : ℕ) (bank : ℕ) (src : ℕ) (dst : ℕ) (h0 : Has P s) : Has P (State.copyRow s c bank src dst) := by
  unfold State.copyRow
  repeat' first
    | with_reducible assumption
    | with_reducible apply State.copyLines_kept hP
theorem State.sendPacket_kept {P : Property} (hP : Closed P) (s : State) (n : ℕ) (p : Packet) (h0 : Has P s) : Has P (State.sendPacket s n p) := by
  unfold State.sendPacket
  repeat' first
    | with_reducible assumption
    | with_reducible apply State.setLink_kept hP
theorem State.firedFlit_kept {P : Property} (hP : Closed P) (s : State) (c : ℕ) (pa : ℕ) (h0 : Has P s) : Has P (State.firedFlit s c pa) := by
  unfold State.firedFlit
  repeat' first
    | with_reducible assumption
    | with_reducible apply State.schedule_kept hP
    | with_reducible apply State.count_kept hP
    | with_reducible apply State.setLink_kept hP
    | with_reducible apply State.modCore_kept hP
    | (with_reducible refine has_foldl _ (fun _ _ _ => ?_) _ _ ?_)
    | split
    | (dsimp only)
theorem State.sendRequest_kept {P : Property} (hP : Closed P) (s : State) (w : ℕ) (h0 : Has P s) : Has P (State.sendRequest s w) := by
  unfold State.sendRequest
  repeat' first
    | with_reducible assumption
    | with_reducible apply State.sendPacket_kept hP
    | split
theorem State.inflight_kept {P : Property} (hP : Closed P) (s : State) (pa : ℕ) (sent : Bool) (h0 : Has P s) : Has P (State.inflight s pa sent) := by
  unfold State.inflight
  repeat' first
    | with_reducible assumption
    | with_reducible apply State.sendRequest_kept hP
    | with_reducible apply State.setWindow_kept hP
    | split
theorem State.xlateNow_kept {P : Property} (hP : Closed P) (s : State) (cl : ℕ) (va : ℕ) (len : ℕ) (read : Bool) (write : Bool) (atomic : Bool) (h0 : Has P s) : Has P (State.xlateNow s cl va len read write atomic).2 := by
  unfold State.xlateNow
  repeat' first
    | with_reducible assumption
    | with_reducible apply State.modCluster_kept hP
    | split
    | (dsimp only)
theorem State.xlateNow_kept_eq {P : Property} (hP : Closed P) {s : State} {cl : ℕ} {va : ℕ} {len : ℕ} {read : Bool} {write : Bool} {atomic : Bool} {t : State} {a : _} (e : (State.xlateNow s cl va len read write atomic) = (a, t)) (h0 : Has P s) : Has P t := by
  have := State.xlateNow_kept hP s cl va len read write atomic h0
  rwa [e] at this
theorem State.performBytes_kept {P : Property} (hP : Closed P) (s : State) (pa : ℕ) (bs : List Byte) (h0 : Has P s) : Has P (State.performBytes s pa bs) := by
  unfold State.performBytes
  repeat' first
    | with_reducible assumption
    | with_reducible apply State.setMark_kept hP
    | with_reducible apply hP.write
    | split
    | (dsimp only)
theorem State.performAt_kept {P : Property} (hP : Closed P) (s : State) (pa : ℕ) (bs : List Byte) (h0 : Has P s) : Has P (State.performAt s pa bs) := by
  unfold State.performAt
  repeat' first
    | with_reducible assumption
    | with_reducible apply State.performBytes_kept hP
    | split
theorem State.setLaunch_kept {P : Property} (hP : Closed P) (s : State) (l : Launch) (h0 : Has P s) : Has P (State.setLaunch s l) := by
  unfold State.setLaunch
  repeat' first
    | with_reducible assumption
theorem State.writeLog_kept {P : Property} (hP : Closed P) (lidx : ℕ) (a1 : List ℕ) (a2 : State) (h2 : Has P a2) : Has P (State.writeLog lidx a1 a2) := by
  induction a1 generalizing a2
  case nil =>
    unfold State.writeLog
    repeat' first
      | with_reducible assumption
  case cons _ _ ih =>
    unfold State.writeLog
    repeat' first
      | with_reducible apply ih
      | with_reducible assumption
      | with_reducible apply State.setLaunch_kept hP
      | with_reducible apply State.performAt_kept hP
      | split
theorem State.logEvent_kept {P : Property} (hP : Closed P) (s : State) (lidx : ℕ) (recs : ℕ → List ℕ) (h0 : Has P s) : Has P (State.logEvent s lidx recs) := by
  unfold State.logEvent
  repeat' first
    | with_reducible assumption
    | with_reducible apply State.writeLog_kept hP
    | split
theorem State.setSyncWord_kept {P : Property} (hP : Closed P) (s : State) (c : ℕ) (slot : ℕ) (v : ℕ) (h0 : Has P s) : Has P (State.setSyncWord s c slot v) := by
  unfold State.setSyncWord
  repeat' first
    | with_reducible assumption
    | with_reducible apply State.setMark_kept hP
    | with_reducible apply State.modCore_kept hP
    | with_reducible apply hP.store
theorem State.advanceWord_kept {P : Property} (hP : Closed P) (s : State) (c : ℕ) (slot : ℕ) (v : ℕ) (h0 : Has P s) : Has P (State.advanceWord s c slot v) := by
  unfold State.advanceWord
  repeat' first
    | with_reducible assumption
    | with_reducible apply State.setSyncWord_kept hP
    | with_reducible apply State.modCore_kept hP
theorem State.tryAdvance_kept {P : Property} (hP : Closed P) (s : State) (c : ℕ) (slot : ℕ) (h0 : Has P s) : Has P (State.tryAdvance s c slot) := by
  unfold State.tryAdvance
  repeat' first
    | with_reducible assumption
    | with_reducible apply State.advanceWord_kept hP
    | with_reducible apply State.logEvent_kept hP
    | with_reducible apply State.setLaunch_kept hP
    | split
    | (dsimp only)
theorem State.replayAdvances_kept {P : Property} (hP : Closed P) (lidx : ℕ) (a1 : ℕ) (a2 : State) (h2 : Has P a2) : Has P (State.replayAdvances lidx a1 a2) := by
  induction a1 generalizing a2
  case zero =>
    unfold State.replayAdvances
    repeat' first
      | with_reducible assumption
  case succ _ ih =>
    unfold State.replayAdvances
    repeat' first
      | with_reducible apply ih
      | with_reducible assumption
      | with_reducible apply State.tryAdvance_kept hP
      | split
      | (dsimp only)
theorem State.replayed_kept {P : Property} (hP : Closed P) (s : State) (lidx : ℕ) (n : ℕ) (h0 : Has P s) : Has P (State.replayed s lidx n) := by
  unfold State.replayed
  repeat' first
    | with_reducible assumption
    | with_reducible apply State.replayAdvances_kept hP
    | with_reducible apply State.setLaunch_kept hP
    | split
theorem State.advances_kept {P : Property} (hP : Closed P) (s : State) (c : ℕ) (slot : ℕ) (h0 : Has P s) : Has P (State.advances s c slot) := by
  unfold State.advances
  repeat' first
    | with_reducible assumption
    | with_reducible apply State.replayAdvances_kept hP
    | with_reducible apply State.tryAdvance_kept hP
    | split
    | (dsimp only)
theorem State.credit_kept {P : Property} (hP : Closed P) (s : State) (c : ℕ) (slot : ℕ) (n : ℕ) (status : BitVec 8) (poisoned : Bool) (h0 : Has P s) : Has P (State.credit s c slot n status poisoned) := by
  unfold State.credit
  repeat' first
    | with_reducible assumption
    | with_reducible apply State.advances_kept hP
    | with_reducible apply State.setSyncWord_kept hP
theorem State.post_kept {P : Property} (hP : Closed P) (s : State) (c : ℕ) (slot : ℕ) (target : ℕ) (h0 : Has P s) : Has P (State.post s c slot target) := by
  unfold State.post
  repeat' first
    | with_reducible assumption
    | with_reducible apply State.advances_kept hP
    | with_reducible apply State.setSyncWord_kept hP
theorem State.modAccess_kept {P : Property} (hP : Closed P) (s : State) (c : ℕ) (x : ℕ) (num : ℕ) (f : Access → Access) (h0 : Has P s) : Has P (State.modAccess s c x num f) := by
  unfold State.modAccess
  repeat' first
    | with_reducible assumption
    | with_reducible apply State.modCtx_kept hP
theorem State.wake_kept {P : Property} (hP : Closed P) (s : State) (c : ℕ) (h0 : Has P s) : Has P (State.wake s c) := by
  unfold State.wake
  repeat' first
    | with_reducible assumption
    | with_reducible apply State.schedule_kept hP
    | split
    | (dsimp only)
theorem State.retryRelease_kept {P : Property} (hP : Closed P) (s : State) (c : ℕ) (h0 : Has P s) : Has P (State.retryRelease s c) := by
  unfold State.retryRelease
  repeat' first
    | with_reducible assumption
    | with_reducible apply State.schedule_kept hP
    | (with_reducible refine has_foldl _ (fun _ _ _ => ?_) _ _ ?_)
    | split
theorem State.settleRewind_kept {P : Property} (hP : Closed P) (s : State) (c : ℕ) (x : ℕ) (h0 : Has P s) : Has P (State.settleRewind s c x) := by
  unfold State.settleRewind
  repeat' first
    | with_reducible assumption
    | with_reducible apply State.schedule_kept hP
    | with_reducible apply State.modCtx_kept hP
    | split
    | (dsimp only)
theorem State.completeId_kept {P : Property} (hP : Closed P) (s : State) (c : ℕ) (x : ℕ) (id : ℕ) (status : BitVec 8) (addr : ℕ) (h0 : Has P s) : Has P (State.completeId s c x id status addr) := by
  unfold State.completeId
  repeat' first
    | with_reducible assumption
    | with_reducible apply State.settleRewind_kept hP
    | with_reducible apply State.wake_kept hP
    | with_reducible apply State.setCore_kept hP
theorem State.complete_kept {P : Property} (hP : Closed P) (s : State) (c : ℕ) (cmd : Cmd) (status : BitVec 8) (addr : ℕ) (h0 : Has P s) : Has P (State.complete s c cmd status addr) := by
  unfold State.complete
  repeat' first
    | with_reducible assumption
    | with_reducible apply State.completeId_kept hP
    | with_reducible apply State.modCore_kept hP
theorem State.completePartner_kept {P : Property} (hP : Closed P) (cl : ℕ) (launch : ℕ) (s : State) (pos : ℕ) (h2 : Has P s) : Has P (State.completePartner cl launch s pos) := by
  unfold State.completePartner
  repeat' first
    | with_reducible assumption
    | with_reducible apply State.modCtx_kept hP
    | split
theorem State.tryRendezvous_kept {P : Property} (hP : Closed P) (s : State) (c : ℕ) (x : ℕ) (h0 : Has P s) : Has P (State.tryRendezvous s c x) := by
  unfold State.tryRendezvous
  repeat' first
    | with_reducible assumption
    | with_reducible apply State.completePartner_kept hP
    | (with_reducible refine has_foldl _ (fun _ _ _ => ?_) _ _ ?_)
    | split
    | (dsimp only)
theorem State.startWrite_kept {P : Property} (hP : Closed P) (s : State) (c : ℕ) (x : ℕ) (acc : ℕ) (unit : ℕ) (pa : ℕ) (bs : List Byte) (h0 : Has P s) : Has P (State.startWrite s c x acc unit pa bs) := by
  unfold State.startWrite
  repeat' first
    | with_reducible assumption
    | with_reducible apply State.inflight_kept hP
    | with_reducible apply State.scheduleFree_kept hP
    | with_reducible apply State.newId_kept hP
    | (refine State.newId_kept_eq hP (by with_reducible assumption) ?_)
    | split
    | (dsimp only)
    | (show P _ _ _ _ _; dsimp only)
theorem State.afterAccess_kept {P : Property} (hP : Closed P) (s : State) (c : ℕ) (x : ℕ) (h0 : Has P s) : Has P (State.afterAccess s c x) := by
  unfold State.afterAccess
  repeat' first
    | with_reducible assumption
    | with_reducible apply State.tryRendezvous_kept hP
    | with_reducible apply State.settleRewind_kept hP
    | with_reducible apply State.retryRelease_kept hP
    | with_reducible apply State.wake_kept hP
    | with_reducible apply State.modCtx_kept hP
    | with_reducible apply State.modCore_kept hP
theorem State.dropAccess_kept {P : Property} (hP : Closed P) (s : State) (c : ℕ) (x : ℕ) (num : ℕ) (status : BitVec 8) (addr : ℕ) (h0 : Has P s) : Has P (State.dropAccess s c x num status addr) := by
  unfold State.dropAccess
  repeat' first
    | with_reducible assumption
    | with_reducible apply State.afterAccess_kept hP
    | with_reducible apply State.modCtx_kept hP
    | with_reducible apply State.modCore_kept hP
theorem State.beginAccess_kept {P : Property} (hP : Closed P) (s : State) (c : ℕ) (x : ℕ) (a : Access) (h0 : Has P s) : Has P (State.beginAccess s c x a) := by
  unfold State.beginAccess
  repeat' first
    | with_reducible assumption
    | with_reducible apply State.dropAccess_kept hP
    | with_reducible apply State.startWrite_kept hP
    | with_reducible apply State.modAccess_kept hP
    | with_reducible apply State.inflight_kept hP
    | with_reducible apply State.scheduleFree_kept hP
    | with_reducible apply State.schedule_kept hP
    | split
theorem State.pumpRounds_kept {P : Property} (hP : Closed P) (c : ℕ) (x : ℕ) (a2 : ℕ) (a3 : State) (h3 : Has P a3) : Has P (State.pumpRounds c x a2 a3) := by
  induction a2 generalizing a3
  case zero =>
    unfold State.pumpRounds
    repeat' first
      | with_reducible assumption
  case succ _ ih =>
    unfold State.pumpRounds
    repeat' first
      | with_reducible apply ih
      | with_reducible assumption
      | with_reducible apply State.beginAccess_kept hP
      | (with_reducible refine has_foldl _ (fun _ _ _ => ?_) _ _ ?_)
      | split
theorem State.pump_kept {P : Property} (hP : Closed P) (s : State) (c : ℕ) (x : ℕ) (h0 : Has P s) : Has P (State.pump s c x) := by
  unfold State.pump
  repeat' first
    | with_reducible assumption
    | with_reducible apply State.pumpRounds_kept hP
theorem State.finishAccess_kept {P : Property} (hP : Closed P) (s : State) (c : ℕ) (x : ℕ) (num : ℕ) (status : BitVec 8) (addr : ℕ) (h0 : Has P s) : Has P (State.finishAccess s c x num status addr) := by
  unfold State.finishAccess
  repeat' first
    | with_reducible assumption
    | with_reducible apply State.pump_kept hP
    | with_reducible apply State.dropAccess_kept hP
theorem State.ackAccess_kept {P : Property} (hP : Closed P) (s : State) (c : ℕ) (x : ℕ) (num : ℕ) (p : Scope) (h0 : Has P s) : Has P (State.ackAccess s c x num p) := by
  unfold State.ackAccess
  repeat' first
    | with_reducible assumption
    | with_reducible apply State.finishAccess_kept hP
    | with_reducible apply State.pump_kept hP
    | with_reducible apply State.afterAccess_kept hP
    | with_reducible apply State.modAccess_kept hP
    | split
theorem State.performedTo_kept {P : Property} (hP : Closed P) (s : State) (c : ℕ) (x : ℕ) (num : ℕ) (p : Scope) (h0 : Has P s) : Has P (State.performedTo s c x num p) := by
  unfold State.performedTo
  repeat' first
    | with_reducible assumption
    | with_reducible apply State.pump_kept hP
    | with_reducible apply State.afterAccess_kept hP
    | with_reducible apply State.modAccess_kept hP
    | split
theorem State.grow_kept {P : Property} (hP : Closed P) (s : State) (launch : ℕ) (v : Word) (h0 : Has P s) : Has P (State.grow s launch v) := by
  unfold State.grow
  repeat' first
    | with_reducible assumption
    | with_reducible apply State.setLaunch_kept hP
    | split
theorem State.enterEntry_kept {P : Property} (hP : Closed P) (s : State) (c : ℕ) (x : ℕ) (h : Held) (h0 : Has P s) : ∀ t, (State.enterEntry s c x h) = some t → Has P t := by
  unfold State.enterEntry
  repeat' first
    | (intro _ e; cases e)
    | with_reducible assumption
    | with_reducible apply State.grow_kept hP
    | with_reducible apply State.schedule_kept hP
    | with_reducible apply State.modCtx_kept hP
    | with_reducible apply State.modCore_kept hP
    | split
    | (dsimp only)
theorem State.enterEntry_kept_eq {P : Property} (hP : Closed P) {s : State} {c : ℕ} {x : ℕ} {h : Held} {t : State} (e : (State.enterEntry s c x h) = some t) (h0 : Has P s) : Has P t := State.enterEntry_kept hP s c x h h0 _ e
theorem State.enterAll_kept {P : Property} (hP : Closed P) (c x : ℕ) (l : List Held) (s : State) (h : Has P s) : Has P (State.enterAll c x l s) := by
  induction l generalizing s with
  | nil => exact State.modCtx_kept hP _ _ _ _ h
  | cons e l ih =>
    unfold State.enterAll
    split
    · next s1 e1 => exact ih _ (State.enterEntry_kept hP _ _ _ _ h _ e1)
    · exact State.modCtx_kept hP _ _ _ _ h
theorem State.drainRelease_kept {P : Property} (hP : Closed P) (s : State) (c : ℕ) (x : ℕ) (h0 : Has P s) : Has P (State.drainRelease s c x) := by
  unfold State.drainRelease
  repeat' first
    | with_reducible assumption
    | with_reducible apply State.enterAll_kept hP
    | with_reducible apply State.pump_kept hP
    | with_reducible apply State.modCtx_kept hP
theorem State.release_kept {P : Property} (hP : Closed P) (s : State) (c : ℕ) (x : ℕ) (h0 : Has P s) : Has P (State.release s c x) := by
  unfold State.release
  repeat' first
    | with_reducible assumption
    | with_reducible apply State.drainRelease_kept hP
    | with_reducible apply State.modCtx_kept hP
theorem State.openSegment_kept {P : Property} (hP : Closed P) (s : State) (c : ℕ) (x : ℕ) (id : ℕ) (h0 : Has P s) : Has P (State.openSegment s c x id) := by
  unfold State.openSegment
  repeat' first
    | with_reducible assumption
    | with_reducible apply State.modCore_kept hP
theorem State.logChunk_kept {P : Property} (hP : Closed P) (s : State) (c : ℕ) (x : ℕ) (bundles : ℕ) (h0 : Has P s) : Has P (State.logChunk s c x bundles) := by
  unfold State.logChunk
  repeat' first
    | with_reducible assumption
    | with_reducible apply State.replayed_kept hP
    | with_reducible apply State.logEvent_kept hP
    | with_reducible apply State.modCtx_kept hP
    | split
    | (dsimp only)
theorem State.boundary_kept {P : Property} (hP : Closed P) (s : State) (c : ℕ) (x : ℕ) (id : ℕ) (h0 : Has P s) : Has P (State.boundary s c x id) := by
  unfold State.boundary
  repeat' first
    | with_reducible assumption
    | with_reducible apply State.logChunk_kept hP
    | with_reducible apply State.openSegment_kept hP
    | with_reducible apply State.release_kept hP
theorem State.flushKnots_kept {P : Property} (hP : Closed P) (s : State) (c : ℕ) (x : ℕ) (h0 : Has P s) : Has P (State.flushKnots s c x) := by
  unfold State.flushKnots
  repeat' first
    | with_reducible assumption
    | with_reducible apply State.modCtx_kept hP
    | with_reducible apply State.modCore_kept hP
theorem State.rewindKnots_kept {P : Property} (hP : Closed P) (s : State) (c : ℕ) (x : ℕ) (h0 : Has P s) : Has P (State.rewindKnots s c x) := by
  unfold State.rewindKnots
  repeat' first
    | with_reducible assumption
    | with_reducible apply State.flushKnots_kept hP
    | with_reducible apply State.modCtx_kept hP
    | with_reducible apply State.modCore_kept hP
theorem State.cancelHeld_kept {P : Property} (hP : Closed P) (s : State) (c : ℕ) (x : ℕ) (h0 : Has P s) : Has P (State.cancelHeld s c x) := by
  unfold State.cancelHeld
  repeat' first
    | with_reducible assumption
    | with_reducible apply State.modCore_kept hP
theorem State.abandonHeld_kept {P : Property} (hP : Closed P) (s : State) (c : ℕ) (x : ℕ) (h0 : Has P s) : Has P (State.abandonHeld s c x) := by
  unfold State.abandonHeld
  repeat' first
    | with_reducible assumption
    | with_reducible apply State.cancelHeld_kept hP
    | split
theorem State.startRewind_kept {P : Property} (hP : Closed P) (s : State) (c : ℕ) (x : ℕ) (fresh : Bool) (h0 : Has P s) : Has P (State.startRewind s c x fresh) := by
  unfold State.startRewind
  repeat' first
    | with_reducible assumption
    | with_reducible apply State.cancelHeld_kept hP
    | with_reducible apply State.settleRewind_kept hP
    | with_reducible apply State.modCtx_kept hP
theorem State.finishRewind_kept {P : Property} (hP : Closed P) (s0 : State) (c : ℕ) (x : ℕ) (h0 : Has P s0) : Has P (State.finishRewind s0 c x) := by
  unfold State.finishRewind
  repeat' first
    | with_reducible assumption
    | with_reducible apply State.rewindKnots_kept hP
    | with_reducible apply State.schedule_kept hP
    | with_reducible apply State.modCluster_kept hP
    | with_reducible apply State.setCore_kept hP
    | (with_reducible refine has_foldl _ (fun _ _ _ => ?_) _ _ ?_)
    | split
    | (dsimp only)
theorem State.modFifo_kept {P : Property} (hP : Closed P) (s : State) (cl : ℕ) (n : ℕ) (f : Fifo → Fifo) (h0 : Has P s) : Has P (State.modFifo s cl n f) := by
  unfold State.modFifo
  repeat' first
    | with_reducible assumption
    | with_reducible apply State.modCluster_kept hP
theorem State.popFifo_kept {P : Property} (hP : Closed P) (s : State) (cl : ℕ) (n : ℕ) (rest : List Line) (h0 : Has P s) : Has P (State.popFifo s cl n rest) := by
  unfold State.popFifo
  repeat' first
    | with_reducible assumption
    | with_reducible apply State.modFifo_kept hP
    | with_reducible apply State.schedule_kept hP
    | (with_reducible refine has_foldl _ (fun _ _ _ => ?_) _ _ ?_)
    | split
theorem State.pushFifo_kept {P : Property} (hP : Closed P) (s : State) (cl : ℕ) (n : ℕ) (by_ : ℕ × ℕ) (v : Line) (h0 : Has P s) : Has P (State.pushFifo s cl n by_ v) := by
  unfold State.pushFifo
  repeat' first
    | with_reducible assumption
    | with_reducible apply State.modFifo_kept hP
    | with_reducible apply State.schedule_kept hP
    | (with_reducible refine has_foldl _ (fun _ _ _ => ?_) _ _ ?_)
    | split
theorem State.issueCommand_kept {P : Property} (hP : Closed P) (s : State) (c : ℕ) (x : ℕ) (e : Engine) (cmd0 : Cmd) (h0 : Has P s) : Has P (State.issueCommand s c x e cmd0) := by
  unfold State.issueCommand
  repeat' first
    | with_reducible assumption
    | with_reducible apply State.schedule_kept hP
    | with_reducible apply State.newId_kept hP
    | (refine State.newId_kept_eq hP (by with_reducible assumption) ?_)
    | with_reducible apply State.modCtx_kept hP
    | with_reducible apply State.modCore_kept hP
    | with_reducible apply State.setCtx_kept hP
    | split
theorem State.occupy_kept {P : Property} (hP : Closed P) (s : State) (c : ℕ) (flat : ℕ) (h0 : Has P s) : Has P (State.occupy s c flat) := by
  unfold State.occupy
  repeat' first
    | with_reducible assumption
    | with_reducible apply State.modCore_kept hP
theorem State.countMet_kept {P : Property} (hP : Closed P) (s : State) (c : ℕ) (m : Mark) (h0 : Has P s) : Has P (State.countMet s c m) := by
  unfold State.countMet
  repeat' first
    | with_reducible assumption
    | with_reducible apply State.modCore_kept hP
    | split
theorem State.engineRead_kept {P : Property} (hP : Closed P) (s : State) (c : ℕ) (flat : ℕ) (h0 : Has P s) : Has P (State.engineRead s c flat).2.2 := by
  unfold State.engineRead
  repeat' first
    | with_reducible assumption
    | with_reducible apply State.countMet_kept hP
    | with_reducible apply State.occupy_kept hP
    | with_reducible apply State.firedRead_kept hP
theorem State.engineRead_kept_eq {P : Property} (hP : Closed P) {s : State} {c : ℕ} {flat : ℕ} {t : State} {a : _} {b : _} (e : (State.engineRead s c flat) = (a, b, t)) (h0 : Has P s) : Has P t := by
  have := State.engineRead_kept hP s c flat h0
  rwa [e] at this
theorem State.engineDone_kept {P : Property} (hP : Closed P) (s : State) (c : ℕ) (x : ℕ) (flg : BitVec 5) (escapes : ℕ) (inSeg : Bool) (h0 : Has P s) : Has P (State.engineDone s c x flg escapes inSeg) := by
  unfold State.engineDone
  repeat' first
    | with_reducible assumption
    | with_reducible apply State.modCtx_kept hP
    | split
theorem State.chainEffect_kept {P : Property} (hP : Closed P) (s : State) (c : ℕ) (x : ℕ) (cmd : Cmd) (h0 : Has P s) : Has P (State.chainEffect s c x cmd) := by
  unfold State.chainEffect
  repeat' first
    | with_reducible assumption
    | with_reducible apply State.modFifo_kept hP
    | split
theorem State.globalSide_kept {P : Property} (hP : Closed P) (s : State) (c : ℕ) (x : ℕ) (kind : ℕ) (va : ℕ) (len : ℕ) (read : Bool) (write : Bool) (atomic : Bool) (h0 : Has P s) : Has P (State.globalSide s c x kind va len read write atomic).2 := by
  unfold State.globalSide
  repeat' first
    | with_reducible assumption
    | with_reducible apply State.xlateNow_kept hP
    | (refine State.xlateNow_kept_eq hP (by with_reducible assumption) ?_)
    | split
theorem State.globalSide_kept_eq {P : Property} (hP : Closed P) {s : State} {c : ℕ} {x : ℕ} {kind : ℕ} {va : ℕ} {len : ℕ} {read : Bool} {write : Bool} {atomic : Bool} {t : State} {a : _} (e : (State.globalSide s c x kind va len read write atomic) = (a, t)) (h0 : Has P s) : Has P t := by
  have := State.globalSide_kept hP s c x kind va len read write atomic h0
  rwa [e] at this
theorem State.sideOf_kept {P : Property} (hP : Closed P) (s : State) (c : ℕ) (x : ℕ) (d : Descr) (lines : ℕ) (j : ℕ) (i : ℕ) (write : Bool) (h0 : Has P s) : Has P (State.sideOf s c x d lines j i write).2 := by
  unfold State.sideOf
  repeat' first
    | with_reducible assumption
    | with_reducible apply State.globalSide_kept hP
    | (refine State.globalSide_kept_eq hP (by with_reducible assumption) ?_)
    | split
theorem State.sideOf_kept_eq {P : Property} (hP : Closed P) {s : State} {c : ℕ} {x : ℕ} {d : Descr} {lines : ℕ} {j : ℕ} {i : ℕ} {write : Bool} {t : State} {a : _} (e : (State.sideOf s c x d lines j i write) = (a, t)) (h0 : Has P s) : Has P t := by
  have := State.sideOf_kept hP s c x d lines j i write h0
  rwa [e] at this
theorem State.readSide_kept {P : Property} (hP : Closed P) (s : State) (c : ℕ) (cmd : Cmd) (n : ℕ) (h0 : Has P s) : Has P (State.readSide s c cmd n).2 := by
  unfold State.readSide
  repeat' first
    | with_reducible assumption
    | with_reducible apply State.sideOf_kept hP
    | (refine State.sideOf_kept_eq hP (by with_reducible assumption) ?_)
    | split
theorem State.readSide_kept_eq {P : Property} (hP : Closed P) {s : State} {c : ℕ} {cmd : Cmd} {n : ℕ} {t : State} {a : _} (e : (State.readSide s c cmd n) = (a, t)) (h0 : Has P s) : Has P t := by
  have := State.readSide_kept hP s c cmd n h0
  rwa [e] at this
theorem State.writeSide_kept {P : Property} (hP : Closed P) (s : State) (c : ℕ) (cmd : Cmd) (n : ℕ) (h0 : Has P s) : Has P (State.writeSide s c cmd n).2 := by
  unfold State.writeSide
  repeat' first
    | with_reducible assumption
    | with_reducible apply State.sideOf_kept hP
theorem State.writeSide_kept_eq {P : Property} (hP : Closed P) {s : State} {c : ℕ} {cmd : Cmd} {n : ℕ} {t : State} {a : _} (e : (State.writeSide s c cmd n) = (a, t)) (h0 : Has P s) : Has P t := by
  have := State.writeSide_kept hP s c cmd n h0
  rwa [e] at this
theorem State.setChan_kept {P : Property} (hP : Closed P) (s : State) (c : ℕ) (ch : ℕ) (h : Channel) (h0 : Has P s) : Has P (State.setChan s c ch h) := by
  unfold State.setChan
  repeat' first
    | with_reducible assumption
    | with_reducible apply State.modCore_kept hP
theorem State.takeChannels_kept {P : Property} (hP : Closed P) (c : ℕ) (a1 : List Cmd) (a2 : State) (h2 : Has P a2) : Has P (State.takeChannels c a1 a2) := by
  induction a1 generalizing a2
  case nil =>
    unfold State.takeChannels
    repeat' first
      | with_reducible assumption
      | with_reducible apply State.setChan_kept hP
      | with_reducible apply State.modCore_kept hP
  case cons _ _ ih =>
    unfold State.takeChannels
    repeat' first
      | with_reducible apply ih
      | with_reducible assumption
      | with_reducible apply State.setChan_kept hP
      | with_reducible apply State.modCore_kept hP
      | split
theorem State.startChannel_kept {P : Property} (hP : Closed P) (s : State) (c : ℕ) (ch : ℕ) (h0 : Has P s) : Has P (State.startChannel s c ch) := by
  unfold State.startChannel
  repeat' first
    | with_reducible assumption
    | with_reducible apply State.setChan_kept hP
    | with_reducible apply State.schedule_kept hP
    | split
    | (dsimp only)
theorem execCopyCommandStart_kept {P : Property} (hP : Closed P) (core : ℕ) (s : State) (h1 : Has P s) : ResHas P (execCopyCommandStart core s) := by
  unfold execCopyCommandStart
  repeat' first
    | with_reducible apply resHas_onCtx
    | with_reducible apply resHas_onCore
    | with_reducible apply resHas_onLayer
    | with_reducible apply resHas_next
    | exact trivial
    | with_reducible assumption
    | with_reducible apply State.startChannel_kept hP
    | with_reducible apply State.takeChannels_kept hP
    | with_reducible apply State.retryRelease_kept hP
    | (with_reducible refine has_foldl _ (fun _ _ _ => ?_) _ _ ?_)
    | split
theorem State.fixFetch_kept {P : Property} (hP : Closed P) (s : State) (c : ℕ) (h : Channel) (f : Fetch) (pa : ℕ) (h0 : Has P s) :
    Has P (s.fixFetch c h f pa).2 := by
  rw [State.fixFetch]
  cases placeOf pa with
  | scratch d =>
    dsimp only
    generalize (s.core d).accessStatus 6 (s.actsFor c h.cmd.ctx) ((flatOf pa : ℕ) : ℤ) = st
    have h1 := State.engineRead_kept hP s d (flatOf pa) h0
    generalize s.engineRead d (flatOf pa) = q at *
    by_cases hst : st ≠ 0
    · rw [if_pos hst]
      exact h0
    · rw [if_neg hst]
      by_cases hl : (s.core d).lineFree (flatOf pa) s.cyc = true
      · rw [if_pos hl]
        exact h1
      · rw [if_neg hl]
        exact h0
  | _ => exact h0
theorem State.fixFetch_kept_eq {P : Property} (hP : Closed P) {s : State} {c : ℕ} {h : Channel} {f : Fetch} {pa : ℕ} {t : State}
    {a : _} (e : s.fixFetch c h f pa = (a, t)) (h0 : Has P s) : Has P t := by
  have := State.fixFetch_kept hP s c h f pa h0
  rwa [e] at this
theorem State.takeRead_kept {P : Property} (hP : Closed P) (s : State) (c : ℕ) (ch : ℕ) (h : Channel) (e : Fetch) (es : List Fetch) (h0 : Has P s) : Has P (State.takeRead s c ch h e es) := by
  unfold State.takeRead
  repeat' first
    | with_reducible assumption
    | with_reducible apply State.setChan_kept hP
    | with_reducible apply State.inflight_kept hP
    | split
theorem State.deferRead_kept {P : Property} (hP : Closed P) (s : State) (c : ℕ) (ch : ℕ) (h : Channel) (e : Fetch) (es : List Fetch) (h0 : Has P s) : Has P (State.deferRead s c ch h e es) := by
  unfold State.deferRead
  repeat' first
    | with_reducible assumption
    | with_reducible apply State.setChan_kept hP
    | with_reducible apply State.schedule_kept hP
theorem State.takeReads_kept {P : Property} (hP : Closed P) (c : ℕ) (ch : ℕ) (a2 : ℕ) (a3 : State) (h3 : Has P a3) : Has P (State.takeReads c ch a2 a3) := by
  induction a2 generalizing a3
  case zero =>
    unfold State.takeReads
    repeat' first
      | with_reducible assumption
  case succ _ ih =>
    unfold State.takeReads
    repeat' first
      | with_reducible apply ih
      | with_reducible assumption
      | with_reducible apply State.deferRead_kept hP
      | with_reducible apply State.takeRead_kept hP
      | with_reducible apply State.fixFetch_kept hP
      | (refine State.fixFetch_kept_eq hP (by with_reducible assumption) ?_)
      | with_reducible apply State.setChan_kept hP
      | with_reducible apply State.drawDelay_kept hP
      | (refine State.drawDelay_kept_eq hP (by with_reducible assumption) ?_)
      | split
theorem State.fetchFrom_kept {P : Property} (hP : Closed P) (s : State) (c : ℕ) (ch : ℕ) (h : Channel) (pa : ℕ) (addr : ℕ) (h0 : Has P s) : Has P (State.fetchFrom s c ch h pa addr) := by
  unfold State.fetchFrom
  repeat' first
    | with_reducible assumption
    | with_reducible apply State.setChan_kept hP
    | with_reducible apply State.inflight_kept hP
    | with_reducible apply State.firedFlit_kept hP
    | with_reducible apply State.schedule_kept hP
    | with_reducible apply State.drawDelay_kept hP
theorem State.beginRead_kept {P : Property} (hP : Closed P) (s : State) (c : ℕ) (ch : ℕ) (h0 : Has P s) : Has P (State.beginRead s c ch) := by
  unfold State.beginRead
  repeat' first
    | with_reducible assumption
    | with_reducible apply State.fetchFrom_kept hP
    | with_reducible apply State.setChan_kept hP
    | with_reducible apply State.readSide_kept hP
    | (refine State.readSide_kept_eq hP (by with_reducible assumption) ?_)
    | with_reducible apply State.engineRead_kept hP
    | (refine State.engineRead_kept_eq hP (by with_reducible assumption) ?_)
    | with_reducible apply State.schedule_kept hP
    | split
theorem State.sendWrite_kept {P : Property} (hP : Closed P) (s : State) (c : ℕ) (ch : ℕ) (h : Channel) (o : OutLine) (os : List OutLine) (pa : ℕ) (line : Option (ℕ × ℕ)) (h0 : Has P s) : Has P (State.sendWrite s c ch h o os pa line) := by
  unfold State.sendWrite
  repeat' first
    | with_reducible assumption
    | with_reducible apply State.setChan_kept hP
    | with_reducible apply State.startWrite_kept hP
    | with_reducible apply State.firedFlit_kept hP
theorem State.writeTo_kept {P : Property} (hP : Closed P) (s : State) (c : ℕ) (ch : ℕ) (h : Channel) (o : OutLine) (os : List OutLine) (side : Side) (h0 : Has P s) : Has P (State.writeTo s c ch h o os side) := by
  unfold State.writeTo
  repeat' first
    | with_reducible assumption
    | with_reducible apply State.sendWrite_kept hP
    | with_reducible apply State.setChan_kept hP
    | with_reducible apply State.occupy_kept hP
    | with_reducible apply State.schedule_kept hP
    | split
theorem State.beginWrite_kept {P : Property} (hP : Closed P) (s : State) (c : ℕ) (ch : ℕ) (h0 : Has P s) : Has P (State.beginWrite s c ch) := by
  unfold State.beginWrite
  repeat' first
    | with_reducible assumption
    | with_reducible apply State.writeTo_kept hP
    | with_reducible apply State.writeSide_kept hP
    | (refine State.writeSide_kept_eq hP (by with_reducible assumption) ?_)
    | split
theorem State.channelGoesOn_kept {P : Property} (hP : Closed P) (s : State) (c : ℕ) (ch : ℕ) (h0 : Has P s) : Has P (State.channelGoesOn s c ch) := by
  unfold State.channelGoesOn
  repeat' first
    | with_reducible assumption
    | with_reducible apply State.schedule_kept hP
    | split
theorem State.readsReturned_kept {P : Property} (hP : Closed P) (s : State) (c : ℕ) (x : ℕ) (num : ℕ) (h0 : Has P s) : Has P (State.readsReturned s c x num) := by
  unfold State.readsReturned
  repeat' first
    | with_reducible assumption
    | with_reducible apply State.pump_kept hP
    | with_reducible apply State.afterAccess_kept hP
    | with_reducible apply State.modAccess_kept hP
    | split
theorem State.noteReads_kept {P : Property} (hP : Closed P) (s : State) (c : ℕ) (ch : ℕ) (h0 : Has P s) : Has P (State.noteReads s c ch) := by
  unfold State.noteReads
  repeat' first
    | with_reducible assumption
    | with_reducible apply State.readsReturned_kept hP
    | split
theorem State.notePerformed_kept {P : Property} (hP : Closed P) (s : State) (c : ℕ) (ch : ℕ) (h0 : Has P s) : Has P (State.notePerformed s c ch) := by
  unfold State.notePerformed
  repeat' first
    | with_reducible assumption
    | with_reducible apply State.performedTo_kept hP
    | split
theorem execCopyUnitRead_kept {P : Property} (hP : Closed P) (core : ℕ) (chan : ℕ) (s : State) (h2 : Has P s) : ResHas P (execCopyUnitRead core chan s) := by
  unfold execCopyUnitRead
  repeat' first
    | with_reducible apply resHas_onCtx
    | with_reducible apply resHas_onCore
    | with_reducible apply resHas_onLayer
    | with_reducible apply resHas_next
    | exact trivial
    | with_reducible assumption
    | with_reducible apply State.notePerformed_kept hP
    | with_reducible apply State.noteReads_kept hP
    | with_reducible apply State.channelGoesOn_kept hP
    | with_reducible apply State.beginWrite_kept hP
    | with_reducible apply State.beginRead_kept hP
    | with_reducible apply State.takeReads_kept hP
    | split
theorem State.lineDone_kept {P : Property} (hP : Closed P) (s : State) (c : ℕ) (ch : ℕ) (h : Channel) (idx : ℕ) (h0 : Has P s) : Has P (State.lineDone s c ch h idx) := by
  unfold State.lineDone
  repeat' first
    | with_reducible assumption
    | with_reducible apply State.setChan_kept hP
    | with_reducible apply State.credit_kept hP
    | split
    | (dsimp only)
theorem State.performLocal_kept {P : Property} (hP : Closed P) (s : State) (c ch : ℕ) (h : Channel) (w : Writing)
    (flat : ℕ) (h0 : Has P s) : Has P (State.performLocal s c ch h w flat) := by
  rw [State.performLocal]
  generalize (s.core c).accessStatus 6 (s.actsFor c h.cmd.ctx) (flat : ℤ) = st
  by_cases hst : st ≠ 0
  · simp only [if_pos hst]
    exact State.setChan_kept hP _ _ _ _ h0
  · simp only [if_neg hst]
    cases hw : w.out.word with
    | some p => exact State.setChan_kept hP _ _ _ _ (State.writeFlatWord_kept hP _ _ _ _ _ h0)
    | none =>
      apply State.lineDone_kept hP
      split
      · exact State.setMark_kept hP _ _ _ (State.writeFlat_kept hP _ _ _ _ h0)
      · exact State.writeFlat_kept hP _ _ _ _ h0
theorem State.refused_kept {P : Property} (hP : Closed P) (s : State) (c : ℕ) (ch : ℕ) (h : Channel) (w : Writing) (st : BitVec 8) (flat : ℕ) (h0 : Has P s) : Has P (State.refused s c ch h w st flat) := by
  unfold State.refused
  repeat' first
    | with_reducible assumption
    | with_reducible apply State.setChan_kept hP
theorem execCopyUnitWritePerformed_kept {P : Property} (hP : Closed P) (core : ℕ) (chan : ℕ) (unit : ℕ) (s : State) (h3 : Has P s) : ResHas P (execCopyUnitWritePerformed core chan unit s) := by
  unfold execCopyUnitWritePerformed
  repeat' first
    | with_reducible apply resHas_onCtx
    | with_reducible apply resHas_onCore
    | with_reducible apply resHas_onLayer
    | with_reducible apply resHas_next
    | exact trivial
    | with_reducible assumption
    | with_reducible apply State.refused_kept hP
    | with_reducible apply State.performLocal_kept hP
    | with_reducible apply State.lineDone_kept hP
    | with_reducible apply State.notePerformed_kept hP
    | with_reducible apply State.channelGoesOn_kept hP
    | split
theorem State.poisonLines_kept {P : Property} (hP : Closed P) (s : State) (l : List (ℕ × ℕ)) (h0 : Has P s) : Has P (State.poisonLines s l) := by
  unfold State.poisonLines
  repeat' first
    | with_reducible assumption
    | with_reducible apply State.setMark_kept hP
    | (with_reducible refine has_foldl _ (fun _ _ _ => ?_) _ _ ?_)
theorem State.creditRest_kept {P : Property} (hP : Closed P) (s : State) (h : Channel) (st : BitVec 8) (poisons : Bool) (h0 : Has P s) : Has P (State.creditRest s h st poisons) := by
  unfold State.creditRest
  repeat' first
    | with_reducible assumption
    | with_reducible apply State.credit_kept hP
    | split
theorem State.endAccess_kept {P : Property} (hP : Closed P) (s : State) (c : ℕ) (x : ℕ) (num : ℕ) (h0 : Has P s) : Has P (State.endAccess s c x num) := by
  unfold State.endAccess
  repeat' first
    | with_reducible assumption
    | with_reducible apply State.performedTo_kept hP
    | with_reducible apply State.finishAccess_kept hP
    | split
theorem execCopyCommandComplete_kept {P : Property} (hP : Closed P) (core : ℕ) (chan : ℕ) (s : State) (h2 : Has P s) : ResHas P (execCopyCommandComplete core chan s) := by
  unfold execCopyCommandComplete
  repeat' first
    | with_reducible apply resHas_onCtx
    | with_reducible apply resHas_onCore
    | with_reducible apply resHas_onLayer
    | with_reducible apply resHas_next
    | exact trivial
    | with_reducible assumption
    | with_reducible apply State.endAccess_kept hP
    | with_reducible apply State.creditRest_kept hP
    | with_reducible apply State.poisonLines_kept hP
    | with_reducible apply State.complete_kept hP
    | with_reducible apply State.retryRelease_kept hP
    | with_reducible apply State.schedule_kept hP
    | with_reducible apply State.modCore_kept hP
    | split
theorem State.setPort_kept {P : Property} (hP : Closed P) (s : State) (c : ℕ) (n : ℕ) (p : Port) (h0 : Has P s) : Has P (State.setPort s c n p) := by
  unfold State.setPort
  repeat' first
    | with_reducible assumption
    | with_reducible apply State.modCore_kept hP
theorem State.portDone_kept {P : Property} (hP : Closed P) (s : State) (c : ℕ) (n : ℕ) (h0 : Has P s) : Has P (State.portDone s c n) := by
  unfold State.portDone
  repeat' first
    | with_reducible assumption
    | with_reducible apply State.setPort_kept hP
    | with_reducible apply State.completeId_kept hP
    | split
    | (dsimp only)
theorem State.configPort_kept {P : Property} (hP : Closed P) (s : State) (c : ℕ) (x : ℕ) (n : ℕ) (d : Descr) (h0 : Has P s) : Has P (State.configPort s c x n d) := by
  unfold State.configPort
  repeat' first
    | with_reducible assumption
    | with_reducible apply State.portDone_kept hP
    | with_reducible apply State.setPort_kept hP
    | with_reducible apply State.schedule_kept hP
    | with_reducible apply State.newId_kept hP
    | (refine State.newId_kept_eq hP (by with_reducible assumption) ?_)
    | with_reducible apply State.modCtx_kept hP
    | split
theorem State.stopPort_kept {P : Property} (hP : Closed P) (s : State) (c : ℕ) (n : ℕ) (h0 : Has P s) : Has P (State.stopPort s c n) := by
  unfold State.stopPort
  repeat' first
    | with_reducible assumption
    | with_reducible apply State.setPort_kept hP
    | with_reducible apply State.completeId_kept hP
    | split
    | (dsimp only)
theorem State.popPort_kept {P : Property} (hP : Closed P) (s : State) (c : ℕ) (n : ℕ) (h0 : Has P s) : Has P (State.popPort s c n) := by
  unfold State.popPort
  repeat' first
    | with_reducible assumption
    | with_reducible apply State.portDone_kept hP
    | with_reducible apply State.setPort_kept hP
    | with_reducible apply State.schedule_kept hP
    | split
    | (dsimp only)
theorem State.fetchLine_kept {P : Property} (hP : Closed P) (s : State) (c : ℕ) (n : ℕ) (p : Port) (scale : Bool) (flat : ℕ) (h0 : Has P s) : Has P (State.fetchLine s c n p scale flat) := by
  unfold State.fetchLine
  repeat' first
    | with_reducible assumption
    | with_reducible apply State.setPort_kept hP
    | with_reducible apply State.engineDone_kept hP
    | with_reducible apply State.engineRead_kept hP
    | (refine State.engineRead_kept_eq hP (by with_reducible assumption) ?_)
    | with_reducible apply State.schedule_kept hP
    | (with_reducible refine has_foldl _ (fun _ _ _ => ?_) _ _ ?_)
    | split
theorem execReadPortFetch_kept {P : Property} (hP : Closed P) (core : ℕ) (port : ℕ) (s : State) (h2 : Has P s) : ResHas P (execReadPortFetch core port s) := by
  unfold execReadPortFetch
  repeat' first
    | with_reducible apply resHas_onCtx
    | with_reducible apply resHas_onCore
    | with_reducible apply resHas_onLayer
    | with_reducible apply resHas_next
    | exact trivial
    | with_reducible assumption
    | with_reducible apply State.fetchLine_kept hP
    | with_reducible apply State.setPort_kept hP
    | with_reducible apply State.schedule_kept hP
    | split
    | (dsimp only)
theorem State.wakePushers_kept {P : Property} (hP : Closed P) (s : State) (c : ℕ) (h0 : Has P s) : Has P (State.wakePushers s c) := by
  unfold State.wakePushers
  repeat' first
    | with_reducible assumption
    | with_reducible apply State.schedule_kept hP
theorem execWritePortWrite_kept {P : Property} (hP : Closed P) (core : ℕ) (port : ℕ) (s : State) (h2 : Has P s) : ResHas P (execWritePortWrite core port s) := by
  unfold execWritePortWrite
  repeat' first
    | with_reducible apply resHas_onCtx
    | with_reducible apply resHas_onCore
    | with_reducible apply resHas_onLayer
    | with_reducible apply resHas_next
    | exact trivial
    | with_reducible assumption
    | with_reducible apply State.wakePushers_kept hP
    | with_reducible apply State.portDone_kept hP
    | with_reducible apply State.setPort_kept hP
    | with_reducible apply State.occupy_kept hP
    | with_reducible apply State.writeFlat_kept hP
    | with_reducible apply State.schedule_kept hP
    | split
    | (dsimp only)
theorem State.wakePorts_kept {P : Property} (hP : Closed P) (s : State) (c : ℕ) (h0 : Has P s) : Has P (State.wakePorts s c) := by
  unfold State.wakePorts
  repeat' first
    | with_reducible assumption
    | with_reducible apply State.schedule_kept hP
    | (with_reducible refine has_foldl _ (fun _ _ _ => ?_) _ _ ?_)
    | split
theorem State.trace_kept {P : Property} (hP : Closed P) (s : State) (c : ℕ) (x : ℕ) (type : ℕ) (code : ℕ) (data : ℕ) (addr : ℕ) (h0 : Has P s) : Has P (State.trace s c x type code data addr) := by
  unfold State.trace
  repeat' first
    | with_reducible assumption
    | with_reducible apply State.modCore_kept hP
    | split
theorem State.writeTrace_kept {P : Property} (hP : Closed P) (s : State) (c : ℕ) (r : ℕ) (h0 : Has P s) : Has P (State.writeTrace s c r) := by
  unfold State.writeTrace
  repeat' first
    | with_reducible assumption
    | with_reducible apply State.setSyncWord_kept hP
    | with_reducible apply State.modCore_kept hP
theorem State.flushTrace_kept {P : Property} (hP : Closed P) (s : State) (c : ℕ) (h0 : Has P s) : Has P (State.flushTrace s c) := by
  unfold State.flushTrace
  repeat' first
    | with_reducible assumption
    | with_reducible apply State.writeTrace_kept hP
    | with_reducible apply State.modCore_kept hP
    | (with_reducible refine has_foldl _ (fun _ _ _ => ?_) _ _ ?_)
theorem State.endStall_kept {P : Property} (hP : Closed P) (s : State) (c : ℕ) (x : ℕ) (addr : ℕ) (h0 : Has P s) : Has P (State.endStall s c x addr) := by
  unfold State.endStall
  repeat' first
    | with_reducible assumption
    | with_reducible apply State.trace_kept hP
    | with_reducible apply State.modCtx_kept hP
    | split
theorem State.raise_kept {P : Property} (hP : Closed P) (s : State) (c : ℕ) (x : ℕ) (cause : Cause) (status : BitVec 8) (async : Bool) (more : Bool) (fault : BitVec 8) (done : BitVec 8) (val : Word) (h0 : Has P s) : Has P (State.raise s c x cause status async more fault done val) := by
  unfold State.raise
  repeat' first
    | with_reducible assumption
    | with_reducible apply State.takeTrap_kept hP
    | with_reducible apply State.modCtx_kept hP
theorem State.detect_kept {P : Property} (hP : Closed P) (s0 : State) (c : ℕ) (x : ℕ) (f : Finding) (fault : BitVec 8) (more : Bool) (h0 : Has P s0) : Has P (State.detect s0 c x f fault more) := by
  unfold State.detect
  repeat' first
    | with_reducible assumption
    | with_reducible apply State.raise_kept hP
    | with_reducible apply State.trace_kept hP
    | with_reducible apply State.startRewind_kept hP
    | with_reducible apply State.modCtx_kept hP
    | with_reducible apply State.modCore_kept hP
    | split
    | (dsimp only)
theorem State.modEvents_kept {P : Property} (hP : Closed P) (s : State) (c : ℕ) (x : ℕ) (f : Events → Events) (h0 : Has P s) : Has P (State.modEvents s c x f) := by
  unfold State.modEvents
  repeat' first
    | with_reducible assumption
    | with_reducible apply State.modCtx_kept hP
theorem State.takeEvent_kept {P : Property} (hP : Closed P) (s : State) (c : ℕ) (x : ℕ) (h0 : Has P s) : Has P (State.takeEvent s c x) := by
  unfold State.takeEvent
  repeat' first
    | with_reducible assumption
    | with_reducible apply State.modEvents_kept hP
    | with_reducible apply State.detect_kept hP
    | with_reducible apply State.raise_kept hP
    | split
    | (dsimp only)
theorem State.writeBack_kept {P : Property} (hP : Closed P) (c : ℕ) (b : ℕ) (a2 : List ℕ) (a3 : State) (h3 : Has P a3) : Has P (State.writeBack c b a2 a3) := by
  induction a2 generalizing a3
  case nil =>
    unfold State.writeBack
    repeat' first
      | with_reducible assumption
  case cons _ _ ih =>
    unfold State.writeBack
    repeat' first
      | with_reducible apply ih
      | with_reducible assumption
      | with_reducible apply State.copyRow_kept hP
      | split
theorem State.cleanBank_kept {P : Property} (hP : Closed P) (c : ℕ) (s : State) (b : ℕ) (h1 : Has P s) : Has P (State.cleanBank c s b) := by
  unfold State.cleanBank
  repeat' first
    | with_reducible assumption
    | with_reducible apply State.writeBack_kept hP
    | with_reducible apply State.modCore_kept hP
theorem State.returnBank_kept {P : Property} (hP : Closed P) (c : ℕ) (s : State) (b : ℕ) (h1 : Has P s) : Has P (State.returnBank c s b) := by
  unfold State.returnBank
  repeat' first
    | with_reducible assumption
    | with_reducible apply State.modCore_kept hP
theorem State.stopHeldPorts_kept {P : Property} (hP : Closed P) (s : State) (c : ℕ) (x : ℕ) (h0 : Has P s) : Has P (State.stopHeldPorts s c x) := by
  unfold State.stopHeldPorts
  repeat' first
    | with_reducible assumption
    | with_reducible apply State.stopPort_kept hP
    | (with_reducible refine has_foldl _ (fun _ _ _ => ?_) _ _ ?_)
    | split
theorem State.schedulePlacement_kept {P : Property} (hP : Closed P) (s : State) (h0 : Has P s) : Has P (State.schedulePlacement s) := by
  unfold State.schedulePlacement
  repeat' first
    | with_reducible assumption
    | with_reducible apply State.schedule_kept hP
theorem State.memberEnds_kept {P : Property} (hP : Closed P) (s : State) (lidx : ℕ) (c : ℕ) (x : ℕ) (st : MemberState) (h0 : Has P s) : Has P (State.memberEnds s lidx c x st) := by
  unfold State.memberEnds
  repeat' first
    | with_reducible assumption
    | with_reducible apply State.schedulePlacement_kept hP
    | with_reducible apply State.setLaunch_kept hP
    | with_reducible apply State.scheduleFree_kept hP
    | with_reducible apply State.modCluster_kept hP
    | with_reducible apply State.modCore_kept hP
    | split
theorem State.retire_kept {P : Property} (hP : Closed P) (s : State) (c : ℕ) (x : ℕ) (aborted : Bool) (h0 : Has P s) : Has P (State.retire s c x aborted) := by
  unfold State.retire
  repeat' first
    | with_reducible assumption
    | with_reducible apply State.memberEnds_kept hP
    | with_reducible apply State.stopHeldPorts_kept hP
    | with_reducible apply State.returnBank_kept hP
    | with_reducible apply State.cleanBank_kept hP
    | with_reducible apply State.modCluster_kept hP
    | with_reducible apply State.modCore_kept hP
    | with_reducible apply State.setCtx_kept hP
    | (with_reducible refine has_foldl _ (fun _ _ _ => ?_) _ _ ?_)
theorem State.tryRetire_kept {P : Property} (hP : Closed P) (s : State) (c : ℕ) (x : ℕ) (aborted : Bool) (h0 : Has P s) : Has P (State.tryRetire s c x aborted) := by
  unfold State.tryRetire
  repeat' first
    | with_reducible assumption
    | with_reducible apply State.retire_kept hP
    | with_reducible apply State.takeEvent_kept hP
    | with_reducible apply State.raise_kept hP
    | with_reducible apply State.modCtx_kept hP
    | split
    | (dsimp only)
theorem State.writePage_kept {P : Property} (hP : Closed P) (s : State) (pa : ℕ) (bs : List Byte) (h0 : Has P s) : Has P (State.writePage s pa bs) := by
  unfold State.writePage
  repeat' first
    | with_reducible assumption
    | with_reducible apply hP.write
    | split
theorem State.writePages_kept {P : Property} (hP : Closed P) (part va len : Nat) (image : Memory) (n i : Nat) (s : State)
    (h : Has P s) : ∀ t, State.writePages part va len image n i s = some t → Has P t := by
  induction n generalizing i s with
  | zero =>
    intro t e
    cases e
    exact h
  | succ n ih =>
    intro t e
    rw [State.writePages] at e
    split at e
    · cases e
    · next pa _ => exact ih _ _ (State.writePage_kept hP _ _ _ h) t e
theorem State.wakeCore_kept {P : Property} (hP : Closed P) (s : State) (c : ℕ) (h0 : Has P s) : Has P (State.wakeCore s c) := by
  unfold State.wakeCore
  repeat' first
    | with_reducible assumption
    | with_reducible apply State.modCore_kept hP
theorem State.freeSaved_kept {P : Property} (hP : Closed P) (s : State) (c : ℕ) (x : ℕ) (n : Named) (h0 : Has P s) : Has P (State.freeSaved s c x n) := by
  unfold State.freeSaved
  repeat' first
    | with_reducible assumption
    | with_reducible apply State.modCluster_kept hP
    | with_reducible apply State.modCore_kept hP
theorem State.saveFails_kept {P : Property} (hP : Closed P) (s : State) (c : ℕ) (cause : Cause) (va : ℕ) (h0 : Has P s) : Has P (State.saveFails s c cause va) := by
  unfold State.saveFails
  repeat' first
    | with_reducible assumption
    | with_reducible apply State.raise_kept hP
    | with_reducible apply State.modCore_kept hP
theorem State.saveOut_kept {P : Property} (hP : Closed P) (s : State) (core : Nat) (j : SaveJob) (n : Named) (z : Saved)
    (id : Nat) (s0 : State) (h : Has P s) (h0 : Has P s0) : Has P (s.saveOut core j n z id s0) := by
  unfold State.saveOut
  split
  · exact State.saveFails_kept hP _ _ _ _ h
  · split
    · exact State.saveFails_kept hP _ _ _ _ h
    · next s1 e =>
      have h1 : Has P s1 := State.writePages_kept hP _ _ _ _ _ _ _ h0 _ e
      exact State.memberEnds_kept hP _ _ _ _ _ (State.modCore_kept hP _ _ _ (State.freeSaved_kept hP _ _ _ _ h1))
theorem State.saveReads_kept {P : Property} (hP : Closed P) (s : State) (c : ℕ) (x : ℕ) (n : Named) (h0 : Has P s) : Has P (State.saveReads s c x n) := by
  unfold State.saveReads
  repeat' first
    | with_reducible assumption
    | with_reducible apply State.firedRead_kept hP
    | split
    | (dsimp only)
theorem State.saveContext_kept {P : Property} (hP : Closed P) (s : State) (core : Nat) (j : SaveJob) (h : Has P s) :
    Has P (s.saveContext core j) :=
  State.saveOut_kept hP _ _ _ _ _ _ _ (State.saveReads_kept hP _ _ _ _ h) (State.newId_kept hP _ (State.saveReads_kept hP _ _ _ _ h))
theorem execCsaveComplete_kept {P : Property} (hP : Closed P) (core : ℕ) (s : State) (h1 : Has P s) : ResHas P (execCsaveComplete core s) := by
  unfold execCsaveComplete
  repeat' first
    | with_reducible apply resHas_onCtx
    | with_reducible apply resHas_onCore
    | with_reducible apply resHas_onLayer
    | with_reducible apply resHas_next
    | exact trivial
    | with_reducible assumption
    | with_reducible apply State.saveContext_kept hP
    | with_reducible apply State.scheduleFree_kept hP
    | split
theorem State.takeMemory_kept {P : Property} (hP : Closed P) (s : State) (c : ℕ) (x : ℕ) (m : Memory) (n : Named) (z : Saved) (h0 : Has P s) : Has P (State.takeMemory s c x m n z) := by
  unfold State.takeMemory
  repeat' first
    | with_reducible assumption
    | with_reducible apply State.writeLines_kept hP
    | with_reducible apply State.modCluster_kept hP
    | with_reducible apply hP.write
    | (with_reducible refine has_foldl _ (fun _ _ _ => ?_) _ _ ?_)
theorem State.rejoin_kept {P : Property} (hP : Closed P) (s : State) (c : ℕ) (x : ℕ) (z : Saved) (h0 : Has P s) : Has P (State.rejoin s c x z) := by
  unfold State.rejoin
  repeat' first
    | with_reducible assumption
    | with_reducible apply State.setLaunch_kept hP
    | split
theorem State.wakeContext_kept {P : Property} (hP : Closed P) (s : State) (c : ℕ) (h0 : Has P s) : Has P (State.wakeContext s c) := by
  unfold State.wakeContext
  repeat' first
    | with_reducible assumption
    | with_reducible apply State.wakePorts_kept hP
    | with_reducible apply State.wake_kept hP
theorem State.takeContext_kept {P : Property} (hP : Closed P) (s : State) (core : ℕ) (j : SaveJob) (n : Named) (z : Saved) (id : ℕ) (base : ℕ) (m : Memory) (h0 : Has P s) : Has P (State.takeContext s core j n z id base m) := by
  unfold State.takeContext
  repeat' first
    | with_reducible assumption
    | with_reducible apply State.wakeContext_kept hP
    | with_reducible apply State.rejoin_kept hP
    | with_reducible apply State.takeMemory_kept hP
    | with_reducible apply State.modCore_kept hP
theorem State.loadIn_kept {P : Property} (hP : Closed P) (s : State) (core : ℕ) (j : SaveJob) (n : Named) (z : Saved) (id : ℕ) (h0 : Has P s) : Has P (State.loadIn s core j n z id) := by
  unfold State.loadIn
  repeat' first
    | with_reducible assumption
    | with_reducible apply State.takeContext_kept hP
    | with_reducible apply State.saveFails_kept hP
    | with_reducible apply State.powerBanks_kept hP
    | with_reducible apply State.scheduleFree_kept hP
    | with_reducible apply State.schedule_kept hP
    | split
theorem execCloadComplete_kept {P : Property} (hP : Closed P) (core : ℕ) (s : State) (h1 : Has P s) : ResHas P (execCloadComplete core s) := by
  unfold execCloadComplete
  repeat' first
    | with_reducible apply resHas_onCtx
    | with_reducible apply resHas_onCore
    | with_reducible apply resHas_onLayer
    | with_reducible apply resHas_next
    | exact trivial
    | with_reducible assumption
    | with_reducible apply State.loadIn_kept hP
    | with_reducible apply State.saveFails_kept hP
    | split
theorem State.arrive_kept {P : Property} (hP : Closed P) (s : State) (c : ℕ) (x : ℕ) (a : Access) (r : Served) (h0 : Has P s) : Has P (State.arrive s c x a r) := by
  unfold State.arrive
  repeat' first
    | with_reducible assumption
    | with_reducible apply State.modCtx_kept hP
    | with_reducible apply State.modCore_kept hP
    | split
theorem State.loadEnds_kept {P : Property} (hP : Closed P) (s : State) (c : ℕ) (x : ℕ) (a : Access) (r : Served) (h0 : Has P s) : Has P (State.loadEnds s c x a r) := by
  unfold State.loadEnds
  repeat' first
    | with_reducible assumption
    | with_reducible apply State.arrive_kept hP
    | with_reducible apply State.finishAccess_kept hP
    | with_reducible apply State.inflight_kept hP
    | with_reducible apply State.afterAnswer_kept hP
theorem execGlobalLoadReturn_kept {P : Property} (hP : Closed P) (core : ℕ) (ctx : ℕ) (acc : ℕ) (s : State) (h3 : Has P s) : ResHas P (execGlobalLoadReturn core ctx acc s) := by
  unfold execGlobalLoadReturn
  repeat' first
    | with_reducible apply resHas_onCtx
    | with_reducible apply resHas_onCore
    | with_reducible apply resHas_onLayer
    | with_reducible apply resHas_next
    | exact trivial
    | with_reducible assumption
    | with_reducible apply State.loadEnds_kept hP
    | with_reducible apply State.modAccess_kept hP
    | with_reducible apply State.scheduleFree_kept hP
    | split
    | (dsimp only)
theorem State.performWrite_kept {P : Property} (hP : Closed P) (s : State) (g : GWrite) (h0 : Has P s) : Has P (State.performWrite s g) := by
  unfold State.performWrite
  repeat' first
    | with_reducible assumption
    | with_reducible apply State.performBytes_kept hP
    | with_reducible apply State.writeFlat_kept hP
    | split
theorem State.setWrite_kept {P : Property} (hP : Closed P) (s : State) (g : GWrite) (h0 : Has P s) : Has P (State.setWrite s g) := by
  unfold State.setWrite
  repeat' first
    | with_reducible assumption
theorem State.dropWrite_kept {P : Property} (hP : Closed P) (s : State) (g : GWrite) (h0 : Has P s) : Has P (State.dropWrite s g) := by
  unfold State.dropWrite
  repeat' first
    | with_reducible assumption
theorem State.acked_kept {P : Property} (hP : Closed P) (s : State) (g : GWrite) (p : Scope) (h0 : Has P s) : Has P (State.acked s g p) := by
  unfold State.acked
  repeat' first
    | with_reducible assumption
    | with_reducible apply State.performedTo_kept hP
    | with_reducible apply State.ackAccess_kept hP
    | with_reducible apply State.finishAccess_kept hP
    | with_reducible apply State.schedule_kept hP
    | split
theorem State.refuseWrite_kept {P : Property} (hP : Closed P) (s : State) (g : GWrite) (st : BitVec 8) (flat : ℕ) (h0 : Has P s) : Has P (State.refuseWrite s g st flat) := by
  unfold State.refuseWrite
  repeat' first
    | with_reducible assumption
    | with_reducible apply State.acked_kept hP
    | with_reducible apply State.dropWrite_kept hP
    | with_reducible apply State.setMark_kept hP
    | with_reducible apply State.modCore_kept hP
    | split
theorem State.reachPoint_kept {P : Property} (hP : Closed P) (s : State) (g : GWrite) (core : ℕ) (ctx : ℕ) (acc : ℕ) (pt : Scope) (h0 : Has P s) : Has P (State.reachPoint s g core ctx acc pt) := by
  unfold State.reachPoint
  repeat' first
    | with_reducible assumption
    | with_reducible apply State.acked_kept hP
    | with_reducible apply State.dropWrite_kept hP
    | with_reducible apply State.setWrite_kept hP
    | with_reducible apply State.performWrite_kept hP
    | with_reducible apply State.inflight_kept hP
    | with_reducible apply State.scheduleFree_kept hP
    | split
theorem execWritePerformed_kept {P : Property} (hP : Closed P) (core : ℕ) (ctx : ℕ) (acc : ℕ) (pt : Scope) (s : State) (h4 : Has P s) : ResHas P (execWritePerformed core ctx acc pt s) := by
  unfold execWritePerformed
  repeat' first
    | with_reducible apply resHas_onCtx
    | with_reducible apply resHas_onCore
    | with_reducible apply resHas_onLayer
    | with_reducible apply resHas_next
    | exact trivial
    | with_reducible assumption
    | with_reducible apply State.reachPoint_kept hP
    | with_reducible apply State.refuseWrite_kept hP
    | with_reducible apply State.acked_kept hP
    | with_reducible apply State.dropWrite_kept hP
    | with_reducible apply State.setWrite_kept hP
    | with_reducible apply State.occupy_kept hP
    | with_reducible apply State.inflight_kept hP
    | with_reducible apply State.scheduleFree_kept hP
    | with_reducible apply State.schedule_kept hP
    | split
theorem State.endWalk_kept {P : Property} (hP : Closed P) (s : State) (cluster : ℕ) (walk : ℕ) (w : Walk) (h0 : Has P s) : Has P (State.endWalk s cluster walk w) := by
  unfold State.endWalk
  repeat' first
    | with_reducible assumption
    | with_reducible apply State.modCluster_kept hP
    | with_reducible apply State.modCtx_kept hP
    | split
    | (dsimp only)
theorem execTranslationWalkDone_kept {P : Property} (hP : Closed P) (cluster : ℕ) (walk : ℕ) (s : State) (h2 : Has P s) : ResHas P (execTranslationWalkDone cluster walk s) := by
  unfold execTranslationWalkDone
  repeat' first
    | with_reducible apply resHas_onCtx
    | with_reducible apply resHas_onCore
    | with_reducible apply resHas_onLayer
    | with_reducible apply resHas_next
    | exact trivial
    | with_reducible assumption
    | with_reducible apply State.endWalk_kept hP
    | split
theorem execSyncPostPerform_kept {P : Property} (hP : Closed P) (core : ℕ) (ctx : ℕ) (acc : ℕ) (s : State) (h3 : Has P s) : ResHas P (execSyncPostPerform core ctx acc s) := by
  unfold execSyncPostPerform
  repeat' first
    | with_reducible apply resHas_onCtx
    | with_reducible apply resHas_onCore
    | with_reducible apply resHas_onLayer
    | with_reducible apply resHas_next
    | exact trivial
    | with_reducible assumption
    | with_reducible apply State.finishAccess_kept hP
    | with_reducible apply State.post_kept hP
    | with_reducible apply State.schedule_kept hP
    | split
theorem execSrqEntryEnqueue_kept {P : Property} (hP : Closed P) (core : ℕ) (ctx : ℕ) (s : State) (h2 : Has P s) : ResHas P (execSrqEntryEnqueue core ctx s) := by
  unfold execSrqEntryEnqueue
  repeat' first
    | with_reducible apply resHas_onCtx
    | with_reducible apply resHas_onCore
    | with_reducible apply resHas_onLayer
    | with_reducible apply resHas_next
    | exact trivial
    | with_reducible assumption
    | with_reducible apply State.drainRelease_kept hP
theorem execRewindResume_kept {P : Property} (hP : Closed P) (core : ℕ) (ctx : ℕ) (s : State) (h2 : Has P s) : ResHas P (execRewindResume core ctx s) := by
  unfold execRewindResume
  repeat' first
    | with_reducible apply resHas_onCtx
    | with_reducible apply resHas_onCore
    | with_reducible apply resHas_onLayer
    | with_reducible apply resHas_next
    | exact trivial
    | with_reducible assumption
    | with_reducible apply State.finishRewind_kept hP
    | split
theorem execMatrixCommandStart_kept {P : Property} (hP : Closed P) (core : ℕ) (pipe : Pipe) (s : State) (h2 : Has P s) : ResHas P (execMatrixCommandStart core pipe s) := by
  unfold execMatrixCommandStart
  repeat' first
    | with_reducible apply resHas_onCtx
    | with_reducible apply resHas_onCore
    | with_reducible apply resHas_onLayer
    | with_reducible apply resHas_next
    | exact trivial
    | with_reducible assumption
    | with_reducible apply State.schedule_kept hP
    | with_reducible apply State.setCore_kept hP
    | split
    | (dsimp only)
theorem State.readerAccess_kept {P : Property} (hP : Closed P) (s : State) (c : ℕ) (pipe : Pipe) (r : Running) (slope : Bool) (i : ℕ) (flat : ℤ) (h0 : Has P s) : Has P (State.readerAccess s c pipe r slope i flat) := by
  unfold State.readerAccess
  repeat' first
    | with_reducible assumption
    | with_reducible apply State.engineRead_kept hP
    | (refine State.engineRead_kept_eq hP (by with_reducible assumption) ?_)
    | with_reducible apply State.modCore_kept hP
    | split
    | (dsimp only)
theorem State.readerDone_kept {P : Property} (hP : Closed P) (s : State) (c : ℕ) (pipe : Pipe) (r0 : Running) (h0 : Has P s) : Has P (State.readerDone s c pipe r0) := by
  unfold State.readerDone
  repeat' first
    | with_reducible assumption
    | with_reducible apply State.schedule_kept hP
    | with_reducible apply State.modCore_kept hP
    | split
    | (dsimp only)
theorem State.readerRun_kept {P : Property} (hP : Closed P) (c : ℕ) (pipe : Pipe) (a2 : ℕ) (a3 : State) (h3 : Has P a3) : Has P (State.readerRun c pipe a2 a3) := by
  induction a2 generalizing a3
  case zero =>
    unfold State.readerRun
    repeat' first
      | with_reducible assumption
      | with_reducible apply State.readerDone_kept hP
      | with_reducible apply State.readerAccess_kept hP
      | with_reducible apply State.schedule_kept hP
  case succ _ ih =>
    unfold State.readerRun
    repeat' first
      | with_reducible apply ih
      | with_reducible assumption
      | with_reducible apply State.readerDone_kept hP
      | with_reducible apply State.readerAccess_kept hP
      | with_reducible apply State.schedule_kept hP
      | with_reducible apply State.modCore_kept hP
      | split
      | (dsimp only)
theorem execStreamReaderLine_kept {P : Property} (hP : Closed P) (core : ℕ) (pipe : Pipe) (s : State) (h2 : Has P s) : ResHas P (execStreamReaderLine core pipe s) := by
  unfold execStreamReaderLine
  repeat' first
    | with_reducible apply resHas_onCtx
    | with_reducible apply resHas_onCore
    | with_reducible apply resHas_onLayer
    | with_reducible apply resHas_next
    | exact trivial
    | with_reducible assumption
    | with_reducible apply State.readerRun_kept hP
    | split
theorem State.consumeLine_kept {P : Property} (hP : Closed P) (s : State) (c : ℕ) (j : Cmd) (loc : ℕ) (h0 : Has P s) : Has P (State.consumeLine s c j loc) := by
  unfold State.consumeLine
  repeat' first
    | with_reducible assumption
    | with_reducible apply State.modCtx_kept hP
    | with_reducible apply State.modCore_kept hP
    | split
theorem State.endRun_kept {P : Property} (hP : Closed P) (s : State) (c : ℕ) (r : Running) (h0 : Has P s) : Has P (State.endRun s c r) := by
  unfold State.endRun
  repeat' first
    | with_reducible assumption
    | with_reducible apply State.schedule_kept hP
    | with_reducible apply State.modCore_kept hP
theorem State.takeStep_kept {P : Property} (hP : Closed P) (s : State) (c : ℕ) (r : Running) (x : List Line) (h0 : Has P s) : Has P (State.takeStep s c r x) := by
  unfold State.takeStep
  repeat' first
    | with_reducible assumption
    | with_reducible apply State.endRun_kept hP
    | with_reducible apply State.schedule_kept hP
    | with_reducible apply State.setCore_kept hP
    | (with_reducible refine has_foldl _ (fun _ _ _ => ?_) _ _ ?_)
    | split
    | (dsimp only)
theorem State.popSource_kept {P : Property} (hP : Closed P) (s : State) (c : Nat) (cmd : Cmd) (h : Has P s) (v : Line)
    (t : State) (e : s.popSource c cmd = .line v t) : Has P t := by
  unfold State.popSource at e
  dsimp only at e
  split at e
  · split at e
    · cases e
      exact State.consumeLine_kept hP _ _ _ _ (State.popPort_kept hP _ _ _ h)
    · split at e <;> cases e
  · split at e
    · cases e
      exact State.consumeLine_kept hP _ _ _ _ (State.popFifo_kept hP _ _ _ _ h)
    · cases e
theorem State.supply_kept {P : Property} (hP : Closed P) (c p n : Nat) (s : State) (r : Running) (h : Has P s) :
    Has P (State.supply c p n s r) := by
  induction n generalizing s r with
  | zero => exact h
  | succ n ih =>
    unfold State.supply
    split
    · exact State.takeStep_kept hP _ _ _ _ h
    · split
      · next v s1 e => exact ih _ _ (State.modCore_kept hP _ _ _ (State.popSource_kept hP _ _ _ h _ _ e))
      · exact State.endRun_kept hP _ _ _ h
      · exact State.watch_kept hP _ _ _ _ h
theorem execMatrixRunStep_kept {P : Property} (hP : Closed P) (core : ℕ) (s : State) (h1 : Has P s) : ResHas P (execMatrixRunStep core s) := by
  unfold execMatrixRunStep
  repeat' first
    | with_reducible apply resHas_onCtx
    | with_reducible apply resHas_onCore
    | with_reducible apply resHas_onLayer
    | with_reducible apply resHas_next
    | exact trivial
    | with_reducible assumption
    | with_reducible apply State.supply_kept hP
    | with_reducible apply State.takeStep_kept hP
    | with_reducible apply State.endRun_kept hP
    | split
    | (dsimp only)
theorem execMatrixCommandComplete_kept {P : Property} (hP : Closed P) (core : ℕ) (pipe : Pipe) (s : State) (h2 : Has P s) : ResHas P (execMatrixCommandComplete core pipe s) := by
  unfold execMatrixCommandComplete
  repeat' first
    | with_reducible apply resHas_onCtx
    | with_reducible apply resHas_onCore
    | with_reducible apply resHas_onLayer
    | with_reducible apply resHas_next
    | exact trivial
    | with_reducible assumption
    | with_reducible apply State.engineDone_kept hP
    | with_reducible apply State.complete_kept hP
    | with_reducible apply State.modCtx_kept hP
    | with_reducible apply State.setCore_kept hP
    | split
    | (dsimp only)
theorem execPpeCommandStart_kept {P : Property} (hP : Closed P) (core : ℕ) (s : State) (h1 : Has P s) : ResHas P (execPpeCommandStart core s) := by
  unfold execPpeCommandStart
  repeat' first
    | with_reducible apply resHas_onCtx
    | with_reducible apply resHas_onCore
    | with_reducible apply resHas_onLayer
    | with_reducible apply resHas_next
    | exact trivial
    | with_reducible assumption
    | with_reducible apply State.schedule_kept hP
    | with_reducible apply State.setCore_kept hP
    | split
    | (dsimp only)
theorem State.drainPut_kept {P : Property} (hP : Closed P) (s : State) (c : ℕ) (id : ℕ) (l : DrainLine) (h0 : Has P s) : Has P (State.drainPut s c id l) := by
  unfold State.drainPut
  repeat' first
    | with_reducible assumption
    | with_reducible apply State.occupy_kept hP
    | with_reducible apply State.pushFifo_kept hP
    | with_reducible apply State.writeFlat_kept hP
    | with_reducible apply State.schedule_kept hP
    | with_reducible apply State.modCore_kept hP
    | split
theorem State.endDrain_kept {P : Property} (hP : Closed P) (s : State) (c : ℕ) (d : Draining) (h0 : Has P s) : Has P (State.endDrain s c d) := by
  unfold State.endDrain
  repeat' first
    | with_reducible assumption
    | with_reducible apply State.schedule_kept hP
    | with_reducible apply State.modCore_kept hP
theorem State.drainRun_kept {P : Property} (hP : Closed P) (c : Nat) (used : List Nat) (n : Nat) (s : State) (d : Draining)
    (h : Has P s) : Has P (State.drainRun c used n s d) := by
  induction n generalizing used s d with
  | zero => exact h
  | succ n ih =>
    unfold State.drainRun
    split
    · exact State.endDrain_kept hP _ _ _ h
    · split
      · exact State.schedule_kept hP _ _ _ (State.modCore_kept hP _ _ _ h)
      · split
        · exact ih _ _ _ (State.modCore_kept hP _ _ _ (State.drainPut_kept hP _ _ _ _ h))
        · exact State.schedule_kept hP _ _ _ (State.modCore_kept hP _ _ _ h)
        · exact State.watch_kept hP _ _ _ _ (State.modCore_kept hP _ _ _ h)
        · exact State.endDrain_kept hP _ _ _ h
theorem execPpeLineWrite_kept {P : Property} (hP : Closed P) (core : ℕ) (s : State) (h1 : Has P s) : ResHas P (execPpeLineWrite core s) := by
  unfold execPpeLineWrite
  repeat' first
    | with_reducible apply resHas_onCtx
    | with_reducible apply resHas_onCore
    | with_reducible apply resHas_onLayer
    | with_reducible apply resHas_next
    | exact trivial
    | with_reducible assumption
    | with_reducible apply State.drainRun_kept hP
    | split
theorem execPpeCommandComplete_kept {P : Property} (hP : Closed P) (core : ℕ) (s : State) (h1 : Has P s) : ResHas P (execPpeCommandComplete core s) := by
  unfold execPpeCommandComplete
  repeat' first
    | with_reducible apply resHas_onCtx
    | with_reducible apply resHas_onCore
    | with_reducible apply resHas_onLayer
    | with_reducible apply resHas_next
    | exact trivial
    | with_reducible assumption
    | with_reducible apply State.engineDone_kept hP
    | with_reducible apply State.complete_kept hP
    | with_reducible apply State.schedule_kept hP
    | with_reducible apply State.modCtx_kept hP
    | with_reducible apply State.setCore_kept hP
    | split
    | (dsimp only)
theorem State.scaTarget_kept {P : Property} (hP : Closed P) (s : State) (c : ℕ) (cmd : Cmd) (x : ℕ) (h0 : Has P s) : Has P (State.scaTarget s c cmd x).2 := by
  unfold State.scaTarget
  repeat' first
    | with_reducible assumption
    | with_reducible apply State.xlateNow_kept hP
    | (refine State.xlateNow_kept_eq hP (by with_reducible assumption) ?_)
    | split
    | (dsimp only)
theorem State.scaTarget_kept_eq {P : Property} (hP : Closed P) {s : State} {c : ℕ} {cmd : Cmd} {x : ℕ} {t : State} {a : _} (e : (State.scaTarget s c cmd x) = (a, t)) (h0 : Has P s) : Has P t := by
  have := State.scaTarget_kept hP s c cmd x h0
  rwa [e] at this
theorem State.putWord_kept {P : Property} (hP : Closed P) (s : State) (a : ℕ) (size : ℕ) (v : ℕ) (line : Option (ℕ × ℕ)) (h0 : Has P s) : Has P (State.putWord s a size v line) := by
  unfold State.putWord
  repeat' first
    | with_reducible assumption
    | with_reducible apply State.setMark_kept hP
    | with_reducible apply State.modCore_kept hP
    | with_reducible apply hP.store
    | split
theorem State.scaTargets_kept {P : Property} (hP : Closed P) (c : Nat) (cmd : Cmd) (l : List (Nat × Nat)) (s : State)
    (h : Has P s) : Has P (State.scaTargets c cmd l s).2 := by
  induction l generalizing s with
  | nil => exact h
  | cons e l ih =>
    obtain ⟨x, y⟩ := e
    rw [State.scaTargets]
    by_cases hx : x = 0xFFFFFFFF
    · rw [if_pos hx]
      have := ih s h
      generalize State.scaTargets c cmd l s = r at *
      obtain ⟨r1, r2⟩ := r
      cases r1 <;> exact this
    · rw [if_neg hx]
      have h1 := State.scaTarget_kept hP s c cmd x h
      generalize State.scaTarget s c cmd x = q at *
      obtain ⟨q1, s1⟩ := q
      cases q1 with
      | bad => exact h1
      | word a b =>
        have := ih s1 h1
        dsimp only
        generalize State.scaTargets c cmd l s1 = r at *
        obtain ⟨r1, r2⟩ := r
        cases r1 <;> exact this
theorem State.scaTargets_kept_eq {P : Property} (hP : Closed P) {c : Nat} {cmd : Cmd} {l : List (Nat × Nat)} {s t : State}
    {a : _} (e : State.scaTargets c cmd l s = (a, t)) (h : Has P s) : Has P t := by
  have := State.scaTargets_kept hP c cmd l s h
  rwa [e] at this
theorem State.scaUpdates_kept {P : Property} (hP : Closed P) (cmd : Cmd) (ts : List (Option (Nat × Option (Nat × Nat))))
    (es : List (Nat × Nat)) (s : State) (h : Has P s) : Has P (State.scaUpdates cmd ts es s).2 := by
  induction ts generalizing es s with
  | nil => exact h
  | cons t ts ih =>
    cases es with
    | nil =>
      unfold State.scaUpdates
      split <;> first | exact h | contradiction
    | cons e es =>
      obtain ⟨e1, v⟩ := e
      cases t with
      | none => exact ih es s h
      | some p =>
        obtain ⟨a, line⟩ := p
        exact ih es _ (State.putWord_kept hP _ _ _ _ _ h)
theorem State.scaUpdates_kept_eq {P : Property} (hP : Closed P) {cmd : Cmd} {ts : List (Option (Nat × Option (Nat × Nat)))}
    {es : List (Nat × Nat)} {s t : State} {a : _} (e : State.scaUpdates cmd ts es s = (a, t)) (h : Has P s) : Has P t := by
  have := State.scaUpdates_kept hP cmd ts es s h
  rwa [e] at this
theorem State.setSca_kept {P : Property} (hP : Closed P) (s : State) (c : ℕ) (r : Scattering) (h0 : Has P s) : Has P (State.setSca s c r) := by
  unfold State.setSca
  repeat' first
    | with_reducible assumption
    | with_reducible apply State.modCore_kept hP
theorem State.scaNext_kept {P : Property} (hP : Closed P) (s : State) (c : ℕ) (r : Scattering) (h0 : Has P s) : Has P (State.scaNext s c r) := by
  unfold State.scaNext
  repeat' first
    | with_reducible assumption
    | with_reducible apply State.setSca_kept hP
    | with_reducible apply State.performedTo_kept hP
    | with_reducible apply State.schedule_kept hP
    | with_reducible apply State.drawDelay_kept hP
    | (refine State.drawDelay_kept_eq hP (by with_reducible assumption) ?_)
    | split
theorem State.scaFault_kept {P : Property} (hP : Closed P) (s : State) (c : ℕ) (r : Scattering) (st : BitVec 8) (a : ℕ) (h0 : Has P s) : Has P (State.scaFault s c r st a) := by
  unfold State.scaFault
  repeat' first
    | with_reducible assumption
    | with_reducible apply State.setSca_kept hP
    | with_reducible apply State.schedule_kept hP
theorem State.scaAccesses_kept {P : Property} (hP : Closed P) (s : State) (c : ℕ) (r : Scattering) (todo : List (ℕ × ℕ)) (h0 : Has P s) : Has P (State.scaAccesses s c r todo) := by
  unfold State.scaAccesses
  repeat' first
    | with_reducible assumption
    | with_reducible apply State.setSca_kept hP
    | with_reducible apply State.schedule_kept hP
theorem State.scaAccess_kept {P : Property} (hP : Closed P) (s : State) (c : ℕ) (r : Scattering) (d : ℕ) (flat : ℕ) (rest : List (ℕ × ℕ)) (h0 : Has P s) : Has P (State.scaAccess s c r d flat rest) := by
  unfold State.scaAccess
  repeat' first
    | with_reducible assumption
    | with_reducible apply State.setSca_kept hP
    | with_reducible apply State.engineRead_kept hP
    | (refine State.engineRead_kept_eq hP (by with_reducible assumption) ?_)
    | with_reducible apply State.schedule_kept hP
    | split
    | (dsimp only)
theorem State.scaStreams_kept {P : Property} (hP : Closed P) (s : State) (c : ℕ) (r : Scattering) (h0 : Has P s) : Has P (State.scaStreams s c r) := by
  unfold State.scaStreams
  repeat' first
    | with_reducible assumption
    | with_reducible apply State.scaAccesses_kept hP
    | with_reducible apply State.scaFault_kept hP
    | split
    | (dsimp only)
theorem State.scaTargetPhase_kept {P : Property} (hP : Closed P) (s : State) (c : ℕ) (r : Scattering) (h0 : Has P s) : Has P (State.scaTargetPhase s c r) := by
  unfold State.scaTargetPhase
  repeat' first
    | with_reducible assumption
    | with_reducible apply State.scaAccesses_kept hP
    | with_reducible apply State.scaFault_kept hP
    | with_reducible apply State.scaTargets_kept hP
    | (refine State.scaTargets_kept_eq hP (by with_reducible assumption) ?_)
    | split
    | (dsimp only)
theorem State.sendUpdates_kept {P : Property} (hP : Closed P) (c : ℕ) (a1 : List ℕ) (a2 : State) (h2 : Has P a2) : Has P (State.sendUpdates c a1 a2) := by
  induction a1 generalizing a2
  case nil =>
    unfold State.sendUpdates
    repeat' first
      | with_reducible assumption
  case cons _ _ ih =>
    unfold State.sendUpdates
    repeat' first
      | with_reducible apply ih
      | with_reducible assumption
      | with_reducible apply State.inflight_kept hP
      | with_reducible apply State.firedFlit_kept hP
theorem State.answered_kept {P : Property} (hP : Closed P) (l : List ℕ) (s : State) (h1 : Has P s) : Has P (State.answered l s) := by
  unfold State.answered
  repeat' first
    | with_reducible assumption
    | with_reducible apply State.inflight_kept hP
    | (with_reducible refine has_foldl _ (fun _ _ _ => ?_) _ _ ?_)
theorem State.applyWindow_kept {P : Property} (hP : Closed P) (s : State) (c : ℕ) (r : Scattering) (h0 : Has P s) : Has P (State.applyWindow s c r) := by
  unfold State.applyWindow
  repeat' first
    | with_reducible assumption
    | with_reducible apply State.answered_kept hP
    | with_reducible apply State.scaFault_kept hP
    | with_reducible apply State.scaNext_kept hP
    | with_reducible apply State.scaUpdates_kept hP
    | (refine State.scaUpdates_kept_eq hP (by with_reducible assumption) ?_)
    | with_reducible apply State.scaTargets_kept hP
    | (refine State.scaTargets_kept_eq hP (by with_reducible assumption) ?_)
    | with_reducible apply State.scheduleFree_kept hP
    | split
    | (dsimp only)
theorem State.sendWindow_kept {P : Property} (hP : Closed P) (s : State) (c : ℕ) (r : Scattering) (h0 : Has P s) : Has P (State.sendWindow s c r) := by
  unfold State.sendWindow
  repeat' first
    | with_reducible assumption
    | with_reducible apply State.applyWindow_kept hP
    | with_reducible apply State.sendUpdates_kept hP
    | with_reducible apply State.setSca_kept hP
    | with_reducible apply State.schedule_kept hP
    | with_reducible apply State.drawDelay_kept hP
    | (refine State.drawDelay_kept_eq hP (by with_reducible assumption) ?_)
    | split
    | (dsimp only)
theorem State.scaPush_kept {P : Property} (hP : Closed P) (s : State) (c : ℕ) (r : Scattering) (v : Line) (vs : List Line) (n : ℕ) (h0 : Has P s) : Has P (State.scaPush s c r v vs n) := by
  unfold State.scaPush
  repeat' first
    | with_reducible assumption
    | with_reducible apply State.scaFault_kept hP
    | with_reducible apply State.scaNext_kept hP
    | with_reducible apply State.setSca_kept hP
    | with_reducible apply State.schedule_kept hP
    | with_reducible apply State.modCore_kept hP
    | split
    | (dsimp only)
theorem execScaWindowApply_kept {P : Property} (hP : Closed P) (core : ℕ) (s : State) (h1 : Has P s) : ResHas P (execScaWindowApply core s) := by
  unfold execScaWindowApply
  repeat' first
    | with_reducible apply resHas_onCtx
    | with_reducible apply resHas_onCore
    | with_reducible apply resHas_onLayer
    | with_reducible apply resHas_next
    | exact trivial
    | with_reducible assumption
    | with_reducible apply State.scaPush_kept hP
    | with_reducible apply State.sendWindow_kept hP
    | with_reducible apply State.applyWindow_kept hP
    | with_reducible apply State.scaTargetPhase_kept hP
    | with_reducible apply State.scaStreams_kept hP
    | with_reducible apply State.scaAccess_kept hP
    | with_reducible apply State.scaNext_kept hP
    | split
theorem execScaCommandStart_kept {P : Property} (hP : Closed P) (core : ℕ) (s : State) (h1 : Has P s) : ResHas P (execScaCommandStart core s) := by
  unfold execScaCommandStart
  repeat' first
    | with_reducible apply resHas_onCtx
    | with_reducible apply resHas_onCore
    | with_reducible apply resHas_onLayer
    | with_reducible apply resHas_next
    | exact trivial
    | with_reducible assumption
    | with_reducible apply State.setSca_kept hP
    | with_reducible apply State.retryRelease_kept hP
    | with_reducible apply State.schedule_kept hP
    | with_reducible apply State.setCore_kept hP
    | split
    | (dsimp only)
theorem execScaCommandComplete_kept {P : Property} (hP : Closed P) (core : ℕ) (s : State) (h1 : Has P s) : ResHas P (execScaCommandComplete core s) := by
  unfold execScaCommandComplete
  repeat' first
    | with_reducible apply resHas_onCtx
    | with_reducible apply resHas_onCore
    | with_reducible apply resHas_onLayer
    | with_reducible apply resHas_next
    | exact trivial
    | with_reducible assumption
    | with_reducible apply State.finishAccess_kept hP
    | with_reducible apply State.complete_kept hP
    | with_reducible apply State.retryRelease_kept hP
    | with_reducible apply State.schedule_kept hP
    | with_reducible apply State.setCore_kept hP
    | split
    | (dsimp only)
theorem runAt_kept {P : Property} (hP : Closed P) (k : ℕ) (i : Instr) (s : State) (h : Has P s) : Has P (runAt k i s) := by
  unfold runAt
  split
  · exact h
  · obtain ⟨g, es, e⟩ := runSlot_emits i { s with cur := { s.cur with slot := slotOf k } }
    rw [e]
    exact State.emit_kept _ _ _ h
theorem State.takeBc_kept {P : Property} (hP : Closed P) (s : State) (h0 : Has P s) : Has P (State.takeBc s) := by
  unfold State.takeBc
  repeat' first
    | with_reducible assumption
theorem runBundle_kept {P : Property} (hP : Closed P) (is : List (ℕ × Instr)) (s : State) (h1 : Has P s) : Has P (runBundle is s) := by
  unfold runBundle
  repeat' first
    | with_reducible assumption
    | with_reducible apply State.takeBc_kept hP
    | with_reducible apply runAt_kept hP
    | (with_reducible refine has_foldl _ (fun _ _ _ => ?_) _ _ ?_)
theorem State.landed_kept {P : Property} (hP : Closed P) (s : State) (c : ℕ) (x : ℕ) (h0 : Has P s) : Has P (State.landed s c x) := by
  unfold State.landed
  repeat' first
    | with_reducible assumption
    | with_reducible apply State.landDue_kept hP
    | with_reducible apply State.modCtx_kept hP
    | split
theorem State.evaluate_kept {P : Property} (hP : Closed P) (s : State) (c : ℕ) (x : ℕ) (h0 : Has P s) : Has P (State.evaluate s c x) := by
  unfold State.evaluate
  repeat' first
    | with_reducible assumption
    | with_reducible apply State.landed_kept hP
    | with_reducible apply runBundle_kept hP
theorem State.evict_kept {P : Property} (hP : Closed P) (s : State) (c : ℕ) (b : ℕ) (slot : ℕ) (h0 : Has P s) : Has P (State.evict s c b slot) := by
  unfold State.evict
  repeat' first
    | with_reducible assumption
    | with_reducible apply State.copyRow_kept hP
    | split
    | (dsimp only)
theorem State.setTag_kept {P : Property} (hP : Closed P) (s : State) (c : ℕ) (b : ℕ) (slot : ℕ) (t : TagEntry) (h0 : Has P s) : Has P (State.setTag s c b slot t) := by
  unfold State.setTag
  repeat' first
    | with_reducible assumption
    | with_reducible apply State.modCore_kept hP
theorem State.promote_kept {P : Property} (hP : Closed P) (s : State) (c : ℕ) (b : ℕ) (slot : ℕ) (srow : ℕ) (nv : Option ℕ) (h0 : Has P s) : Has P (State.promote s c b slot srow nv) := by
  unfold State.promote
  repeat' first
    | with_reducible assumption
    | with_reducible apply State.setTag_kept hP
    | with_reducible apply State.evict_kept hP
    | with_reducible apply State.copyRow_kept hP
    | with_reducible apply State.modCore_kept hP
    | split
theorem State.demote_kept {P : Property} (hP : Closed P) (s : State) (c : ℕ) (b : ℕ) (slot : ℕ) (h0 : Has P s) : Has P (State.demote s c b slot) := by
  unfold State.demote
  repeat' first
    | with_reducible assumption
    | with_reducible apply State.setTag_kept hP
    | with_reducible apply State.evict_kept hP
theorem State.pinTag_kept {P : Property} (hP : Closed P) (s : State) (c : ℕ) (b : ℕ) (slot : ℕ) (v : Bool) (h0 : Has P s) : Has P (State.pinTag s c b slot v) := by
  unfold State.pinTag
  repeat' first
    | with_reducible assumption
    | with_reducible apply State.setTag_kept hP
theorem State.giveBank_kept {P : Property} (hP : Closed P) (s : State) (c : ℕ) (x : ℕ) (b : ℕ) (code : BitVec 16) (h0 : Has P s) : Has P (State.giveBank s c x b code) := by
  unfold State.giveBank
  repeat' first
    | with_reducible assumption
    | with_reducible apply State.schedulePlacement_kept hP
    | with_reducible apply State.wakePorts_kept hP
    | with_reducible apply State.powerBanks_kept hP
    | with_reducible apply State.modCore_kept hP
    | split
    | (dsimp only)
theorem State.invalidate_kept {P : Property} (hP : Closed P) (s : State) (c : ℕ) (v : Word) (h0 : Has P s) : Has P (State.invalidate s c v) := by
  unfold State.invalidate
  repeat' first
    | with_reducible assumption
    | with_reducible apply State.modCluster_kept hP
    | with_reducible apply State.modCtx_kept hP
    | (with_reducible refine has_foldl _ (fun _ _ _ => ?_) _ _ ?_)
theorem State.startClaim_kept {P : Property} (hP : Closed P) (s : State) (c : ℕ) (x : ℕ) (dest : ℕ) (flip : Word) (h0 : Has P s) : Has P (State.startClaim s c x dest flip) := by
  unfold State.startClaim
  repeat' first
    | with_reducible assumption
    | with_reducible apply State.schedule_kept hP
    | with_reducible apply State.setCtx_kept hP
    | split
    | (dsimp only)
theorem State.appendAccess_kept {P : Property} (hP : Closed P) (s : State) (c : ℕ) (x : ℕ) (oc : ℕ) (k : AccessKind) (va : ℕ) (pa : ℕ) (h0 : Has P s) : Has P (State.appendAccess s c x oc k va pa) := by
  unfold State.appendAccess
  repeat' first
    | with_reducible assumption
    | with_reducible apply State.modCtx_kept hP
theorem State.holdEntry_kept {P : Property} (hP : Closed P) (s : State) (c : ℕ) (x : ℕ) (oc : ℕ) (k : AccessKind) (va : ℕ) (pa : ℕ) (h0 : Has P s) : Has P (State.holdEntry s c x oc k va pa) := by
  unfold State.holdEntry
  repeat' first
    | with_reducible assumption
    | with_reducible apply State.modCtx_kept hP
theorem State.orderAccess_kept {P : Property} (hP : Closed P) (s : State) (c : ℕ) (x : ℕ) (k : AccessKind) (h0 : Has P s) : Has P (State.orderAccess s c x k) := by
  unfold State.orderAccess
  repeat' first
    | with_reducible assumption
    | with_reducible apply State.holdEntry_kept hP
    | with_reducible apply State.appendAccess_kept hP
    | split
theorem State.fireRecord_kept {P : Property} (hP : Closed P) (s : State) (c : ℕ) (x : ℕ) (h0 : Has P s) : Has P (State.fireRecord s c x) := by
  unfold State.fireRecord
  repeat' first
    | with_reducible assumption
    | with_reducible apply State.firedRead_kept hP
    | (with_reducible refine has_foldl _ (fun _ _ _ => ?_) _ _ ?_)
theorem State.apply_kept {P : Property} (hP : Closed P) (c : ℕ) (x : ℕ) (s : State) (e : Effect) (h2 : Has P s) : Has P (State.apply c x s e) := by
  unfold State.apply
  repeat' first
    | with_reducible assumption
    | with_reducible apply State.fireRecord_kept hP
    | with_reducible apply State.orderAccess_kept hP
    | with_reducible apply State.holdEntry_kept hP
    | with_reducible apply State.appendAccess_kept hP
    | with_reducible apply State.startClaim_kept hP
    | with_reducible apply State.invalidate_kept hP
    | with_reducible apply State.giveBank_kept hP
    | with_reducible apply State.pinTag_kept hP
    | with_reducible apply State.demote_kept hP
    | with_reducible apply State.promote_kept hP
    | with_reducible apply State.trace_kept hP
    | with_reducible apply State.popPort_kept hP
    | with_reducible apply State.stopPort_kept hP
    | with_reducible apply State.configPort_kept hP
    | with_reducible apply State.chainEffect_kept hP
    | with_reducible apply State.issueCommand_kept hP
    | with_reducible apply State.abandonHeld_kept hP
    | with_reducible apply State.firedRead_kept hP
    | with_reducible apply State.resume_kept hP
    | with_reducible apply State.writeFlatWord_kept hP
    | with_reducible apply State.writeFlat_kept hP
    | with_reducible apply State.scheduleFree_kept hP
    | with_reducible apply State.schedule_kept hP
    | with_reducible apply State.modCtx_kept hP
    | with_reducible apply State.modCore_kept hP
    | split
theorem State.applyAll_kept {P : Property} (hP : Closed P) (c : ℕ) (x : ℕ) (a2 : List (ℕ × Effect)) (a3 : State) (h3 : Has P a3) : Has P (State.applyAll c x a2 a3) := by
  induction a2 generalizing a3
  case nil =>
    unfold State.applyAll
    repeat' first
      | with_reducible assumption
  case cons _ _ ih =>
    unfold State.applyAll
    repeat' first
      | with_reducible apply ih
      | with_reducible assumption
      | with_reducible apply State.apply_kept hP
theorem State.withInjection_kept {P : Property} (hP : Closed P) (s : State) (c : ℕ) (x : ℕ) (pc : ℕ) (effs : List (ℕ × Effect)) (h0 : Has P s) : Has P (State.withInjection s c x pc effs).2 := by
  unfold State.withInjection
  repeat' first
    | with_reducible assumption
    | with_reducible apply State.modCore_kept hP
    | split
    | (dsimp only)
theorem State.withInjection_kept_eq {P : Property} (hP : Closed P) {s : State} {c : ℕ} {x : ℕ} {pc : ℕ} {effs : List (ℕ × Effect)} {t : State} {a : _} (e : (State.withInjection s c x pc effs) = (a, t)) (h0 : Has P s) : Has P t := by
  have := State.withInjection_kept hP s c x pc effs h0
  rwa [e] at this
theorem State.startOut_kept {P : Property} (hP : Closed P) (s : State) (c : ℕ) (x : ℕ) (h0 : Has P s) : Has P (State.startOut s c x) := by
  unfold State.startOut
  repeat' first
    | with_reducible assumption
    | with_reducible apply State.pump_kept hP
    | with_reducible apply State.modCtx_kept hP
theorem State.takeBoundary_kept {P : Property} (hP : Closed P) (s : State) (c : ℕ) (x : ℕ) (h0 : Has P s) : Has P (State.takeBoundary s c x) := by
  unfold State.takeBoundary
  repeat' first
    | with_reducible assumption
    | with_reducible apply State.boundary_kept hP
    | with_reducible apply State.consumeQueue_kept hP
    | with_reducible apply State.modCtx_kept hP
    | split
    | (dsimp only)
theorem State.takeBoundaries_kept {P : Property} (hP : Closed P) (s : State) (cl : ℕ) (h0 : Has P s) : Has P (State.takeBoundaries s cl) := by
  unfold State.takeBoundaries
  repeat' first
    | with_reducible assumption
    | with_reducible apply State.takeBoundary_kept hP
    | (with_reducible refine has_foldl _ (fun _ _ _ => ?_) _ _ ?_)
theorem State.startWatch_kept {P : Property} (hP : Closed P) (s : State) (c : ℕ) (x : ℕ) (w : WaitOn) (h0 : Has P s) : Has P (State.startWatch s c x w) := by
  unfold State.startWatch
  repeat' first
    | with_reducible assumption
    | with_reducible apply State.watch_kept hP
    | with_reducible apply State.modCtx_kept hP
theorem State.endBundle_kept {P : Property} (hP : Closed P) (s : State) (c : ℕ) (x : ℕ) (e : Effect) (h0 : Has P s) : Has P (State.endBundle s c x e) := by
  unfold State.endBundle
  repeat' first
    | with_reducible assumption
    | with_reducible apply State.startWatch_kept hP
    | with_reducible apply State.takeBoundaries_kept hP
    | with_reducible apply State.boundary_kept hP
    | with_reducible apply State.logChunk_kept hP
    | with_reducible apply State.release_kept hP
    | with_reducible apply State.tryRendezvous_kept hP
    | with_reducible apply State.modCtx_kept hP
    | split
theorem State.endAll_kept {P : Property} (hP : Closed P) (c : ℕ) (x : ℕ) (a2 : List (ℕ × Effect)) (a3 : State) (h3 : Has P a3) : Has P (State.endAll c x a2 a3) := by
  induction a2 generalizing a3
  case nil =>
    unfold State.endAll
    repeat' first
      | with_reducible assumption
  case cons _ _ ih =>
    unfold State.endAll
    repeat' first
      | with_reducible apply ih
      | with_reducible assumption
      | with_reducible apply State.endBundle_kept hP
theorem State.commit_kept {P : Property} (hP : Closed P) (s : State) (h0 : Has P s) : Has P (State.commit s) := by
  unfold State.commit
  repeat' first
    | with_reducible assumption
    | with_reducible apply State.endAll_kept hP
    | with_reducible apply State.startOut_kept hP
    | with_reducible apply State.withInjection_kept hP
    | (refine State.withInjection_kept_eq hP (by with_reducible assumption) ?_)
    | with_reducible apply State.applyAll_kept hP
    | with_reducible apply State.endStall_kept hP
    | with_reducible apply State.modCtx_kept hP
theorem State.debugStop_kept {P : Property} (hP : Closed P) (s : State) (c : ℕ) (x : ℕ) (k : ℕ) (tval : Word) (effs0 : List (ℕ × Effect)) (h0 : Has P s) : Has P (State.debugStop s c x k tval effs0) := by
  unfold State.debugStop
  repeat' first
    | with_reducible assumption
    | with_reducible apply State.startOut_kept hP
    | with_reducible apply State.withInjection_kept hP
    | (refine State.withInjection_kept_eq hP (by with_reducible assumption) ?_)
    | with_reducible apply State.applyAll_kept hP
    | with_reducible apply State.raise_kept hP
    | with_reducible apply State.trace_kept hP
    | with_reducible apply State.modCtx_kept hP
theorem State.stopPorts_kept {P : Property} (hP : Closed P) (s : State) (c : ℕ) (cause : Cause) (effs : List (ℕ × Effect)) (h0 : Has P s) : Has P (State.stopPorts s c cause effs) := by
  unfold State.stopPorts
  repeat' first
    | with_reducible assumption
    | with_reducible apply State.modCore_kept hP
theorem State.atTrap_kept {P : Property} (hP : Closed P) (s : State) (c : ℕ) (cause : Cause) (regs : Bool) (effs : List (ℕ × Effect)) (h0 : Has P s) : Has P (State.atTrap s c cause regs effs) := by
  unfold State.atTrap
  repeat' first
    | with_reducible assumption
    | with_reducible apply State.stopPorts_kept hP
    | with_reducible apply State.countMet_kept hP
    | with_reducible apply State.firedRead_kept hP
    | with_reducible apply State.modCore_kept hP
    | (with_reducible refine has_foldl _ (fun _ _ _ => ?_) _ _ ?_)
    | split
theorem State.issue_kept {P : Property} (hP : Closed P) (s : State) (c : ℕ) (x : ℕ) (h0 : Has P s) : Has P (State.issue s c x) := by
  unfold State.issue
  repeat' first
    | with_reducible assumption
    | with_reducible apply State.atTrap_kept hP
    | with_reducible apply State.debugStop_kept hP
    | with_reducible apply State.commit_kept hP
    | with_reducible apply State.evaluate_kept hP
    | with_reducible apply State.detect_kept hP
    | with_reducible apply State.raise_kept hP
    | split
    | (dsimp only)
theorem State.startWalk_kept {P : Property} (hP : Closed P) (s : State) (c : ℕ) (x : ℕ) (va : ℕ) (read : Bool) (write : Bool) (h0 : Has P s) : Has P (State.startWalk s c x va read write) := by
  unfold State.startWalk
  repeat' first
    | with_reducible assumption
    | with_reducible apply State.scheduleFree_kept hP
    | with_reducible apply State.modCtx_kept hP
    | with_reducible apply State.setCluster_kept hP
    | split
    | (dsimp only)
theorem State.prepareOnce_kept {P : Property} (hP : Closed P) (s : State) (c : ℕ) (x : ℕ) (h0 : Has P s) : Has P (State.prepareOnce s c x) := by
  unfold State.prepareOnce
  repeat' first
    | with_reducible assumption
    | with_reducible apply State.startWalk_kept hP
    | with_reducible apply State.issue_kept hP
    | with_reducible apply State.debugStop_kept hP
    | with_reducible apply State.evaluate_kept hP
    | with_reducible apply State.takeEvent_kept hP
    | with_reducible apply State.boundary_kept hP
    | with_reducible apply State.logChunk_kept hP
    | with_reducible apply State.release_kept hP
    | with_reducible apply State.consumeQueue_kept hP
    | with_reducible apply State.modCtx_kept hP
    | split
    | (dsimp only)
theorem State.frontOf_kept {P : Property} (hP : Closed P) (s : State) (c : ℕ) (x : ℕ) (h0 : Has P s) : Has P (State.frontOf s c x) := by
  unfold State.frontOf
  repeat' first
    | with_reducible assumption
    | with_reducible apply State.prepareOnce_kept hP
    | with_reducible apply State.takeBoundary_kept hP
    | with_reducible apply State.tryRetire_kept hP
    | with_reducible apply State.takeEvent_kept hP
    | with_reducible apply State.raise_kept hP
    | with_reducible apply State.flushKnots_kept hP
    | with_reducible apply State.modCtx_kept hP
    | with_reducible apply State.modCore_kept hP
    | split
    | (dsimp only)
theorem State.noteWait_kept {P : Property} (hP : Closed P) (s : State) (c : ℕ) (x : ℕ) (code : ℕ) (on : Option WaitOn) (h0 : Has P s) : Has P (State.noteWait s c x code on) := by
  unfold State.noteWait
  repeat' first
    | with_reducible assumption
    | with_reducible apply State.startWatch_kept hP
    | with_reducible apply State.modCtx_kept hP
    | split
    | (dsimp only)
theorem State.issueSecond_kept {P : Property} (hP : Closed P) (s : State) (c : ℕ) (rest : List ℕ) (used : BitVec 8) (h0 : Has P s) : Has P (State.issueSecond s c rest used).1 := by
  unfold State.issueSecond
  repeat' first
    | with_reducible assumption
    | with_reducible apply State.issue_kept hP
    | split
theorem State.issueSecond_kept_eq {P : Property} (hP : Closed P) {s : State} {c : ℕ} {rest : List ℕ} {used : BitVec 8} {t : State} {a : _} (e : (State.issueSecond s c rest used) = (t, a)) (h0 : Has P s) : Has P t := by
  have := State.issueSecond_kept hP s c rest used h0
  rwa [e] at this
theorem State.noteAll_kept {P : Property} (hP : Closed P) (c : ℕ) (issued : List ℕ) (a2 : List ℕ) (a3 : State) (h3 : Has P a3) : Has P (State.noteAll c issued a2 a3) := by
  induction a2 generalizing a3
  case nil =>
    unfold State.noteAll
    repeat' first
      | with_reducible assumption
  case cons _ _ ih =>
    unfold State.noteAll
    repeat' first
      | with_reducible apply ih
      | with_reducible assumption
      | with_reducible apply State.noteWait_kept hP
      | split
theorem State.issueBundles_kept {P : Property} (hP : Closed P) (s : State) (c : ℕ) (h0 : Has P s) : Has P (State.issueBundles s c) := by
  unfold State.issueBundles
  repeat' first
    | with_reducible assumption
    | with_reducible apply State.noteAll_kept hP
    | with_reducible apply State.issueSecond_kept hP
    | (refine State.issueSecond_kept_eq hP (by with_reducible assumption) ?_)
    | with_reducible apply State.frontOf_kept hP
    | with_reducible apply State.issue_kept hP
    | with_reducible apply State.modCore_kept hP
    | (with_reducible refine has_foldl _ (fun _ _ _ => ?_) _ _ ?_)
    | split
theorem State.retireAll_kept {P : Property} (hP : Closed P) (s : State) (c : ℕ) (h0 : Has P s) : Has P (State.retireAll s c) := by
  unfold State.retireAll
  repeat' first
    | with_reducible assumption
    | with_reducible apply State.tryRetire_kept hP
    | (with_reducible refine has_foldl _ (fun _ _ _ => ?_) _ _ ?_)
    | split
theorem State.noteIdle_kept {P : Property} (hP : Closed P) (s : State) (c : ℕ) (h0 : Has P s) : Has P (State.noteIdle s c) := by
  unfold State.noteIdle
  repeat' first
    | with_reducible assumption
    | with_reducible apply State.modCore_kept hP
theorem State.issueCore_kept {P : Property} (hP : Closed P) (s : State) (c : ℕ) (h0 : Has P s) : Has P (State.issueCore s c) := by
  unfold State.issueCore
  repeat' first
    | with_reducible assumption
    | with_reducible apply State.noteIdle_kept hP
    | with_reducible apply State.retireAll_kept hP
    | with_reducible apply State.issueBundles_kept hP
    | with_reducible apply State.noteAll_kept hP
    | with_reducible apply State.flushTrace_kept hP
    | split
theorem execIssueCycle_kept {P : Property} (hP : Closed P) (core : ℕ) (s : State) (h1 : Has P s) : ResHas P (execIssueCycle core s) := by
  unfold execIssueCycle
  repeat' first
    | with_reducible apply resHas_onCtx
    | with_reducible apply resHas_onCore
    | with_reducible apply resHas_onLayer
    | with_reducible apply resHas_next
    | exact trivial
    | with_reducible assumption
    | with_reducible apply State.issueCore_kept hP
theorem execWatchdogExpiry_kept {P : Property} (hP : Closed P) (core : ℕ) (ctx : ℕ) (s : State) (h2 : Has P s) : ResHas P (execWatchdogExpiry core ctx s) := by
  unfold execWatchdogExpiry
  repeat' first
    | with_reducible apply resHas_onCtx
    | with_reducible apply resHas_onCore
    | with_reducible apply resHas_onLayer
    | with_reducible apply resHas_next
    | exact trivial
    | with_reducible assumption
    | with_reducible apply State.modCtx_kept hP
    | split
theorem execEngineWatchdogExpiry_kept {P : Property} (hP : Closed P) (core : ℕ) (unit : EngUnit) (s : State) (h2 : Has P s) : ResHas P (execEngineWatchdogExpiry core unit s) := by
  unfold execEngineWatchdogExpiry
  repeat' first
    | with_reducible apply resHas_onCtx
    | with_reducible apply resHas_onCore
    | with_reducible apply resHas_onLayer
    | with_reducible apply resHas_next
    | exact trivial
    | with_reducible assumption
    | with_reducible apply State.endDrain_kept hP
    | with_reducible apply State.endRun_kept hP
    | split
theorem State.takeIndex_kept {P : Property} (hP : Closed P) (s : State) (lidx : ℕ) (h0 : Has P s) : Has P (State.takeIndex s lidx).2 := by
  unfold State.takeIndex
  repeat' first
    | with_reducible assumption
    | with_reducible apply State.setLaunch_kept hP
    | split
theorem State.takeIndex_kept_eq {P : Property} (hP : Closed P) {s : State} {lidx : ℕ} {t : State} {a : _} (e : (State.takeIndex s lidx) = (a, t)) (h0 : Has P s) : Has P t := by
  have := State.takeIndex_kept hP s lidx h0
  rwa [e] at this
theorem State.answerClaim_kept {P : Property} (hP : Closed P) (s : State) (c : ℕ) (x : ℕ) (w : ClaimWait) (index : Word) (h0 : Has P s) : Has P (State.answerClaim s c x w index) := by
  unfold State.answerClaim
  repeat' first
    | with_reducible assumption
    | with_reducible apply State.afterAnswer_kept hP
    | with_reducible apply State.setCtx_kept hP
theorem execClaimAnswer_kept {P : Property} (hP : Closed P) (core : ℕ) (ctx : ℕ) (s : State) (h2 : Has P s) : ResHas P (execClaimAnswer core ctx s) := by
  unfold execClaimAnswer
  repeat' first
    | with_reducible apply resHas_onCtx
    | with_reducible apply resHas_onCore
    | with_reducible apply resHas_onLayer
    | with_reducible apply resHas_next
    | exact trivial
    | with_reducible assumption
    | with_reducible apply State.answerClaim_kept hP
    | with_reducible apply State.takeIndex_kept hP
    | (refine State.takeIndex_kept_eq hP (by with_reducible assumption) ?_)
    | with_reducible apply State.replayed_kept hP
    | with_reducible apply State.logEvent_kept hP
    | with_reducible apply State.scheduleFree_kept hP
    | split
    | (dsimp only)
theorem execSnapshotRecordWrite_kept {P : Property} (hP : Closed P) (core : ℕ) (ctx : ℕ) (s : State) (h2 : Has P s) : ResHas P (execSnapshotRecordWrite core ctx s) := by
  unfold execSnapshotRecordWrite
  repeat' first
    | with_reducible apply resHas_onCtx
    | with_reducible apply resHas_onCore
    | with_reducible apply resHas_onLayer
    | with_reducible apply resHas_next
    | exact trivial
    | with_reducible assumption
    | with_reducible apply State.writeRecord_kept hP
    | with_reducible apply State.modCtx_kept hP
    | with_reducible apply State.modCore_kept hP
    | split
theorem execContextRestoreDone_kept {P : Property} (hP : Closed P) (core : ℕ) (ctx : ℕ) (s : State) (h2 : Has P s) : ResHas P (execContextRestoreDone core ctx s) := by
  unfold execContextRestoreDone
  repeat' first
    | with_reducible apply resHas_onCtx
    | with_reducible apply resHas_onCore
    | with_reducible apply resHas_onLayer
    | with_reducible apply resHas_next
    | exact trivial
    | with_reducible assumption
    | with_reducible apply State.trace_kept hP
    | with_reducible apply State.finishRewind_kept hP
    | with_reducible apply State.modCtx_kept hP
    | split
    | (dsimp only)
theorem State.restartSupervisor_kept {P : Property} (hP : Closed P) (s : State) (c : ℕ) (h0 : Has P s) : Has P (State.restartSupervisor s c) := by
  unfold State.restartSupervisor
  repeat' first
    | with_reducible assumption
    | with_reducible apply State.openSegment_kept hP
    | with_reducible apply State.modCore_kept hP
theorem execSupervisorFault_kept {P : Property} (hP : Closed P) (core : ℕ) (s : State) (h1 : Has P s) : ResHas P (execSupervisorFault core s) := by
  unfold execSupervisorFault
  repeat' first
    | with_reducible apply resHas_onCtx
    | with_reducible apply resHas_onCore
    | with_reducible apply resHas_onLayer
    | with_reducible apply resHas_next
    | exact trivial
    | with_reducible assumption
    | with_reducible apply State.restartSupervisor_kept hP
    | with_reducible apply State.modCore_kept hP
    | split
theorem ownerWrite_kept {P : Property} (hP : Closed P) (host : ℕ) (s : State) (t : State) (h1 : Has P s) (h2 : Has P t) : ResHas P (ownerWrite host s t) := by
  unfold ownerWrite
  repeat' first
    | with_reducible apply resHas_onCtx
    | with_reducible apply resHas_onCore
    | with_reducible apply resHas_onLayer
    | with_reducible apply resHas_next
    | exact trivial
    | with_reducible assumption
    | with_reducible apply State.count_kept hP
    | split
theorem execLaunchSlotWrite_kept {P : Property} (hP : Closed P) (host : ℕ) (queue : ℕ) (offset : ℕ) (data : List Byte) (s : State) (h4 : Has P s) : ResHas P (execLaunchSlotWrite host queue offset data s) := by
  unfold execLaunchSlotWrite
  repeat' first
    | with_reducible apply resHas_onCtx
    | with_reducible apply resHas_onCore
    | with_reducible apply resHas_onLayer
    | with_reducible apply resHas_next
    | exact trivial
    | with_reducible assumption
    | with_reducible apply ownerWrite_kept hP
    | with_reducible apply State.setQueue_kept hP
    | exact fun hq => ⟨hq.1, hq.2⟩
    | exact QueueOk.stage _ _
    | exact QueueOk.commit _ _
    | exact QueueOk.drop _
    | split
theorem execLaunchCommit_kept {P : Property} (hP : Closed P) (host : ℕ) (queue : ℕ) (data : List Byte) (s : State) (h3 : Has P s) : ResHas P (execLaunchCommit host queue data s) := by
  unfold execLaunchCommit
  repeat' first
    | with_reducible apply resHas_onCtx
    | with_reducible apply resHas_onCore
    | with_reducible apply resHas_onLayer
    | with_reducible apply resHas_next
    | exact trivial
    | with_reducible assumption
    | with_reducible apply ownerWrite_kept hP
    | with_reducible apply State.schedulePlacement_kept hP
    | with_reducible apply State.setQueue_kept hP
    | exact fun hq => ⟨hq.1, hq.2⟩
    | exact QueueOk.stage _ _
    | exact QueueOk.commit _ _
    | exact QueueOk.drop _
    | split
theorem State.statusRead_kept {P : Property} (hP : Closed P) (offset : ℕ) (len : ℕ) (s : State) (q : ℕ) (h2 : Has P s) : Has P (State.statusRead offset len s q) := by
  unfold State.statusRead
  repeat' first
    | with_reducible assumption
    | with_reducible apply State.setQueue_kept hP
    | exact fun hq => ⟨hq.1, hq.2⟩
    | exact QueueOk.stage _ _
    | exact QueueOk.commit _ _
    | exact QueueOk.drop _
    | split
    | (dsimp only)
theorem execQueueStatusRead_kept {P : Property} (hP : Closed P) (host : ℕ) (read : RegionRead) (s : State) (h2 : Has P s) : ResHas P (execQueueStatusRead host read s) := by
  unfold execQueueStatusRead
  repeat' first
    | with_reducible apply resHas_onCtx
    | with_reducible apply resHas_onCore
    | with_reducible apply resHas_onLayer
    | with_reducible apply resHas_next
    | exact trivial
    | with_reducible assumption
    | with_reducible apply State.statusRead_kept hP
    | (with_reducible refine has_foldl _ (fun _ _ _ => ?_) _ _ ?_)
    | split
theorem execEventSet_kept {P : Property} (hP : Closed P) (host : ℕ) (part : ℕ) (bits : BitVec 4096) (s : State) (h3 : Has P s) : ResHas P (execEventSet host part bits s) := by
  unfold execEventSet
  repeat' first
    | with_reducible apply resHas_onCtx
    | with_reducible apply resHas_onCore
    | with_reducible apply resHas_onLayer
    | with_reducible apply resHas_next
    | exact trivial
    | with_reducible assumption
    | with_reducible apply ownerWrite_kept hP
    | with_reducible apply State.schedulePlacement_kept hP
    | with_reducible apply State.setPart_kept hP
    | split
theorem execEventClear_kept {P : Property} (hP : Closed P) (host : ℕ) (part : ℕ) (bits : BitVec 4096) (s : State) (h3 : Has P s) : ResHas P (execEventClear host part bits s) := by
  unfold execEventClear
  repeat' first
    | with_reducible apply resHas_onCtx
    | with_reducible apply resHas_onCore
    | with_reducible apply resHas_onLayer
    | with_reducible apply resHas_next
    | exact trivial
    | with_reducible assumption
    | with_reducible apply ownerWrite_kept hP
    | with_reducible apply State.schedulePlacement_kept hP
    | with_reducible apply State.setPart_kept hP
    | split
theorem State.loadCode_kept {P : Property} (hP : Closed P) (s : State) (part : ℕ) (c : ℕ) (n : Need) (image : ℕ) (h0 : Has P s) : Has P (State.loadCode s part c n image) := by
  unfold State.loadCode
  repeat' first
    | with_reducible assumption
    | with_reducible apply State.modCore_kept hP
    | with_reducible apply hP.store
    | with_reducible apply hP.clear
    | (with_reducible refine has_foldl _ (fun _ _ _ => ?_) _ _ ?_)
    | split
theorem State.takeBank_kept {P : Property} (hP : Closed P) (c : ℕ) (x : ℕ) (launch : ℕ) (s : State) (b : ℕ) (h3 : Has P s) : Has P (State.takeBank c x launch s b) := by
  unfold State.takeBank
  repeat' first
    | with_reducible assumption
    | with_reducible apply State.modCore_kept hP
    | with_reducible apply hP.clear
theorem State.loadData_kept {P : Property} (hP : Closed P) (s : State) (part : ℕ) (c : ℕ) (n : Need) (h0 : Has P s) : Has P (State.loadData s part c n) := by
  unfold State.loadData
  repeat' first
    | with_reducible assumption
    | with_reducible apply State.storeLine_kept hP
    | (with_reducible refine has_foldl _ (fun _ _ _ => ?_) _ _ ?_)
    | split
    | (dsimp only)
theorem State.startCore_kept {P : Property} (hP : Closed P) (s : State) (part : ℕ) (c : ℕ) (image : ℕ) (l : Launch) (n : Need) (h0 : Has P s) : Has P (State.startCore s part c image l n) := by
  unfold State.startCore
  repeat' first
    | with_reducible assumption
    | with_reducible apply State.loadData_kept hP
    | with_reducible apply State.takeBank_kept hP
    | with_reducible apply State.loadCode_kept hP
    | with_reducible apply State.wakeCore_kept hP
    | with_reducible apply State.openSegment_kept hP
    | with_reducible apply State.modCluster_kept hP
    | with_reducible apply State.modCore_kept hP
    | (with_reducible refine has_foldl _ (fun _ _ _ => ?_) _ _ ?_)
    | split
theorem State.takeLidx_kept {P : Property} (hP : Closed P) (s : State) (queue : ℕ) (h0 : Has P s) : Has P (State.takeLidx s queue).2 := by
  unfold State.takeLidx
  repeat' first
    | with_reducible assumption
    | split
theorem State.takeLidx_kept_eq {P : Property} (hP : Closed P) {s : State} {queue : ℕ} {t : State} {a : _} (e : (State.takeLidx s queue) = (a, t)) (h0 : Has P s) : Has P t := by
  have := State.takeLidx_kept hP s queue h0
  rwa [e] at this
theorem State.dropHead_kept {P : Property} (hP : Closed P) (s : State) (queue : ℕ) (h0 : Has P s) : Has P (State.dropHead s queue) := by
  unfold State.dropHead
  repeat' first
    | with_reducible assumption
    | with_reducible apply State.setQueue_kept hP
    | exact fun hq => ⟨hq.1, hq.2⟩
    | exact QueueOk.stage _ _
    | exact QueueOk.commit _ _
    | exact QueueOk.drop _
theorem State.writeArg_kept {P : Property} (hP : Closed P) (s : State) (part : ℕ) (v : Memory) (h0 : Has P s) : Has P (State.writeArg s part v) := by
  unfold State.writeArg
  repeat' first
    | with_reducible assumption
    | with_reducible apply State.performAt_kept hP
    | split
theorem State.place_kept {P : Property} (hP : Closed P) (s : State) (queue : ℕ) (v : Memory) (ns : List Need) (m : List (ℕ × ℕ)) (h0 : Has P s) : Has P (State.place s queue v ns m) := by
  unfold State.place
  repeat' first
    | with_reducible assumption
    | with_reducible apply State.writeArg_kept hP
    | with_reducible apply State.dropHead_kept hP
    | with_reducible apply State.takeLidx_kept hP
    | (refine State.takeLidx_kept_eq hP (by with_reducible assumption) ?_)
    | with_reducible apply State.startCore_kept hP
    | (with_reducible refine has_foldl _ (fun _ _ _ => ?_) _ _ ?_)
theorem State.reject_kept {P : Property} (hP : Closed P) (s : State) (queue : ℕ) (v : Memory) (rcode : ℕ) (h0 : Has P s) : Has P (State.reject s queue v rcode) := by
  unfold State.reject
  repeat' first
    | with_reducible assumption
    | with_reducible apply State.dropHead_kept hP
    | with_reducible apply State.takeLidx_kept hP
    | (refine State.takeLidx_kept_eq hP (by with_reducible assumption) ?_)
    | with_reducible apply State.scheduleFree_kept hP
theorem State.preempt_kept {P : Property} (hP : Closed P) (lidx : ℕ) (s : State) (victim : ℕ) (h1 : Has P s) : Has P (State.preempt lidx s victim) := by
  unfold State.preempt
  repeat' first
    | with_reducible assumption
    | with_reducible apply State.modEvents_kept hP
    | (with_reducible refine has_foldl _ (fun _ _ _ => ?_) _ _ ?_)
    | split
theorem State.startPreemption_kept {P : Property} (hP : Closed P) (s : State) (queue : ℕ) (v : Memory) (ns : List Need) (h0 : Has P s) : Has P (State.startPreemption s queue v ns) := by
  unfold State.startPreemption
  repeat' first
    | with_reducible assumption
    | with_reducible apply State.preempt_kept hP
    | (with_reducible refine has_foldl _ (fun _ _ _ => ?_) _ _ ?_)
    | split
    | (dsimp only)
theorem State.powerNeeds_kept {P : Property} (hP : Closed P) (s : State) (m : List (Nat × Nat)) (ns : List Need) (h : Has P s) :
    Has P (s.powerNeeds m ns) :=
  has_foldl _ (fun _ _ ht => has_foldl _ (fun _ _ hl => State.powerLayer_kept hP _ _ _ hl) _ _ ht) _ _ h
theorem State.leftQueue_kept {P : Property} (hP : Closed P) (s : State) (q : ℕ) (h0 : Has P s) : Has P (State.leftQueue s q) := by
  unfold State.leftQueue
  repeat' first
    | with_reducible assumption
    | with_reducible apply State.schedulePlacement_kept hP
    | split
    | (dsimp only)
theorem State.lookAt_kept {P : Property} (hP : Closed P) (s : State) (q : Nat) (v : Memory) (h : Has P s) (t : State) :
    (s.lookAt q v = .rejected t → Has P t) ∧ (s.lookAt q v = .placed t → Has P t) ∧ (s.lookAt q v = .waits t → Has P t) := by
  have hw : ∀ m ns, Has P (s.powerNeeds m ns) := fun m ns => State.powerNeeds_kept hP s m ns h
  have hr : ∀ rc, Has P (s.reject q v rc) := fun rc => State.reject_kept hP _ _ _ _ h
  have hl : ∀ ns m, Has P (s.place q v ns m) := fun ns m => State.place_kept hP _ _ _ _ _ h
  have hp : ∀ ns, Has P (if vecPrio v = 3 then s.startPreemption q v ns else s) := fun ns => by
    split
    · exact State.startPreemption_kept hP _ _ _ _ h
    · exact h
  unfold State.lookAt
  dsimp only
  split
  · have hx := hr (s.rejectCode q v)
    generalize s.reject q v _ = x at *
    refine ⟨?_, ?_, ?_⟩ <;> intro e <;> cases e
    exact hx
  · split
    · refine ⟨?_, ?_, ?_⟩ <;> intro e <;> cases e
      exact h
    · next ns _ =>
      split
      · next m _ =>
        have hx := hl ns m
        have hy := hw m ns
        generalize s.place q v ns m = x at *
        generalize s.powerNeeds m ns = y at *
        split <;> refine ⟨?_, ?_, ?_⟩ <;> intro e <;> cases e
        · exact hx
        · exact hy
      · have hx := hp ns
        generalize (if vecPrio v = 3 then s.startPreemption q v ns else s) = x at *
        refine ⟨?_, ?_, ?_⟩ <;> intro e <;> cases e
        exact hx
theorem State.lookAll_kept {P : Property} (hP : Closed P) (prio : Nat) (qs : List Nat) (s : State) (h : Has P s) :
    Has P (State.lookAll prio qs s) := by
  induction qs generalizing s with
  | nil => exact h
  | cons q qs ih =>
    unfold State.lookAll
    split
    · exact ih _ h
    · split
      · exact ih _ h
      · split
        · next t e => exact ih _ (State.leftQueue_kept hP _ _ ((State.lookAt_kept hP _ _ _ h t).1 e))
        · next t e => exact ih _ (State.leftQueue_kept hP _ _ ((State.lookAt_kept hP _ _ _ h t).2.1 e))
        · next t e =>
          apply ih
          have ht := (State.lookAt_kept hP _ _ _ h t).2.2 e
          split
          · exact ht
          · exact ht
theorem execLaunchPlacement_kept {P : Property} (hP : Closed P) (s : State) (h0 : Has P s) : ResHas P (execLaunchPlacement s) := by
  unfold execLaunchPlacement
  repeat' first
    | with_reducible apply resHas_onCtx
    | with_reducible apply resHas_onCore
    | with_reducible apply resHas_onLayer
    | with_reducible apply resHas_next
    | exact trivial
    | with_reducible assumption
    | with_reducible apply State.lookAll_kept hP
    | (with_reducible refine has_foldl _ (fun _ _ _ => ?_) _ _ ?_)
theorem State.writeCompletion_kept {P : Property} (hP : Closed P) (s : State) (l : Launch) (h0 : Has P s) : Has P (State.writeCompletion s l) := by
  unfold State.writeCompletion
  repeat' first
    | with_reducible assumption
    | with_reducible apply State.performAt_kept hP
    | with_reducible apply State.setQueue_kept hP
    | exact fun hq => ⟨hq.1, hq.2⟩
    | exact QueueOk.stage _ _
    | exact QueueOk.commit _ _
    | exact QueueOk.drop _
    | split
theorem State.endReservations_kept {P : Property} (hP : Closed P) (s : State) (l : Launch) (h0 : Has P s) : Has P (State.endReservations s l) := by
  unfold State.endReservations
  repeat' first
    | with_reducible assumption
    | with_reducible apply State.modCluster_kept hP
    | with_reducible apply State.modCore_kept hP
    | (with_reducible refine has_foldl _ (fun _ _ _ => ?_) _ _ ?_)
theorem execLaunchCompletion_kept {P : Property} (hP : Closed P) (lidx : ℕ) (s : State) (h1 : Has P s) : ResHas P (execLaunchCompletion lidx s) := by
  unfold execLaunchCompletion
  repeat' first
    | with_reducible apply resHas_onCtx
    | with_reducible apply resHas_onCore
    | with_reducible apply resHas_onLayer
    | with_reducible apply resHas_next
    | exact trivial
    | with_reducible assumption
    | with_reducible apply State.endReservations_kept hP
    | with_reducible apply State.writeCompletion_kept hP
    | with_reducible apply State.schedulePlacement_kept hP
    | with_reducible apply State.setPart_kept hP
    | split
theorem State.answer_kept {P : Property} (hP : Closed P) (s : State) (host : ℕ) (r : Reply) (h0 : Has P s) : Has P (State.answer s host r) := by
  unfold State.answer
  repeat' first
    | with_reducible assumption
theorem mailbox_kept {P : Property} (hP : Closed P) (host : ℕ) (s : State) (t : State) (h1 : Has P s) (h2 : Has P t) : ResHas P (mailbox host s t) := by
  unfold mailbox
  repeat' first
    | with_reducible apply resHas_onCtx
    | with_reducible apply resHas_onCore
    | with_reducible apply resHas_onLayer
    | with_reducible apply resHas_next
    | exact trivial
    | with_reducible assumption
    | with_reducible apply State.answer_kept hP
    | split
theorem ownerMail_kept {P : Property} (hP : Closed P) (host : ℕ) (s : State) (t : State) (h1 : Has P s) (h2 : Has P t) : ResHas P (ownerMail host s t) := by
  unfold ownerMail
  repeat' first
    | with_reducible apply resHas_onCtx
    | with_reducible apply resHas_onCore
    | with_reducible apply resHas_onLayer
    | with_reducible apply resHas_next
    | exact trivial
    | with_reducible assumption
    | with_reducible apply mailbox_kept hP
    | with_reducible apply State.count_kept hP
    | split
theorem execSupmsg_kept {P : Property} (hP : Closed P) (host : ℕ) (core : ℕ) (value : Word) (s : State) (h3 : Has P s) : ResHas P (execSupmsg host core value s) := by
  unfold execSupmsg
  repeat' first
    | with_reducible apply resHas_onCtx
    | with_reducible apply resHas_onCore
    | with_reducible apply resHas_onLayer
    | with_reducible apply resHas_next
    | exact trivial
    | with_reducible assumption
    | with_reducible apply ownerMail_kept hP
    | with_reducible apply State.answer_kept hP
    | with_reducible apply State.wakeCore_kept hP
    | with_reducible apply State.modCore_kept hP
    | split
theorem execAttestationRequest_kept {P : Property} (hP : Closed P) (host : ℕ) (nonce : BitVec 384) (s : State) (h2 : Has P s) : ResHas P (execAttestationRequest host nonce s) := by
  unfold execAttestationRequest
  repeat' first
    | with_reducible apply resHas_onCtx
    | with_reducible apply resHas_onCore
    | with_reducible apply resHas_onLayer
    | with_reducible apply resHas_next
    | exact trivial
    | with_reducible assumption
    | with_reducible apply mailbox_kept hP
    | with_reducible apply State.answer_kept hP
theorem execKeyInstall_kept {P : Property} (hP : Closed P) (host : ℕ) (link : ℕ) (otag : BitVec 8) (key : BitVec 8) (wrapped : BitVec 512) (s : State) (h5 : Has P s) : ResHas P (execKeyInstall host link otag key wrapped s) := by
  unfold execKeyInstall
  repeat' first
    | with_reducible apply resHas_onCtx
    | with_reducible apply resHas_onCore
    | with_reducible apply resHas_onLayer
    | with_reducible apply resHas_next
    | exact trivial
    | with_reducible assumption
    | with_reducible apply ownerMail_kept hP
    | with_reducible apply State.answer_kept hP
    | with_reducible apply State.setLink_kept hP
    | split
theorem State.changePart_kept {P : Property} (hP : Closed P) (s : State) (host : ℕ) (a2 : PartChange) (h0 : Has P s) : Has P (State.changePart s host a2) := by
  unfold State.changePart
  repeat' first
    | with_reducible assumption
    | with_reducible apply State.answer_kept hP
    | with_reducible apply State.schedulePlacement_kept hP
    | with_reducible apply State.setPart_kept hP
    | with_reducible apply State.setQueue_kept hP
    | with_reducible apply State.modCluster_kept hP
    | exact fun hq => ⟨hq.1, hq.2⟩
    | exact QueueOk.stage _ _
    | exact QueueOk.commit _ _
    | exact QueueOk.drop _
    | split
theorem execPartitionConfig_kept {P : Property} (hP : Closed P) (host : ℕ) (change : PartChange) (s : State) (h2 : Has P s) : ResHas P (execPartitionConfig host change s) := by
  unfold execPartitionConfig
  repeat' first
    | with_reducible apply resHas_onCtx
    | with_reducible apply resHas_onCore
    | with_reducible apply resHas_onLayer
    | with_reducible apply resHas_next
    | exact trivial
    | with_reducible assumption
    | with_reducible apply State.changePart_kept hP
    | with_reducible apply ownerMail_kept hP
    | split
theorem execCthrWrite_kept {P : Property} (hP : Closed P) (host : ℕ) (cluster : ℕ) (v : BitVec 8) (s : State) (h3 : Has P s) : ResHas P (execCthrWrite host cluster v s) := by
  unfold execCthrWrite
  repeat' first
    | with_reducible apply resHas_onCtx
    | with_reducible apply resHas_onCore
    | with_reducible apply resHas_onLayer
    | with_reducible apply resHas_next
    | exact trivial
    | with_reducible assumption
    | with_reducible apply ownerMail_kept hP
    | with_reducible apply State.answer_kept hP
    | with_reducible apply State.schedulePlacement_kept hP
    | with_reducible apply State.modCluster_kept hP
    | split
theorem State.cutChannel_kept {P : Property} (hP : Closed P) (s : State) (c : ℕ) (ch : ℕ) (addr : ℕ) (keepWrite : OutLine → Bool) (keepRead : Fetch → Bool) (h0 : Has P s) : Has P (State.cutChannel s c ch addr keepWrite keepRead) := by
  unfold State.cutChannel
  repeat' first
    | with_reducible assumption
    | with_reducible apply State.channelGoesOn_kept hP
    | with_reducible apply State.setChan_kept hP
    | split
theorem State.cutWrite_kept {P : Property} (hP : Closed P) (s : State) (g : GWrite) (h0 : Has P s) : Has P (State.cutWrite s g) := by
  unfold State.cutWrite
  repeat' first
    | with_reducible assumption
    | with_reducible apply State.cutChannel_kept hP
    | with_reducible apply State.finishAccess_kept hP
    | split
theorem State.cutReads_kept {P : Property} (hP : Closed P) (hit : ℕ → Bool) (s : State) (c : ℕ) (ch : ℕ) (h1 : Has P s) : Has P (State.cutReads hit s c ch) := by
  unfold State.cutReads
  repeat' first
    | with_reducible assumption
    | with_reducible apply State.cutChannel_kept hP
    | split
    | (dsimp only)
theorem State.cutLoads_kept {P : Property} (hP : Closed P) (hit : ℕ → Bool) (s : State) (c : ℕ) (x : ℕ) (h1 : Has P s) : Has P (State.cutLoads hit s c x) := by
  unfold State.cutLoads
  repeat' first
    | with_reducible assumption
    | with_reducible apply State.schedule_kept hP
    | (with_reducible refine has_foldl _ (fun _ _ _ => ?_) _ _ ?_)
theorem State.cutUpdates_kept {P : Property} (hP : Closed P) (hit : ℕ → Bool) (s : State) (c : ℕ) (h1 : Has P s) : Has P (State.cutUpdates hit s c) := by
  unfold State.cutUpdates
  repeat' first
    | with_reducible assumption
    | with_reducible apply State.schedule_kept hP
    | with_reducible apply State.modCore_kept hP
    | split
theorem State.cutOff_kept {P : Property} (hP : Closed P) (hit : ℕ → Bool) (s : State) (h1 : Has P s) : Has P (State.cutOff hit s) := by
  unfold State.cutOff
  repeat' first
    | with_reducible assumption
    | with_reducible apply State.cutUpdates_kept hP
    | with_reducible apply State.cutLoads_kept hP
    | with_reducible apply State.cutReads_kept hP
    | with_reducible apply State.cutWrite_kept hP
    | (with_reducible refine has_foldl _ (fun _ _ _ => ?_) _ _ ?_)
theorem execWindowOpen_kept {P : Property} (hP : Closed P) (host : ℕ) (window : ℕ) (word0 : Word) (base : Word) (size : Word) (s : State) (h5 : Has P s) : ResHas P (execWindowOpen host window word0 base size s) := by
  unfold execWindowOpen
  repeat' first
    | with_reducible apply resHas_onCtx
    | with_reducible apply resHas_onCore
    | with_reducible apply resHas_onLayer
    | with_reducible apply resHas_next
    | exact trivial
    | with_reducible assumption
    | with_reducible apply ownerMail_kept hP
    | with_reducible apply State.answer_kept hP
    | with_reducible apply State.setWindow_kept hP
    | split
theorem execWindowRevoke_kept {P : Property} (hP : Closed P) (host : ℕ) (window : ℕ) (s : State) (h2 : Has P s) : ResHas P (execWindowRevoke host window s) := by
  unfold execWindowRevoke
  repeat' first
    | with_reducible apply resHas_onCtx
    | with_reducible apply resHas_onCore
    | with_reducible apply resHas_onLayer
    | with_reducible apply resHas_next
    | exact trivial
    | with_reducible assumption
    | with_reducible apply State.cutOff_kept hP
    | with_reducible apply ownerMail_kept hP
    | with_reducible apply State.answer_kept hP
    | with_reducible apply State.setWindow_kept hP
    | split
theorem execWindowFree_kept {P : Property} (hP : Closed P) (host : ℕ) (window : ℕ) (s : State) (h2 : Has P s) : ResHas P (execWindowFree host window s) := by
  unfold execWindowFree
  repeat' first
    | with_reducible apply resHas_onCtx
    | with_reducible apply resHas_onCore
    | with_reducible apply resHas_onLayer
    | with_reducible apply resHas_next
    | exact trivial
    | with_reducible assumption
    | with_reducible apply ownerMail_kept hP
    | with_reducible apply State.answer_kept hP
    | with_reducible apply State.setWindow_kept hP
    | split
theorem State.answerPeer_kept {P : Property} (hP : Closed P) (s : State) (otag : BitVec 8) (key : BitVec 8) (src : ℕ) (r : Reply) (h0 : Has P s) : Has P (State.answerPeer s otag key src r) := by
  unfold State.answerPeer
  repeat' first
    | with_reducible assumption
    | with_reducible apply State.answer_kept hP
    | with_reducible apply State.sendPacket_kept hP
    | split
theorem execInboundRequest_kept {P : Property} (hP : Closed P) (otag : BitVec 8) (key : BitVec 8) (addr : ℕ) (op : InboundOp) (src : ℕ) (s : State) (h5 : Has P s) : ResHas P (execInboundRequest otag key addr op src s) := by
  unfold execInboundRequest
  repeat' first
    | with_reducible apply resHas_onCtx
    | with_reducible apply resHas_onCore
    | with_reducible apply resHas_onLayer
    | with_reducible apply resHas_next
    | exact trivial
    | with_reducible assumption
    | with_reducible apply State.answerPeer_kept hP
    | with_reducible apply State.performBytes_kept hP
    | with_reducible apply State.count_kept hP
    | split
theorem execHostMemoryAccess_kept {P : Property} (hP : Closed P) (host : ℕ) (addr : ℕ) (op : HostOp) (s : State) (h3 : Has P s) : ResHas P (execHostMemoryAccess host addr op s) := by
  unfold execHostMemoryAccess
  repeat' first
    | with_reducible apply resHas_onCtx
    | with_reducible apply resHas_onCore
    | with_reducible apply resHas_onLayer
    | with_reducible apply resHas_next
    | exact trivial
    | with_reducible assumption
    | with_reducible apply State.answer_kept hP
    | with_reducible apply State.performBytes_kept hP
    | split
theorem State.cutPeers_kept {P : Property} (hP : Closed P) (s : State) (lost : ℕ → Bool) (h0 : Has P s) : Has P (State.cutPeers s lost) := by
  unfold State.cutPeers
  repeat' first
    | with_reducible assumption
    | with_reducible apply State.cutOff_kept hP
theorem State.changeLink_kept {P : Property} (hP : Closed P) (s : State) (n : ℕ) (l : Link) (h0 : Has P s) : Has P (State.changeLink s n l) := by
  unfold State.changeLink
  repeat' first
    | with_reducible assumption
    | with_reducible apply State.cutPeers_kept hP
    | with_reducible apply State.performBytes_kept hP
    | with_reducible apply State.setLink_kept hP
    | split
    | (dsimp only)
theorem State.retrain_kept {P : Property} (hP : Closed P) (s : State) (n : ℕ) (h0 : Has P s) : Has P (State.retrain s n) := by
  unfold State.retrain
  repeat' first
    | with_reducible assumption
    | with_reducible apply State.changeLink_kept hP
    | split
    | (dsimp only)
theorem execLinkRetrain_kept {P : Property} (hP : Closed P) (link : ℕ) (s : State) (h1 : Has P s) : ResHas P (execLinkRetrain link s) := by
  unfold execLinkRetrain
  repeat' first
    | with_reducible apply resHas_onCtx
    | with_reducible apply resHas_onCore
    | with_reducible apply resHas_onLayer
    | with_reducible apply resHas_next
    | exact trivial
    | with_reducible assumption
    | with_reducible apply State.retrain_kept hP
    | split
theorem execLinkTrainingComplete_kept {P : Property} (hP : Closed P) (link : ℕ) (s : State) (h1 : Has P s) : ResHas P (execLinkTrainingComplete link s) := by
  unfold execLinkTrainingComplete
  repeat' first
    | with_reducible apply resHas_onCtx
    | with_reducible apply resHas_onCore
    | with_reducible apply resHas_onLayer
    | with_reducible apply resHas_next
    | exact trivial
    | with_reducible assumption
    | with_reducible apply State.changeLink_kept hP
    | split
    | (dsimp only)
theorem execLinkLaneLoss_kept {P : Property} (hP : Closed P) (link : ℕ) (s : State) (h1 : Has P s) : ResHas P (execLinkLaneLoss link s) := by
  unfold execLinkLaneLoss
  repeat' first
    | with_reducible apply resHas_onCtx
    | with_reducible apply resHas_onCore
    | with_reducible apply resHas_onLayer
    | with_reducible apply resHas_next
    | exact trivial
    | with_reducible assumption
    | with_reducible apply State.changeLink_kept hP
    | split
theorem State.forward_kept {P : Property} (hP : Closed P) (s : State) (p : Packet) (h0 : Has P s) : Has P (State.forward s p) := by
  unfold State.forward
  repeat' first
    | with_reducible assumption
    | with_reducible apply State.sendPacket_kept hP
    | split
theorem execFlitReceive_kept {P : Property} (hP : Closed P) (link : ℕ) (flit : Flit) (s : State) (h2 : Has P s) : ResHas P (execFlitReceive link flit s) := by
  unfold execFlitReceive
  repeat' first
    | with_reducible apply resHas_onCtx
    | with_reducible apply resHas_onCore
    | with_reducible apply resHas_onLayer
    | with_reducible apply resHas_next
    | exact trivial
    | with_reducible assumption
    | with_reducible apply State.forward_kept hP
    | with_reducible apply State.retrain_kept hP
    | with_reducible apply State.count_kept hP
    | with_reducible apply State.setLink_kept hP
    | split
    | (dsimp only)
theorem State.setBoot_kept {P : Property} (hP : Closed P) (s : State) (b : Boot) (h0 : Has P s) : Has P (State.setBoot s b) := by
  unfold State.setBoot
  repeat' first
    | with_reducible assumption
theorem State.bootFails_kept {P : Property} (hP : Closed P) (s : State) (err : BitVec 8) (stage : ℕ) (h0 : Has P s) : Has P (State.bootFails s err stage) := by
  unfold State.bootFails
  repeat' first
    | with_reducible assumption
    | with_reducible apply State.setBoot_kept hP
theorem State.bootStage_kept {P : Property} (hP : Closed P) (s : State) (stage : ℕ) (h0 : Has P s) : Has P (State.bootStage s stage) := by
  unfold State.bootStage
  repeat' first
    | with_reducible assumption
    | with_reducible apply State.setBoot_kept hP
theorem State.writeBoot_kept {P : Property} (hP : Closed P) (s : State) (offset : ℕ) (v : Word) (h0 : Has P s) : Has P (State.writeBoot s offset v) := by
  unfold State.writeBoot
  repeat' first
    | with_reducible assumption
    | with_reducible apply State.bootStage_kept hP
    | with_reducible apply State.bootFails_kept hP
    | with_reducible apply State.setBoot_kept hP
    | split
theorem execBootGo_kept {P : Property} (hP : Closed P) (host : ℕ) (offset : ℕ) (value : Word) (s : State) (h3 : Has P s) : ResHas P (execBootGo host offset value s) := by
  unfold execBootGo
  repeat' first
    | with_reducible apply resHas_onCtx
    | with_reducible apply resHas_onCore
    | with_reducible apply resHas_onLayer
    | with_reducible apply resHas_next
    | exact trivial
    | with_reducible assumption
    | with_reducible apply State.writeBoot_kept hP
    | with_reducible apply State.count_kept hP
    | split
theorem execBootFetch_kept {P : Property} (hP : Closed P) (ok : Bool) (s : State) (h1 : Has P s) : ResHas P (execBootFetch ok s) := by
  unfold execBootFetch
  repeat' first
    | with_reducible apply resHas_onCtx
    | with_reducible apply resHas_onCore
    | with_reducible apply resHas_onLayer
    | with_reducible apply resHas_next
    | exact trivial
    | with_reducible assumption
    | with_reducible apply State.bootFails_kept hP
    | with_reducible apply State.setBoot_kept hP
    | with_reducible apply State.scheduleFree_kept hP
    | split
theorem execBootVerify_kept {P : Property} (hP : Closed P) (s : State) (h0 : Has P s) : ResHas P (execBootVerify s) := by
  unfold execBootVerify
  repeat' first
    | with_reducible apply resHas_onCtx
    | with_reducible apply resHas_onCore
    | with_reducible apply resHas_onLayer
    | with_reducible apply resHas_next
    | exact trivial
    | with_reducible assumption
    | with_reducible apply State.bootFails_kept hP
    | with_reducible apply State.setBoot_kept hP
    | split
    | (dsimp only)
theorem execBootMarchTest_kept {P : Property} (hP : Closed P) (fatal : Bool) (failing : List RepairEntry) (beyond : List ℕ) (s : State) (h3 : Has P s) : ResHas P (execBootMarchTest fatal failing beyond s) := by
  unfold execBootMarchTest
  repeat' first
    | with_reducible apply resHas_onCtx
    | with_reducible apply resHas_onCore
    | with_reducible apply resHas_onLayer
    | with_reducible apply resHas_next
    | exact trivial
    | with_reducible assumption
    | with_reducible apply State.bootStage_kept hP
    | with_reducible apply State.bootFails_kept hP
    | with_reducible apply State.count_kept hP
    | with_reducible apply State.modCore_kept hP
    | (with_reducible refine has_foldl _ (fun _ _ _ => ?_) _ _ ?_)
    | split
theorem State.linkUp_kept {P : Property} (hP : Closed P) (s : State) (u : LinkUp) (h0 : Has P s) : Has P (State.linkUp s u) := by
  unfold State.linkUp
  repeat' first
    | with_reducible assumption
    | with_reducible apply State.setLink_kept hP
theorem execBootTraining_kept {P : Property} (hP : Closed P) (hbmOk : Bool) (links : List LinkUp) (s : State) (h2 : Has P s) : ResHas P (execBootTraining hbmOk links s) := by
  unfold execBootTraining
  repeat' first
    | with_reducible apply resHas_onCtx
    | with_reducible apply resHas_onCore
    | with_reducible apply resHas_onLayer
    | with_reducible apply resHas_next
    | exact trivial
    | with_reducible assumption
    | with_reducible apply State.linkUp_kept hP
    | with_reducible apply State.bootStage_kept hP
    | with_reducible apply State.bootFails_kept hP
    | with_reducible apply State.scheduleFree_kept hP
    | (with_reducible refine has_foldl _ (fun _ _ _ => ?_) _ _ ?_)
    | split
theorem State.startSupervisor_kept {P : Property} (hP : Closed P) (s : State) (c : ℕ) (h0 : Has P s) : Has P (State.startSupervisor s c) := by
  unfold State.startSupervisor
  repeat' first
    | with_reducible assumption
    | with_reducible apply State.openSegment_kept hP
    | with_reducible apply State.modCore_kept hP
    | with_reducible apply hP.write
theorem State.writeStatusPage_kept {P : Property} (hP : Closed P) (s : State) (pa : ℕ) (h0 : Has P s) : Has P (State.writeStatusPage s pa) := by
  unfold State.writeStatusPage
  repeat' first
    | with_reducible assumption
    | with_reducible apply State.performBytes_kept hP
    | (with_reducible refine has_foldl _ (fun _ _ _ => ?_) _ _ ?_)
theorem State.placeStatusPage_kept {P : Property} (hP : Closed P) (s : State) (h0 : Has P s) : Has P (State.placeStatusPage s) := by
  unfold State.placeStatusPage
  repeat' first
    | with_reducible assumption
    | with_reducible apply State.writeStatusPage_kept hP
theorem execBootBringup_kept {P : Property} (hP : Closed P) (s : State) (h0 : Has P s) : ResHas P (execBootBringup s) := by
  unfold execBootBringup
  repeat' first
    | with_reducible apply resHas_onCtx
    | with_reducible apply resHas_onCore
    | with_reducible apply resHas_onLayer
    | with_reducible apply resHas_next
    | exact trivial
    | with_reducible assumption
    | with_reducible apply State.placeStatusPage_kept hP
    | with_reducible apply State.startSupervisor_kept hP
    | with_reducible apply State.bootStage_kept hP
    | (with_reducible refine has_foldl _ (fun _ _ _ => ?_) _ _ ?_)
    | split
theorem execLayerPowerOn_kept {P : Property} (hP : Closed P) (core : ℕ) (layer : ℕ) (s : State) (h2 : Has P s) : ResHas P (execLayerPowerOn core layer s) := by
  unfold execLayerPowerOn
  repeat' first
    | with_reducible apply resHas_onCtx
    | with_reducible apply resHas_onCore
    | with_reducible apply resHas_onLayer
    | with_reducible apply resHas_next
    | exact trivial
    | with_reducible assumption
    | with_reducible apply State.schedulePlacement_kept hP
    | with_reducible apply State.modCore_kept hP
theorem execLayerPowerOff_kept {P : Property} (hP : Closed P) (core : ℕ) (layer : ℕ) (s : State) (h2 : Has P s) : ResHas P (execLayerPowerOff core layer s) := by
  unfold execLayerPowerOff
  repeat' first
    | with_reducible apply resHas_onCtx
    | with_reducible apply resHas_onCore
    | with_reducible apply resHas_onLayer
    | with_reducible apply resHas_next
    | exact trivial
    | with_reducible assumption
    | with_reducible apply State.modCore_kept hP
    | split
theorem State.watchAgain_kept {P : Property} (hP : Closed P) (s : State) (c : ℕ) (h0 : Has P s) : Has P (State.watchAgain s c) := by
  unfold State.watchAgain
  repeat' first
    | with_reducible assumption
    | with_reducible apply State.watch_kept hP
    | (with_reducible refine has_foldl _ (fun _ _ _ => ?_) _ _ ?_)
    | split
    | (dsimp only)
theorem State.setThrottle_kept {P : Property} (hP : Closed P) (s : State) (cl : ℕ) (level : ℕ) (h0 : Has P s) : Has P (State.setThrottle s cl level) := by
  unfold State.setThrottle
  repeat' first
    | with_reducible assumption
    | with_reducible apply State.watchAgain_kept hP
    | with_reducible apply State.wake_kept hP
    | with_reducible apply State.setCluster_kept hP
    | (with_reducible refine has_foldl _ (fun _ _ _ => ?_) _ _ ?_)
    | split
    | (dsimp only)
theorem State.therm_kept {P : Property} (hP : Closed P) (s : State) (c : ℕ) (tallow : ℕ) (h0 : Has P s) : Has P (State.therm s c tallow) := by
  unfold State.therm
  repeat' first
    | with_reducible assumption
    | with_reducible apply State.modEvents_kept hP
    | (with_reducible refine has_foldl _ (fun _ _ _ => ?_) _ _ ?_)
    | split
theorem State.writeRfsh_kept {P : Property} (hP : Closed P) (s : State) (c : ℕ) (v : ℕ) (h0 : Has P s) : Has P (State.writeRfsh s c v) := by
  unfold State.writeRfsh
  repeat' first
    | with_reducible assumption
    | with_reducible apply State.schedule_kept hP
    | with_reducible apply State.modCore_kept hP
theorem State.throttleAll_kept {P : Property} (hP : Closed P) (s : State) (watts : ℕ) (level : ℕ) (h0 : Has P s) : Has P (State.throttleAll s watts level) := by
  unfold State.throttleAll
  repeat' first
    | with_reducible assumption
    | with_reducible apply State.setThrottle_kept hP
    | (with_reducible refine has_foldl _ (fun _ _ _ => ?_) _ _ ?_)
theorem State.sample_kept {P : Property} (hP : Closed P) (s : State) (c : ℕ) (t : ℤ) (watts : ℕ) (level : ℕ) (h0 : Has P s) : Has P (State.sample s c t watts level) := by
  unfold State.sample
  repeat' first
    | with_reducible assumption
    | with_reducible apply State.throttleAll_kept hP
    | with_reducible apply State.writeRfsh_kept hP
    | with_reducible apply State.therm_kept hP
    | with_reducible apply State.schedulePlacement_kept hP
    | with_reducible apply State.modCore_kept hP
    | split
theorem execSensorSample_kept {P : Property} (hP : Closed P) (core : ℕ) (milli : List ℤ) (watts : ℕ) (level : ℕ) (s : State) (h4 : Has P s) : ResHas P (execSensorSample core milli watts level s) := by
  unfold execSensorSample
  repeat' first
    | with_reducible apply resHas_onCtx
    | with_reducible apply resHas_onCore
    | with_reducible apply resHas_onLayer
    | with_reducible apply resHas_next
    | exact trivial
    | with_reducible assumption
    | with_reducible apply State.sample_kept hP
    | with_reducible apply State.modCore_kept hP
    | split
theorem execRfshChange_kept {P : Property} (hP : Closed P) (core : ℕ) (s : State) (h1 : Has P s) : ResHas P (execRfshChange core s) := by
  unfold execRfshChange
  repeat' first
    | with_reducible apply resHas_onCtx
    | with_reducible apply resHas_onCore
    | with_reducible apply resHas_onLayer
    | with_reducible apply resHas_next
    | exact trivial
    | with_reducible assumption
    | with_reducible apply State.writeRfsh_kept hP
    | with_reducible apply State.modCore_kept hP
    | split
theorem execCoreSleep_kept {P : Property} (hP : Closed P) (core : ℕ) (s : State) (h1 : Has P s) : ResHas P (execCoreSleep core s) := by
  unfold execCoreSleep
  repeat' first
    | with_reducible apply resHas_onCtx
    | with_reducible apply resHas_onCore
    | with_reducible apply resHas_onLayer
    | with_reducible apply resHas_next
    | exact trivial
    | with_reducible assumption
    | with_reducible apply State.modCore_kept hP
    | split
theorem execCoreWake_kept {P : Property} (hP : Closed P) (core : ℕ) (s : State) (h1 : Has P s) : ResHas P (execCoreWake core s) := by
  unfold execCoreWake
  repeat' first
    | with_reducible apply resHas_onCtx
    | with_reducible apply resHas_onCore
    | with_reducible apply resHas_onLayer
    | with_reducible apply resHas_next
    | exact trivial
    | with_reducible assumption
    | with_reducible apply State.wakeCore_kept hP
    | split
theorem execRefreshWindow_kept {P : Property} (hP : Closed P) (core : ℕ) (bank : ℕ) (s : State) (h2 : Has P s) : ResHas P (execRefreshWindow core bank s) := by
  unfold execRefreshWindow
  repeat' first
    | with_reducible apply resHas_onCtx
    | with_reducible apply resHas_onCore
    | with_reducible apply resHas_onLayer
    | with_reducible apply resHas_next
    | exact trivial
    | with_reducible assumption
    | split
theorem execBankMigration_kept {P : Property} (hP : Closed P) (core : ℕ) (bank : ℕ) (phys : ℕ) (s : State) (h3 : Has P s) : ResHas P (execBankMigration core bank phys s) := by
  unfold execBankMigration
  repeat' first
    | with_reducible apply resHas_onCtx
    | with_reducible apply resHas_onCore
    | with_reducible apply resHas_onLayer
    | with_reducible apply resHas_next
    | exact trivial
    | with_reducible assumption
    | with_reducible apply State.schedule_kept hP
    | with_reducible apply State.modCore_kept hP
    | split
    | (dsimp only)
theorem execRepairEntrySwitch_kept {P : Property} (hP : Closed P) (e : RepairEntry) (s : State) (h1 : Has P s) : ResHas P (execRepairEntrySwitch e s) := by
  unfold execRepairEntrySwitch
  repeat' first
    | with_reducible apply resHas_onCtx
    | with_reducible apply resHas_onCore
    | with_reducible apply resHas_onLayer
    | with_reducible apply resHas_next
    | exact trivial
    | with_reducible assumption
    | with_reducible apply State.schedule_kept hP
    | (with_reducible refine has_foldl _ (fun _ _ _ => ?_) _ _ ?_)
    | split
    | (dsimp only)

end Sys2Proof.Machine
end

