-- ==== Sys2Proof/Laws/Lines.lean ====
section
/-!
SUPPORT. Laws of lines, lanes and elements (R31, R118, R119): an element of a packed line is the one packed there, a lane of
a built or merged line is the one given, and a flag of a result is set when an enabled element sets it.
-/
namespace Sys2Proof.Machine

theorem bitOf_eq_getLsbD {n : Nat} (v : BitVec n) (i : Nat) : bitOf v i = v.getLsbD i := rfl
theorem natBit_toNat {n : Nat} (v : BitVec n) (i : Nat) : natBit v.toNat i = v.getLsbD i := rfl
theorem fieldOf_zero {n : Nat} (v : BitVec n) (l : Nat) : fieldOf v 0 l = v.toNat % 2 ^ l := by simp [fieldOf]

theorem length_upTo (n lo : Nat) : (upTo n lo).length = n := by
  induction n generalizing lo with
  | zero => rfl
  | succ n ih => simp [upTo, ih]
theorem getElem?_upTo (n lo i : Nat) : (upTo n lo)[i]? = if i < n then some (lo + i) else none := by
  induction n generalizing lo i with
  | zero => simp [upTo]
  | succ n ih =>
    cases i with
    | zero => simp [upTo]
    | succ i => simp [upTo, ih, Nat.add_comm, Nat.add_left_comm]
theorem mem_upTo {n lo i : Nat} : i ∈ upTo n lo ↔ lo ≤ i ∧ i < lo + n := by
  induction n generalizing lo with
  | zero => simp [upTo]
  | succ n ih => simp [upTo, ih]; omega
theorem upTo_eq_range (n : Nat) : upTo n 0 = List.range n := by
  apply List.ext_getElem?
  intro i
  rw [getElem?_upTo]
  by_cases h : i < n <;> simp [h]

/-! ## Packed numbers -/

theorem packList_lt (w : Nat) (l : List Nat) : packList w l < 2 ^ (w * l.length) := by
  induction l with
  | nil => simp [packList]
  | cons x xs ih =>
    have h1 : x % 2 ^ w < 2 ^ w := Nat.mod_lt _ (Nat.two_pow_pos w)
    have h2 : 2 ^ (w * (xs.length + 1)) = 2 ^ w * 2 ^ (w * xs.length) := by rw [← Nat.pow_add]; ring_nf
    simp only [packList, List.length_cons, h2]
    calc x % 2 ^ w + 2 ^ w * packList w xs < 2 ^ w + 2 ^ w * packList w xs := by omega
      _ = 2 ^ w * (packList w xs + 1) := by ring
      _ ≤ 2 ^ w * 2 ^ (w * xs.length) := Nat.mul_le_mul_left _ ih
theorem packList_digit (w : Nat) (l : List Nat) (i : Nat) :
    packList w l / 2 ^ (w * i) % 2 ^ w = (l[i]?.getD 0) % 2 ^ w := by
  induction l generalizing i with
  | nil => simp [packList]
  | cons x xs ih =>
    have hw : 0 < 2 ^ w := Nat.two_pow_pos w
    cases i with
    | zero => simp [packList]
    | succ i =>
      have h2 : 2 ^ (w * (i + 1)) = 2 ^ w * 2 ^ (w * i) := by rw [← Nat.pow_add]; ring_nf
      rw [h2, ← Nat.div_div_eq_div_mul]
      have h3 : packList w (x :: xs) / 2 ^ w = packList w xs := by
        rw [packList, Nat.add_mul_div_left _ _ hw, Nat.div_eq_of_lt (Nat.mod_lt _ hw), Nat.zero_add]
      rw [h3, ih]
      simp
theorem packNat_eq_packList (w n : Nat) (f : Nat → Nat) : packNat w n f = packList w ((List.range n).map f) := by
  induction n generalizing f with
  | zero => rfl
  | succ n ih =>
    rw [List.range_succ_eq_map]
    simp only [packNat, List.map_cons, packList, List.map_map, ih]
    rfl

/-- Element `i` of a line packed from a list. -/
theorem elemOf_packList (w : Nat) (l : List Nat) (i : Nat) (h : w * l.length ≤ 1024) :
    elemOf w (BitVec.ofNat 1024 (packList w l)) i = (l[i]?.getD 0) % 2 ^ w := by
  have h1 := packList_lt w l
  have h2 : 2 ^ (w * l.length) ≤ 2 ^ 1024 := Nat.pow_le_pow_right (by omega) h
  rw [elemOf, BitVec.toNat_ofNat, Nat.mod_eq_of_lt (lt_of_lt_of_le h1 h2), packList_digit]
/-- Element `i` of a line of mapped elements. -/
theorem elemOf_mapElems (w : Nat) (mask : BitVec 32) (op : Nat → Nat × FlagBits) (i : Nat) (hi : i < 1024 / w) :
    elemOf w (mapElems w mask op).1 i = (op i).1 % 2 ^ w := by
  have hw : w * (1024 / w) ≤ 1024 := Nat.mul_div_le _ _
  simp only [mapElems, elemLine, List.map_map]
  rw [elemOf_packList _ _ _ (by simpa [length_upTo] using hw)]
  simp [getElem?_upTo, hi]

/-! ## Lanes -/

theorem laneOf_toNat (v : Line) (i : Nat) : (laneOf v i).toNat = elemOf 32 v i := by
  simp [laneOf, elemOf, Nat.shiftRight_eq_div_pow]
/-- Lane `i` of a line built lane by lane. -/
theorem laneOf_lineOf (f : Nat → Lane) (i : Nat) (h : i < 32) : laneOf (lineOf f) i = f i := by
  apply BitVec.eq_of_toNat_eq
  rw [laneOf_toNat, lineOf, packNat_eq_packList, elemOf_packList _ _ _ (by simp)]
  simp [h, Nat.mod_eq_of_lt (f i).isLt]
/-- Two lines with the same lanes are equal. -/
theorem lanes_ext {v u : Line} (h : ∀ i, i < 32 → laneOf v i = laneOf u i) : v = u := by
  apply BitVec.eq_of_getLsbD_eq
  intro j hj
  have hl := congrArg (fun x : Lane => x.getLsbD (j % 32)) (h (j / 32) (by omega))
  simp only [laneOf, BitVec.getLsbD_extractLsb'] at hl
  have : j % 32 < 32 := Nat.mod_lt _ (by omega)
  simp only [this, decide_true, Bool.true_and] at hl
  rwa [Nat.div_add_mod] at hl
/-- A lane of a merge is the new one where the mask enables it. -/
theorem laneOf_mergeLanes (mask : BitVec 32) (old new : Line) (i : Nat) (h : i < 32) :
    laneOf (mergeLanes mask old new) i = if bitOf mask i then laneOf new i else laneOf old i := by
  rw [mergeLanes, laneOf_lineOf _ _ h]

/-! ## Flags -/

theorem flagIf_getLsbD (b : Bool) (g : FlagBits) (k : Nat) : (flagIf b g).getLsbD k = (b && g.getLsbD k) := by
  cases b <;> simp [flagIf]
theorem laneFlags_getLsbD (w : Nat) (mask : BitVec 32) (rs : List (Nat × FlagBits)) (i k : Nat) :
    (laneFlags w mask i rs).getLsbD k = true ↔
      ∃ j r, rs[j]? = some r ∧ bitOf mask ((i + j) * w / 32) = true ∧ r.2.getLsbD k = true := by
  induction rs generalizing i with
  | nil => simp [laneFlags]
  | cons r rs ih =>
    simp only [laneFlags, BitVec.getLsbD_or, Bool.or_eq_true, flagIf_getLsbD, Bool.and_eq_true, ih]
    constructor
    · rintro (⟨h1, h2⟩ | ⟨j, q, h1, h2, h3⟩)
      · exact ⟨0, r, by simp, by simpa using h1, h2⟩
      · exact ⟨j + 1, q, by simpa using h1, by rw [← h2]; congr 2; ring, h3⟩
    · rintro ⟨j, q, h1, h2, h3⟩
      cases j with
      | zero => simp only [List.getElem?_cons_zero, Option.some.injEq] at h1; subst h1; exact .inl ⟨by simpa using h2, h3⟩
      | succ j => exact .inr ⟨j, q, by simpa using h1, by rw [← h2]; congr 2; ring, h3⟩
/-- A flag of a line of mapped elements is set when an element of an enabled lane sets it (R119). -/
theorem mapElems_flag (w : Nat) (mask : BitVec 32) (op : Nat → Nat × FlagBits) (k : Nat) :
    (mapElems w mask op).2.getLsbD k = true ↔
      ∃ j, j < 1024 / w ∧ bitOf mask (j * w / 32) = true ∧ (op j).2.getLsbD k = true := by
  simp only [mapElems, elemLine, laneFlags_getLsbD, List.getElem?_map, getElem?_upTo, Nat.zero_add]
  constructor
  · rintro ⟨j, r, h1, h2, h3⟩
    split at h1
    · next hj =>
      simp only [Option.map_some, Option.some.injEq] at h1
      exact ⟨j, hj, h2, by rw [h1]; exact h3⟩
    · simp at h1
  · rintro ⟨j, hj, h2, h3⟩
    exact ⟨j, op j, by simp [hj], h2, h3⟩

end Sys2Proof.Machine
end

