-- ==== Sys2Proof/Laws/Numbers.lean ====
section
/-!
SUPPORT. Laws of the number formats (R30, R33, R34) and of the vector forms that compute with them (R124): a rounded
result is an encoding of its format; the shared float and integer forms, written out.
-/
namespace Sys2Proof.Machine

theorem floatFormat_cases {n : Nat} {F : Format} (h : floatFormat n = some F) :
    (n = 0 ∧ F = fp32) ∨ (n = 1 ∧ F = bf16) ∨ (n = 2 ∧ F = e4m3) ∨ (n = 3 ∧ F = e5m2) := by
  unfold floatFormat at h
  repeat' split at h
  all_goals simp_all
theorem fmtWidth_float {n : Nat} {F : Format} (h : floatFormat n = some F) : fmtWidth n = F.width := by
  rcases floatFormat_cases h with ⟨rfl, rfl⟩ | ⟨rfl, rfl⟩ | ⟨rfl, rfl⟩ | ⟨rfl, rfl⟩ <;> rfl

/-! ## Encodings of a format -/

/-- The special encodings of a format fit beside its sign. -/
abbrev Format.Sound (F : Format) : Prop :=
  F.maxBits < 2 ^ (F.expBits + F.manBits) ∧ F.nanBits < 2 ^ (F.expBits + F.manBits) ∧
    F.infBits < 2 ^ (F.expBits + F.manBits)
theorem sound_fp32 : fp32.Sound := by decide
theorem sound_bf16 : bf16.Sound := by decide
theorem sound_e4m3 : e4m3.Sound := by decide
theorem sound_e5m2 : e5m2.Sound := by decide
theorem sound_of_floatFormat {n : Nat} {F : Format} (h : floatFormat n = some F) : F.Sound := by
  rcases floatFormat_cases h with ⟨rfl, rfl⟩ | ⟨rfl, rfl⟩ | ⟨rfl, rfl⟩ | ⟨rfl, rfl⟩
  · exact sound_fp32
  · exact sound_bf16
  · exact sound_e4m3
  · exact sound_e5m2
theorem Format.sign_add_lt (F : Format) (neg : Bool) {x : Nat} (h : x < 2 ^ (F.expBits + F.manBits)) :
    F.sign neg + x < 2 ^ F.width := by
  have h2 : 2 ^ F.width = 2 * 2 ^ (F.expBits + F.manBits) := by rw [Format.width, Nat.pow_succ]; ring
  cases neg <;> simp [Format.sign] <;> omega
theorem Format.nanBits_lt {F : Format} (h : F.Sound) : F.nanBits < 2 ^ F.width := by
  simpa [Format.sign] using F.sign_add_lt false h.2.1
theorem Format.infinite_lt {F : Format} (h : F.Sound) (sat neg : Bool) : (F.infinite sat neg).1 < 2 ^ F.width := by
  unfold Format.infinite
  split
  · exact F.sign_add_lt neg h.1
  · split
    · exact F.sign_add_lt neg h.2.2
    · exact Format.nanBits_lt h
theorem Format.finish_lt {F : Format} (h : F.Sound) (rnd : Nat) (sat neg : Bool) (n : Nat) (q : Int) (b : Bool) :
    (F.finish rnd sat neg n q b).1 < 2 ^ F.width := by
  unfold Format.finish
  dsimp only
  generalize (if decide (n = 2 ^ (F.manBits + 1)) = true then 2 ^ F.manBits else n) = n1
  generalize (if decide (n = 2 ^ (F.manBits + 1)) = true then q + 1 else q) = q1
  generalize (if n1 < 2 ^ F.manBits then 0 else (q1 + ↑F.manBits + F.bias).toNat) * 2 ^ F.manBits + n1 % 2 ^ F.manBits = bits
  by_cases hb : F.maxBits < bits
  · rw [if_pos hb]
    split
    · exact F.sign_add_lt neg h.1
    · split
      · split
        · exact F.sign_add_lt neg h.2.2
        · exact Format.nanBits_lt h
      · exact F.sign_add_lt neg h.1
  · rw [if_neg hb]
    exact F.sign_add_lt neg (lt_of_le_of_lt (Nat.le_of_not_lt hb) h.1)
theorem Format.round_lt {F : Format} (h : F.Sound) (rnd : Nat) (sat : Bool) (x : Machine.Num) :
    (F.round rnd sat x).1 < 2 ^ F.width := by
  cases x with
  | nan => exact Format.nanBits_lt h
  | inf neg => exact Format.infinite_lt h sat neg
  | fin neg m e =>
    simp only [Format.round]
    split
    · simpa using F.sign_add_lt neg (Nat.two_pow_pos _)
    · exact Format.finish_lt h _ _ _ _ _ _
theorem Format.stochastic_lt {F : Format} (h : F.Sound) (sat : Bool) (u : Nat) (x : Machine.Num) :
    (F.stochastic sat u x).1 < 2 ^ F.width := by
  cases x with
  | nan => exact Format.nanBits_lt h
  | inf neg => exact Format.infinite_lt h sat neg
  | fin neg m e =>
    simp only [Format.stochastic]
    split
    · simpa using F.sign_add_lt neg (Nat.two_pow_pos _)
    · split <;> exact Format.finish_lt h _ _ _ _ _ _

/-! ## Shared forms -/

theorem wrapOf_lt (w : Nat) (x : Int) : wrapOf w x < 2 ^ w := by
  unfold wrapOf
  have h1 : (0 : Int) < ((2 ^ w : Nat) : Int) := by positivity
  have h2 := Int.emod_lt_of_pos x h1
  have h3 := Int.emod_nonneg x h1.ne'
  omega
theorem signedOf_wrapOf (w : Nat) (x : Int) (h1 : -(2 ^ w : Int) ≤ 2 * x) (h2 : 2 * x < 2 ^ w) : signedOf w (wrapOf w x) = x := by
  unfold signedOf
  rw [Nat.mod_eq_of_lt (wrapOf_lt w x)]
  unfold wrapOf
  have hp : (0 : Int) < 2 ^ w := by positivity
  have hc : ((2 ^ w : Nat) : Int) = 2 ^ w := by push_cast; rfl
  simp only [hc]
  have h3 := Int.emod_nonneg x hp.ne'
  have h4 : ((x % 2 ^ w).toNat : Int) = x % 2 ^ w := Int.toNat_of_nonneg h3
  by_cases hx : 0 ≤ x
  · have h5 : x % 2 ^ w = x := Int.emod_eq_of_lt hx (by omega)
    rw [h5]
    have : 2 * x.toNat < 2 ^ w := by zify; rw [Int.toNat_of_nonneg hx]; exact h2
    rw [if_pos this, Int.toNat_of_nonneg hx]
  · have h5 : x % 2 ^ w = x + 2 ^ w := by
      rw [← Int.add_emod_right, Int.emod_eq_of_lt (by omega) (by omega)]
    rw [h5] at h4 ⊢
    have : ¬ 2 * (x + 2 ^ w).toNat < 2 ^ w := by
      intro h
      zify at h
      rw [h4] at h
      omega
    rw [if_neg this, h4]
    omega
theorem arith_float {f : VSlot} {F : Format} (h : floatFormat f.fmt.toNat = some F) (fl : Machine.Num → Machine.Num → Machine.Num → Machine.Num × FlagBits)
    (it : Int → Int → Int → Int) (lat : Nat) (rd : Bool) (s : State) :
    arith fl it lat rd f s =
      vSlot s f ((if rd then [f.d] else []) ++ [f.a, f.b]) lat (mapElems F.width (vMask s f) (fun i =>
        floatOut F f (fl (F.decode (elemOf F.width (lineValue s f.d) i)) (F.decode (elemOf F.width (lineValue s f.a) i))
          (F.decode (elemOf F.width (lineValue s f.b) i))))) (vMask s f) := by
  unfold arith
  rw [fmtWidth_float h, h]
theorem arith_int {f : VSlot} (h : floatFormat f.fmt.toNat = none) (fl : Machine.Num → Machine.Num → Machine.Num → Machine.Num × FlagBits)
    (it : Int → Int → Int → Int) (lat : Nat) (rd : Bool) (s : State) :
    arith fl it lat rd f s =
      vSlot s f ((if rd then [f.d] else []) ++ [f.a, f.b]) lat (mapElems (fmtWidth f.fmt.toNat) (vMask s f) (fun i =>
        intResult (fmtWidth f.fmt.toNat) (decide (f.sat = 1))
          (it (signedOf (fmtWidth f.fmt.toNat) (elemOf (fmtWidth f.fmt.toNat) (lineValue s f.d) i))
            (signedOf (fmtWidth f.fmt.toNat) (elemOf (fmtWidth f.fmt.toNat) (lineValue s f.a) i))
            (signedOf (fmtWidth f.fmt.toNat) (elemOf (fmtWidth f.fmt.toNat) (lineValue s f.b) i))))) (vMask s f) := by
  unfold arith
  rw [h]
theorem arith1_float {f : VSlot} {F : Format} (h : floatFormat f.fmt.toNat = some F) (fl : Machine.Num → Machine.Num) (it : Int → Int) (s : State) :
    arith1 fl it f s = vSlot s f [f.a] 2 (mapElems F.width (vMask s f) (fun i =>
      floatOut F f (fl (F.decode (elemOf F.width (lineValue s f.a) i)), 0))) (vMask s f) := by
  unfold arith1
  rw [fmtWidth_float h, h]
theorem arith1_int {f : VSlot} (h : floatFormat f.fmt.toNat = none) (fl : Machine.Num → Machine.Num) (it : Int → Int) (s : State) :
    arith1 fl it f s = vSlot s f [f.a] 2 (mapElems (fmtWidth f.fmt.toNat) (vMask s f) (fun i =>
      intResult (fmtWidth f.fmt.toNat) (decide (f.sat = 1))
        (it (signedOf (fmtWidth f.fmt.toNat) (elemOf (fmtWidth f.fmt.toNat) (lineValue s f.a) i))))) (vMask s f) := by
  unfold arith1
  rw [h]

end Sys2Proof.Machine
end

