-- ==== Sys2Proof/Laws/State.lean ====
section
/-!
SUPPORT. One lemma per field per update of the state, a core and a context, each true by rfl; and what is read after a
register file, a core or a context has been replaced.
-/
namespace Sys2Proof.Machine

/-! ## Sparse arrays -/

@[simp] theorem FMap.get_set_self {α : Type} (d : α) (m : FMap α) (i : Nat) (v : α) : (m.set i v).get d i = v := by
  induction m with
  | nil => simp [FMap.set, FMap.get]
  | cons e m ih =>
    obtain ⟨k, w⟩ := e
    rw [FMap.set]
    split
    · simp [FMap.get]
    · split
      · simp [FMap.get]
      · next h _ => rw [FMap.get, if_neg h, ih]

theorem FMap.get_set_ne {α : Type} (d : α) (m : FMap α) (i j : Nat) (v : α) (h : j ≠ i) :
    (m.set i v).get d j = m.get d j := by
  induction m with
  | nil => simp [FMap.set, FMap.get, h]
  | cons e m ih =>
    obtain ⟨k, w⟩ := e
    rw [FMap.set]
    split
    · next hk =>
      subst hk
      rw [FMap.get, FMap.get, if_neg h, if_neg h]
    · split
      · rw [FMap.get, if_neg h]
      · rw [FMap.get, FMap.get, ih]

theorem FMap.get_set {α : Type} (d : α) (m : FMap α) (i j : Nat) (v : α) :
    (m.set i v).get d j = if j = i then v else m.get d j := by
  split
  · next h => rw [h, FMap.get_set_self]
  · next h => rw [FMap.get_set_ne d m i j v h]

/-! ## Updates of the state -/

@[simp] theorem State.setCore_cyc (s : State) (c : Nat) (x : Core) : (s.setCore c x).cyc = s.cyc := rfl
@[simp] theorem State.setCore_turn (s : State) (c : Nat) (x : Core) : (s.setCore c x).turn = s.turn := rfl
@[simp] theorem State.setCore_inbox (s : State) (c : Nat) (x : Core) : (s.setCore c x).inbox = s.inbox := rfl
@[simp] theorem State.setCore_calendar (s : State) (c : Nat) (x : Core) : (s.setCore c x).calendar = s.calendar := rfl
@[simp] theorem State.setCore_mem (s : State) (c : Nat) (x : Core) : (s.setCore c x).mem = s.mem := rfl
@[simp] theorem State.setCore_marks (s : State) (c : Nat) (x : Core) : (s.setCore c x).marks = s.marks := rfl
@[simp] theorem State.setCore_clusters (s : State) (c : Nat) (x : Core) : (s.setCore c x).clusters = s.clusters := rfl
@[simp] theorem State.setCore_writes (s : State) (c : Nat) (x : Core) : (s.setCore c x).writes = s.writes := rfl
@[simp] theorem State.setCore_queues (s : State) (c : Nat) (x : Core) : (s.setCore c x).queues = s.queues := rfl
@[simp] theorem State.setCore_qptr (s : State) (c : Nat) (x : Core) : (s.setCore c x).qptr = s.qptr := rfl
@[simp] theorem State.setCore_lidx (s : State) (c : Nat) (x : Core) : (s.setCore c x).lidx = s.lidx := rfl
@[simp] theorem State.setCore_launches (s : State) (c : Nat) (x : Core) : (s.setCore c x).launches = s.launches := rfl
@[simp] theorem State.setCore_logSeq (s : State) (c : Nat) (x : Core) : (s.setCore c x).logSeq = s.logSeq := rfl
@[simp] theorem State.setCore_preempting (s : State) (c : Nat) (x : Core) : (s.setCore c x).preempting = s.preempting := rfl
@[simp] theorem State.setCore_waiters (s : State) (c : Nat) (x : Core) : (s.setCore c x).waiters = s.waiters := rfl
@[simp] theorem State.setCore_claimQ (s : State) (c : Nat) (x : Core) : (s.setCore c x).claimQ = s.claimQ := rfl
@[simp] theorem State.setCore_claimFree (s : State) (c : Nat) (x : Core) : (s.setCore c x).claimFree = s.claimFree := rfl
@[simp] theorem State.setCore_parts (s : State) (c : Nat) (x : Core) : (s.setCore c x).parts = s.parts := rfl
@[simp] theorem State.setCore_owner (s : State) (c : Nat) (x : Core) : (s.setCore c x).owner = s.owner := rfl
@[simp] theorem State.setCore_windows (s : State) (c : Nat) (x : Core) : (s.setCore c x).windows = s.windows := rfl
@[simp] theorem State.setCore_powerCap (s : State) (c : Nat) (x : Core) : (s.setCore c x).powerCap = s.powerCap := rfl
@[simp] theorem State.setCore_links (s : State) (c : Nat) (x : Core) : (s.setCore c x).links = s.links := rfl
@[simp] theorem State.setCore_boot (s : State) (c : Nat) (x : Core) : (s.setCore c x).boot = s.boot := rfl
@[simp] theorem State.setCore_repair (s : State) (c : Nat) (x : Core) : (s.setCore c x).repair = s.repair := rfl
@[simp] theorem State.setCore_telemetry (s : State) (c : Nat) (x : Core) : (s.setCore c x).telemetry = s.telemetry := rfl
@[simp] theorem State.setCore_reply (s : State) (c : Nat) (x : Core) : (s.setCore c x).reply = s.reply := rfl
@[simp] theorem State.setCore_saved (s : State) (c : Nat) (x : Core) : (s.setCore c x).saved = s.saved := rfl
@[simp] theorem State.setCore_cur (s : State) (c : Nat) (x : Core) : (s.setCore c x).cur = s.cur := rfl
@[simp] theorem State.setCore_draws (s : State) (c : Nat) (x : Core) : (s.setCore c x).draws = s.draws := rfl
@[simp] theorem State.setCore_nextId (s : State) (c : Nat) (x : Core) : (s.setCore c x).nextId = s.nextId := rfl

@[simp] theorem State.modCore_cyc (s : State) (c : Nat) (f : Core → Core) : (s.modCore c f).cyc = s.cyc := rfl
@[simp] theorem State.modCore_turn (s : State) (c : Nat) (f : Core → Core) : (s.modCore c f).turn = s.turn := rfl
@[simp] theorem State.modCore_inbox (s : State) (c : Nat) (f : Core → Core) : (s.modCore c f).inbox = s.inbox := rfl
@[simp] theorem State.modCore_calendar (s : State) (c : Nat) (f : Core → Core) : (s.modCore c f).calendar = s.calendar := rfl
@[simp] theorem State.modCore_mem (s : State) (c : Nat) (f : Core → Core) : (s.modCore c f).mem = s.mem := rfl
@[simp] theorem State.modCore_marks (s : State) (c : Nat) (f : Core → Core) : (s.modCore c f).marks = s.marks := rfl
@[simp] theorem State.modCore_clusters (s : State) (c : Nat) (f : Core → Core) : (s.modCore c f).clusters = s.clusters := rfl
@[simp] theorem State.modCore_writes (s : State) (c : Nat) (f : Core → Core) : (s.modCore c f).writes = s.writes := rfl
@[simp] theorem State.modCore_queues (s : State) (c : Nat) (f : Core → Core) : (s.modCore c f).queues = s.queues := rfl
@[simp] theorem State.modCore_qptr (s : State) (c : Nat) (f : Core → Core) : (s.modCore c f).qptr = s.qptr := rfl
@[simp] theorem State.modCore_lidx (s : State) (c : Nat) (f : Core → Core) : (s.modCore c f).lidx = s.lidx := rfl
@[simp] theorem State.modCore_launches (s : State) (c : Nat) (f : Core → Core) : (s.modCore c f).launches = s.launches := rfl
@[simp] theorem State.modCore_logSeq (s : State) (c : Nat) (f : Core → Core) : (s.modCore c f).logSeq = s.logSeq := rfl
@[simp] theorem State.modCore_preempting (s : State) (c : Nat) (f : Core → Core) : (s.modCore c f).preempting = s.preempting := rfl
@[simp] theorem State.modCore_waiters (s : State) (c : Nat) (f : Core → Core) : (s.modCore c f).waiters = s.waiters := rfl
@[simp] theorem State.modCore_claimQ (s : State) (c : Nat) (f : Core → Core) : (s.modCore c f).claimQ = s.claimQ := rfl
@[simp] theorem State.modCore_claimFree (s : State) (c : Nat) (f : Core → Core) : (s.modCore c f).claimFree = s.claimFree := rfl
@[simp] theorem State.modCore_parts (s : State) (c : Nat) (f : Core → Core) : (s.modCore c f).parts = s.parts := rfl
@[simp] theorem State.modCore_owner (s : State) (c : Nat) (f : Core → Core) : (s.modCore c f).owner = s.owner := rfl
@[simp] theorem State.modCore_windows (s : State) (c : Nat) (f : Core → Core) : (s.modCore c f).windows = s.windows := rfl
@[simp] theorem State.modCore_powerCap (s : State) (c : Nat) (f : Core → Core) : (s.modCore c f).powerCap = s.powerCap := rfl
@[simp] theorem State.modCore_links (s : State) (c : Nat) (f : Core → Core) : (s.modCore c f).links = s.links := rfl
@[simp] theorem State.modCore_boot (s : State) (c : Nat) (f : Core → Core) : (s.modCore c f).boot = s.boot := rfl
@[simp] theorem State.modCore_repair (s : State) (c : Nat) (f : Core → Core) : (s.modCore c f).repair = s.repair := rfl
@[simp] theorem State.modCore_telemetry (s : State) (c : Nat) (f : Core → Core) : (s.modCore c f).telemetry = s.telemetry := rfl
@[simp] theorem State.modCore_reply (s : State) (c : Nat) (f : Core → Core) : (s.modCore c f).reply = s.reply := rfl
@[simp] theorem State.modCore_saved (s : State) (c : Nat) (f : Core → Core) : (s.modCore c f).saved = s.saved := rfl
@[simp] theorem State.modCore_cur (s : State) (c : Nat) (f : Core → Core) : (s.modCore c f).cur = s.cur := rfl
@[simp] theorem State.modCore_draws (s : State) (c : Nat) (f : Core → Core) : (s.modCore c f).draws = s.draws := rfl
@[simp] theorem State.modCore_nextId (s : State) (c : Nat) (f : Core → Core) : (s.modCore c f).nextId = s.nextId := rfl

@[simp] theorem State.setCtx_cyc (s : State) (c x : Nat) (v : Ctx) : (s.setCtx c x v).cyc = s.cyc := rfl
@[simp] theorem State.setCtx_turn (s : State) (c x : Nat) (v : Ctx) : (s.setCtx c x v).turn = s.turn := rfl
@[simp] theorem State.setCtx_inbox (s : State) (c x : Nat) (v : Ctx) : (s.setCtx c x v).inbox = s.inbox := rfl
@[simp] theorem State.setCtx_calendar (s : State) (c x : Nat) (v : Ctx) : (s.setCtx c x v).calendar = s.calendar := rfl
@[simp] theorem State.setCtx_mem (s : State) (c x : Nat) (v : Ctx) : (s.setCtx c x v).mem = s.mem := rfl
@[simp] theorem State.setCtx_marks (s : State) (c x : Nat) (v : Ctx) : (s.setCtx c x v).marks = s.marks := rfl
@[simp] theorem State.setCtx_clusters (s : State) (c x : Nat) (v : Ctx) : (s.setCtx c x v).clusters = s.clusters := rfl
@[simp] theorem State.setCtx_writes (s : State) (c x : Nat) (v : Ctx) : (s.setCtx c x v).writes = s.writes := rfl
@[simp] theorem State.setCtx_queues (s : State) (c x : Nat) (v : Ctx) : (s.setCtx c x v).queues = s.queues := rfl
@[simp] theorem State.setCtx_qptr (s : State) (c x : Nat) (v : Ctx) : (s.setCtx c x v).qptr = s.qptr := rfl
@[simp] theorem State.setCtx_lidx (s : State) (c x : Nat) (v : Ctx) : (s.setCtx c x v).lidx = s.lidx := rfl
@[simp] theorem State.setCtx_launches (s : State) (c x : Nat) (v : Ctx) : (s.setCtx c x v).launches = s.launches := rfl
@[simp] theorem State.setCtx_logSeq (s : State) (c x : Nat) (v : Ctx) : (s.setCtx c x v).logSeq = s.logSeq := rfl
@[simp] theorem State.setCtx_preempting (s : State) (c x : Nat) (v : Ctx) : (s.setCtx c x v).preempting = s.preempting := rfl
@[simp] theorem State.setCtx_waiters (s : State) (c x : Nat) (v : Ctx) : (s.setCtx c x v).waiters = s.waiters := rfl
@[simp] theorem State.setCtx_claimQ (s : State) (c x : Nat) (v : Ctx) : (s.setCtx c x v).claimQ = s.claimQ := rfl
@[simp] theorem State.setCtx_claimFree (s : State) (c x : Nat) (v : Ctx) : (s.setCtx c x v).claimFree = s.claimFree := rfl
@[simp] theorem State.setCtx_parts (s : State) (c x : Nat) (v : Ctx) : (s.setCtx c x v).parts = s.parts := rfl
@[simp] theorem State.setCtx_owner (s : State) (c x : Nat) (v : Ctx) : (s.setCtx c x v).owner = s.owner := rfl
@[simp] theorem State.setCtx_windows (s : State) (c x : Nat) (v : Ctx) : (s.setCtx c x v).windows = s.windows := rfl
@[simp] theorem State.setCtx_powerCap (s : State) (c x : Nat) (v : Ctx) : (s.setCtx c x v).powerCap = s.powerCap := rfl
@[simp] theorem State.setCtx_links (s : State) (c x : Nat) (v : Ctx) : (s.setCtx c x v).links = s.links := rfl
@[simp] theorem State.setCtx_boot (s : State) (c x : Nat) (v : Ctx) : (s.setCtx c x v).boot = s.boot := rfl
@[simp] theorem State.setCtx_repair (s : State) (c x : Nat) (v : Ctx) : (s.setCtx c x v).repair = s.repair := rfl
@[simp] theorem State.setCtx_telemetry (s : State) (c x : Nat) (v : Ctx) : (s.setCtx c x v).telemetry = s.telemetry := rfl
@[simp] theorem State.setCtx_reply (s : State) (c x : Nat) (v : Ctx) : (s.setCtx c x v).reply = s.reply := rfl
@[simp] theorem State.setCtx_saved (s : State) (c x : Nat) (v : Ctx) : (s.setCtx c x v).saved = s.saved := rfl
@[simp] theorem State.setCtx_cur (s : State) (c x : Nat) (v : Ctx) : (s.setCtx c x v).cur = s.cur := rfl
@[simp] theorem State.setCtx_draws (s : State) (c x : Nat) (v : Ctx) : (s.setCtx c x v).draws = s.draws := rfl
@[simp] theorem State.setCtx_nextId (s : State) (c x : Nat) (v : Ctx) : (s.setCtx c x v).nextId = s.nextId := rfl

@[simp] theorem State.modCtx_cyc (s : State) (c x : Nat) (f : Ctx → Ctx) : (s.modCtx c x f).cyc = s.cyc := rfl
@[simp] theorem State.modCtx_turn (s : State) (c x : Nat) (f : Ctx → Ctx) : (s.modCtx c x f).turn = s.turn := rfl
@[simp] theorem State.modCtx_inbox (s : State) (c x : Nat) (f : Ctx → Ctx) : (s.modCtx c x f).inbox = s.inbox := rfl
@[simp] theorem State.modCtx_calendar (s : State) (c x : Nat) (f : Ctx → Ctx) : (s.modCtx c x f).calendar = s.calendar := rfl
@[simp] theorem State.modCtx_mem (s : State) (c x : Nat) (f : Ctx → Ctx) : (s.modCtx c x f).mem = s.mem := rfl
@[simp] theorem State.modCtx_marks (s : State) (c x : Nat) (f : Ctx → Ctx) : (s.modCtx c x f).marks = s.marks := rfl
@[simp] theorem State.modCtx_clusters (s : State) (c x : Nat) (f : Ctx → Ctx) : (s.modCtx c x f).clusters = s.clusters := rfl
@[simp] theorem State.modCtx_writes (s : State) (c x : Nat) (f : Ctx → Ctx) : (s.modCtx c x f).writes = s.writes := rfl
@[simp] theorem State.modCtx_queues (s : State) (c x : Nat) (f : Ctx → Ctx) : (s.modCtx c x f).queues = s.queues := rfl
@[simp] theorem State.modCtx_qptr (s : State) (c x : Nat) (f : Ctx → Ctx) : (s.modCtx c x f).qptr = s.qptr := rfl
@[simp] theorem State.modCtx_lidx (s : State) (c x : Nat) (f : Ctx → Ctx) : (s.modCtx c x f).lidx = s.lidx := rfl
@[simp] theorem State.modCtx_launches (s : State) (c x : Nat) (f : Ctx → Ctx) : (s.modCtx c x f).launches = s.launches := rfl
@[simp] theorem State.modCtx_logSeq (s : State) (c x : Nat) (f : Ctx → Ctx) : (s.modCtx c x f).logSeq = s.logSeq := rfl
@[simp] theorem State.modCtx_preempting (s : State) (c x : Nat) (f : Ctx → Ctx) : (s.modCtx c x f).preempting = s.preempting := rfl
@[simp] theorem State.modCtx_waiters (s : State) (c x : Nat) (f : Ctx → Ctx) : (s.modCtx c x f).waiters = s.waiters := rfl
@[simp] theorem State.modCtx_claimQ (s : State) (c x : Nat) (f : Ctx → Ctx) : (s.modCtx c x f).claimQ = s.claimQ := rfl
@[simp] theorem State.modCtx_claimFree (s : State) (c x : Nat) (f : Ctx → Ctx) : (s.modCtx c x f).claimFree = s.claimFree := rfl
@[simp] theorem State.modCtx_parts (s : State) (c x : Nat) (f : Ctx → Ctx) : (s.modCtx c x f).parts = s.parts := rfl
@[simp] theorem State.modCtx_owner (s : State) (c x : Nat) (f : Ctx → Ctx) : (s.modCtx c x f).owner = s.owner := rfl
@[simp] theorem State.modCtx_windows (s : State) (c x : Nat) (f : Ctx → Ctx) : (s.modCtx c x f).windows = s.windows := rfl
@[simp] theorem State.modCtx_powerCap (s : State) (c x : Nat) (f : Ctx → Ctx) : (s.modCtx c x f).powerCap = s.powerCap := rfl
@[simp] theorem State.modCtx_links (s : State) (c x : Nat) (f : Ctx → Ctx) : (s.modCtx c x f).links = s.links := rfl
@[simp] theorem State.modCtx_boot (s : State) (c x : Nat) (f : Ctx → Ctx) : (s.modCtx c x f).boot = s.boot := rfl
@[simp] theorem State.modCtx_repair (s : State) (c x : Nat) (f : Ctx → Ctx) : (s.modCtx c x f).repair = s.repair := rfl
@[simp] theorem State.modCtx_telemetry (s : State) (c x : Nat) (f : Ctx → Ctx) : (s.modCtx c x f).telemetry = s.telemetry := rfl
@[simp] theorem State.modCtx_reply (s : State) (c x : Nat) (f : Ctx → Ctx) : (s.modCtx c x f).reply = s.reply := rfl
@[simp] theorem State.modCtx_saved (s : State) (c x : Nat) (f : Ctx → Ctx) : (s.modCtx c x f).saved = s.saved := rfl
@[simp] theorem State.modCtx_cur (s : State) (c x : Nat) (f : Ctx → Ctx) : (s.modCtx c x f).cur = s.cur := rfl
@[simp] theorem State.modCtx_draws (s : State) (c x : Nat) (f : Ctx → Ctx) : (s.modCtx c x f).draws = s.draws := rfl
@[simp] theorem State.modCtx_nextId (s : State) (c x : Nat) (f : Ctx → Ctx) : (s.modCtx c x f).nextId = s.nextId := rfl

@[simp] theorem State.setCluster_cyc (s : State) (k : Nat) (x : Cluster) : (s.setCluster k x).cyc = s.cyc := rfl
@[simp] theorem State.setCluster_turn (s : State) (k : Nat) (x : Cluster) : (s.setCluster k x).turn = s.turn := rfl
@[simp] theorem State.setCluster_inbox (s : State) (k : Nat) (x : Cluster) : (s.setCluster k x).inbox = s.inbox := rfl
@[simp] theorem State.setCluster_calendar (s : State) (k : Nat) (x : Cluster) : (s.setCluster k x).calendar = s.calendar := rfl
@[simp] theorem State.setCluster_mem (s : State) (k : Nat) (x : Cluster) : (s.setCluster k x).mem = s.mem := rfl
@[simp] theorem State.setCluster_marks (s : State) (k : Nat) (x : Cluster) : (s.setCluster k x).marks = s.marks := rfl
@[simp] theorem State.setCluster_cores (s : State) (k : Nat) (x : Cluster) : (s.setCluster k x).cores = s.cores := rfl
@[simp] theorem State.setCluster_writes (s : State) (k : Nat) (x : Cluster) : (s.setCluster k x).writes = s.writes := rfl
@[simp] theorem State.setCluster_queues (s : State) (k : Nat) (x : Cluster) : (s.setCluster k x).queues = s.queues := rfl
@[simp] theorem State.setCluster_qptr (s : State) (k : Nat) (x : Cluster) : (s.setCluster k x).qptr = s.qptr := rfl
@[simp] theorem State.setCluster_lidx (s : State) (k : Nat) (x : Cluster) : (s.setCluster k x).lidx = s.lidx := rfl
@[simp] theorem State.setCluster_launches (s : State) (k : Nat) (x : Cluster) : (s.setCluster k x).launches = s.launches := rfl
@[simp] theorem State.setCluster_logSeq (s : State) (k : Nat) (x : Cluster) : (s.setCluster k x).logSeq = s.logSeq := rfl
@[simp] theorem State.setCluster_preempting (s : State) (k : Nat) (x : Cluster) : (s.setCluster k x).preempting = s.preempting := rfl
@[simp] theorem State.setCluster_waiters (s : State) (k : Nat) (x : Cluster) : (s.setCluster k x).waiters = s.waiters := rfl
@[simp] theorem State.setCluster_claimQ (s : State) (k : Nat) (x : Cluster) : (s.setCluster k x).claimQ = s.claimQ := rfl
@[simp] theorem State.setCluster_claimFree (s : State) (k : Nat) (x : Cluster) : (s.setCluster k x).claimFree = s.claimFree := rfl
@[simp] theorem State.setCluster_parts (s : State) (k : Nat) (x : Cluster) : (s.setCluster k x).parts = s.parts := rfl
@[simp] theorem State.setCluster_owner (s : State) (k : Nat) (x : Cluster) : (s.setCluster k x).owner = s.owner := rfl
@[simp] theorem State.setCluster_windows (s : State) (k : Nat) (x : Cluster) : (s.setCluster k x).windows = s.windows := rfl
@[simp] theorem State.setCluster_powerCap (s : State) (k : Nat) (x : Cluster) : (s.setCluster k x).powerCap = s.powerCap := rfl
@[simp] theorem State.setCluster_links (s : State) (k : Nat) (x : Cluster) : (s.setCluster k x).links = s.links := rfl
@[simp] theorem State.setCluster_boot (s : State) (k : Nat) (x : Cluster) : (s.setCluster k x).boot = s.boot := rfl
@[simp] theorem State.setCluster_repair (s : State) (k : Nat) (x : Cluster) : (s.setCluster k x).repair = s.repair := rfl
@[simp] theorem State.setCluster_telemetry (s : State) (k : Nat) (x : Cluster) : (s.setCluster k x).telemetry = s.telemetry := rfl
@[simp] theorem State.setCluster_reply (s : State) (k : Nat) (x : Cluster) : (s.setCluster k x).reply = s.reply := rfl
@[simp] theorem State.setCluster_saved (s : State) (k : Nat) (x : Cluster) : (s.setCluster k x).saved = s.saved := rfl
@[simp] theorem State.setCluster_cur (s : State) (k : Nat) (x : Cluster) : (s.setCluster k x).cur = s.cur := rfl
@[simp] theorem State.setCluster_draws (s : State) (k : Nat) (x : Cluster) : (s.setCluster k x).draws = s.draws := rfl
@[simp] theorem State.setCluster_nextId (s : State) (k : Nat) (x : Cluster) : (s.setCluster k x).nextId = s.nextId := rfl

@[simp] theorem State.modCluster_cyc (s : State) (k : Nat) (f : Cluster → Cluster) : (s.modCluster k f).cyc = s.cyc := rfl
@[simp] theorem State.modCluster_turn (s : State) (k : Nat) (f : Cluster → Cluster) : (s.modCluster k f).turn = s.turn := rfl
@[simp] theorem State.modCluster_inbox (s : State) (k : Nat) (f : Cluster → Cluster) : (s.modCluster k f).inbox = s.inbox := rfl
@[simp] theorem State.modCluster_calendar (s : State) (k : Nat) (f : Cluster → Cluster) : (s.modCluster k f).calendar = s.calendar := rfl
@[simp] theorem State.modCluster_mem (s : State) (k : Nat) (f : Cluster → Cluster) : (s.modCluster k f).mem = s.mem := rfl
@[simp] theorem State.modCluster_marks (s : State) (k : Nat) (f : Cluster → Cluster) : (s.modCluster k f).marks = s.marks := rfl
@[simp] theorem State.modCluster_cores (s : State) (k : Nat) (f : Cluster → Cluster) : (s.modCluster k f).cores = s.cores := rfl
@[simp] theorem State.modCluster_writes (s : State) (k : Nat) (f : Cluster → Cluster) : (s.modCluster k f).writes = s.writes := rfl
@[simp] theorem State.modCluster_queues (s : State) (k : Nat) (f : Cluster → Cluster) : (s.modCluster k f).queues = s.queues := rfl
@[simp] theorem State.modCluster_qptr (s : State) (k : Nat) (f : Cluster → Cluster) : (s.modCluster k f).qptr = s.qptr := rfl
@[simp] theorem State.modCluster_lidx (s : State) (k : Nat) (f : Cluster → Cluster) : (s.modCluster k f).lidx = s.lidx := rfl
@[simp] theorem State.modCluster_launches (s : State) (k : Nat) (f : Cluster → Cluster) : (s.modCluster k f).launches = s.launches := rfl
@[simp] theorem State.modCluster_logSeq (s : State) (k : Nat) (f : Cluster → Cluster) : (s.modCluster k f).logSeq = s.logSeq := rfl
@[simp] theorem State.modCluster_preempting (s : State) (k : Nat) (f : Cluster → Cluster) : (s.modCluster k f).preempting = s.preempting := rfl
@[simp] theorem State.modCluster_waiters (s : State) (k : Nat) (f : Cluster → Cluster) : (s.modCluster k f).waiters = s.waiters := rfl
@[simp] theorem State.modCluster_claimQ (s : State) (k : Nat) (f : Cluster → Cluster) : (s.modCluster k f).claimQ = s.claimQ := rfl
@[simp] theorem State.modCluster_claimFree (s : State) (k : Nat) (f : Cluster → Cluster) : (s.modCluster k f).claimFree = s.claimFree := rfl
@[simp] theorem State.modCluster_parts (s : State) (k : Nat) (f : Cluster → Cluster) : (s.modCluster k f).parts = s.parts := rfl
@[simp] theorem State.modCluster_owner (s : State) (k : Nat) (f : Cluster → Cluster) : (s.modCluster k f).owner = s.owner := rfl
@[simp] theorem State.modCluster_windows (s : State) (k : Nat) (f : Cluster → Cluster) : (s.modCluster k f).windows = s.windows := rfl
@[simp] theorem State.modCluster_powerCap (s : State) (k : Nat) (f : Cluster → Cluster) : (s.modCluster k f).powerCap = s.powerCap := rfl
@[simp] theorem State.modCluster_links (s : State) (k : Nat) (f : Cluster → Cluster) : (s.modCluster k f).links = s.links := rfl
@[simp] theorem State.modCluster_boot (s : State) (k : Nat) (f : Cluster → Cluster) : (s.modCluster k f).boot = s.boot := rfl
@[simp] theorem State.modCluster_repair (s : State) (k : Nat) (f : Cluster → Cluster) : (s.modCluster k f).repair = s.repair := rfl
@[simp] theorem State.modCluster_telemetry (s : State) (k : Nat) (f : Cluster → Cluster) : (s.modCluster k f).telemetry = s.telemetry := rfl
@[simp] theorem State.modCluster_reply (s : State) (k : Nat) (f : Cluster → Cluster) : (s.modCluster k f).reply = s.reply := rfl
@[simp] theorem State.modCluster_saved (s : State) (k : Nat) (f : Cluster → Cluster) : (s.modCluster k f).saved = s.saved := rfl
@[simp] theorem State.modCluster_cur (s : State) (k : Nat) (f : Cluster → Cluster) : (s.modCluster k f).cur = s.cur := rfl
@[simp] theorem State.modCluster_draws (s : State) (k : Nat) (f : Cluster → Cluster) : (s.modCluster k f).draws = s.draws := rfl
@[simp] theorem State.modCluster_nextId (s : State) (k : Nat) (f : Cluster → Cluster) : (s.modCluster k f).nextId = s.nextId := rfl

@[simp] theorem State.setQueue_cyc (s : State) (q : Nat) (x : Queue) : (s.setQueue q x).cyc = s.cyc := rfl
@[simp] theorem State.setQueue_turn (s : State) (q : Nat) (x : Queue) : (s.setQueue q x).turn = s.turn := rfl
@[simp] theorem State.setQueue_inbox (s : State) (q : Nat) (x : Queue) : (s.setQueue q x).inbox = s.inbox := rfl
@[simp] theorem State.setQueue_calendar (s : State) (q : Nat) (x : Queue) : (s.setQueue q x).calendar = s.calendar := rfl
@[simp] theorem State.setQueue_mem (s : State) (q : Nat) (x : Queue) : (s.setQueue q x).mem = s.mem := rfl
@[simp] theorem State.setQueue_marks (s : State) (q : Nat) (x : Queue) : (s.setQueue q x).marks = s.marks := rfl
@[simp] theorem State.setQueue_cores (s : State) (q : Nat) (x : Queue) : (s.setQueue q x).cores = s.cores := rfl
@[simp] theorem State.setQueue_clusters (s : State) (q : Nat) (x : Queue) : (s.setQueue q x).clusters = s.clusters := rfl
@[simp] theorem State.setQueue_writes (s : State) (q : Nat) (x : Queue) : (s.setQueue q x).writes = s.writes := rfl
@[simp] theorem State.setQueue_qptr (s : State) (q : Nat) (x : Queue) : (s.setQueue q x).qptr = s.qptr := rfl
@[simp] theorem State.setQueue_lidx (s : State) (q : Nat) (x : Queue) : (s.setQueue q x).lidx = s.lidx := rfl
@[simp] theorem State.setQueue_launches (s : State) (q : Nat) (x : Queue) : (s.setQueue q x).launches = s.launches := rfl
@[simp] theorem State.setQueue_logSeq (s : State) (q : Nat) (x : Queue) : (s.setQueue q x).logSeq = s.logSeq := rfl
@[simp] theorem State.setQueue_preempting (s : State) (q : Nat) (x : Queue) : (s.setQueue q x).preempting = s.preempting := rfl
@[simp] theorem State.setQueue_waiters (s : State) (q : Nat) (x : Queue) : (s.setQueue q x).waiters = s.waiters := rfl
@[simp] theorem State.setQueue_claimQ (s : State) (q : Nat) (x : Queue) : (s.setQueue q x).claimQ = s.claimQ := rfl
@[simp] theorem State.setQueue_claimFree (s : State) (q : Nat) (x : Queue) : (s.setQueue q x).claimFree = s.claimFree := rfl
@[simp] theorem State.setQueue_parts (s : State) (q : Nat) (x : Queue) : (s.setQueue q x).parts = s.parts := rfl
@[simp] theorem State.setQueue_owner (s : State) (q : Nat) (x : Queue) : (s.setQueue q x).owner = s.owner := rfl
@[simp] theorem State.setQueue_windows (s : State) (q : Nat) (x : Queue) : (s.setQueue q x).windows = s.windows := rfl
@[simp] theorem State.setQueue_powerCap (s : State) (q : Nat) (x : Queue) : (s.setQueue q x).powerCap = s.powerCap := rfl
@[simp] theorem State.setQueue_links (s : State) (q : Nat) (x : Queue) : (s.setQueue q x).links = s.links := rfl
@[simp] theorem State.setQueue_boot (s : State) (q : Nat) (x : Queue) : (s.setQueue q x).boot = s.boot := rfl
@[simp] theorem State.setQueue_repair (s : State) (q : Nat) (x : Queue) : (s.setQueue q x).repair = s.repair := rfl
@[simp] theorem State.setQueue_telemetry (s : State) (q : Nat) (x : Queue) : (s.setQueue q x).telemetry = s.telemetry := rfl
@[simp] theorem State.setQueue_reply (s : State) (q : Nat) (x : Queue) : (s.setQueue q x).reply = s.reply := rfl
@[simp] theorem State.setQueue_saved (s : State) (q : Nat) (x : Queue) : (s.setQueue q x).saved = s.saved := rfl
@[simp] theorem State.setQueue_cur (s : State) (q : Nat) (x : Queue) : (s.setQueue q x).cur = s.cur := rfl
@[simp] theorem State.setQueue_draws (s : State) (q : Nat) (x : Queue) : (s.setQueue q x).draws = s.draws := rfl
@[simp] theorem State.setQueue_nextId (s : State) (q : Nat) (x : Queue) : (s.setQueue q x).nextId = s.nextId := rfl

@[simp] theorem State.setPart_cyc (s : State) (p : Nat) (x : Part) : (s.setPart p x).cyc = s.cyc := rfl
@[simp] theorem State.setPart_turn (s : State) (p : Nat) (x : Part) : (s.setPart p x).turn = s.turn := rfl
@[simp] theorem State.setPart_inbox (s : State) (p : Nat) (x : Part) : (s.setPart p x).inbox = s.inbox := rfl
@[simp] theorem State.setPart_calendar (s : State) (p : Nat) (x : Part) : (s.setPart p x).calendar = s.calendar := rfl
@[simp] theorem State.setPart_mem (s : State) (p : Nat) (x : Part) : (s.setPart p x).mem = s.mem := rfl
@[simp] theorem State.setPart_marks (s : State) (p : Nat) (x : Part) : (s.setPart p x).marks = s.marks := rfl
@[simp] theorem State.setPart_cores (s : State) (p : Nat) (x : Part) : (s.setPart p x).cores = s.cores := rfl
@[simp] theorem State.setPart_clusters (s : State) (p : Nat) (x : Part) : (s.setPart p x).clusters = s.clusters := rfl
@[simp] theorem State.setPart_writes (s : State) (p : Nat) (x : Part) : (s.setPart p x).writes = s.writes := rfl
@[simp] theorem State.setPart_queues (s : State) (p : Nat) (x : Part) : (s.setPart p x).queues = s.queues := rfl
@[simp] theorem State.setPart_qptr (s : State) (p : Nat) (x : Part) : (s.setPart p x).qptr = s.qptr := rfl
@[simp] theorem State.setPart_lidx (s : State) (p : Nat) (x : Part) : (s.setPart p x).lidx = s.lidx := rfl
@[simp] theorem State.setPart_launches (s : State) (p : Nat) (x : Part) : (s.setPart p x).launches = s.launches := rfl
@[simp] theorem State.setPart_logSeq (s : State) (p : Nat) (x : Part) : (s.setPart p x).logSeq = s.logSeq := rfl
@[simp] theorem State.setPart_preempting (s : State) (p : Nat) (x : Part) : (s.setPart p x).preempting = s.preempting := rfl
@[simp] theorem State.setPart_waiters (s : State) (p : Nat) (x : Part) : (s.setPart p x).waiters = s.waiters := rfl
@[simp] theorem State.setPart_claimQ (s : State) (p : Nat) (x : Part) : (s.setPart p x).claimQ = s.claimQ := rfl
@[simp] theorem State.setPart_claimFree (s : State) (p : Nat) (x : Part) : (s.setPart p x).claimFree = s.claimFree := rfl
@[simp] theorem State.setPart_owner (s : State) (p : Nat) (x : Part) : (s.setPart p x).owner = s.owner := rfl
@[simp] theorem State.setPart_windows (s : State) (p : Nat) (x : Part) : (s.setPart p x).windows = s.windows := rfl
@[simp] theorem State.setPart_powerCap (s : State) (p : Nat) (x : Part) : (s.setPart p x).powerCap = s.powerCap := rfl
@[simp] theorem State.setPart_links (s : State) (p : Nat) (x : Part) : (s.setPart p x).links = s.links := rfl
@[simp] theorem State.setPart_boot (s : State) (p : Nat) (x : Part) : (s.setPart p x).boot = s.boot := rfl
@[simp] theorem State.setPart_repair (s : State) (p : Nat) (x : Part) : (s.setPart p x).repair = s.repair := rfl
@[simp] theorem State.setPart_telemetry (s : State) (p : Nat) (x : Part) : (s.setPart p x).telemetry = s.telemetry := rfl
@[simp] theorem State.setPart_reply (s : State) (p : Nat) (x : Part) : (s.setPart p x).reply = s.reply := rfl
@[simp] theorem State.setPart_saved (s : State) (p : Nat) (x : Part) : (s.setPart p x).saved = s.saved := rfl
@[simp] theorem State.setPart_cur (s : State) (p : Nat) (x : Part) : (s.setPart p x).cur = s.cur := rfl
@[simp] theorem State.setPart_draws (s : State) (p : Nat) (x : Part) : (s.setPart p x).draws = s.draws := rfl
@[simp] theorem State.setPart_nextId (s : State) (p : Nat) (x : Part) : (s.setPart p x).nextId = s.nextId := rfl

@[simp] theorem State.setWindow_cyc (s : State) (n : Nat) (x : Window) : (s.setWindow n x).cyc = s.cyc := rfl
@[simp] theorem State.setWindow_turn (s : State) (n : Nat) (x : Window) : (s.setWindow n x).turn = s.turn := rfl
@[simp] theorem State.setWindow_inbox (s : State) (n : Nat) (x : Window) : (s.setWindow n x).inbox = s.inbox := rfl
@[simp] theorem State.setWindow_calendar (s : State) (n : Nat) (x : Window) : (s.setWindow n x).calendar = s.calendar := rfl
@[simp] theorem State.setWindow_mem (s : State) (n : Nat) (x : Window) : (s.setWindow n x).mem = s.mem := rfl
@[simp] theorem State.setWindow_marks (s : State) (n : Nat) (x : Window) : (s.setWindow n x).marks = s.marks := rfl
@[simp] theorem State.setWindow_cores (s : State) (n : Nat) (x : Window) : (s.setWindow n x).cores = s.cores := rfl
@[simp] theorem State.setWindow_clusters (s : State) (n : Nat) (x : Window) : (s.setWindow n x).clusters = s.clusters := rfl
@[simp] theorem State.setWindow_writes (s : State) (n : Nat) (x : Window) : (s.setWindow n x).writes = s.writes := rfl
@[simp] theorem State.setWindow_queues (s : State) (n : Nat) (x : Window) : (s.setWindow n x).queues = s.queues := rfl
@[simp] theorem State.setWindow_qptr (s : State) (n : Nat) (x : Window) : (s.setWindow n x).qptr = s.qptr := rfl
@[simp] theorem State.setWindow_lidx (s : State) (n : Nat) (x : Window) : (s.setWindow n x).lidx = s.lidx := rfl
@[simp] theorem State.setWindow_launches (s : State) (n : Nat) (x : Window) : (s.setWindow n x).launches = s.launches := rfl
@[simp] theorem State.setWindow_logSeq (s : State) (n : Nat) (x : Window) : (s.setWindow n x).logSeq = s.logSeq := rfl
@[simp] theorem State.setWindow_preempting (s : State) (n : Nat) (x : Window) : (s.setWindow n x).preempting = s.preempting := rfl
@[simp] theorem State.setWindow_waiters (s : State) (n : Nat) (x : Window) : (s.setWindow n x).waiters = s.waiters := rfl
@[simp] theorem State.setWindow_claimQ (s : State) (n : Nat) (x : Window) : (s.setWindow n x).claimQ = s.claimQ := rfl
@[simp] theorem State.setWindow_claimFree (s : State) (n : Nat) (x : Window) : (s.setWindow n x).claimFree = s.claimFree := rfl
@[simp] theorem State.setWindow_parts (s : State) (n : Nat) (x : Window) : (s.setWindow n x).parts = s.parts := rfl
@[simp] theorem State.setWindow_owner (s : State) (n : Nat) (x : Window) : (s.setWindow n x).owner = s.owner := rfl
@[simp] theorem State.setWindow_powerCap (s : State) (n : Nat) (x : Window) : (s.setWindow n x).powerCap = s.powerCap := rfl
@[simp] theorem State.setWindow_links (s : State) (n : Nat) (x : Window) : (s.setWindow n x).links = s.links := rfl
@[simp] theorem State.setWindow_boot (s : State) (n : Nat) (x : Window) : (s.setWindow n x).boot = s.boot := rfl
@[simp] theorem State.setWindow_repair (s : State) (n : Nat) (x : Window) : (s.setWindow n x).repair = s.repair := rfl
@[simp] theorem State.setWindow_telemetry (s : State) (n : Nat) (x : Window) : (s.setWindow n x).telemetry = s.telemetry := rfl
@[simp] theorem State.setWindow_reply (s : State) (n : Nat) (x : Window) : (s.setWindow n x).reply = s.reply := rfl
@[simp] theorem State.setWindow_saved (s : State) (n : Nat) (x : Window) : (s.setWindow n x).saved = s.saved := rfl
@[simp] theorem State.setWindow_cur (s : State) (n : Nat) (x : Window) : (s.setWindow n x).cur = s.cur := rfl
@[simp] theorem State.setWindow_draws (s : State) (n : Nat) (x : Window) : (s.setWindow n x).draws = s.draws := rfl
@[simp] theorem State.setWindow_nextId (s : State) (n : Nat) (x : Window) : (s.setWindow n x).nextId = s.nextId := rfl

@[simp] theorem State.setLink_cyc (s : State) (n : Nat) (x : Link) : (s.setLink n x).cyc = s.cyc := rfl
@[simp] theorem State.setLink_turn (s : State) (n : Nat) (x : Link) : (s.setLink n x).turn = s.turn := rfl
@[simp] theorem State.setLink_inbox (s : State) (n : Nat) (x : Link) : (s.setLink n x).inbox = s.inbox := rfl
@[simp] theorem State.setLink_calendar (s : State) (n : Nat) (x : Link) : (s.setLink n x).calendar = s.calendar := rfl
@[simp] theorem State.setLink_mem (s : State) (n : Nat) (x : Link) : (s.setLink n x).mem = s.mem := rfl
@[simp] theorem State.setLink_marks (s : State) (n : Nat) (x : Link) : (s.setLink n x).marks = s.marks := rfl
@[simp] theorem State.setLink_cores (s : State) (n : Nat) (x : Link) : (s.setLink n x).cores = s.cores := rfl
@[simp] theorem State.setLink_clusters (s : State) (n : Nat) (x : Link) : (s.setLink n x).clusters = s.clusters := rfl
@[simp] theorem State.setLink_writes (s : State) (n : Nat) (x : Link) : (s.setLink n x).writes = s.writes := rfl
@[simp] theorem State.setLink_queues (s : State) (n : Nat) (x : Link) : (s.setLink n x).queues = s.queues := rfl
@[simp] theorem State.setLink_qptr (s : State) (n : Nat) (x : Link) : (s.setLink n x).qptr = s.qptr := rfl
@[simp] theorem State.setLink_lidx (s : State) (n : Nat) (x : Link) : (s.setLink n x).lidx = s.lidx := rfl
@[simp] theorem State.setLink_launches (s : State) (n : Nat) (x : Link) : (s.setLink n x).launches = s.launches := rfl
@[simp] theorem State.setLink_logSeq (s : State) (n : Nat) (x : Link) : (s.setLink n x).logSeq = s.logSeq := rfl
@[simp] theorem State.setLink_preempting (s : State) (n : Nat) (x : Link) : (s.setLink n x).preempting = s.preempting := rfl
@[simp] theorem State.setLink_waiters (s : State) (n : Nat) (x : Link) : (s.setLink n x).waiters = s.waiters := rfl
@[simp] theorem State.setLink_claimQ (s : State) (n : Nat) (x : Link) : (s.setLink n x).claimQ = s.claimQ := rfl
@[simp] theorem State.setLink_claimFree (s : State) (n : Nat) (x : Link) : (s.setLink n x).claimFree = s.claimFree := rfl
@[simp] theorem State.setLink_parts (s : State) (n : Nat) (x : Link) : (s.setLink n x).parts = s.parts := rfl
@[simp] theorem State.setLink_owner (s : State) (n : Nat) (x : Link) : (s.setLink n x).owner = s.owner := rfl
@[simp] theorem State.setLink_windows (s : State) (n : Nat) (x : Link) : (s.setLink n x).windows = s.windows := rfl
@[simp] theorem State.setLink_powerCap (s : State) (n : Nat) (x : Link) : (s.setLink n x).powerCap = s.powerCap := rfl
@[simp] theorem State.setLink_boot (s : State) (n : Nat) (x : Link) : (s.setLink n x).boot = s.boot := rfl
@[simp] theorem State.setLink_repair (s : State) (n : Nat) (x : Link) : (s.setLink n x).repair = s.repair := rfl
@[simp] theorem State.setLink_telemetry (s : State) (n : Nat) (x : Link) : (s.setLink n x).telemetry = s.telemetry := rfl
@[simp] theorem State.setLink_reply (s : State) (n : Nat) (x : Link) : (s.setLink n x).reply = s.reply := rfl
@[simp] theorem State.setLink_saved (s : State) (n : Nat) (x : Link) : (s.setLink n x).saved = s.saved := rfl
@[simp] theorem State.setLink_cur (s : State) (n : Nat) (x : Link) : (s.setLink n x).cur = s.cur := rfl
@[simp] theorem State.setLink_draws (s : State) (n : Nat) (x : Link) : (s.setLink n x).draws = s.draws := rfl
@[simp] theorem State.setLink_nextId (s : State) (n : Nat) (x : Link) : (s.setLink n x).nextId = s.nextId := rfl

@[simp] theorem State.count_cyc (s : State) (k : Nat) : (s.count k).cyc = s.cyc := rfl
@[simp] theorem State.count_turn (s : State) (k : Nat) : (s.count k).turn = s.turn := rfl
@[simp] theorem State.count_inbox (s : State) (k : Nat) : (s.count k).inbox = s.inbox := rfl
@[simp] theorem State.count_calendar (s : State) (k : Nat) : (s.count k).calendar = s.calendar := rfl
@[simp] theorem State.count_mem (s : State) (k : Nat) : (s.count k).mem = s.mem := rfl
@[simp] theorem State.count_marks (s : State) (k : Nat) : (s.count k).marks = s.marks := rfl
@[simp] theorem State.count_cores (s : State) (k : Nat) : (s.count k).cores = s.cores := rfl
@[simp] theorem State.count_clusters (s : State) (k : Nat) : (s.count k).clusters = s.clusters := rfl
@[simp] theorem State.count_writes (s : State) (k : Nat) : (s.count k).writes = s.writes := rfl
@[simp] theorem State.count_queues (s : State) (k : Nat) : (s.count k).queues = s.queues := rfl
@[simp] theorem State.count_qptr (s : State) (k : Nat) : (s.count k).qptr = s.qptr := rfl
@[simp] theorem State.count_lidx (s : State) (k : Nat) : (s.count k).lidx = s.lidx := rfl
@[simp] theorem State.count_launches (s : State) (k : Nat) : (s.count k).launches = s.launches := rfl
@[simp] theorem State.count_logSeq (s : State) (k : Nat) : (s.count k).logSeq = s.logSeq := rfl
@[simp] theorem State.count_preempting (s : State) (k : Nat) : (s.count k).preempting = s.preempting := rfl
@[simp] theorem State.count_waiters (s : State) (k : Nat) : (s.count k).waiters = s.waiters := rfl
@[simp] theorem State.count_claimQ (s : State) (k : Nat) : (s.count k).claimQ = s.claimQ := rfl
@[simp] theorem State.count_claimFree (s : State) (k : Nat) : (s.count k).claimFree = s.claimFree := rfl
@[simp] theorem State.count_parts (s : State) (k : Nat) : (s.count k).parts = s.parts := rfl
@[simp] theorem State.count_owner (s : State) (k : Nat) : (s.count k).owner = s.owner := rfl
@[simp] theorem State.count_windows (s : State) (k : Nat) : (s.count k).windows = s.windows := rfl
@[simp] theorem State.count_powerCap (s : State) (k : Nat) : (s.count k).powerCap = s.powerCap := rfl
@[simp] theorem State.count_links (s : State) (k : Nat) : (s.count k).links = s.links := rfl
@[simp] theorem State.count_boot (s : State) (k : Nat) : (s.count k).boot = s.boot := rfl
@[simp] theorem State.count_repair (s : State) (k : Nat) : (s.count k).repair = s.repair := rfl
@[simp] theorem State.count_reply (s : State) (k : Nat) : (s.count k).reply = s.reply := rfl
@[simp] theorem State.count_saved (s : State) (k : Nat) : (s.count k).saved = s.saved := rfl
@[simp] theorem State.count_cur (s : State) (k : Nat) : (s.count k).cur = s.cur := rfl
@[simp] theorem State.count_draws (s : State) (k : Nat) : (s.count k).draws = s.draws := rfl
@[simp] theorem State.count_nextId (s : State) (k : Nat) : (s.count k).nextId = s.nextId := rfl

@[simp] theorem State.schedule_cyc (s : State) (d : Nat) (i : Instr) : (s.schedule d i).cyc = s.cyc := rfl
@[simp] theorem State.schedule_turn (s : State) (d : Nat) (i : Instr) : (s.schedule d i).turn = s.turn := rfl
@[simp] theorem State.schedule_inbox (s : State) (d : Nat) (i : Instr) : (s.schedule d i).inbox = s.inbox := rfl
@[simp] theorem State.schedule_mem (s : State) (d : Nat) (i : Instr) : (s.schedule d i).mem = s.mem := rfl
@[simp] theorem State.schedule_marks (s : State) (d : Nat) (i : Instr) : (s.schedule d i).marks = s.marks := rfl
@[simp] theorem State.schedule_cores (s : State) (d : Nat) (i : Instr) : (s.schedule d i).cores = s.cores := rfl
@[simp] theorem State.schedule_clusters (s : State) (d : Nat) (i : Instr) : (s.schedule d i).clusters = s.clusters := rfl
@[simp] theorem State.schedule_writes (s : State) (d : Nat) (i : Instr) : (s.schedule d i).writes = s.writes := rfl
@[simp] theorem State.schedule_queues (s : State) (d : Nat) (i : Instr) : (s.schedule d i).queues = s.queues := rfl
@[simp] theorem State.schedule_qptr (s : State) (d : Nat) (i : Instr) : (s.schedule d i).qptr = s.qptr := rfl
@[simp] theorem State.schedule_lidx (s : State) (d : Nat) (i : Instr) : (s.schedule d i).lidx = s.lidx := rfl
@[simp] theorem State.schedule_launches (s : State) (d : Nat) (i : Instr) : (s.schedule d i).launches = s.launches := rfl
@[simp] theorem State.schedule_logSeq (s : State) (d : Nat) (i : Instr) : (s.schedule d i).logSeq = s.logSeq := rfl
@[simp] theorem State.schedule_preempting (s : State) (d : Nat) (i : Instr) : (s.schedule d i).preempting = s.preempting := rfl
@[simp] theorem State.schedule_waiters (s : State) (d : Nat) (i : Instr) : (s.schedule d i).waiters = s.waiters := rfl
@[simp] theorem State.schedule_claimQ (s : State) (d : Nat) (i : Instr) : (s.schedule d i).claimQ = s.claimQ := rfl
@[simp] theorem State.schedule_claimFree (s : State) (d : Nat) (i : Instr) : (s.schedule d i).claimFree = s.claimFree := rfl
@[simp] theorem State.schedule_parts (s : State) (d : Nat) (i : Instr) : (s.schedule d i).parts = s.parts := rfl
@[simp] theorem State.schedule_owner (s : State) (d : Nat) (i : Instr) : (s.schedule d i).owner = s.owner := rfl
@[simp] theorem State.schedule_windows (s : State) (d : Nat) (i : Instr) : (s.schedule d i).windows = s.windows := rfl
@[simp] theorem State.schedule_powerCap (s : State) (d : Nat) (i : Instr) : (s.schedule d i).powerCap = s.powerCap := rfl
@[simp] theorem State.schedule_links (s : State) (d : Nat) (i : Instr) : (s.schedule d i).links = s.links := rfl
@[simp] theorem State.schedule_boot (s : State) (d : Nat) (i : Instr) : (s.schedule d i).boot = s.boot := rfl
@[simp] theorem State.schedule_repair (s : State) (d : Nat) (i : Instr) : (s.schedule d i).repair = s.repair := rfl
@[simp] theorem State.schedule_telemetry (s : State) (d : Nat) (i : Instr) : (s.schedule d i).telemetry = s.telemetry := rfl
@[simp] theorem State.schedule_reply (s : State) (d : Nat) (i : Instr) : (s.schedule d i).reply = s.reply := rfl
@[simp] theorem State.schedule_saved (s : State) (d : Nat) (i : Instr) : (s.schedule d i).saved = s.saved := rfl
@[simp] theorem State.schedule_cur (s : State) (d : Nat) (i : Instr) : (s.schedule d i).cur = s.cur := rfl
@[simp] theorem State.schedule_draws (s : State) (d : Nat) (i : Instr) : (s.schedule d i).draws = s.draws := rfl
@[simp] theorem State.schedule_nextId (s : State) (d : Nat) (i : Instr) : (s.schedule d i).nextId = s.nextId := rfl

@[simp] theorem State.storeLine_cyc (s : State) (a : Nat) (v : Line) : (s.storeLine a v).cyc = s.cyc := rfl
@[simp] theorem State.storeLine_turn (s : State) (a : Nat) (v : Line) : (s.storeLine a v).turn = s.turn := rfl
@[simp] theorem State.storeLine_inbox (s : State) (a : Nat) (v : Line) : (s.storeLine a v).inbox = s.inbox := rfl
@[simp] theorem State.storeLine_calendar (s : State) (a : Nat) (v : Line) : (s.storeLine a v).calendar = s.calendar := rfl
@[simp] theorem State.storeLine_marks (s : State) (a : Nat) (v : Line) : (s.storeLine a v).marks = s.marks := rfl
@[simp] theorem State.storeLine_cores (s : State) (a : Nat) (v : Line) : (s.storeLine a v).cores = s.cores := rfl
@[simp] theorem State.storeLine_clusters (s : State) (a : Nat) (v : Line) : (s.storeLine a v).clusters = s.clusters := rfl
@[simp] theorem State.storeLine_writes (s : State) (a : Nat) (v : Line) : (s.storeLine a v).writes = s.writes := rfl
@[simp] theorem State.storeLine_queues (s : State) (a : Nat) (v : Line) : (s.storeLine a v).queues = s.queues := rfl
@[simp] theorem State.storeLine_qptr (s : State) (a : Nat) (v : Line) : (s.storeLine a v).qptr = s.qptr := rfl
@[simp] theorem State.storeLine_lidx (s : State) (a : Nat) (v : Line) : (s.storeLine a v).lidx = s.lidx := rfl
@[simp] theorem State.storeLine_launches (s : State) (a : Nat) (v : Line) : (s.storeLine a v).launches = s.launches := rfl
@[simp] theorem State.storeLine_logSeq (s : State) (a : Nat) (v : Line) : (s.storeLine a v).logSeq = s.logSeq := rfl
@[simp] theorem State.storeLine_preempting (s : State) (a : Nat) (v : Line) : (s.storeLine a v).preempting = s.preempting := rfl
@[simp] theorem State.storeLine_waiters (s : State) (a : Nat) (v : Line) : (s.storeLine a v).waiters = s.waiters := rfl
@[simp] theorem State.storeLine_claimQ (s : State) (a : Nat) (v : Line) : (s.storeLine a v).claimQ = s.claimQ := rfl
@[simp] theorem State.storeLine_claimFree (s : State) (a : Nat) (v : Line) : (s.storeLine a v).claimFree = s.claimFree := rfl
@[simp] theorem State.storeLine_parts (s : State) (a : Nat) (v : Line) : (s.storeLine a v).parts = s.parts := rfl
@[simp] theorem State.storeLine_owner (s : State) (a : Nat) (v : Line) : (s.storeLine a v).owner = s.owner := rfl
@[simp] theorem State.storeLine_windows (s : State) (a : Nat) (v : Line) : (s.storeLine a v).windows = s.windows := rfl
@[simp] theorem State.storeLine_powerCap (s : State) (a : Nat) (v : Line) : (s.storeLine a v).powerCap = s.powerCap := rfl
@[simp] theorem State.storeLine_links (s : State) (a : Nat) (v : Line) : (s.storeLine a v).links = s.links := rfl
@[simp] theorem State.storeLine_boot (s : State) (a : Nat) (v : Line) : (s.storeLine a v).boot = s.boot := rfl
@[simp] theorem State.storeLine_repair (s : State) (a : Nat) (v : Line) : (s.storeLine a v).repair = s.repair := rfl
@[simp] theorem State.storeLine_telemetry (s : State) (a : Nat) (v : Line) : (s.storeLine a v).telemetry = s.telemetry := rfl
@[simp] theorem State.storeLine_reply (s : State) (a : Nat) (v : Line) : (s.storeLine a v).reply = s.reply := rfl
@[simp] theorem State.storeLine_saved (s : State) (a : Nat) (v : Line) : (s.storeLine a v).saved = s.saved := rfl
@[simp] theorem State.storeLine_cur (s : State) (a : Nat) (v : Line) : (s.storeLine a v).cur = s.cur := rfl
@[simp] theorem State.storeLine_draws (s : State) (a : Nat) (v : Line) : (s.storeLine a v).draws = s.draws := rfl
@[simp] theorem State.storeLine_nextId (s : State) (a : Nat) (v : Line) : (s.storeLine a v).nextId = s.nextId := rfl

@[simp] theorem State.storeWord_cyc (s : State) (a : Nat) (v : Word) : (s.storeWord a v).cyc = s.cyc := rfl
@[simp] theorem State.storeWord_turn (s : State) (a : Nat) (v : Word) : (s.storeWord a v).turn = s.turn := rfl
@[simp] theorem State.storeWord_inbox (s : State) (a : Nat) (v : Word) : (s.storeWord a v).inbox = s.inbox := rfl
@[simp] theorem State.storeWord_calendar (s : State) (a : Nat) (v : Word) : (s.storeWord a v).calendar = s.calendar := rfl
@[simp] theorem State.storeWord_marks (s : State) (a : Nat) (v : Word) : (s.storeWord a v).marks = s.marks := rfl
@[simp] theorem State.storeWord_cores (s : State) (a : Nat) (v : Word) : (s.storeWord a v).cores = s.cores := rfl
@[simp] theorem State.storeWord_clusters (s : State) (a : Nat) (v : Word) : (s.storeWord a v).clusters = s.clusters := rfl
@[simp] theorem State.storeWord_writes (s : State) (a : Nat) (v : Word) : (s.storeWord a v).writes = s.writes := rfl
@[simp] theorem State.storeWord_queues (s : State) (a : Nat) (v : Word) : (s.storeWord a v).queues = s.queues := rfl
@[simp] theorem State.storeWord_qptr (s : State) (a : Nat) (v : Word) : (s.storeWord a v).qptr = s.qptr := rfl
@[simp] theorem State.storeWord_lidx (s : State) (a : Nat) (v : Word) : (s.storeWord a v).lidx = s.lidx := rfl
@[simp] theorem State.storeWord_launches (s : State) (a : Nat) (v : Word) : (s.storeWord a v).launches = s.launches := rfl
@[simp] theorem State.storeWord_logSeq (s : State) (a : Nat) (v : Word) : (s.storeWord a v).logSeq = s.logSeq := rfl
@[simp] theorem State.storeWord_preempting (s : State) (a : Nat) (v : Word) : (s.storeWord a v).preempting = s.preempting := rfl
@[simp] theorem State.storeWord_waiters (s : State) (a : Nat) (v : Word) : (s.storeWord a v).waiters = s.waiters := rfl
@[simp] theorem State.storeWord_claimQ (s : State) (a : Nat) (v : Word) : (s.storeWord a v).claimQ = s.claimQ := rfl
@[simp] theorem State.storeWord_claimFree (s : State) (a : Nat) (v : Word) : (s.storeWord a v).claimFree = s.claimFree := rfl
@[simp] theorem State.storeWord_parts (s : State) (a : Nat) (v : Word) : (s.storeWord a v).parts = s.parts := rfl
@[simp] theorem State.storeWord_owner (s : State) (a : Nat) (v : Word) : (s.storeWord a v).owner = s.owner := rfl
@[simp] theorem State.storeWord_windows (s : State) (a : Nat) (v : Word) : (s.storeWord a v).windows = s.windows := rfl
@[simp] theorem State.storeWord_powerCap (s : State) (a : Nat) (v : Word) : (s.storeWord a v).powerCap = s.powerCap := rfl
@[simp] theorem State.storeWord_links (s : State) (a : Nat) (v : Word) : (s.storeWord a v).links = s.links := rfl
@[simp] theorem State.storeWord_boot (s : State) (a : Nat) (v : Word) : (s.storeWord a v).boot = s.boot := rfl
@[simp] theorem State.storeWord_repair (s : State) (a : Nat) (v : Word) : (s.storeWord a v).repair = s.repair := rfl
@[simp] theorem State.storeWord_telemetry (s : State) (a : Nat) (v : Word) : (s.storeWord a v).telemetry = s.telemetry := rfl
@[simp] theorem State.storeWord_reply (s : State) (a : Nat) (v : Word) : (s.storeWord a v).reply = s.reply := rfl
@[simp] theorem State.storeWord_saved (s : State) (a : Nat) (v : Word) : (s.storeWord a v).saved = s.saved := rfl
@[simp] theorem State.storeWord_cur (s : State) (a : Nat) (v : Word) : (s.storeWord a v).cur = s.cur := rfl
@[simp] theorem State.storeWord_draws (s : State) (a : Nat) (v : Word) : (s.storeWord a v).draws = s.draws := rfl
@[simp] theorem State.storeWord_nextId (s : State) (a : Nat) (v : Word) : (s.storeWord a v).nextId = s.nextId := rfl

@[simp] theorem State.setMark_cyc (s : State) (a : Nat) (m : Mark) : (s.setMark a m).cyc = s.cyc := rfl
@[simp] theorem State.setMark_turn (s : State) (a : Nat) (m : Mark) : (s.setMark a m).turn = s.turn := rfl
@[simp] theorem State.setMark_inbox (s : State) (a : Nat) (m : Mark) : (s.setMark a m).inbox = s.inbox := rfl
@[simp] theorem State.setMark_calendar (s : State) (a : Nat) (m : Mark) : (s.setMark a m).calendar = s.calendar := rfl
@[simp] theorem State.setMark_mem (s : State) (a : Nat) (m : Mark) : (s.setMark a m).mem = s.mem := rfl
@[simp] theorem State.setMark_cores (s : State) (a : Nat) (m : Mark) : (s.setMark a m).cores = s.cores := rfl
@[simp] theorem State.setMark_clusters (s : State) (a : Nat) (m : Mark) : (s.setMark a m).clusters = s.clusters := rfl
@[simp] theorem State.setMark_writes (s : State) (a : Nat) (m : Mark) : (s.setMark a m).writes = s.writes := rfl
@[simp] theorem State.setMark_queues (s : State) (a : Nat) (m : Mark) : (s.setMark a m).queues = s.queues := rfl
@[simp] theorem State.setMark_qptr (s : State) (a : Nat) (m : Mark) : (s.setMark a m).qptr = s.qptr := rfl
@[simp] theorem State.setMark_lidx (s : State) (a : Nat) (m : Mark) : (s.setMark a m).lidx = s.lidx := rfl
@[simp] theorem State.setMark_launches (s : State) (a : Nat) (m : Mark) : (s.setMark a m).launches = s.launches := rfl
@[simp] theorem State.setMark_logSeq (s : State) (a : Nat) (m : Mark) : (s.setMark a m).logSeq = s.logSeq := rfl
@[simp] theorem State.setMark_preempting (s : State) (a : Nat) (m : Mark) : (s.setMark a m).preempting = s.preempting := rfl
@[simp] theorem State.setMark_waiters (s : State) (a : Nat) (m : Mark) : (s.setMark a m).waiters = s.waiters := rfl
@[simp] theorem State.setMark_claimQ (s : State) (a : Nat) (m : Mark) : (s.setMark a m).claimQ = s.claimQ := rfl
@[simp] theorem State.setMark_claimFree (s : State) (a : Nat) (m : Mark) : (s.setMark a m).claimFree = s.claimFree := rfl
@[simp] theorem State.setMark_parts (s : State) (a : Nat) (m : Mark) : (s.setMark a m).parts = s.parts := rfl
@[simp] theorem State.setMark_owner (s : State) (a : Nat) (m : Mark) : (s.setMark a m).owner = s.owner := rfl
@[simp] theorem State.setMark_windows (s : State) (a : Nat) (m : Mark) : (s.setMark a m).windows = s.windows := rfl
@[simp] theorem State.setMark_powerCap (s : State) (a : Nat) (m : Mark) : (s.setMark a m).powerCap = s.powerCap := rfl
@[simp] theorem State.setMark_links (s : State) (a : Nat) (m : Mark) : (s.setMark a m).links = s.links := rfl
@[simp] theorem State.setMark_boot (s : State) (a : Nat) (m : Mark) : (s.setMark a m).boot = s.boot := rfl
@[simp] theorem State.setMark_repair (s : State) (a : Nat) (m : Mark) : (s.setMark a m).repair = s.repair := rfl
@[simp] theorem State.setMark_telemetry (s : State) (a : Nat) (m : Mark) : (s.setMark a m).telemetry = s.telemetry := rfl
@[simp] theorem State.setMark_reply (s : State) (a : Nat) (m : Mark) : (s.setMark a m).reply = s.reply := rfl
@[simp] theorem State.setMark_saved (s : State) (a : Nat) (m : Mark) : (s.setMark a m).saved = s.saved := rfl
@[simp] theorem State.setMark_cur (s : State) (a : Nat) (m : Mark) : (s.setMark a m).cur = s.cur := rfl
@[simp] theorem State.setMark_draws (s : State) (a : Nat) (m : Mark) : (s.setMark a m).draws = s.draws := rfl
@[simp] theorem State.setMark_nextId (s : State) (a : Nat) (m : Mark) : (s.setMark a m).nextId = s.nextId := rfl

/-! ## Updates of a core -/

@[simp] theorem Core.setCtx_tiles (k : Core) (x : Nat) (v : Ctx) : (k.setCtx x v).tiles = k.tiles := rfl
@[simp] theorem Core.setCtx_banks (k : Core) (x : Nat) (v : Ctx) : (k.setCtx x v).banks = k.banks := rfl
@[simp] theorem Core.setCtx_bankMap (k : Core) (x : Nat) (v : Ctx) : (k.setCtx x v).bankMap = k.bankMap := rfl
@[simp] theorem Core.setCtx_ports (k : Core) (x : Nat) (v : Ctx) : (k.setCtx x v).ports = k.ports := rfl
@[simp] theorem Core.setCtx_buffers (k : Core) (x : Nat) (v : Ctx) : (k.setCtx x v).buffers = k.buffers := rfl
@[simp] theorem Core.setCtx_loadQ (k : Core) (x : Nat) (v : Ctx) : (k.setCtx x v).loadQ = k.loadQ := rfl
@[simp] theorem Core.setCtx_runQ (k : Core) (x : Nat) (v : Ctx) : (k.setCtx x v).runQ = k.runQ := rfl
@[simp] theorem Core.setCtx_loadNow (k : Core) (x : Nat) (v : Ctx) : (k.setCtx x v).loadNow = k.loadNow := rfl
@[simp] theorem Core.setCtx_runNow (k : Core) (x : Nat) (v : Ctx) : (k.setCtx x v).runNow = k.runNow := rfl
@[simp] theorem Core.setCtx_ppeQ (k : Core) (x : Nat) (v : Ctx) : (k.setCtx x v).ppeQ = k.ppeQ := rfl
@[simp] theorem Core.setCtx_drainNow (k : Core) (x : Nat) (v : Ctx) : (k.setCtx x v).drainNow = k.drainNow := rfl
@[simp] theorem Core.setCtx_sets (k : Core) (x : Nat) (v : Ctx) : (k.setCtx x v).sets = k.sets := rfl
@[simp] theorem Core.setCtx_tables (k : Core) (x : Nat) (v : Ctx) : (k.setCtx x v).tables = k.tables := rfl
@[simp] theorem Core.setCtx_copyQ (k : Core) (x : Nat) (v : Ctx) : (k.setCtx x v).copyQ = k.copyQ := rfl
@[simp] theorem Core.setCtx_chans (k : Core) (x : Nat) (v : Ctx) : (k.setCtx x v).chans = k.chans := rfl
@[simp] theorem Core.setCtx_scaQ (k : Core) (x : Nat) (v : Ctx) : (k.setCtx x v).scaQ = k.scaQ := rfl
@[simp] theorem Core.setCtx_scaNow (k : Core) (x : Nat) (v : Ctx) : (k.setCtx x v).scaNow = k.scaNow := rfl
@[simp] theorem Core.setCtx_joins (k : Core) (x : Nat) (v : Ctx) : (k.setCtx x v).joins = k.joins := rfl
@[simp] theorem Core.setCtx_ended (k : Core) (x : Nat) (v : Ctx) : (k.setCtx x v).ended = k.ended := rfl
@[simp] theorem Core.setCtx_tileBusy (k : Core) (x : Nat) (v : Ctx) : (k.setCtx x v).tileBusy = k.tileBusy := rfl
@[simp] theorem Core.setCtx_readerUse (k : Core) (x : Nat) (v : Ctx) : (k.setCtx x v).readerUse = k.readerUse := rfl
@[simp] theorem Core.setCtx_rr (k : Core) (x : Nat) (v : Ctx) : (k.setCtx x v).rr = k.rr := rfl
@[simp] theorem Core.setCtx_trapQ (k : Core) (x : Nat) (v : Ctx) : (k.setCtx x v).trapQ = k.trapQ := rfl
@[simp] theorem Core.setCtx_msgQ (k : Core) (x : Nat) (v : Ctx) : (k.setCtx x v).msgQ = k.msgQ := rfl
@[simp] theorem Core.setCtx_trapinfo (k : Core) (x : Nat) (v : Ctx) : (k.setCtx x v).trapinfo = k.trapinfo := rfl
@[simp] theorem Core.setCtx_tpc (k : Core) (x : Nat) (v : Ctx) : (k.setCtx x v).tpc = k.tpc := rfl
@[simp] theorem Core.setCtx_tslot (k : Core) (x : Nat) (v : Ctx) : (k.setCtx x v).tslot = k.tslot := rfl
@[simp] theorem Core.setCtx_tval (k : Core) (x : Nat) (v : Ctx) : (k.setCtx x v).tval = k.tval := rfl
@[simp] theorem Core.setCtx_snap (k : Core) (x : Nat) (v : Ctx) : (k.setCtx x v).snap = k.snap := rfl
@[simp] theorem Core.setCtx_inj (k : Core) (x : Nat) (v : Ctx) : (k.setCtx x v).inj = k.inj := rfl
@[simp] theorem Core.setCtx_dthr (k : Core) (x : Nat) (v : Ctx) : (k.setCtx x v).dthr = k.dthr := rfl
@[simp] theorem Core.setCtx_dbg (k : Core) (x : Nat) (v : Ctx) : (k.setCtx x v).dbg = k.dbg := rfl
@[simp] theorem Core.setCtx_tcnt (k : Core) (x : Nat) (v : Ctx) : (k.setCtx x v).tcnt = k.tcnt := rfl
@[simp] theorem Core.setCtx_traceQ (k : Core) (x : Nat) (v : Ctx) : (k.setCtx x v).traceQ = k.traceQ := rfl
@[simp] theorem Core.setCtx_rfsh (k : Core) (x : Nat) (v : Ctx) : (k.setCtx x v).rfsh = k.rfsh := rfl
@[simp] theorem Core.setCtx_rfshNext (k : Core) (x : Nat) (v : Ctx) : (k.setCtx x v).rfshNext = k.rfshNext := rfl
@[simp] theorem Core.setCtx_rfshPrev (k : Core) (x : Nat) (v : Ctx) : (k.setCtx x v).rfshPrev = k.rfshPrev := rfl
@[simp] theorem Core.setCtx_rfshAt (k : Core) (x : Nat) (v : Ctx) : (k.setCtx x v).rfshAt = k.rfshAt := rfl
@[simp] theorem Core.setCtx_rfshNextAt (k : Core) (x : Nat) (v : Ctx) : (k.setCtx x v).rfshNextAt = k.rfshNextAt := rfl
@[simp] theorem Core.setCtx_advances (k : Core) (x : Nat) (v : Ctx) : (k.setCtx x v).advances = k.advances := rfl
@[simp] theorem Core.setCtx_tallow (k : Core) (x : Nat) (v : Ctx) : (k.setCtx x v).tallow = k.tallow := rfl
@[simp] theorem Core.setCtx_temp (k : Core) (x : Nat) (v : Ctx) : (k.setCtx x v).temp = k.temp := rfl
@[simp] theorem Core.setCtx_layers (k : Core) (x : Nat) (v : Ctx) : (k.setCtx x v).layers = k.layers := rfl
@[simp] theorem Core.setCtx_asleep (k : Core) (x : Nat) (v : Ctx) : (k.setCtx x v).asleep = k.asleep := rfl
@[simp] theorem Core.setCtx_awakeFrom (k : Core) (x : Nat) (v : Ctx) : (k.setCtx x v).awakeFrom = k.awakeFrom := rfl
@[simp] theorem Core.setCtx_idleSince (k : Core) (x : Nat) (v : Ctx) : (k.setCtx x v).idleSince = k.idleSince := rfl
@[simp] theorem Core.setCtx_fenced (k : Core) (x : Nat) (v : Ctx) : (k.setCtx x v).fenced = k.fenced := rfl
@[simp] theorem Core.setCtx_image (k : Core) (x : Nat) (v : Ctx) : (k.setCtx x v).image = k.image := rfl
@[simp] theorem Core.setCtx_parity (k : Core) (x : Nat) (v : Ctx) : (k.setCtx x v).parity = k.parity := rfl
@[simp] theorem Core.setCtx_corrected (k : Core) (x : Nat) (v : Ctx) : (k.setCtx x v).corrected = k.corrected := rfl
@[simp] theorem Core.setCtx_uncorrectable (k : Core) (x : Nat) (v : Ctx) : (k.setCtx x v).uncorrectable = k.uncorrectable := rfl
@[simp] theorem Core.setCtx_supFaults (k : Core) (x : Nat) (v : Ctx) : (k.setCtx x v).supFaults = k.supFaults := rfl
@[simp] theorem Core.setCtx_nextSample (k : Core) (x : Nat) (v : Ctx) : (k.setCtx x v).nextSample = k.nextSample := rfl
@[simp] theorem Core.setCtx_saving (k : Core) (x : Nat) (v : Ctx) : (k.setCtx x v).saving = k.saving := rfl
@[simp] theorem Core.setCtx_supEntry (k : Core) (x : Nat) (v : Ctx) : (k.setCtx x v).supEntry = k.supEntry := rfl

@[simp] theorem Core.setPort_ctxs (k : Core) (n : Nat) (p : Port) : (k.setPort n p).ctxs = k.ctxs := rfl
@[simp] theorem Core.setPort_tiles (k : Core) (n : Nat) (p : Port) : (k.setPort n p).tiles = k.tiles := rfl
@[simp] theorem Core.setPort_banks (k : Core) (n : Nat) (p : Port) : (k.setPort n p).banks = k.banks := rfl
@[simp] theorem Core.setPort_bankMap (k : Core) (n : Nat) (p : Port) : (k.setPort n p).bankMap = k.bankMap := rfl
@[simp] theorem Core.setPort_buffers (k : Core) (n : Nat) (p : Port) : (k.setPort n p).buffers = k.buffers := rfl
@[simp] theorem Core.setPort_loadQ (k : Core) (n : Nat) (p : Port) : (k.setPort n p).loadQ = k.loadQ := rfl
@[simp] theorem Core.setPort_runQ (k : Core) (n : Nat) (p : Port) : (k.setPort n p).runQ = k.runQ := rfl
@[simp] theorem Core.setPort_loadNow (k : Core) (n : Nat) (p : Port) : (k.setPort n p).loadNow = k.loadNow := rfl
@[simp] theorem Core.setPort_runNow (k : Core) (n : Nat) (p : Port) : (k.setPort n p).runNow = k.runNow := rfl
@[simp] theorem Core.setPort_ppeQ (k : Core) (n : Nat) (p : Port) : (k.setPort n p).ppeQ = k.ppeQ := rfl
@[simp] theorem Core.setPort_drainNow (k : Core) (n : Nat) (p : Port) : (k.setPort n p).drainNow = k.drainNow := rfl
@[simp] theorem Core.setPort_sets (k : Core) (n : Nat) (p : Port) : (k.setPort n p).sets = k.sets := rfl
@[simp] theorem Core.setPort_tables (k : Core) (n : Nat) (p : Port) : (k.setPort n p).tables = k.tables := rfl
@[simp] theorem Core.setPort_copyQ (k : Core) (n : Nat) (p : Port) : (k.setPort n p).copyQ = k.copyQ := rfl
@[simp] theorem Core.setPort_chans (k : Core) (n : Nat) (p : Port) : (k.setPort n p).chans = k.chans := rfl
@[simp] theorem Core.setPort_scaQ (k : Core) (n : Nat) (p : Port) : (k.setPort n p).scaQ = k.scaQ := rfl
@[simp] theorem Core.setPort_scaNow (k : Core) (n : Nat) (p : Port) : (k.setPort n p).scaNow = k.scaNow := rfl
@[simp] theorem Core.setPort_joins (k : Core) (n : Nat) (p : Port) : (k.setPort n p).joins = k.joins := rfl
@[simp] theorem Core.setPort_ended (k : Core) (n : Nat) (p : Port) : (k.setPort n p).ended = k.ended := rfl
@[simp] theorem Core.setPort_tileBusy (k : Core) (n : Nat) (p : Port) : (k.setPort n p).tileBusy = k.tileBusy := rfl
@[simp] theorem Core.setPort_readerUse (k : Core) (n : Nat) (p : Port) : (k.setPort n p).readerUse = k.readerUse := rfl
@[simp] theorem Core.setPort_rr (k : Core) (n : Nat) (p : Port) : (k.setPort n p).rr = k.rr := rfl
@[simp] theorem Core.setPort_trapQ (k : Core) (n : Nat) (p : Port) : (k.setPort n p).trapQ = k.trapQ := rfl
@[simp] theorem Core.setPort_msgQ (k : Core) (n : Nat) (p : Port) : (k.setPort n p).msgQ = k.msgQ := rfl
@[simp] theorem Core.setPort_trapinfo (k : Core) (n : Nat) (p : Port) : (k.setPort n p).trapinfo = k.trapinfo := rfl
@[simp] theorem Core.setPort_tpc (k : Core) (n : Nat) (p : Port) : (k.setPort n p).tpc = k.tpc := rfl
@[simp] theorem Core.setPort_tslot (k : Core) (n : Nat) (p : Port) : (k.setPort n p).tslot = k.tslot := rfl
@[simp] theorem Core.setPort_tval (k : Core) (n : Nat) (p : Port) : (k.setPort n p).tval = k.tval := rfl
@[simp] theorem Core.setPort_snap (k : Core) (n : Nat) (p : Port) : (k.setPort n p).snap = k.snap := rfl
@[simp] theorem Core.setPort_inj (k : Core) (n : Nat) (p : Port) : (k.setPort n p).inj = k.inj := rfl
@[simp] theorem Core.setPort_dthr (k : Core) (n : Nat) (p : Port) : (k.setPort n p).dthr = k.dthr := rfl
@[simp] theorem Core.setPort_dbg (k : Core) (n : Nat) (p : Port) : (k.setPort n p).dbg = k.dbg := rfl
@[simp] theorem Core.setPort_tcnt (k : Core) (n : Nat) (p : Port) : (k.setPort n p).tcnt = k.tcnt := rfl
@[simp] theorem Core.setPort_traceQ (k : Core) (n : Nat) (p : Port) : (k.setPort n p).traceQ = k.traceQ := rfl
@[simp] theorem Core.setPort_rfsh (k : Core) (n : Nat) (p : Port) : (k.setPort n p).rfsh = k.rfsh := rfl
@[simp] theorem Core.setPort_rfshNext (k : Core) (n : Nat) (p : Port) : (k.setPort n p).rfshNext = k.rfshNext := rfl
@[simp] theorem Core.setPort_rfshPrev (k : Core) (n : Nat) (p : Port) : (k.setPort n p).rfshPrev = k.rfshPrev := rfl
@[simp] theorem Core.setPort_rfshAt (k : Core) (n : Nat) (p : Port) : (k.setPort n p).rfshAt = k.rfshAt := rfl
@[simp] theorem Core.setPort_rfshNextAt (k : Core) (n : Nat) (p : Port) : (k.setPort n p).rfshNextAt = k.rfshNextAt := rfl
@[simp] theorem Core.setPort_advances (k : Core) (n : Nat) (p : Port) : (k.setPort n p).advances = k.advances := rfl
@[simp] theorem Core.setPort_tallow (k : Core) (n : Nat) (p : Port) : (k.setPort n p).tallow = k.tallow := rfl
@[simp] theorem Core.setPort_temp (k : Core) (n : Nat) (p : Port) : (k.setPort n p).temp = k.temp := rfl
@[simp] theorem Core.setPort_layers (k : Core) (n : Nat) (p : Port) : (k.setPort n p).layers = k.layers := rfl
@[simp] theorem Core.setPort_asleep (k : Core) (n : Nat) (p : Port) : (k.setPort n p).asleep = k.asleep := rfl
@[simp] theorem Core.setPort_awakeFrom (k : Core) (n : Nat) (p : Port) : (k.setPort n p).awakeFrom = k.awakeFrom := rfl
@[simp] theorem Core.setPort_idleSince (k : Core) (n : Nat) (p : Port) : (k.setPort n p).idleSince = k.idleSince := rfl
@[simp] theorem Core.setPort_fenced (k : Core) (n : Nat) (p : Port) : (k.setPort n p).fenced = k.fenced := rfl
@[simp] theorem Core.setPort_image (k : Core) (n : Nat) (p : Port) : (k.setPort n p).image = k.image := rfl
@[simp] theorem Core.setPort_parity (k : Core) (n : Nat) (p : Port) : (k.setPort n p).parity = k.parity := rfl
@[simp] theorem Core.setPort_corrected (k : Core) (n : Nat) (p : Port) : (k.setPort n p).corrected = k.corrected := rfl
@[simp] theorem Core.setPort_uncorrectable (k : Core) (n : Nat) (p : Port) : (k.setPort n p).uncorrectable = k.uncorrectable := rfl
@[simp] theorem Core.setPort_supFaults (k : Core) (n : Nat) (p : Port) : (k.setPort n p).supFaults = k.supFaults := rfl
@[simp] theorem Core.setPort_nextSample (k : Core) (n : Nat) (p : Port) : (k.setPort n p).nextSample = k.nextSample := rfl
@[simp] theorem Core.setPort_saving (k : Core) (n : Nat) (p : Port) : (k.setPort n p).saving = k.saving := rfl
@[simp] theorem Core.setPort_supEntry (k : Core) (n : Nat) (p : Port) : (k.setPort n p).supEntry = k.supEntry := rfl

@[simp] theorem Core.setBank_ctxs (k : Core) (b : Nat) (x : Bank) : (k.setBank b x).ctxs = k.ctxs := rfl
@[simp] theorem Core.setBank_tiles (k : Core) (b : Nat) (x : Bank) : (k.setBank b x).tiles = k.tiles := rfl
@[simp] theorem Core.setBank_bankMap (k : Core) (b : Nat) (x : Bank) : (k.setBank b x).bankMap = k.bankMap := rfl
@[simp] theorem Core.setBank_ports (k : Core) (b : Nat) (x : Bank) : (k.setBank b x).ports = k.ports := rfl
@[simp] theorem Core.setBank_buffers (k : Core) (b : Nat) (x : Bank) : (k.setBank b x).buffers = k.buffers := rfl
@[simp] theorem Core.setBank_loadQ (k : Core) (b : Nat) (x : Bank) : (k.setBank b x).loadQ = k.loadQ := rfl
@[simp] theorem Core.setBank_runQ (k : Core) (b : Nat) (x : Bank) : (k.setBank b x).runQ = k.runQ := rfl
@[simp] theorem Core.setBank_loadNow (k : Core) (b : Nat) (x : Bank) : (k.setBank b x).loadNow = k.loadNow := rfl
@[simp] theorem Core.setBank_runNow (k : Core) (b : Nat) (x : Bank) : (k.setBank b x).runNow = k.runNow := rfl
@[simp] theorem Core.setBank_ppeQ (k : Core) (b : Nat) (x : Bank) : (k.setBank b x).ppeQ = k.ppeQ := rfl
@[simp] theorem Core.setBank_drainNow (k : Core) (b : Nat) (x : Bank) : (k.setBank b x).drainNow = k.drainNow := rfl
@[simp] theorem Core.setBank_sets (k : Core) (b : Nat) (x : Bank) : (k.setBank b x).sets = k.sets := rfl
@[simp] theorem Core.setBank_tables (k : Core) (b : Nat) (x : Bank) : (k.setBank b x).tables = k.tables := rfl
@[simp] theorem Core.setBank_copyQ (k : Core) (b : Nat) (x : Bank) : (k.setBank b x).copyQ = k.copyQ := rfl
@[simp] theorem Core.setBank_chans (k : Core) (b : Nat) (x : Bank) : (k.setBank b x).chans = k.chans := rfl
@[simp] theorem Core.setBank_scaQ (k : Core) (b : Nat) (x : Bank) : (k.setBank b x).scaQ = k.scaQ := rfl
@[simp] theorem Core.setBank_scaNow (k : Core) (b : Nat) (x : Bank) : (k.setBank b x).scaNow = k.scaNow := rfl
@[simp] theorem Core.setBank_joins (k : Core) (b : Nat) (x : Bank) : (k.setBank b x).joins = k.joins := rfl
@[simp] theorem Core.setBank_ended (k : Core) (b : Nat) (x : Bank) : (k.setBank b x).ended = k.ended := rfl
@[simp] theorem Core.setBank_tileBusy (k : Core) (b : Nat) (x : Bank) : (k.setBank b x).tileBusy = k.tileBusy := rfl
@[simp] theorem Core.setBank_readerUse (k : Core) (b : Nat) (x : Bank) : (k.setBank b x).readerUse = k.readerUse := rfl
@[simp] theorem Core.setBank_rr (k : Core) (b : Nat) (x : Bank) : (k.setBank b x).rr = k.rr := rfl
@[simp] theorem Core.setBank_trapQ (k : Core) (b : Nat) (x : Bank) : (k.setBank b x).trapQ = k.trapQ := rfl
@[simp] theorem Core.setBank_msgQ (k : Core) (b : Nat) (x : Bank) : (k.setBank b x).msgQ = k.msgQ := rfl
@[simp] theorem Core.setBank_trapinfo (k : Core) (b : Nat) (x : Bank) : (k.setBank b x).trapinfo = k.trapinfo := rfl
@[simp] theorem Core.setBank_tpc (k : Core) (b : Nat) (x : Bank) : (k.setBank b x).tpc = k.tpc := rfl
@[simp] theorem Core.setBank_tslot (k : Core) (b : Nat) (x : Bank) : (k.setBank b x).tslot = k.tslot := rfl
@[simp] theorem Core.setBank_tval (k : Core) (b : Nat) (x : Bank) : (k.setBank b x).tval = k.tval := rfl
@[simp] theorem Core.setBank_snap (k : Core) (b : Nat) (x : Bank) : (k.setBank b x).snap = k.snap := rfl
@[simp] theorem Core.setBank_inj (k : Core) (b : Nat) (x : Bank) : (k.setBank b x).inj = k.inj := rfl
@[simp] theorem Core.setBank_dthr (k : Core) (b : Nat) (x : Bank) : (k.setBank b x).dthr = k.dthr := rfl
@[simp] theorem Core.setBank_dbg (k : Core) (b : Nat) (x : Bank) : (k.setBank b x).dbg = k.dbg := rfl
@[simp] theorem Core.setBank_tcnt (k : Core) (b : Nat) (x : Bank) : (k.setBank b x).tcnt = k.tcnt := rfl
@[simp] theorem Core.setBank_traceQ (k : Core) (b : Nat) (x : Bank) : (k.setBank b x).traceQ = k.traceQ := rfl
@[simp] theorem Core.setBank_rfsh (k : Core) (b : Nat) (x : Bank) : (k.setBank b x).rfsh = k.rfsh := rfl
@[simp] theorem Core.setBank_rfshNext (k : Core) (b : Nat) (x : Bank) : (k.setBank b x).rfshNext = k.rfshNext := rfl
@[simp] theorem Core.setBank_rfshPrev (k : Core) (b : Nat) (x : Bank) : (k.setBank b x).rfshPrev = k.rfshPrev := rfl
@[simp] theorem Core.setBank_rfshAt (k : Core) (b : Nat) (x : Bank) : (k.setBank b x).rfshAt = k.rfshAt := rfl
@[simp] theorem Core.setBank_rfshNextAt (k : Core) (b : Nat) (x : Bank) : (k.setBank b x).rfshNextAt = k.rfshNextAt := rfl
@[simp] theorem Core.setBank_advances (k : Core) (b : Nat) (x : Bank) : (k.setBank b x).advances = k.advances := rfl
@[simp] theorem Core.setBank_tallow (k : Core) (b : Nat) (x : Bank) : (k.setBank b x).tallow = k.tallow := rfl
@[simp] theorem Core.setBank_temp (k : Core) (b : Nat) (x : Bank) : (k.setBank b x).temp = k.temp := rfl
@[simp] theorem Core.setBank_layers (k : Core) (b : Nat) (x : Bank) : (k.setBank b x).layers = k.layers := rfl
@[simp] theorem Core.setBank_asleep (k : Core) (b : Nat) (x : Bank) : (k.setBank b x).asleep = k.asleep := rfl
@[simp] theorem Core.setBank_awakeFrom (k : Core) (b : Nat) (x : Bank) : (k.setBank b x).awakeFrom = k.awakeFrom := rfl
@[simp] theorem Core.setBank_idleSince (k : Core) (b : Nat) (x : Bank) : (k.setBank b x).idleSince = k.idleSince := rfl
@[simp] theorem Core.setBank_fenced (k : Core) (b : Nat) (x : Bank) : (k.setBank b x).fenced = k.fenced := rfl
@[simp] theorem Core.setBank_image (k : Core) (b : Nat) (x : Bank) : (k.setBank b x).image = k.image := rfl
@[simp] theorem Core.setBank_parity (k : Core) (b : Nat) (x : Bank) : (k.setBank b x).parity = k.parity := rfl
@[simp] theorem Core.setBank_corrected (k : Core) (b : Nat) (x : Bank) : (k.setBank b x).corrected = k.corrected := rfl
@[simp] theorem Core.setBank_uncorrectable (k : Core) (b : Nat) (x : Bank) : (k.setBank b x).uncorrectable = k.uncorrectable := rfl
@[simp] theorem Core.setBank_supFaults (k : Core) (b : Nat) (x : Bank) : (k.setBank b x).supFaults = k.supFaults := rfl
@[simp] theorem Core.setBank_nextSample (k : Core) (b : Nat) (x : Bank) : (k.setBank b x).nextSample = k.nextSample := rfl
@[simp] theorem Core.setBank_saving (k : Core) (b : Nat) (x : Bank) : (k.setBank b x).saving = k.saving := rfl
@[simp] theorem Core.setBank_supEntry (k : Core) (b : Nat) (x : Bank) : (k.setBank b x).supEntry = k.supEntry := rfl

@[simp] theorem Core.setBuffer_ctxs (k : Core) (n : Nat) (b : Buffer) : (k.setBuffer n b).ctxs = k.ctxs := rfl
@[simp] theorem Core.setBuffer_tiles (k : Core) (n : Nat) (b : Buffer) : (k.setBuffer n b).tiles = k.tiles := rfl
@[simp] theorem Core.setBuffer_banks (k : Core) (n : Nat) (b : Buffer) : (k.setBuffer n b).banks = k.banks := rfl
@[simp] theorem Core.setBuffer_bankMap (k : Core) (n : Nat) (b : Buffer) : (k.setBuffer n b).bankMap = k.bankMap := rfl
@[simp] theorem Core.setBuffer_ports (k : Core) (n : Nat) (b : Buffer) : (k.setBuffer n b).ports = k.ports := rfl
@[simp] theorem Core.setBuffer_loadQ (k : Core) (n : Nat) (b : Buffer) : (k.setBuffer n b).loadQ = k.loadQ := rfl
@[simp] theorem Core.setBuffer_runQ (k : Core) (n : Nat) (b : Buffer) : (k.setBuffer n b).runQ = k.runQ := rfl
@[simp] theorem Core.setBuffer_loadNow (k : Core) (n : Nat) (b : Buffer) : (k.setBuffer n b).loadNow = k.loadNow := rfl
@[simp] theorem Core.setBuffer_runNow (k : Core) (n : Nat) (b : Buffer) : (k.setBuffer n b).runNow = k.runNow := rfl
@[simp] theorem Core.setBuffer_ppeQ (k : Core) (n : Nat) (b : Buffer) : (k.setBuffer n b).ppeQ = k.ppeQ := rfl
@[simp] theorem Core.setBuffer_drainNow (k : Core) (n : Nat) (b : Buffer) : (k.setBuffer n b).drainNow = k.drainNow := rfl
@[simp] theorem Core.setBuffer_sets (k : Core) (n : Nat) (b : Buffer) : (k.setBuffer n b).sets = k.sets := rfl
@[simp] theorem Core.setBuffer_tables (k : Core) (n : Nat) (b : Buffer) : (k.setBuffer n b).tables = k.tables := rfl
@[simp] theorem Core.setBuffer_copyQ (k : Core) (n : Nat) (b : Buffer) : (k.setBuffer n b).copyQ = k.copyQ := rfl
@[simp] theorem Core.setBuffer_chans (k : Core) (n : Nat) (b : Buffer) : (k.setBuffer n b).chans = k.chans := rfl
@[simp] theorem Core.setBuffer_scaQ (k : Core) (n : Nat) (b : Buffer) : (k.setBuffer n b).scaQ = k.scaQ := rfl
@[simp] theorem Core.setBuffer_scaNow (k : Core) (n : Nat) (b : Buffer) : (k.setBuffer n b).scaNow = k.scaNow := rfl
@[simp] theorem Core.setBuffer_joins (k : Core) (n : Nat) (b : Buffer) : (k.setBuffer n b).joins = k.joins := rfl
@[simp] theorem Core.setBuffer_ended (k : Core) (n : Nat) (b : Buffer) : (k.setBuffer n b).ended = k.ended := rfl
@[simp] theorem Core.setBuffer_tileBusy (k : Core) (n : Nat) (b : Buffer) : (k.setBuffer n b).tileBusy = k.tileBusy := rfl
@[simp] theorem Core.setBuffer_readerUse (k : Core) (n : Nat) (b : Buffer) : (k.setBuffer n b).readerUse = k.readerUse := rfl
@[simp] theorem Core.setBuffer_rr (k : Core) (n : Nat) (b : Buffer) : (k.setBuffer n b).rr = k.rr := rfl
@[simp] theorem Core.setBuffer_trapQ (k : Core) (n : Nat) (b : Buffer) : (k.setBuffer n b).trapQ = k.trapQ := rfl
@[simp] theorem Core.setBuffer_msgQ (k : Core) (n : Nat) (b : Buffer) : (k.setBuffer n b).msgQ = k.msgQ := rfl
@[simp] theorem Core.setBuffer_trapinfo (k : Core) (n : Nat) (b : Buffer) : (k.setBuffer n b).trapinfo = k.trapinfo := rfl
@[simp] theorem Core.setBuffer_tpc (k : Core) (n : Nat) (b : Buffer) : (k.setBuffer n b).tpc = k.tpc := rfl
@[simp] theorem Core.setBuffer_tslot (k : Core) (n : Nat) (b : Buffer) : (k.setBuffer n b).tslot = k.tslot := rfl
@[simp] theorem Core.setBuffer_tval (k : Core) (n : Nat) (b : Buffer) : (k.setBuffer n b).tval = k.tval := rfl
@[simp] theorem Core.setBuffer_snap (k : Core) (n : Nat) (b : Buffer) : (k.setBuffer n b).snap = k.snap := rfl
@[simp] theorem Core.setBuffer_inj (k : Core) (n : Nat) (b : Buffer) : (k.setBuffer n b).inj = k.inj := rfl
@[simp] theorem Core.setBuffer_dthr (k : Core) (n : Nat) (b : Buffer) : (k.setBuffer n b).dthr = k.dthr := rfl
@[simp] theorem Core.setBuffer_dbg (k : Core) (n : Nat) (b : Buffer) : (k.setBuffer n b).dbg = k.dbg := rfl
@[simp] theorem Core.setBuffer_tcnt (k : Core) (n : Nat) (b : Buffer) : (k.setBuffer n b).tcnt = k.tcnt := rfl
@[simp] theorem Core.setBuffer_traceQ (k : Core) (n : Nat) (b : Buffer) : (k.setBuffer n b).traceQ = k.traceQ := rfl
@[simp] theorem Core.setBuffer_rfsh (k : Core) (n : Nat) (b : Buffer) : (k.setBuffer n b).rfsh = k.rfsh := rfl
@[simp] theorem Core.setBuffer_rfshNext (k : Core) (n : Nat) (b : Buffer) : (k.setBuffer n b).rfshNext = k.rfshNext := rfl
@[simp] theorem Core.setBuffer_rfshPrev (k : Core) (n : Nat) (b : Buffer) : (k.setBuffer n b).rfshPrev = k.rfshPrev := rfl
@[simp] theorem Core.setBuffer_rfshAt (k : Core) (n : Nat) (b : Buffer) : (k.setBuffer n b).rfshAt = k.rfshAt := rfl
@[simp] theorem Core.setBuffer_rfshNextAt (k : Core) (n : Nat) (b : Buffer) : (k.setBuffer n b).rfshNextAt = k.rfshNextAt := rfl
@[simp] theorem Core.setBuffer_advances (k : Core) (n : Nat) (b : Buffer) : (k.setBuffer n b).advances = k.advances := rfl
@[simp] theorem Core.setBuffer_tallow (k : Core) (n : Nat) (b : Buffer) : (k.setBuffer n b).tallow = k.tallow := rfl
@[simp] theorem Core.setBuffer_temp (k : Core) (n : Nat) (b : Buffer) : (k.setBuffer n b).temp = k.temp := rfl
@[simp] theorem Core.setBuffer_layers (k : Core) (n : Nat) (b : Buffer) : (k.setBuffer n b).layers = k.layers := rfl
@[simp] theorem Core.setBuffer_asleep (k : Core) (n : Nat) (b : Buffer) : (k.setBuffer n b).asleep = k.asleep := rfl
@[simp] theorem Core.setBuffer_awakeFrom (k : Core) (n : Nat) (b : Buffer) : (k.setBuffer n b).awakeFrom = k.awakeFrom := rfl
@[simp] theorem Core.setBuffer_idleSince (k : Core) (n : Nat) (b : Buffer) : (k.setBuffer n b).idleSince = k.idleSince := rfl
@[simp] theorem Core.setBuffer_fenced (k : Core) (n : Nat) (b : Buffer) : (k.setBuffer n b).fenced = k.fenced := rfl
@[simp] theorem Core.setBuffer_image (k : Core) (n : Nat) (b : Buffer) : (k.setBuffer n b).image = k.image := rfl
@[simp] theorem Core.setBuffer_parity (k : Core) (n : Nat) (b : Buffer) : (k.setBuffer n b).parity = k.parity := rfl
@[simp] theorem Core.setBuffer_corrected (k : Core) (n : Nat) (b : Buffer) : (k.setBuffer n b).corrected = k.corrected := rfl
@[simp] theorem Core.setBuffer_uncorrectable (k : Core) (n : Nat) (b : Buffer) : (k.setBuffer n b).uncorrectable = k.uncorrectable := rfl
@[simp] theorem Core.setBuffer_supFaults (k : Core) (n : Nat) (b : Buffer) : (k.setBuffer n b).supFaults = k.supFaults := rfl
@[simp] theorem Core.setBuffer_nextSample (k : Core) (n : Nat) (b : Buffer) : (k.setBuffer n b).nextSample = k.nextSample := rfl
@[simp] theorem Core.setBuffer_saving (k : Core) (n : Nat) (b : Buffer) : (k.setBuffer n b).saving = k.saving := rfl
@[simp] theorem Core.setBuffer_supEntry (k : Core) (n : Nat) (b : Buffer) : (k.setBuffer n b).supEntry = k.supEntry := rfl

@[simp] theorem Core.setTanSet_ctxs (k : Core) (n : Nat) (x : TanSet) : (k.setTanSet n x).ctxs = k.ctxs := rfl
@[simp] theorem Core.setTanSet_tiles (k : Core) (n : Nat) (x : TanSet) : (k.setTanSet n x).tiles = k.tiles := rfl
@[simp] theorem Core.setTanSet_banks (k : Core) (n : Nat) (x : TanSet) : (k.setTanSet n x).banks = k.banks := rfl
@[simp] theorem Core.setTanSet_bankMap (k : Core) (n : Nat) (x : TanSet) : (k.setTanSet n x).bankMap = k.bankMap := rfl
@[simp] theorem Core.setTanSet_ports (k : Core) (n : Nat) (x : TanSet) : (k.setTanSet n x).ports = k.ports := rfl
@[simp] theorem Core.setTanSet_buffers (k : Core) (n : Nat) (x : TanSet) : (k.setTanSet n x).buffers = k.buffers := rfl
@[simp] theorem Core.setTanSet_loadQ (k : Core) (n : Nat) (x : TanSet) : (k.setTanSet n x).loadQ = k.loadQ := rfl
@[simp] theorem Core.setTanSet_runQ (k : Core) (n : Nat) (x : TanSet) : (k.setTanSet n x).runQ = k.runQ := rfl
@[simp] theorem Core.setTanSet_loadNow (k : Core) (n : Nat) (x : TanSet) : (k.setTanSet n x).loadNow = k.loadNow := rfl
@[simp] theorem Core.setTanSet_runNow (k : Core) (n : Nat) (x : TanSet) : (k.setTanSet n x).runNow = k.runNow := rfl
@[simp] theorem Core.setTanSet_ppeQ (k : Core) (n : Nat) (x : TanSet) : (k.setTanSet n x).ppeQ = k.ppeQ := rfl
@[simp] theorem Core.setTanSet_drainNow (k : Core) (n : Nat) (x : TanSet) : (k.setTanSet n x).drainNow = k.drainNow := rfl
@[simp] theorem Core.setTanSet_tables (k : Core) (n : Nat) (x : TanSet) : (k.setTanSet n x).tables = k.tables := rfl
@[simp] theorem Core.setTanSet_copyQ (k : Core) (n : Nat) (x : TanSet) : (k.setTanSet n x).copyQ = k.copyQ := rfl
@[simp] theorem Core.setTanSet_chans (k : Core) (n : Nat) (x : TanSet) : (k.setTanSet n x).chans = k.chans := rfl
@[simp] theorem Core.setTanSet_scaQ (k : Core) (n : Nat) (x : TanSet) : (k.setTanSet n x).scaQ = k.scaQ := rfl
@[simp] theorem Core.setTanSet_scaNow (k : Core) (n : Nat) (x : TanSet) : (k.setTanSet n x).scaNow = k.scaNow := rfl
@[simp] theorem Core.setTanSet_joins (k : Core) (n : Nat) (x : TanSet) : (k.setTanSet n x).joins = k.joins := rfl
@[simp] theorem Core.setTanSet_ended (k : Core) (n : Nat) (x : TanSet) : (k.setTanSet n x).ended = k.ended := rfl
@[simp] theorem Core.setTanSet_tileBusy (k : Core) (n : Nat) (x : TanSet) : (k.setTanSet n x).tileBusy = k.tileBusy := rfl
@[simp] theorem Core.setTanSet_readerUse (k : Core) (n : Nat) (x : TanSet) : (k.setTanSet n x).readerUse = k.readerUse := rfl
@[simp] theorem Core.setTanSet_rr (k : Core) (n : Nat) (x : TanSet) : (k.setTanSet n x).rr = k.rr := rfl
@[simp] theorem Core.setTanSet_trapQ (k : Core) (n : Nat) (x : TanSet) : (k.setTanSet n x).trapQ = k.trapQ := rfl
@[simp] theorem Core.setTanSet_msgQ (k : Core) (n : Nat) (x : TanSet) : (k.setTanSet n x).msgQ = k.msgQ := rfl
@[simp] theorem Core.setTanSet_trapinfo (k : Core) (n : Nat) (x : TanSet) : (k.setTanSet n x).trapinfo = k.trapinfo := rfl
@[simp] theorem Core.setTanSet_tpc (k : Core) (n : Nat) (x : TanSet) : (k.setTanSet n x).tpc = k.tpc := rfl
@[simp] theorem Core.setTanSet_tslot (k : Core) (n : Nat) (x : TanSet) : (k.setTanSet n x).tslot = k.tslot := rfl
@[simp] theorem Core.setTanSet_tval (k : Core) (n : Nat) (x : TanSet) : (k.setTanSet n x).tval = k.tval := rfl
@[simp] theorem Core.setTanSet_snap (k : Core) (n : Nat) (x : TanSet) : (k.setTanSet n x).snap = k.snap := rfl
@[simp] theorem Core.setTanSet_inj (k : Core) (n : Nat) (x : TanSet) : (k.setTanSet n x).inj = k.inj := rfl
@[simp] theorem Core.setTanSet_dthr (k : Core) (n : Nat) (x : TanSet) : (k.setTanSet n x).dthr = k.dthr := rfl
@[simp] theorem Core.setTanSet_dbg (k : Core) (n : Nat) (x : TanSet) : (k.setTanSet n x).dbg = k.dbg := rfl
@[simp] theorem Core.setTanSet_tcnt (k : Core) (n : Nat) (x : TanSet) : (k.setTanSet n x).tcnt = k.tcnt := rfl
@[simp] theorem Core.setTanSet_traceQ (k : Core) (n : Nat) (x : TanSet) : (k.setTanSet n x).traceQ = k.traceQ := rfl
@[simp] theorem Core.setTanSet_rfsh (k : Core) (n : Nat) (x : TanSet) : (k.setTanSet n x).rfsh = k.rfsh := rfl
@[simp] theorem Core.setTanSet_rfshNext (k : Core) (n : Nat) (x : TanSet) : (k.setTanSet n x).rfshNext = k.rfshNext := rfl
@[simp] theorem Core.setTanSet_rfshPrev (k : Core) (n : Nat) (x : TanSet) : (k.setTanSet n x).rfshPrev = k.rfshPrev := rfl
@[simp] theorem Core.setTanSet_rfshAt (k : Core) (n : Nat) (x : TanSet) : (k.setTanSet n x).rfshAt = k.rfshAt := rfl
@[simp] theorem Core.setTanSet_rfshNextAt (k : Core) (n : Nat) (x : TanSet) : (k.setTanSet n x).rfshNextAt = k.rfshNextAt := rfl
@[simp] theorem Core.setTanSet_advances (k : Core) (n : Nat) (x : TanSet) : (k.setTanSet n x).advances = k.advances := rfl
@[simp] theorem Core.setTanSet_tallow (k : Core) (n : Nat) (x : TanSet) : (k.setTanSet n x).tallow = k.tallow := rfl
@[simp] theorem Core.setTanSet_temp (k : Core) (n : Nat) (x : TanSet) : (k.setTanSet n x).temp = k.temp := rfl
@[simp] theorem Core.setTanSet_layers (k : Core) (n : Nat) (x : TanSet) : (k.setTanSet n x).layers = k.layers := rfl
@[simp] theorem Core.setTanSet_asleep (k : Core) (n : Nat) (x : TanSet) : (k.setTanSet n x).asleep = k.asleep := rfl
@[simp] theorem Core.setTanSet_awakeFrom (k : Core) (n : Nat) (x : TanSet) : (k.setTanSet n x).awakeFrom = k.awakeFrom := rfl
@[simp] theorem Core.setTanSet_idleSince (k : Core) (n : Nat) (x : TanSet) : (k.setTanSet n x).idleSince = k.idleSince := rfl
@[simp] theorem Core.setTanSet_fenced (k : Core) (n : Nat) (x : TanSet) : (k.setTanSet n x).fenced = k.fenced := rfl
@[simp] theorem Core.setTanSet_image (k : Core) (n : Nat) (x : TanSet) : (k.setTanSet n x).image = k.image := rfl
@[simp] theorem Core.setTanSet_parity (k : Core) (n : Nat) (x : TanSet) : (k.setTanSet n x).parity = k.parity := rfl
@[simp] theorem Core.setTanSet_corrected (k : Core) (n : Nat) (x : TanSet) : (k.setTanSet n x).corrected = k.corrected := rfl
@[simp] theorem Core.setTanSet_uncorrectable (k : Core) (n : Nat) (x : TanSet) : (k.setTanSet n x).uncorrectable = k.uncorrectable := rfl
@[simp] theorem Core.setTanSet_supFaults (k : Core) (n : Nat) (x : TanSet) : (k.setTanSet n x).supFaults = k.supFaults := rfl
@[simp] theorem Core.setTanSet_nextSample (k : Core) (n : Nat) (x : TanSet) : (k.setTanSet n x).nextSample = k.nextSample := rfl
@[simp] theorem Core.setTanSet_saving (k : Core) (n : Nat) (x : TanSet) : (k.setTanSet n x).saving = k.saving := rfl
@[simp] theorem Core.setTanSet_supEntry (k : Core) (n : Nat) (x : TanSet) : (k.setTanSet n x).supEntry = k.supEntry := rfl

@[simp] theorem Core.setTable_ctxs (k : Core) (n : Nat) (x : CurveTable) : (k.setTable n x).ctxs = k.ctxs := rfl
@[simp] theorem Core.setTable_tiles (k : Core) (n : Nat) (x : CurveTable) : (k.setTable n x).tiles = k.tiles := rfl
@[simp] theorem Core.setTable_banks (k : Core) (n : Nat) (x : CurveTable) : (k.setTable n x).banks = k.banks := rfl
@[simp] theorem Core.setTable_bankMap (k : Core) (n : Nat) (x : CurveTable) : (k.setTable n x).bankMap = k.bankMap := rfl
@[simp] theorem Core.setTable_ports (k : Core) (n : Nat) (x : CurveTable) : (k.setTable n x).ports = k.ports := rfl
@[simp] theorem Core.setTable_buffers (k : Core) (n : Nat) (x : CurveTable) : (k.setTable n x).buffers = k.buffers := rfl
@[simp] theorem Core.setTable_loadQ (k : Core) (n : Nat) (x : CurveTable) : (k.setTable n x).loadQ = k.loadQ := rfl
@[simp] theorem Core.setTable_runQ (k : Core) (n : Nat) (x : CurveTable) : (k.setTable n x).runQ = k.runQ := rfl
@[simp] theorem Core.setTable_loadNow (k : Core) (n : Nat) (x : CurveTable) : (k.setTable n x).loadNow = k.loadNow := rfl
@[simp] theorem Core.setTable_runNow (k : Core) (n : Nat) (x : CurveTable) : (k.setTable n x).runNow = k.runNow := rfl
@[simp] theorem Core.setTable_ppeQ (k : Core) (n : Nat) (x : CurveTable) : (k.setTable n x).ppeQ = k.ppeQ := rfl
@[simp] theorem Core.setTable_drainNow (k : Core) (n : Nat) (x : CurveTable) : (k.setTable n x).drainNow = k.drainNow := rfl
@[simp] theorem Core.setTable_sets (k : Core) (n : Nat) (x : CurveTable) : (k.setTable n x).sets = k.sets := rfl
@[simp] theorem Core.setTable_copyQ (k : Core) (n : Nat) (x : CurveTable) : (k.setTable n x).copyQ = k.copyQ := rfl
@[simp] theorem Core.setTable_chans (k : Core) (n : Nat) (x : CurveTable) : (k.setTable n x).chans = k.chans := rfl
@[simp] theorem Core.setTable_scaQ (k : Core) (n : Nat) (x : CurveTable) : (k.setTable n x).scaQ = k.scaQ := rfl
@[simp] theorem Core.setTable_scaNow (k : Core) (n : Nat) (x : CurveTable) : (k.setTable n x).scaNow = k.scaNow := rfl
@[simp] theorem Core.setTable_joins (k : Core) (n : Nat) (x : CurveTable) : (k.setTable n x).joins = k.joins := rfl
@[simp] theorem Core.setTable_ended (k : Core) (n : Nat) (x : CurveTable) : (k.setTable n x).ended = k.ended := rfl
@[simp] theorem Core.setTable_tileBusy (k : Core) (n : Nat) (x : CurveTable) : (k.setTable n x).tileBusy = k.tileBusy := rfl
@[simp] theorem Core.setTable_readerUse (k : Core) (n : Nat) (x : CurveTable) : (k.setTable n x).readerUse = k.readerUse := rfl
@[simp] theorem Core.setTable_rr (k : Core) (n : Nat) (x : CurveTable) : (k.setTable n x).rr = k.rr := rfl
@[simp] theorem Core.setTable_trapQ (k : Core) (n : Nat) (x : CurveTable) : (k.setTable n x).trapQ = k.trapQ := rfl
@[simp] theorem Core.setTable_msgQ (k : Core) (n : Nat) (x : CurveTable) : (k.setTable n x).msgQ = k.msgQ := rfl
@[simp] theorem Core.setTable_trapinfo (k : Core) (n : Nat) (x : CurveTable) : (k.setTable n x).trapinfo = k.trapinfo := rfl
@[simp] theorem Core.setTable_tpc (k : Core) (n : Nat) (x : CurveTable) : (k.setTable n x).tpc = k.tpc := rfl
@[simp] theorem Core.setTable_tslot (k : Core) (n : Nat) (x : CurveTable) : (k.setTable n x).tslot = k.tslot := rfl
@[simp] theorem Core.setTable_tval (k : Core) (n : Nat) (x : CurveTable) : (k.setTable n x).tval = k.tval := rfl
@[simp] theorem Core.setTable_snap (k : Core) (n : Nat) (x : CurveTable) : (k.setTable n x).snap = k.snap := rfl
@[simp] theorem Core.setTable_inj (k : Core) (n : Nat) (x : CurveTable) : (k.setTable n x).inj = k.inj := rfl
@[simp] theorem Core.setTable_dthr (k : Core) (n : Nat) (x : CurveTable) : (k.setTable n x).dthr = k.dthr := rfl
@[simp] theorem Core.setTable_dbg (k : Core) (n : Nat) (x : CurveTable) : (k.setTable n x).dbg = k.dbg := rfl
@[simp] theorem Core.setTable_tcnt (k : Core) (n : Nat) (x : CurveTable) : (k.setTable n x).tcnt = k.tcnt := rfl
@[simp] theorem Core.setTable_traceQ (k : Core) (n : Nat) (x : CurveTable) : (k.setTable n x).traceQ = k.traceQ := rfl
@[simp] theorem Core.setTable_rfsh (k : Core) (n : Nat) (x : CurveTable) : (k.setTable n x).rfsh = k.rfsh := rfl
@[simp] theorem Core.setTable_rfshNext (k : Core) (n : Nat) (x : CurveTable) : (k.setTable n x).rfshNext = k.rfshNext := rfl
@[simp] theorem Core.setTable_rfshPrev (k : Core) (n : Nat) (x : CurveTable) : (k.setTable n x).rfshPrev = k.rfshPrev := rfl
@[simp] theorem Core.setTable_rfshAt (k : Core) (n : Nat) (x : CurveTable) : (k.setTable n x).rfshAt = k.rfshAt := rfl
@[simp] theorem Core.setTable_rfshNextAt (k : Core) (n : Nat) (x : CurveTable) : (k.setTable n x).rfshNextAt = k.rfshNextAt := rfl
@[simp] theorem Core.setTable_advances (k : Core) (n : Nat) (x : CurveTable) : (k.setTable n x).advances = k.advances := rfl
@[simp] theorem Core.setTable_tallow (k : Core) (n : Nat) (x : CurveTable) : (k.setTable n x).tallow = k.tallow := rfl
@[simp] theorem Core.setTable_temp (k : Core) (n : Nat) (x : CurveTable) : (k.setTable n x).temp = k.temp := rfl
@[simp] theorem Core.setTable_layers (k : Core) (n : Nat) (x : CurveTable) : (k.setTable n x).layers = k.layers := rfl
@[simp] theorem Core.setTable_asleep (k : Core) (n : Nat) (x : CurveTable) : (k.setTable n x).asleep = k.asleep := rfl
@[simp] theorem Core.setTable_awakeFrom (k : Core) (n : Nat) (x : CurveTable) : (k.setTable n x).awakeFrom = k.awakeFrom := rfl
@[simp] theorem Core.setTable_idleSince (k : Core) (n : Nat) (x : CurveTable) : (k.setTable n x).idleSince = k.idleSince := rfl
@[simp] theorem Core.setTable_fenced (k : Core) (n : Nat) (x : CurveTable) : (k.setTable n x).fenced = k.fenced := rfl
@[simp] theorem Core.setTable_image (k : Core) (n : Nat) (x : CurveTable) : (k.setTable n x).image = k.image := rfl
@[simp] theorem Core.setTable_parity (k : Core) (n : Nat) (x : CurveTable) : (k.setTable n x).parity = k.parity := rfl
@[simp] theorem Core.setTable_corrected (k : Core) (n : Nat) (x : CurveTable) : (k.setTable n x).corrected = k.corrected := rfl
@[simp] theorem Core.setTable_uncorrectable (k : Core) (n : Nat) (x : CurveTable) : (k.setTable n x).uncorrectable = k.uncorrectable := rfl
@[simp] theorem Core.setTable_supFaults (k : Core) (n : Nat) (x : CurveTable) : (k.setTable n x).supFaults = k.supFaults := rfl
@[simp] theorem Core.setTable_nextSample (k : Core) (n : Nat) (x : CurveTable) : (k.setTable n x).nextSample = k.nextSample := rfl
@[simp] theorem Core.setTable_saving (k : Core) (n : Nat) (x : CurveTable) : (k.setTable n x).saving = k.saving := rfl
@[simp] theorem Core.setTable_supEntry (k : Core) (n : Nat) (x : CurveTable) : (k.setTable n x).supEntry = k.supEntry := rfl

@[simp] theorem Core.setTileRow_ctxs (k : Core) (t r : Nat) (v : Line) : (k.setTileRow t r v).ctxs = k.ctxs := rfl
@[simp] theorem Core.setTileRow_banks (k : Core) (t r : Nat) (v : Line) : (k.setTileRow t r v).banks = k.banks := rfl
@[simp] theorem Core.setTileRow_bankMap (k : Core) (t r : Nat) (v : Line) : (k.setTileRow t r v).bankMap = k.bankMap := rfl
@[simp] theorem Core.setTileRow_ports (k : Core) (t r : Nat) (v : Line) : (k.setTileRow t r v).ports = k.ports := rfl
@[simp] theorem Core.setTileRow_buffers (k : Core) (t r : Nat) (v : Line) : (k.setTileRow t r v).buffers = k.buffers := rfl
@[simp] theorem Core.setTileRow_loadQ (k : Core) (t r : Nat) (v : Line) : (k.setTileRow t r v).loadQ = k.loadQ := rfl
@[simp] theorem Core.setTileRow_runQ (k : Core) (t r : Nat) (v : Line) : (k.setTileRow t r v).runQ = k.runQ := rfl
@[simp] theorem Core.setTileRow_loadNow (k : Core) (t r : Nat) (v : Line) : (k.setTileRow t r v).loadNow = k.loadNow := rfl
@[simp] theorem Core.setTileRow_runNow (k : Core) (t r : Nat) (v : Line) : (k.setTileRow t r v).runNow = k.runNow := rfl
@[simp] theorem Core.setTileRow_ppeQ (k : Core) (t r : Nat) (v : Line) : (k.setTileRow t r v).ppeQ = k.ppeQ := rfl
@[simp] theorem Core.setTileRow_drainNow (k : Core) (t r : Nat) (v : Line) : (k.setTileRow t r v).drainNow = k.drainNow := rfl
@[simp] theorem Core.setTileRow_sets (k : Core) (t r : Nat) (v : Line) : (k.setTileRow t r v).sets = k.sets := rfl
@[simp] theorem Core.setTileRow_tables (k : Core) (t r : Nat) (v : Line) : (k.setTileRow t r v).tables = k.tables := rfl
@[simp] theorem Core.setTileRow_copyQ (k : Core) (t r : Nat) (v : Line) : (k.setTileRow t r v).copyQ = k.copyQ := rfl
@[simp] theorem Core.setTileRow_chans (k : Core) (t r : Nat) (v : Line) : (k.setTileRow t r v).chans = k.chans := rfl
@[simp] theorem Core.setTileRow_scaQ (k : Core) (t r : Nat) (v : Line) : (k.setTileRow t r v).scaQ = k.scaQ := rfl
@[simp] theorem Core.setTileRow_scaNow (k : Core) (t r : Nat) (v : Line) : (k.setTileRow t r v).scaNow = k.scaNow := rfl
@[simp] theorem Core.setTileRow_joins (k : Core) (t r : Nat) (v : Line) : (k.setTileRow t r v).joins = k.joins := rfl
@[simp] theorem Core.setTileRow_ended (k : Core) (t r : Nat) (v : Line) : (k.setTileRow t r v).ended = k.ended := rfl
@[simp] theorem Core.setTileRow_tileBusy (k : Core) (t r : Nat) (v : Line) : (k.setTileRow t r v).tileBusy = k.tileBusy := rfl
@[simp] theorem Core.setTileRow_readerUse (k : Core) (t r : Nat) (v : Line) : (k.setTileRow t r v).readerUse = k.readerUse := rfl
@[simp] theorem Core.setTileRow_rr (k : Core) (t r : Nat) (v : Line) : (k.setTileRow t r v).rr = k.rr := rfl
@[simp] theorem Core.setTileRow_trapQ (k : Core) (t r : Nat) (v : Line) : (k.setTileRow t r v).trapQ = k.trapQ := rfl
@[simp] theorem Core.setTileRow_msgQ (k : Core) (t r : Nat) (v : Line) : (k.setTileRow t r v).msgQ = k.msgQ := rfl
@[simp] theorem Core.setTileRow_trapinfo (k : Core) (t r : Nat) (v : Line) : (k.setTileRow t r v).trapinfo = k.trapinfo := rfl
@[simp] theorem Core.setTileRow_tpc (k : Core) (t r : Nat) (v : Line) : (k.setTileRow t r v).tpc = k.tpc := rfl
@[simp] theorem Core.setTileRow_tslot (k : Core) (t r : Nat) (v : Line) : (k.setTileRow t r v).tslot = k.tslot := rfl
@[simp] theorem Core.setTileRow_tval (k : Core) (t r : Nat) (v : Line) : (k.setTileRow t r v).tval = k.tval := rfl
@[simp] theorem Core.setTileRow_snap (k : Core) (t r : Nat) (v : Line) : (k.setTileRow t r v).snap = k.snap := rfl
@[simp] theorem Core.setTileRow_inj (k : Core) (t r : Nat) (v : Line) : (k.setTileRow t r v).inj = k.inj := rfl
@[simp] theorem Core.setTileRow_dthr (k : Core) (t r : Nat) (v : Line) : (k.setTileRow t r v).dthr = k.dthr := rfl
@[simp] theorem Core.setTileRow_dbg (k : Core) (t r : Nat) (v : Line) : (k.setTileRow t r v).dbg = k.dbg := rfl
@[simp] theorem Core.setTileRow_tcnt (k : Core) (t r : Nat) (v : Line) : (k.setTileRow t r v).tcnt = k.tcnt := rfl
@[simp] theorem Core.setTileRow_traceQ (k : Core) (t r : Nat) (v : Line) : (k.setTileRow t r v).traceQ = k.traceQ := rfl
@[simp] theorem Core.setTileRow_rfsh (k : Core) (t r : Nat) (v : Line) : (k.setTileRow t r v).rfsh = k.rfsh := rfl
@[simp] theorem Core.setTileRow_rfshNext (k : Core) (t r : Nat) (v : Line) : (k.setTileRow t r v).rfshNext = k.rfshNext := rfl
@[simp] theorem Core.setTileRow_rfshPrev (k : Core) (t r : Nat) (v : Line) : (k.setTileRow t r v).rfshPrev = k.rfshPrev := rfl
@[simp] theorem Core.setTileRow_rfshAt (k : Core) (t r : Nat) (v : Line) : (k.setTileRow t r v).rfshAt = k.rfshAt := rfl
@[simp] theorem Core.setTileRow_rfshNextAt (k : Core) (t r : Nat) (v : Line) : (k.setTileRow t r v).rfshNextAt = k.rfshNextAt := rfl
@[simp] theorem Core.setTileRow_advances (k : Core) (t r : Nat) (v : Line) : (k.setTileRow t r v).advances = k.advances := rfl
@[simp] theorem Core.setTileRow_tallow (k : Core) (t r : Nat) (v : Line) : (k.setTileRow t r v).tallow = k.tallow := rfl
@[simp] theorem Core.setTileRow_temp (k : Core) (t r : Nat) (v : Line) : (k.setTileRow t r v).temp = k.temp := rfl
@[simp] theorem Core.setTileRow_layers (k : Core) (t r : Nat) (v : Line) : (k.setTileRow t r v).layers = k.layers := rfl
@[simp] theorem Core.setTileRow_asleep (k : Core) (t r : Nat) (v : Line) : (k.setTileRow t r v).asleep = k.asleep := rfl
@[simp] theorem Core.setTileRow_awakeFrom (k : Core) (t r : Nat) (v : Line) : (k.setTileRow t r v).awakeFrom = k.awakeFrom := rfl
@[simp] theorem Core.setTileRow_idleSince (k : Core) (t r : Nat) (v : Line) : (k.setTileRow t r v).idleSince = k.idleSince := rfl
@[simp] theorem Core.setTileRow_fenced (k : Core) (t r : Nat) (v : Line) : (k.setTileRow t r v).fenced = k.fenced := rfl
@[simp] theorem Core.setTileRow_image (k : Core) (t r : Nat) (v : Line) : (k.setTileRow t r v).image = k.image := rfl
@[simp] theorem Core.setTileRow_parity (k : Core) (t r : Nat) (v : Line) : (k.setTileRow t r v).parity = k.parity := rfl
@[simp] theorem Core.setTileRow_corrected (k : Core) (t r : Nat) (v : Line) : (k.setTileRow t r v).corrected = k.corrected := rfl
@[simp] theorem Core.setTileRow_uncorrectable (k : Core) (t r : Nat) (v : Line) : (k.setTileRow t r v).uncorrectable = k.uncorrectable := rfl
@[simp] theorem Core.setTileRow_supFaults (k : Core) (t r : Nat) (v : Line) : (k.setTileRow t r v).supFaults = k.supFaults := rfl
@[simp] theorem Core.setTileRow_nextSample (k : Core) (t r : Nat) (v : Line) : (k.setTileRow t r v).nextSample = k.nextSample := rfl
@[simp] theorem Core.setTileRow_saving (k : Core) (t r : Nat) (v : Line) : (k.setTileRow t r v).saving = k.saving := rfl
@[simp] theorem Core.setTileRow_supEntry (k : Core) (t r : Nat) (v : Line) : (k.setTileRow t r v).supEntry = k.supEntry := rfl

/-! ## Updates of a context -/

@[simp] theorem Ctx.orFlags_status (x : Ctx) (f : BitVec 5) : (x.orFlags f).status = x.status := rfl
@[simp] theorem Ctx.orFlags_launch (x : Ctx) (f : BitVec 5) : (x.orFlags f).launch = x.launch := rfl
@[simp] theorem Ctx.orFlags_prio (x : Ctx) (f : BitVec 5) : (x.orFlags f).prio = x.prio := rfl
@[simp] theorem Ctx.orFlags_vcore (x : Ctx) (f : BitVec 5) : (x.orFlags f).vcore = x.vcore := rfl
@[simp] theorem Ctx.orFlags_tileBase (x : Ctx) (f : BitVec 5) : (x.orFlags f).tileBase = x.tileBase := rfl
@[simp] theorem Ctx.orFlags_tileCount (x : Ctx) (f : BitVec 5) : (x.orFlags f).tileCount = x.tileCount := rfl
@[simp] theorem Ctx.orFlags_pc (x : Ctx) (f : BitVec 5) : (x.orFlags f).pc = x.pc := rfl
@[simp] theorem Ctx.orFlags_c (x : Ctx) (f : BitVec 5) : (x.orFlags f).c = x.c := rfl
@[simp] theorem Ctx.orFlags_p (x : Ctx) (f : BitVec 5) : (x.orFlags f).p = x.p := rfl
@[simp] theorem Ctx.orFlags_q (x : Ctx) (f : BitVec 5) : (x.orFlags f).q = x.q := rfl
@[simp] theorem Ctx.orFlags_e (x : Ctx) (f : BitVec 5) : (x.orFlags f).e = x.e := rfl
@[simp] theorem Ctx.orFlags_d (x : Ctx) (f : BitVec 5) : (x.orFlags f).d = x.d := rfl
@[simp] theorem Ctx.orFlags_y (x : Ctx) (f : BitVec 5) : (x.orFlags f).y = x.y := rfl
@[simp] theorem Ctx.orFlags_sg (x : Ctx) (f : BitVec 5) : (x.orFlags f).sg = x.sg := rfl
@[simp] theorem Ctx.orFlags_yptr (x : Ctx) (f : BitVec 5) : (x.orFlags f).yptr = x.yptr := rfl
@[simp] theorem Ctx.orFlags_tok (x : Ctx) (f : BitVec 5) : (x.orFlags f).tok = x.tok := rfl
@[simp] theorem Ctx.orFlags_pwq (x : Ctx) (f : BitVec 5) : (x.orFlags f).pwq = x.pwq := rfl
@[simp] theorem Ctx.orFlags_loop (x : Ctx) (f : BitVec 5) : (x.orFlags f).loop = x.loop := rfl
@[simp] theorem Ctx.orFlags_redirect (x : Ctx) (f : BitVec 5) : (x.orFlags f).redirect = x.redirect := rfl
@[simp] theorem Ctx.orFlags_bcnt (x : Ctx) (f : BitVec 5) : (x.orFlags f).bcnt = x.bcnt := rfl
@[simp] theorem Ctx.orFlags_issued (x : Ctx) (f : BitVec 5) : (x.orFlags f).issued = x.issued := rfl
@[simp] theorem Ctx.orFlags_escn (x : Ctx) (f : BitVec 5) : (x.orFlags f).escn = x.escn := rfl
@[simp] theorem Ctx.orFlags_drift (x : Ctx) (f : BitVec 5) : (x.orFlags f).drift = x.drift := rfl
@[simp] theorem Ctx.orFlags_argp (x : Ctx) (f : BitVec 5) : (x.orFlags f).argp = x.argp := rfl
@[simp] theorem Ctx.orFlags_tmask (x : Ctx) (f : BitVec 5) : (x.orFlags f).tmask = x.tmask := rfl
@[simp] theorem Ctx.orFlags_pwin (x : Ctx) (f : BitVec 5) : (x.orFlags f).pwin = x.pwin := rfl
@[simp] theorem Ctx.orFlags_engDone (x : Ctx) (f : BitVec 5) : (x.orFlags f).engDone = x.engDone := rfl
@[simp] theorem Ctx.orFlags_segid (x : Ctx) (f : BitVec 5) : (x.orFlags f).segid = x.segid := rfl
@[simp] theorem Ctx.orFlags_segtry (x : Ctx) (f : BitVec 5) : (x.orFlags f).segtry = x.segtry := rfl
@[simp] theorem Ctx.orFlags_segStart (x : Ctx) (f : BitVec 5) : (x.orFlags f).segStart = x.segStart := rfl
@[simp] theorem Ctx.orFlags_segFirst (x : Ctx) (f : BitVec 5) : (x.orFlags f).segFirst = x.segFirst := rfl
@[simp] theorem Ctx.orFlags_segBundles (x : Ctx) (f : BitVec 5) : (x.orFlags f).segBundles = x.segBundles := rfl
@[simp] theorem Ctx.orFlags_chunkLogged (x : Ctx) (f : BitVec 5) : (x.orFlags f).chunkLogged = x.chunkLogged := rfl
@[simp] theorem Ctx.orFlags_segAccess (x : Ctx) (f : BitVec 5) : (x.orFlags f).segAccess = x.segAccess := rfl
@[simp] theorem Ctx.orFlags_segDrains (x : Ctx) (f : BitVec 5) : (x.orFlags f).segDrains = x.segDrains := rfl
@[simp] theorem Ctx.orFlags_ckpt (x : Ctx) (f : BitVec 5) : (x.orFlags f).ckpt = x.ckpt := rfl
@[simp] theorem Ctx.orFlags_claims (x : Ctx) (f : BitVec 5) : (x.orFlags f).claims = x.claims := rfl
@[simp] theorem Ctx.orFlags_replay (x : Ctx) (f : BitVec 5) : (x.orFlags f).replay = x.replay := rfl
@[simp] theorem Ctx.orFlags_srq (x : Ctx) (f : BitVec 5) : (x.orFlags f).srq = x.srq := rfl
@[simp] theorem Ctx.orFlags_releasing (x : Ctx) (f : BitVec 5) : (x.orFlags f).releasing = x.releasing := rfl
@[simp] theorem Ctx.orFlags_out (x : Ctx) (f : BitVec 5) : (x.orFlags f).out = x.out := rfl
@[simp] theorem Ctx.orFlags_nextAccess (x : Ctx) (f : BitVec 5) : (x.orFlags f).nextAccess = x.nextAccess := rfl
@[simp] theorem Ctx.orFlags_rewind (x : Ctx) (f : BitVec 5) : (x.orFlags f).rewind = x.rewind := rfl
@[simp] theorem Ctx.orFlags_claimWait (x : Ctx) (f : BitVec 5) : (x.orFlags f).claimWait = x.claimWait := rfl
@[simp] theorem Ctx.orFlags_arrival (x : Ctx) (f : BitVec 5) : (x.orFlags f).arrival = x.arrival := rfl
@[simp] theorem Ctx.orFlags_events (x : Ctx) (f : BitVec 5) : (x.orFlags f).events = x.events := rfl
@[simp] theorem Ctx.orFlags_waitOn (x : Ctx) (f : BitVec 5) : (x.orFlags f).waitOn = x.waitOn := rfl
@[simp] theorem Ctx.orFlags_busyRegs (x : Ctx) (f : BitVec 5) : (x.orFlags f).busyRegs = x.busyRegs := rfl
@[simp] theorem Ctx.orFlags_busyLines (x : Ctx) (f : BitVec 5) : (x.orFlags f).busyLines = x.busyLines := rfl
@[simp] theorem Ctx.orFlags_dirtyRegs (x : Ctx) (f : BitVec 5) : (x.orFlags f).dirtyRegs = x.dirtyRegs := rfl
@[simp] theorem Ctx.orFlags_dirtyLines (x : Ctx) (f : BitVec 5) : (x.orFlags f).dirtyLines = x.dirtyLines := rfl
@[simp] theorem Ctx.orFlags_walk (x : Ctx) (f : BitVec 5) : (x.orFlags f).walk = x.walk := rfl
@[simp] theorem Ctx.orFlags_walkFault (x : Ctx) (f : BitVec 5) : (x.orFlags f).walkFault = x.walkFault := rfl
@[simp] theorem Ctx.orFlags_tlbiWait (x : Ctx) (f : BitVec 5) : (x.orFlags f).tlbiWait = x.tlbiWait := rfl
@[simp] theorem Ctx.orFlags_yielded (x : Ctx) (f : BitVec 5) : (x.orFlags f).yielded = x.yielded := rfl
@[simp] theorem Ctx.orFlags_skip (x : Ctx) (f : BitVec 5) : (x.orFlags f).skip = x.skip := rfl
@[simp] theorem Ctx.orFlags_trapTok (x : Ctx) (f : BitVec 5) : (x.orFlags f).trapTok = x.trapTok := rfl
@[simp] theorem Ctx.orFlags_trapPorts (x : Ctx) (f : BitVec 5) : (x.orFlags f).trapPorts = x.trapPorts := rfl
@[simp] theorem Ctx.orFlags_trapRdv (x : Ctx) (f : BitVec 5) : (x.orFlags f).trapRdv = x.trapRdv := rfl
@[simp] theorem Ctx.orFlags_dbgPass (x : Ctx) (f : BitVec 5) : (x.orFlags f).dbgPass = x.dbgPass := rfl
@[simp] theorem Ctx.orFlags_kept (x : Ctx) (f : BitVec 5) : (x.orFlags f).kept = x.kept := rfl
@[simp] theorem Ctx.orFlags_stall (x : Ctx) (f : BitVec 5) : (x.orFlags f).stall = x.stall := rfl
@[simp] theorem Ctx.orFlags_lastUncr (x : Ctx) (f : BitVec 5) : (x.orFlags f).lastUncr = x.lastUncr := rfl
@[simp] theorem Ctx.orFlags_tan (x : Ctx) (f : BitVec 5) : (x.orFlags f).tan = x.tan := rfl
@[simp] theorem Ctx.orFlags_tanA (x : Ctx) (f : BitVec 5) : (x.orFlags f).tanA = x.tanA := rfl
@[simp] theorem Ctx.orFlags_tanB (x : Ctx) (f : BitVec 5) : (x.orFlags f).tanB = x.tanB := rfl
@[simp] theorem Ctx.orFlags_tanLo (x : Ctx) (f : BitVec 5) : (x.orFlags f).tanLo = x.tanLo := rfl
@[simp] theorem Ctx.orFlags_tanHi (x : Ctx) (f : BitVec 5) : (x.orFlags f).tanHi = x.tanHi := rfl
@[simp] theorem Ctx.orFlags_tanY (x : Ctx) (f : BitVec 5) : (x.orFlags f).tanY = x.tanY := rfl
@[simp] theorem Ctx.orFlags_rngOut (x : Ctx) (f : BitVec 5) : (x.orFlags f).rngOut = x.rngOut := rfl
@[simp] theorem Ctx.orFlags_crcVal (x : Ctx) (f : BitVec 5) : (x.orFlags f).crcVal = x.crcVal := rfl
@[simp] theorem Ctx.orFlags_ksets (x : Ctx) (f : BitVec 5) : (x.orFlags f).ksets = x.ksets := rfl
@[simp] theorem Ctx.orFlags_damage (x : Ctx) (f : BitVec 5) : (x.orFlags f).damage = x.damage := rfl
@[simp] theorem Ctx.orFlags_ppe (x : Ctx) (f : BitVec 5) : (x.orFlags f).ppe = x.ppe := rfl

@[simp] theorem Ctx.writeC_status (x : Ctx) (n : Nat) (v : Word) : (x.writeC n v).status = x.status := by
  unfold Ctx.writeC
  split <;> first | rfl | (split <;> rfl)
@[simp] theorem Ctx.writeC_launch (x : Ctx) (n : Nat) (v : Word) : (x.writeC n v).launch = x.launch := by
  unfold Ctx.writeC
  split <;> first | rfl | (split <;> rfl)
@[simp] theorem Ctx.writeC_prio (x : Ctx) (n : Nat) (v : Word) : (x.writeC n v).prio = x.prio := by
  unfold Ctx.writeC
  split <;> first | rfl | (split <;> rfl)
@[simp] theorem Ctx.writeC_vcore (x : Ctx) (n : Nat) (v : Word) : (x.writeC n v).vcore = x.vcore := by
  unfold Ctx.writeC
  split <;> first | rfl | (split <;> rfl)
@[simp] theorem Ctx.writeC_tileBase (x : Ctx) (n : Nat) (v : Word) : (x.writeC n v).tileBase = x.tileBase := by
  unfold Ctx.writeC
  split <;> first | rfl | (split <;> rfl)
@[simp] theorem Ctx.writeC_tileCount (x : Ctx) (n : Nat) (v : Word) : (x.writeC n v).tileCount = x.tileCount := by
  unfold Ctx.writeC
  split <;> first | rfl | (split <;> rfl)
@[simp] theorem Ctx.writeC_pc (x : Ctx) (n : Nat) (v : Word) : (x.writeC n v).pc = x.pc := by
  unfold Ctx.writeC
  split <;> first | rfl | (split <;> rfl)
@[simp] theorem Ctx.writeC_p (x : Ctx) (n : Nat) (v : Word) : (x.writeC n v).p = x.p := by
  unfold Ctx.writeC
  split <;> first | rfl | (split <;> rfl)
@[simp] theorem Ctx.writeC_q (x : Ctx) (n : Nat) (v : Word) : (x.writeC n v).q = x.q := by
  unfold Ctx.writeC
  split <;> first | rfl | (split <;> rfl)
@[simp] theorem Ctx.writeC_e (x : Ctx) (n : Nat) (v : Word) : (x.writeC n v).e = x.e := by
  unfold Ctx.writeC
  split <;> first | rfl | (split <;> rfl)
@[simp] theorem Ctx.writeC_d (x : Ctx) (n : Nat) (v : Word) : (x.writeC n v).d = x.d := by
  unfold Ctx.writeC
  split <;> first | rfl | (split <;> rfl)
@[simp] theorem Ctx.writeC_y (x : Ctx) (n : Nat) (v : Word) : (x.writeC n v).y = x.y := by
  unfold Ctx.writeC
  split <;> first | rfl | (split <;> rfl)
@[simp] theorem Ctx.writeC_sg (x : Ctx) (n : Nat) (v : Word) : (x.writeC n v).sg = x.sg := by
  unfold Ctx.writeC
  split <;> first | rfl | (split <;> rfl)
@[simp] theorem Ctx.writeC_yptr (x : Ctx) (n : Nat) (v : Word) : (x.writeC n v).yptr = x.yptr := by
  unfold Ctx.writeC
  split <;> first | rfl | (split <;> rfl)
@[simp] theorem Ctx.writeC_tok (x : Ctx) (n : Nat) (v : Word) : (x.writeC n v).tok = x.tok := by
  unfold Ctx.writeC
  split <;> first | rfl | (split <;> rfl)
@[simp] theorem Ctx.writeC_pwq (x : Ctx) (n : Nat) (v : Word) : (x.writeC n v).pwq = x.pwq := by
  unfold Ctx.writeC
  split <;> first | rfl | (split <;> rfl)
@[simp] theorem Ctx.writeC_loop (x : Ctx) (n : Nat) (v : Word) : (x.writeC n v).loop = x.loop := by
  unfold Ctx.writeC
  split <;> first | rfl | (split <;> rfl)
@[simp] theorem Ctx.writeC_redirect (x : Ctx) (n : Nat) (v : Word) : (x.writeC n v).redirect = x.redirect := by
  unfold Ctx.writeC
  split <;> first | rfl | (split <;> rfl)
@[simp] theorem Ctx.writeC_bcnt (x : Ctx) (n : Nat) (v : Word) : (x.writeC n v).bcnt = x.bcnt := by
  unfold Ctx.writeC
  split <;> first | rfl | (split <;> rfl)
@[simp] theorem Ctx.writeC_issued (x : Ctx) (n : Nat) (v : Word) : (x.writeC n v).issued = x.issued := by
  unfold Ctx.writeC
  split <;> first | rfl | (split <;> rfl)
@[simp] theorem Ctx.writeC_flags (x : Ctx) (n : Nat) (v : Word) : (x.writeC n v).flags = x.flags := by
  unfold Ctx.writeC
  split <;> first | rfl | (split <;> rfl)
@[simp] theorem Ctx.writeC_escn (x : Ctx) (n : Nat) (v : Word) : (x.writeC n v).escn = x.escn := by
  unfold Ctx.writeC
  split <;> first | rfl | (split <;> rfl)
@[simp] theorem Ctx.writeC_drift (x : Ctx) (n : Nat) (v : Word) : (x.writeC n v).drift = x.drift := by
  unfold Ctx.writeC
  split <;> first | rfl | (split <;> rfl)
@[simp] theorem Ctx.writeC_argp (x : Ctx) (n : Nat) (v : Word) : (x.writeC n v).argp = x.argp := by
  unfold Ctx.writeC
  split <;> first | rfl | (split <;> rfl)
@[simp] theorem Ctx.writeC_tmask (x : Ctx) (n : Nat) (v : Word) : (x.writeC n v).tmask = x.tmask := by
  unfold Ctx.writeC
  split <;> first | rfl | (split <;> rfl)
@[simp] theorem Ctx.writeC_pwin (x : Ctx) (n : Nat) (v : Word) : (x.writeC n v).pwin = x.pwin := by
  unfold Ctx.writeC
  split <;> first | rfl | (split <;> rfl)
@[simp] theorem Ctx.writeC_engDone (x : Ctx) (n : Nat) (v : Word) : (x.writeC n v).engDone = x.engDone := by
  unfold Ctx.writeC
  split <;> first | rfl | (split <;> rfl)
@[simp] theorem Ctx.writeC_segid (x : Ctx) (n : Nat) (v : Word) : (x.writeC n v).segid = x.segid := by
  unfold Ctx.writeC
  split <;> first | rfl | (split <;> rfl)
@[simp] theorem Ctx.writeC_segtry (x : Ctx) (n : Nat) (v : Word) : (x.writeC n v).segtry = x.segtry := by
  unfold Ctx.writeC
  split <;> first | rfl | (split <;> rfl)
@[simp] theorem Ctx.writeC_segStart (x : Ctx) (n : Nat) (v : Word) : (x.writeC n v).segStart = x.segStart := by
  unfold Ctx.writeC
  split <;> first | rfl | (split <;> rfl)
@[simp] theorem Ctx.writeC_segFirst (x : Ctx) (n : Nat) (v : Word) : (x.writeC n v).segFirst = x.segFirst := by
  unfold Ctx.writeC
  split <;> first | rfl | (split <;> rfl)
@[simp] theorem Ctx.writeC_segBundles (x : Ctx) (n : Nat) (v : Word) : (x.writeC n v).segBundles = x.segBundles := by
  unfold Ctx.writeC
  split <;> first | rfl | (split <;> rfl)
@[simp] theorem Ctx.writeC_chunkLogged (x : Ctx) (n : Nat) (v : Word) : (x.writeC n v).chunkLogged = x.chunkLogged := by
  unfold Ctx.writeC
  split <;> first | rfl | (split <;> rfl)
@[simp] theorem Ctx.writeC_segAccess (x : Ctx) (n : Nat) (v : Word) : (x.writeC n v).segAccess = x.segAccess := by
  unfold Ctx.writeC
  split <;> first | rfl | (split <;> rfl)
@[simp] theorem Ctx.writeC_segDrains (x : Ctx) (n : Nat) (v : Word) : (x.writeC n v).segDrains = x.segDrains := by
  unfold Ctx.writeC
  split <;> first | rfl | (split <;> rfl)
@[simp] theorem Ctx.writeC_ckpt (x : Ctx) (n : Nat) (v : Word) : (x.writeC n v).ckpt = x.ckpt := by
  unfold Ctx.writeC
  split <;> first | rfl | (split <;> rfl)
@[simp] theorem Ctx.writeC_claims (x : Ctx) (n : Nat) (v : Word) : (x.writeC n v).claims = x.claims := by
  unfold Ctx.writeC
  split <;> first | rfl | (split <;> rfl)
@[simp] theorem Ctx.writeC_replay (x : Ctx) (n : Nat) (v : Word) : (x.writeC n v).replay = x.replay := by
  unfold Ctx.writeC
  split <;> first | rfl | (split <;> rfl)
@[simp] theorem Ctx.writeC_srq (x : Ctx) (n : Nat) (v : Word) : (x.writeC n v).srq = x.srq := by
  unfold Ctx.writeC
  split <;> first | rfl | (split <;> rfl)
@[simp] theorem Ctx.writeC_releasing (x : Ctx) (n : Nat) (v : Word) : (x.writeC n v).releasing = x.releasing := by
  unfold Ctx.writeC
  split <;> first | rfl | (split <;> rfl)
@[simp] theorem Ctx.writeC_out (x : Ctx) (n : Nat) (v : Word) : (x.writeC n v).out = x.out := by
  unfold Ctx.writeC
  split <;> first | rfl | (split <;> rfl)
@[simp] theorem Ctx.writeC_nextAccess (x : Ctx) (n : Nat) (v : Word) : (x.writeC n v).nextAccess = x.nextAccess := by
  unfold Ctx.writeC
  split <;> first | rfl | (split <;> rfl)
@[simp] theorem Ctx.writeC_rewind (x : Ctx) (n : Nat) (v : Word) : (x.writeC n v).rewind = x.rewind := by
  unfold Ctx.writeC
  split <;> first | rfl | (split <;> rfl)
@[simp] theorem Ctx.writeC_claimWait (x : Ctx) (n : Nat) (v : Word) : (x.writeC n v).claimWait = x.claimWait := by
  unfold Ctx.writeC
  split <;> first | rfl | (split <;> rfl)
@[simp] theorem Ctx.writeC_arrival (x : Ctx) (n : Nat) (v : Word) : (x.writeC n v).arrival = x.arrival := by
  unfold Ctx.writeC
  split <;> first | rfl | (split <;> rfl)
@[simp] theorem Ctx.writeC_events (x : Ctx) (n : Nat) (v : Word) : (x.writeC n v).events = x.events := by
  unfold Ctx.writeC
  split <;> first | rfl | (split <;> rfl)
@[simp] theorem Ctx.writeC_waitOn (x : Ctx) (n : Nat) (v : Word) : (x.writeC n v).waitOn = x.waitOn := by
  unfold Ctx.writeC
  split <;> first | rfl | (split <;> rfl)
@[simp] theorem Ctx.writeC_busyRegs (x : Ctx) (n : Nat) (v : Word) : (x.writeC n v).busyRegs = x.busyRegs := by
  unfold Ctx.writeC
  split <;> first | rfl | (split <;> rfl)
@[simp] theorem Ctx.writeC_busyLines (x : Ctx) (n : Nat) (v : Word) : (x.writeC n v).busyLines = x.busyLines := by
  unfold Ctx.writeC
  split <;> first | rfl | (split <;> rfl)
@[simp] theorem Ctx.writeC_dirtyRegs (x : Ctx) (n : Nat) (v : Word) : (x.writeC n v).dirtyRegs = x.dirtyRegs := by
  unfold Ctx.writeC
  split <;> first | rfl | (split <;> rfl)
@[simp] theorem Ctx.writeC_dirtyLines (x : Ctx) (n : Nat) (v : Word) : (x.writeC n v).dirtyLines = x.dirtyLines := by
  unfold Ctx.writeC
  split <;> first | rfl | (split <;> rfl)
@[simp] theorem Ctx.writeC_walk (x : Ctx) (n : Nat) (v : Word) : (x.writeC n v).walk = x.walk := by
  unfold Ctx.writeC
  split <;> first | rfl | (split <;> rfl)
@[simp] theorem Ctx.writeC_walkFault (x : Ctx) (n : Nat) (v : Word) : (x.writeC n v).walkFault = x.walkFault := by
  unfold Ctx.writeC
  split <;> first | rfl | (split <;> rfl)
@[simp] theorem Ctx.writeC_tlbiWait (x : Ctx) (n : Nat) (v : Word) : (x.writeC n v).tlbiWait = x.tlbiWait := by
  unfold Ctx.writeC
  split <;> first | rfl | (split <;> rfl)
@[simp] theorem Ctx.writeC_yielded (x : Ctx) (n : Nat) (v : Word) : (x.writeC n v).yielded = x.yielded := by
  unfold Ctx.writeC
  split <;> first | rfl | (split <;> rfl)
@[simp] theorem Ctx.writeC_skip (x : Ctx) (n : Nat) (v : Word) : (x.writeC n v).skip = x.skip := by
  unfold Ctx.writeC
  split <;> first | rfl | (split <;> rfl)
@[simp] theorem Ctx.writeC_trapTok (x : Ctx) (n : Nat) (v : Word) : (x.writeC n v).trapTok = x.trapTok := by
  unfold Ctx.writeC
  split <;> first | rfl | (split <;> rfl)
@[simp] theorem Ctx.writeC_trapPorts (x : Ctx) (n : Nat) (v : Word) : (x.writeC n v).trapPorts = x.trapPorts := by
  unfold Ctx.writeC
  split <;> first | rfl | (split <;> rfl)
@[simp] theorem Ctx.writeC_trapRdv (x : Ctx) (n : Nat) (v : Word) : (x.writeC n v).trapRdv = x.trapRdv := by
  unfold Ctx.writeC
  split <;> first | rfl | (split <;> rfl)
@[simp] theorem Ctx.writeC_dbgPass (x : Ctx) (n : Nat) (v : Word) : (x.writeC n v).dbgPass = x.dbgPass := by
  unfold Ctx.writeC
  split <;> first | rfl | (split <;> rfl)
@[simp] theorem Ctx.writeC_kept (x : Ctx) (n : Nat) (v : Word) : (x.writeC n v).kept = x.kept := by
  unfold Ctx.writeC
  split <;> first | rfl | (split <;> rfl)
@[simp] theorem Ctx.writeC_stall (x : Ctx) (n : Nat) (v : Word) : (x.writeC n v).stall = x.stall := by
  unfold Ctx.writeC
  split <;> first | rfl | (split <;> rfl)
@[simp] theorem Ctx.writeC_lastUncr (x : Ctx) (n : Nat) (v : Word) : (x.writeC n v).lastUncr = x.lastUncr := by
  unfold Ctx.writeC
  split <;> first | rfl | (split <;> rfl)
@[simp] theorem Ctx.writeC_tan (x : Ctx) (n : Nat) (v : Word) : (x.writeC n v).tan = x.tan := by
  unfold Ctx.writeC
  split <;> first | rfl | (split <;> rfl)
@[simp] theorem Ctx.writeC_tanA (x : Ctx) (n : Nat) (v : Word) : (x.writeC n v).tanA = x.tanA := by
  unfold Ctx.writeC
  split <;> first | rfl | (split <;> rfl)
@[simp] theorem Ctx.writeC_tanB (x : Ctx) (n : Nat) (v : Word) : (x.writeC n v).tanB = x.tanB := by
  unfold Ctx.writeC
  split <;> first | rfl | (split <;> rfl)
@[simp] theorem Ctx.writeC_tanLo (x : Ctx) (n : Nat) (v : Word) : (x.writeC n v).tanLo = x.tanLo := by
  unfold Ctx.writeC
  split <;> first | rfl | (split <;> rfl)
@[simp] theorem Ctx.writeC_tanHi (x : Ctx) (n : Nat) (v : Word) : (x.writeC n v).tanHi = x.tanHi := by
  unfold Ctx.writeC
  split <;> first | rfl | (split <;> rfl)
@[simp] theorem Ctx.writeC_tanY (x : Ctx) (n : Nat) (v : Word) : (x.writeC n v).tanY = x.tanY := by
  unfold Ctx.writeC
  split <;> first | rfl | (split <;> rfl)
@[simp] theorem Ctx.writeC_rngOut (x : Ctx) (n : Nat) (v : Word) : (x.writeC n v).rngOut = x.rngOut := by
  unfold Ctx.writeC
  split <;> first | rfl | (split <;> rfl)
@[simp] theorem Ctx.writeC_crcVal (x : Ctx) (n : Nat) (v : Word) : (x.writeC n v).crcVal = x.crcVal := by
  unfold Ctx.writeC
  split <;> first | rfl | (split <;> rfl)
@[simp] theorem Ctx.writeC_ksets (x : Ctx) (n : Nat) (v : Word) : (x.writeC n v).ksets = x.ksets := by
  unfold Ctx.writeC
  split <;> first | rfl | (split <;> rfl)
@[simp] theorem Ctx.writeC_damage (x : Ctx) (n : Nat) (v : Word) : (x.writeC n v).damage = x.damage := by
  unfold Ctx.writeC
  split <;> first | rfl | (split <;> rfl)
@[simp] theorem Ctx.writeC_ppe (x : Ctx) (n : Nat) (v : Word) : (x.writeC n v).ppe = x.ppe := by
  unfold Ctx.writeC
  split <;> first | rfl | (split <;> rfl)

@[simp] theorem Ctx.writePair_status (x : Ctx) (k : Nat) (a b : Bool) : (x.writePair k a b).status = x.status := by
  unfold Ctx.writePair
  split <;> first | rfl | (split <;> rfl)
@[simp] theorem Ctx.writePair_launch (x : Ctx) (k : Nat) (a b : Bool) : (x.writePair k a b).launch = x.launch := by
  unfold Ctx.writePair
  split <;> first | rfl | (split <;> rfl)
@[simp] theorem Ctx.writePair_prio (x : Ctx) (k : Nat) (a b : Bool) : (x.writePair k a b).prio = x.prio := by
  unfold Ctx.writePair
  split <;> first | rfl | (split <;> rfl)
@[simp] theorem Ctx.writePair_vcore (x : Ctx) (k : Nat) (a b : Bool) : (x.writePair k a b).vcore = x.vcore := by
  unfold Ctx.writePair
  split <;> first | rfl | (split <;> rfl)
@[simp] theorem Ctx.writePair_tileBase (x : Ctx) (k : Nat) (a b : Bool) : (x.writePair k a b).tileBase = x.tileBase := by
  unfold Ctx.writePair
  split <;> first | rfl | (split <;> rfl)
@[simp] theorem Ctx.writePair_tileCount (x : Ctx) (k : Nat) (a b : Bool) : (x.writePair k a b).tileCount = x.tileCount := by
  unfold Ctx.writePair
  split <;> first | rfl | (split <;> rfl)
@[simp] theorem Ctx.writePair_pc (x : Ctx) (k : Nat) (a b : Bool) : (x.writePair k a b).pc = x.pc := by
  unfold Ctx.writePair
  split <;> first | rfl | (split <;> rfl)
@[simp] theorem Ctx.writePair_c (x : Ctx) (k : Nat) (a b : Bool) : (x.writePair k a b).c = x.c := by
  unfold Ctx.writePair
  split <;> first | rfl | (split <;> rfl)
@[simp] theorem Ctx.writePair_q (x : Ctx) (k : Nat) (a b : Bool) : (x.writePair k a b).q = x.q := by
  unfold Ctx.writePair
  split <;> first | rfl | (split <;> rfl)
@[simp] theorem Ctx.writePair_e (x : Ctx) (k : Nat) (a b : Bool) : (x.writePair k a b).e = x.e := by
  unfold Ctx.writePair
  split <;> first | rfl | (split <;> rfl)
@[simp] theorem Ctx.writePair_d (x : Ctx) (k : Nat) (a b : Bool) : (x.writePair k a b).d = x.d := by
  unfold Ctx.writePair
  split <;> first | rfl | (split <;> rfl)
@[simp] theorem Ctx.writePair_y (x : Ctx) (k : Nat) (a b : Bool) : (x.writePair k a b).y = x.y := by
  unfold Ctx.writePair
  split <;> first | rfl | (split <;> rfl)
@[simp] theorem Ctx.writePair_sg (x : Ctx) (k : Nat) (a b : Bool) : (x.writePair k a b).sg = x.sg := by
  unfold Ctx.writePair
  split <;> first | rfl | (split <;> rfl)
@[simp] theorem Ctx.writePair_yptr (x : Ctx) (k : Nat) (a b : Bool) : (x.writePair k a b).yptr = x.yptr := by
  unfold Ctx.writePair
  split <;> first | rfl | (split <;> rfl)
@[simp] theorem Ctx.writePair_tok (x : Ctx) (k : Nat) (a b : Bool) : (x.writePair k a b).tok = x.tok := by
  unfold Ctx.writePair
  split <;> first | rfl | (split <;> rfl)
@[simp] theorem Ctx.writePair_pwq (x : Ctx) (k : Nat) (a b : Bool) : (x.writePair k a b).pwq = x.pwq := by
  unfold Ctx.writePair
  split <;> first | rfl | (split <;> rfl)
@[simp] theorem Ctx.writePair_loop (x : Ctx) (k : Nat) (a b : Bool) : (x.writePair k a b).loop = x.loop := by
  unfold Ctx.writePair
  split <;> first | rfl | (split <;> rfl)
@[simp] theorem Ctx.writePair_redirect (x : Ctx) (k : Nat) (a b : Bool) : (x.writePair k a b).redirect = x.redirect := by
  unfold Ctx.writePair
  split <;> first | rfl | (split <;> rfl)
@[simp] theorem Ctx.writePair_bcnt (x : Ctx) (k : Nat) (a b : Bool) : (x.writePair k a b).bcnt = x.bcnt := by
  unfold Ctx.writePair
  split <;> first | rfl | (split <;> rfl)
@[simp] theorem Ctx.writePair_issued (x : Ctx) (k : Nat) (a b : Bool) : (x.writePair k a b).issued = x.issued := by
  unfold Ctx.writePair
  split <;> first | rfl | (split <;> rfl)
@[simp] theorem Ctx.writePair_flags (x : Ctx) (k : Nat) (a b : Bool) : (x.writePair k a b).flags = x.flags := by
  unfold Ctx.writePair
  split <;> first | rfl | (split <;> rfl)
@[simp] theorem Ctx.writePair_escn (x : Ctx) (k : Nat) (a b : Bool) : (x.writePair k a b).escn = x.escn := by
  unfold Ctx.writePair
  split <;> first | rfl | (split <;> rfl)
@[simp] theorem Ctx.writePair_drift (x : Ctx) (k : Nat) (a b : Bool) : (x.writePair k a b).drift = x.drift := by
  unfold Ctx.writePair
  split <;> first | rfl | (split <;> rfl)
@[simp] theorem Ctx.writePair_argp (x : Ctx) (k : Nat) (a b : Bool) : (x.writePair k a b).argp = x.argp := by
  unfold Ctx.writePair
  split <;> first | rfl | (split <;> rfl)
@[simp] theorem Ctx.writePair_tmask (x : Ctx) (k : Nat) (a b : Bool) : (x.writePair k a b).tmask = x.tmask := by
  unfold Ctx.writePair
  split <;> first | rfl | (split <;> rfl)
@[simp] theorem Ctx.writePair_pwin (x : Ctx) (k : Nat) (a b : Bool) : (x.writePair k a b).pwin = x.pwin := by
  unfold Ctx.writePair
  split <;> first | rfl | (split <;> rfl)
@[simp] theorem Ctx.writePair_engDone (x : Ctx) (k : Nat) (a b : Bool) : (x.writePair k a b).engDone = x.engDone := by
  unfold Ctx.writePair
  split <;> first | rfl | (split <;> rfl)
@[simp] theorem Ctx.writePair_segid (x : Ctx) (k : Nat) (a b : Bool) : (x.writePair k a b).segid = x.segid := by
  unfold Ctx.writePair
  split <;> first | rfl | (split <;> rfl)
@[simp] theorem Ctx.writePair_segtry (x : Ctx) (k : Nat) (a b : Bool) : (x.writePair k a b).segtry = x.segtry := by
  unfold Ctx.writePair
  split <;> first | rfl | (split <;> rfl)
@[simp] theorem Ctx.writePair_segStart (x : Ctx) (k : Nat) (a b : Bool) : (x.writePair k a b).segStart = x.segStart := by
  unfold Ctx.writePair
  split <;> first | rfl | (split <;> rfl)
@[simp] theorem Ctx.writePair_segFirst (x : Ctx) (k : Nat) (a b : Bool) : (x.writePair k a b).segFirst = x.segFirst := by
  unfold Ctx.writePair
  split <;> first | rfl | (split <;> rfl)
@[simp] theorem Ctx.writePair_segBundles (x : Ctx) (k : Nat) (a b : Bool) : (x.writePair k a b).segBundles = x.segBundles := by
  unfold Ctx.writePair
  split <;> first | rfl | (split <;> rfl)
@[simp] theorem Ctx.writePair_chunkLogged (x : Ctx) (k : Nat) (a b : Bool) : (x.writePair k a b).chunkLogged = x.chunkLogged := by
  unfold Ctx.writePair
  split <;> first | rfl | (split <;> rfl)
@[simp] theorem Ctx.writePair_segAccess (x : Ctx) (k : Nat) (a b : Bool) : (x.writePair k a b).segAccess = x.segAccess := by
  unfold Ctx.writePair
  split <;> first | rfl | (split <;> rfl)
@[simp] theorem Ctx.writePair_segDrains (x : Ctx) (k : Nat) (a b : Bool) : (x.writePair k a b).segDrains = x.segDrains := by
  unfold Ctx.writePair
  split <;> first | rfl | (split <;> rfl)
@[simp] theorem Ctx.writePair_ckpt (x : Ctx) (k : Nat) (a b : Bool) : (x.writePair k a b).ckpt = x.ckpt := by
  unfold Ctx.writePair
  split <;> first | rfl | (split <;> rfl)
@[simp] theorem Ctx.writePair_claims (x : Ctx) (k : Nat) (a b : Bool) : (x.writePair k a b).claims = x.claims := by
  unfold Ctx.writePair
  split <;> first | rfl | (split <;> rfl)
@[simp] theorem Ctx.writePair_replay (x : Ctx) (k : Nat) (a b : Bool) : (x.writePair k a b).replay = x.replay := by
  unfold Ctx.writePair
  split <;> first | rfl | (split <;> rfl)
@[simp] theorem Ctx.writePair_srq (x : Ctx) (k : Nat) (a b : Bool) : (x.writePair k a b).srq = x.srq := by
  unfold Ctx.writePair
  split <;> first | rfl | (split <;> rfl)
@[simp] theorem Ctx.writePair_releasing (x : Ctx) (k : Nat) (a b : Bool) : (x.writePair k a b).releasing = x.releasing := by
  unfold Ctx.writePair
  split <;> first | rfl | (split <;> rfl)
@[simp] theorem Ctx.writePair_out (x : Ctx) (k : Nat) (a b : Bool) : (x.writePair k a b).out = x.out := by
  unfold Ctx.writePair
  split <;> first | rfl | (split <;> rfl)
@[simp] theorem Ctx.writePair_nextAccess (x : Ctx) (k : Nat) (a b : Bool) : (x.writePair k a b).nextAccess = x.nextAccess := by
  unfold Ctx.writePair
  split <;> first | rfl | (split <;> rfl)
@[simp] theorem Ctx.writePair_rewind (x : Ctx) (k : Nat) (a b : Bool) : (x.writePair k a b).rewind = x.rewind := by
  unfold Ctx.writePair
  split <;> first | rfl | (split <;> rfl)
@[simp] theorem Ctx.writePair_claimWait (x : Ctx) (k : Nat) (a b : Bool) : (x.writePair k a b).claimWait = x.claimWait := by
  unfold Ctx.writePair
  split <;> first | rfl | (split <;> rfl)
@[simp] theorem Ctx.writePair_arrival (x : Ctx) (k : Nat) (a b : Bool) : (x.writePair k a b).arrival = x.arrival := by
  unfold Ctx.writePair
  split <;> first | rfl | (split <;> rfl)
@[simp] theorem Ctx.writePair_events (x : Ctx) (k : Nat) (a b : Bool) : (x.writePair k a b).events = x.events := by
  unfold Ctx.writePair
  split <;> first | rfl | (split <;> rfl)
@[simp] theorem Ctx.writePair_waitOn (x : Ctx) (k : Nat) (a b : Bool) : (x.writePair k a b).waitOn = x.waitOn := by
  unfold Ctx.writePair
  split <;> first | rfl | (split <;> rfl)
@[simp] theorem Ctx.writePair_busyRegs (x : Ctx) (k : Nat) (a b : Bool) : (x.writePair k a b).busyRegs = x.busyRegs := by
  unfold Ctx.writePair
  split <;> first | rfl | (split <;> rfl)
@[simp] theorem Ctx.writePair_busyLines (x : Ctx) (k : Nat) (a b : Bool) : (x.writePair k a b).busyLines = x.busyLines := by
  unfold Ctx.writePair
  split <;> first | rfl | (split <;> rfl)
@[simp] theorem Ctx.writePair_dirtyRegs (x : Ctx) (k : Nat) (a b : Bool) : (x.writePair k a b).dirtyRegs = x.dirtyRegs := by
  unfold Ctx.writePair
  split <;> first | rfl | (split <;> rfl)
@[simp] theorem Ctx.writePair_dirtyLines (x : Ctx) (k : Nat) (a b : Bool) : (x.writePair k a b).dirtyLines = x.dirtyLines := by
  unfold Ctx.writePair
  split <;> first | rfl | (split <;> rfl)
@[simp] theorem Ctx.writePair_walk (x : Ctx) (k : Nat) (a b : Bool) : (x.writePair k a b).walk = x.walk := by
  unfold Ctx.writePair
  split <;> first | rfl | (split <;> rfl)
@[simp] theorem Ctx.writePair_walkFault (x : Ctx) (k : Nat) (a b : Bool) : (x.writePair k a b).walkFault = x.walkFault := by
  unfold Ctx.writePair
  split <;> first | rfl | (split <;> rfl)
@[simp] theorem Ctx.writePair_tlbiWait (x : Ctx) (k : Nat) (a b : Bool) : (x.writePair k a b).tlbiWait = x.tlbiWait := by
  unfold Ctx.writePair
  split <;> first | rfl | (split <;> rfl)
@[simp] theorem Ctx.writePair_yielded (x : Ctx) (k : Nat) (a b : Bool) : (x.writePair k a b).yielded = x.yielded := by
  unfold Ctx.writePair
  split <;> first | rfl | (split <;> rfl)
@[simp] theorem Ctx.writePair_skip (x : Ctx) (k : Nat) (a b : Bool) : (x.writePair k a b).skip = x.skip := by
  unfold Ctx.writePair
  split <;> first | rfl | (split <;> rfl)
@[simp] theorem Ctx.writePair_trapTok (x : Ctx) (k : Nat) (a b : Bool) : (x.writePair k a b).trapTok = x.trapTok := by
  unfold Ctx.writePair
  split <;> first | rfl | (split <;> rfl)
@[simp] theorem Ctx.writePair_trapPorts (x : Ctx) (k : Nat) (a b : Bool) : (x.writePair k a b).trapPorts = x.trapPorts := by
  unfold Ctx.writePair
  split <;> first | rfl | (split <;> rfl)
@[simp] theorem Ctx.writePair_trapRdv (x : Ctx) (k : Nat) (a b : Bool) : (x.writePair k a b).trapRdv = x.trapRdv := by
  unfold Ctx.writePair
  split <;> first | rfl | (split <;> rfl)
@[simp] theorem Ctx.writePair_dbgPass (x : Ctx) (k : Nat) (a b : Bool) : (x.writePair k a b).dbgPass = x.dbgPass := by
  unfold Ctx.writePair
  split <;> first | rfl | (split <;> rfl)
@[simp] theorem Ctx.writePair_kept (x : Ctx) (k : Nat) (a b : Bool) : (x.writePair k a b).kept = x.kept := by
  unfold Ctx.writePair
  split <;> first | rfl | (split <;> rfl)
@[simp] theorem Ctx.writePair_stall (x : Ctx) (k : Nat) (a b : Bool) : (x.writePair k a b).stall = x.stall := by
  unfold Ctx.writePair
  split <;> first | rfl | (split <;> rfl)
@[simp] theorem Ctx.writePair_lastUncr (x : Ctx) (k : Nat) (a b : Bool) : (x.writePair k a b).lastUncr = x.lastUncr := by
  unfold Ctx.writePair
  split <;> first | rfl | (split <;> rfl)
@[simp] theorem Ctx.writePair_tan (x : Ctx) (k : Nat) (a b : Bool) : (x.writePair k a b).tan = x.tan := by
  unfold Ctx.writePair
  split <;> first | rfl | (split <;> rfl)
@[simp] theorem Ctx.writePair_tanA (x : Ctx) (k : Nat) (a b : Bool) : (x.writePair k a b).tanA = x.tanA := by
  unfold Ctx.writePair
  split <;> first | rfl | (split <;> rfl)
@[simp] theorem Ctx.writePair_tanB (x : Ctx) (k : Nat) (a b : Bool) : (x.writePair k a b).tanB = x.tanB := by
  unfold Ctx.writePair
  split <;> first | rfl | (split <;> rfl)
@[simp] theorem Ctx.writePair_tanLo (x : Ctx) (k : Nat) (a b : Bool) : (x.writePair k a b).tanLo = x.tanLo := by
  unfold Ctx.writePair
  split <;> first | rfl | (split <;> rfl)
@[simp] theorem Ctx.writePair_tanHi (x : Ctx) (k : Nat) (a b : Bool) : (x.writePair k a b).tanHi = x.tanHi := by
  unfold Ctx.writePair
  split <;> first | rfl | (split <;> rfl)
@[simp] theorem Ctx.writePair_tanY (x : Ctx) (k : Nat) (a b : Bool) : (x.writePair k a b).tanY = x.tanY := by
  unfold Ctx.writePair
  split <;> first | rfl | (split <;> rfl)
@[simp] theorem Ctx.writePair_rngOut (x : Ctx) (k : Nat) (a b : Bool) : (x.writePair k a b).rngOut = x.rngOut := by
  unfold Ctx.writePair
  split <;> first | rfl | (split <;> rfl)
@[simp] theorem Ctx.writePair_crcVal (x : Ctx) (k : Nat) (a b : Bool) : (x.writePair k a b).crcVal = x.crcVal := by
  unfold Ctx.writePair
  split <;> first | rfl | (split <;> rfl)
@[simp] theorem Ctx.writePair_ksets (x : Ctx) (k : Nat) (a b : Bool) : (x.writePair k a b).ksets = x.ksets := by
  unfold Ctx.writePair
  split <;> first | rfl | (split <;> rfl)
@[simp] theorem Ctx.writePair_damage (x : Ctx) (k : Nat) (a b : Bool) : (x.writePair k a b).damage = x.damage := by
  unfold Ctx.writePair
  split <;> first | rfl | (split <;> rfl)
@[simp] theorem Ctx.writePair_ppe (x : Ctx) (k : Nat) (a b : Bool) : (x.writePair k a b).ppe = x.ppe := by
  unfold Ctx.writePair
  split <;> first | rfl | (split <;> rfl)

@[simp] theorem Ctx.produce_status (x : Ctx) (ko cmd : Nat) : (x.produce ko cmd).status = x.status := by
  unfold Ctx.produce
  split <;> rfl
@[simp] theorem Ctx.produce_launch (x : Ctx) (ko cmd : Nat) : (x.produce ko cmd).launch = x.launch := by
  unfold Ctx.produce
  split <;> rfl
@[simp] theorem Ctx.produce_prio (x : Ctx) (ko cmd : Nat) : (x.produce ko cmd).prio = x.prio := by
  unfold Ctx.produce
  split <;> rfl
@[simp] theorem Ctx.produce_vcore (x : Ctx) (ko cmd : Nat) : (x.produce ko cmd).vcore = x.vcore := by
  unfold Ctx.produce
  split <;> rfl
@[simp] theorem Ctx.produce_tileBase (x : Ctx) (ko cmd : Nat) : (x.produce ko cmd).tileBase = x.tileBase := by
  unfold Ctx.produce
  split <;> rfl
@[simp] theorem Ctx.produce_tileCount (x : Ctx) (ko cmd : Nat) : (x.produce ko cmd).tileCount = x.tileCount := by
  unfold Ctx.produce
  split <;> rfl
@[simp] theorem Ctx.produce_pc (x : Ctx) (ko cmd : Nat) : (x.produce ko cmd).pc = x.pc := by
  unfold Ctx.produce
  split <;> rfl
@[simp] theorem Ctx.produce_c (x : Ctx) (ko cmd : Nat) : (x.produce ko cmd).c = x.c := by
  unfold Ctx.produce
  split <;> rfl
@[simp] theorem Ctx.produce_p (x : Ctx) (ko cmd : Nat) : (x.produce ko cmd).p = x.p := by
  unfold Ctx.produce
  split <;> rfl
@[simp] theorem Ctx.produce_q (x : Ctx) (ko cmd : Nat) : (x.produce ko cmd).q = x.q := by
  unfold Ctx.produce
  split <;> rfl
@[simp] theorem Ctx.produce_e (x : Ctx) (ko cmd : Nat) : (x.produce ko cmd).e = x.e := by
  unfold Ctx.produce
  split <;> rfl
@[simp] theorem Ctx.produce_d (x : Ctx) (ko cmd : Nat) : (x.produce ko cmd).d = x.d := by
  unfold Ctx.produce
  split <;> rfl
@[simp] theorem Ctx.produce_y (x : Ctx) (ko cmd : Nat) : (x.produce ko cmd).y = x.y := by
  unfold Ctx.produce
  split <;> rfl
@[simp] theorem Ctx.produce_sg (x : Ctx) (ko cmd : Nat) : (x.produce ko cmd).sg = x.sg := by
  unfold Ctx.produce
  split <;> rfl
@[simp] theorem Ctx.produce_yptr (x : Ctx) (ko cmd : Nat) : (x.produce ko cmd).yptr = x.yptr := by
  unfold Ctx.produce
  split <;> rfl
@[simp] theorem Ctx.produce_pwq (x : Ctx) (ko cmd : Nat) : (x.produce ko cmd).pwq = x.pwq := by
  unfold Ctx.produce
  split <;> rfl
@[simp] theorem Ctx.produce_loop (x : Ctx) (ko cmd : Nat) : (x.produce ko cmd).loop = x.loop := by
  unfold Ctx.produce
  split <;> rfl
@[simp] theorem Ctx.produce_redirect (x : Ctx) (ko cmd : Nat) : (x.produce ko cmd).redirect = x.redirect := by
  unfold Ctx.produce
  split <;> rfl
@[simp] theorem Ctx.produce_bcnt (x : Ctx) (ko cmd : Nat) : (x.produce ko cmd).bcnt = x.bcnt := by
  unfold Ctx.produce
  split <;> rfl
@[simp] theorem Ctx.produce_issued (x : Ctx) (ko cmd : Nat) : (x.produce ko cmd).issued = x.issued := by
  unfold Ctx.produce
  split <;> rfl
@[simp] theorem Ctx.produce_flags (x : Ctx) (ko cmd : Nat) : (x.produce ko cmd).flags = x.flags := by
  unfold Ctx.produce
  split <;> rfl
@[simp] theorem Ctx.produce_escn (x : Ctx) (ko cmd : Nat) : (x.produce ko cmd).escn = x.escn := by
  unfold Ctx.produce
  split <;> rfl
@[simp] theorem Ctx.produce_drift (x : Ctx) (ko cmd : Nat) : (x.produce ko cmd).drift = x.drift := by
  unfold Ctx.produce
  split <;> rfl
@[simp] theorem Ctx.produce_argp (x : Ctx) (ko cmd : Nat) : (x.produce ko cmd).argp = x.argp := by
  unfold Ctx.produce
  split <;> rfl
@[simp] theorem Ctx.produce_tmask (x : Ctx) (ko cmd : Nat) : (x.produce ko cmd).tmask = x.tmask := by
  unfold Ctx.produce
  split <;> rfl
@[simp] theorem Ctx.produce_pwin (x : Ctx) (ko cmd : Nat) : (x.produce ko cmd).pwin = x.pwin := by
  unfold Ctx.produce
  split <;> rfl
@[simp] theorem Ctx.produce_engDone (x : Ctx) (ko cmd : Nat) : (x.produce ko cmd).engDone = x.engDone := by
  unfold Ctx.produce
  split <;> rfl
@[simp] theorem Ctx.produce_segid (x : Ctx) (ko cmd : Nat) : (x.produce ko cmd).segid = x.segid := by
  unfold Ctx.produce
  split <;> rfl
@[simp] theorem Ctx.produce_segtry (x : Ctx) (ko cmd : Nat) : (x.produce ko cmd).segtry = x.segtry := by
  unfold Ctx.produce
  split <;> rfl
@[simp] theorem Ctx.produce_segStart (x : Ctx) (ko cmd : Nat) : (x.produce ko cmd).segStart = x.segStart := by
  unfold Ctx.produce
  split <;> rfl
@[simp] theorem Ctx.produce_segFirst (x : Ctx) (ko cmd : Nat) : (x.produce ko cmd).segFirst = x.segFirst := by
  unfold Ctx.produce
  split <;> rfl
@[simp] theorem Ctx.produce_segBundles (x : Ctx) (ko cmd : Nat) : (x.produce ko cmd).segBundles = x.segBundles := by
  unfold Ctx.produce
  split <;> rfl
@[simp] theorem Ctx.produce_chunkLogged (x : Ctx) (ko cmd : Nat) : (x.produce ko cmd).chunkLogged = x.chunkLogged := by
  unfold Ctx.produce
  split <;> rfl
@[simp] theorem Ctx.produce_segAccess (x : Ctx) (ko cmd : Nat) : (x.produce ko cmd).segAccess = x.segAccess := by
  unfold Ctx.produce
  split <;> rfl
@[simp] theorem Ctx.produce_segDrains (x : Ctx) (ko cmd : Nat) : (x.produce ko cmd).segDrains = x.segDrains := by
  unfold Ctx.produce
  split <;> rfl
@[simp] theorem Ctx.produce_ckpt (x : Ctx) (ko cmd : Nat) : (x.produce ko cmd).ckpt = x.ckpt := by
  unfold Ctx.produce
  split <;> rfl
@[simp] theorem Ctx.produce_claims (x : Ctx) (ko cmd : Nat) : (x.produce ko cmd).claims = x.claims := by
  unfold Ctx.produce
  split <;> rfl
@[simp] theorem Ctx.produce_replay (x : Ctx) (ko cmd : Nat) : (x.produce ko cmd).replay = x.replay := by
  unfold Ctx.produce
  split <;> rfl
@[simp] theorem Ctx.produce_srq (x : Ctx) (ko cmd : Nat) : (x.produce ko cmd).srq = x.srq := by
  unfold Ctx.produce
  split <;> rfl
@[simp] theorem Ctx.produce_releasing (x : Ctx) (ko cmd : Nat) : (x.produce ko cmd).releasing = x.releasing := by
  unfold Ctx.produce
  split <;> rfl
@[simp] theorem Ctx.produce_out (x : Ctx) (ko cmd : Nat) : (x.produce ko cmd).out = x.out := by
  unfold Ctx.produce
  split <;> rfl
@[simp] theorem Ctx.produce_nextAccess (x : Ctx) (ko cmd : Nat) : (x.produce ko cmd).nextAccess = x.nextAccess := by
  unfold Ctx.produce
  split <;> rfl
@[simp] theorem Ctx.produce_rewind (x : Ctx) (ko cmd : Nat) : (x.produce ko cmd).rewind = x.rewind := by
  unfold Ctx.produce
  split <;> rfl
@[simp] theorem Ctx.produce_claimWait (x : Ctx) (ko cmd : Nat) : (x.produce ko cmd).claimWait = x.claimWait := by
  unfold Ctx.produce
  split <;> rfl
@[simp] theorem Ctx.produce_arrival (x : Ctx) (ko cmd : Nat) : (x.produce ko cmd).arrival = x.arrival := by
  unfold Ctx.produce
  split <;> rfl
@[simp] theorem Ctx.produce_events (x : Ctx) (ko cmd : Nat) : (x.produce ko cmd).events = x.events := by
  unfold Ctx.produce
  split <;> rfl
@[simp] theorem Ctx.produce_waitOn (x : Ctx) (ko cmd : Nat) : (x.produce ko cmd).waitOn = x.waitOn := by
  unfold Ctx.produce
  split <;> rfl
@[simp] theorem Ctx.produce_busyRegs (x : Ctx) (ko cmd : Nat) : (x.produce ko cmd).busyRegs = x.busyRegs := by
  unfold Ctx.produce
  split <;> rfl
@[simp] theorem Ctx.produce_busyLines (x : Ctx) (ko cmd : Nat) : (x.produce ko cmd).busyLines = x.busyLines := by
  unfold Ctx.produce
  split <;> rfl
@[simp] theorem Ctx.produce_dirtyRegs (x : Ctx) (ko cmd : Nat) : (x.produce ko cmd).dirtyRegs = x.dirtyRegs := by
  unfold Ctx.produce
  split <;> rfl
@[simp] theorem Ctx.produce_dirtyLines (x : Ctx) (ko cmd : Nat) : (x.produce ko cmd).dirtyLines = x.dirtyLines := by
  unfold Ctx.produce
  split <;> rfl
@[simp] theorem Ctx.produce_walk (x : Ctx) (ko cmd : Nat) : (x.produce ko cmd).walk = x.walk := by
  unfold Ctx.produce
  split <;> rfl
@[simp] theorem Ctx.produce_walkFault (x : Ctx) (ko cmd : Nat) : (x.produce ko cmd).walkFault = x.walkFault := by
  unfold Ctx.produce
  split <;> rfl
@[simp] theorem Ctx.produce_tlbiWait (x : Ctx) (ko cmd : Nat) : (x.produce ko cmd).tlbiWait = x.tlbiWait := by
  unfold Ctx.produce
  split <;> rfl
@[simp] theorem Ctx.produce_yielded (x : Ctx) (ko cmd : Nat) : (x.produce ko cmd).yielded = x.yielded := by
  unfold Ctx.produce
  split <;> rfl
@[simp] theorem Ctx.produce_skip (x : Ctx) (ko cmd : Nat) : (x.produce ko cmd).skip = x.skip := by
  unfold Ctx.produce
  split <;> rfl
@[simp] theorem Ctx.produce_trapTok (x : Ctx) (ko cmd : Nat) : (x.produce ko cmd).trapTok = x.trapTok := by
  unfold Ctx.produce
  split <;> rfl
@[simp] theorem Ctx.produce_trapPorts (x : Ctx) (ko cmd : Nat) : (x.produce ko cmd).trapPorts = x.trapPorts := by
  unfold Ctx.produce
  split <;> rfl
@[simp] theorem Ctx.produce_trapRdv (x : Ctx) (ko cmd : Nat) : (x.produce ko cmd).trapRdv = x.trapRdv := by
  unfold Ctx.produce
  split <;> rfl
@[simp] theorem Ctx.produce_dbgPass (x : Ctx) (ko cmd : Nat) : (x.produce ko cmd).dbgPass = x.dbgPass := by
  unfold Ctx.produce
  split <;> rfl
@[simp] theorem Ctx.produce_kept (x : Ctx) (ko cmd : Nat) : (x.produce ko cmd).kept = x.kept := by
  unfold Ctx.produce
  split <;> rfl
@[simp] theorem Ctx.produce_stall (x : Ctx) (ko cmd : Nat) : (x.produce ko cmd).stall = x.stall := by
  unfold Ctx.produce
  split <;> rfl
@[simp] theorem Ctx.produce_lastUncr (x : Ctx) (ko cmd : Nat) : (x.produce ko cmd).lastUncr = x.lastUncr := by
  unfold Ctx.produce
  split <;> rfl
@[simp] theorem Ctx.produce_tan (x : Ctx) (ko cmd : Nat) : (x.produce ko cmd).tan = x.tan := by
  unfold Ctx.produce
  split <;> rfl
@[simp] theorem Ctx.produce_tanA (x : Ctx) (ko cmd : Nat) : (x.produce ko cmd).tanA = x.tanA := by
  unfold Ctx.produce
  split <;> rfl
@[simp] theorem Ctx.produce_tanB (x : Ctx) (ko cmd : Nat) : (x.produce ko cmd).tanB = x.tanB := by
  unfold Ctx.produce
  split <;> rfl
@[simp] theorem Ctx.produce_tanLo (x : Ctx) (ko cmd : Nat) : (x.produce ko cmd).tanLo = x.tanLo := by
  unfold Ctx.produce
  split <;> rfl
@[simp] theorem Ctx.produce_tanHi (x : Ctx) (ko cmd : Nat) : (x.produce ko cmd).tanHi = x.tanHi := by
  unfold Ctx.produce
  split <;> rfl
@[simp] theorem Ctx.produce_tanY (x : Ctx) (ko cmd : Nat) : (x.produce ko cmd).tanY = x.tanY := by
  unfold Ctx.produce
  split <;> rfl
@[simp] theorem Ctx.produce_rngOut (x : Ctx) (ko cmd : Nat) : (x.produce ko cmd).rngOut = x.rngOut := by
  unfold Ctx.produce
  split <;> rfl
@[simp] theorem Ctx.produce_crcVal (x : Ctx) (ko cmd : Nat) : (x.produce ko cmd).crcVal = x.crcVal := by
  unfold Ctx.produce
  split <;> rfl
@[simp] theorem Ctx.produce_ksets (x : Ctx) (ko cmd : Nat) : (x.produce ko cmd).ksets = x.ksets := by
  unfold Ctx.produce
  split <;> rfl
@[simp] theorem Ctx.produce_damage (x : Ctx) (ko cmd : Nat) : (x.produce ko cmd).damage = x.damage := by
  unfold Ctx.produce
  split <;> rfl
@[simp] theorem Ctx.produce_ppe (x : Ctx) (ko cmd : Nat) : (x.produce ko cmd).ppe = x.ppe := by
  unfold Ctx.produce
  split <;> rfl

/-! ## Reads after updates -/

@[simp] theorem State.core_setCore (s : State) (c : Nat) (k : Core) : (s.setCore c k).core c = k :=
  FMap.get_set_self _ _ _ _
theorem State.core_setCore_ne (s : State) (c d : Nat) (k : Core) (h : d ≠ c) : (s.setCore c k).core d = s.core d :=
  FMap.get_set_ne _ _ _ _ _ h
@[simp] theorem State.core_modCore (s : State) (c : Nat) (f : Core → Core) : (s.modCore c f).core c = f (s.core c) :=
  State.core_setCore _ _ _
theorem State.core_modCore_ne (s : State) (c d : Nat) (f : Core → Core) (h : d ≠ c) : (s.modCore c f).core d = s.core d :=
  State.core_setCore_ne _ _ _ _ h
@[simp] theorem Core.ctx_setCtx (k : Core) (x : Nat) (v : Ctx) : (k.setCtx x v).ctx x = v := FMap.get_set_self _ _ _ _
theorem Core.ctx_setCtx_ne (k : Core) (x y : Nat) (v : Ctx) (h : y ≠ x) : (k.setCtx x v).ctx y = k.ctx y :=
  FMap.get_set_ne _ _ _ _ _ h
@[simp] theorem State.core_setCtx (s : State) (c x : Nat) (v : Ctx) : (s.setCtx c x v).core c = (s.core c).setCtx x v :=
  State.core_setCore _ _ _
@[simp] theorem State.core_modCtx (s : State) (c x : Nat) (f : Ctx → Ctx) :
    (s.modCtx c x f).core c = (s.core c).setCtx x (f (s.ctx c x)) :=
  State.core_setCore _ _ _
theorem State.core_modCtx_ne (s : State) (c d x : Nat) (f : Ctx → Ctx) (h : d ≠ c) : (s.modCtx c x f).core d = s.core d :=
  State.core_setCore_ne _ _ _ _ h
@[simp] theorem State.ctx_setCtx (s : State) (c x : Nat) (v : Ctx) : (s.setCtx c x v).ctx c x = v := by
  simp [State.ctx]
@[simp] theorem State.ctx_modCtx (s : State) (c x : Nat) (f : Ctx → Ctx) : (s.modCtx c x f).ctx c x = f (s.ctx c x) := by
  simp [State.ctx]
/-- Replacing a context leaves every other context of every core as it was. -/
theorem State.ctx_modCtx_ne (s : State) (c x d y : Nat) (f : Ctx → Ctx) (h : d ≠ c ∨ y ≠ x) :
    (s.modCtx c x f).ctx d y = s.ctx d y := by
  by_cases hc : d = c
  · subst hc
    simp only [State.ctx, State.core_modCtx]
    exact Core.ctx_setCtx_ne _ _ _ _ (h.resolve_left (fun e => e rfl))
  · simp only [State.ctx, State.core_modCtx_ne _ _ _ _ _ hc]
@[simp] theorem Core.bank_setBank (k : Core) (b : Nat) (x : Bank) : (k.setBank b x).bank b = x := FMap.get_set_self _ _ _ _
theorem Core.bank_setBank_ne (k : Core) (b d : Nat) (x : Bank) (h : d ≠ b) : (k.setBank b x).bank d = k.bank d :=
  FMap.get_set_ne _ _ _ _ _ h
@[simp] theorem Core.port_setPort (k : Core) (n : Nat) (p : Port) : (k.setPort n p).port n = p := FMap.get_set_self _ _ _ _
theorem Core.port_setPort_ne (k : Core) (n m : Nat) (p : Port) (h : m ≠ n) : (k.setPort n p).port m = k.port m :=
  FMap.get_set_ne _ _ _ _ _ h
@[simp] theorem State.cluster_setCluster (s : State) (n : Nat) (k : Cluster) : (s.setCluster n k).cluster n = k :=
  FMap.get_set_self _ _ _ _
@[simp] theorem State.cluster_setCore (s : State) (c n : Nat) (k : Core) : (s.setCore c k).cluster n = s.cluster n := rfl
@[simp] theorem State.cluster_modCore (s : State) (c n : Nat) (f : Core → Core) : (s.modCore c f).cluster n = s.cluster n := rfl
@[simp] theorem State.cluster_modCtx (s : State) (c x n : Nat) (f : Ctx → Ctx) : (s.modCtx c x f).cluster n = s.cluster n := rfl

end Sys2Proof.Machine
end

