-- ==== Sys2Proof/Tests/Slice0.lean ====
section
/-!
SUPPORT. Tests: ill-formed terms that the check refuses, one for each check; words written out from the spec's
encoding tables that decode to the instruction they stand for; single steps; and for every obligation with hypotheses
a witness that meets them.
-/
namespace Sys2Proof.Tests
open Sys2Proof.Machine
set_option Elab.async false

/-! ## Ill-formed terms -/

def s0 : SSlot := { g := 0, d := 0, a := 0, b := 0, imm := 0 }
def v0 : VSlot := { g := 0, fmt := 0, d := 0, a := 0, b := 0, m := 0, rnd := 0, sat := 0 }
def l0 : LSlot := { g := 0, opnd := 0, c := 0, oc := 0, flags := 0, bank := 0, line := 0 }
def e0 : ESlot :=
  { g := 0, ko := 0, ka := 0, kb := 0, kc := 0, da := 0, db := 0, t := 0, f := 0, oc := 0, scope := 0, mode := 0 }

theorem test_ill_formed_scalar :
    ([.add { s0 with imm := 1 }, .addi { s0 with b := 1 }, .shli { s0 with imm := 64 }, .movi { s0 with a := 1 },
      .movhi { s0 with imm := 0x40000000 }, .clz { s0 with imm := 1 }, .sel { s0 with imm := 1 },
      .addp { s0 with d := 1 }, .addp { s0 with a := 1 }, .addp { s0 with b := 1 }, .mulw { s0 with d := 63 },
      .cmpEq s0, .cmpEq { s0 with d := 8 }, .cmpiEq { s0 with d := 1, b := 1 }, .pand { s0 with d := 1, a := 16 },
      .pset { s0 with d := 1, imm := 2 }] : List Instr).all (fun i => !i.wf) = true := by decide

theorem test_ill_formed_control :
    ([.trap { s0 with imm := 0x10000 }, .brx { s0 with imm := 1 }, .claim { s0 with a := 1 },
      .loop { s0 with d := 16 }, .loopi { s0 with imm := 0x7F }, .kwait { s0 with d := 32 }, .yset { s0 with d := 8 },
      .spost { s0 with imm := 16 }, .swaitany s0, .fence { s0 with imm := 0x30001 }, .chk { s0 with d := 1 },
      .chkp { s0 with a := 1 }, .mfs { s0 with imm := 0x11 }, .mfs { s0 with imm := 0x2A }, .mts s0,
      .mts { s0 with imm := 0x10 }, .pwinWrite s0, .lexit { s0 with imm := 1 }, .stage { s0 with imm := 4 }] :
        List Instr).all (fun i => !i.wf) = true := by decide

theorem test_ill_formed_vector_operands :
    ([.vadd { v0 with d := 0x3001 }, .vfma { v0 with d := 0x3020 }, .vadd { v0 with a := 0x3020 },
      .vadd { v0 with b := 0x0C00 }, .vmov { v0 with b := 1 }, .vchk { v0 with a := 0x3000 }, .vidx { v0 with fmt := 4, a := 1 },
      .vrot { v0 with b := 32 }, .vcmpEq v0, .vqand { v0 with d := 1, a := 8 }] : List Instr).all (fun i => !i.wf) = true := by
  decide

theorem test_ill_formed_vector_formats :
    ([.vadd { v0 with fmt := 2 }, .vminn v0, .vrsum { v0 with fmt := 1 }, .vexp2 { v0 with fmt := 4 },
      .vclz { v0 with fmt := 4, rnd := 1 }, .vand { v0 with fmt := 1 },
      .vcmpLtn { v0 with d := 1 }, .vqcnt v0, .vcvt v0, .vcvt { v0 with b := 7 }, .vsrnd v0, .vbscl { v0 with b := 3 },
      .vqpack v0, .vqunpk v0, .vscl { v0 with fmt := 4 }] : List Instr).all (fun i => !i.wf) = true := by decide

theorem test_ill_formed_scratchpad :
    ([.ld { l0 with c := 1 }, .ldx { l0 with flags := 1 }, .ld { l0 with opnd := 0x3000 }, .lds { l0 with flags := 16 },
      .eld { l0 with flags := 4 }, .prom { l0 with opnd := 129 }, .demo { l0 with line := 1 },
      .tlk { l0 with line := 1024 }, .tpin { l0 with flags := 2 }, .gld { l0 with opnd := 0x3000 },
      .glds { l0 with opnd := 64 }, .dset { l0 with line := 1024 }, .dget { l0 with flags := 8 }, .pcfg l0, .pstat l0,
      .pstop { l0 with opnd := 0x3010, c := 1 }, .bown { l0 with line := 1 }] : List Instr).all (fun i => !i.wf) = true := by
  decide

theorem test_ill_formed_engines :
    ([.mxWld { e0 with mode := 3 }, .mxWld { e0 with mode := 5 }, .mxWldg { e0 with mode := 1 },
      .mxWfold { e0 with mode := 0x20 }, .mxRun { e0 with mode := 0x60 }, .mxRun { e0 with t := 95 },
      .mxAccb { e0 with f := 1 }, .mxAccz { e0 with da := 1 }, .ppeCfg { e0 with mode := 3 }, .ppeDrain { e0 with f := 1 },
      .ppeTld { e0 with mode := 1 }, .ppeEcnt { e0 with mode := 2 }, .cpyGs { e0 with mode := 4 },
      .cpyXgrf { e0 with mode := 1 }, .cpyXdn { e0 with mode := 1 }, .cpyFpr e0, .cpyCmp { e0 with mode := 2 },
      .cpyFill { e0 with t := 96 }, .scaUpd { e0 with mode := 7 }, .scaFupd { e0 with f := 4 },
      .cfCfg { e0 with mode := 16 }, .cfRst { e0 with mode := 1 }, .kjoin { e0 with t := 1 }, .ksig { e0 with scope := 3 }] :
        List Instr).all (fun i => !i.wf) = true := by decide

theorem test_ill_formed_moves :
    ([.xmov ⟨0, 0x100, 0⟩, .xmov ⟨0, 2, 0x100⟩, .xmovl ⟨0, 0x40, 0x400⟩, .xtrg ⟨0, 0x48, 0x100⟩, .tanFit ⟨0, 0x49, 0⟩] :
        List Instr).all (fun i => !i.wf) = true := by decide

theorem test_ill_formed_steps :
    ([.issueCycle 192, .srqEntryEnqueue 0 5, .readPortFetch 0 6, .writePortWrite 0 4, .copyUnitRead 0 4,
      .layerPowerOn 0 6, .refreshWindow 0 384, .bankMigration 0 0 384, .translationWalkDone 48 0, .launchCommit 0 64 [],
      .eventSet 0 8 0, .partitionConfig 0 (.cluster 48 0), .windowFree 0 64, .linkRetrain 12, .cthrWrite 0 48 0] :
        List Instr).all (fun i => !i.wf) = true := by decide

/-! ## Decoding: words written out from Tables 4.2, 4.4, 4.7, 4.9, 4.10 and the opcode lists of R81 -/

theorem test_decode_scalar_1 :
    ([(0x401146FC00000000, .add { s0 with g := 4, d := 5, a := 6, b := 0x3f }),
      (0x403146FC00000000, .sub { s0 with g := 4, d := 5, a := 6, b := 0x3f }),
      (0x404146FC00000000, .mul { s0 with g := 4, d := 5, a := 6, b := 0x3f }),
      (0x406146FC00000000, .mulh { s0 with g := 4, d := 5, a := 6, b := 0x3f }),
      (0x407146FC00000000, .mulhn { s0 with g := 4, d := 5, a := 6, b := 0x3f }),
      (0x408146FC00000000, .and { s0 with g := 4, d := 5, a := 6, b := 0x3f }),
      (0x40A146FC00000000, .or { s0 with g := 4, d := 5, a := 6, b := 0x3f }),
      (0x40C146FC00000000, .xor { s0 with g := 4, d := 5, a := 6, b := 0x3f }),
      (0x40E146FC00000000, .shl { s0 with g := 4, d := 5, a := 6, b := 0x3f }),
      (0x410146FC00000000, .shr { s0 with g := 4, d := 5, a := 6, b := 0x3f }),
      (0x412146FC00000000, .sar { s0 with g := 4, d := 5, a := 6, b := 0x3f }),
      (0x414146FC00000000, .min { s0 with g := 4, d := 5, a := 6, b := 0x3f }),
      (0x415146FC00000000, .max { s0 with g := 4, d := 5, a := 6, b := 0x3f }),
      (0x416146FC00000000, .minn { s0 with g := 4, d := 5, a := 6, b := 0x3f }),
      (0x417146FC00000000, .maxn { s0 with g := 4, d := 5, a := 6, b := 0x3f }),
      (0x41D146FC00000000, .add32 { s0 with g := 4, d := 5, a := 6, b := 0x3f })] : List (Word × Instr)).all
        (fun p => decide (decodeSlot 0 p.1 = .instr p.2)) = true := by decide

theorem test_decode_scalar_2 :
    ([(0x01E28CF800000000, .addp { s0 with d := 0xa, a := 0xc, b := 0x3e }),
      (0x51FF8D3C00000000, .mulw { s0 with g := 5, d := 0x3e, a := 0xd, b := 0xf }),
      (0x40224903FFFFFFFD, .addi { s0 with g := 4, d := 9, a := 9, imm := 0x3fffffffd }),
      (0x40524903FFFFFFFD, .muli { s0 with g := 4, d := 9, a := 9, imm := 0x3fffffffd }),
      (0x40924903FFFFFFFD, .andi { s0 with g := 4, d := 9, a := 9, imm := 0x3fffffffd }),
      (0x40B24903FFFFFFFD, .ori { s0 with g := 4, d := 9, a := 9, imm := 0x3fffffffd }),
      (0x40D24903FFFFFFFD, .xori { s0 with g := 4, d := 9, a := 9, imm := 0x3fffffffd }),
      (0x00F042000000003F, .shli { s0 with d := 1, a := 2, imm := 0x3f }),
      (0x011042000000003F, .shri { s0 with d := 1, a := 2, imm := 0x3f }),
      (0x013042000000003F, .sari { s0 with d := 1, a := 2, imm := 0x3f }),
      (0x0180420D40000000, .sel { s0 with d := 1, a := 2, b := 3, imm := 0x140000000 }),
      (0x119FC003FFFFFFFF, .movi { s0 with g := 1, d := 0x3f, imm := 0x3ffffffff }),
      (0x01AFC0003FFFFFFF, .movhi { s0 with d := 0x3f, imm := 0x3fffffff }),
      (0x01B1C80000000000, .clz { s0 with d := 7, a := 8 }),
      (0x01C1C80000000000, .popc { s0 with d := 7, a := 8 }),
      (0x0201C10800000000, .cmpEq { s0 with d := 7, a := 1, b := 2 })] : List (Word × Instr)).all
        (fun p => decide (decodeSlot 0 p.1 = .instr p.2)) = true := by decide

theorem test_decode_scalar_3 :
    ([(0x0260830000000064, .cmpiEq { s0 with d := 2, a := 3, imm := 0x64 }),
      (0x0211C10800000000, .cmpNe { s0 with d := 7, a := 1, b := 2 }),
      (0x0270830000000064, .cmpiNe { s0 with d := 2, a := 3, imm := 0x64 }),
      (0x0221C10800000000, .cmpLt { s0 with d := 7, a := 1, b := 2 }),
      (0x0280830000000064, .cmpiLt { s0 with d := 2, a := 3, imm := 0x64 }),
      (0x0231C10800000000, .cmpLe { s0 with d := 7, a := 1, b := 2 }),
      (0x0290830000000064, .cmpiLe { s0 with d := 2, a := 3, imm := 0x64 }),
      (0x0241C10800000000, .cmpLtn { s0 with d := 7, a := 1, b := 2 }),
      (0x02A0830000000064, .cmpiLtn { s0 with d := 2, a := 3, imm := 0x64 }),
      (0x0251C10800000000, .cmpLen { s0 with d := 7, a := 1, b := 2 }),
      (0x02B0830000000064, .cmpiLen { s0 with d := 2, a := 3, imm := 0x64 }),
      (0x02C04F1000000000, .pand { s0 with d := 1, a := 0xf, b := 4 }),
      (0x02D04F1000000000, .por { s0 with d := 1, a := 0xf, b := 4 }),
      (0x02E04F1000000000, .pxor { s0 with d := 1, a := 0xf, b := 4 }),
      (0x02F1C00000000001, .pset { s0 with d := 7, imm := 1 }),
      (0x63000003FFFFFFFE, .br { s0 with g := 6, imm := 0x3fffffffe })] : List (Word × Instr)).all
        (fun p => decide (decodeSlot 0 p.1 = .instr p.2)) = true := by decide

theorem test_decode_scalar_4 :
    ([(0x63200003FFFFFFFE, .call { s0 with g := 6, imm := 0x3fffffffe }),
      (0x03103F0000000000, .brx { s0 with a := 0x3f }),
      (0x0343C0000000007F, .loop { s0 with d := 0xf, imm := 0x7f }),
      (0x0350000000000220, .loopi { s0 with imm := 0x220 }),
      (0x0370000000000003, .stage { s0 with imm := 3 }),
      (0x0400C57C00000000, .kwait { s0 with d := 3, a := 5, b := 0x1f }),
      (0x0411C90000000000, .swait { s0 with d := 7, a := 9 }),
      (0x0431C90000000000, .yset { s0 with d := 7, a := 9 }),
      (0x044088000000000F, .spost { s0 with d := 2, a := 8, imm := 0xf }),
      (0x0421000000000081, .swaitany { s0 with d := 4, imm := 0x81 }),
      (0x0450000000020006, .fence { s0 with imm := 0x20006 }),
      (0x0460000000020006, .rel { s0 with imm := 0x20006 }),
      (0x0470000000020006, .acq { s0 with imm := 0x20006 }),
      (0x0488400000000000, .claim { s0 with d := 0x21 }),
      (0x0490050000000000, .grow { s0 with a := 5 }),
      (0x0560050000000000, .csave { s0 with a := 5 })] : List (Word × Instr)).all
        (fun p => decide (decodeSlot 0 p.1 = .instr p.2)) = true := by decide

theorem test_decode_scalar_5 :
    ([(0x0570050000000000, .cload { s0 with a := 5 }),
      (0x0580050000000000, .tlbi { s0 with a := 5 }),
      (0x04A000000000FFFF, .seg { s0 with imm := 0xffff }),
      (0x04B0000000030005, .rdv { s0 with imm := 0x30005 }),
      (0x04C0000000000091, .mark { s0 with imm := 0x91 }),
      (0x04D0010800000000, .chk { s0 with a := 1, b := 2 }),
      (0x04E002F800000000, .chkp { s0 with a := 2, b := 0x3e }),
      (0x0500000000001234, .trap { s0 with imm := 0x1234 }),
      (0x0510000000001234, .sys { s0 with imm := 0x1234 }),
      (0x0532800000000029, .mfs { s0 with d := 0xa, imm := 0x29 }),
      (0x0540030000000007, .mts { s0 with a := 3, imm := 7 }),
      (0x0330000000000000, .ret s0),
      (0x0360000000000000, .lexit s0),
      (0x04F0000000000000, .yield s0),
      (0x0520000000000000, .end_ s0),
      (0x0550000000000000, .tret s0)] : List (Word × Instr)).all
        (fun p => decide (decodeSlot 0 p.1 = .instr p.2)) = true := by decide

theorem test_decode_scalar_6 :
    ([(0x0590000000000000, .waiti s0),
      (0x0540030000000029, .mts { s0 with a := 3, imm := 0x29 }),
      (0x0540030000000010, .pwinWrite { s0 with a := 3, imm := 0x10 }),
      (0x0540030000000020, .trapinfoDismiss { s0 with a := 3, imm := 0x20 }),
      (0x0540030000000024, .snapWrite { s0 with a := 3, imm := 0x24 }),
      (0x0540030000000025, .injWrite { s0 with a := 3, imm := 0x25 }),
      (0x0540030000000026, .trootWrite { s0 with a := 3, imm := 0x26 })] : List (Word × Instr)).all
        (fun p => decide (decodeSlot 0 p.1 = .instr p.2)) = true := by decide

theorem test_decode_vector_1 :
    ([(0x001C090024008022, .vadd { v0 with fmt := 6, d := 0x120, a := 0x120, b := 0x100, m := 2, sat := 1 }),
      (0x002C090024008022, .vsub { v0 with fmt := 6, d := 0x120, a := 0x120, b := 0x100, m := 2, sat := 1 }),
      (0x003C090024008022, .vmul { v0 with fmt := 6, d := 0x120, a := 0x120, b := 0x100, m := 2, sat := 1 }),
      (0x00EC090024008022, .vdif { v0 with fmt := 6, d := 0x120, a := 0x120, b := 0x100, m := 2, sat := 1 }),
      (0x304228121C78008C, .vfma { v0 with g := 3, fmt := 1, d := 0x502, a := 0x10e3, b := 0x3001, rnd := 3 }),
      (0x305228121C78008C, .vfms { v0 with g := 3, fmt := 1, d := 0x502, a := 0x10e3, b := 0x3001, rnd := 3 }),
      (0x006B811D7FF80AF0, .vmin { v0 with fmt := 5, d := 0x3023, a := 0x2bff, b := 0x3015, m := 7 }),
      (0x007B811D7FF80AF0, .vmax { v0 with fmt := 5, d := 0x3023, a := 0x2bff, b := 0x3015, m := 7 }),
      (0x008B811D7FF80AF0, .vminn { v0 with fmt := 5, d := 0x3023, a := 0x2bff, b := 0x3015, m := 7 }),
      (0x009B811D7FF80AF0, .vmaxn { v0 with fmt := 5, d := 0x3023, a := 0x2bff, b := 0x3015, m := 7 }),
      (0x014B811D7FF80AF0, .vshl { v0 with fmt := 5, d := 0x3023, a := 0x2bff, b := 0x3015, m := 7 }),
      (0x015B811D7FF80AF0, .vshr { v0 with fmt := 5, d := 0x3023, a := 0x2bff, b := 0x3015, m := 7 }),
      (0x016B811D7FF80AF0, .vsar { v0 with fmt := 5, d := 0x3023, a := 0x2bff, b := 0x3015, m := 7 }),
      (0x017B811D7FF80AF0, .vmulh { v0 with fmt := 5, d := 0x3023, a := 0x2bff, b := 0x3015, m := 7 }),
      (0x018B811D7FF80AF0, .vmulhn { v0 with fmt := 5, d := 0x3023, a := 0x2bff, b := 0x3015, m := 7 }),
      (0x00A9800602000012, .vabs { v0 with fmt := 4, d := 0x3000, a := 0x3010, m := 1, sat := 1 })] : List (Word × Instr)).all
        (fun p => decide (decodeSlot 2 p.1 = .instr p.2)) = true := by decide

theorem test_decode_vector_2 :
    ([(0x00B9800602000012, .vneg { v0 with fmt := 4, d := 0x3000, a := 0x3010, m := 1, sat := 1 }),
      (0x00C1810600000010, .vmov { v0 with d := 0x3020, a := 0x3000, m := 1 }),
      (0x0131810600000010, .vnot { v0 with d := 0x3020, a := 0x3000, m := 1 }),
      (0x00D00100080030C0, .vsel { v0 with d := 0x20, a := 0x40, b := 0x61, m := 4 }),
      (0x01000100080030C0, .vand { v0 with d := 0x20, a := 0x40, b := 0x61, m := 4 }),
      (0x01100100080030C0, .vor { v0 with d := 0x20, a := 0x40, b := 0x61, m := 4 }),
      (0x01200100080030C0, .vxor { v0 with d := 0x20, a := 0x40, b := 0x61, m := 4 }),
      (0x04400100080030C0, .vperm { v0 with d := 0x20, a := 0x40, b := 0x61, m := 4 }),
      (0x019C010008000040, .vclz { v0 with fmt := 6, d := 0x20, a := 0x40, m := 4 }),
      (0x01AC010008000040, .vpopc { v0 with fmt := 6, d := 0x20, a := 0x40, m := 4 }),
      (0x0200001808002080, .vcmpEq { v0 with d := 3, a := 0x40, b := 0x41 }),
      (0x0210001808002080, .vcmpNe { v0 with d := 3, a := 0x40, b := 0x41 }),
      (0x0220001808002080, .vcmpLt { v0 with d := 3, a := 0x40, b := 0x41 }),
      (0x0230001808002080, .vcmpLe { v0 with d := 3, a := 0x40, b := 0x41 }),
      (0x02480038080020D0, .vcmpLtn { v0 with fmt := 4, d := 7, a := 0x40, b := 0x41, m := 5 }),
      (0x02580038080020D0, .vcmpLen { v0 with fmt := 4, d := 7, a := 0x40, b := 0x41, m := 5 })] : List (Word × Instr)).all
        (fun p => decide (decodeSlot 2 p.1 = .instr p.2)) = true := by decide

theorem test_decode_vector_3 :
    ([(0x0260001800200380, .vqand { v0 with d := 3, a := 1, b := 7 }),
      (0x0270001800200380, .vqor { v0 with d := 3, a := 1, b := 7 }),
      (0x0280001800200380, .vqxor { v0 with d := 3, a := 1, b := 7 }),
      (0x0298032000C00020, .vqcnt { v0 with fmt := 4, d := 0x64, a := 6, m := 2 }),
      (0x02A8032000C00020, .vqfirst { v0 with fmt := 4, d := 0x64, a := 6, m := 2 }),
      (0x030203000C200400, .vcvt { v0 with fmt := 1, d := 0x60, a := 0x61, b := 8 }),
      (0x031E050014200F30, .vqpack { v0 with fmt := 7, d := 0xa0, a := 0xa1, b := 0x1e, m := 3 }),
      (0x032E05001427FFB0, .vqunpk { v0 with fmt := 7, d := 0xa0, a := 0xa1, b := 0xfff, m := 3 }),
      (0x0332050014200788, .vscl { v0 with fmt := 1, d := 0xa0, a := 0xa1, b := 0xf, rnd := 2 }),
      (0x034005001420FF00, .vbscl { v0 with d := 0xa0, a := 0xa1, b := 0x1fe }),
      (0x0350050014200004, .vrnd { v0 with d := 0xa0, a := 0xa1, rnd := 1 }),
      (0x036405001420510E, .vsrnd { v0 with fmt := 2, d := 0xa0, a := 0xa1, b := 0xa2, rnd := 3, sat := 1 }),
      (0x040005001420006A, .vrsum { v0 with d := 0xa0, a := 0xa1, m := 6, rnd := 2, sat := 1 }),
      (0x0418050014200060, .vrmax { v0 with fmt := 4, d := 0xa0, a := 0xa1, m := 6 }),
      (0x0428050014200060, .vrmin { v0 with fmt := 4, d := 0xa0, a := 0xa1, m := 6 }),
      (0x0430050014200FE0, .vrot { v0 with d := 0xa0, a := 0xa1, b := 0x1f, m := 6 })] : List (Word × Instr)).all
        (fun p => decide (decodeSlot 2 p.1 = .instr p.2)) = true := by decide

theorem test_decode_vector_4 :
    ([(0x0450050014200FE0, .vbcast { v0 with d := 0xa0, a := 0xa1, b := 0x1f, m := 6 }),
      (0x0460050014200FE0, .vins { v0 with d := 0xa0, a := 0xa1, b := 0x1f, m := 6 }),
      (0x0470050014200FE0, .vext { v0 with d := 0xa0, a := 0xa1, b := 0x1f, m := 6 }),
      (0x0488050000000FE0, .vidx { v0 with fmt := 4, d := 0xa0, b := 0x1f, m := 6 }),
      (0x0502050014200000, .vexp2 { v0 with fmt := 1, d := 0xa0, a := 0xa1 }),
      (0x0512050014200000, .vlog2 { v0 with fmt := 1, d := 0xa0, a := 0xa1 }),
      (0x0522050014200000, .vrcp { v0 with fmt := 1, d := 0xa0, a := 0xa1 }),
      (0x0532050014200000, .vrsq { v0 with fmt := 1, d := 0xa0, a := 0xa1 }),
      (0x0600000014005090, .vchk { v0 with a := 0xa0, b := 0xa1, m := 1 })] : List (Word × Instr)).all
        (fun p => decide (decodeSlot 2 p.1 = .instr p.2)) = true := by decide

theorem test_decode_scratchpad_1 :
    ([(0x001018000000A410, .ld { l0 with opnd := 0x60, bank := 5, line := 0x410 }),
      (0x003018000000A410, .st { l0 with opnd := 0x60, bank := 5, line := 0x410 }),
      (0x00240886002FFFFF, .ldx { l0 with opnd := 0x1022, c := 6, bank := 0x17f, line := 0x1fff }),
      (0x00440886002FFFFF, .stx { l0 with opnd := 0x1022, c := 6, bank := 0x17f, line := 0x1fff }),
      (0x0050000C03C06020, .lds { l0 with c := 0xc, flags := 0xf, bank := 3, line := 0x20 }),
      (0x0060000C03C06020, .sts { l0 with c := 0xc, flags := 0xf, bank := 3, line := 0x20 }),
      (0x007003C000C0C008, .eld { l0 with opnd := 0xf, flags := 3, bank := 6, line := 8 }),
      (0x0080200000022082, .prom { l0 with opnd := 0x80, bank := 0x11, line := 0x82 }),
      (0x00901FC000022000, .demo { l0 with opnd := 0x7f, bank := 0x11 }),
      (0x00A00003000223FF, .tlk { l0 with c := 3, bank := 0x11, line := 0x3ff }),
      (0x00B01FC000422000, .tpin { l0 with opnd := 0x7f, flags := 1, bank := 0x11 }),
      (0x010828085FFFFFFE, .gld { l0 with opnd := 0x20a0, c := 8, oc := 5, flags := 0x3f, bank := 0x1ff, line := 0x1ffe }),
      (0x011828085FFFFFFE, .gst { l0 with opnd := 0x20a0, c := 8, oc := 5, flags := 0x3f, bank := 0x1ff, line := 0x1ffe }),
      (0x0120084851234567, .glds { l0 with opnd := 0x21, c := 8, oc := 5, flags := 4, bank := 0x11a, line := 0x567 }),
      (0x0130084851234567, .gsts { l0 with opnd := 0x21, c := 8, oc := 5, flags := 4, bank := 0x11a, line := 0x567 }),
      (0x018000C0006FE3FF, .dset { l0 with opnd := 3, flags := 1, bank := 0x17f, line := 0x3ff })] : List (Word × Instr)).all
        (fun p => decide (decodeSlot 4 p.1 = .instr p.2)) = true := by decide

theorem test_decode_scratchpad_2 :
    ([(0x019000C700800000, .dsetf { l0 with opnd := 3, c := 7, flags := 2 }),
      (0x01A003FF01C00000, .dget { l0 with opnd := 0xf, c := 0x3f, flags := 7 }),
      (0x01CC088001400000, .pcfg { l0 with opnd := 0x3022, flags := 5 }),
      (0x01DC054000000000, .pstop { l0 with opnd := 0x3015 }),
      (0x01EC040900000000, .pstat { l0 with opnd := 0x3010, c := 9 }),
      (0x0200000900050000, .bown { l0 with c := 9, bank := 0x28 }),
      (0x02100009002FE000, .bqry { l0 with c := 9, bank := 0x17f })] : List (Word × Instr)).all
        (fun p => decide (decodeSlot 4 p.1 = .instr p.2)) = true := by decide

theorem test_decode_engine_1 :
    ([(0x0011040010002004, .mxWld { e0 with ko := 2, ka := 1, da := 1, f := 1, mode := 4 }),
      (0x0021040010002000, .mxWldg { e0 with ko := 2, ka := 1, da := 1, f := 1 }),
      (0x0032000067002012, .mxWfold { e0 with ko := 4, da := 6, db := 7, f := 1, mode := 0x12 }),
      (0x0041844020500000, .mxRun { e0 with ko := 3, ka := 1, kb := 2, da := 2, t := 0x28 }),
      (0x0051845F20B16020, .mxRung { e0 with ko := 3, ka := 1, kb := 2, kc := 0x1f, da := 2, t := 0x58, f := 0xb, mode := 0x20 }),
      (0x0061800000100023, .mxAccz { e0 with ko := 3, t := 8, mode := 0x23 }),
      (0x0071800070B00003, .mxAccb { e0 with ko := 3, da := 7, t := 0x58, mode := 3 }),
      (0x01008000F5BEE06E, .ppeCfg { e0 with ko := 1, da := 0xf, db := 5, t := 0x5f, f := 7, mode := 0x6e }),
      (0x01110400703F0043, .ppeDrain { e0 with ko := 2, ka := 1, da := 7, t := 0x1f, f := 8, mode := 0x43 }),
      (0x01218000000C2000, .ppeTld { e0 with ko := 3, t := 6, f := 1 }),
      (0x0131800000BE0000, .ppeTst { e0 with ko := 3, t := 0x5f }),
      (0x01420000000E0001, .ppeEcnt { e0 with ko := 4, t := 7, mode := 1 }),
      (0x0203080045000282, .cpyGs { e0 with ko := 6, ka := 2, da := 4, db := 5, oc := 1, scope := 1, mode := 2 }),
      (0x0213080045000283, .cpySg { e0 with ko := 6, ka := 2, da := 4, db := 5, oc := 1, scope := 1, mode := 3 }),
      (0x0223080045000283, .cpySs { e0 with ko := 6, ka := 2, da := 4, db := 5, oc := 1, scope := 1, mode := 3 }),
      (0x0233080045000283, .cpyGg { e0 with ko := 6, ka := 2, da := 4, db := 5, oc := 1, scope := 1, mode := 3 })] : List (Word × Instr)).all
        (fun p => decide (decodeSlot 6 p.1 = .instr p.2)) = true := by decide

theorem test_decode_engine_2 :
    ([(0x0293080045000283, .cpyCrc { e0 with ko := 6, ka := 2, da := 4, db := 5, oc := 1, scope := 1, mode := 3 }),
      (0x024308001200028E, .cpyXgrf { e0 with ko := 6, ka := 2, da := 1, db := 2, oc := 1, scope := 1, mode := 0xe }),
      (0x0253080012001F7E, .cpyXdn { e0 with ko := 6, ka := 2, da := 1, db := 2, oc := 0xf, scope := 2, mode := 0x7e }),
      (0x0260800012000001, .cpyFpr { e0 with ko := 1, da := 1, db := 2, mode := 1 }),
      (0x0270800012000101, .cpyCmp { e0 with ko := 1, da := 1, db := 2, scope := 2, mode := 1 }),
      (0x0280800010BE06FF, .cpyFill { e0 with ko := 1, da := 1, t := 0x5f, oc := 3, scope := 1, mode := 0x7f }),
      (0x03038000230004AC, .scaUpd { e0 with ko := 7, da := 2, db := 3, oc := 2, scope := 1, mode := 0x2c }),
      (0x03138000230024A1, .scaFupd { e0 with ko := 7, da := 2, db := 3, f := 1, oc := 2, scope := 1, mode := 0x21 }),
      (0x0380800000004001, .cfCfg { e0 with ko := 1, f := 2, mode := 1 }),
      (0x039F80000000E000, .cfRst { e0 with ko := 0x1f, f := 7 }),
      (0x03A4044300000000, .kjoin { e0 with ko := 8, ka := 1, kb := 2, kc := 3 }),
      (0x03B4800000060080, .ksig { e0 with ko := 9, t := 3, scope := 1 })] : List (Word × Instr)).all
        (fun p => decide (decodeSlot 6 p.1 = .instr p.2)) = true := by decide

/-- VABS and VNEG take RND, without effect (Table 6.1, R122). -/
theorem test_decode_vector_rnd :
    ([(0x00A9800602000016, .vabs { v0 with fmt := 4, d := 0x3000, a := 0x3010, m := 1, rnd := 1, sat := 1 }),
      (0x00B9800602000016, .vneg { v0 with fmt := 4, d := 0x3000, a := 0x3010, m := 1, rnd := 1, sat := 1 })] :
        List (Word × Instr)).all (fun p => decide (decodeSlot 2 p.1 = .instr p.2)) = true := by decide

/-! ## Witnesses: states and operands that meet the hypotheses of the obligations, clause by clause -/

/-- The machine after reset with context 0 of core 0, the one that issues, as given. -/
def user (k : Ctx) : State := State.reset.setCtx 0 0 k
def z : State := State.reset
/-- The machine after reset with the supervisor context of core 0 issuing. -/
def sup : State := { State.reset with cur := { Issue.none with ctx := 4 } }

theorem witness_SlotsAndGuards :
    ((encode (.add { s0 with g := 1 })).isSome = true ∧ z.me.pred (usesOf (.add { s0 with g := 1 })).guard.toNat = false) ∧
      encode (.add { s0 with g := 15 }) = some (.s 0xF010000000000000) ∧
      encode (.vchk { v0 with g := 15 }) = some (.v 0xF600000000000000) ∧
      encode (.ld { l0 with g := 15 }) = some (.l 0xF010000000000000) ∧
      encode (.ksig { e0 with g := 15 }) = some (.e 0xF3B0000000000000) := by decide

theorem witness_ScalarArithmetic : GuardTrue z s0.g ∧ 64 ≤ ({ s0 with imm := 64 } : SSlot).imm.toNat ∧
    2 ^ 30 ≤ ({ s0 with imm := 0x40000000 } : SSlot).imm.toNat :=
  ⟨rfl, by decide, by decide⟩

theorem witness_ScalarPairs : GuardTrue z s0.g ∧ ({ s0 with d := 63 } : SSlot).d.toNat % 2 = 1 ∧
    ({ s0 with a := 63 } : SSlot).a.toNat % 2 = 1 ∧ ({ s0 with b := 1 } : SSlot).b.toNat % 2 = 1 := ⟨rfl, by decide⟩

/-- A loop of two stages, active. -/
def looping : Ctx := { Ctx.blank with loop := { Loop.none with active := true, stages := 2 } }

theorem witness_ComparesAndPredicates :
    GuardTrue z s0.g ∧ s0.d.toNat = 0 ∧ 8 ≤ ({ s0 with d := 8 } : SSlot).d.toNat ∧
      ((user looping).ctx 0 0).loop.active = true ∧ 2 ≤ ((user looping).ctx 0 0).loop.stages :=
  ⟨rfl, by decide, by decide, by decide, by decide⟩

theorem witness_BranchesAndLoops :
    (GuardTrue z s0.g ∧ z.me.redirect = none ∧ z.me.loop.active = false) ∧
      (GuardTrue (user { Ctx.blank with redirect := some (0, 1) }) s0.g ∧
        (user { Ctx.blank with redirect := some (0, 1) }).me.redirect.isSome = true) ∧
      (GuardTrue (user looping) s0.g ∧ (user looping).me.redirect = none ∧ (user looping).me.loop.active = true) :=
  ⟨⟨rfl, rfl, rfl⟩, ⟨rfl, rfl⟩, rfl, rfl, rfl⟩

/-- A context whose token k1 is pending, k2 has completed with status 0x06 and k3 with another one. -/
def tokened : Ctx :=
  { Ctx.blank with tok := [(1, { pend := true, status := 0, addr := 0, since := 0, cmd := 1 }),
      (2, { pend := false, status := 0x06, addr := 0x80, since := 0, cmd := 0 }),
      (3, { pend := false, status := 0x40, addr := 0, since := 0, cmd := 0 })] }

theorem witness_TokensAndFences :
    (GuardTrue (user tokened) s0.g ∧ (user tokened).me.redirect = none ∧ (user tokened).me.srq = []) ∧
      (∀ k ∈ [31].filter (fun k => decide (k ≠ 0)), ((user tokened).me.token k).pend = false ∧
        ((user tokened).me.token k).since ≤ (user tokened).cyc ∧ ((user tokened).me.token k).status = 0) ∧
      ((user tokened).me.token 1).pend = true ∧
      (((user tokened).me.token 2).pend = false ∧ ((user tokened).me.token 2).since ≤ (user tokened).cyc ∧
        ((user tokened).me.token 2).status = 0x06) ∧
      (((user tokened).me.token 3).pend = false ∧ ((user tokened).me.token 3).status ≠ 0) ∧
      ({ s0 with imm := 0x1FFFF } : SSlot).imm.setWidth 16 ≠ (0 : BitVec 16) ∧ s0.imm.setWidth 16 = (0 : BitVec 16) :=
  ⟨⟨rfl, rfl, rfl⟩, by decide, by decide, by decide, by decide, by decide, by decide⟩

/-- A context of launch 1, and a state in which bank 0 of its core is its launch's. -/
def launched : Ctx := { Ctx.blank with launch := 1 }
def owning : State := { State.reset with cyc := 1000 }.setCore 0
  { Core.blank with ctxs := [(0, launched)], banks := [(0, { Bank.pool with launch := 1 })] }

theorem witness_SyncInstructions :
    (GuardTrue owning s0.g ∧ owning.me.redirect = none ∧ owning.me.srq = [] ∧ WordReady owning (owning.me.readY 0)) ∧
      GenPassed owning (owning.me.readY 0) 0xFFFF ∧ ¬ GenPassed owning (owning.me.readY 0) 0 ∧
      GenPassed owning (owning.me.readY 0) 0x8001 ∧
      (GuardTrue (user launched) s0.g ∧ ((user launched).here.bank 0).allocatedTo (user launched).me 0 = false ∧
        (7 : Nat) < 8 ∧ ({ s0 with imm := 0x81 } : SSlot).imm.getLsbD 7 = true ∧ WordReady owning (owning.me.readY 0)) :=
  ⟨⟨rfl, rfl, rfl, by decide, by decide⟩, ⟨1, by decide⟩,
    by
      rintro ⟨k, h1, h2, h3⟩
      have h : owning.genSeen owning.cur.core (owning.me.readY 0) = 0 := by decide
      omega, ⟨0x7FFF, by decide⟩, rfl, by decide, by decide, by decide, by decide, by decide⟩

/-- The core whose supervisor issues, with user context 0 as given and SNAP and the other registers as at reset. -/
def supOf (k : Ctx) : State := { (State.reset.setCore 0 { Core.blank with ctxs := [(0, k)] }) with cur := { Issue.none with ctx := 4 } }
def aTrap : TrapRecord :=
  { ctx := 0, cause := .trap, status := 0, async := false, more := false, tpc := 0, faultMask := 0, doneMask := 0, tval := 0,
    taken := 0, written := true }
/-- A context whose trap is current, and one that is parked. -/
def currentCtx : Ctx := { Ctx.blank with status := .current }
def parkedCtx : Ctx := { Ctx.blank with status := .parked }
/-- An engine command of context 0. -/
def aCommand : Cmd :=
  { id := 1, ctx := 0, op := 4, f := e0, da := 0, db := 0, lines := [], scales := 0, ins := [], tiles := [], ports := [],
    at_ := 0, inSeg := false, covers := [] }

theorem witness_WorkAndSegments :
    (GuardTrue z s0.g ∧ z.me.redirect = none ∧ z.me.srq = []) ∧
      (z.me.replay < z.me.claims.length ∨ z.me.claims.length < 16) ∧
      ((user { Ctx.blank with claims := List.replicate 16 0, replay := 16 }).me.claims.length ≤
          (user { Ctx.blank with claims := List.replicate 16 0, replay := 16 }).me.replay ∧
        16 ≤ (user { Ctx.blank with claims := List.replicate 16 0, replay := 16 }).me.claims.length) ∧
      (let s := State.reset.setCore 0 { Core.blank with runQ := [aCommand], ended := [({ aCommand with op := 0x11, inSeg := true }, 0)] }
       (∀ c ∈ z.here.tileCommands ++ (z.here.endedNow z.cyc).filter Cmd.isTileWork, ¬(c.ctx = z.cur.ctx ∧ c.inSeg = true)) ∧
        (∀ c ∈ s.here.tileCommands, ¬(c.ctx = s.cur.ctx ∧ c.inSeg = true)) ∧
        ∃ c ∈ s.here.tileCommands ++ (s.here.endedNow s.cyc).filter Cmd.isTileWork, c.ctx = s.cur.ctx ∧ c.inSeg = true) :=
  ⟨⟨rfl, rfl, rfl⟩, by decide, by decide, by decide +kernel⟩

theorem witness_ContextInstructions :
    (GuardTrue z s0.g ∧ z.me.redirect = none ∧ z.me.loop.active = false) ∧
      (let s : State := { State.reset.setCore 0 { Core.blank with trapinfo := 1 } with cur := { Issue.none with ctx := 4 } }
       GuardTrue s s0.g ∧ s.cur.ctx = 4 ∧ s.here.trapinfo ≠ 0) ∧
      (GuardTrue sup s0.g ∧ sup.cur.ctx = 4 ∧ sup.here.trapinfo = 0 ∧ sup.here.trapQ = [] ∧ sup.here.msgQ = []) ∧
      (let s : State := { State.reset.setCore 0 { Core.blank with msgQ := [5] } with cur := { Issue.none with ctx := 4 } }
       s.here.trapinfo = 0 ∧ s.here.msgQ ≠ []) :=
  ⟨⟨rfl, rfl, rfl⟩, ⟨rfl, rfl, by decide⟩, ⟨rfl, rfl, rfl, rfl, rfl⟩, rfl, by decide⟩

theorem witness_SpecialRegisters :
    (GuardTrue z s0.g ∧ ∃ e ∈ specials z, e.1 = 0x10 ∧ e.1 < 0x20) ∧
      (∃ e ∈ specials z, e.1 = 0x29 ∧ 0x20 ≤ e.1 ∧ z.cur.ctx ≠ 4) ∧ (∃ e ∈ specials sup, e.1 = 0x20 ∧ sup.cur.ctx = 4) ∧
      (GuardTrue sup s0.g ∧ snapRefused sup.here 0 = false ∧
        snapRefused sup.here (BitVec.ofNat 64 0xFFFFFFFFFFFFFFFF) = true) ∧
      ((0x3000001 : Nat) % 4 = 1 ∧ 6 ≤ (0x3000001 : Nat) / 2 ^ 23 % 8) ∧ (12 : Nat) < 0xD000000000000000 / 2 ^ 60 := by
  refine ⟨⟨rfl, (0x10, BitVec.ofNat 64 z.me.pwin), ?_, rfl, by decide⟩, ⟨(0x29, z.here.dthr), ?_, rfl, by decide, by decide⟩,
    ⟨(0x20, sup.here.trapinfo), ?_, rfl, rfl⟩, ⟨rfl, by decide, by decide⟩, by decide, by decide⟩ <;>
    simp only [specials, List.mem_cons, true_or, or_true]

/-- The record of context 0 with a PWQ length above 128. -/
def badRecord : State := (supOf currentCtx).writeFlat 0 ((supOf currentCtx).here.recordFlat 0 0) (129 <<< 80)
def aSaved : Saved :=
  { core := 0, ctx := 0, loaded := false, v := Ctx.blank, ports := [], buffers := [], tables := [], sets := [], fifos := [],
    banks := [], joins := [], reserved := [], marks := [] }
/-- A root whose first GB maps to itself, and in it a save area at 0x400000 that names saved context 1. -/
def areaState : State :=
  { sup with
    mem := [(0x101000, 0x0F), (0x200000, 0x01), (0x200001, 0x10), (0x200002, 0x10), (0x400000, 1), (0x400011, 1), (0x406000, 1)]
    parts := [(0, { Part.idle with troot := 0x200001 })], saved := [(1, aSaved)] }

theorem witness_PrivilegeAndSupervisor :
    (GuardTrue z s0.g ∧ z.cur.ctx ≠ 4 ∧ 0x20 ≤ ({ s0 with imm := 0x20 } : SSlot).imm.toNat % 2 ^ 8) ∧
      (GuardTrue (supOf currentCtx) s0.g ∧ (supOf currentCtx).cur.ctx = 4 ∧
        (supOf currentCtx).here.snap.toNat / 2 ^ 24 % 8 < 4 ∧ ((supOf currentCtx).here.ctx 0).status = .current ∧
        badRecordLine ((supOf currentCtx).recordAt 0 0) = none) ∧
      (4 ≤ ({ Core.blank with snap := 0x4000000 } : Core).snap.toNat / 2 ^ 24 % 8 ∧
        (sup.here.ctx 0).status ≠ .current ∧ (sup.here.ctx 0).status ≠ .parked) ∧
      ((badRecord.here.ctx 0).status = .current ∧ badRecordLine (badRecord.recordAt 0 0) = some 0) ∧
      (let flat := (supOf currentCtx).here.recordFlat 0 156
       (∀ l, l < 157 → (supOf currentCtx).readMark 0 ((supOf currentCtx).here.recordFlat 0 l) = .clean) ∧
        ((supOf currentCtx).setMark (spAddr 0 flat) (.uncorrectable 1)).readMark 0 flat = .uncorrectable 1) ∧
      (((supOf parkedCtx).here.ctx 0).status = .parked ∧ (sup.here.ctx 0).status = .free ∧
        (3 : Nat) / 2 ^ 4 % 2 ^ 8 = 0 ∧ (2 ^ 57 - 1 : Nat) / 2 ^ 57 = 0) ∧
      (∃ m n, areaState.areaHead 0 0x400000 = some m ∧ headerNamed m = some n ∧ areaState.savedIn m = some aSaved ∧
        areaFits areaState 0 n aSaved = true ∧
        areaFits { areaState with cores := [(0, { Core.blank with ctxs := [(1, { parkedCtx with tileCount := 96 })] })] } 0 n aSaved =
          false) ∧
      sup.areaHead 0 0x400000 = none := by
  refine ⟨⟨rfl, by decide, by decide⟩, ⟨rfl, rfl, by decide, by decide, by decide +kernel⟩, ⟨by decide, by decide, by decide⟩,
    ⟨by decide +kernel, by decide +kernel⟩, by decide +kernel, ⟨by decide, by decide, by decide, by decide⟩,
    ⟨[(0, 1), (17, 1), (24576, 1)], { tiles := 1, buffers := [], tables := [], sets := [], fifos := [], ports := [], banks := [] },
      ?_, ?_, ?_, ?_, ?_⟩, ?_⟩ <;> decide +kernel

theorem witness_Rounding :
    (∃ (rnd m : Nat) (e : Int), rnd < 4 ∧ m ≠ 0 ∧ rnd = 3 ∧ e = 0) ∧ (e4m3, (448 : ℚ)) ∈ formats ∧
      (((roundGrid 0 false 448 0 (e4m3.grid 448 0)).1 : ℚ) * 2 ^ (e4m3.grid 448 0) ≤ 448 ∧
        (448 : ℚ) < ((roundGrid 0 false 480 0 (e4m3.grid 480 0)).1 : ℚ) * 2 ^ (e4m3.grid 480 0)) := by
  refine ⟨⟨3, 1, 0, by decide, by decide, rfl, rfl⟩, ?_, ?_⟩
  · simp [formats]
  · have h1 : (roundGrid 0 false 448 0 (e4m3.grid 448 0)).1 = 14 := by decide +kernel
    have h2 : e4m3.grid 448 0 = 5 := by decide +kernel
    have h3 : (roundGrid 0 false 480 0 (e4m3.grid 480 0)).1 = 15 := by decide +kernel
    have h4 : e4m3.grid 480 0 = 5 := by decide +kernel
    rw [h1, h2, h3, h4]
    norm_num

/-! A float and an integer form of a V slot that the state after reset runs, for every format of Table 6.1. -/
theorem witness_VectorFloatArithmetic : GuardTrue z v0.g ∧ floatFormat 0 = some fp32 ∧ floatFormat 1 = some bf16 := ⟨rfl, rfl, rfl⟩
theorem witness_VectorIntegerArithmetic : GuardTrue z v0.g ∧ (6, 8) ∈ [(4, 32), (5, 16), (6, 8)] ∧ floatFormat 4 = none :=
  ⟨rfl, by decide, rfl⟩
theorem witness_VectorBitsAndMasks : GuardTrue z v0.g := rfl
theorem witness_VectorLaneMoves : GuardTrue z v0.g := rfl

/-- A narrowing into the last part, a widening, a stochastic rounding into the last part (R127, R129). -/
theorem witness_VectorConversionsAndBlocks :
    GuardTrue z v0.g ∧ ((0 : Nat) < 7 ∧ (2 : Nat) < 7 ∧ fmtWidth 2 < fmtWidth 0 ∧ 3 * fmtWidth 2 < fmtWidth 0) ∧
      fmtWidth 2 ≤ fmtWidth 0 ∧ floatFormat 2 = some e4m3 ∧ (fmtWidth 2 < 32 ∧ 3 * fmtWidth 2 < 32) :=
  ⟨rfl, by decide, by decide, rfl, by decide⟩

theorem witness_VectorReductions :
    GuardTrue z v0.g ∧ ({ v0 with fmt := 4 } : VSlot).fmt ≠ 0 ∧ v0.fmt = 0 ∧
      (List.range 32).filter (fun i => (z.me.readQ 1).getLsbD i) = [] ∧
      (List.range 32).filter (fun i => (z.me.readQ 0).getLsbD i) ≠ [] ∧ (fp32.decode 0x7FC00000).isNan = true ∧
      (fp32.decode 0).isNan = false := ⟨rfl, by decide, rfl, by decide, by decide, by decide, by decide⟩

theorem witness_VectorSpecialFunctions :
    GuardTrue z v0.g ∧ ({ v0 with fmt := 1 } : VSlot).fmt = 1 ∧ fp32.decode 0x7FC00000 = .nan ∧
      fp32.decode 0xFF800000 = .inf true ∧ fp32.decode 0x80000000 = .fin true 0 (-149) ∧
      fp32.decode 0xBF800000 = .fin true 8388608 (-23) ∧
      (fp32.decode 0x43000000 = .fin false 8388608 (-16) ∧ 128 ≤ ratOf false 8388608 (-16)) ∧
      fp32.decode 0xC3170000 = .fin true 9895936 (-16) ∧ ratOf true 9895936 (-16) < -150 := by
  refine ⟨rfl, rfl, by decide, by decide, by decide, by decide, ⟨by decide, ?_⟩, by decide, ?_⟩ <;> norm_num [ratOf]

/-- One port of core 0 as given, the cycle 1000, a context 0 with one tile, and tile 1 held by a command. -/
def ported (n : Nat) (p : Port) (b : Bank) : State :=
  { State.reset with cyc := 1000 }.setCore 0
    { Core.blank with
      ctxs := [(0, { Ctx.blank with tileCount := 2 })], ports := [(n, p)], banks := [(0, b)]
      tileBusy := [{ tile := 1, cmd := 1, ppe := false, clear := 0 }] }
def heldPort : Port := { Port.idle with holder := some 0 }
/-- A nest of one line in bank 0, and a bank that write port op3 owns. -/
def oneLine : Descr := BitVec.ofNat 512 (2 ^ 128)
def portBank : Bank := { Bank.pool with owner := 0x3300 }

theorem witness_VectorOperands :
    ((95 : Nat) < 96 ∧ (31 : Nat) < 32) ∧
      ((operandOf 0x1040).tile? = some 2 ∧ (ported 0 Port.idle Bank.pool).me.tileCount ≤ 2) ∧
      ((operandOf 0x203F).tile? = some 1 ∧ 1 < (ported 0 Port.idle Bank.pool).me.tileCount ∧
        (ported 0 Port.idle Bank.pool).here.tileHeld ((ported 0 Port.idle Bank.pool).me.tileBase + 1) 1000 = true) ∧
      (((ported 5 Port.idle Bank.pool).here.port 5).holder = none) ∧
      (((ported 5 heldPort Bank.pool).here.port 5).holder = some 0 ∧ (ported 5 heldPort Bank.pool).cur.ctx = 0 ∧
        AtHome ((ported 5 heldPort Bank.pool).here.port 5) 1000 ∧ ((ported 5 heldPort Bank.pool).here.port 5).fifo = [] ∧
        ((ported 5 heldPort Bank.pool).here.port 5).fault = none ∧ (ported 5 heldPort Bank.pool).here.bad (locPort 5) = false ∧
        ({ heldPort with fault := some (.bown, 3), coming := [(1001, { val := 7, flg := 0 })] } : Port).coming ≠ []) ∧
      (((ported 5 { heldPort with fifo := [{ val := 7, flg := 0 }] } Bank.pool).here.port 5).fifo = [{ val := 7, flg := 0 }] ∧
        ((ported 5 { heldPort with fault := some (.bown, 3) } Bank.pool).here.port 5).fault = some (.bown, 3)) ∧
      (((ported 9 heldPort Bank.pool).here.port 9).holder = some 0 ∧
        Descr.product ((ported 9 heldPort Bank.pool).here.port 9).cfg ≤ 0) ∧
      (let p := (ported 9 { heldPort with cfg := oneLine } portBank).here.port 9
       p.holder = some 0 ∧ AtHome p 1000 ∧ p.fault = none ∧ p.pos + p.reserved < Descr.product p.cfg ∧
         p.fifo.length + p.reserved < 16 ∧
         (ported 9 { heldPort with cfg := oneLine } portBank).here.portAccess 3 3 p.holder (Descr.flatAt p.cfg 0) = .ready ∧
         (ported 9 { heldPort with cfg := oneLine } Bank.pool).here.portAccess 3 3 p.holder (Descr.flatAt p.cfg 0) = .faults .bown) := by
  unfold AtHome
  decide +kernel

/-- Bank 0 owned by the L slots of context 0, in cycle 1000. -/
def lBank : Bank := { Bank.pool with owner := 0x1000 }
/-- Bank 0 with the slow row 0x410 promoted into slot 3. -/
def tagged : Bank := { lBank with tags := [(3, { valid := true, dirty := true, pin := false, srow := 128 })] }

theorem witness_Scratchpad :
    (GuardTrue (ported 0 Port.idle lBank) l0.g ∧ LineReady (ported 0 Port.idle lBank) 0x3FF ∧
        TileReady (ported 0 Port.idle lBank) 0 ∧ immLine { l0 with line := 0x3FF } = 0x3FF ∧
        regLine (ported 0 Port.idle lBank) { l0 with line := 0x3FF } = 0x3FF) ∧
      LineReady (ported 0 Port.idle lBank) 0x400 ∧
      (∀ cw, (ported 0 Port.idle lBank).readMark 0 0x3FF ≠ .uncorrectable cw) ∧
      0x300000 ≤ immLine { l0 with bank := 384 } ∧
      (regLine (user { Ctx.blank with c := [(1, BitVec.allOnes 64)] }) { l0 with c := 1 } < 0) ∧
      ((ported 0 Port.idle Bank.pool).here.owns 0 0 = false ∧ (tagged.shadowed (128 * 8) = true) ∧
        (1000 : Nat) < ({ lBank with busyUntil := 1001 } : Bank).busyUntil ∧ (z.here.refreshEnd 0 0 4).isSome = true) := by
  refine ⟨⟨rfl, ⟨by decide, ⟨by decide, by decide, by decide⟩, by decide⟩,
      ⟨0, by decide, by decide, by decide, by decide, by decide⟩, by decide, by decide⟩,
    ⟨by decide, ⟨by decide, by decide, by decide⟩, by decide⟩, ?_, by decide, by decide, by decide, ?_⟩
  · intro cw h
    have : (ported 0 Port.idle lBank).readMark 0 0x3FF = .clean := by decide
    rw [this] at h
    cases h
  · decide

/-- A nest of `n` lines at 0, in the scratchpad (with a FMT) and in memory. -/
def nest (n fmt : Nat) : Descr := BitVec.ofNat 512 (n * 2 ^ 128 + fmt * 2 ^ 188)
def globalNest (n : Nat) : Descr := BitVec.ofNat 512 (n * 2 ^ 128 + 2 ^ 191)

theorem witness_PromotionForms :
    (GuardTrue (ported 0 Port.idle tagged) l0.g ∧ immLine { l0 with line := 1023 } < 0x300000) ∧
      (tagged.findSlot 128 = some 3 ∧ tagged.findSlot 1023 = none ∧ (127 : Nat) < 128) ∧
      (BankReady (ported 0 Port.idle tagged) 128 80 ∧ BankReady (ported 0 Port.idle tagged) 128 4 ∧
        (ported 0 Port.idle tagged).here.refreshEnd 0 1000 1 = none ∧ (ported 0 Port.idle tagged).here.owns 0 0 = true) ∧
      (({ l0 with opnd := 127 } : LSlot).opnd.getLsbD 7 = false ∧ ({ l0 with opnd := 128 } : LSlot).opnd.getLsbD 7 = true) ∧
      ((128 : Nat) ≤ Ctx.blank.pwin ∧ autoVictim tagged 128 = none ∧ autoVictim tagged 127 = some 127 ∧
        ({ Ctx.blank with pwin := 0 } : Ctx).pwin ≤ 3 ∧ autoVictim tagged 0 = some 0) ∧
      (tagged.nv ≤ 127 ∧ max ({ tagged with nv := 127 } : Bank).nv 0 ≤ 127 ∧ autoVictim { tagged with nv := 127 } 0 = some 127 ∧
        autoVictim { tagged with nv := 127, tags := [(127, { TagEntry.blank with pin := true })] } 0 = some 0) := by
  refine ⟨⟨rfl, by decide⟩, by decide, ⟨⟨by decide, by decide, by decide⟩, ⟨by decide, by decide, by decide⟩, by decide, by decide⟩,
    by decide, by decide, by decide⟩

theorem witness_DescriptorsAndPorts :
    (GuardTrue (ported 0 Port.idle lBank) l0.g ∧ immLine { l0 with line := 1023 } < 0x300000 ∧
        BankReady (ported 0 Port.idle lBank) 1023 4) ∧
      ((ported 5 heldPort Bank.pool).here.port 5 = heldPort ∧ heldPort.holder = some 0 ∧ AtHome heldPort 1000) ∧
      ((ported 9 Port.idle Bank.pool).here.port 9 = Port.idle ∧ Port.idle.fifo = [] ∧
        Port.idle.performed ≤ 1000 ∧ ∀ x, x < 5 → ∀ e ∈ ((ported 9 Port.idle Bank.pool).here.ctx x).pwq, e.dest ≠ .push 3) ∧
      (Descr.glb (nest 1 7) = false ∧ Descr.exp (BitVec.ofNat 512 (2 ^ 187 + 2 ^ 186 + 7 * 2 ^ 188)) = true ∧
        Descr.fmt (BitVec.ofNat 512 (2 ^ 187 + 2 ^ 186 + 7 * 2 ^ 188)) = 7 ∧
        Descr.scl (BitVec.ofNat 512 (2 ^ 187 + 2 ^ 186 + 7 * 2 ^ 188)) = true ∧ Descr.kend (nest 1 7) = 0) ∧
      (((ported 0 { Port.idle with holder := some 3 } Bank.pool).here.port 0).holder = some 3 ∧
        (ported 0 { Port.idle with holder := some 3 } Bank.pool).cur.ctx ≠ 3) ∧
      (((ported 0 { Port.idle with holder := some 3 } Bank.pool).here.ctx 3).launch ≠ launched.launch) := by
  unfold AtHome
  refine ⟨⟨rfl, by decide, by decide, by decide, by decide⟩, ?_, ⟨?_, ?_, ?_, ?_⟩, ?_, ?_, ?_⟩ <;> decide +kernel

theorem witness_Ownership :
    (GuardTrue (ported 0 Port.idle lBank) l0.g ∧ immLine { l0 with bank := 383 } < 0x300000) ∧
      (lBank.owner = BitVec.ofNat 16 (0x1000 + 0x100 * 0) ∧ (0x7000 : Nat) / 4096 = 7) ∧
      (∃ h, ((ported 5 heldPort lBank).here.port 5).holder = some h ∧
        ((ported 5 heldPort lBank).here.ctx h).launch = (ported 5 heldPort lBank).me.launch) ∧
      (2 ≤ portBank.owner.toNat / 4096 ∧ ({ portBank with grantor := some 0 } : Bank).grantor = some 0) ∧
      (snapBank sup.here.snap ≤ 3 ∧ 3 < snapBank sup.here.snap + 4 ∧ ¬ 4 < snapBank sup.here.snap + 4) ∧
      (owning.here.bank 0).allocatedTo owning.me owning.cur.ctx = true ∧
      (z.here.bank 0).allocatedTo z.me z.cur.ctx = false := by
  refine ⟨⟨rfl, by decide⟩, by decide, ⟨0, by decide, by decide⟩, by decide, by decide, by decide, by decide⟩

/-- An access numbered 0. -/
def access (k : AccessKind) : Access :=
  { num := 0, oc := 0, kind := k, va := 0, pa := 0, progress := .started, discard := false, served := none }
/-- A pending result. -/
def aPending (d : Dest) : Pending := { dest := d, val := 1, mask := 1, rem := 1, flg := 0, mark := .clean, addr := 0 }
/-- The first GB of partition 0 in the TLB of cluster 0, with the permissions of its leaf; context 0 has a tile. -/
def mapped (leaf : Word) : State :=
  { (State.reset.setCore 0 { Core.blank with ctxs := [(0, { Ctx.blank with tileCount := 1 })] }) with
    parts := [(0, { Part.idle with troot := 1 })]
    clusters := [(0, { Cluster.blank with tlb := [{ part := 0, base := 0, size := 2 ^ 30, leaf := leaf }] })] }
/-- The address that a slot without offset gives for the value of its register, which is 0. -/
theorem witness_GlobalTransfers :
    (GuardTrue (mapped 0xF) l0.g ∧ apertureOf 0 = none ∧ (mapped 0xF).xlate 0 0 128 true false false = .hit 0 ∧
        (mapped 0xF).xlate 0 0 8 false true false = .hit 0 ∧ classedCount (mapped 0xF).me.out < 32 ∧
        TileReady (mapped 0xF) 0 ∧ pendingTile (mapped 0xF) 0 = false ∧ ∀ e ∈ (mapped 0xF).me.pwq, e.dest ≠ .creg 0) ∧
      (mapped 0x7).xlate 0 0 8 false true false = .fault ∧ (apertureOf (2 ^ 57 - 8)).isSome = true ∧
      ((mapped 0xF).xlate 0 (2 ^ 30) 8 false true false = .miss ∧ (mapped 0xF).me.walkFault ≠ some (2 ^ 30)) ∧
      ((mapped 0xF).xlate 0 (2 ^ 30) 128 true false false = .miss ∧ (mapped 0xB).xlate 0 0 128 true false false = .fault ∧
        (mapped 0x7).xlate 0 0 128 false true false = .fault) ∧
      (pendingTile ((mapped 0xF).modCtx 0 0 (fun x => { x with pwq := [aPending (.tile 0)] })) 0 = true ∧
        ([aPending (.creg 0)].any (fun e => decide (e.dest = .creg 0)) = true)) ∧
      ¬ classedCount (List.replicate 32 (access (.storeWord 0))) < 32 ∧
      ((operandOf 0x20).tile? = some 1 ∧ (ported 0 Port.idle Bank.pool).here.tileHeld 1 1000 = true ∧
        ({ Ctx.blank with busyLines := [(0x20, 0)] } : Ctx).lineHeld (operandOf 0x20) 1000 = true ∧
        ({ Ctx.blank with busyRegs := [(63, 0)] } : Ctx).regHeld 63 1000 = true) := by
  refine ⟨⟨rfl, by decide, by decide, by decide, by decide, ⟨0, by decide, by decide, by decide, by decide, by decide⟩, by decide, by decide⟩,
    by decide, by decide, by decide, by decide, by decide, by decide, by decide⟩

theorem witness_TransportAndTriggers :
    (GuardTrue (mapped 0xF) 0 ∧ TileReady (mapped 0xF) 0x1F ∧ (0x13F : Nat) < 0x140 ∧ (0x41F : Nat) < 0x1000) ∧
      TableReady z 3 ∧
      sup.cur.ctx = 4 ∧ ((user launched).here.table 3).reserved ≠ (user launched).me.launch ∧
      (∃ h, (({ Core.blank with tables := [(0, { CurveTable.idle with holder := some 1 })] } : Core).table 0).holder = some h ∧
        h ≠ 0) := by
  refine ⟨⟨rfl, ⟨0, by decide, by decide, by decide, by decide, by decide⟩, by decide, by decide⟩, ⟨by decide, rfl, .inl rfl, ?_⟩, by decide, by decide,
    ⟨1, by decide, by decide⟩⟩
  intro i h
  exact absurd h (Nat.not_lt_zero i)

/-- Context 0 with the tiles 0 to 9, the descriptors and the read port 5 that engine commands use, buffer 0 as given. -/
def engines (b : Buffer) : State :=
  State.reset.setCore 0
    { Core.blank with
      ctxs := [(0, { Ctx.blank with tileCount := 10, d := [(1, nest 256 2), (2, nest 8 0), (3, nest 64 1)] })]
      buffers := [(0, b)], ports := [(5, heldPort)] }
def buffered (sh : Shape) : State := engines { Buffer.idle with holder := some 0, state := .valid, shape := sh }

theorem witness_MatrixCommands :
    (GuardTrue (engines Buffer.idle) e0.g ∧ KoFree (engines Buffer.idle) { e0 with ko := 31 }) ∧
      ((((engines Buffer.idle).here.buffer 0).holder = none ∧
          ((engines Buffer.idle).here.buffer 0).reserved = (engines Buffer.idle).me.launch) ∧
        (engines Buffer.idle).here.loadQ.length < 4 ∧ Descr.glb ((engines Buffer.idle).me.readD 1) = false ∧
        Descr.exp ((engines Buffer.idle).me.readD 1) = false ∧
        Descr.product ((engines Buffer.idle).me.readD 1) = denseLines { e0 with mode := 1 } ∧
        Descr.product ((engines Buffer.idle).me.readD 3) = denseLines { e0 with mode := 2 }) ∧
      (Descr.product (nest 4 0) = denseDepth e0 / 32 ∧ Descr.product (nest 16 0) = denseDepth e0 / 8) ∧
      (GroupReady (engines Buffer.idle) false 2 8 ∧ (engines Buffer.idle).here.runQ.length < 8 ∧
        Descr.product ((engines Buffer.idle).me.readD 2) = 8) ∧
      (((buffered (.fp8 true)).here.buffer 0).holder = some 0 ∧ ((buffered (.fp8 true)).here.buffer 0).state ≠ .empty ∧
        Descr.fmt ((buffered (.fp8 true)).me.readD 1) = 2 ∧ GroupReady (buffered (.fp8 true)) false 0 8) ∧
      (((buffered .bf16).here.buffer 0).shape = .bf16 ∧ Descr.fmt ((buffered .bf16).me.readD 3) = 1) ∧
      (((buffered .fp32).here.buffer 0).shape = .fp32 ∧ Descr.fmt ((buffered .fp32).me.readD 2) = 0 ∧
        GroupReady (buffered .fp32) false 8 2) ∧
      (((buffered .grouped).here.buffer 0).shape = .grouped ∧ Descr.product ((buffered .grouped).me.readD 1) % 4 = 0) ∧
      (((buffered .grouped).here.port 5).holder = some 0 ∧ AtHome ((buffered .grouped).here.port 5) 0) ∧
      sup.cur.ctx = 4 ∧ z.cur.ctx ≠ 4 ∧
      ((user launched).here.buffer 1).reserved ≠ (user launched).me.launch ∧
      ((engines { Buffer.idle with holder := some 1 }).here.buffer 0).holder = some 1 := by
  refine ⟨⟨rfl, .inr ⟨by decide, by decide⟩⟩, ?_, ?_, ⟨⟨?_, ?_, ?_, ?_⟩, ?_, ?_⟩, ⟨?_, ?_, ?_, ⟨?_, ?_, ?_, ?_⟩⟩, ?_, ⟨?_, ?_, ⟨?_, ?_, ?_, ?_⟩⟩, ?_, ⟨?_, rfl, Nat.zero_le 0⟩, ?_, ?_, ?_, ?_⟩ <;>
    first | decide +kernel | (intro e h; exact nomatch (show e ∈ ([] : List Pending) from h))

theorem witness_PpeCommands :
    (GuardTrue (engines Buffer.idle) e0.g ∧ KoFree (engines Buffer.idle) e0 ∧ (engines Buffer.idle).here.ppeQ.length < 8) ∧
      (((engines Buffer.idle).here.tanSet 1).reserved = (engines Buffer.idle).me.launch ∧
        ((engines Buffer.idle).here.tanSet 1).holder = none ∧ GroupReady (engines Buffer.idle) true 9 1) ∧
      (Descr.glb ((engines Buffer.idle).me.readD 2) = false ∧ Descr.product ((engines Buffer.idle).me.readD 2) ≠ 0) ∧
      (({ Core.blank with sets := [(0, { TanSet.idle with holder := some 0 })] } : Core).tanSet 0).holder = some 0 ∧
      ((governing (engines Buffer.idle)).ofmt < 4 ∧ (governing (engines Buffer.idle)).tmode = 0 ∧
        Descr.product ((engines Buffer.idle).me.readD 2) = (0 + 1) * 8) ∧
      (((engines Buffer.idle).here.port 5).holder = some 0 ∧ ((engines Buffer.idle).here.port 5).lent = none) ∧
      (0 + 8 ≤ (9 : Nat) ∧ GroupReady (engines Buffer.idle) true 0 8) := by
  refine ⟨⟨rfl, .inl rfl, ?_⟩, ⟨?_, ?_, ⟨?_, ?_, ?_, ?_⟩⟩, ?_, ?_, ?_, ?_, ?_, ⟨?_, ?_, ?_, ?_⟩⟩ <;>
    first | decide +kernel | (intro e h; exact nomatch (show e ∈ ([] : List Pending) from h))

/-- Chain FIFO 7 of cluster 0, from core 0 to core 0. -/
def chained : State :=
  { engines Buffer.idle with clusters := [(0, { Cluster.blank with fifos := [(7, { Fifo.idle with cfg := some (0, 0, 0) })] })] }
theorem witness_PpeCommands_fifo : fifoRefused chained 7 false = false ∧ fifoRefused chained 7 true = false := by decide

/-- Context 0 with descriptors of 16 lines in the scratchpad, in memory and in the aperture, and one of a single line. -/
def copies : State :=
  State.reset.setCore 0
    { Core.blank with
      ctxs := [(0, { Ctx.blank with
        tileCount := 1
        d := [(1, nest 16 0), (2, globalNest 16), (3, nest 1 0), (4, globalNest 16 + BitVec.ofNat 512 ((2 ^ 20 - 1) * 2 ^ 37))] })]
      ports := [(6, heldPort)] }

theorem witness_CopyScatterChainCommands :
    (GuardTrue copies e0.g ∧ KoFree copies e0) ∧
      (Descr.glb (copies.me.readD 1) = false ∧ Descr.glb (copies.me.readD 2) = true ∧
        Descr.product (copies.me.readD 1) = 16 ∧ Descr.product (copies.me.readD 2) = 16 ∧
        Descr.product (copies.me.readD 3) = 1 ∧ Descr.product (copies.me.readD 3) = (16 + 15) / 16) ∧
      (Descr.glb (copies.me.readD 4) = true ∧ Descr.product (copies.me.readD 4) = 16 ∧
        (apertureOf (Descr.base (copies.me.readD 4))).isSome = true ∧
        (apertureOf (Descr.base (copies.me.readD 2))).isSome = false) ∧
      (({ e0 with mode := 2 } : ESlot).mode.getLsbD 1 = true ∧ e0.mode.getLsbD 1 = false ∧ GroupReady copies true 0 1 ∧
        GroupReady copies false 0 1 ∧ copies.here.rowHurt 0 31 = false) ∧
      (32 * Descr.product (copies.me.readD 1) = 32 * 16 ∧ (16 : Nat) ≠ 2 * 16) ∧
      ((copies.here.port 6).holder = some 0 ∧ (copies.here.port 6).lent = none) ∧
      (((copies.fifo 0 7).holder = none ∧ (copies.fifo 0 7).reserved = copies.me.launch) ∧ fifoNamed copies 7 = false ∧
        (copies.me.token 31).pend = false ∧ (copies.me.token 31).since ≤ copies.cyc) := by
  refine ⟨⟨rfl, .inl rfl⟩, ?_, ?_, ⟨?_, ?_, ⟨?_, ?_, ?_, ?_⟩, ⟨?_, ?_, ?_, ?_⟩, ?_⟩, ?_, ?_, ?_⟩ <;>
    first | decide +kernel | (intro e h; exact nomatch (show e ∈ ([] : List Pending) from h))

/-- A device that has booted, owned by host 3. -/
def owned : State :=
  { State.reset with
    boot := { State.reset.boot with stage := 6 }, owner := { State.reset.owner with host := some 3 } }

theorem witness_HostRequests :
    OwnedBy owned 3 ∧ ((1500 : Nat) ≤ 2800 ∧ (1499 : Nat) < 1500 ∧ (2800 : Nat) < 2801) ∧
      ((47 : Nat) < 48 ∧ (191 : Nat) < 192 ∧ (11 : Nat) < 12 ∧ (7 : Nat) < 8 ∧ (63 : Nat) < 64) ∧
      ((owned.core 191).msgQ.length < 4 ∧ 4 ≤ ((owned.setCore 191 { Core.blank with msgQ := [1, 2, 3, 4] }).core 191).msgQ.length) ∧
      ((∀ c x, 4 * 47 ≤ c → c < 4 * 47 + 4 → x < 4 → (owned.ctx c x).status = .free) ∧
        ((owned.setCtx 191 3 { Ctx.blank with status := .running }).ctx 191 3).status ≠ .free) ∧
      ((List.replicate 64 (0 : Byte)).length = 64 ∧ (owned.queue 63).vectors.length < 32 ∧
        32 ≤ ((owned.setQueue 63 { Queue.idle with vectors := List.replicate 32 [] }).queue 63).vectors.length) ∧
      (owned.owner.host ≠ some 4 ∧ owned.boot.stage = 6 ∧ z.boot.stage ≠ 6) :=
  ⟨⟨rfl, rfl⟩, by decide, by decide, by decide, ⟨fun _ _ _ _ _ => rfl, by decide⟩, by decide, by decide⟩

/-- Link 11 with a word as given, beside a working link 0; an outbound window to peer 7, which both reach. -/
def linked (word : Word) : State :=
  { State.reset with
    links := [(0, { Link.down with word := 0x801, reach := [7] }), (11, { Link.down with word := word, reach := [7] })]
    windows := [(1, { word0 := 0x700000019, base := 0, size := 4096, infl := 0 })] }
/-- A window 63 of the last 4096 bytes of HBM, OPEN inbound with every permission for owner tag 1 and key 2, and an OPEN
outbound window 1 of partition 0. -/
def windowed : State :=
  { owned with windows := [(1, { word0 := 0x19, base := 0, size := 4096, infl := 0 }),
      (2, { word0 := 2, base := 0, size := 4096, infl := 0 }), (63, { word0 := 0x201003D, base := 0x7FFFFFF000, size := 4096, infl := 0 })] }

theorem witness_PeersAndWindows :
    (LetsIn windowed 63 1 2 0x7FFFFFF000 4096 3 ∧ LetsIn windowed 63 1 2 0x7FFFFFFFFF 1 4 ∧
        LetsIn windowed 63 1 2 0x7FFFFFFFF8 8 5) ∧
      (∀ w n perm, ¬ LetsIn z w 1 2 0 n perm) ∧ ((linked 0x801).linkTo 7 = some 0 ∧ ((linked 0x801).link 0).seqs.get 0 1 < 2 ^ 48) ∧
      (OwnedBy windowed 3 ∧ (windowed.window 0).word0.toNat % 4 = 0 ∧ (0xFFFF00000201F8FD : Word).toNat % 4 = 1 ∧
        (4096 : Word).toNat % 4096 = 0 ∧ (2 : Word).toNat % 4 ≠ 1 ∧ (1 : Word).toNat % 4096 ≠ 0) ∧
      ((windowed.window 63).word0.toNat % 4 = 1 ∧ (windowed.window 63).word0.getLsbD 2 = true) ∧
      ((windowed.window 1).word0.toNat % 4 = 1 ∧ (windowed.window 1).word0.getLsbD 2 = false ∧
        (∀ g ∈ windowed.writes, placeOf g.pa ≠ .window 1) ∧
        ∀ c, c < 192 → (windowed.core c).chans = [] ∧ (windowed.core c).scaNow = none ∧ ∀ x, x < 5 → (windowed.ctx c x).out = []) ∧
      ((windowed.window 2).word0.toNat % 4 = 2 ∧ (windowed.window 2).infl = 0) ∧
      ((2 ^ 39 - 8 : Nat) + 8 ≤ 2 ^ 39 ∧ (2 ^ 52 - 8 : Nat) + 8 ≤ 2 ^ 52) := by
  refine ⟨⟨?_, ?_, ?_⟩, ?_, ?_, ⟨⟨rfl, rfl⟩, ?_⟩, ?_, ⟨?_, ?_, ?_, fun _ _ => ⟨rfl, rfl, fun _ _ => rfl⟩⟩, ?_, ?_⟩
  · unfold LetsIn; decide
  · unfold LetsIn; decide
  · unfold LetsIn; decide
  · rintro w n perm ⟨-, h, -⟩
    exact absurd (show (0 : Nat) = 1 from h) (by decide)
  all_goals decide

/-- A device in a boot stage with an image. -/
def booting (n : Nat) (image : List Byte) : State :=
  { State.reset with boot := { State.reset.boot with stage := n, pages := 1, image := image } }
theorem witness_BootStages :
    (z.owner.host = none ∧ owned.owner.host = some 3) ∧
      ((booting 1 []).boot.stage = 1 ∧ (booting 2 []).boot.stage = 2 ∧ (booting 3 []).boot.stage = 3 ∧
        (booting 4 []).boot.stage = 4 ∧ (booting 5 []).boot.stage = 5) ∧
      (z.mem.wf = true ∧ 2 ^ 52 < (BitVec.ofNat 64 (2 ^ 52 - 4095)).toNat + 4096 * (booting 1 []).boot.pages ∧
        (booting 1 []).boot.imgpa.toNat + 4096 * (booting 1 []).boot.pages ≤ 2 ^ 52) ∧
      ((0xFFF : Word).getLsbD 0 = true ∧ z.boot.pages = 0 ∧ ({ (booting 0 []).boot with pages := 8191 } : Boot).pages ≠ 0 ∧ (0x18 : Nat) ∉ [0, 8, 0x10]) ∧
      (let up : LinkUp := { link := 11, peer := 7, reach := [7] }
       up ∈ [up] ∧ up.link < 12 ∧ (∀ w ∈ [up], w.link = up.link → w = up) ∧ ∀ w ∈ [up], w.link ≠ 0) := by
  decide

def aPacket : Packet := { otag := 1, key := 2, typ := 0, dst := 9, src := 0, payload := [] }
def aFlit : Flit := { otag := 1, key := 2, seq := 5, typ := 0, dst := 9, src := 7, payload := [], tag := 0 }
/-- Link 11 with a key for the flit, which opens it if its tag is right, with a SEQ at its end and 7 failures of the flit. -/
def keyed : Link :=
  { Link.down with word := 0x801, keys := [(0x102, 5)], seqs := [(1, 2 ^ 48)], failures := [(2 ^ 48 + 5, 7)] }
theorem witness_LinksAndPlatform_links :
    (Link.down.seqs.get 0 aPacket.otag.toNat < 2 ^ 48 ∧ 2 ^ 48 ≤ keyed.seqs.get 0 aPacket.otag.toNat) ∧
      (∀ b, Config.gcmOpen 5 (flitIv 5 11 1) (headerBytes 1 2 5 0 9 7) [] 0 = some b →
        flitOpens aFlit 11 keyed = some { otag := 1, key := 2, typ := 0, dst := 9, src := 7, payload := b.take maxPayload }) ∧
      (flitOpens aFlit 11 Link.down = none ∧ keyed.failures.get 0 (flitNumber aFlit) = 7 ∧
        Link.down.failures.get 0 (flitNumber aFlit) < 7) ∧
      ((linked 0x801).linkTo 7 = some 0 ∧ ((linked 0x801).link 0).seqs.get 0 1 < 2 ^ 48) ∧
      ((linked 0).link 11).word.toNat % 4 = 0 ∧
      (((linked 0x10801).link 11).word.toNat % 4 = 1 ∧ ((linked 0x10801).link 11).word.toNat / 2 ^ 8 % 16 = 8) ∧
      (((linked 0x20202).link 11).word.toNat % 4 = 2 ∧ ((linked 0x20202).link 11).word.toNat / 2 ^ 8 % 16 = 2) ∧
      (((linked 0x20102).link 11).word.toNat % 4 = 2 ∧ ((linked 0x20102).link 11).word.toNat / 2 ^ 8 % 16 = 1) ∧
      (((linked 0x20103).link 11).word.toNat % 4 = 3 ∧ ((linked 0x20103).link 11).word.toNat / 2 ^ 8 % 16 = 1) ∧
      (((linked 3).link 11).word.toNat % 4 = 3 ∧ ((linked 3).link 11).word.toNat / 2 ^ 8 % 16 = 0) := by
  refine ⟨by decide, fun b h => ?_, by decide, by decide, by decide, by decide, by decide, by decide, by decide, by decide⟩
  have h' : Config.gcmOpen (5#256) (flitIv 5 11 1) (headerBytes (1#8) (2#8) 5 0#8 9#16 7#16) [] 0#128 = some b := h
  simp [flitOpens, keyed, aFlit, FMap.at?, keyIndex, h']
theorem witness_LinksAndPlatform_routes (word : Word) : OtherRoutes (linked word) 11 ∧ (linked 3).routedTo 7 = true := by
  refine ⟨fun e h _ _ => ?_, by decide⟩
  obtain rfl : e = (1, { word0 := 0x700000019, base := 0, size := 4096, infl := 0 }) := List.mem_singleton.mp h
  exact ⟨0, by decide, by decide, by simp [linked, State.link, FMap.get], by simp [linked, State.link, FMap.get, Link.reaches, Window.peer, fieldOf]⟩

/-- Context 3 of core 191 with TMASK 1, in a cycle in which a sample is due. -/
def masked : State := { owned with cyc := 22000 }.setCtx 191 3 { Ctx.blank with status := .running, tmask := true }
theorem witness_LinksAndPlatform :
    ((∀ b, b < 384 → (z.core 191).physical b / 64 = 5 →
          (z.core 191).physical b = b ∧ ((z.core 191).bank b).launch = 0 ∧ b ∉ (z.core 191).workingSet) ∧
        (owning.core 0).physical 0 / 64 = 0 ∧ ((owning.core 0).bank 0).launch ≠ 0) ∧
      (let milli : List Int := [20000, 85001, 0, 0, 0, 0]
       milli.length = 6 ∧ 85001 ∈ milli ∧ (∀ u ∈ milli, u ≤ 85001) ∧ SampleDue (masked.core 191) masked.cyc ∧
        (masked.core 191).temp ≤ 85000 ∧ (masked.ctx 191 3).status ≠ .free ∧
        (masked.ctx 191 3).tmask = true ∧ (83000 : Int) ∈ [83000, 0, 0, 0, 0, 0] ∧ masked.powerCap < 2801) ∧
      (({ State.reset with cyc := 68750 }.setCore 191 { Core.blank with rfshNext := 2 }).cyc % 68750 = 0 ∧
        (Core.blank.rfsh ≠ ({ Core.blank with rfshNext := 2 } : Core).rfshNext)) ∧
      (let k : Core := { Core.blank with layers := [(0, true), (5, true)] }
       k.layers.get (decide (383 / 64 = 0)) (383 / 64) = true ∧ Core.blank.layers.get (decide (383 / 64 = 0)) (383 / 64) = false ∧
        k.layers.get (decide (k.physical 2 / 64 = 0)) (k.physical 2 / 64) = true ∧ k.refreshEnd 2 373 1 = some 374 ∧
        k.refreshEnd 2 374 1 = none ∧ (k.bank 383).busyUntil ≤ 374 ∧ k.physical 383 = 383 ∧
        ∀ d, d < 384 → k.physical d = 383 → d = 383) ∧
      (let full : State := { user { Ctx.blank with status := .running } with
         cyc := 374, repair := List.replicate 16 (.row 0 2 0 0) }
       full.mayMigrate 0 2 = true ∧ full.mayMigrate 0 3 = false ∧ ({ full with powerCap := 2799 } : State).mayMigrate 0 3 = true ∧
        ¬ (full.repair.filter (sharesSpares (.row 0 2 5 5))).length < entrySpares (.row 0 2 5 5) ∧
        (full.repair.filter (sharesSpares (.lane 0 2 5 5))).length < entrySpares (.lane 0 2 5 5) ∧ entryCore (.lane 0 2 5 5) = 0 ∧
        2 ∈ repairBanks (.lane 0 2 5 5) ∧ 2 ∈ repairBanks (.row 0 2 5 5) ∧ (full.core 0).refreshEnd 2 (374 - 1) 1 = some 374) ∧
      (∀ b ∈ repairBanks (.row 0 2 5 5), (z.core 0).refreshEnd b (373 - 1) 1 ≠ some 373) ∧
      ({ Core.blank with msgQ := [5] } : Core).msgQ ≠ [] ∧ Core.blank.trapQ = [] := by
  have hp : ∀ b, (z.core 191).physical b = b := fun _ => rfl
  refine ⟨⟨fun b h h5 => ⟨hp b, rfl, ?_⟩, by decide, by decide⟩,
    ⟨rfl, by decide, by decide, .inl rfl, by decide, by decide, rfl, by decide, by decide⟩, by decide, ?_, by decide +kernel, by decide, by decide, rfl⟩
  · rw [hp] at h5
    have hw : (z.core 191).workingSet = [0, 0, 1, 2, 3] := by decide
    rw [hw]
    simp only [List.mem_cons, List.not_mem_nil, or_false]
    omega
  · exact ⟨by decide, by decide, by decide, by decide, by decide, by decide, rfl, fun d _ h => h⟩

/-- The machine in a late cycle, with a context that has waited since cycle 0, and with an access on its way. -/
def late (k : Core) : State := { State.reset with cyc := 1048576 }.setCore 191 k
def waiting : Ctx := { Ctx.blank with waitOn := some (.rdv 5, 0) }
def running (f : ESlot) (op : Nat) : Running :=
  { cmd := { aCommand with op := op, f := f }, linesA := [], low := 0, linesB := [], token := none, stop := none, steps := 0,
    nextStep := 0, flg := 0, residue := false, waitSince := 0, ending := false }
def draining : Draining :=
  { cmd := aCommand, todo := [], stop := none, flg := 0, escapes := 0, damaged := [], nextLine := 0, waitSince := 0,
    ending := false }
def aLaunch : Launch :=
  { lidx := 1, part := 0, prio := 0, recva := 0, signal := 0, wcnt := 1, claims := 0, members := [], recording := false,
    replay := false, logva := 0, logpages := 0, logpos := 0, lost := false, queue := 0, rcode := 0 }
def claiming : Ctx := { launched with claimWait := some { dest := 5, flip := 0 }, status := .running }
def posted : State := (user { Ctx.blank with out := [access (.post (spAddr 0 0 + 16 * (2 ^ 25 - 1)) 7)] })
def aReplay : Launch := { aLaunch with replay := true, logva := 0x500000, logpages := 1 }
/-- A launch that replays a log at 0x500000, whose first record is a claim of index 9 of virtual core 0, context 0. -/
def replaying (mem : Memory) : State :=
  { areaState with
    mem := areaState.mem ++ mem, cores := [(0, { Core.blank with ctxs := [(0, claiming)] })]
    launches := [aReplay] }
/-- A context with an access in its outbound queue and entries of a release. -/
def releasing (n : Nat) : Ctx :=
  { Ctx.blank with
    out := List.replicate n (access (.storeWord 0))
    releasing := [{ oc := 1, kind := .storeLine 7, va := 0, pa := 0, num := 8 }, { oc := 0, kind := .storeWord 7, va := 0, pa := 0, num := 9 },
      { oc := 0, kind := .post (spAddr 0 0) 7, va := 0, pa := spAddr 0 0, num := 10 }] }

theorem witness_WaitsEndAndReleases :
    ((late { Core.blank with ctxs := [(4, waiting)] }).ctx 191 4).waitOn = some (.rdv 5, 0) ∧
      0 + 4 * 1048576 ≤ (late Core.blank).watchAt 191 (late Core.blank).cyc ∧
      ((z.setCore 191 { Core.blank with ctxs := [(4, waiting)] }).watchAt 191 0 < 0 + 4 * 1048576) ∧
      (∃ r, ((late { Core.blank with runNow := some (running { e0 with mode := 0x20 } 4) }).core 191).runNow = some r ∧
        isRun r.cmd = true ∧ r.ending = false ∧ eSrc r.cmd.f ≠ 0 ∧ r.waitSince = 0) ∧
      (∃ d, ((late { Core.blank with drainNow := some draining }).core 191).drainNow = some d ∧ d.ending = false ∧
        d.waitSince = 0) ∧
      (({ user claiming with launches := [aLaunch] } : State).launchOf ((user claiming).ctx 0 0).launch = some aLaunch ∧
        ((user claiming).ctx 0 0).claimWait = some { dest := 5, flip := 0 } ∧ ((user claiming).ctx 0 0).status = .running ∧
        aLaunch.replay = false ∧ aLaunch.recording = false ∧ aLaunch.claims < aLaunch.wcnt) := by
  exact ⟨by decide, by decide, by decide, ⟨_, rfl, by decide, by decide, by decide, rfl⟩, ⟨_, rfl, rfl, rfl⟩, by decide⟩
theorem witness_WaitsEndAndReleases_replay :
    (let s := replaying [(0x500004, 9), (0x50000F, 0x80)]
     s.launchOf (s.ctx 0 0).launch = some aReplay ∧ (s.ctx 0 0).claimWait = some { dest := 5, flip := 0 } ∧
      (s.ctx 0 0).status = .running ∧ aReplay.replay = true ∧ s.loggedClaim aReplay (s.ctx 0 0).vcore 0 = some (9, 1)) ∧
      (let s := replaying []
       s.launchOf (s.ctx 0 0).launch = some aReplay ∧ s.loggedClaim aReplay (s.ctx 0 0).vcore 0 = none) := by
  decide +kernel
theorem witness_WaitsEndAndReleases_releases :
    ((posted.ctx 0 0).out = [access (.post (spAddr 0 0 + 16 * (2 ^ 25 - 1)) 7)] ∧
        (posted.core 0).refreshEnd ((2 ^ 25 - 1) / 65536) posted.cyc 1 = none ∧ posted.wordLaunch 0 (2 ^ 25 - 1) = none) ∧
      ((posted.core 0).refreshEnd 1 179 1).isSome = true ∧
      ((∀ h ∈ (releasing 31).releasing, placeOf h.pa = .hbm ∨ placeOf h.pa = .scratch 0) ∧
        (∀ a ∈ (releasing 31).out, placeOf a.pa = .hbm) ∧ classedCount (releasing 31).out = 31 ∧ classedCount (releasing 32).out = 32) := by
  decide +kernel

def aCheckpoint : Checkpoint :=
  { pc := 8191, pwq := [], loop := Loop.none, preds := 0xFFFF, redirect := none
    ports := [{ port := 5, pos := 3, moved := 3, done := false, fault := none, faultAt := 0 }], d := [], tok := [], y := [],
    sg := [], yptr := 0, tan := Ctx.blank.tan, ppe := Ctx.blank.ppe, escn := 0, counts := [] }
/-- A context at the end of its rewind, which holds read port 5. -/
def rewinding : State :=
  State.reset.setCore 191
    { Core.blank with
      ctxs := [(4, { Ctx.blank with rewind := some { detected := 0, settled := some 8, fresh := true }, ckpt := some aCheckpoint })]
      ports := [(5, { Port.idle with holder := some 4 })] }
theorem witness_RewindRestores :
    (rewinding.ctx 191 4).ckpt = some aCheckpoint ∧
      (rewinding.ctx 191 4).rewind = some { detected := 0, settled := some 8, fresh := true } ∧
      (rewinding.port 191 5).holder = some 4 ∧ (aCheckpoint.ports.find? (fun e => decide (e.port = 5))).isSome = true :=
  ⟨rfl, rfl, rfl, rfl⟩

def aWrite (l : Option Scope) : GWrite :=
  { id := 1, core := 0, ctx := 0, acc := 0, unit := 0, pa := 0, bytes := [1], level := l, begun := none }
def aWalk : Walk := { part := 0, va := 0, root := 0x200000, read := true, write := false, core := 0, ctx := 0, stale := false }
def walking (w : Walk) : State :=
  { (State.reset.setCtx 0 0 { Ctx.blank with walk := some 3 }) with
    mem := areaState.mem, parts := areaState.parts, clusters := [(0, { Cluster.blank with walks := [(3, w)] })] }
/-- Context 0 with one load on its way, and a write of its core at the switch. -/
def loading (k : AccessKind) (ws : List GWrite) : State :=
  { user { Ctx.blank with out := [access k], status := .running } with writes := ws }
theorem witness_GlobalSteps :
    (((loading (.loadReg 63) []).ctx 0 0).out = [access (.loadReg 63)] ∧ ((loading (.loadReg 63) []).ctx 0 0).loop.active = false ∧
        ((loading (.loadReg 63) []).ctx 0 0).status = .running ∧ (loading (.loadReg 63) []).flitsStopped 0 = false ∧
        (loading (.loadReg 63) []).revoked 0 = false ∧
        (loading (.loadReg 63) []).switchWrites 0 0 8 = [] ∧ loadMark (loading (.loadReg 63) []) 0 0 8 = .clean) ∧
      (let part := loading (.loadReg 63) [aWrite (some .cluster)]
       let whole := loading (.loadReg 63) [{ aWrite (some .cluster) with bytes := List.replicate 8 1 }]
       part.mixedAt 0 0 8 = true ∧ whole.switchWrites 0 0 8 ≠ [] ∧ whole.mixedAt 0 0 8 = false) ∧
      (loading (.loadReg 63) []).revoked winBase = true ∧
      (((loading (.loadTile 0x3F) []).ctx 0 0).out = [access (.loadTile 0x3F)] ∧ operandOf 0x3F = .row 1 31 ∧
        (loading (.loadTile 0x3F) []).switchWrites 0 0 128 = [] ∧ loadMark (loading (.loadTile 0x3F) []) 0 0 128 = .clean) ∧
      ((loading (.loadReg 1) [aWrite none]).writes = [aWrite none] ∧ placeOf (aWrite none).pa = .hbm ∧
        (aWrite (some .cluster)).level = some .cluster) := by
  decide +kernel
theorem witness_GlobalSteps_walk (w : Walk) (h : w = aWalk ∨ w = { aWalk with stale := true } ∨ w = { aWalk with write := true }) :
    ((walking w).cluster 0).walks.at? 3 = some w ∧ (walking w).rootEnabled 0 = true ∧ ((walking w).ctx 0 0).walk = some 3 ∧
      walkTables (walking w).mem 4 w.root w.va = some (0, 2 ^ 30, 0xF) := by
  have hw : w.root = 0x200000 ∧ w.va = 0 := by rcases h with rfl | rfl | rfl <;> decide
  rw [hw.1, hw.2]
  exact ⟨rfl, show areaState.rootEnabled 0 = true by decide, rfl, show walkTables areaState.mem 4 0x200000 0 = some (0, 2 ^ 30, 0xF) by decide⟩
theorem witness_SupervisorFaults :
    ((State.reset.setCtx 191 4 { Ctx.blank with status := .trapped { aTrap with ctx := 4 } }).ctx 191 4).status =
      .trapped { aTrap with ctx := 4 } := by decide

/-- Core 191 as given, in cycle 1000. -/
def later (k : Core) : State := { State.reset with cyc := 1000 }.setCore 191 k
/-- Bank 0 owned by a streaming agent of a KIND. -/
def ownedBank (kind : Nat) : Bank := { Bank.pool with owner := BitVec.ofNat 16 (kind * 4096) }

theorem witness_TrapsAreTaken :
    (z.ctx 191 3).unanswered = false ∧
      ((State.reset.setCtx 191 3 { Ctx.blank with status := .trapped { aTrap with ctx := 3 } }).ctx 191 3).status =
        .trapped { aTrap with ctx := 3 } ∧
      ∀ y, y < 4 → y ≠ 3 → ∀ q,
        ((State.reset.setCtx 191 3 { Ctx.blank with status := .trapped { aTrap with ctx := 3 } }).ctx 191 y).status ≠ .trapped q := by
  refine ⟨by decide, by decide +kernel, fun y h h3 q => ?_⟩
  have hy : ((State.reset.setCtx 191 3 { Ctx.blank with status := .trapped { aTrap with ctx := 3 } }).ctx 191 y).status = .free := by
    have : y = 0 ∨ y = 1 ∨ y = 2 := by omega
    rcases this with rfl | rfl | rfl <;> rfl
  rw [hy]
  exact fun h => nomatch h

theorem witness_TrapHandling :
    ((later { Core.blank with trapQ := [{ aTrap with ctx := 3, tpc := 8191 }] }).core 191).trapQ =
        [{ aTrap with ctx := 3, tpc := 8191 }] ∧
      (((later { Core.blank with msgQ := [5] }).core 191).trapQ = [] ∧
        ((later { Core.blank with msgQ := [5] }).core 191).msgQ = [5]) ∧
      (((later { Core.blank with ctxs := [(3, currentCtx)] }).ctx 191 3).status = .current ∧
        ∀ y, y < 3 → ((later { Core.blank with ctxs := [(3, currentCtx)] }).ctx 191 y).status ≠ .current) ∧
      (((later Core.blank).writeFlat 191 ((later Core.blank).core 191 |>.recordFlat 3 0) (2 ^ 50)).recordAt 191 3 0).getLsbD 50 = true ∧
      ((later Core.blank).recordAt 191 3 0).getLsbD 50 = false ∧
      (((later { Core.blank with ctxs := [(4, { Ctx.blank with status := .restoring })] }).ctx 191 4).status = .restoring ∧
        ((later { Core.blank with ctxs := [(4, { Ctx.blank with status := .restoring })] }).ctx 191 4).rewind = none) := by
  decide +kernel

/-- A read port and a write port that run over a nest of one line of bank 0. -/
def reading (owner : BitVec 16) : State :=
  later { Core.blank with
    ports := [(5, { heldPort with cfg := oneLine, running := true })]
    banks := [(0, { Bank.pool with owner := owner })] }
def writing (p : Port) (owner : BitVec 16) : State :=
  later { Core.blank with ports := [(9, p)], banks := [(0, { Bank.pool with owner := owner })] }
theorem witness_PortSteps_read :
    ((reading 0x2500).port 191 5).running = true ∧ ((reading 0x2500).port 191 5).lent = none ∧
      ((reading 0x2500).port 191 5).walked < Descr.product ((reading 0x2500).port 191 5).cfg ∧
      ((reading 0x2500).port 191 5).coming = [] ∧ ((reading 0x2500).port 191 5).fifo.length < 16 ∧
      Descr.exp ((reading 0x2500).port 191 5).cfg = false ∧
      ((reading 0x2500).core 191).portAccess 2 5 (some 0) (Descr.flatAt oneLine 0) = .ready ∧ LineFree (reading 0x2500) 191 0 ∧
      (reading 0x2500).readMark 191 0 = .clean ∧
      ((reading 0x1000).core 191).portAccess 2 5 (some 0) (Descr.flatAt oneLine 0) = .waits ∧
      ((reading 0).core 191).portAccess 2 5 (some 0) (Descr.flatAt oneLine 0) = .faults .bown ∧
      ((later { Core.blank with ports := [(5, { heldPort with coming := [(1000, { val := 7, flg := 0 })] })] }).port 191 5).coming =
        [(1000, { val := 7, flg := 0 })] := by
  unfold LineFree
  decide +kernel
theorem witness_PortSteps_write :
    (let p : Port := { heldPort with cfg := oneLine, fifo := [{ val := 7, flg := 0 }] }
     ((writing p 0x3300).port 191 9).fifo = [{ val := 7, flg := 0 }] ∧ p.lent = none ∧ p.fault = none ∧
      ((writing p 0x3300).core 191).portAccess 3 3 (some 0) (Descr.flatAt oneLine 0) = .ready ∧ LineFree (writing p 0x3300) 191 0 ∧
      ((writing p 0x1000).core 191).portAccess 3 3 (some 0) (Descr.flatAt oneLine 0) = .waits ∧
      ((writing p 0).core 191).portAccess 3 3 (some 0) (Descr.flatAt oneLine 0) = .faults .bown) ∧
      (let p := (writing { heldPort with cfg := oneLine, running := true, walked := 1 } 0x3300).port 191 9
       p.fifo = [] ∧ p.running = true ∧ p.done = false ∧ p.walked = Descr.product p.cfg ∧ p.performed ≤ 1000) := by
  unfold LineFree
  decide +kernel

theorem witness_MatrixStepValues :
    num32 0 = .fin false 0 (-149) ∧
      ({ Buffer.idle with goodShape := .fp8 true } : Buffer).goodShape = .fp8 true ∧
      ({ Buffer.idle with goodShape := .bf16 } : Buffer).goodShape = .bf16 ∧
      ({ Buffer.idle with goodShape := .fp32 } : Buffer).goodShape = .fp32 ∧
      ({ Buffer.idle with goodShape := .grouped } : Buffer).goodShape = .grouped ∧
      (List.replicate 64 Machine.Num.one).length = 2 ^ 6 ∧ ([Machine.Num.nan] : List Machine.Num).length = [15].length := by
  decide
theorem witness_MatrixStepValues_grouped :
    (∃ n m e, (Machine.Num.one = .fin n m e) ∧ -9 ≤ e ∧ ratOf n m e * 2 ^ (9 : Int) = ((512 : Int) : ℚ)) ∧
      (15 : Nat) ∈ [15] ∧ (0 : Nat) ∉ [15] := by
  refine ⟨⟨false, 1, 0, rfl, by decide, ?_⟩, by decide, by decide⟩
  norm_num [ratOf]

/-- A run of one step over a nest of one line, loads of a dense and of a grouped nest, and a core whose matrix engine owns
bank 0. -/
def aRun : Running := { running e0 4 with cmd := { aCommand with da := oneLine, tiles := [0, 1] }, nextStep := 1000 }
def matrix (k : Core) : State := later { k with banks := [(0, ownedBank 4)] }
def aLoad (op : Nat) (d : Descr) : Running :=
  { running e0 1 with cmd := { aCommand with op := op, da := d, db := oneLine, tiles := [0] } }
theorem witness_MatrixSteps_starts :
    ((matrix { Core.blank with runQ := [aCommand] }).core 191).pipeNow .run = none ∧
      ((matrix { Core.blank with runQ := [aCommand] }).core 191).pipeQ .run = [aCommand] ∧
      ((matrix Core.blank).cluster 47).throttle < 3 ∧ inputsDone aCommand.ins = true ∧
      ((matrix { Core.blank with runQ := [aCommand] }).core 191).ordered .run aCommand = true ∧
      ((matrix { Core.blank with loadQ := [aCommand] }).core 191).pipeQ .load = [aCommand] ∧
      ((matrix { Core.blank with loadQ := [aCommand] }).core 191).ordered .load aCommand = true := by
  decide +kernel
/-- A line that is to be read, in bank 0 and in one that is not the engine's; the lines of slopes; a nest read to its end. -/
theorem witness_MatrixSteps_reads :
    (let s := matrix { Core.blank with loadNow := some (aLoad 1 (nest 64 0)) }
     (s.core 191).pipeNow .load = some (aLoad 1 (nest 64 0)) ∧ Reads s (aLoad 1 (nest 64 0)) ∧
      (s.core 191).accessStatus 4 (s.actsFor 191 0) (Descr.flatAt oneLine 0) = 0 ∧ LineFree s 191 0 ∧
      markCode (s.readMark 191 0) = 0) ∧
      ((later Core.blank).core 191).accessStatus 4 (some 0) (Descr.flatAt oneLine 0) ≠ 0 ∧
      Reads (matrix Core.blank) (aLoad 2 (nest 1024 0)) ∧
      ((aLoad 3 (nest 64 0)).linesB.length < Descr.product (aLoad 3 (nest 64 0)).cmd.db ∧
        Reads (matrix Core.blank) { aLoad 3 (nest 64 0) with linesB := [(1000, 0)] }) ∧
      (isRun (aLoad 1 0).cmd = false ∧ Reads (matrix Core.blank) (aLoad 1 0) ∧ readLimit (aLoad 1 0) = 0) := by
  unfold LineFree Reads readLimit
  decide +kernel
theorem witness_MatrixSteps_nextLine :
    NextLine (matrix Core.blank) 191 (aLoad 1 (nest 64 0)) 0 ∧
      NextLine (matrix Core.blank) 191 { aLoad 1 (nest 64 0) with low := 63, linesA := [{ pos := 62, due := 0, val := 0 }] } 63 :=
  ⟨⟨by decide, by decide, by decide +kernel, by decide, by decide +kernel, fun j h h' => absurd h' (by show ¬ j < 0; omega)⟩,
    by decide, by decide, by decide +kernel, by decide, by decide +kernel, fun j h h' => absurd h' (by have : 63 ≤ j := h; omega)⟩
/-- A step of a run fed by its nest, by a port and by a FIFO; and one that waits for a line. -/
def fed (src : BitVec 7) (k : Core) : State × Running :=
  let r := { aRun with cmd := { aRun.cmd with f := { e0 with mode := src * 32, f := 10 } }, low := 1,
                       linesA := if src = 0 then [{ pos := 0, due := 1000, val := 7 }] else [] }
  (matrix { k with runNow := some r }, r)
theorem witness_MatrixSteps_runs :
    (∀ src ∈ [0, 1, 2], let s := (fed src Core.blank).1; let r := (fed src Core.blank).2
      (s.core 191).runNow = some r ∧ isRun r.cmd = true ∧ r.ending = false ∧ r.stop = none ∧ r.nextStep ≤ s.cyc ∧
        r.cmd.tiles.Nodup ∧ r.cmd.f.mode.toNat / 32 % 4 = src.toNat ∧ r.cmd.f.f.toNat / 2 % 8 = 5 ∧
        ((s.core 191).buffer 0).goodShape ≠ .grouped ∧ r.steps < Descr.product r.cmd.da / 1 ∧
        ∀ tile ∈ r.cmd.tiles, (s.core 191).rowHurt tile 0 = false) ∧
      (fed 0 Core.blank).2.linesA.find? (fun e => decide (e.pos = 1 * 0 + 0)) = some { pos := 0, due := 1000, val := 7 } ∧
      1 ≤ (((fed 1 { Core.blank with ports := [(5, { heldPort with fifo := [{ val := 7, flg := 0 }] })] }).1.port 191 5).fifo.length) ∧
      (let p := ((fed 1 { Core.blank with ports := [(5, { heldPort with fault := some (.bown, 3) })] }).1.port 191 5)
       p.fifo = [] ∧ p.coming = [] ∧ p.fault = some (.bown, 3)) ∧
      ((fed 2 Core.blank).1.fifo 47 5).lines = [] ∧ (fed 2 Core.blank).2.linesA.length < 1 := by
  decide +kernel
theorem witness_MatrixSteps_ends :
    (let s := matrix { Core.blank with loadNow := some { aLoad 1 (nest 64 0) with ending := true } }
     (s.core 191).pipeNow .load = some { aLoad 1 (nest 64 0) with ending := true } ∧ (s.core 191).joins = [] ∧
      (s.core 191).loadQ = []) ∧
      (let s := matrix { Core.blank with loadNow := some { aLoad 3 (nest 64 0) with ending := true, linesB := [(0, 7)] } }
       (s.core 191).pipeNow .load = some { aLoad 3 (nest 64 0) with ending := true, linesB := [(0, 7)] }) ∧
      (let s := matrix { Core.blank with runNow := some { aLoad 6 (nest 64 0) with ending := true } }
       (s.core 191).pipeNow .run = some { aLoad 6 (nest 64 0) with ending := true } ∧ isRun (aLoad 6 (nest 64 0)).cmd = false ∧
        (aLoad 6 (nest 64 0)).cmd.tiles.Nodup) := by
  decide +kernel

def aDrainLine (d : DrainTo) : DrainLine := { dest := d, val := 7, stream := 0, records := [], lost := [], tail := [], flg := 0 }
def ppeCore (k : Core) : State := later { k with banks := [(0, ownedBank 5)] }
/-- A drain of one tile, of eight with Q4X, and the PPE state with them. -/
def aDrain (mode : BitVec 7) (n : Nat) : Cmd := { aCommand with op := 0x11, f := { e0 with mode := mode }, tiles := List.range n }
theorem witness_PpeSteps_starts :
    (∀ cmd ∈ [{ aCommand with op := 0x10 }, { aCommand with op := 0x14 }, aDrain 0x40 1],
      ((ppeCore { Core.blank with ppeQ := [cmd] }).core 191).drainNow = none ∧
        ((ppeCore { Core.blank with ppeQ := [cmd] }).core 191).ppeQ = [cmd] ∧ (ppeCore Core.blank |>.cluster 47).throttle < 3 ∧
        inputsDone cmd.ins = true ∧ (inputStatus cmd.ins).1 = 0) ∧
      inputStatus [.done 0x42 0 0] = (0x42, 0) ∧
      ((aDrain 0x40 1).tiles.take (drainTiles (aDrain 0x40 1).f)).length = drainTiles (aDrain 0x40 1).f ∧
      ((aDrain 0 8).tiles.take (drainTiles (aDrain 0 8).f)).length = 8 ∧ drainTiles (aDrain 0 8).f = 8 ∧
      (∀ tile ∈ (aDrain 0 8).tiles, (ppeCore Core.blank |>.core 191).rowHurt tile 0 = false) ∧
      ((ppeCore { Core.blank with parity := [locLane 7 31 31] }).core 191).rowHurt 7 31 = true ∧
      (Ctx.blank.ppe.ofmt < 4 ∧ Ctx.blank.ppe.ep = 0 ∧ Ctx.blank.ppe.tail = []) := by
  decide +kernel
theorem witness_PpeSteps_writes :
    (∀ dest ∈ [DrainTo.scratch 0, .port 9, .fifo 7, .tileRow 95 31, .fail 0x43 0],
      let d := { draining with todo := [aDrainLine dest] }
      ((ppeCore { Core.blank with drainNow := some d }).core 191).drainNow = some d ∧ d.ending = false ∧ d.nextLine ≤ 1000 ∧
        d.todo = [aDrainLine dest] ∧ (aDrainLine dest).stream ∉ [1, 2] ∧ (aDrainLine dest).stream ∈ [0]) ∧
      ((ppeCore Core.blank).core 191).accessStatus 5 (some 0) 0 = 0 ∧ LineFree (ppeCore Core.blank) 191 0 ∧
      ((later Core.blank).core 191).accessStatus 5 (some 0) 0 ≠ 0 ∧
      (let p : Port := { heldPort with cfg := nest 16 0, fifo := List.replicate 15 { val := 7, flg := 0 } }
       p.fault = none ∧ p.fifo.length + p.reserved < 16 ∧ p.pos + p.reserved < Descr.product p.cfg) ∧
      ((ppeCore Core.blank).fifo 47 7).lines.length < 128 := by
  unfold LineFree
  decide +kernel
theorem witness_PpeSteps_ends :
    let d := { draining with ending := true, cmd := { aDrain 0 8 with ports := [9] } }
    ((ppeCore { Core.blank with drainNow := some d }).core 191).drainNow = some d ∧ d.ending = true ∧
      (∀ n ∈ d.cmd.ports, ((ppeCore Core.blank).port 191 n).fifo = [] ∧ ((ppeCore Core.blank).port 191 n).performed + 4 ≤ 1000 ∧
        ((ppeCore Core.blank).port 191 n).fault = none) ∧ (ppeCore Core.blank |>.core 191).joins = [] := by
  decide +kernel

/-- A copy of one line from the scratchpad to itself, its access begun, and a core whose copy engine owns bank 0. -/
def aCopy : Cmd := { aCommand with op := 0x22, f := e0, da := oneLine, db := oneLine }
/-- The same to memory. -/
def aStore : Cmd := { aCopy with op := 0x21, da := globalNest 1 }
def begun (c : Cmd) : Ctx := { Ctx.blank with out := [{ (access (.command c)) with num := 5, progress := .started }] }
def aChannel : Channel := { newChannel aCopy 5 1000 with started := true }
def copying (h : Channel) : State :=
  later { Core.blank with ctxs := [(0, begun h.cmd)], chans := [(3, h)], banks := [(0, ownedBank 6)] }
theorem witness_CopyAndScatterSteps_starts :
    (∀ cmd ∈ [aCopy, { aCopy with op := 0x28 }, { aCopy with op := 0x27, db := 0 }, { aCopy with f := { e0 with mode := 2 } }],
      ((later { Core.blank with copyQ := [cmd] }).core 191).copyQ = [cmd] ∧
        ((later { Core.blank with copyQ := [cmd] }).core 191).chans = [] ∧ (later Core.blank |>.cluster 47).throttle < 3 ∧
        inputsDone cmd.ins = true ∧ (inputStatus cmd.ins).1 = 0 ∧ cmd.at_ + 2 ≤ 1000 ∧ inputsCycle cmd.ins + 2 ≤ 1000) ∧
      hasSync aCopy = false ∧ ({ aCopy with op := 0x27, db := 0 } : Cmd).readCount = 0 := by
  decide +kernel
theorem runs (h : Channel) (hs : h.started = true) (he : h.ending = false) (ha : h.access = 5) (hc : h.cmd.ctx = 0) :
    ChannelRuns (copying h) 191 3 h := by
  refine ⟨by decide, by decide, rfl, hs, he, { (access (.command h.cmd)) with num := 5 }, ?_, fun h => nomatch h⟩
  rw [hc, ha]
  rfl
theorem witness_CopyAndScatterSteps_reads :
    ChannelRuns (copying aChannel) 191 3 aChannel ∧
      (aChannel.stop = none ∧ aChannel.coming = [] ∧ aChannel.readAt ≤ 1000 ∧ aChannel.outq = [] ∧
        aChannel.taken < aChannel.cmd.readCount ∧ aChannel.reads < aChannel.cmd.readCount ∧
        Descr.glb aChannel.cmd.db = false ∧ nestLine aChannel.cmd.db 1 0 = 0 ∧
        ((copying aChannel).core 191).accessStatus 6 (some 0) 0 = 0 ∧ LineFree (copying aChannel) 191 0 ∧
        ((later Core.blank).core 191).accessStatus 6 (some 0) 0 ≠ 0) ∧
      (let e : Fetch := { idx := 0, at_ := 1000, pa := none, src := 0, fixed := true, val := 7, status := 0, after := [] }
       let h := { aChannel with reads := 1, writeAt := 1001, coming := [e] }
       ChannelRuns (copying h) 191 3 h ∧ h.cmd.readCount ≤ h.reads ∧ e.at_ ≤ 1000 ∧ (1000 : Nat) < h.writeAt) ∧
      (let o : OutLine := { idx := 0, val := 7, group := false, word := none }
       let h := { aChannel with reads := 1, taken := 1, outq := [o] }
       ChannelRuns (copying h) 191 3 h ∧ h.cmd.readCount ≤ h.reads ∧ (o.idx / 1 + 1) * 1 ≤ h.taken ∧
        nestLine h.cmd.da 1 0 = 0 ∧ Descr.glb h.cmd.da = false) := by
  unfold LineFree
  exact ⟨runs _ rfl rfl rfl rfl, by decide +kernel, ⟨runs _ rfl rfl rfl rfl, by decide +kernel⟩, runs _ rfl rfl rfl rfl, by decide +kernel⟩
theorem witness_CopyAndScatterSteps_memory :
    let h := { newChannel aStore 5 1000 with started := true }
    let s := { copying h with parts := [(0, { Part.idle with troot := 1 })],
                              clusters := [(47, { Cluster.blank with tlb := [{ part := 0, base := 0, size := 2 ^ 30, leaf := 0xF }] })] }
    s.writeSide 191 aStore 0 = (.memory 0, s) := by
  decide +kernel
theorem witness_CopyAndScatterSteps_ends :
    (let w : Writing := { out := { idx := 0, val := 7, group := false, word := none }, flat := some 0, at_ := 1000, bad := none }
     (copying { aChannel with writing := [w] }).chan 191 3 = some { aChannel with writing := [w] } ∧ w.at_ ≤ 1000 ∧
       ((copying aChannel).core 191).accessStatus 6 (some 0) (0 : Nat) = 0 ∧
       ((later Core.blank).core 191).accessStatus 6 (some 0) (0 : Nat) ≠ 0) ∧
      (let h := { aChannel with reads := 1, taken := 1 }
       (copying h).chan 191 3 = some h ∧ h.finished = true ∧ h.started = true ∧ h.final = none ∧ h.word = none ∧
        (inputStatus h.cmd.ins).1 = 0 ∧ ((copying h).core 191).joins = [] ∧ (copying h).writes = [] ∧ stopStatus h.stop ≠ 0x43) ∧
      (let h := { aChannel with stop := some { pos := 0, status := 0x03, addr := 0 } }
       h.finished = true ∧ stopStatus h.stop ≠ 0) ∧
      z.wordLaunch 191 (2 ^ 25 - 1) = none := by
  decide +kernel
/-- A row with two values, and the rows of one load. -/
theorem witness_CopyAndScatterSteps_rows :
    (∃ r q, grfRow 0x1000 4096 0 = some (r, q)) ∧ (List.replicate 256 ({ span := 1, bf := false, vals := [0], lists := [] } : GrfRow)).length = 256 := by
  have h : (grfRow 0x1000 4096 0).isSome = true := by decide +kernel
  obtain ⟨⟨r, q⟩, h⟩ := Option.isSome_iff_exists.mp h
  exact ⟨⟨r, q, h⟩, List.length_replicate⟩

def aScatter : Cmd := { aCommand with op := 0x30, da := oneLine, db := nest 1 0 }
def scattering (r : Scattering) : State :=
  later { Core.blank with
    ctxs := [(0, { Ctx.blank with out := [{ (access (.command r.cmd)) with num := 5 }] })], scaNow := some r
    banks := [(0, ownedBank 7)], ports := [(9, { heldPort with cfg := nest 16 0 })] }
def scatter : Scattering :=
  { cmd := aScatter, access := 5, window := 0, phase := .idle, todo := [], entries := [], due := 1000, last := 0, sent := [],
    outq := [], stop := none, ending := false }
theorem witness_CopyAndScatterSteps_scatter :
    (((later { Core.blank with scaQ := [aScatter] }).core 191).scaNow = none ∧
        ((later { Core.blank with scaQ := [aScatter] }).core 191).scaQ = [aScatter] ∧ inputsDone aScatter.ins = true ∧
        aScatter.at_ + 2 ≤ 1000 ∧ inputsCycle aScatter.ins + 2 ≤ 1000) ∧
      (ScaAt (scattering scatter) 191 scatter .idle ∧ 64 * 0 < scaEntries aScatter ∧
        ∀ f ∈ streamLines aScatter (64 * 0) scatter.size, ((scattering scatter).core 191).accessStatus 7 (some 0) f = 0) ∧
      (let r := { scatter with phase := .streams, todo := [(191, 0)] }
       ((scattering r).core 191).scaNow = some r ∧ (scattering r).scaMayBegin 191 r = true ∧ r.due ≤ 1000 ∧ LineFree (scattering r) 191 0) ∧
      (let r := { scatter with phase := .targets, entries := List.replicate 31 (0, 1) ++ [(0xFFFFFFFF, 1)] }
       ScaAt (scattering r) 191 r .targets ∧ r.entries.length = r.size ∧ (scattering r).writes = [] ∧ r.sent = [] ∧
        r.cmd.f.mode.getLsbD 5 = false ∧ ∀ e ∈ r.entries, e.1 ≠ 0xFFFFFFFF →
          ((scattering r).core 191).accessStatus 7 (some 0)
            (((Descr.aux r.cmd.db * 128 + e.1 * scaSize r.cmd) / 128 : Nat) : Int) = 0) ∧
      (let r := { scatter with cmd := { aScatter with op := 0x31, ports := [9] }, outq := [7] }
       ((scattering r).core 191).scaNow = some r ∧ (scattering r).scaMayBegin 191 r = true ∧
        ((scattering r).port 191 9).fifo.length + ((scattering r).port 191 9).reserved < 16 ∧
        ((scattering r).port 191 9).pos + ((scattering r).port 191 9).reserved < Descr.product ((scattering r).port 191 9).cfg) ∧
      (let r := { scatter with ending := true }
       ((scattering r).core 191).scaNow = some r ∧ ((scattering r).core 191).joins = [] ∧ r.cmd.ctx < 5) := by
  unfold LineFree ScaAt
  decide +kernel

/-- A start vector of virtual core 0 at entry bundle 1, with its image at VA 0x1000, in the pages of `areaState`: the image
has two bundles and no tiles. -/
def aVector : Memory := [(33, 0x10), (64, 1)]
/-- The same with priority 3. -/
def urgent : Memory := [(4, 0x18), (33, 0x10), (64, 1)]
def launching (v : Memory) : State :=
  { areaState with mem := (0x1048, 2) :: areaState.mem, queues := [(63, { Queue.idle with vectors := [v] })] }
def aNeed : Need :=
  { vcore := 0, entry := 1, codeva := 0, nb := 2, tiles := 0, blo := 0, bhi := 0, datava := 0, nd := 0, buffers := [], tables := [],
    sets := [], fifos := [], other := false }
/-- Cluster 0 alone in partition 0, with every context of its core 0 given to launch 1 of priority 0. -/
def victim (x : Nat) : Nat × Ctx := (x, { launched with status := .running })
def crowded (v : Memory) : State :=
  { launching v with
    cores := [(0, { Core.blank with ctxs := [victim 0, victim 1, victim 2, victim 3], image := some (0, 2) })]
    launches := [{ aLaunch with members := [{ vcore := 0, core := 0, ctx := 3, state := .active }] }]
    clusters := (0, Cluster.blank) :: (List.range 47).map (fun i => (i + 1, { Cluster.blank with part := 1 })) }
theorem lone (s : State) (v : Memory) (h : s.queues = [(63, { Queue.idle with vectors := [v] })]) : OneHead s 63 v := by
  refine ⟨by decide, ?_, fun r hr => ?_⟩ <;> simp_all [State.queue, FMap.get, Queue.idle]
theorem witness_LaunchSteps_order :
    (∀ q, z.eligible q = none) ∧ ({ launching [] with waiters := [63] } : State).waiters.contains 63 = true ∧ OneHead (launching aVector) 63 aVector ∧ OneHead (crowded aVector) 63 aVector ∧
      eventsSet ((launching [(16, 1)]).partOf 0) [(16, 1)] = false ∧
      ((launching []).rejectCode 63 [] = 3 ∧ eventsSet ((launching []).partOf 0) [] = true) ∧
      (eventsSet ((crowded aVector).partOf 0) aVector = true ∧ (crowded aVector).rejectCode 63 aVector = 0 ∧ vecPrio aVector < 3 ∧
        (crowded aVector).needs 0 aVector [0] = some [aNeed] ∧ vecCores aVector = [0] ∧ clustersOf [0] = [0] ∧
        mapClusters (fun cl mine => !(crowded aVector).keptFor 63 cl mine && meetsFor (crowded aVector) aVector cl mine) [aNeed] [0]
          ((crowded aVector).partClusters 0) = none) ∧
      ((launching [(4, 0x80)]).rejectCode 63 [(4, 0x80)] = 2 ∧ (launching [(4, 1)]).rejectCode 63 [(4, 1)] = 1 ∧
        (launching [(4, 0x60), (64, 1)]).rejectCode 63 [(4, 0x60), (64, 1)] = 7) := by
  refine ⟨fun _ => rfl, by decide, lone _ _ rfl, lone _ _ rfl, ?_, ?_, ?_, ?_⟩ <;> decide +kernel
/-- Two heads of one priority, behind the pointer in their order. -/
def both : State := { z with queues := [(62, { Queue.idle with vectors := [[]] }), (63, { Queue.idle with vectors := [[]] })] }
theorem witness_LaunchSteps_two : TwoHeads both 62 63 [] [] ∧ both.rejectCode 62 [] ≠ 0 ∧ both.rejectCode 63 [] ≠ 0 := by
  refine ⟨⟨by decide, by decide, by decide, by decide, by decide, fun r h h' => ?_, rfl, rfl, by decide, by decide, .inr ⟨rfl, by decide⟩⟩,
    by decide +kernel, by decide +kernel⟩
  simp [both, State.queue, FMap.get, h, h', Queue.idle]
/-- A head that cannot be placed, in front of one as given. -/
def queued (v : Memory) : State :=
  { crowded aVector with queues := [(62, { Queue.idle with vectors := [aVector] }), (63, { Queue.idle with vectors := [v] })] }
theorem witness_LaunchSteps_held (v : Memory) (h : v = aVector ∨ v = []) :
    TwoHeads (queued v) 62 63 aVector v ∧ (queued v).rejectCode 62 aVector = 0 ∧ vecPrio aVector < 3 ∧
      ((queued v).queue 62).part = ((queued v).queue 63).part ∧ (queued v).needs (vecPart aVector) aVector (vecCores aVector) = some [aNeed] ∧
      mapClusters (meetsFor (queued v) aVector) [aNeed] (clustersOf (vecCores aVector)) ((queued v).partClusters (vecPart aVector)) = none ∧
      ((queued v).rejectCode 63 v = 0 ↔ v = aVector) := by
  rcases h with rfl | rfl
  all_goals
    refine ⟨⟨by decide, by decide, by decide, by decide, by decide, fun r h h' => ?_, rfl, rfl, by decide, by decide +kernel,
      .inr ⟨by decide, by decide⟩⟩, ?_, ?_, ?_, ?_, ?_, ?_⟩
    · simp [queued, State.queue, FMap.get, h, h', Queue.idle]
    all_goals decide +kernel
theorem witness_LaunchSteps :
    (LoneHead (launching aVector) 63 aVector ∧ eventsSet ((launching aVector).partOf 0) aVector = true ∧
        (launching aVector).rejectCode 63 aVector = 0 ∧ (launching aVector).needs 0 aVector [0] = some [aNeed] ∧
        mapClusters (meetsFor (launching aVector) aVector) [aNeed] [0] ((launching aVector).partClusters 0) = some [(0, 0)] ∧
        mappedCore [(0, 0)] 0 = 0 ∧ ((launching aVector).core 0).layersOff aNeed = [] ∧
        ({ Core.blank with layers := [(0, false)] } : Core).layersOff aNeed = [0]) ∧
      (LoneHead (crowded urgent) 63 urgent ∧ vecPrio urgent = 3 ∧ (crowded urgent).rejectCode 63 urgent = 0 ∧
        (crowded urgent).needs 0 urgent [0] = some [aNeed] ∧
        mapClusters (meetsFor (crowded urgent) urgent) [aNeed] [0] ((crowded urgent).partClusters 0) = none ∧
        mapClusters (fun cl mine => ((crowded urgent).victimsOf cl (vecImage urgent) mine mine Gone.nobody).isSome) [aNeed] [0]
          ((crowded urgent).partClusters 0) = some [(0, 0)] ∧
        ((crowded urgent).allVictims (vecImage urgent) [aNeed] [(0, 0)] Gone.nobody).isSome = true) ∧
      (let s := { crowded aVector with preempting := [{ queue := 1, lidx := 5, cores := [0] }] }
       OneHead s 63 aVector ∧ ∀ cl, cl < 48 → (s.cluster cl).part = 0 → ∃ p ∈ s.preempting, p.queue ≠ 63 ∧ 4 * cl + 0 % 4 ∈ p.cores) := by
  refine ⟨⟨⟨lone _ _ rfl, rfl⟩, ?_, ?_, ?_, ?_, ?_, ?_, ?_⟩, ⟨⟨lone _ _ rfl, rfl⟩, ?_, ?_, ?_, ?_, ?_, ?_⟩, lone _ _ rfl, ?_⟩ <;> decide +kernel
theorem witness_LaunchSteps_completion :
    ({ areaState with launches := [aLaunch] } : State).launchOf 1 = some aLaunch ∧ aLaunch.over = true ∧
      ({ aLaunch with members := [{ vcore := 0, core := 0, ctx := 0, state := .active }] } : Launch).over = false ∧
      areaState.xlatePart 0 128 true = some 128 ∧ areaState.revoked 128 = false ∧ z.xlatePart 0 128 true = none := by
  decide +kernel

/-- Core 0 whose context 3, parked, is being saved or restored at an address of `areaState`; what is saved goes through a
revoked window where a witness has to say what is left. -/
def saving (load : Bool) (va : Nat) (v : Ctx) (parity : List Nat) : State :=
  { areaState with
    cores := [(0, { Core.blank with ctxs := [(3, v)], parity := parity, saving := some { load := load, ctx := 3, banks := false, va := va } })] }
def parked : State := saving false 0x400000 parkedCtx []
def savedNames : Named := { tiles := 0, buffers := [], tables := [], sets := [], fifos := [], ports := [], banks := [] }
theorem witness_SaveAndRestore_save :
    (parked.core 0).saving = some { load := false, ctx := 3, banks := false, va := 0x400000 } ∧
      saveWaits (parked.core 0) 3 = false ∧ saveWaits { Core.blank with runQ := [{ aCommand with ctx := 3 }] } 3 = true ∧
      namedOf parked 0 3 false = savedNames ∧ savesLine (parked.core 0) 3 savedNames 0 = false ∧ savedBad parked 0 3 savedNames (savedOf parked 0 3 savedNames) = false ∧
      (let s := { parked with
         mem := [(0x101000, 0x8F), (0x200000, 0x01), (0x200001, 0x10), (0x200002, 0x10)]
         windows := [(0, { word0 := 0x1A, base := 0, size := 0x40000000, infl := 0 })] }
       State.writePages 0 0x400000 savedNames.bytes (areaImage s 0 3 savedNames 1 false) savedNames.pages 0
        { s with nextId := 2 } = some { s with nextId := 2 }) ∧
      (let s := saving false 0x40000000 parkedCtx []
       (State.writePages 0 0x40000000 savedNames.bytes (areaImage s 0 3 savedNames 1 false) savedNames.pages 0
        { s with nextId := 2 }).isNone = true) ∧
      (let s := saving false 0x400000 { parkedCtx with tileCount := 1 } [locLane 0 0 0]
       savedBad s 0 3 (namedOf s 0 3 false) (savedOf s 0 3 (namedOf s 0 3 false)) = true) := by
  decide +kernel
def restoring : State := saving true 0x400000 parkedCtx []
theorem witness_SaveAndRestore_load :
    (∃ h n, restoring.areaHead 0 0x400000 = some h ∧ headerNamed h = some n ∧ restoring.savedIn h = some aSaved ∧
        areaFits restoring 0 n aSaved = true ∧ (restoring.core 0).banksOff n.banks = [] ∧
        (restoring.core 0).tileBlock n.tiles = some 0 ∧
        (restoring.readPages 0 0x400000 n.pages 0).map (fun p => p.2) = some false ∧
        (({ restoring with marks := [(0x400000 / 128, .uncorrectable 1)] } : State).readPages 0 0x400000 n.pages 0).map (fun p => p.2) =
          some true ∧
        restoring.pagesBehind 0 0x400000 n.pages = false ∧
        ({ restoring with writes := [{ aWrite (some .cluster) with pa := 0x401000 }] } : State).pagesBehind 0 0x400000 n.pages = true ∧
        (let full : State := { restoring with cores := [(0, { Core.blank with ctxs := [(1, { parkedCtx with tileCount := 96 })] })] }
         full.areaHead 0 0x400000 = some h ∧ full.savedIn h = some aSaved ∧ areaFits full 0 n aSaved = false) ∧
        (let end_ : State := { restoring with mem := [(0x101000, 0x0F), (0x200000, 0x01), (0x200001, 0x10), (0x200002, 0x10),
           (0x3FFF8000, 1), (0x3FFF8011, 1), (0x3FFFE000, 1)] }
         end_.areaHead 0 0x3FFF8000 = some h ∧ end_.savedIn h = some aSaved ∧ areaFits end_ 0 n aSaved = true ∧
          end_.pagesBehind 0 0x3FFF8000 n.pages = false ∧ end_.readPages 0 0x3FFF8000 n.pages 0 = none)) ∧
      (saving true 0x40000000 parkedCtx []).areaHead 0 0x40000000 = none := by
  refine ⟨⟨[(0, 1), (17, 1), (24576, 1)], { savedNames with tiles := 1 }, ?_, ?_, ?_, ?_, ?_, ?_, ?_, ?_, ?_, ?_, ?_, ?_⟩, ?_⟩ <;> decide +kernel

theorem witness_ResultsLand :
    (aPending (.creg 63)).dest = .creg 63 ∧ ((aPending (.pred 7)).dest = .pred 7 ∧ (7 : Nat) < 8) ∧
      ((user looping).me.loop.active = true ∧ 2 ≤ (user looping).me.loop.stages) ∧ (aPending (.qmask 7)).dest = .qmask 7 ∧
      (aPending (.ereg 15)).dest = .ereg 15 ∧ (aPending (.dreg 15)).dest = .dreg 15 ∧
      ((aPending (.dword 15 7)).dest = .dword 15 7 ∧ (7 : Nat) < 8) ∧ (aPending (.sync 7)).dest = .sync 7 ∧
      (operandOf 0xBFF = .row 95 31 ∧ operandOf 0x1BFF = .col 95 31 ∧ operandOf 0x2BFF = .diag 95 31) ∧
      ((user looping).me.loop.active = false ∨ (62 : Nat) < 56 ∨ 61 < 62) ∧
      ((aPending (.push 3)).dest = .push 3 ∧ (3 : Nat) < 4) ∧ Ctx.blank.dbgPass = false ∧
      (((supOf currentCtx).ctx 0 0).status = .current) ∧
      (1 ≤ (0x1000000000000000 : Nat) / 2 ^ 60 ∧ 0x8000000000000000 / 2 ^ 60 ≤ 8 ∧ 9 ≤ 0x9000000000000000 / 2 ^ 60 ∧
        0xC000000000000000 / 2 ^ 60 ≤ 12 ∧ 12 < 0xD000000000000000 / 2 ^ 60) := by
  decide

/-- A core with an injection for the line `flat` (KIND 10, DBL), as the supervisor arms it. -/
def injecting (flat : Nat) : State := State.reset.setCore 0 { Core.blank with inj := BitVec.ofNat 64 (6 + flat * 2 ^ 16 + 2 ^ 48) }
/-- A port in the state that a pop or PSTOP finds, with its KEND pending. -/
def popping : State :=
  State.reset.setCore 0
    { Core.blank with ports := [(5, { heldPort with cfg := oneLine, fifo := [{ val := 7, flg := 0 }], kend := some (1, 0) })] }
theorem witness_WhatBundlesCommit_memory :
    (isFast 0x3FF = true ∧ ((({ lBank with tags := [(127, { TagEntry.blank with valid := true })] } : Bank).tag (0x3FF % 8192 / 8)).valid = true)) ∧
      ((z.core 0).injHits 0 = false ∧ (15 : Nat) < 16 ∧ (((injecting 0x2FFFFF).core 0).injHits 0x2FFFFF = true) ∧
        (injecting 0x2FFFFF).markOf (spAddr 0 0x2FFFFF) = .clean ∧ ((injecting 0).core 0).inj.getLsbD 48 = true) ∧
      (let old := tagged.tag 3
       (z.core 0).inj.getLsbD 2 = false ∧ (old.valid = true ∧ old.dirty = true) ∧ 128 ≤ old.srow ∧ old.srow < 1024 ∧ (1023 : Nat) ≠ old.srow) ∧
      (let p := popping.port 0 5
       p.fifo = [{ val := 7, flg := 0 }] ∧ p.kend = some (1, 0) ∧ p.pos + 1 = p.total) ∧
      (ownerPort 0x2500 = some 5 ∧ ownerPort 0x3300 = some 9 ∧ (owning.core 0).layerOn (383 / 64) = false ∧
        (((owning.apply 0 0 (.owner 0 0x4000)).core 0).bank 0).launch ≠ 0) ∧
      (Descr.product oneLine ≠ 0 ∧ Descr.product 0 = 0 ∧ Descr.kend (BitVec.ofNat 512 (31 * 2 ^ 181)) ≠ 0) := by
  decide +kernel
theorem witness_WhatBundlesCommit_segments :
    ((z.core 0).joins = [] ∧ aCommand.covers = [] ∧ inputsDone aCommand.ins = true) ∧
      (({ Ctx.blank with claims := [5] } : Ctx).claims[0]? = some 5 ∧ Ctx.blank.claims.length ≤ Ctx.blank.replay) ∧
      ((∀ h ∈ Ctx.blank.releasing ++ (releasing 0).releasing, placeOf h.pa = .hbm ∨ placeOf h.pa = .scratch 0) ∧
        z.launchOf launched.launch = none ∧ (3 : Nat) < 4 ∧ (8 : Nat).testBit 3 = true ∧
        (∀ d y, (z.ctx d y).arrival = none) ∧ z.saved = [] ∧ (user { Ctx.blank with status := .running }).me.status = .running) := by
  refine ⟨by decide, by decide, by decide, rfl, by decide, by decide, fun _ _ => rfl, rfl, rfl⟩
theorem witness_WhatBundlesCommit :
    (let s : State := { State.reset with cur := { Issue.none with pc := 8191, effs := [(7, .land (aPending (.creg 1)))] } }
     s.cur.effs = [(7, aPending (.creg 1))].map (fun p => (p.1, Effect.land p.2)) ∧ s.me.kept = [] ∧ s.me.out = [] ∧
       s.me.loop.active = false ∧ s.me.redirect = none ∧ s.me.stall.armed = false ∧ s.here.inj.getLsbD 2 = false ∧
       s.cur.pc < 8192) ∧
      (let s : State := { State.reset with cur := { Issue.none with pc := 8191, effs := [(7, .pstop 5)] } }
       s.cur.effs = [(7, .pstop 5)] ∧ ((s.apply 0 0 (.pstop 5)).ctx 0 0).out = [] ∧
        ((s.apply 0 0 (.pstop 5)).ctx 0 0).stall.armed = false ∧ (Effect.pstop 5).endsSegment = false) := by
  decide +kernel

/-- A loop of two levels of 3 and 2 passes over one bundle at 9, and its indices. -/
def nested (i j : Nat) (exit : Bool) : Ctx :=
  { Ctx.blank with
    loop := { active := true, stages := 1, body := 1, first := 9, n0 := 3, lexit := exit, cnt := [3, 2, 1, 1, 1, 1], idx := [i, j, 0, 0, 0, 0] } }
theorem witness_NextBundle :
    (8191 + 1 ≠ (nested 0 0 false).loop.first + (nested 0 0 false).loop.body ∧
        ({ Ctx.blank with redirect := some (5, 1) } : Ctx).redirect = some (5, 1) ∧
        ({ Ctx.blank with redirect := some (5, 4) } : Ctx).redirect = some (5, 4)) ∧
      (9 + 1 = (nested 2 0 false).loop.first + (nested 2 0 false).loop.body ∧
        (nested 2 0 false).loop.idx.length = (nested 2 0 false).loop.cnt.length ∧
        (∀ l, l < 6 → (nested 2 1 false).loop.idx.getD l 0 < max ((nested 2 1 false).loop.cnt.getD l 0) 1) ∧
        passOf (nested 2 0 false).loop.idx (nested 2 0 false).loop.cnt + 1 < passes (nested 2 0 false).loop.cnt ∧
        passOf (nested 2 1 false).loop.idx (nested 2 1 false).loop.cnt + 1 = passes (nested 2 1 false).loop.cnt ∧
        (nested 0 0 true).loop.lexit = true) := by
  decide

theorem witness_IssueOrder :
    (∀ x, x < 4 → (({ Core.blank with ctxs := [(3, { Ctx.blank with prio := 3 })], rr := [(3, 3)] } : Core).ctx x).prio < 4) ∧
      ∀ p, ({ Core.blank with rr := [(3, 3)] } : Core).rr.get 0 p < 4 := by
  refine ⟨by decide, fun p => ?_⟩
  by_cases h : p = 3
  · subst h; decide
  · simp [FMap.get, h]

/-- The step runs the word that stands where it fetches: c5 ← c6 + c7 (the word of R81's example). -/
def fetched (w : Nat) : State := State.reset.withFetchWord 64 w

theorem witness_IssueOfABundle :
    refusedSlots ((fetched 0x0EE0000000000000).bundle 0 0) 0 0 0 ≠ [] ∧
      (refusedSlots ((fetched 0x0500000000001234).bundle 0 0) 0 0 0 = [] ∧
        (fetched 0x0500000000001234).rewindsNow 0 0 ((fetched 0x0500000000001234).evaluate 0 0).cur.effs = false ∧
        topCause (slotCauses ((fetched 0x0500000000001234).evaluate 0 0).cur.effs) = some (0, .trap, 0x1234)) ∧
      (refusedSlots ((fetched 0x0011461C00000000).bundle 0 0) 0 0 0 = [] ∧
        slotCauses ((fetched 0x0011461C00000000).evaluate 0 0).cur.effs = [] ∧
        debugStopOf ((fetched 0x0011461C00000000).core 0) 0 0 ((fetched 0x0011461C00000000).evaluate 0 0).cur.effs = none) := by
  decide +kernel
/-- CHK c1, c2 with unequal values: the bundle is rewound, and after three rewinds it is not. -/
def checking (tries : Nat) : State :=
  (fetched 0x04D0010800000000).modCtx 0 0 (fun x => { x with c := [(1, 1)], segtry := tries })
theorem witness_IssueOfABundle_rewinds :
    refusedSlots ((checking 0).bundle 0 0) 0 0 0 = [] ∧
      (checking 0).rewindsNow 0 0 ((checking 0).evaluate 0 0).cur.effs = true ∧
      (checking 3).rewindsNow 0 0 ((checking 3).evaluate 0 0).cur.effs = false ∧
      topCause (slotCauses ((checking 3).evaluate 0 0).cur.effs) = some (0, .serr, 0) ∧ ((checking 3).ctx 0 0).segtry = 3 := by
  decide +kernel

theorem witness_StepRunsInstruction :
    ({ State.reset with calendar := [(0, .launchPlacement)] } : State).calendar = [(0, .launchPlacement)] ∧
      ((∀ e ∈ (fetched 0x0011461C00000000).calendar, (fetched 0x0011461C00000000).cyc < e.1) ∧
        (fetched 0x0011461C00000000).turn ≤ 0 ∧ ((fetched 0x0011461C00000000).core 0).live = true) ∧
      ((∀ d, d < 192 → (z.core d).live = false) ∧
        (let s : State := { State.reset with
          cyc := 1, cores := [(0, { Core.blank with nextSample := 11000 })], inbox := [.sensorSample 0 [] 0 0, .powerUp] }
         s.inbox = [.sensorSample 0 [] 0 0] ++ .powerUp :: [] ∧ s.takes .powerUp = true ∧
          ∀ j ∈ ([.sensorSample 0 [] 0 0] : List Instr), s.takes j = false)) ∧
      (({ State.reset with cores := [(191, { Core.blank with asleep := true })] } : State).core 191).asleep = true ∧
      (((fetched 0x0011461C00000000).core 0).asleep = false ∧
        ((fetched 0x0011461C00000000).core 0).awakeFrom ≤ (fetched 0x0011461C00000000).cyc ∧
        ((fetched 0x0011461C00000000).cluster 0).throttle = 0 ∧ ((fetched 0x0011461C00000000).ctx 0 0).prio < 4 ∧
        (∀ y, y < 5 → (fetched 0x0011461C00000000).frontOf 0 y = fetched 0x0011461C00000000) ∧
        (((fetched 0x0011461C00000000).issue 0 0).core 0).traceQ = [] ∧
        (fetched 0x0011461C00000000).standing 0 0 = .ready ∧
        (∀ y, y < 5 → y ≠ 0 → ((fetched 0x0011461C00000000).ctx 0 y).status = .free ∧
          (((fetched 0x0011461C00000000).issue 0 0).ctx 0 y).status = .free)) ∧
      ((fetched 0x0011461C00000000).instrs 0 0 = [(0, .add { s0 with d := 5, a := 6, b := 7 })] ∧
        (encode (.add { s0 with d := 5, a := 6, b := 7 })).isSome = true ∧ ((fetched 0x0011461C00000000).ctx 0 0).skip = 0) := by
  refine ⟨rfl, ⟨?_, ?_, ?_⟩, ⟨fun d _ => rfl, ?_⟩, ?_, ⟨?_, ?_, ?_, ?_, ?_, ?_, ?_, ?_⟩, ?_, ?_, ?_⟩ <;> decide +kernel

theorem witness_OwnershipChangesOnlyThere : ∃ t, exec .powerUp z = .next t ∧ ∃ u, step t = .next u := ⟨_, rfl, _, rfl⟩
theorem witness_CanonicalKept : Canonical State.reset ∧ ∃ t, step State.reset = .next t :=
  ⟨⟨by decide, fun q h => (nomatch (show q ∈ ([] : List (Nat × Queue)) from h))⟩, ⟨_, rfl⟩⟩

theorem witness_NothingStops : (Instr.issueCycle 191).wf = true ∧ (Instr.windowFree 3 63).wf = true ∧ 192 ≤ (192 : Nat) ∧
    64 ≤ (64 : Nat) ∧ 12 ≤ (12 : Nat) ∧ 2 ^ 21 < (2 ^ 21 : Nat) + 1 := by
  decide

theorem witness_DecodeEncodeAgree :
    ((Instr.cfRst { e0 with ko := 31, f := 7 }).wf = true ∧ (encode (.cfRst { e0 with ko := 31, f := 7 })).isSome = true) ∧
      (Instr.dbgWatchWrite { s0 with imm := 0x28 }).wf = true ∧ (0x00480000#32).toNat % 4 = 0 ∧ (1#32).toNat % 4 ≠ 0 ∧
      decodeMove 0x04240684 = .instr (.xmovl { g := 0, dst := 0x424, src := 0x068 }) := by
  decide

/-! ## The spec's worked examples -/

/-- The block of Table 2.8: 1.5, −2.6, 0.3, 40, −5, 0.9 and zeros, as FP32. -/
def exampleBlock : List Machine.Num :=
  ([0x3FC00000, 0xC0266666, 0x3E99999A, 0x42200000, 0xC0A00000, 0x3F666666] ++ List.replicate 26 0).map fp32.decode
/-- "The bytes are 0xD2, 0x82, 0x1B, then 13 bytes of 0x00", scale byte 0x7F; without an escape 0x00, 0x50, 0x0F and 0x82. -/
theorem test_q4x_block : (q4xEncode 1 exampleBlock).1 = 0x1B82D2 ∧ (q4xEncode 1 exampleBlock).2.1 = 0x7F ∧
    (q4xEncode 0 exampleBlock).1 = 0x0F5000 ∧ (q4xEncode 0 exampleBlock).2.1 = 0x82 := by decide +kernel

/-- R61's example: bank 2 is in refresh in cycles 358 to 373. -/
theorem test_refresh_window : refreshEnd (fun _ => 1) 2 354 4 = none ∧ refreshEnd (fun _ => 1) 2 355 4 = some 374 ∧
    refreshEnd (fun _ => 1) 2 350 12 = some 374 ∧ refreshEnd (fun _ => 1) 2 374 4 = none := by decide

/-- The descriptor of the example after R68: four rows of eight lines in banks 8 to 11. -/
def rows : Descr := BitVec.ofNat 512 (0x10040 + (8 + 1 * 2 ^ 16) * 2 ^ 128 + (4 + 8192 * 2 ^ 16) * 2 ^ 192)
theorem test_nest : Descr.product rows = 32 ∧ Descr.flatAt rows 7 = 0x10047 ∧ Descr.flatAt rows 8 = 0x12040 ∧
    Descr.flatAt rows 31 = 0x16047 := by decide +kernel

/-- The walk of the example after R290. -/
theorem test_walk :
    walkTables (Memory.store (Memory.store (Memory.store (Memory.store [] 0x100000000 8 0x100200001) 0x100200800 8 0x100201001)
      0x100201008 8 0x100202001) 0x100202018 8 0x20000500F) 4 0x100000000 0x4000203000 = some (0x4000203000, 4096, 0x20000500F) ∧
      leafPa 4096 0x20000500F 0x4000203000 = 0x200005000 := by decide +kernel

/-- The grouped step worked in the spec, with E4M3 activations 1.5, 2, −0.75 and 3: the step adds 3.875. -/
theorem test_grouped_step :
    (stepGrouped ([0x3C, 0x40, 0xB4, 0x44].map e4m3.decode) [0, 1, 0, 2]
      (fun g => fp32.decode (if g = 0 then 0x3F000000 else if g = 1 then 0xBFA00000 else if g = 2 then 0x40000000 else 0)) 0).1 =
      0x40780000 := by decide +kernel

/-! ## Single steps -/

/-- What a step leaves of context 0 of core 0. -/
def after (s : State) (p : State → Bool) : Bool :=
  match step s with
  | .next t => p t
  | .fault _ | .refused _ => false
/-- MOVI c5, −3: the value is pending with latency 1, and c5 still reads 0 (R14, R90). -/
theorem test_step_movi : after (fetched 0x01914003FFFFFFFD) (fun t => decide ((t.ctx 0 0).readC 5 = 0) &&
    decide ((t.ctx 0 0).pwq.map (fun e => (e.dest, e.rem, e.val.setWidth 64)) = [(Dest.creg 5, 1, (0xFFFFFFFFFFFFFFFD : Word))])) =
      true := by decide +kernel
/-- TRAP 0x1234: the context is trapped at its own bundle, with the code in TVAL (R113, R249). -/
theorem test_step_trap : after (fetched 0x0500000000001234) (fun t => match (t.ctx 0 0).status with
    | .trapped r => decide (r.cause = .trap ∧ r.tval = 0x1234 ∧ r.tpc = 0)
    | _ => false) = true := by decide +kernel
/-- An opcode that Table 4.12 does not list raises ILL in slot S0 (R81, R82). -/
theorem test_step_undefined : after (fetched 0x0EE0000000000000) (fun t => match (t.ctx 0 0).status with
    | .trapped r => decide (r.cause = .ill ∧ r.faultMask = 1)
    | _ => false) = true := by decide +kernel
/-- BR to bundle 5 is taken after four bundles (R94). -/
theorem test_step_branch : after (fetched 0x0300000000000005) (fun t => decide ((t.ctx 0 0).redirect = some (5, 4)) &&
    decide ((t.ctx 0 0).pc = 1)) = true := by decide +kernel

end Sys2Proof.Tests
end

section
/-!
SUPPORT. How a slot of a bundle acts when its guard reads true, and the search for the least number with a property: the
rules that the statements about single instructions go through.
-/
namespace Sys2Proof

open Sys2Proof.Machine

/-- R17: a slot whose guard reads true adds its effects to its bundle. -/
theorem does_of_exec {i : Instr} {s : State} {g : BitVec 4} {es : List Effect} (hg : GuardTrue s g)
    (h : exec i s = slot s g es) : Does i s es := by
  have hemit : s.emit g es = emitted s es := if_pos hg
  rw [Does, h, slot, hemit]

end Sys2Proof

namespace Sys2Proof.Machine

theorem findFrom_eq_none {p : Nat → Bool} {n lo : Nat} :
    findFrom p n lo = none ↔ ∀ i, lo ≤ i → i < lo + n → p i = false := by
  induction n generalizing lo with
  | zero => simp only [findFrom, true_iff]; omega
  | succ n ih =>
    cases hp : p lo with
    | true =>
      simp only [findFrom, hp, if_true, reduceCtorEq, false_iff]
      exact fun h => by simp [h lo (Nat.le_refl lo) (by omega)] at hp
    | false =>
      simp only [findFrom, hp, Bool.false_eq_true, if_false, ih]
      refine ⟨fun h i hlo hi => ?_, fun h i hlo hi => h i (by omega) (by omega)⟩
      rcases Nat.eq_or_lt_of_le hlo with rfl | hlt
      · exact hp
      · exact h i hlt (by omega)

theorem findFrom_eq_some {p : Nat → Bool} {n lo l : Nat} :
    findFrom p n lo = some l ↔ lo ≤ l ∧ l < lo + n ∧ p l = true ∧ ∀ i, lo ≤ i → i < l → p i = false := by
  induction n generalizing lo with
  | zero => simp only [findFrom, reduceCtorEq, false_iff]; omega
  | succ n ih =>
    cases hp : p lo with
    | true =>
      simp only [findFrom, hp, if_true, Option.some.injEq]
      constructor
      · rintro rfl
        exact ⟨Nat.le_refl _, by omega, hp, fun i _ _ => by omega⟩
      · rintro ⟨hlo, -, -, hmin⟩
        by_contra hne
        simp [hmin lo (Nat.le_refl lo) (by omega)] at hp
    | false =>
      simp only [findFrom, hp, Bool.false_eq_true, if_false, ih]
      constructor
      · rintro ⟨hlo, hl, hpl, hmin⟩
        refine ⟨by omega, by omega, hpl, fun i hi hil => ?_⟩
        rcases Nat.eq_or_lt_of_le hi with rfl | hlt
        · exact hp
        · exact hmin i hlt hil
      · rintro ⟨hlo, hl, hpl, hmin⟩
        have hne : lo ≠ l := by rintro rfl; simp [hp] at hpl
        exact ⟨by omega, by omega, hpl, fun i hi hil => hmin i (by omega) hil⟩

end Sys2Proof.Machine
end

section
/-!
SUPPORT. Privileged instructions in a user context (R2, R116, R117).
-/
namespace Sys2Proof

open Sys2Proof.Machine

/-- R2: the first effect of the instruction is that of `privCheck`. -/
def ChecksPrivilege (i : Instr) (s : State) (g : BitVec 4) : Prop :=
  ∃ es, exec i s = slot s g (privCheck s ++ es)

theorem privCheck_of_user {s : State} (hu : s.cur.ctx ≠ 4) : privCheck s = [.trap .priv 0] := by
  simp [privCheck, State.user, hu]
theorem privCheck_of_supervisor {s : State} (hs : s.cur.ctx = 4) : privCheck s = [] := by
  simp [privCheck, State.user, hs]

/-- R2: PRIV is the first effect of a privileged instruction in a user context. -/
theorem ChecksPrivilege.raises {i : Instr} {s : State} {g : BitVec 4} (h : ChecksPrivilege i s g) (hg : GuardTrue s g)
    (hu : s.cur.ctx ≠ 4) : ∃ es, Does i s (.trap .priv 0 :: es) := by
  obtain ⟨es, h⟩ := h
  rw [privCheck_of_user hu] at h
  exact ⟨es, does_of_exec hg h⟩

/-- An instruction that checks the privilege, then refuses its operand, and then acts. -/
theorem ChecksPrivilege.of_refusal {i : Instr} {s : State} {g : BitVec 4} {refusal act : List Effect}
    (h : exec i s = slot s g (privCheck s ++ refusal ++ act)) : ChecksPrivilege i s g :=
  ⟨refusal ++ act, by rw [h, List.append_assoc]⟩

section
variable (f : SSlot) (s : State)

theorem trapinfoDismiss_checksPrivilege : ChecksPrivilege (.trapinfoDismiss f) s f.g := ⟨_, rfl⟩
theorem trootWrite_checksPrivilege : ChecksPrivilege (.trootWrite f) s f.g := ⟨_, rfl⟩
theorem snapWrite_checksPrivilege : ChecksPrivilege (.snapWrite f) s f.g := .of_refusal rfl
theorem injWrite_checksPrivilege : ChecksPrivilege (.injWrite f) s f.g := .of_refusal rfl
theorem dbgControlWrite_checksPrivilege : ChecksPrivilege (.dbgControlWrite f) s f.g := .of_refusal rfl
theorem dbgBreakpointWrite_checksPrivilege : ChecksPrivilege (.dbgBreakpointWrite f) s f.g := .of_refusal rfl
theorem dbgWatchWrite_checksPrivilege : ChecksPrivilege (.dbgWatchWrite f) s f.g := .of_refusal rfl
theorem tret_checksPrivilege : ChecksPrivilege (.tret f) s f.g := .of_refusal rfl
theorem csave_checksPrivilege : ChecksPrivilege (.csave f) s f.g := .of_refusal rfl
theorem cload_checksPrivilege : ChecksPrivilege (.cload f) s f.g := .of_refusal rfl
theorem tlbi_checksPrivilege : ChecksPrivilege (.tlbi f) s f.g := .of_refusal rfl

/-- R252: in a user context WAITI raises PRIV and does not wait. -/
theorem waiti_checksPrivilege {s : State} (hu : s.cur.ctx ≠ 4) : ChecksPrivilege (.waiti f) s f.g :=
  ⟨[], congrArg (slot s f.g) (by simp [State.user, hu])⟩

/-- R116: the registers from 0x20 on are privileged. -/
theorem mfs_checksPrivilege (hn : 0x20 ≤ specialOf f) : ChecksPrivilege (.mfs f) s f.g :=
  ⟨_, congrArg (fun es => slot s f.g (es ++ _)) (if_pos hn)⟩
theorem mts_checksPrivilege (hn : 0x20 ≤ specialOf f) : ChecksPrivilege (.mts f) s f.g := by
  by_cases hdbg : specialOf f = 0x28
  · have h : exec (.mts f) s = writeDbgSlot f s := if_pos hdbg
    exact .of_refusal h
  · have h : exec (.mts f) s = slot s f.g ((if 0x20 ≤ specialOf f then privCheck s else []) ++ [writeOf (specialOf f) (srcA s f)]) :=
      if_neg hdbg
    exact ⟨_, by rw [h, if_pos hn]⟩

end

theorem privilegedInstructions : PrivilegedInstructions := by
  intro s f hg hu i hi
  suffices h : ChecksPrivilege i s f.g from h.raises hg hu
  rcases List.mem_append.mp hi with hrow | hspecial
  · simp only [List.mem_cons, List.not_mem_nil, or_false] at hrow
    rcases hrow with rfl | rfl | rfl | rfl | rfl | rfl | rfl | rfl | rfl | rfl | rfl | rfl
    · exact tret_checksPrivilege f s
    · exact csave_checksPrivilege f s
    · exact cload_checksPrivilege f s
    · exact tlbi_checksPrivilege f s
    · exact waiti_checksPrivilege f hu
    · exact trapinfoDismiss_checksPrivilege f s
    · exact snapWrite_checksPrivilege f s
    · exact injWrite_checksPrivilege f s
    · exact trootWrite_checksPrivilege f s
    · exact dbgControlWrite_checksPrivilege f s
    · exact dbgBreakpointWrite_checksPrivilege f s
    · exact dbgWatchWrite_checksPrivilege f s
  · by_cases hn : 0x20 ≤ f.imm.toNat % 2 ^ 8
    · have hn' : 0x20 ≤ specialOf f := by rwa [specialOf, fieldOf_zero]
      simp only [hn, if_true, List.mem_cons, List.not_mem_nil, or_false] at hspecial
      rcases hspecial with rfl | rfl
      · exact mts_checksPrivilege f s hn'
      · exact mfs_checksPrivilege f s hn'
    · rw [if_neg hn] at hspecial
      exact absurd hspecial List.not_mem_nil

end Sys2Proof
end

section
/-!
SUPPORT. TRET, CSAVE, CLOAD and TLBI in context 4 (R117, R255, R258, R291), case by case.
-/
namespace Sys2Proof.Machine

/-! ## What they ask of their operands -/

/-- The context that TRET resumes. -/
abbrev tretCtx (s : State) : Nat := snapCtx s.here.snap

theorem Ctx.held_iff (x : Ctx) : x.held = true ↔ x.status = .current ∨ x.status = .parked := by simp [Ctx.held]

/-- A mark of an uncorrectable error. -/
def Mark.isUncorrectable : Mark → Bool
  | .uncorrectable _ => true
  | .clean | .poison | .group => false
theorem Mark.isUncorrectable_iff (m : Mark) : m.isUncorrectable = true ↔ ∃ words, m = .uncorrectable words := by
  cases m <;> simp [Mark.isUncorrectable]

/-- Line `l` of a context's record cannot be read (R262). -/
def RecordLineHurt (s : State) (x l : Nat) : Prop :=
  ∃ words, s.readMark s.cur.core (s.here.recordFlat x l) = .uncorrectable words

theorem recordHurt_eq (s : State) (x : Nat) :
    recordHurt s x = findFrom (fun l => Mark.isUncorrectable (s.readMark s.cur.core (s.here.recordFlat x l))) 157 0 := rfl
/-- `recordHurt` finds the first of the 157 lines that cannot be read. -/
theorem recordHurt_eq_none {s : State} {x : Nat} : recordHurt s x = none ↔ ∀ l, l < 157 → ¬ RecordLineHurt s x l := by
  simp [recordHurt_eq, findFrom_eq_none, RecordLineHurt, ← Mark.isUncorrectable_iff]
theorem recordHurt_eq_some {s : State} {x l : Nat} :
    recordHurt s x = some l ↔ l < 157 ∧ RecordLineHurt s x l ∧ ∀ i, i < l → ¬ RecordLineHurt s x i := by
  simp [recordHurt_eq, findFrom_eq_some, RecordLineHurt, ← Mark.isUncorrectable_iff]

/-- Bits [63:57] of a value, which VAs leave 0. -/
theorem fieldOf_57_7 (v : Word) : fieldOf v 57 7 = v.toNat / 2 ^ 57 :=
  Nat.mod_eq_of_lt (Nat.div_lt_of_lt_mul v.isLt)

/-- The context that the operand of CSAVE or CLOAD names. -/
abbrev saveCtx (v : Word) : Nat := v.toNat % 8
/-- R258: the operand of CSAVE and CLOAD names a user context and has no reserved bit set. -/
theorem saveOperandBad_eq_false_iff {v : Word} :
    saveOperandBad v = false ↔ saveCtx v < 4 ∧ v.toNat / 2 ^ 4 % 2 ^ 8 = 0 ∧ v.toNat / 2 ^ 57 = 0 := by
  rw [saveOperandBad, fieldOf_zero, fieldOf_57_7]
  simp [fieldOf]

end Sys2Proof.Machine

namespace Sys2Proof

open Sys2Proof.Machine

section
variable {s : State} {f : SSlot} (hg : GuardTrue s f.g) (hs : s.cur.ctx = 4)
include hg hs

/-! ## TRET (R255, R262) -/

theorem tret_notHeld (hx : 4 ≤ tretCtx s ∨ (s.here.ctx (tretCtx s)).held = false) :
    Does (.tret f) s [.trap .ill (BitVec.ofNat 64 (tretCtx s)), .tret (tretCtx s)] :=
  does_of_exec hg (show execTret f s = _ by simp [execTret, privCheck_of_supervisor hs, hx])

section
variable (hx : tretCtx s < 4) (hheld : (s.here.ctx (tretCtx s)).held = true)
include hx hheld

theorem tret_unreadable {l : Nat} (hhurt : recordHurt s (tretCtx s) = some l) :
    Does (.tret f) s [.trap .uncr (BitVec.ofNat 64 (s.here.recordFlat (tretCtx s) l)),
      .met (s.here.recordFlat (tretCtx s) l), .tret (tretCtx s)] :=
  does_of_exec hg (show execTret f s = _ by
    simp [execTret, privCheck_of_supervisor hs, Nat.not_le.mpr hx, hheld, hhurt])
theorem tret_unsound {l : Nat} (hread : recordHurt s (tretCtx s) = none)
    (hbad : badRecordLine (s.recordAt s.cur.core (tretCtx s)) = some l) :
    Does (.tret f) s [.trap .ill (BitVec.ofNat 64 (s.here.recordFlat (tretCtx s) l)), .tret (tretCtx s)] :=
  does_of_exec hg (show execTret f s = _ by
    simp [execTret, privCheck_of_supervisor hs, Nat.not_le.mpr hx, hheld, hread, hbad])
theorem tret_restores (hread : recordHurt s (tretCtx s) = none)
    (hsound : badRecordLine (s.recordAt s.cur.core (tretCtx s)) = none) : Does (.tret f) s [.tret (tretCtx s)] :=
  does_of_exec hg (show execTret f s = _ by
    simp [execTret, privCheck_of_supervisor hs, Nat.not_le.mpr hx, hheld, hread, hsound])

end

/-! ## CSAVE and CLOAD (R258) -/

theorem csave_refused (hbad : saveOperandBad (regA s f) = true ∨ (s.here.ctx (saveCtx (regA s f))).held = false) :
    Does (.csave f) s [.trap .ill (regA s f), .csave (saveCtx (regA s f)) (bitOf (regA s f) 3) (saveVa (regA s f))] :=
  does_of_exec hg (show execCsave f s = _ by
    simp [execCsave, srcA, fieldOf_zero, privCheck_of_supervisor hs, hbad])
theorem csave_saves (hv : saveOperandBad (regA s f) = false) (hheld : (s.here.ctx (saveCtx (regA s f))).held = true) :
    Does (.csave f) s [.csave (saveCtx (regA s f)) (bitOf (regA s f) 3) (saveVa (regA s f))] :=
  does_of_exec hg (show execCsave f s = _ by
    simp [execCsave, srcA, fieldOf_zero, privCheck_of_supervisor hs, hv, hheld])

theorem cload_refused (hbad : saveOperandBad (regA s f) = true ∨ (s.here.ctx (saveCtx (regA s f))).status ≠ .free) :
    Does (.cload f) s [.trap .ill (regA s f), .cload (saveCtx (regA s f)) (saveVa (regA s f))] :=
  does_of_exec hg (show execCload f s = _ by
    simp [execCload, srcA, fieldOf_zero, privCheck_of_supervisor hs, hbad])

section
variable (hv : saveOperandBad (regA s f) = false) (hfree : (s.here.ctx (saveCtx (regA s f))).status = .free)
include hv hfree

theorem cload_untranslated (hhead : s.areaHead (clusterOf s.cur.core) (saveVa (regA s f)) = none) :
    Does (.cload f) s
      [.trap .xlat (BitVec.ofNat 64 (saveVa (regA s f))), .cload (saveCtx (regA s f)) (saveVa (regA s f))] :=
  does_of_exec hg (show execCload f s = _ by
    simp [execCload, srcA, fieldOf_zero, privCheck_of_supervisor hs, hv, hfree, hhead])

variable {m : Memory} (hhead : s.areaHead (clusterOf s.cur.core) (saveVa (regA s f)) = some m)
include hhead

theorem cload_loads {n : Named} {z : Saved} (hn : headerNamed m = some n) (hz : s.savedIn m = some z)
    (hfits : areaFits s s.cur.core n z = true) :
    Does (.cload f) s [.cload (saveCtx (regA s f)) (saveVa (regA s f))] :=
  does_of_exec hg (show execCload f s = _ by
    simp [execCload, srcA, fieldOf_zero, privCheck_of_supervisor hs, hv, hfree, hhead, hn, hz, hfits])
/-- An area without a header or a saved state, or one that does not fit, is refused. -/
theorem cload_areaRefused
    (harea : headerNamed m = none ∨ s.savedIn m = none ∨
      ∃ n z, headerNamed m = some n ∧ s.savedIn m = some z ∧ areaFits s s.cur.core n z = false) :
    Does (.cload f) s [.trap .ill (regA s f), .cload (saveCtx (regA s f)) (saveVa (regA s f))] := by
  refine does_of_exec hg (show execCload f s = _ from ?_)
  rcases harea with hn | hz | ⟨n, z, hn, hz, hfits⟩
  · cases hz : s.savedIn m <;>
      simp [execCload, srcA, fieldOf_zero, privCheck_of_supervisor hs, hv, hfree, hhead, hn, hz]
  · cases hn : headerNamed m <;>
      simp [execCload, srcA, fieldOf_zero, privCheck_of_supervisor hs, hv, hfree, hhead, hn, hz]
  · simp [execCload, srcA, fieldOf_zero, privCheck_of_supervisor hs, hv, hfree, hhead, hn, hz, hfits]

end

/-! ## TLBI (R291) -/

theorem tlbi_refused (hne : regA s f ≠ BitVec.allOnes 64) (hhigh : 2 ^ 57 ≤ (regA s f).toNat) :
    Does (.tlbi f) s [.trap .ill (regA s f), .tlbi (regA s f)] :=
  does_of_exec hg (show execTlbi f s = _ by
    have hbits : fieldOf (srcA s f) 57 7 ≠ 0 := by
      rw [fieldOf_57_7]
      exact (Nat.div_pos hhigh (by decide)).ne'
    rw [execTlbi, if_pos ⟨hne, hbits⟩, privCheck_of_supervisor hs]
    rfl)
theorem tlbi_invalidates (hv : regA s f = BitVec.allOnes 64 ∨ (regA s f).toNat < 2 ^ 57) :
    Does (.tlbi f) s [.tlbi (regA s f)] :=
  does_of_exec hg (show execTlbi f s = _ by
    have hok : ¬ (srcA s f ≠ BitVec.allOnes 64 ∧ fieldOf (srcA s f) 57 7 ≠ 0) := by
      rintro ⟨hne, hbits⟩
      rw [fieldOf_57_7] at hbits
      exact hbits (Nat.div_eq_of_lt (hv.resolve_left hne))
    rw [execTlbi, if_neg hok, privCheck_of_supervisor hs]
    rfl)

end

theorem supervisorInstructions : SupervisorInstructions := by
  intro s f hg hs v x va good held named hurt readable
  have hheld : ∀ n, (s.here.ctx n).held = true ↔ held n := fun n => Ctx.held_iff _
  have hfreed : ∀ n, ¬ held n → (s.here.ctx n).held = false := fun n h => Bool.eq_false_iff.mpr (mt (hheld n).mp h)
  have hgood : saveOperandBad v = false ↔ good := saveOperandBad_eq_false_iff
  have hbad : ¬ good → saveOperandBad v = true := fun h => Bool.eq_true_of_not_eq_false (mt hgood.mp h)
  refine ⟨?tretRestores, ?tretUnreadable, ?tretNotHeld, ?tretUnsound, ?csaveSaves, ?csaveRefused, ?cload, ?cloadRefused,
    ?tlbiInvalidates, ?tlbiRefused⟩
  case tretRestores =>
    exact fun hn hh hread hsound => tret_restores hg hs hn ((hheld _).mpr hh) (recordHurt_eq_none.mpr hread) hsound
  case tretUnreadable =>
    exact fun l hn hh hl hhurt hmin =>
      tret_unreadable hg hs hn ((hheld _).mpr hh) (recordHurt_eq_some.mpr ⟨hl, hhurt, hmin⟩)
  case tretNotHeld => exact fun h => tret_notHeld hg hs (h.imp_right (hfreed _))
  case tretUnsound =>
    exact fun l hn hh hread hbadLine =>
      tret_unsound hg hs hn ((hheld _).mpr hh) (recordHurt_eq_none.mpr hread) hbadLine
  case csaveSaves => exact fun hv hh => csave_saves hg hs (hgood.mpr hv) ((hheld _).mpr hh)
  case csaveRefused => exact fun h => csave_refused hg hs (h.imp hbad (hfreed _))
  case cload =>
    exact fun hv hfree => ⟨fun m n z hhead hn hz => cload_loads hg hs (hgood.mpr hv) hfree hhead hn hz,
      fun m hhead => cload_areaRefused hg hs (hgood.mpr hv) hfree hhead,
      cload_untranslated hg hs (hgood.mpr hv) hfree⟩
  case cloadRefused => exact fun h => cload_refused hg hs (h.imp_left hbad)
  case tlbiInvalidates => exact tlbi_invalidates hg hs
  case tlbiRefused => exact tlbi_refused hg hs

/-- Settles O11: user contexts by `ChecksPrivilege`, context 4 by the cases of each instruction. -/
theorem privilegeAndSupervisor : Obligations.PrivilegeAndSupervisor :=
  ⟨privilegedInstructions, supervisorInstructions⟩

end Sys2Proof
end

section
/-!
SUPPORT. Updates of the state on top of each other: two changes of one core are one change of it, and a change of a context
is a change of its core.
-/
namespace Sys2Proof.Machine

@[simp] theorem FMap.set_set {α : Type} (m : FMap α) (i : Nat) (v w : α) : (m.set i v).set i w = m.set i w := by
  induction m with
  | nil => simp [FMap.set]
  | cons e m ih =>
    obtain ⟨k, u⟩ := e
    by_cases hk : i = k
    · simp [FMap.set, hk]
    · by_cases hlt : i < k
      · simp [FMap.set, hk, hlt]
      · simp [FMap.set, hk, hlt, ih]

@[simp] theorem State.setCore_setCore (s : State) (c : Nat) (k l : Core) : (s.setCore c k).setCore c l = s.setCore c l := by
  simp [State.setCore]
@[simp] theorem State.modCore_modCore (s : State) (c : Nat) (f g : Core → Core) :
    (s.modCore c f).modCore c g = s.modCore c (fun k => g (f k)) := by
  simp [State.modCore]
@[simp] theorem State.modCore_setCore (s : State) (c : Nat) (k : Core) (f : Core → Core) :
    (s.setCore c k).modCore c f = s.setCore c (f k) := by
  simp [State.modCore]
theorem State.modCtx_eq_modCore (s : State) (c x : Nat) (f : Ctx → Ctx) :
    s.modCtx c x f = s.modCore c (fun k => k.setCtx x (f (k.ctx x))) := rfl

@[simp] theorem Core.setCtx_setCtx (k : Core) (x : Nat) (v w : Ctx) : (k.setCtx x v).setCtx x w = k.setCtx x w := by
  simp [Core.setCtx]
@[simp] theorem State.modCtx_modCtx (s : State) (c x : Nat) (f g : Ctx → Ctx) :
    (s.modCtx c x f).modCtx c x g = s.modCtx c x (fun v => g (f v)) := by
  simp [State.modCtx_eq_modCore]

@[simp] theorem State.core_modCluster (s : State) (n c : Nat) (f : Cluster → Cluster) :
    (s.modCluster n f).core c = s.core c := rfl
theorem State.ctx_modCore (s : State) (c x : Nat) (f : Core → Core) : (s.modCore c f).ctx c x = (f (s.core c)).ctx x := by
  simp [State.ctx]

/-- A map over an array keeps its places, where it keeps the value of the places that are not listed. -/
theorem FMap.get_map {α : Type} {d : α} (m : FMap α) {g : Nat → α → α} {i : Nat} (h : g i d = d) :
    FMap.get d (m.map (fun e => (e.1, g e.1 e.2))) i = g i (m.get d i) := by
  induction m with
  | nil => exact h.symm
  | cons e m ih =>
    obtain ⟨k, v⟩ := e
    by_cases hk : i = k
    · subst hk; simp [FMap.get]
    · simpa [FMap.get, hk] using ih

/-! ## What is scheduled -/

theorem mem_insertDue {due : Nat} {i : Instr} {l : List (Nat × Instr)} {e : Nat × Instr} :
    e ∈ insertDue due i l ↔ e = (due, i) ∨ e ∈ l := by
  induction l with
  | nil => simp [insertDue]
  | cons d l ih =>
    obtain ⟨d, j⟩ := d
    rw [insertDue]
    split
    · simp
    · simp only [List.mem_cons, ih]; tauto

theorem State.mem_schedule {s : State} {d : Nat} {i : Instr} {e : Nat × Instr} :
    e ∈ (s.schedule d i).calendar ↔ e = (d, i) ∨ e ∈ s.calendar := mem_insertDue

/-- A state that differs from another only in what is scheduled and in the delays drawn; nothing scheduled is lost. -/
structure State.Later (s t : State) : Prop where
  eq : t = { s with calendar := t.calendar, draws := t.draws }
  keeps : ∀ e ∈ s.calendar, e ∈ t.calendar

namespace State.Later
variable {s t u : State}

theorem refl (s : State) : Later s s := ⟨rfl, fun _ h => h⟩
theorem trans (h : Later s t) (h' : Later t u) : Later s u :=
  ⟨h'.eq.trans (by rw [h.eq]), fun e he => h'.keeps e (h.keeps e he)⟩
theorem schedule (s : State) (d : Nat) (i : Instr) : Later s (s.schedule d i) :=
  ⟨rfl, fun _ h => mem_schedule.mpr (.inr h)⟩
theorem scheduleFree (s : State) (i : Instr) : Later s (s.scheduleFree i) :=
  ⟨rfl, fun _ h => mem_insertDue.mpr (.inr h)⟩
/-- A fold whose steps only schedule only schedules. -/
theorem foldl {α : Type} {f : State → α → State} (hf : ∀ s a, Later s (f s a)) (l : List α) (s : State) :
    Later s (l.foldl f s) := by
  induction l generalizing s with
  | nil => exact refl s
  | cons a l ih => exact (hf s a).trans (ih _)
theorem ite {p : Prop} [Decidable p] (h : Later s t) (h' : Later s u) : Later s (if p then t else u) := by
  split
  · exact h
  · exact h'

variable (h : Later s t)
include h
theorem mem : t.mem = s.mem := by rw [h.eq]
theorem marks : t.marks = s.marks := by rw [h.eq]
theorem cyc : t.cyc = s.cyc := by rw [h.eq]
theorem launches : t.launches = s.launches := by rw [h.eq]
theorem cores : t.cores = s.cores := by rw [h.eq]
theorem clusters : t.clusters = s.clusters := by rw [h.eq]
theorem core (c : Nat) : t.core c = s.core c := by rw [h.eq]; rfl
theorem ctx (c x : Nat) : t.ctx c x = s.ctx c x := by rw [h.eq]; rfl
theorem cluster (n : Nat) : t.cluster n = s.cluster n := by rw [h.eq]; rfl

end State.Later

/-! ## What leaves the contexts -/

/-- Every context is as it was. -/
def State.SameCtxs (s t : State) : Prop := ∀ d y, t.ctx d y = s.ctx d y

namespace State.SameCtxs
variable {s t u : State}
theorem refl (s : State) : s.SameCtxs s := fun _ _ => rfl
theorem trans (h : s.SameCtxs t) (h' : t.SameCtxs u) : s.SameCtxs u := fun d y => (h' d y).trans (h d y)
theorem of_cores (h : t.cores = s.cores) : s.SameCtxs t := fun d y => by rw [State.ctx, State.core, h]; rfl
theorem modCore {f : Core → Core} (h : ∀ k, (f k).ctxs = k.ctxs) (s : State) (c : Nat) : s.SameCtxs (s.modCore c f) :=
  fun d y => by
    by_cases hd : d = c
    · subst hd
      rw [State.ctx_modCore, Core.ctx, h]
      rfl
    · rw [State.ctx, State.core_modCore_ne _ _ _ _ hd]
      rfl
theorem setCore {k : Core} (h : k.ctxs = (s.core c).ctxs) : s.SameCtxs (s.setCore c k) :=
  fun d y => by
    by_cases hd : d = c
    · subst hd
      rw [State.ctx, State.core_setCore, Core.ctx, h]
      rfl
    · rw [State.ctx, State.core_setCore_ne _ _ _ _ hd]
      rfl
end State.SameCtxs

end Sys2Proof.Machine
end

section
/-!
SUPPORT. Slots in general (R17, R72): an instruction with a code adds effects to its bundle under its guard; the guard and
the opcode of its word.
-/
namespace Sys2Proof

open Sys2Proof.Machine

@[simp] theorem emitted_nil (s : State) : emitted s [] = s := by simp [emitted]

/-- R17: an instruction with a code adds its effects to its bundle, under its own guard. -/
theorem exec_eq_slot {i : Instr} (h : (encode i).isSome = true) (s : State) :
    ∃ es, exec i s = slot s (usesOf i).guard es := by
  cases i
  case nop =>
    have hemit : s.emit 0 [] = s := (if_pos rfl).trans (emitted_nil s)
    exact ⟨[], congrArg Host.Outcome.next hemit.symm⟩
  case mts f =>
    by_cases hdbg : specialOf f = 0x28
    · exact ⟨_, (if_pos hdbg : exec (.mts f) s = writeDbgSlot f s)⟩
    · exact ⟨_, if_neg hdbg⟩
  all_goals cases h
  all_goals exact ⟨_, rfl⟩

/-- The guard field of a code (Tables 4.2, 4.4, 4.7, 4.9, 4.10). -/
def Code.guard : Code → BitVec 4
  | .s w | .v w | .l w | .e w => w.extractLsb' 60 4
  | .x w => w.extractLsb' 28 4

theorem guard_encS (op : BitVec 8) (f : SSlot) : (Code.s (encS op f)).guard = f.g := congrArg SSlot.g (sFields_encS op f)
theorem guard_encV (op : BitVec 8) (f : VSlot) : (Code.v (encV op f)).guard = f.g := congrArg VSlot.g (vFields_encV op f)
theorem guard_encL (op : BitVec 8) (f : LSlot) : (Code.l (encL op f)).guard = f.g := congrArg LSlot.g (lFields_encL op f)
theorem guard_encE (op : BitVec 8) (f : ESlot) : (Code.e (encE op f)).guard = f.g := congrArg ESlot.g (eFields_encE op f)
theorem guard_encMove (w : BitVec 2) (f : Move) : (Code.x (encMove w f)).guard = f.g :=
  congrArg Move.g (moveFields_encMove w f)

/-- R72: the guard field of an instruction's code is the guard it acts under. -/
theorem guard_of_encode {i : Instr} {code : Code} (h : encode i = some code) (hi : i ≠ .nop) :
    code.guard = (usesOf i).guard := by
  cases i
  case nop => exact absurd rfl hi
  all_goals cases h
  all_goals
    simp only [guard_encS, guard_encV, guard_encL, guard_encE, guard_encMove]
    rfl

theorem toNat_extract_guard (w : Word) : (w.extractLsb' 60 4).toNat = w.toNat / 2 ^ 60 := by
  rw [BitVec.extractLsb'_toNat, Nat.shiftRight_eq_div_pow, Nat.mod_eq_of_lt]
  exact Nat.div_lt_of_lt_mul w.isLt
theorem opcodeOf_eq (w : Word) : opcodeOf w = w.toNat / 2 ^ 52 % 2 ^ 8 := by
  rw [opcodeOf, BitVec.extractLsb'_toNat, Nat.shiftRight_eq_div_pow]

theorem guardFalseDoesNothing : GuardFalseDoesNothing := by
  intro i s hi hg
  obtain ⟨es, h⟩ := exec_eq_slot hi s
  have hemit : s.emit (usesOf i).guard es = s := if_neg (by simp [State.guard, hg])
  rw [h, slot, hemit]

theorem slotsOnlyAddEffects : SlotsOnlyAddEffects := by
  intro i s hi
  cases hg : s.me.pred (usesOf i).guard.toNat with
  | false => exact ⟨[], by rw [Does, emitted_nil, guardFalseDoesNothing i s hi hg]⟩
  | true =>
    obtain ⟨es, h⟩ := exec_eq_slot hi s
    exact ⟨es, does_of_exec hg h⟩

theorem slotFields : SlotFields := by
  refine ⟨fun i w hi h => ⟨?_, opcodeOf_eq w⟩, fun s c x => ⟨rfl, rfl⟩⟩
  rw [← toNat_extract_guard]
  rcases h with h | h | h | h <;> rw [← guard_of_encode h hi, Code.guard]

/-- Settles O1: an instruction with a code is a slot under its own guard. -/
theorem slotsAndGuards : Obligations.SlotsAndGuards :=
  ⟨guardFalseDoesNothing, slotsOnlyAddEffects, slotFields⟩

end Sys2Proof
end

section
/-!
SUPPORT. Work, segments, checks and context instructions (R25 to R27, R109 to R115, R252).
-/
namespace Sys2Proof

open Sys2Proof.Machine

theorem delayIll_of_none {s : State} (h : s.me.redirect = none) : delayIll s = [] := by simp [delayIll, h]
theorem bodyIll_of_idle {s : State} (h : s.me.loop.active = false) : bodyIll s = [] := by simp [bodyIll, h]

/-- Two pairs of registers are equal when both halves are (R91). -/
theorem readPair_inj {x : Ctx} {m n : Nat} : x.readPair m = x.readPair n ↔
    (x.readC m).toNat = (x.readC n).toNat ∧ (x.readC (m + 1)).toNat = (x.readC (n + 1)).toNat := by
  have hm := (x.readC m).isLt
  have hn := (x.readC n).isLt
  simp only [Ctx.readPair]
  omega

/-- R111: the drift is taken from the segment's first cycle, which is this one in its first bundle. -/
theorem markDrift_eq (f : SSlot) (s : State) : markDrift f s =
    (s.cyc : Int) - (if s.me.segFirst = true then (s.cyc : Int) else s.me.segStart) - (f.imm.toNat % 2 ^ 24 : Nat) := by
  rw [markDrift, fieldOf_zero, Nat.cast_ite]

/-- The commands that a boundary waits for: those of the matrix engine and the PPE that issue still sees (R101, R165, R192). -/
def unfinished (s : State) : List Cmd := s.here.tileCommands ++ (s.here.endedNow s.cyc).filter Cmd.isTileWork

/-- R165, R192: with nothing held back, a boundary waits exactly for the unfinished commands of its own segment. -/
theorem boundaryWait_of_srq_nil {s : State} (h : s.me.srq = []) : boundaryWait s =
    if ∃ c ∈ unfinished s, c.ctx = s.cur.ctx ∧ c.inSeg = true then [.wait 13 none] else [] := by
  have hany : (unfinished s).any (fun c => decide (c.ctx = s.cur.ctx) && c.inSeg) = true ↔
      ∃ c ∈ unfinished s, c.ctx = s.cur.ctx ∧ c.inSeg = true := by
    simp only [List.any_eq_true, Bool.and_eq_true, decide_eq_true_eq]
  rw [boundaryWait, h]
  simp only [List.isEmpty_nil, if_true, List.nil_append, ← hany]
  rfl

section
variable {s : State} {f : SSlot} (hg : GuardTrue s f.g)
include hg

/-- An instruction whose meaning is a slot with the given effects does these. -/
theorem does_of_slot {i : Instr} {es es' : List Effect} (h : exec i s = slot s f.g es') (he : es' = es) : Does i s es :=
  does_of_exec hg (he ▸ h)

theorem grow_does : Does (.grow f) s [.held 0 (.grow (regA s f)) 0 0] := does_of_slot hg rfl rfl
theorem chk_does : Does (.chk f) s (if (regA s f).toNat = (regB s f).toNat then [] else [.mismatch false]) :=
  does_of_slot hg rfl (if_congr BitVec.toNat_inj.symm rfl rfl)
theorem chkp_does : Does (.chkp f) s (if (regA s f).toNat = (regB s f).toNat ∧
    (s.me.readC (f.a.toNat + 1)).toNat = (s.me.readC (f.b.toNat + 1)).toNat then [] else [.mismatch false]) :=
  does_of_slot hg rfl (by simp only [readPair_inj])
theorem mark_does (d : Int) (hd : markDrift f s = d) : Does (.mark f) s [sWrite 0x0B (BitVec.ofInt 64 d),
    .drift (BitVec.ofInt 64 d) (decide ((s.here.dthr.toNat : Int) < |d|))] := by
  refine does_of_slot hg rfl ?_
  simp only [hd, Int.abs_eq_natAbs, Int.ofNat_lt]
  rfl

/-- R25: a full log makes an implicit boundary in front of a CLAIM that replays nothing. -/
theorem claim_does (hr : s.me.redirect = none) {ws : List Effect}
    (hw : (if s.me.replay < s.me.claims.length then [] else if 16 ≤ s.me.claims.length then [.implicit] else []) = ws) :
    Does (.claim f) s (ws ++ [.claim f.d.toNat 0]) :=
  does_of_slot hg rfl (by rw [delayIll_of_none hr, List.nil_append, hw])
theorem seg_does (hr : s.me.redirect = none) {ws : List Effect} (hw : boundaryWait s = ws) :
    Does (.seg f) s (ws ++ [.seg (f.imm.toNat % 2 ^ 16)]) :=
  does_of_slot hg rfl (by rw [delayIll_of_none hr, List.nil_append, fieldOf_zero, hw])
theorem rdv_does (hr : s.me.redirect = none) {ws : List Effect} (hw : boundaryWait s = ws) :
    Does (.rdv f) s (ws ++ [.rdv (f.imm.toNat % 2 ^ 16) (f.imm.toNat / 2 ^ 16 % 16)]) :=
  does_of_slot hg rfl (by rw [delayIll_of_none hr, List.nil_append, fieldOf_zero, hw]; rfl)

theorem end_does (hr : s.me.redirect = none) (hl : s.me.loop.active = false) : Does (.end_ f) s [.finish] :=
  does_of_slot hg rfl (by rw [delayIll_of_none hr, bodyIll_of_idle hl]; rfl)
/-- R252: WAITI in context 4, by what is current and what has arrived. -/
theorem waiti_does (hs : s.cur.ctx = 4) {es : List Effect}
    (he : (if s.here.trapinfo ≠ 0 then [] else if s.here.trapQ = [] ∧ s.here.msgQ = [] then [.wait 14 none] else [.waiti]) = es) :
    Does (.waiti f) s es :=
  does_of_slot hg rfl (by simpa [State.user, hs, Core.someCurrent] using he)

end

/-- Settles O8: the effects of each instruction, with the boundary's wait by `boundaryWait_of_srq_nil`. -/
theorem workAndSegments : Obligations.WorkAndSegments := by
  intro s f hg
  refine ⟨grow_does hg, chk_does hg, chkp_does hg, mark_does hg _ (markDrift_eq f s), fun hr => ⟨fun h => ?replays, fun h h16 => ?full,
    fun hsrq => ⟨fun hnone => ?free, fun hsome => ?waits⟩⟩⟩
  case replays =>
    refine claim_does hg hr (ws := []) ?_
    split
    · rfl
    · exact if_neg (by omega)
  case full =>
    refine claim_does hg hr (ws := [.implicit]) ?_
    rw [if_neg (Nat.not_lt.mpr h), if_pos h16]
  case free =>
    have hw : boundaryWait s = [] :=
      (boundaryWait_of_srq_nil hsrq).trans (if_neg fun ⟨c, hc, hmine⟩ => hnone c hc hmine)
    exact ⟨seg_does hg hr hw, rdv_does hg hr hw⟩
  case waits =>
    have hw : boundaryWait s = [.wait 13 none] := (boundaryWait_of_srq_nil hsrq).trans (if_pos hsome)
    exact ⟨seg_does hg hr hw, rdv_does hg hr hw⟩

/-- Settles O9: the effects of each instruction, WAITI by `waiti_does`. -/
theorem contextInstructions : Obligations.ContextInstructions := by
  intro s f hg
  refine ⟨does_of_slot hg rfl rfl, does_of_slot hg rfl ?trap, does_of_slot hg rfl ?sys, end_does hg, fun hs =>
    ⟨fun hcur => ?current, fun hfree => ⟨fun hq => ?loads, fun ht hm => ?waits⟩⟩⟩
  case trap => rw [trapCode, fieldOf_zero]
  case sys => rw [trapCode, fieldOf_zero]
  case current => exact waiti_does hg hs (if_pos hcur)
  case loads =>
    have hne : ¬ (s.here.trapQ = [] ∧ s.here.msgQ = []) := by tauto
    exact waiti_does hg hs ((if_neg (not_not.mpr hfree)).trans (if_neg hne))
  case waits => exact waiti_does hg hs ((if_neg (not_not.mpr hfree)).trans (if_pos ⟨ht, hm⟩))

end Sys2Proof
end

section
/-!
SUPPORT. The order of issue of a core (R11, R13, R113).
-/
namespace Sys2Proof.Machine

/-- The place of a context in the round robin of its priority (R13). -/
def ringPlace (p x : Nat) : Nat := (x + 4 - p) % 4

theorem ringFrom_spec {p : Nat} (hp : p < 4) :
    (ringFrom p).Pairwise (fun a b => ringPlace p a < ringPlace p b) ∧ ∀ x, x ∈ ringFrom p ↔ x < 4 := by
  have hrange (x : Nat) : x < 4 ↔ x ∈ [0, 1, 2, 3] := by simp only [List.mem_cons, List.not_mem_nil, or_false]; omega
  simp only [hrange]
  interval_cases p <;> exact ⟨by decide, fun x => (List.Perm.mem_iff (by decide))⟩

namespace Core
variable (k : Core)

/-- One context comes before another when neither or both yield: by priority, then in the round robin (R11, R13). -/
def ranksBefore (a b : Nat) : Prop :=
  k.rankOf b < k.rankOf a ∨
    (k.rankOf b = k.rankOf a ∧ ringPlace (k.rr.get 0 (k.rankOf a)) a < ringPlace (k.rr.get 0 (k.rankOf a)) b)
/-- The user contexts of a priority in the order of issue. -/
def ringOf (p : Nat) : List Nat := (ringFrom (k.rr.get 0 p)).filter (fun x => decide ((k.ctx x).prio = p))
/-- The contexts in the order of issue before YIELD counts. -/
def ranked : List Nat := 4 :: [3, 2, 1, 0].flatMap k.ringOf

variable {k}

theorem not_ranksBefore_self (a : Nat) : ¬ k.ranksBefore a a := by
  rintro (h | ⟨-, h⟩) <;> exact Nat.lt_irrefl _ h

section
variable (hrr : ∀ p, k.rr.get 0 p < 4)
include hrr

theorem mem_ringOf {p x : Nat} : x ∈ k.ringOf p ↔ x < 4 ∧ (k.ctx x).prio = p := by
  rw [ringOf, List.mem_filter, (ringFrom_spec (hrr p)).2, decide_eq_true_eq]
theorem rankOf_of_mem {p x : Nat} (h : x ∈ k.ringOf p) : k.rankOf x = p := by
  obtain ⟨hx, hp⟩ := (mem_ringOf hrr).mp h
  rw [rankOf, if_neg (by omega), hp]
theorem mem_ranked (hprio : ∀ x, x < 4 → (k.ctx x).prio < 4) {x : Nat} : x ∈ k.ranked ↔ x < 5 := by
  simp only [ranked, List.mem_cons, List.mem_flatMap, mem_ringOf hrr, List.not_mem_nil, or_false, exists_eq_or_imp,
    exists_eq_left]
  have := hprio x
  omega
theorem ringOf_pairwise (p : Nat) : (k.ringOf p).Pairwise k.ranksBefore := by
  refine (List.Pairwise.imp_of_mem ?_ ((ringFrom_spec (hrr p)).1.filter _))
  intro a b ha hb hab
  have hra : k.rankOf a = p := rankOf_of_mem hrr ha
  exact .inr ⟨(rankOf_of_mem hrr hb).trans hra.symm, by rwa [hra]⟩
theorem ranked_pairwise : k.ranked.Pairwise k.ranksBefore := by
  refine List.pairwise_cons.mpr ⟨?supervisor, List.pairwise_flatMap.mpr ⟨fun p _ => ringOf_pairwise hrr p, ?priorities⟩⟩
  case supervisor =>
    intro x hx
    obtain ⟨p, hp, hx⟩ := List.mem_flatMap.mp hx
    refine .inl ?_
    have h4 : k.rankOf 4 = 4 := if_pos rfl
    rw [rankOf_of_mem hrr hx, h4]
    simp only [List.mem_cons, List.not_mem_nil, or_false] at hp
    omega
  case priorities =>
    refine List.Pairwise.imp (R := (· > ·)) ?_ (by decide)
    intro p q hpq a ha b hb
    exact .inl (by rw [rankOf_of_mem hrr ha, rankOf_of_mem hrr hb]; exact hpq)
theorem ranked_perm (hprio : ∀ x, x < 4 → (k.ctx x).prio < 4) : List.Perm k.ranked [0, 1, 2, 3, 4] := by
  refine (List.perm_ext_iff_of_nodup ?_ (by decide)).mpr fun x => ?_
  · exact (ranked_pairwise hrr).imp fun {a b} h (e : a = b) => not_ranksBefore_self b (e ▸ h)
  · rw [mem_ranked hrr hprio]
    simp only [List.mem_cons, List.not_mem_nil, or_false]
    omega

end

theorem issueOrder_eq (cyc : Nat) : k.issueOrder cyc =
    k.ranked.filter (fun x => !(k.ctx x).yields cyc) ++ k.ranked.filter (fun x => (k.ctx x).yields cyc) := rfl

end Core
end Sys2Proof.Machine

namespace Sys2Proof
open Sys2Proof.Machine

/-- Settles O51: the ranking before YIELD counts (`Core.ranked`), cut into those that do not yield and those that do. -/
theorem issueOrder : Obligations.IssueOrder := by
  intro k cyc hprio hrr
  have hyield (x : Nat) : (k.ctx x).yields cyc = true ↔ (k.ctx x).yielded = some cyc := decide_eq_true_iff
  rw [Core.issueOrder_eq]
  refine ⟨?perm, List.pairwise_append.mpr ⟨?before, ?behind, ?across⟩⟩
  case perm =>
    refine List.Perm.trans ?_ (Core.ranked_perm hrr hprio)
    exact List.perm_append_comm.trans (List.filter_append_perm _ _)
  case before =>
    refine List.Pairwise.imp_of_mem ?_ ((Core.ranked_pairwise hrr).filter _)
    intro a b ha hb hab
    have hna : ¬ (k.ctx a).yielded = some cyc := by rw [← hyield]; simpa using (List.mem_filter.mp ha).2
    exact ⟨fun h => absurd h hna, fun _ => hab⟩
  case behind =>
    refine List.Pairwise.imp_of_mem ?_ ((Core.ranked_pairwise hrr).filter _)
    intro a b ha hb hab
    exact ⟨fun _ => (hyield b).mp (List.mem_filter.mp hb).2, fun _ => hab⟩
  case across =>
    intro a ha b hb
    have hna : ¬ (k.ctx a).yielded = some cyc := by rw [← hyield]; simpa using (List.mem_filter.mp ha).2
    have hyb : (k.ctx b).yielded = some cyc := (hyield b).mp (List.mem_filter.mp hb).2
    exact ⟨fun h => absurd h hna, fun h => absurd (h.mpr hyb) hna⟩

end Sys2Proof
end

section
namespace Sys2Proof

open Sys2Proof.Machine

/-- Refutes O58: `Instr.wf` accepts every entry of the repair map, and an entry of core 192, which the part does not have,
stops the model. -/
theorem not_nothingStops : ¬ Obligations.NothingStops := by
  rintro ⟨hgoes, -⟩
  have hstops : exec (.repairEntrySwitch (.row 192 0 0 0)) State.reset = .fault .noSuchUnit := rfl
  obtain ⟨t, ht⟩ := hgoes (.repairEntrySwitch (.row 192 0 0 0)) State.reset rfl
  cases hstops.symm.trans ht

end Sys2Proof
end

section
/-!
SUPPORT. The new segment of a context (R18) and the restart of the supervisor (R10, R247).
-/
namespace Sys2Proof.Machine

/-- What a core keeps when a segment begins on it: all but the commands' segments, the parity of the checkpoint and the
context. -/
def Core.withSegment (k : Core) (x id : Nat) : Core :=
  let k1 := (Core.leaveSegment x k).mend [locCkpt x, locSrq x]
  k1.setCtx x
    { k1.ctx x with
      ckpt := some (k1.checkpoint x), segid := id, segtry := 0, segFirst := true, segBundles := 0, chunkLogged := false,
      segAccess := (k1.ctx x).nextAccess, segDrains := [], releasing := (k1.ctx x).releasing.map Held.leave,
      engDone := (k1.ctx x).engDone.map (fun e => { e with inSeg := false }), claims := [],
      replay := 0, lastUncr := none, stall := { armed := bitOf k1.dbg.control 10, kind := 0, cycles := 0 } }

theorem State.openSegment_eq (s : State) (c x id : Nat) : s.openSegment c x id = s.modCore c (fun k => k.withSegment x id) := rfl

/-- The context a segment begins with. -/
theorem Core.ctx_withSegment (k : Core) (x id : Nat) : (k.withSegment x id).ctx x =
    { k.ctx x with
      ckpt := some (k.checkpoint x), segid := id, segtry := 0, segFirst := true, segBundles := 0, chunkLogged := false,
      segAccess := (k.ctx x).nextAccess, segDrains := [], releasing := (k.ctx x).releasing.map Held.leave,
      engDone := (k.ctx x).engDone.map (fun e => { e with inSeg := false }), claims := [],
      replay := 0, lastUncr := none, stall := { armed := bitOf k.dbg.control 10, kind := 0, cycles := 0 } } :=
  Core.ctx_setCtx _ _ _
theorem Core.ctx_withSegment_ne (k : Core) (x id : Nat) {y : Nat} (h : y ≠ x) : (k.withSegment x id).ctx y = k.ctx y :=
  Core.ctx_setCtx_ne _ _ _ _ h

end Sys2Proof.Machine

namespace Sys2Proof

open Sys2Proof.Machine

/-- The supervisor context as at entry (R10), before its segment begins. -/
def freshSupervisor (k : Core) : Ctx :=
  { Ctx.blank with status := .running, pc := k.supEntry, out := (k.ctx 4).out, nextAccess := (k.ctx 4).nextAccess,
                   tileBase := (k.ctx 4).tileBase, tileCount := (k.ctx 4).tileCount }
/-- A core on which a supervisor fault has been recorded and context 4 set up anew (R247). -/
def faultedCore (r : TrapRecord) (k : Core) : Core :=
  { k.setCtx 4 (freshSupervisor k) with saving := none, supFaults := k.supFaults ++ [r] }

theorem exec_supervisorFault {s : State} {c : Nat} {r : TrapRecord} (hc : c < 192) (h : (s.ctx c 4).status = .trapped r) :
    exec (.supervisorFault c) s = .next (s.modCore c (fun k => (faultedCore r k).withSegment 4 0)) := by
  have hcore : ¬ Config.cores ≤ c := Nat.not_le.mpr hc
  show onCore c _ = _
  simp only [onCore, if_neg hcore, h, State.restartSupervisor, State.openSegment_eq, State.modCore_modCore]
  rfl

theorem blank_pred (k : Nat) (h : 2 ≤ k) (h16 : k < 16) : Ctx.blank.pred k = decide (k % 2 = 1) := by
  interval_cases k <;> rfl

/-- Settles O38: the step sets context 4 up anew and begins its segment (`exec_supervisorFault`). -/
theorem supervisorFaults : Obligations.SupervisorFaults := by
  intro s c r hc h
  refine ⟨_, exec_supervisorFault hc h, ?_⟩
  have hcore : ∀ t, (s.modCore c t).core c = t (s.core c) := State.core_modCore s c
  have hsup : ((s.modCore c (fun k => (faultedCore r k).withSegment 4 0)).ctx c 4) =
      (((faultedCore r (s.core c)).withSegment 4 0).ctx 4) := State.ctx_modCore ..
  have hfresh : (faultedCore r (s.core c)).ctx 4 = freshSupervisor (s.core c) := Core.ctx_setCtx ..
  beta_reduce
  rw [hsup, hcore, Core.ctx_withSegment, hfresh]
  refine ⟨rfl, fun d hd => State.core_modCore_ne _ _ _ _ hd, fun y hy => ?others, rfl, rfl, rfl, rfl, fun n => ?regs, rfl, rfl,
    blank_pred, rfl, rfl, ⟨_, rfl, ?pc, ?pwq⟩, rfl, rfl, rfl, rfl, rfl, rfl, rfl, rfl⟩
  case others =>
    rw [State.ctx_modCore, Core.ctx_withSegment_ne _ _ _ hy]
    exact Core.ctx_setCtx_ne _ _ _ _ hy
  case regs => exact ite_self 0
  case pc => simp only [Core.checkpoint, hfresh]; rfl
  case pwq => simp only [Core.checkpoint, hfresh]; rfl

end Sys2Proof
end

section
/-!
SUPPORT. The end of a rewind (R22, R180, R192): what it restores, and what it leaves.
-/
namespace Sys2Proof.Machine

/-! ## Knots on their way -/

/-- Two cores that differ in their curve tables and the places with bad parity alone. -/
def Core.SameButTables (k l : Core) : Prop := l = { k with tables := l.tables, parity := l.parity }

theorem Core.SameButTables.trans {k l m : Core} (h : k.SameButTables l) (h' : l.SameButTables m) : k.SameButTables m :=
  Eq.trans h' (by rw [h])
theorem Core.writeKnots_sameButTables (k : Core) (x : Nat) (q : KsetPending) : k.SameButTables (k.writeKnots x q) := rfl
theorem Core.foldl_writeKnots_sameButTables (x : Nat) (l : List KsetPending) (k : Core) :
    k.SameButTables (l.foldl (fun k q => k.writeKnots x q) k) := by
  induction l generalizing k with
  | nil => rfl
  | cons q l ih => exact (k.writeKnots_sameButTables x q).trans (ih _)

/-- A core whose knots have gone on: its tables, its parity, and the pending knots of one context. -/
def Core.withKnots (k : Core) (x : Nat) (tables : FMap CurveTable) (parity : List Nat) (ks : List KsetPending) : Core :=
  { k with tables := tables, parity := parity, ctxs := k.ctxs.set x { k.ctx x with ksets := ks } }

theorem State.modKnots_eq (s : State) (c x : Nat) (due : List KsetPending) (f : Ctx → List KsetPending) :
    ∃ tables parity ks, (s.modCore c (fun k => due.foldl (fun k q => k.writeKnots x q) k)).modCtx c x
      (fun v => { v with ksets := f v }) = s.modCore c (fun k => k.withKnots x tables parity ks) := by
  obtain ⟨l, hl⟩ : ∃ l, l = due.foldl (fun k q => k.writeKnots x q) (s.core c) := ⟨_, rfl⟩
  have hk : l = { s.core c with tables := l.tables, parity := l.parity } :=
    hl ▸ Core.foldl_writeKnots_sameButTables x due (s.core c)
  refine ⟨l.tables, l.parity, f (s.ctx c x), ?_⟩
  rw [State.modCtx_eq_modCore, State.modCore_modCore, State.modCore, ← hl, hk]
  rfl

theorem State.flushKnots_eq (s : State) (c x : Nat) : ∃ tables parity ks,
    s.flushKnots c x = s.modCore c (fun k => k.withKnots x tables parity ks) :=
  s.modKnots_eq c x _ (fun v => v.ksets.filter (fun k => !decide (k.due ≤ v.issued)))

theorem Core.withKnots_withKnots (k : Core) (x : Nat) (t1 t2 : FMap CurveTable) (p1 p2 : List Nat) (k1 k2 : List KsetPending) :
    (k.withKnots x t1 p1 k1).withKnots x t2 p2 k2 = k.withKnots x t2 p2 k2 := by
  simp [Core.withKnots, Core.ctx]

/-- R174, R180: a rewind first writes or moves the knots on their way, and nothing else. -/
theorem State.rewindKnots_eq (s : State) (c x : Nat) : ∃ tables parity ks,
    s.rewindKnots c x = s.modCore c (fun k => k.withKnots x tables parity ks) := by
  obtain ⟨t1, p1, k1, h1⟩ := s.flushKnots_eq c x
  let v := (s.flushKnots c x).ctx c x
  obtain ⟨t2, p2, k2, h2⟩ := (s.flushKnots c x).modKnots_eq c x
    (v.ksets.filter (fun q => !decide (q.due < v.issued - v.segBundles + 2)))
    (fun u => (u.ksets.filter (fun q => decide (q.due < v.issued - v.segBundles + 2))).map
      (fun q => { q with due := q.due + u.segBundles }))
  refine ⟨t2, p2, k2, h2.trans ?_⟩

  rw [h1, State.modCore_modCore]
  simp only [Core.withKnots_withKnots]

/-! ## What comes back -/

/-- A context as its checkpoint restores it (R22). -/
def Ctx.rewound (v : Ctx) (r : Rewind) (q : Checkpoint) : Ctx :=
  { v with
    pc := q.pc, pwq := q.pwq, loop := q.loop, p := putField v.p 8 8 (fieldOf q.preds 8 8), redirect := q.redirect,
    d := q.d, tok := q.tok, y := q.y, sg := q.sg, yptr := q.yptr, tan := q.tan, ppe := q.ppe, escn := q.escn,
    srq := [], segtry := if r.fresh then 0 else v.segtry + 1, segFirst := true, segBundles := 0, chunkLogged := false,
    segDrains := [], replay := 0, rewind := none, skip := 0,
    engDone := v.engDone.map (fun e => if e.inSeg then { e with escapes := 0 } else e) }
/-- A port as a rewind of its context leaves it (R22). -/
def Port.afterRewind (x : Nat) (q : Checkpoint) (n : Nat) (p : Port) : Port :=
  if p.holder = some x then p.rewound q.ports q.pwq n else p
/-- A core as a rewind of a context leaves it (R22). -/
def Core.rewound (k : Core) (x : Nat) (r : Rewind) (q : Checkpoint) : Core :=
  let k1 := (k.setCtx x ((k.ctx x).rewound r q)).mend (q.places x)
  { k1 with
    joins := k1.joins.filter (fun j => !(decide (j.ctx = x) && (j.inSeg && j.isJoin))),
    ports := k1.ports.map (fun e => (e.1, e.2.afterRewind x q e.1)),
    sets := k1.sets.map (fun e =>
      match q.counts.find? (fun i => decide (i.1 = e.1)) with
      | none => e
      | some i => (e.1, { e.2 with counts := (upTo 256 0).map (fun n => (n, nthD 0 i.2 n)) })) }
/-- The chain FIFOs of a cluster without the lines that drains of a core pushed (R192). -/
def Cluster.without (c : Nat) (ids : List Nat) (z : Cluster) : Cluster :=
  { z with fifos := z.fifos.map (fun e => (e.1, e.2.without c ids)) }

theorem State.setCore_modCore (s : State) (c : Nat) (f : Core → Core) (k : Core) :
    (s.modCore c f).setCore c k = s.setCore c k := by
  simp [State.modCore]

/-- The read ports of a context are scheduled to fetch again. -/
def State.fetchAgain (s : State) (c x : Nat) : State :=
  (upTo 6 0).foldl (fun t n => if ((t.core c).port n).holder = some x then t.schedule t.cyc (.readPortFetch c n) else t) s

theorem State.later_fetchAgain (s : State) (c x : Nat) : Later s (s.fetchAgain c x) :=
  .foldl (fun t _ => .ite (.schedule _ _ _) (.refl t)) _ _

theorem State.finishRewind_eq {s t : State} {c x : Nat} {r : Rewind} {q : Checkpoint} (ht : s.rewindKnots c x = t)
    (hr : (t.ctx c x).rewind = some r) (hq : (t.ctx c x).ckpt = some q) :
    s.finishRewind c x = ((t.setCore c ((t.core c).rewound x r q)).modCluster (clusterOf c)
      (Cluster.without c (t.ctx c x).segDrains)).fetchAgain c x := by
  subst ht
  unfold State.ctx at hr hq
  unfold State.finishRewind
  extract_lets t k v
  split
  case h_1 r' q' hr' hq' =>
    obtain rfl : r' = r := Option.some.inj (hr'.symm.trans hr)
    obtain rfl : q' = q := Option.some.inj (hq'.symm.trans hq)
    rfl
  case h_2 hno => exact absurd hq (hno r q hr)

/-- R22: a rewind ends in the restored core, and its read ports are scheduled to fetch. -/
theorem State.finishRewind_later {s : State} {c x : Nat} {r : Rewind} {q : Checkpoint} (hr : (s.ctx c x).rewind = some r)
    (hq : (s.ctx c x).ckpt = some q) : ∃ tables parity ks,
    Later ((s.modCore c (fun k => (k.withKnots x tables parity ks).rewound x r q)).modCluster (clusterOf c)
      (Cluster.without c (s.ctx c x).segDrains)) (s.finishRewind c x) := by
  obtain ⟨tables, parity, ks, hs⟩ := s.rewindKnots_eq c x
  refine ⟨tables, parity, ks, ?_⟩
  have hv : (s.rewindKnots c x).ctx c x = { s.ctx c x with ksets := ks } := by
    rw [hs, State.ctx_modCore]
    exact FMap.get_set_self ..
  have hdone := State.finishRewind_eq (s := s) rfl (by rw [hv]; exact hr) (by rw [hv]; exact hq)
  rw [hv, hs, State.core_modCore, State.setCore_modCore] at hdone
  rw [hdone]
  exact State.later_fetchAgain _ c x

theorem Ctx.rewound_preds (v : Ctx) (r : Rewind) (q : Checkpoint) :
    (v.rewound r q).p.toNat / 256 = q.preds.toNat / 256 ∧ (v.rewound r q).p.toNat % 256 = v.p.toNat % 256 := by
  have hv := v.p.isLt
  have hq := q.preds.isLt
  simp only [Ctx.rewound, putField, fieldOf, BitVec.toNat_ofNat]
  omega

variable {k : Core} {x : Nat} {r : Rewind} {q : Checkpoint}

@[simp] theorem Core.rewound_tiles : (k.rewound x r q).tiles = k.tiles := rfl
theorem Core.ctx_rewound : (k.rewound x r q).ctx x = (k.ctx x).rewound r q := FMap.get_set_self ..
theorem Core.ctx_rewound_ne {y : Nat} (h : y ≠ x) : (k.rewound x r q).ctx y = k.ctx y := FMap.get_set_ne _ _ _ _ _ h
/-- R262: what a rewind writes holds good parity. -/
theorem Core.bad_rewound {l : Nat} (h : l ∈ q.places x) : (k.rewound x r q).bad l = false := by
  simp [Core.rewound, Core.bad, Core.mend, h]
theorem Core.port_rewound (n : Nat) : (k.rewound x r q).port n = (k.port n).afterRewind x q n :=
  FMap.get_map k.ports (g := Port.afterRewind x q) rfl

theorem Port.moveTo_pos (n pos : Nat) (p : Port) : (p.moveTo n pos).pos = pos := by
  unfold Port.moveTo
  split
  · rfl
  · split <;> rfl

/-- R22: the positions of a port come back from the checkpoint, and a read port has no line left. -/
theorem Port.afterRewind_of_held {p : Port} {m : Nat} {e : PortPos} (hp : p.holder = some x)
    (he : q.ports.find? (fun e => decide (e.port = m)) = some e) :
    (p.afterRewind x q m).pos = e.pos ∧ (p.afterRewind x q m).fault = e.fault ∧
      (m < 6 → (p.afterRewind x q m).fifo = [] ∧ (p.afterRewind x q m).coming = [] ∧
        (p.afterRewind x q m).moved = e.moved ∧ (p.afterRewind x q m).done = e.done) := by
  simp only [Port.afterRewind, if_pos hp, Port.rewound, he]
  by_cases hm : m < 6
  · simp [hm, Port.moveTo]
  · simp [hm, Port.moveTo_pos]

/-- R192: no line that a discarded drain pushed is left. -/
theorem Fifo.pushers_without {c : Nat} {ids : List Nat} {f : Fifo} {i : Nat × Nat} (h : i ∈ (f.without c ids).pushers) :
    ¬(i.1 = c ∧ i.2 ∈ ids) := by
  rintro ⟨hc, hids⟩
  have hne : ids.isEmpty = false := by cases ids <;> simp_all
  simp only [Fifo.without, hne, Bool.false_eq_true, if_false, List.mem_map, List.mem_filter] at h
  obtain ⟨e, ⟨-, hkeep⟩, rfl⟩ := h
  simp [hc, hids] at hkeep

theorem Cluster.fifo_without (c : Nat) (ids : List Nat) (z : Cluster) (n : Nat) :
    (z.without c ids).fifo n = (z.fifo n).without c ids :=
  FMap.get_map z.fifos (g := fun _ => Fifo.without c ids) (by cases ids <;> rfl)

end Sys2Proof.Machine

namespace Sys2Proof
open Sys2Proof.Machine

theorem exec_rewindResume {s : State} {c x : Nat} {r : Rewind} {n : Nat} (hc : c < 192) (hx : x < 5)
    (hr : (s.ctx c x).rewind = some r) (hn : r.settled = some n) :
    exec (.rewindResume c x) s = .next (s.finishRewind c x) := by
  have hunit : ¬(Config.cores ≤ c ∨ 5 ≤ x) := not_or.mpr ⟨Nat.not_le.mpr hc, Nat.not_le.mpr hx⟩
  show onCtx c x _ = _
  simp only [onCtx, if_neg hunit, hr, hn, Option.isSome_some, if_true]

theorem locD_mem_places {x n : Nat} (q : Checkpoint) (h : n < 16) : locD x n ∈ q.places x := by
  simp only [Checkpoint.places, List.mem_append, List.mem_map, mem_upTo]
  exact .inl (.inl (.inl (.inr ⟨n, by omega, rfl⟩)))
theorem locY_mem_places {x n : Nat} (q : Checkpoint) (h : n < 8) : locY x n ∈ q.places x := by
  simp only [Checkpoint.places, List.mem_append, List.mem_map, mem_upTo]
  exact .inl (.inl (.inr ⟨n, by omega, rfl⟩))

/-- Settles O36: the state that a rewind leaves, written out, and each of its parts. -/
theorem rewindRestores : Obligations.RewindRestores := by
  intro s c x r q n hc hx hr hn hq
  refine ⟨_, exec_rewindResume hc hx hr hn, ?_⟩
  obtain ⟨tables, parity, ks, h⟩ := State.finishRewind_later hr hq
  obtain ⟨k, hk⟩ : ∃ k, k = (s.core c).withKnots x tables parity ks := ⟨_, rfl⟩
  have hctx : k.ctx x = { s.ctx c x with ksets := ks } := by rw [hk]; exact FMap.get_set_self ..
  have hother : ∀ y, y ≠ x → k.ctx y = s.ctx c y := fun y hy => by rw [hk]; exact FMap.get_set_ne _ _ _ _ _ hy
  have hports : ∀ m, k.port m = s.port c m := fun m => by rw [hk]; rfl
  have htiles : k.tiles = (s.core c).tiles := by rw [hk]; rfl
  have hcore : (s.finishRewind c x).core c = k.rewound x r q := by
    rw [h.core, hk, State.core_modCluster, State.core_modCore]
  have hx' : (s.finishRewind c x).ctx c x = (k.ctx x).rewound r q := by rw [State.ctx, hcore, Core.ctx_rewound]
  have hport : ∀ m, (s.finishRewind c x).port c m = (s.port c m).afterRewind x q m := fun m => by
    rw [State.port, hcore, Core.port_rewound, hports]
  have hcluster : (s.finishRewind c x).cluster (c / 4) = (s.cluster (c / 4)).without c (s.ctx c x).segDrains := by
    rw [h.cluster]
    exact State.cluster_setCluster ..
  refine ⟨⟨?mem, ?marks, ?cyc, ?launches, ?cores, ?ctxs, ?tiles⟩, ?_⟩
  case mem => exact h.mem
  case marks => exact h.marks
  case cyc => exact h.cyc
  case launches => exact h.launches
  case cores => exact fun d hd => by rw [h.core, State.core_modCluster, State.core_modCore_ne _ _ _ _ hd]
  case ctxs => exact fun y hy => by rw [State.ctx, hcore, Core.ctx_rewound_ne hy, hother y hy]
  case tiles => rw [hcore, Core.rewound_tiles, htiles]
  have hpreds := Ctx.rewound_preds (k.ctx x) r q
  dsimp only
  rw [hx', hcore]
  rw [hctx] at hpreds ⊢
  refine ⟨rfl, rfl, rfl, rfl, rfl, rfl, rfl, rfl, rfl, rfl, rfl, rfl, rfl, rfl, rfl, hpreds.1, hpreds.2, rfl, rfl, rfl, rfl, rfl,
    fun n hn => Core.bad_rewound (locD_mem_places q hn), fun n hn => Core.bad_rewound (locY_mem_places q hn), ?ports, ?fifos⟩
  case ports => exact fun m e hm he => by rw [hport]; exact Port.afterRewind_of_held hm he
  case fifos =>
    intro m i hi
    rw [State.fifo, hcluster, Cluster.fifo_without] at hi
    exact Fifo.pushers_without hi

end Sys2Proof
end

section
/-!
SUPPORT. Fields of words: the bits of a word with a field replaced, and the words of a packed descriptor.
-/
namespace Sys2Proof.Machine

/-- A number cut at two places. -/
theorem cut_twice (v lo len : Nat) :
    v = 2 ^ (lo + len) * (v / 2 ^ (lo + len)) + (2 ^ lo * (v / 2 ^ lo % 2 ^ len) + v % 2 ^ lo) := by
  have h1 := Nat.div_add_mod v (2 ^ lo)
  have h2 := Nat.div_add_mod (v / 2 ^ lo) (2 ^ len)
  rw [Nat.div_div_eq_div_mul, ← Nat.pow_add] at h2
  calc v = 2 ^ lo * (2 ^ len * (v / 2 ^ (lo + len)) + v / 2 ^ lo % 2 ^ len) + v % 2 ^ lo := by rw [h2, h1]
    _ = _ := by rw [Nat.pow_add]; ring

theorem putField_toNat_cut {n : Nat} (v : BitVec n) (lo len x : Nat) :
    v.toNat - fieldOf v lo len * 2 ^ lo + x % 2 ^ len * 2 ^ lo =
      2 ^ (lo + len) * (v.toNat / 2 ^ (lo + len)) + (2 ^ lo * (x % 2 ^ len) + v.toNat % 2 ^ lo) := by
  have hv := cut_twice v.toNat lo len
  unfold fieldOf
  rw [Nat.mul_comm (v.toNat / 2 ^ lo % 2 ^ len), Nat.mul_comm (x % 2 ^ len)]
  omega

/-- The bits of a word whose field of `len` bits at `lo` is replaced. -/
theorem getLsbD_putField {n : Nat} (v : BitVec n) (lo len x i : Nat) (hn : lo + len ≤ n) :
    (putField v lo len x).getLsbD i = if lo ≤ i ∧ i < lo + len then x.testBit (i - lo) else v.getLsbD i := by
  rw [putField, putField_toNat_cut, BitVec.getLsbD_ofNat]
  have hlow : v.toNat % 2 ^ lo < 2 ^ lo := Nat.mod_lt _ (Nat.two_pow_pos lo)
  have hfield : x % 2 ^ len < 2 ^ len := Nat.mod_lt _ (Nat.two_pow_pos len)
  have hboth : 2 ^ lo * (x % 2 ^ len) + v.toNat % 2 ^ lo < 2 ^ (lo + len) := by
    rw [Nat.pow_add]
    calc 2 ^ lo * (x % 2 ^ len) + v.toNat % 2 ^ lo < 2 ^ lo * (x % 2 ^ len + 1) := by rw [Nat.mul_succ]; omega
      _ ≤ 2 ^ lo * 2 ^ len := Nat.mul_le_mul_left _ hfield
  rw [Nat.testBit_two_pow_mul_add _ hboth, Nat.testBit_two_pow_mul_add _ hlow]
  have hbit : ∀ j, v.getLsbD j = v.toNat.testBit j := fun _ => rfl
  by_cases h1 : i < lo
  · have : i < n := by omega
    simp only [hbit]
    simp [h1, this, Nat.not_le.mpr h1, Nat.testBit_mod_two_pow, show i < lo + len by omega]
  · by_cases h2 : i < lo + len
    · have : i < n := by omega
      simp [h1, h2, this, Nat.testBit_mod_two_pow, show lo ≤ i by omega, show i - lo < len by omega]
    · have : i < n ∨ v.toNat.testBit i = false := by
        by_cases hi : i < n
        · exact .inl hi
        · exact .inr (Nat.testBit_lt_two_pow (lt_of_lt_of_le v.isLt (Nat.pow_le_pow_right (by omega) (by omega))))
      simp only [h2, if_false, and_false, Nat.testBit_div_two_pow, hbit, Nat.sub_add_cancel (Nat.not_lt.mp h2)]
      rcases this with h | h <;> simp [h]

/-- Word `i` of a descriptor as it is stored. -/
theorem extractLsb'_descrMask (d i : Nat) (hi : i < 8) :
    (BitVec.ofNat 512 (descrMask d)).extractLsb' (64 * i) 64 = levelMask i (BitVec.ofNat 64 (d / 2 ^ (64 * i))) := by
  obtain ⟨l, hl⟩ : ∃ l, l = (List.range 8).map (fun w => (levelMask w (BitVec.ofNat 64 (d / 2 ^ (64 * w)))).toNat) := ⟨_, rfl⟩
  have hlen : l.length = 8 := by simp [hl]
  have hlt := packList_lt 64 l
  rw [hlen] at hlt
  have hget : l[i]?.getD 0 = (levelMask i (BitVec.ofNat 64 (d / 2 ^ (64 * i)))).toNat := by simp [hl, hi]
  apply BitVec.eq_of_toNat_eq
  rw [BitVec.extractLsb'_toNat, BitVec.toNat_ofNat, Nat.shiftRight_eq_div_pow, descrMask, packNat_eq_packList, ← hl,
    Nat.mod_eq_of_lt hlt, packList_digit, hget, Nat.mod_eq_of_lt (BitVec.isLt _)]

end Sys2Proof.Machine
end

section
/-!
SUPPORT. Where results land (R14, R15, R89, R93, R98, R118, R119): what an entry changes before its value is written, and
its destination.
-/
namespace Sys2Proof.Machine

/-- A context as an entry finds it: its flags are raised, and a register or line written whole holds no mark (R38, R140). -/
def Ctx.prepared (v : Ctx) (e : Pending) : Ctx := (v.orFlags e.flg).overwrite e.dest e.mask
/-- A core as an entry finds it: the places it writes whole hold good parity (R262). -/
def Core.prepared (k : Core) (x : Nat) (e : Pending) : Core :=
  (k.setCtx x ((k.ctx x).prepared e)).mend (e.dest.places ((k.ctx x).prepared e).tileBase x e.mask)

/-- A context with flags raised, and with other marks of what is not yet read. -/
def Ctx.entered (v : Ctx) (f : BitVec 5) (regs : List (Nat × Mark × Nat)) (lines : List (BitVec 14 × Mark × Nat)) : Ctx :=
  { v with flags := v.flags ||| f, dirtyRegs := regs, dirtyLines := lines }
section
variable (v : Ctx) (f : BitVec 5) (regs : List (Nat × Mark × Nat)) (lines : List (BitVec 14 × Mark × Nat))
@[simp] theorem Ctx.entered_q : (v.entered f regs lines).q = v.q := rfl
@[simp] theorem Ctx.entered_d : (v.entered f regs lines).d = v.d := rfl
end

/-- What an entry does to its context before its value is written: its flags, and the marks of what it overwrites. -/
theorem Ctx.prepared_eq (v : Ctx) (e : Pending) : ∃ regs lines,
    v.prepared e = v.entered e.flg regs lines := by
  unfold Ctx.prepared Ctx.overwrite
  cases e.dest with
  | tile o =>
    by_cases h : e.mask = allLanes
    · exact ⟨_, _, if_pos h⟩
    · exact ⟨_, _, if_neg h⟩
  | _ => exact ⟨_, _, rfl⟩

/-- The state as an entry finds it. -/
def State.landStart (s : State) (c x : Nat) (e : Pending) : State := s.modCore c (fun k => k.prepared x e)

theorem Core.ctx_prepared (k : Core) (x : Nat) (e : Pending) : (k.prepared x e).ctx x = (k.ctx x).prepared e :=
  Core.ctx_setCtx ..
theorem Core.ctx_prepared_ne (k : Core) {x y : Nat} (e : Pending) (h : y ≠ x) : (k.prepared x e).ctx y = k.ctx y :=
  Core.ctx_setCtx_ne _ _ _ _ h
theorem State.landStart_eq (s : State) (c x : Nat) (e : Pending) :
    (s.modCtx c x (fun t => (t.orFlags e.flg).overwrite e.dest e.mask)).modCore c (fun k =>
      k.mend (e.dest.places (k.ctx x).tileBase x e.mask)) = s.landStart c x e := by
  rw [State.modCtx_eq_modCore, State.modCore_modCore]
  simp only [Core.ctx_setCtx]
  rfl

section
variable {s : State} {c x : Nat} {e : Pending}

theorem State.ctx_landStart : (s.landStart c x e).ctx c x = (s.ctx c x).prepared e := by
  rw [landStart, State.ctx_modCore, Core.ctx_prepared]
  rfl

/-! ## One equation for each destination -/

theorem State.land_creg {n : Nat} (h : e.dest = .creg n) :
    s.land c x e = (s.landStart c x e).modCtx c x (fun t => t.writeC n (e.val.extractLsb' 0 64)) := by
  simp only [land, ← landStart_eq, h]
theorem State.land_pred {k : Nat} (h : e.dest = .pred k) :
    s.land c x e = (s.landStart c x e).modCtx c x (fun t => t.writePair k (bitOf e.val 0) (bitOf e.val 1)) := by
  simp only [land, ← landStart_eq, h]
theorem State.land_qmask {n : Nat} (h : e.dest = .qmask n) :
    s.land c x e = (s.landStart c x e).modCtx c x (fun t => if n = 0 then t else
      { t with q := t.q.set n ((t.readQ n &&& ~~~e.mask) ||| (e.val.extractLsb' 0 32 &&& e.mask)) }) := by
  simp only [land, ← landStart_eq, h]
theorem State.land_tile {o : BitVec 14} (h : e.dest = .tile o) : s.land c x e =
    (s.landStart c x e).modCore c (fun k => k.writeLine (k.ctx x).tileBase (operandOf o) e.val e.mask) := by
  simp only [land, ← landStart_eq, h]
theorem State.land_push {n : Nat} (h : e.dest = .push n) : s.land c x e =
    ((s.landStart c x e).modCore c (fun k => k.pushPort (6 + n) e.val)).schedule s.cyc (.writePortWrite c n) := by
  simp only [land, ← landStart_eq, h]
theorem State.land_ereg {n : Nat} (h : e.dest = .ereg n) : s.land c x e =
    (s.landStart c x e).modCtx c x (fun t => { t with e := t.e.set n (e.val.extractLsb' 0 256) }) := by
  simp only [land, ← landStart_eq, h]
theorem State.land_dreg {n : Nat} (h : e.dest = .dreg n) : s.land c x e = (s.landStart c x e).modCtx c x
    (fun t => { t with d := t.d.set n (BitVec.ofNat 512 (descrMask (fieldOf e.val 0 512))) }) := by
  simp only [land, ← landStart_eq, h]
theorem State.land_dword {n w : Nat} (h : e.dest = .dword n w) : s.land c x e = (s.landStart c x e).modCtx c x
    (fun t => { t with d := t.d.set n (putField (t.readD n) (64 * w) 64 (levelMask w (e.val.extractLsb' 0 64)).toNat) }) := by
  simp only [land, ← landStart_eq, h]
theorem State.land_special {n : Nat} (h : e.dest = .special n) : s.land c x e =
    if n < 0x20 then (s.landStart c x e).modCtx c x (fun t => t.writeSpecial n (e.val.extractLsb' 0 64))
    else (s.landStart c x e).writePriv c n (e.val.extractLsb' 0 64) := by
  simp only [land, ← landStart_eq, h]
theorem State.land_sync {n : Nat} (h : e.dest = .sync n) : s.land c x e =
    (s.landStart c x e).modCtx c x (fun t => { t with
      y := t.y.set n (e.val.extractLsb' 0 64), sg := t.sg.set n (BitVec.ofNat 16 (s.genOf c (e.val.extractLsb' 0 64))) }) := by
  simp only [land, ← landStart_eq, h]
theorem State.land_flags (h : e.dest = .flags) : s.land c x e = s.landStart c x e := by
  simp only [land, ← landStart_eq, h]

/-! ## Results for a register -/

/-- A result for a register of a context changes that context alone: the flags of the entry are raised and its value is
written. -/
theorem State.land_own {f : Ctx → Ctx} (h : s.land c x e = (s.landStart c x e).modCtx c x f) :
    OnlyCtx s (s.land c x e) c x ∧ ∃ regs lines, (s.land c x e).ctx c x =
      f ((s.ctx c x).entered e.flg regs lines) := by
  obtain ⟨regs, lines, hv⟩ := (s.ctx c x).prepared_eq e
  rw [h]
  refine ⟨⟨rfl, rfl, rfl, rfl, fun d hd => ?_, fun y hy => ?_, ?_⟩, regs, lines, by rw [ctx_modCtx, ctx_landStart, hv]⟩
  · rw [core_modCtx_ne _ _ _ _ _ hd, landStart, core_modCore_ne _ _ _ _ hd]
  · rw [ctx_modCtx_ne _ _ _ _ _ _ (.inr hy), landStart, ctx_modCore, Core.ctx_prepared_ne _ _ hy]
    rfl
  · rw [State.modCtx_eq_modCore, landStart, modCore_modCore, core_modCore]
    rfl

end

/-! ## Reads after writes -/

theorem Ctx.readC_writeC (v : Ctx) (n m : Nat) (w : Word) : (v.writeC n w).readC m =
    if m = n then if n = 0 then 0 else if v.loop.active = true ∧ 56 ≤ n ∧ n ≤ 61 then v.readC n else w else v.readC m := by
  by_cases h : m = n
  · subst h
    rw [if_pos rfl, Ctx.writeC]
    by_cases h0 : m = 0
    · simp [h0, Ctx.readC]
    · by_cases hl : v.loop.active = true ∧ 56 ≤ m ∧ m ≤ 61
      · simp [h0, hl]
      · simp [h0, hl, Ctx.readC]
  · rw [if_neg h, Ctx.writeC]
    split
    · rfl
    · split
      · rfl
      · simp [Ctx.readC, FMap.get_set, h]

theorem Ctx.writePair_discards {v : Ctx} {k : Nat} (h : k = 0 ∨ v.loop.active = true ∧ 2 ≤ v.loop.stages ∧ 4 ≤ k) (b c : Bool) :
    v.writePair k b c = v := by
  unfold Ctx.writePair
  rcases h with rfl | h
  · exact if_pos rfl
  · rw [if_neg (by omega), if_pos h]
theorem Ctx.writePair_writes {v : Ctx} {k : Nat} (h : ¬(k = 0 ∨ v.loop.active = true ∧ 2 ≤ v.loop.stages ∧ 4 ≤ k)) (b c : Bool) :
    v.writePair k b c = { v with p := putField v.p (2 * k) 2 (b.toNat + 2 * c.toNat) } := by
  obtain ⟨h0, hl⟩ := not_or.mp h
  rw [writePair, if_neg h0, if_neg hl]

theorem pairBits_testBit (b c : Bool) : (b.toNat + 2 * c.toNat).testBit 0 = b ∧ (b.toNat + 2 * c.toNat).testBit 1 = c := by
  cases b <;> cases c <;> decide

/-- A write of a pair changes its two predicates alone. -/
theorem Ctx.pred_putPair (v : Ctx) {k : Nat} (hk : k < 8) (h0 : k ≠ 0) (b c : Bool) :
    let u := { v with p := putField v.p (2 * k) 2 (b.toNat + 2 * c.toNat) }
    u.pred (2 * k) = b ∧ u.pred (2 * k + 1) = c ∧ ∀ m, m / 2 ≠ k → u.pred m = v.pred m := by
  obtain ⟨hb, hc⟩ := pairBits_testBit b c
  have hbit : ∀ i, (putField v.p (2 * k) 2 (b.toNat + 2 * c.toNat)).getLsbD i = _ :=
    fun i => getLsbD_putField v.p (2 * k) 2 _ i (by omega)
  simp only [Ctx.pred, bitOf_eq_getLsbD, hbit]
  refine ⟨?_, ?_, fun m hm => ?_⟩
  · rw [if_neg (by omega), if_neg (by omega), if_pos (by omega), Nat.sub_self, hb]
  · rw [if_neg (by omega), if_neg (by omega), if_pos (by omega), Nat.add_sub_cancel_left, hc]
  · rw [if_neg (show ¬(2 * k ≤ m ∧ m < 2 * k + 2) by omega)]

/-- Word `i` of a descriptor of which word `w` is written. -/
theorem extractLsb'_putField (d : Descr) {w i : Nat} (x : Word) (hw : w < 8) :
    (putField d (64 * w) 64 x.toNat).extractLsb' (64 * i) 64 = if i = w then x else d.extractLsb' (64 * i) 64 := by
  apply BitVec.eq_of_getLsbD_eq
  intro b hb
  rw [BitVec.getLsbD_extractLsb', getLsbD_putField d (64 * w) 64 _ _ (by omega)]
  by_cases h : i = w
  · subst h
    rw [if_pos (by omega), if_pos rfl, Nat.add_sub_cancel_left, decide_eq_true hb]
    rfl
  · rw [if_neg (by omega), if_neg h, BitVec.getLsbD_extractLsb']

/-- Word `i` of the descriptor in a line. -/
theorem ofNat_fieldOf_descriptor (v : Line) {i : Nat} (hi : i < 8) :
    BitVec.ofNat 64 (fieldOf v 0 512 / 2 ^ (64 * i)) = v.extractLsb' (64 * i) 64 := by
  apply BitVec.eq_of_getLsbD_eq
  intro b hb
  rw [BitVec.getLsbD_ofNat, BitVec.getLsbD_extractLsb', fieldOf_zero, Nat.testBit_div_two_pow, Nat.testBit_mod_two_pow,
    Nat.add_comm b, decide_eq_true (show 64 * i + b < 512 by omega), Bool.true_and]
  rfl

theorem levelMask_eq (w : Nat) (v : Word) : levelMask w v = if w < 3 then v else v &&& 0xFFFFFFFFFFFF := by
  unfold levelMask
  by_cases h : w < 3
  · rw [if_neg (by omega), if_pos h]
  · rw [if_pos (by omega), if_neg h]

end Sys2Proof.Machine

namespace Sys2Proof
open Sys2Proof.Machine

theorem registerResultsLand : RegisterResultsLand := by
  intro s c x e
  refine ⟨fun n h => ?creg, fun k h hk => ?pred, fun n h => ?qmask, fun n h => ?ereg, fun n h => ?dreg, fun n w h hw => ?dword,
    fun n h => ?sync⟩
  case creg =>
    obtain ⟨honly, regs, lines, hu⟩ := State.land_own (State.land_creg h)
    refine ⟨honly, ?_⟩
    rw [hu]
    exact ⟨Ctx.writeC_flags .., Ctx.writeC_p .., Ctx.writeC_pc .., Ctx.writeC_pwq ..,
      fun m hm => (Ctx.readC_writeC ..).trans (if_neg hm), (Ctx.readC_writeC ..).trans (if_pos rfl)⟩
  case pred =>
    obtain ⟨honly, regs, lines, hu⟩ := State.land_own (State.land_pred h)
    refine ⟨honly, ?_⟩
    rw [hu]
    by_cases hd : k = 0 ∨ (s.ctx c x).loop.active = true ∧ 2 ≤ (s.ctx c x).loop.stages ∧ 4 ≤ k
    · rw [Ctx.writePair_discards (by exact hd), if_pos hd]
      exact ⟨rfl, rfl, fun _ _ => rfl, rfl⟩
    · rw [Ctx.writePair_writes (by exact hd), if_neg hd]
      obtain ⟨heven, hodd, hother⟩ := Ctx.pred_putPair
        ((s.ctx c x).entered e.flg regs lines) hk
        (mt Or.inl hd) (bitOf e.val 0) (bitOf e.val 1)
      exact ⟨rfl, rfl, hother, heven, hodd⟩
  case qmask =>
    obtain ⟨honly, regs, lines, hu⟩ := State.land_own (State.land_qmask h)
    refine ⟨honly, ?_⟩
    by_cases h0 : n = 0
    · subst h0
      rw [hu.trans (if_pos rfl)]
      refine ⟨rfl, rfl, fun _ _ => rfl, fun i hi => ?_⟩
      simp only [Ctx.readQ, if_true, BitVec.getLsbD_allOnes, decide_eq_true hi]
    · rw [hu.trans (if_neg h0)]
      refine ⟨rfl, rfl, fun m hm => ?_, fun i hi => ?_⟩
      · simp [Ctx.readQ, FMap.get_set, hm]
      · simp only [Ctx.readQ, if_neg h0, FMap.get_set_self, BitVec.getLsbD_or, BitVec.getLsbD_and, BitVec.getLsbD_not,
          BitVec.getLsbD_extractLsb', hi, decide_true, Bool.true_and, Nat.zero_add]
        cases e.mask.getLsbD i <;> simp
  case ereg =>
    obtain ⟨honly, regs, lines, hu⟩ := State.land_own (State.land_ereg h)
    refine ⟨honly, ?_⟩
    rw [hu]
    exact ⟨rfl, FMap.get_set_self .., fun m hm => FMap.get_set_ne _ _ _ _ _ hm⟩
  case dreg =>
    obtain ⟨honly, regs, lines, hu⟩ := State.land_own (State.land_dreg h)
    refine ⟨honly, ?_⟩
    rw [hu]
    refine ⟨rfl, fun m hm => FMap.get_set_ne _ _ _ _ _ hm, fun i hi => ?_⟩
    simp only [Ctx.readD, FMap.get_set_self, extractLsb'_descrMask _ i hi, levelMask_eq, ofNat_fieldOf_descriptor _ hi]
  case dword =>
    obtain ⟨honly, regs, lines, hu⟩ := State.land_own (State.land_dword h)
    refine ⟨honly, ?_⟩
    rw [hu]
    refine ⟨rfl, fun m hm => FMap.get_set_ne _ _ _ _ _ hm, fun i hi => ?_⟩
    simp only [Ctx.readD, FMap.get_set_self, Ctx.entered_d, extractLsb'_putField _ _ hw, levelMask_eq]
  case sync =>
    obtain ⟨honly, regs, lines, hu⟩ := State.land_own (State.land_sync h)
    refine ⟨honly, ?_⟩
    rw [hu]
    refine ⟨rfl, FMap.get_set_self .., ?_, fun m hm => FMap.get_set_ne _ _ _ _ _ hm⟩
    simp [Ctx.readSg]

end Sys2Proof
end

section
/-!
SUPPORT. Tile lines (R75, R118): the words of a tile that a write of a row, a column or a diagonal changes.
-/
namespace Sys2Proof.Machine

/-- Word `l` of row `r` of a tile. -/
def Core.tileWord (k : Core) (b r l : Nat) : Lane := laneOf (k.tileRow b r) l

theorem Core.tileRow_setTileRow (k : Core) {B R b r : Nat} (v : Line) (hR : R < 32) (hr : r < 32) :
    (k.setTileRow B R v).tileRow b r = if b = B ∧ r = R then v else k.tileRow b r := by
  simp only [Core.tileRow, Core.setTileRow, FMap.get_set]
  by_cases h : b = B ∧ r = R
  · rw [if_pos h, if_pos (by omega)]
  · rw [if_neg h, if_neg (by omega)]
theorem Core.tileWord_putLane (k : Core) {B R L b r l : Nat} (x : Lane) (hR : R < 32) (hr : r < 32) (hl : l < 32) :
    (k.setTileRow B R (putLane (k.tileRow B R) L x)).tileWord b r l =
      if b = B ∧ (R, L) = (r, l) then x else k.tileWord b r l := by
  rw [Core.tileWord, Core.tileRow_setTileRow _ _ hR hr]
  by_cases h : b = B ∧ r = R
  · obtain ⟨rfl, rfl⟩ := h
    rw [if_pos ⟨rfl, rfl⟩, putLane, laneOf_lineOf _ _ hl]
    by_cases hL : l = L
    · simp [hL]
    · simp [hL, Ne.symm hL, Core.tileWord]
  · rw [if_neg h, if_neg fun h' => h ⟨h'.1, (Prod.mk.inj h'.2).1.symm⟩]
    rfl

/-- The lanes of a tile line lie in its tile, each in a place of its own. -/
structure Operand.IsLine (o : Operand) (t : Nat) : Prop where
  tile : o.tile? = some t
  row : ∀ i, i < 32 → (laneRow o i).1 < 32
  word : ∀ i, i < 32 → (laneRow o i).2 < 32
  inj : ∀ i j, laneRow o i = laneRow o j → i = j

theorem Operand.isLine_row {t n : Nat} (h : n < 32) : (Operand.row t n).IsLine t :=
  ⟨rfl, fun _ _ => h, fun _ hi => hi, fun _ _ hij => (Prod.mk.inj hij).2⟩
theorem Operand.isLine_col {t n : Nat} (h : n < 32) : (Operand.col t n).IsLine t :=
  ⟨rfl, fun _ hi => hi, fun _ _ => h, fun _ _ hij => (Prod.mk.inj hij).1⟩
theorem Operand.isLine_diag {t n : Nat} : (Operand.diag t n).IsLine t :=
  ⟨rfl, fun _ hi => hi, fun i _ => Nat.mod_lt (i + n) (by decide), fun _ _ hij => (Prod.mk.inj hij).1⟩

variable {o : Operand} {t : Nat} (ho : o.IsLine t) (base : Nat) (v : Line) (mask : BitVec 32)
include ho

/-- One lane of a tile line written. -/
theorem Core.tileWord_writeLane (k : Core) {i b r l : Nat} (hi : i < 32) (hr : r < 32) (hl : l < 32) :
    (if bitOf mask i then k.setTileRow (base + t) (laneRow o i).1
      (putLane (k.tileRow (base + t) (laneRow o i).1) (laneRow o i).2 (laneOf v i)) else k).tileWord b r l =
      if b = base + t ∧ laneRow o i = (r, l) ∧ bitOf mask i = true then laneOf v i else k.tileWord b r l := by
  by_cases hm : bitOf mask i = true
  · rw [if_pos hm, Core.tileWord_putLane _ _ (ho.row i hi) hr hl]
    simp [hm]
  · rw [if_neg hm, if_neg fun h => hm h.2.2]

/-- Lanes written one by one leave every other word. -/
theorem Core.tileWord_writeLanes_ne {b r l : Nat} (hr : r < 32) (hl : l < 32) (n i : Nat) (k : Core) (hn : i + n ≤ 32)
    (hne : b = base + t → ∀ j, i ≤ j → j < i + n → laneRow o j ≠ (r, l)) :
    (Core.writeLanes base o v mask n i k).tileWord b r l = k.tileWord b r l := by
  induction n generalizing i k with
  | zero => rfl
  | succ n ih =>
    simp only [Core.writeLanes, ho.tile]
    rw [ih (i + 1) _ (by omega) fun hb j hj hj' => hne hb j (by omega) (by omega),
      Core.tileWord_writeLane ho base v mask k (by omega) hr hl,
      if_neg fun h => hne h.1 i (le_refl i) (by omega) h.2.1]
/-- Lanes written one by one take the values of their mask. -/
theorem Core.tileWord_writeLanes (n i j : Nat) (k : Core) (hn : i + n ≤ 32) (hj : i ≤ j) (hj' : j < i + n) :
    (Core.writeLanes base o v mask n i k).tileWord (base + t) (laneRow o j).1 (laneRow o j).2 =
      if bitOf mask j = true then laneOf v j else k.tileWord (base + t) (laneRow o j).1 (laneRow o j).2 := by
  have hr := ho.row j (by omega)
  have hl := ho.word j (by omega)
  induction n generalizing i k with
  | zero => omega
  | succ n ih =>
    simp only [Core.writeLanes, ho.tile]
    by_cases hij : j = i
    · subst hij
      rw [Core.tileWord_writeLanes_ne ho base v mask hr hl n (j + 1) _ (by omega) fun _ m hm _ he => by
          have := ho.inj m j he
          omega,
        Core.tileWord_writeLane ho base v mask k (by omega) hr hl]
      simp
    · rw [ih (i + 1) _ (by omega) (by omega) (by omega), Core.tileWord_writeLane ho base v mask k (by omega) hr hl]
      have : ¬ laneRow o i = ((laneRow o j).1, (laneRow o j).2) := fun h => hij (ho.inj i j h).symm
      simp [this]

/-- R118: a tile line written takes the lanes of the mask. -/
theorem Core.tileWord_writeLine (k : Core) {j : Nat} (hj : j < 32) :
    (k.writeLine base o v mask).tileWord (base + t) (laneRow o j).1 (laneRow o j).2 =
      if bitOf mask j = true then laneOf v j else k.tileWord (base + t) (laneRow o j).1 (laneRow o j).2 := by
  have hlanes := Core.tileWord_writeLanes ho base v mask 32 0 j k (by omega) (by omega) (by omega)
  obtain ⟨ht, hrow, -, -⟩ := ho
  cases o with
  | row t' n =>
    obtain rfl : t' = t := Option.some.inj ht
    have hn : n < 32 := hrow 0 (by omega)
    show laneOf ((k.setTileRow _ _ _).tileRow _ n) j = _
    rw [Core.tileRow_setTileRow _ _ hn hn, if_pos ⟨rfl, rfl⟩, laneOf_mergeLanes _ _ _ _ hj]
    rfl
  | col _ _ => exact hlanes
  | diag _ _ => exact hlanes
  | _ => cases ht
/-- R118: a tile line written leaves every word outside the line. -/
theorem Core.tileWord_writeLine_ne (k : Core) {b r l : Nat} (hr : r < 32) (hl : l < 32)
    (hne : b = base + t → ∀ j, j < 32 → laneRow o j ≠ (r, l)) :
    (k.writeLine base o v mask).tileWord b r l = k.tileWord b r l := by
  have hlanes := Core.tileWord_writeLanes_ne ho base v mask hr hl 32 0 k (by omega) fun hb j _ hj => hne hb j (by omega)
  obtain ⟨ht, hrow, -, -⟩ := ho
  cases o with
  | row t' n =>
    obtain rfl : t' = t := Option.some.inj ht
    have hn : n < 32 := hrow 0 (by omega)
    show laneOf ((k.setTileRow _ _ _).tileRow b r) l = _
    rw [Core.tileRow_setTileRow _ _ hn hr, if_neg fun h => hne h.1 l hl (by rw [h.2]; rfl)]
    rfl
  | col _ _ => exact hlanes
  | diag _ _ => exact hlanes
  | _ => cases ht

end Sys2Proof.Machine
end

section
/-!
SUPPORT. Results for special registers (R54, R116, R248, R252, R268).
-/
namespace Sys2Proof.Machine

theorem extractLsb'_setWidth (w : Word) : (w.setWidth 1024).extractLsb' 0 64 = w := by
  apply BitVec.eq_of_getLsbD_eq
  intro i hi
  have : i < 1024 := by omega
  simp [hi, this]

/-- An entry for a special register. -/
def specialEntry (n : Nat) (w : Word) : Pending :=
  { dest := .special n, val := w.setWidth 1024, mask := BitVec.allOnes 32, rem := 1, flg := 0, mark := .clean, addr := 0 }

variable {s : State} {c x : Nat} {w : Word}

theorem State.land_user {n : Nat} (h : n < 0x20) : s.land c x (specialEntry n w) =
    (s.landStart c x (specialEntry n w)).modCtx c x (fun t => t.writeSpecial n w) := by
  rw [State.land_special rfl, if_pos h, specialEntry, extractLsb'_setWidth]
theorem State.land_priv {n : Nat} (h : ¬ n < 0x20) : s.land c x (specialEntry n w) =
    (s.landStart c x (specialEntry n w)).writePriv c n w := by
  rw [State.land_special rfl, if_neg h, specialEntry, extractLsb'_setWidth]

theorem Ctx.writeSpecial_c (v : Ctx) (n : Nat) (w : Word) : (v.writeSpecial n w).c = v.c := by
  unfold Ctx.writeSpecial
  repeat' split
  all_goals rfl

theorem State.landStart_core {e : Pending} : ((s.landStart c x e).core c) = (s.core c).prepared x e := by
  rw [landStart, core_modCore]

theorem Core.prepared_status (k : Core) (x y : Nat) (e : Pending) : ((k.prepared x e).ctx y).status = (k.ctx y).status := by
  by_cases h : y = x
  · subst h
    obtain ⟨regs, lines, hv⟩ := (k.ctx y).prepared_eq e
    rw [Core.ctx_prepared, hv]
    rfl
  · rw [Core.ctx_prepared_ne _ _ h]

/-! ## Layers that power on -/

theorem State.later_powerLayer (c : Nat) (s : State) (layer : Nat) : Later s (s.powerLayer c layer) :=
  .ite (.refl s) (.schedule _ _ _)
theorem State.later_powerBanks (s : State) (c : Nat) (banks : List Nat) : Later s (s.powerBanks c banks) :=
  .foldl (later_powerLayer c) _ _

/-! ## Privileged registers -/

theorem State.writePriv_trapinfo : s.writePriv c 0x20 w = s.modCore c Core.dismiss := rfl
theorem State.writePriv_snap :
    Later (s.modCore c (fun k => { k with snap := snapMask w })) (s.writePriv c 0x24 w) := later_powerBanks ..
theorem State.writePriv_inj : s.writePriv c 0x25 w = s.modCore c (fun k => { k with inj := injMask w }) := rfl
theorem State.writePriv_troot : s.writePriv c 0x26 w = s.setPart (s.cluster (clusterOf c)).part
    { s.partOf (s.cluster (clusterOf c)).part with troot := trootMask w } := rfl
theorem State.writePriv_dbg : Later (s.modCore c (fun k => k.writeDbg w)) (s.writePriv c 0x28 w) := by
  show Later (s.modCore c (fun k => k.writeDbg w))
    (if bitOf ((s.modCore c (fun k => k.writeDbg w)).core c).dbg.control 9 then
      (s.modCore c (fun k => k.writeDbg w)).powerBanks c _ else s.modCore c (fun k => k.writeDbg w))
  exact .ite (later_powerBanks ..) (.refl _)
theorem State.writePriv_dthr : s.writePriv c 0x29 w = s.modCore c (fun k => { k with dthr := w &&& 0xFFFFFF }) := rfl

theorem Core.currentCtx_eq_some {k : Core} {y : Nat} (hy : y < 4) (hc : (k.ctx y).status = .current)
    (hfirst : ∀ z, z < y → (k.ctx z).status ≠ .current) : k.currentCtx = some y :=
  findFrom_eq_some.mpr ⟨Nat.zero_le y, by omega, decide_eq_true hc, fun z _ hz => decide_eq_false (hfirst z hz)⟩
/-- R252: the current trap is gone. -/
theorem Core.dismiss_trap (k : Core) :
    k.dismiss.trapinfo = 0 ∧ k.dismiss.tpc = 0 ∧ k.dismiss.tslot = 0 ∧ k.dismiss.tval = 0 := by
  unfold Core.dismiss
  split <;> exact ⟨rfl, rfl, rfl, rfl⟩
theorem Core.dismiss_some {k : Core} {y : Nat} (h : k.currentCtx = some y) :
    k.dismiss = (k.setCtx y { k.ctx y with status := .parked }).clearTrap := by simp only [dismiss, h]
theorem Core.ctx_dismiss {k : Core} {y : Nat} (h : k.currentCtx = some y) :
    k.dismiss.ctx y = { k.ctx y with status := .parked } := by
  rw [dismiss_some h]
  exact Core.ctx_setCtx ..
theorem Core.ctx_dismiss_ne {k : Core} {y z : Nat} (h : k.currentCtx = some y) (hz : z ≠ y) :
    k.dismiss.ctx z = k.ctx z := by
  rw [dismiss_some h]
  exact Core.ctx_setCtx_ne _ _ _ _ hz

theorem Core.writeDbg_control {k : Core} (h : fieldOf w 60 4 = 0) : k.writeDbg w =
    { k with dbg := { k.dbg with control := w &&& 0xFFF, sel := 0 },
             tcnt := if w.getLsbD 9 = true ∧ k.dbg.control.getLsbD 9 = false then 0 else k.tcnt } := by
  have hbit : (w &&& 0xFFF).getLsbD 9 = w.getLsbD 9 := by simp
  simp only [Core.writeDbg, h, dbgPayload, if_true, bitOf_eq_getLsbD, hbit]
  simp
theorem Core.writeDbg_breakpoint {k : Core} (h : 1 ≤ fieldOf w 60 4) (h8 : fieldOf w 60 4 ≤ 8) : k.writeDbg w = { k with
    dbg := { k.dbg with breakpoints := k.dbg.breakpoints.set (fieldOf w 60 4 - 1) (w &&& 0x1FFFFF), sel := fieldOf w 60 4 } } := by
  simp only [Core.writeDbg, dbgPayload, if_neg (show ¬ fieldOf w 60 4 = 0 by omega), if_pos h8]
theorem Core.writeDbg_watch {k : Core} (h : 9 ≤ fieldOf w 60 4) (h12 : fieldOf w 60 4 ≤ 12) : k.writeDbg w = { k with
    dbg := { k.dbg with watches := k.dbg.watches.set (fieldOf w 60 4 - 9) (w &&& 0x3FFFFFFFFFF), sel := fieldOf w 60 4 } } := by
  simp only [Core.writeDbg, dbgPayload, if_neg (show ¬ fieldOf w 60 4 = 0 by omega),
    if_neg (show ¬ fieldOf w 60 4 ≤ 8 by omega), if_pos h12]
theorem Core.writeDbg_none {k : Core} (h : 12 < fieldOf w 60 4) : k.writeDbg w = k := by
  simp only [Core.writeDbg, if_neg (show ¬ fieldOf w 60 4 = 0 by omega),
    if_neg (show ¬ fieldOf w 60 4 ≤ 8 by omega), if_neg (show ¬ fieldOf w 60 4 ≤ 12 by omega)]

theorem fieldOf_60 (w : Word) : fieldOf w 60 4 = w.toNat / 2 ^ 60 := by
  have := w.isLt
  unfold fieldOf
  omega

end Sys2Proof.Machine

namespace Sys2Proof
open Sys2Proof.Machine

/-- What a write to a user register leaves: that context alone changes, as `writeSpecial` says. -/
theorem land_user_own (s : State) (c x : Nat) (w : Word) {n : Nat} (h : n < 0x20) :
    OnlyCtx s (s.land c x (specialEntry n w)) c x ∧
      ∃ regs lines, (s.land c x (specialEntry n w)).ctx c x = ((s.ctx c x).entered 0 regs lines).writeSpecial n w :=
  State.land_own (State.land_user h)

theorem specialResultsLand : SpecialResultsLand := by
  intro s c x w
  have huser := fun n h => land_user_own s c x w (n := n) h
  have hstart : ∀ n, (s.landStart c x (specialEntry n w)).core c = (s.core c).prepared x (specialEntry n w) :=
    fun _ => State.landStart_core
  refine ⟨?flags, ?escn, ?drift, ?yptr, ?tmask, ?pwin, ?only, ?snap, ?inj, ?dthr, ?troot, ?trapinfo, ?dbg⟩
  case flags => obtain ⟨-, regs, lines, hu⟩ := huser 0x07 (by decide); exact congrArg Ctx.flags hu
  case escn => obtain ⟨-, regs, lines, hu⟩ := huser 0x08 (by decide); exact congrArg Ctx.escn hu
  case drift => obtain ⟨-, regs, lines, hu⟩ := huser 0x0B (by decide); exact congrArg Ctx.drift hu
  case yptr =>
    obtain ⟨-, regs, lines, hu⟩ := huser 0x0E (by decide)
    exact (congrArg Ctx.yptr hu).trans (fieldOf_zero w 3)
  case tmask => obtain ⟨-, regs, lines, hu⟩ := huser 0x0F (by decide); exact congrArg Ctx.tmask hu
  case pwin =>
    obtain ⟨-, regs, lines, hu⟩ := huser 0x10 (by decide)
    refine (congrArg Ctx.pwin hu).trans (show (if 128 < w.toNat then 128 else w.toNat) = min w.toNat 128 from ?_)
    split <;> omega
  case only =>
    intro n hn
    have hlt : n < 0x20 := by
      simp only [List.mem_cons, List.not_mem_nil, or_false] at hn
      omega
    obtain ⟨honly, regs, lines, hu⟩ := huser n hlt
    exact ⟨honly, (congrArg Ctx.c hu).trans (Ctx.writeSpecial_c ..)⟩
  case snap =>
    beta_reduce
    rw [← specialEntry, State.land_priv (by decide), State.writePriv_snap.core, State.core_modCore]
    rfl
  case inj =>
    beta_reduce
    rw [← specialEntry, State.land_priv (by decide), State.writePriv_inj, State.core_modCore]
    rfl
  case dthr =>
    beta_reduce
    rw [← specialEntry, State.land_priv (by decide), State.writePriv_dthr, State.core_modCore]
  case troot =>
    beta_reduce
    rw [← specialEntry, State.land_priv (by decide), State.writePriv_troot]
    exact congrArg Part.troot (FMap.get_set_self ..)
  case trapinfo =>
    beta_reduce
    rw [← specialEntry, State.land_priv (by decide), State.writePriv_trapinfo, State.core_modCore, hstart]
    obtain ⟨hinfo, hpc, hslot, hval⟩ := ((s.core c).prepared x (specialEntry 0x20 w)).dismiss_trap
    refine ⟨hinfo, hpc, hslot, hval, fun y hy hcur hfirst => ?_⟩
    have hstatus : ∀ z, (((s.core c).prepared x (specialEntry 0x20 w)).ctx z).status = (s.ctx c z).status :=
      fun z => Core.prepared_status ..
    have hsome := Core.currentCtx_eq_some hy ((hstatus y).trans hcur) fun z hz => by rw [hstatus]; exact hfirst z hz
    exact ⟨by rw [Core.ctx_dismiss hsome], fun z hz => by rw [Core.ctx_dismiss_ne hsome hz, hstatus]⟩
  case dbg =>
    beta_reduce
    rw [← specialEntry, State.land_priv (by decide), State.writePriv_dbg.core, State.core_modCore, hstart, ← fieldOf_60]
    refine ⟨fun h => ?_, fun h h8 => ?_, fun h h12 => ?_, fun h => ?_⟩
    · rw [Core.writeDbg_control h]
      exact ⟨rfl, rfl⟩
    · rw [Core.writeDbg_breakpoint h h8]
      exact ⟨rfl, rfl⟩
    · rw [Core.writeDbg_watch h h12]
      exact ⟨rfl, rfl⟩
    · rw [Core.writeDbg_none h]
      rfl

end Sys2Proof
end

section
/-!
SUPPORT. Results that land in write ports and tiles, and the boundary in front of a bundle (R14, R15, R38, R63, R118,
R119, R188).
-/
namespace Sys2Proof.Machine

/-! ## What no result changes -/

/-- What a result leaves: memory, the cycle, and of its context the pending results, the loop and, unless it is a result
for one of them, the c registers. -/
structure State.LandFrame (s t : State) (c x : Nat) (d : Dest) : Prop where
  mem : t.mem = s.mem
  cyc : t.cyc = s.cyc
  pwq : (t.ctx c x).pwq = (s.ctx c x).pwq
  loop : (t.ctx c x).loop = (s.ctx c x).loop
  regs : (∀ n, d ≠ .creg n) → (t.ctx c x).c = (s.ctx c x).c

section
variable {s : State} {c x : Nat} {e : Pending}

/-- A result for a register of its context. -/
theorem State.landFrame_own {f : Ctx → Ctx} (h : s.land c x e = (s.landStart c x e).modCtx c x f)
    (hpwq : ∀ v, (f v).pwq = v.pwq) (hloop : ∀ v, (f v).loop = v.loop)
    (hc : (∀ n, e.dest ≠ .creg n) → ∀ v, (f v).c = v.c) : s.LandFrame (s.land c x e) c x e.dest := by
  obtain ⟨-, regs, lines, hu⟩ := land_own h
  exact ⟨by rw [h]; rfl, by rw [h]; rfl, by rw [hu, hpwq]; rfl, by rw [hu, hloop]; rfl, fun hd => by rw [hu, hc hd]; rfl⟩
/-- A result that leaves its context as `prepared` does, but for its status. -/
theorem State.landFrame_core {t : State} (hmem : t.mem = s.mem) (hcyc : t.cyc = s.cyc) {st : Status}
    (hctx : t.ctx c x = { (s.ctx c x).prepared e with status := st }) : s.LandFrame t c x e.dest := by
  obtain ⟨regs, lines, hv⟩ := (s.ctx c x).prepared_eq e
  rw [hv] at hctx
  exact ⟨hmem, hcyc, by rw [hctx]; rfl, by rw [hctx]; rfl, fun _ => by rw [hctx]; rfl⟩

theorem Ctx.writeSpecial_pwq (v : Ctx) (n : Nat) (w : Word) :
    (v.writeSpecial n w).pwq = v.pwq ∧ (v.writeSpecial n w).loop = v.loop := by
  unfold Ctx.writeSpecial
  repeat' split
  all_goals exact ⟨rfl, rfl⟩

theorem Core.writeLanes_ctxs (base : Nat) (o : Operand) (v : Line) (mask : BitVec 32) (n i : Nat) (k : Core) :
    (Core.writeLanes base o v mask n i k).ctxs = k.ctxs ∧ (Core.writeLanes base o v mask n i k).ports = k.ports := by
  induction n generalizing i k with
  | zero => exact ⟨rfl, rfl⟩
  | succ n ih =>
    simp only [Core.writeLanes]
    split
    · exact ⟨rfl, rfl⟩
    · obtain ⟨hctxs, hports⟩ := ih (i + 1) (if bitOf mask i then
        k.setTileRow (base + _) (laneRow o i).1 (putLane (k.tileRow (base + _) (laneRow o i).1) (laneRow o i).2 (laneOf v i)) else k)
      refine ⟨hctxs.trans ?_, hports.trans ?_⟩ <;> split <;> rfl
theorem Core.ctx_writeLine (k : Core) (base : Nat) (o : Operand) (v : Line) (mask : BitVec 32) (x : Nat) :
    (k.writeLine base o v mask).ctx x = k.ctx x := by
  have h : (k.writeLine base o v mask).ctxs = k.ctxs := by
    cases o with
    | col t n => exact (Core.writeLanes_ctxs ..).1
    | diag t n => exact (Core.writeLanes_ctxs ..).1
    | _ => rfl
  rw [Core.ctx, h]
  rfl

theorem Core.dismiss_ctx (k : Core) (x : Nat) : ∃ st, k.dismiss.ctx x = { k.ctx x with status := st } := by
  cases hk : k.currentCtx with
  | none => exact ⟨_, by rw [dismiss, hk]; rfl⟩
  | some y =>
    by_cases h : x = y
    · subst h
      exact ⟨_, Core.ctx_dismiss hk⟩
    · exact ⟨_, Core.ctx_dismiss_ne hk h⟩
theorem Core.writeDbg_ctx (k : Core) (w : Word) (x : Nat) : (k.writeDbg w).ctx x = k.ctx x := by
  have h : (k.writeDbg w).ctxs = k.ctxs := by
    unfold Core.writeDbg
    dsimp only
    repeat' split
    all_goals rfl
  rw [Core.ctx, h]
  rfl

/-- A write to a privileged register leaves memory and, but for the end of a trap, every context. -/
theorem State.writePriv_frame (s : State) (c n : Nat) (w : Word) (x : Nat) :
    (s.writePriv c n w).mem = s.mem ∧ (s.writePriv c n w).cyc = s.cyc ∧
      ∃ st, (s.writePriv c n w).ctx c x = { s.ctx c x with status := st } := by
  by_cases h20 : n = 0x20
  · subst h20
    obtain ⟨st, hst⟩ := (s.core c).dismiss_ctx x
    exact ⟨rfl, rfl, st, by rw [writePriv_trapinfo, ctx_modCore, hst]; rfl⟩
  by_cases h24 : n = 0x24
  · subst h24
    have h := writePriv_snap (s := s) (c := c) (w := w)
    exact ⟨h.mem, h.cyc, _, by rw [h.ctx, ctx_modCore]; rfl⟩
  by_cases h25 : n = 0x25
  · subst h25
    exact ⟨rfl, rfl, _, by rw [writePriv_inj, ctx_modCore]; rfl⟩
  by_cases h26 : n = 0x26
  · subst h26
    exact ⟨rfl, rfl, _, rfl⟩
  by_cases h28 : n = 0x28
  · subst h28
    have h := writePriv_dbg (s := s) (c := c) (w := w)
    exact ⟨h.mem, h.cyc, _, by rw [h.ctx, ctx_modCore, Core.writeDbg_ctx]; rfl⟩
  by_cases h29 : n = 0x29
  · subst h29
    exact ⟨rfl, rfl, _, by rw [writePriv_dthr, ctx_modCore]; rfl⟩
  have hnone : s.writePriv c n w = s := by
    simp only [writePriv, if_neg h20, if_neg h24, if_neg h25, if_neg h26, if_neg h28, if_neg h29]
  exact ⟨by rw [hnone], by rw [hnone], _, by rw [hnone]⟩

theorem State.landFrame (s : State) (c x : Nat) (e : Pending) : s.LandFrame (s.land c x e) c x e.dest := by
  cases h : e.dest with
  | creg n =>
    exact h ▸ landFrame_own (land_creg h) (fun v => Ctx.writeC_pwq ..) (fun v => Ctx.writeC_loop ..) (fun hd => absurd h (hd n))
  | pred k =>
    exact h ▸ landFrame_own (land_pred h) (fun v => Ctx.writePair_pwq ..) (fun v => Ctx.writePair_loop ..)
      (fun _ v => Ctx.writePair_c ..)
  | qmask n =>
    exact h ▸ landFrame_own (land_qmask h) (fun v => by split <;> rfl) (fun v => by split <;> rfl)
      (fun _ v => by split <;> rfl)
  | tile o =>
    rw [← h, land_tile h]
    refine landFrame_core rfl rfl (st := ((s.ctx c x).prepared e).status) ?_
    rw [ctx_modCore, Core.ctx_writeLine]
    exact ctx_landStart
  | push n =>
    rw [← h, land_push h]
    refine landFrame_core rfl rfl (st := ((s.ctx c x).prepared e).status) ?_
    show ((s.landStart c x e).modCore c (fun k => k.pushPort (6 + n) e.val)).ctx c x = _
    rw [ctx_modCore]
    exact ctx_landStart
  | ereg n => exact h ▸ landFrame_own (land_ereg h) (fun _ => rfl) (fun _ => rfl) (fun _ _ => rfl)
  | dreg n => exact h ▸ landFrame_own (land_dreg h) (fun _ => rfl) (fun _ => rfl) (fun _ _ => rfl)
  | dword n w => exact h ▸ landFrame_own (land_dword h) (fun _ => rfl) (fun _ => rfl) (fun _ _ => rfl)
  | sync n => exact h ▸ landFrame_own (land_sync h) (fun _ => rfl) (fun _ => rfl) (fun _ _ => rfl)
  | flags =>
    rw [← h, land_flags h]
    exact landFrame_core rfl rfl (st := ((s.ctx c x).prepared e).status) ctx_landStart
  | special n =>
    by_cases hn : n < 0x20
    · have hr := fun v => Ctx.writeSpecial_pwq v n (e.val.extractLsb' 0 64)
      exact h ▸ landFrame_own ((land_special h).trans (if_pos hn)) (fun v => (hr v).1) (fun v => (hr v).2)
        (fun _ v => Ctx.writeSpecial_c ..)
    · obtain ⟨hmem, hcyc, st, hst⟩ := (s.landStart c x e).writePriv_frame c n (e.val.extractLsb' 0 64) x
      rw [← h, (land_special h).trans (if_neg hn)]
      exact landFrame_core hmem hcyc (hst.trans (by rw [ctx_landStart]))

/-- What a result leaves in a register that a loop does not hold. -/
theorem State.readC_land {n : Nat} (hn : n ≠ 0) (hloop : (s.ctx c x).loop.active = false ∨ n < 56 ∨ 61 < n) :
    ((s.land c x e).ctx c x).readC n = if e.dest = .creg n then e.val.extractLsb' 0 64 else (s.ctx c x).readC n := by
  have hfree : ¬((s.ctx c x).loop.active = true ∧ 56 ≤ n ∧ n ≤ 61) := by
    rintro ⟨ha, h56, h61⟩
    rcases hloop with h | h | h
    · rw [h] at ha
      cases ha
    all_goals omega
  by_cases hd : ∃ m, e.dest = .creg m
  · obtain ⟨m, hm⟩ := hd
    obtain ⟨-, regs, lines, hu⟩ := State.land_own (State.land_creg hm)
    rw [hu, Ctx.readC_writeC, hm]
    by_cases hnm : n = m
    · subst hnm
      rw [if_pos rfl, if_neg hn, if_neg (by exact hfree), if_pos rfl]
    · rw [if_neg hnm, if_neg fun h => hnm (Dest.creg.inj h).symm]
      rfl
  · have hreg := not_exists.mp hd
    have hf := s.landFrame c x e
    rw [if_neg (hreg n), Ctx.readC, Ctx.readC, hf.regs hreg, hf.loop]

end

/-! ## The boundary in front of a bundle -/

/-- What entries that land one after another leave. -/
theorem landAll_frame (c x : Nat) (l : List Pending) (s : State) :
    (landAll c x l s).mem = s.mem ∧ (landAll c x l s).cyc = s.cyc ∧ ((landAll c x l s).ctx c x).pwq = (s.ctx c x).pwq := by
  induction l generalizing s with
  | nil => exact ⟨rfl, rfl, rfl⟩
  | cons e l ih =>
    obtain ⟨hmem, hcyc, hpwq⟩ := ih (s.land c x e)
    have hf := s.landFrame c x e
    exact ⟨hmem.trans hf.mem, hcyc.trans hf.cyc, hpwq.trans hf.pwq⟩
/-- Of several results for one register the last stays. -/
theorem readC_landAll {c x n : Nat} (hn : n ≠ 0) (l : List Pending) (s : State)
    (hloop : (s.ctx c x).loop.active = false ∨ n < 56 ∨ 61 < n) : ((landAll c x l s).ctx c x).readC n =
      ((l.filter (fun e => decide (e.dest = .creg n))).getLast?.map (fun e => e.val.extractLsb' 0 64)).getD
        ((s.ctx c x).readC n) := by
  induction l generalizing s with
  | nil => rfl
  | cons e l ih =>
    rw [landAll, ih (s.land c x e) (by rw [(s.landFrame c x e).loop]; exact hloop), State.readC_land hn hloop]
    by_cases he : e.dest = .creg n
    · rw [if_pos he, List.filter_cons_of_pos (by simpa using he), List.getLast?_cons]
      cases (l.filter (fun e => decide (e.dest = .creg n))).getLast? <;> rfl
    · rw [if_neg he, List.filter_cons_of_neg (by simpa using he)]

theorem State.consumeQueue_frame (s : State) (c x loc : Nat) : (s.consumeQueue c x loc).mem = s.mem ∧
    (s.consumeQueue c x loc).cyc = s.cyc ∧ ∃ d, (s.consumeQueue c x loc).ctx c x = { s.ctx c x with damage := d } := by
  unfold State.consumeQueue
  split
  · exact ⟨rfl, rfl, _, by rw [ctx_modCtx, ctx_modCore]; rfl⟩
  · exact ⟨rfl, rfl, _, rfl⟩

theorem State.ctx_core (s : State) (c x : Nat) : (s.core c).ctx x = s.ctx c x := rfl

/-- The state in which the entries due at a boundary land. -/
def State.landFront (s : State) (c x : Nat) : State :=
  (if (s.ctx c x).pwq.any Pending.due then s.consumeQueue c x (locPwq x) else s).modCtx c x (fun t =>
    { t with pwq := ((s.ctx c x).pwq.filter (fun e => !e.due)).map (fun e => { e with rem := e.rem - 1 }) })
theorem State.landDue_eq (s : State) (c x : Nat) :
    s.landDue c x = landAll c x ((s.ctx c x).pwq.filter Pending.due) (s.landFront c x) := rfl
theorem State.landFront_frame (s : State) (c x : Nat) : (s.landFront c x).mem = s.mem ∧ (s.landFront c x).cyc = s.cyc ∧
    ∃ d, (s.landFront c x).ctx c x = { s.ctx c x with
      damage := d, pwq := ((s.ctx c x).pwq.filter (fun e => !e.due)).map (fun e => { e with rem := e.rem - 1 }) } := by
  unfold State.landFront
  split
  · obtain ⟨hmem, hcyc, d, hd⟩ := s.consumeQueue_frame c x (locPwq x)
    exact ⟨hmem, hcyc, d, by rw [ctx_modCtx, hd]⟩
  · exact ⟨rfl, rfl, _, by rw [ctx_modCtx]⟩

end Sys2Proof.Machine

namespace Sys2Proof
open Sys2Proof.Machine

theorem resultsFallDue : ResultsFallDue := by
  intro s c x
  obtain ⟨hmem, hcyc, hpwq⟩ := landAll_frame c x ((s.ctx c x).pwq.filter Pending.due) (s.landFront c x)
  obtain ⟨hmem', hcyc', d, hd⟩ := s.landFront_frame c x
  have hdue : ∀ e : Pending, (!e.due) = decide (1 < e.rem) := fun e => by
    rw [Pending.due, ← decide_not, decide_eq_decide]
    omega
  dsimp only
  rw [State.landDue_eq]
  refine ⟨hpwq.trans ?_, hcyc.trans hcyc', hmem.trans hmem', fun n hloop hn => ?_⟩
  · rw [hd]
    simp only [hdue]
  · rw [readC_landAll hn _ _ (by rw [hd]; exact hloop), hd, List.filter_filter]
    have hboth : ∀ e : Pending, (decide (e.dest = .creg n) && e.due) = decide (e.rem ≤ 1 ∧ e.dest = .creg n) := fun e => by
      rw [Pending.due, Bool.and_comm, ← Bool.decide_and]
    simp only [hboth]
    cases ((s.ctx c x).pwq.filter (fun e => decide (e.rem ≤ 1 ∧ e.dest = .creg n))).getLast? <;> rfl

/-! ## Write ports and tiles -/

theorem pushesLand : PushesLand := by
  intro s c x n e h hn
  obtain ⟨regs, lines, hv⟩ := (s.ctx c x).prepared_eq e
  have hcore : (s.land c x e).core c = ((s.core c).prepared x e).pushPort (6 + n) e.val := by
    rw [State.land_push h]
    show ((s.landStart c x e).modCore c (fun k => k.pushPort (6 + n) e.val)).core c = _
    rw [State.core_modCore, State.landStart_core]
  have hctx : (s.land c x e).ctx c x = (s.ctx c x).entered e.flg regs lines := by
    rw [State.ctx, hcore, ← hv]
    exact Core.ctx_prepared ..
  have hport : ∀ m, (s.land c x e).port c m = (((s.core c).prepared x e).pushPort (6 + n) e.val).port m := fun m => by
    rw [State.port, hcore]
  dsimp only
  rw [hctx]
  refine ⟨by rw [State.land_push h]; rfl, rfl, rfl, ?_, ?_, ?_, fun m hm => ?_, ?_⟩
  iterate 3
    rw [hport, Core.pushPort, Core.port_setPort]
    rfl
  · rw [hport, Core.pushPort, Core.port_setPort_ne _ _ _ _ hm]
    rfl
  · rw [State.land_push h]
    exact State.mem_schedule.mpr (.inl rfl)

theorem tileResultsLand : TileResultsLand := by
  intro s c x e o tl n h hn
  dsimp only
  intro ho
  have hline : (operandOf o).IsLine tl := by
    rcases ho with ho | ho | ho <;> rw [ho]
    · exact Operand.isLine_row hn
    · exact Operand.isLine_col hn
    · exact Operand.isLine_diag
  have hat : ∀ at_, (match operandOf o with
      | .row _ m => some (fun i => (m, i))
      | .col _ m => some (fun i => (i, m))
      | .diag _ m => some (fun i => (i, (i + m) % 32))
      | _ => none) = some at_ → at_ = laneRow (operandOf o) := by
    intro at_ hplace
    rcases ho with ho | ho | ho <;> rw [ho] at hplace ⊢ <;> exact (Option.some.inj hplace).symm
  obtain ⟨k, hk⟩ : ∃ k, k = (s.core c).prepared x e := ⟨_, rfl⟩
  have hbase : (k.ctx x).tileBase = (s.ctx c x).tileBase := by
    obtain ⟨regs, lines, hv⟩ := (s.ctx c x).prepared_eq e
    rw [hk, Core.ctx_prepared, State.ctx_core, hv]
    rfl
  have hword : ∀ b r l, k.tileWord b r l = laneOf ((s.core c).tileRow b r) l := fun b r l => by rw [hk]; rfl
  have hcore : (s.land c x e).core c = k.writeLine (s.ctx c x).tileBase (operandOf o) e.val e.mask := by
    rw [State.land_tile h, State.core_modCore, State.landStart_core, ← hk, hbase]
  have hf := s.landFrame c x e
  refine ⟨hf.mem, hf.regs fun m hm => Dest.noConfusion (h.symm.trans hm), fun at_ hplace i hi => ?_,
    fun at_ r l hplace hr hl hne => ?_, fun b r hr hb => ?_⟩
  · rw [hat at_ hplace, hcore, ← hword]
    exact Core.tileWord_writeLine hline _ _ _ k hi
  · rw [hcore, ← hword]
    exact Core.tileWord_writeLine_ne hline _ _ _ k hr hl fun _ j hj => hat at_ hplace ▸ hne j hj
  · refine lanes_ext fun l hl => ?_
    rw [hcore, ← hword]
    exact Core.tileWord_writeLine_ne hline _ _ _ k hr hl fun h' => absurd h' hb

/-! ## Flags of engines -/

theorem getLsbD_foldl_flags (l : List EngineDone) (f : BitVec 5) (b : Nat) :
    (l.foldl (fun f e => f ||| e.flg) f).getLsbD b = (f.getLsbD b || l.any (fun e => e.flg.getLsbD b)) := by
  induction l generalizing f with
  | nil => simp
  | cons e l ih => rw [List.foldl_cons, ih, BitVec.getLsbD_or, List.any_cons, Bool.or_assoc]
/-- R188: escapes are counted up to 2^32 - 1. -/
theorem toNat_foldl_escapes (l : List EngineDone) (n : BitVec 32) :
    (l.foldl (fun n e => BitVec.ofNat 32 (Nat.min (n.toNat + e.escapes) 0xFFFFFFFF)) n).toNat =
      min (n.toNat + (l.map (fun e => e.escapes)).sum) (2 ^ 32 - 1) := by
  induction l generalizing n with
  | nil =>
    have := n.isLt
    simp only [List.foldl_nil, List.map_nil, List.sum_nil]
    omega
  | cons e l ih =>
    have hstep : (BitVec.ofNat 32 (Nat.min (n.toNat + e.escapes) 0xFFFFFFFF)).toNat = min (n.toNat + e.escapes) (2 ^ 32 - 1) := by
      rw [BitVec.toNat_ofNat]
      exact Nat.mod_eq_of_lt (lt_of_le_of_lt (Nat.min_le_right _ _) (by decide))
    rw [List.foldl_cons, ih, hstep, List.map_cons, List.sum_cons]
    omega

theorem engineFlagsLand : EngineFlagsLand := by
  intro s c x hpass
  have hcyc : (s.landDue c x).cyc = s.cyc :=
    (landAll_frame c x _ (s.landFront c x)).2.1.trans (s.landFront_frame c x).2.1
  have hlanded : s.landed c x = (s.landDue c x).modCtx c x (fun v => v.takeDone s.cyc) := by
    rw [State.landed, hpass, if_neg Bool.false_ne_true]
  dsimp only
  rw [hlanded, State.ctx_modCtx]
  refine ⟨fun b _ => getLsbD_foldl_flags _ _ b, toNat_foldl_escapes _ _, rfl, rfl, rfl, rfl,
    fun y hy => State.ctx_modCtx_ne _ _ _ _ _ _ (.inr hy), rfl⟩

/-- Settles O48: an equation of `land` for each kind of destination, and what every result leaves (`landFrame`). -/
theorem resultsLand : Obligations.ResultsLand :=
  ⟨registerResultsLand, specialResultsLand, pushesLand, engineFlagsLand, tileResultsLand, resultsFallDue⟩

end Sys2Proof
end

section
/-!
SUPPORT. The issue of a bundle (R17, R82, R249, R250): masks of slots, the first cause in the order of R250, and what a
trapped bundle has still done.
-/
namespace Sys2Proof.Machine

/-! ## Masks of slots -/

theorem getLsbD_slotBit (k b : Nat) (hb : b < 8) : (BitVec.ofNat 8 (2 ^ k)).getLsbD b = decide (k = b) := by
  rw [BitVec.getLsbD_ofNat, Nat.testBit_two_pow, decide_eq_true hb, Bool.true_and]
theorem getLsbD_foldl_slotBits (l : List Nat) (m : BitVec 8) (b : Nat) (hb : b < 8) :
    (l.foldl (fun m k => m ||| BitVec.ofNat 8 (2 ^ k)) m).getLsbD b = (m.getLsbD b || l.any (fun k => decide (k = b))) := by
  induction l generalizing m with
  | nil => simp
  | cons k l ih =>
    rw [List.foldl_cons, ih, BitVec.getLsbD_or, getLsbD_slotBit k b hb, List.any_cons, Bool.or_assoc]
theorem getLsbD_maskOf (l : List Nat) {b : Nat} (hb : b < 8) : (maskOf l).getLsbD b = l.any (fun k => decide (k = b)) := by
  rw [maskOf, getLsbD_foldl_slotBits _ _ _ hb]
  simp
/-- The fault mask of a cause: the slots that raise it, with the moves as slot 7. -/
theorem getLsbD_slotsOf (cs : List (Nat × Cause × Word)) (cause : Cause) {b : Nat} (hb : b < 8) :
    (slotsOf cs cause).getLsbD b = cs.any (fun e => decide (e.2.1 = cause ∧ min e.1 7 = b)) := by
  rw [slotsOf, getLsbD_maskOf _ hb, List.any_map, List.any_filter]
  exact congrArg (cs.any ·) (funext fun e => (Bool.decide_and ..).symm)

/-! ## The first cause -/

theorem topCause_spec : ∀ {cs : List (Nat × Cause × Word)} {t : Nat × Cause × Word}, topCause cs = some t →
    t ∈ cs ∧ ∀ e ∈ cs, t.2.1.rank ≤ e.2.1.rank ∧ (e.2.1.rank = t.2.1.rank → t.1 ≤ e.1)
  | [], _, h => by cases h
  | a :: as, t, h => by
    rw [topCause] at h
    cases hr : topCause as with
    | none =>
      rw [hr] at h
      obtain rfl := Option.some.inj h
      have hnil : as = [] := by
        cases as with
        | nil => rfl
        | cons b bs =>
          exfalso
          rw [topCause] at hr
          split at hr
          · cases hr
          · split at hr <;> cases hr
      simp [hnil]
    | some b =>
      rw [hr] at h
      obtain ⟨hmem, hleast⟩ := topCause_spec hr
      dsimp only at h
      split at h
      case isTrue hlt =>
        obtain rfl := Option.some.inj h
        refine ⟨List.mem_cons_of_mem _ hmem, fun e he => ?_⟩
        rcases List.mem_cons.mp he with rfl | he
        · omega
        · exact hleast e he
      case isFalse hlt =>
        obtain rfl := Option.some.inj h
        refine ⟨List.mem_cons_self, fun e he => ?_⟩
        rcases List.mem_cons.mp he with rfl | he
        · exact ⟨le_refl _, fun _ => le_refl _⟩
        · have := hleast e he
          omega

/-! ## What a trapped bundle has still done -/

/-- Memory and the contexts of a core are the same. -/
structure State.SameContexts (s t : State) (c : Nat) : Prop where
  mem : t.mem = s.mem
  ctx : ∀ y, t.ctx c y = s.ctx c y

namespace State.SameContexts
variable {s t u : State} {c : Nat}
theorem refl (s : State) (c : Nat) : s.SameContexts s c := ⟨rfl, fun _ => rfl⟩
theorem trans (h : s.SameContexts t c) (h' : t.SameContexts u c) : s.SameContexts u c :=
  ⟨h'.mem.trans h.mem, fun y => (h'.ctx y).trans (h.ctx y)⟩
theorem modCore {f : Core → Core} (h : ∀ k, (f k).ctxs = k.ctxs) (s : State) (c : Nat) : s.SameContexts (s.modCore c f) c :=
  ⟨rfl, fun y => by rw [State.ctx_modCore, Core.ctx, h]; rfl⟩
end State.SameContexts

theorem Core.countError_ctxs (k : Core) (b : Bool) : (k.countError b).ctxs = k.ctxs := by
  cases b <;> rfl
theorem Core.disarm_ctxs (k : Core) : k.disarm.ctxs = k.ctxs := by
  unfold Core.disarm
  split <;> rfl
theorem State.sameContexts_firedRead (s : State) (c flat : Nat) : s.SameContexts (s.firedRead c flat) c := by
  unfold State.firedRead
  split
  · refine SameContexts.trans (t := s.setMark (spAddr c flat) (s.readMark c flat)) ⟨rfl, fun _ => rfl⟩
      (.modCore (fun k => ?_) _ _)
    rw [Core.disarm_ctxs]
    split
    · rfl
    · exact Core.countError_ctxs ..
  · exact .refl s c
theorem State.sameContexts_countMet (s : State) (c : Nat) (m : Mark) : s.SameContexts (s.countMet c m) c := by
  cases m with
  | uncorrectable w => exact .modCore (fun k => Core.countError_ctxs k false) s c
  | _ => exact .refl s c
theorem State.sameContexts_stopPorts (s : State) (c : Nat) (cause : Cause) (effs : List (Nat × Effect)) :
    s.SameContexts (s.stopPorts c cause effs) c := by
  refine .modCore (fun k => ?_) s c
  induction effs generalizing k with
  | nil => rfl
  | cons e effs ih =>
    rw [List.foldl_cons, ih]
    split
    · split <;> rfl
    · rfl

/-- What a trapped bundle has done leaves memory and every context; but for UNCR it is the stopping of its ports alone. -/
theorem State.sameContexts_atTrap (s : State) (c : Nat) (cause : Cause) (regs : Bool) (effs : List (Nat × Effect)) :
    s.SameContexts (s.atTrap c cause regs effs) c ∧ (cause ≠ .uncr → s.atTrap c cause regs effs = s.stopPorts c cause effs) := by
  have hstop := s.sameContexts_stopPorts c cause effs
  unfold State.atTrap
  by_cases h : cause = .uncr
  · refine ⟨?_, fun h' => absurd h h'⟩
    rw [if_pos h]
    refine hstop.trans ?_
    generalize s.stopPorts c cause effs = t
    have hcount : t.SameContexts (if regs then t.modCore c (fun k => k.countError false) else t) c := by
      split
      · exact .modCore (fun k => Core.countError_ctxs k false) t c
      · exact .refl t c
    refine hcount.trans ?_
    generalize (if regs then t.modCore c (fun k => k.countError false) else t) = u
    clear hstop hcount
    induction effs generalizing u with
    | nil => exact .refl u c
    | cons e effs ih =>
      rw [List.foldl_cons]
      refine SameContexts.trans ?_ (ih _)
      split
      · exact (u.sameContexts_firedRead c _).trans (State.sameContexts_countMet _ c _)
      · exact .refl u c
  · rw [if_neg h]
    exact ⟨hstop, fun _ => rfl⟩

/-! ## The branches of issue -/

section
variable {s : State} {c x : Nat}

theorem State.rewindsNow_iff {effs : List (Nat × Effect)} :
    s.rewindsNow c x effs = true ↔ (∃ e ∈ effs, ∃ v, e.2 = .mismatch v) ∧ (s.ctx c x).segtry ≠ 3 := by
  rw [State.rewindsNow, Bool.and_eq_true, decide_eq_true_eq, hasEffect, List.any_eq_true]
  refine and_congr_left fun _ => exists_congr fun e => and_congr_right fun _ => ?_
  cases e.2 <;> simp

/-- R249: a bundle with a refused slot raises ILL. -/
theorem State.issue_refused (h : refusedSlots (s.bundle c x) c x (s.ctx c x).pc ≠ []) : s.issue c x =
    s.raise c x .ill 0 false false (maskOf (refusedSlots (s.bundle c x) c x (s.ctx c x).pc)) 0 0 := by
  unfold State.issue
  exact if_pos (by simpa using h)

variable (hgood : refusedSlots (s.bundle c x) c x (s.ctx c x).pc = [])
include hgood

theorem State.issue_rewinds (h : s.rewindsNow c x (s.evaluate c x).cur.effs = true) : s.issue c x =
    s.detect c x (if vectorMismatch (s.evaluate c x).cur.effs = true then .vector else .check)
      (slotsOf (slotCauses (s.evaluate c x).cur.effs) .serr) false := by
  unfold State.issue
  simp only [hgood, h, List.isEmpty_nil, Bool.not_true, Bool.false_eq_true, if_false, if_true]

variable (hno : s.rewindsNow c x (s.evaluate c x).cur.effs = false)
include hno

theorem State.issue_cause {k : Nat} {cause : Cause} {val : Word}
    (h : topCause (slotCauses (s.evaluate c x).cur.effs) = some (k, cause, val)) : s.issue c x =
    if cause = .serr then s.detect c x (if vectorMismatch (s.evaluate c x).cur.effs = true then .vector else .check)
      (slotsOf (slotCauses (s.evaluate c x).cur.effs) .serr)
      ((slotCauses (s.evaluate c x).cur.effs).any (fun e => decide (e.2.1 ≠ cause)))
    else (s.atTrap c cause (((s.evaluate c x).acting (s.instrs c x)).any (fun d => !(badRegs (s.evaluate c x) d).isEmpty))
        (s.evaluate c x).cur.effs).raise c x cause (((s.evaluate c x).ctx c x).engStatus cause val) false
      ((slotCauses (s.evaluate c x).cur.effs).any (fun e => decide (e.2.1 ≠ cause)))
      (slotsOf (slotCauses (s.evaluate c x).cur.effs) cause)
      (if cause = .trap ∨ cause = .sys then slotsOf (slotCauses (s.evaluate c x).cur.effs) cause else 0) val := by
  unfold State.issue
  simp only [hgood, hno, h, List.isEmpty_nil, Bool.not_true, Bool.false_eq_true, if_false]
theorem State.issue_commits (h : slotCauses (s.evaluate c x).cur.effs = [])
    (hstop : (s.ctx c x).dbgPass = true ∨
      debugStopOf (s.core c) x (s.ctx c x).pc (s.evaluate c x).cur.effs = none) : s.issue c x = (s.evaluate c x).commit := by
  have hnone : (if (s.ctx c x).dbgPass = true then none
      else debugStopOf (s.core c) x (s.ctx c x).pc (s.evaluate c x).cur.effs) = none := by
    rcases hstop with h | h
    · exact if_pos h
    · rw [h]; exact ite_self none
  unfold State.issue
  simp only [hgood, hno, h, topCause, hnone, List.isEmpty_nil, Bool.not_true, Bool.false_eq_true, if_false]

end

/-- R23: a mismatch at SEGTRY 3 raises SERR with the segment's number. -/
theorem State.detect_third {s : State} {c x : Nat} {f : Finding} (hf : f = .check ∨ f = .vector)
    (h : (s.ctx c x).segtry = 3) (fault : BitVec 8) (more : Bool) :
    s.detect c x f fault more = s.raise c x .serr 0 false more fault 0 (BitVec.ofNat 64 (s.ctx c x).segid) := by
  have hloc : ∀ v : Ctx, v.repeats f = false := fun v => by
    unfold Ctx.repeats
    rcases hf with rfl | rfl <;> cases v.lastUncr <;> rfl
  rcases hf with rfl | rfl <;> simp [State.detect, Finding.isConsumed, hloc, h]

end Sys2Proof.Machine

namespace Sys2Proof
open Sys2Proof.Machine

/-- Settles O52: the branches of `issue`, and the first cause of a list of causes (`topCause_spec`). -/
theorem issueOfABundle : Obligations.IssueOfABundle := by
  refine ⟨fun s c x => ?_, fun cs k cause val h => topCause_spec h, by decide, rfl, rfl⟩
  refine ⟨State.issue_refused, State.rewindsNow_iff, fun hgood hrew => ?rewinds, fun hgood hno =>
    ⟨fun k cause val htop hserr => ?trap, fun k val htop hthird => ?serr, State.issue_commits hgood hno⟩⟩
  case rewinds => exact ⟨_, fun b hb => getLsbD_slotsOf _ _ hb, State.issue_rewinds hgood hrew⟩
  case trap =>
    obtain ⟨hsame, hstop⟩ := s.sameContexts_atTrap c cause
      (((s.evaluate c x).acting (s.instrs c x)).any (fun d => !(badRegs (s.evaluate c x) d).isEmpty)) (s.evaluate c x).cur.effs
    exact ⟨_, fun b hb => getLsbD_slotsOf _ cause hb, _, hsame.mem, hsame.ctx, hstop,
      (State.issue_cause hgood hno htop).trans (if_neg hserr)⟩
  case serr =>
    refine ⟨_, fun b hb => getLsbD_slotsOf _ .serr hb, (State.issue_cause hgood hno htop).trans ((if_pos rfl).trans ?_)⟩
    exact State.detect_third (ite_eq_or_eq ..).symm hthird _ _

end Sys2Proof
end

section
/-!
SUPPORT. The order of the part's steps, the issue stage of a core with one ready context, and a bundle of one instruction
(R12, R13, R14, R17, R70).
-/
namespace Sys2Proof.Machine

/-! ## The step that comes next -/

section
variable {s : State}

theorem State.dueNow_none (h : ∀ e ∈ s.calendar, s.cyc < e.1) : s.dueNow = none := by
  unfold State.dueNow
  split
  · rfl
  case h_2 d i es hcal =>
    have := h (d, i) (by rw [hcal]; exact List.mem_cons_self)
    exact if_neg (Nat.not_le.mpr this)
theorem State.nextCore_none (h : ∀ d, s.turn ≤ d → d < 192 → (s.core d).live = false) : s.nextCore = none :=
  findFrom_eq_none.mpr fun d hd hd' => h d hd (by simp only [Config.cores] at hd'; omega)
theorem State.nextCore_some {c : Nat} (hc : s.turn ≤ c) (hc' : c < 192) (hlive : (s.core c).live = true)
    (h : ∀ d, s.turn ≤ d → d < c → (s.core d).live = false) : s.nextCore = some c :=
  findFrom_eq_some.mpr ⟨hc, by simp only [Config.cores]; omega, hlive, h⟩

theorem State.pickInput_none : ∀ {l : List Instr}, (∀ i ∈ l, s.takes i = false) → s.pickInput l = none
  | [], _ => rfl
  | i :: l, h => by
    rw [pickInput, h i List.mem_cons_self, pickInput_none fun j hj => h j (List.mem_cons_of_mem _ hj)]
    rfl
theorem State.pickInput_first {i : Instr} {late : List Instr} (hi : s.takes i = true) :
    ∀ {early : List Instr}, (∀ j ∈ early, s.takes j = false) → s.pickInput (early ++ i :: late) = some (i, early ++ late)
  | [], _ => by rw [List.nil_append, pickInput, hi, if_pos rfl]; rfl
  | j :: early, h => by
    rw [List.cons_append, pickInput, h j List.mem_cons_self, pickInput_first hi fun j hj => h j (List.mem_cons_of_mem _ hj)]
    rfl
/-- R306: the one input that is not taken is a sample that is not due. -/
theorem State.takes_eq_false {i : Instr} (h : s.takes i = false) :
    ∃ c t f p, i = .sensorSample c t f p ∧ c < 192 ∧ ¬SampleDue (s.core c) s.cyc := by
  unfold State.takes at h
  split at h
  case h_2 => cases h
  case h_1 c t f p =>
    obtain ⟨hc, hdue⟩ := Bool.or_eq_false_iff.mp h
    refine ⟨c, t, f, p, rfl, Nat.not_le.mp (of_decide_eq_false hc), fun hs => of_decide_eq_false hdue ?_⟩
    rcases hs with h0 | ⟨j, hj⟩
    · exact .inl h0
    · refine .inr ⟨by omega, ?_⟩
      rw [hj, Nat.add_sub_cancel_left]
      exact Nat.mul_mod_right ..

end

/-! ## The one ready context -/

theorem ringFrom_mod (p : Nat) : ringFrom p = ringFrom (p % 4) := by
  simp [ringFrom, upTo, Nat.mod_add_mod]
/-- The round robin from any pointer goes through every user context once. -/
theorem ringFrom_perm (p : Nat) : (ringFrom p).Nodup ∧ ∀ x, x ∈ ringFrom p ↔ x < 4 := by
  rw [ringFrom_mod]
  obtain ⟨hpair, hmem⟩ := ringFrom_spec (Nat.mod_lt p (by decide : 0 < 4))
  exact ⟨hpair.imp fun {a b} h (e : a = b) => Nat.lt_irrefl _ (e ▸ h), hmem⟩
theorem Core.mem_ringOf_iff {k : Core} {p x : Nat} : x ∈ k.ringOf p ↔ x < 4 ∧ (k.ctx x).prio = p := by
  rw [Core.ringOf, List.mem_filter, (ringFrom_perm _).2, decide_eq_true_eq]
theorem Core.ranked_nodup (k : Core) : k.ranked.Nodup := by
  refine List.nodup_cons.mpr ⟨fun h => ?_, List.nodup_flatMap.mpr ⟨fun p _ => ((ringFrom_perm _).1.filter _), ?_⟩⟩
  · obtain ⟨p, -, hp⟩ := List.mem_flatMap.mp h
    exact absurd (Core.mem_ringOf_iff.mp hp).1 (by decide)
  · refine List.Pairwise.imp (R := (· ≠ ·)) ?_ (by decide)
    intro p q hpq x hp hq
    exact hpq ((Core.mem_ringOf_iff.mp hp).2.symm.trans (Core.mem_ringOf_iff.mp hq).2)
theorem Core.issueOrder_perm (k : Core) (cyc : Nat) : List.Perm (k.issueOrder cyc) k.ranked := by
  rw [Core.issueOrder_eq]
  exact List.perm_append_comm.trans (List.filter_append_perm _ _)
theorem Core.issueOrder_nodup (k : Core) (cyc : Nat) : (k.issueOrder cyc).Nodup :=
  (k.issueOrder_perm cyc).nodup_iff.mpr k.ranked_nodup
theorem Core.mem_issueOrder {k : Core} {x : Nat} (cyc : Nat) (hx : x < 4) (hprio : (k.ctx x).prio < 4) :
    x ∈ k.issueOrder cyc := by
  refine (k.issueOrder_perm cyc).mem_iff.mpr (List.mem_cons_of_mem _ (List.mem_flatMap.mpr ⟨(k.ctx x).prio, ?_, ?_⟩))
  · simp only [List.mem_cons, List.not_mem_nil, or_false]
    omega
  · exact Core.mem_ringOf_iff.mpr ⟨hx, rfl⟩
theorem Core.lt_of_mem_issueOrder {k : Core} {x cyc : Nat} (h : x ∈ k.issueOrder cyc) : x < 5 := by
  rcases List.mem_cons.mp ((k.issueOrder_perm cyc).mem_iff.mp h) with rfl | h
  · decide
  · obtain ⟨p, -, hp⟩ := List.mem_flatMap.mp h
    exact Nat.lt_succ_of_lt (Core.mem_ringOf_iff.mp hp).1

section
variable {s : State} {c : Nat}

theorem State.standing_free {y : Nat} (h : (s.ctx c y).status = .free) : s.standing c y = .out := by
  have : (s.ctx c y).runs = false := by simp [Ctx.runs, h]
  simp [State.standing, this]
theorem State.firstReady_none : ∀ {l : List Nat}, (∀ y ∈ l, s.standing c y ≠ .ready) → s.firstReady c l = none
  | [], _ => rfl
  | y :: l, h => by
    rw [firstReady, if_neg (h y List.mem_cons_self), firstReady_none fun z hz => h z (List.mem_cons_of_mem _ hz)]
/-- A context that alone is ready is the first, and is not behind itself. -/
theorem State.firstReady_alone {x : Nat} (hx : s.standing c x = .ready) : ∀ {l : List Nat}, x ∈ l → l.Nodup →
    (∀ y ∈ l, y ≠ x → s.standing c y ≠ .ready) → ∃ rest, s.firstReady c l = some (x, rest) ∧ ∀ y ∈ rest, y ∈ l ∧ y ≠ x
  | y :: l, hmem, hnodup, hother => by
    obtain ⟨hy, hl⟩ := List.nodup_cons.mp hnodup
    by_cases hyx : y = x
    · subst hyx
      exact ⟨l, by rw [firstReady, if_pos hx], fun z hz => ⟨List.mem_cons_of_mem _ hz, fun e => hy (e ▸ hz)⟩⟩
    · obtain ⟨rest, hrest, hsub⟩ := firstReady_alone hx ((List.mem_cons.mp hmem).resolve_left (Ne.symm hyx)) hl
        fun z hz => hother z (List.mem_cons_of_mem _ hz)
      refine ⟨rest, by rw [firstReady, if_neg (hother y List.mem_cons_self hyx), hrest], fun z hz => ?_⟩
      exact ⟨List.mem_cons_of_mem _ (hsub z hz).1, (hsub z hz).2⟩

/-- Contexts that take no part are not noted. -/
theorem State.noteAll_out {issued : List Nat} : ∀ {l : List Nat}, (∀ y ∈ l, y ∉ issued → s.standing c y = .out) →
    State.noteAll c issued l s = s
  | [], _ => rfl
  | y :: l, h => by
    have hy : (if issued.contains y then s else
        match s.standing c y with
        | .out => s
        | .waits n on => s.noteWait c y n on
        | .ready => s.noteWait c y 0 none) = s := by
      by_cases hin : y ∈ issued
      · exact if_pos (by simpa using hin)
      · rw [if_neg (by simpa using hin), h y List.mem_cons_self hin]
    rw [noteAll]
    exact (congrArg (State.noteAll c issued l) hy).trans (noteAll_out fun z hz => h z (List.mem_cons_of_mem _ hz))

/-- The pointer of a priority moves behind the context that issued (R13). -/
def Core.advanceRing (k : Core) (rank x : Nat) : Core := if x = 4 then k else { k with rr := k.rr.set rank ((x + 1) % 4) }
theorem Core.advanceRing_ctxs (k : Core) (rank x : Nat) : (k.advanceRing rank x).ctxs = k.ctxs ∧
    (k.advanceRing rank x).tiles = k.tiles ∧ (k.advanceRing rank x).traceQ = k.traceQ := by
  unfold Core.advanceRing
  split <;> exact ⟨rfl, rfl, rfl⟩

/-- R13: where one context alone is ready, its bundle issues. -/
theorem State.issueBundles_alone {x : Nat} (hx : x < 4) (hprio : (s.ctx c x).prio < 4)
    (hfront : ∀ y, y < 5 → s.frontOf c y = s) (hready : s.standing c x = .ready)
    (hfree : ∀ y, y < 5 → y ≠ x → (s.ctx c y).status = .free ∧ ((s.issue c x).ctx c y).status = .free) :
    s.issueBundles c = (s.issue c x).modCore c (fun k => k.advanceRing ((s.core c).rankOf x) x) := by
  have hs : (upTo 5 0).foldl (fun t y => t.frontOf c y) s = s := by
    simp only [upTo, List.foldl_cons, List.foldl_nil, hfront 0 (by decide), hfront 1 (by decide), hfront 2 (by decide),
      hfront 3 (by decide), hfront 4 (by decide)]
  obtain ⟨rest, hfirst, hrest⟩ := State.firstReady_alone hready (Core.mem_issueOrder s.cyc hx hprio)
    (Core.issueOrder_nodup _ _) fun y hy hyx => by
      rw [State.standing_free (hfree y (Core.lt_of_mem_issueOrder hy) hyx).1]
      exact Standing.noConfusion
  obtain ⟨t, ht⟩ : ∃ t, t = (s.issue c x).modCore c (fun k => k.advanceRing ((s.core c).rankOf x) x) := ⟨_, rfl⟩
  have hout : ∀ y, y < 5 → y ≠ x → t.standing c y = .out := fun y hy hyx => by
    refine State.standing_free ?_
    rw [ht, State.ctx_modCore, Core.ctx, (Core.advanceRing_ctxs ..).1]
    exact (hfree y hy hyx).2
  have hsecond : t.issueSecond c rest (rawSlots (s.bundle c x)) = (t, []) := by
    rw [State.issueSecond, State.firstReady_none fun y hy => by
      rw [hout y (Core.lt_of_mem_issueOrder (hrest y hy).1) (hrest y hy).2]
      exact Standing.noConfusion]
  have hnote : State.noteAll c [x] (upTo 5 0) t = t := State.noteAll_out fun y hy hyx =>
    hout y (mem_upTo.mp hy).2 fun e => hyx (e ▸ List.mem_cons_self)
  have hring : (fun k : Core => if x = 4 then k else { k with rr := k.rr.set ((s.core c).rankOf x) ((x + 1) % 4) }) =
      fun k => k.advanceRing ((s.core c).rankOf x) x := rfl
  unfold State.issueBundles
  simp only [hs, hfirst, hring, ← ht, hsecond, hnote]

/-! ## Trace records -/

/-- What the writing of trace records leaves. -/
structure State.TraceFrame (s t : State) (c : Nat) : Prop where
  cyc : t.cyc = s.cyc
  ctx : ∀ y, t.ctx c y = s.ctx c y
  tiles : (t.core c).tiles = (s.core c).tiles
  cores : ∀ d, d ≠ c → t.core d = s.core d

namespace State.TraceFrame
variable {t u : State}
theorem refl (s : State) (c : Nat) : s.TraceFrame s c := ⟨rfl, fun _ => rfl, rfl, fun _ _ => rfl⟩
theorem trans (h : s.TraceFrame t c) (h' : t.TraceFrame u c) : s.TraceFrame u c :=
  ⟨h'.cyc.trans h.cyc, fun y => (h'.ctx y).trans (h.ctx y), h'.tiles.trans h.tiles, fun d hd => (h'.cores d hd).trans (h.cores d hd)⟩
theorem modCore {f : Core → Core} (hctxs : ∀ k, (f k).ctxs = k.ctxs) (htiles : ∀ k, (f k).tiles = k.tiles) (s : State)
    (c : Nat) : s.TraceFrame (s.modCore c f) c :=
  ⟨rfl, fun y => by rw [State.ctx_modCore, Core.ctx, hctxs]; rfl, by rw [State.core_modCore, htiles],
    fun d hd => State.core_modCore_ne _ _ _ _ hd⟩
end State.TraceFrame

theorem State.traceFrame_writeTrace (s : State) (c r : Nat) : s.TraceFrame (s.writeTrace c r) c := by
  unfold State.writeTrace State.setSyncWord
  refine State.TraceFrame.trans ?_ (.modCore ?_ ?_ _ c)
  · refine State.TraceFrame.trans ?_ (.modCore ?_ ?_ _ c)
    · exact ⟨rfl, fun _ => rfl, rfl, fun _ _ => rfl⟩
    · exact fun _ => rfl
    · exact fun _ => rfl
  · exact fun _ => rfl
  · exact fun _ => rfl
/-- The records of a cycle in the order in which they are written (R271). -/
def Core.traceRecords (k : Core) : List (Nat × Nat) := (upTo 5 0).flatMap (fun x => k.traceQ.filter (fun e => decide (e.1 = x)))
def Core.dropTrace (k : Core) : Core := { k with traceQ := [] }
theorem State.flushTrace_eq (s : State) (c : Nat) : s.flushTrace c =
    (s.core c).traceRecords.foldl (fun t e => t.writeTrace c e.2) (s.modCore c Core.dropTrace) := rfl
/-- R271: records are written to the ring; with no record of the cycle nothing is written. -/
theorem State.flushTrace_frame (s : State) (c : Nat) : s.TraceFrame (s.flushTrace c) c ∧
    ((s.core c).traceQ = [] → (s.flushTrace c).mem = s.mem) := by
  rw [State.flushTrace_eq]
  constructor
  · refine (State.TraceFrame.modCore (f := Core.dropTrace) (fun _ => rfl) (fun _ => rfl) s c).trans ?_
    generalize s.modCore c Core.dropTrace = t
    generalize (s.core c).traceRecords = l
    induction l generalizing t with
    | nil => exact .refl t c
    | cons e l ih => exact (t.traceFrame_writeTrace c e.2).trans (ih _)
  · intro h
    have hnil : (s.core c).traceRecords = [] := by simp [Core.traceRecords, h]
    rw [hnil]
    rfl

/-- The issue stage of a core with one ready context: its bundle issues, and the trace and the pointers of the core follow. -/
theorem State.issueCore_alone {x : Nat} (hawake : (s.core c).asleep = false) (hfrom : (s.core c).awakeFrom ≤ s.cyc)
    (hthrottle : (s.cluster (c / 4)).throttle = 0) (hx : x < 4) (hprio : (s.ctx c x).prio < 4)
    (hfront : ∀ y, y < 5 → s.frontOf c y = s) (hready : s.standing c x = .ready)
    (hfree : ∀ y, y < 5 → y ≠ x → (s.ctx c y).status = .free ∧ ((s.issue c x).ctx c y).status = .free) :
    (s.issue c x).TraceFrame (s.issueCore c) c ∧
      (((s.issue c x).core c).traceQ = [] → (s.issueCore c).mem = (s.issue c x).mem) := by
  have hun : s.unthrottled c = true := decide_eq_true (.inl hthrottle)
  obtain ⟨t, ht⟩ : ∃ t, t = (s.issue c x).modCore c (fun k => k.advanceRing ((s.core c).rankOf x) x) := ⟨_, rfl⟩
  have hbundles : s.issueBundles c = t := by rw [ht, State.issueBundles_alone hx hprio hfront hready hfree]
  have hcore : s.issueCore c = (t.noteIdle c).flushTrace c := by
    rw [State.issueCore, if_neg (by rw [hawake]; simpa using hfrom), if_pos hun, hbundles]
  have hframe : (s.issue c x).TraceFrame t c := by
    rw [ht]
    exact .modCore (fun k => (Core.advanceRing_ctxs k _ x).1) (fun k => (Core.advanceRing_ctxs k _ x).2.1) _ c
  have htrace : (t.core c).traceQ = ((s.issue c x).core c).traceQ := by
    rw [ht, State.core_modCore, (Core.advanceRing_ctxs ..).2.2]
  have hidle : t.TraceFrame (t.noteIdle c) c := .modCore
    (f := fun k => { k with idleSince := if t.idles c then some (k.idleSince.getD t.cyc) else none })
    (fun _ => rfl) (fun _ => rfl) t c
  obtain ⟨hflush, hmem⟩ := (t.noteIdle c).flushTrace_frame c
  rw [hcore]
  refine ⟨(hframe.trans hidle).trans hflush, fun h => (hmem ?_).trans ?_⟩
  · rw [State.noteIdle, State.core_modCore]
    exact htrace.trans h
  · rw [ht]
    rfl

end

/-! ## A bundle of one instruction -/

/-- The slot of an instruction with a code does what `exec` of the instruction does. -/
theorem runSlot_eq_exec {i : Instr} (h : (encode i).isSome = true) (s : State) : runSlot i s = exec i s := by
  cases i
  all_goals cases h
  all_goals rfl

/-- The checks of a bundle beside its slots (R14, R107, R262). -/
def Effect.IsCheck (e : Nat × Effect) : Prop :=
  (∃ n, e.2 = .wait n none) ∨ (∃ n, e.2 = .trap .uncr n) ∨ (∃ n, e.2 = .trap .bank n) ∨ ∃ l, e.2 = .damaged 0 l

theorem regChecks_isCheck {s : State} {d : Nat × Instr} {e : Nat × Effect} (h : e ∈ regChecks s d) : Effect.IsCheck e := by
  rcases List.mem_append.mp h with h | h
  · split at h
    · rw [List.mem_singleton.mp h]
      exact .inl ⟨_, rfl⟩
    · cases h
  · obtain ⟨n, -, rfl⟩ := List.mem_map.mp h
    exact .inr (.inl ⟨_, rfl⟩)
theorem parityChecks_isCheck {s : State} {is acting : List (Nat × Instr)} {e : Nat × Effect}
    (h : e ∈ parityChecks s is acting) : Effect.IsCheck e := by
  obtain ⟨l, -, hl⟩ := List.mem_filterMap.mp h
  split at hl
  · rw [← Option.some.inj hl]
    exact .inr (.inr (.inr ⟨_, rfl⟩))
  · cases hl
theorem bankClash_isCheck {is : List (Nat × Instr)} {effs : List (Nat × Effect)} {e : Nat × Effect}
    (h : e ∈ bankClash is effs) : Effect.IsCheck e := by
  unfold bankClash at h
  split at h
  · obtain ⟨r, -, rfl⟩ := List.mem_map.mp h
    exact .inr (.inr (.inl ⟨_, rfl⟩))
  · cases h
theorem roomChecks_isCheck {v : Ctx} {effs : List (Nat × Effect)} {e : Nat × Effect} (h : e ∈ roomChecks v effs) :
    Effect.IsCheck e := by
  rcases List.mem_append.mp h with h | h
  all_goals
    split at h
    · rw [List.mem_singleton.mp h]
      exact .inl ⟨_, rfl⟩
    · cases h

/-- The state in which the slots of a context's next bundle act. -/
def State.opened (s : State) (c x : Nat) : State :=
  { s.landed c x with
    cur := { core := c, ctx := x, pc := (s.ctx c x).pc, slot := 0, skip := (s.ctx c x).skip, bc := 0, effs := [] } }

/-- R17: a bundle shows the effects of its slots, with checks beside them. -/
theorem State.evaluate_effs (s : State) (c x : Nat) : ∃ more,
    (s.evaluate c x).cur.effs = (runBundle (s.instrs c x) (s.opened c x)).cur.effs ++ more ∧ ∀ e ∈ more, Effect.IsCheck e := by
  refine ⟨_, rfl, fun e he => ?_⟩
  rcases List.mem_append.mp he with h | h
  · obtain ⟨d, -, hd⟩ := List.mem_flatMap.mp h
    exact regChecks_isCheck hd
  rcases List.mem_append.mp h with h | h
  · exact parityChecks_isCheck h
  rcases List.mem_append.mp h with h | h
  · exact bankClash_isCheck h
  · exact roomChecks_isCheck h

/-- A bundle of one instruction that is no move runs it alone. -/
theorem runBundle_single {k : Nat} (hk : k < 7) (i : Instr) (s : State) :
    runBundle [(k, i)] s = runAt k i s.takeBc := by
  have h7 : ¬ 7 ≤ k := Nat.not_le.mpr hk
  simp [runBundle, h7, hk]

theorem emitted_effs (s : State) (es : List Effect) :
    (emitted s es).cur.effs = s.cur.effs ++ es.map (fun e => (s.cur.slot, e)) := rfl

end Sys2Proof.Machine

namespace Sys2Proof
open Sys2Proof.Machine

/-- R17: a bundle of one instruction does what the instruction does. -/
theorem evaluate_single {s : State} {c x k : Nat} {i : Instr} (his : s.instrs c x = [(k, i)]) (hk : k < 7)
    (hi : (encode i).isSome = true) (hskip : (s.ctx c x).skip = 0) :
    ∃ es more, exec i { s.landed c x with
        cur := { core := c, ctx := x, pc := (s.ctx c x).pc, slot := k, skip := 0, bc := 0, effs := [] } } =
          .next (emitted { s.landed c x with
            cur := { core := c, ctx := x, pc := (s.ctx c x).pc, slot := k, skip := 0, bc := 0, effs := [] } } es) ∧
      (s.evaluate c x).cur.effs = es.map (fun e => (k, e)) ++ more ∧ ∀ e ∈ more, Effect.IsCheck e := by
  obtain ⟨s1, hs1⟩ : ∃ s1 : State, s1 = { s.landed c x with
    cur := { core := c, ctx := x, pc := (s.ctx c x).pc, slot := k, skip := 0, bc := 0, effs := [] } } := ⟨_, rfl⟩
  obtain ⟨es, hes⟩ : ∃ es, exec i s1 = .next (emitted s1 es) := by
    obtain ⟨es, h⟩ := exec_eq_slot hi s1
    by_cases hg : s1.guard (usesOf i).guard = true
    · exact ⟨es, h.trans (congrArg Host.Outcome.next (if_pos hg))⟩
    · exact ⟨[], h.trans (congrArg Host.Outcome.next ((if_neg hg).trans (emitted_nil s1).symm))⟩
  obtain ⟨more, hmore, hcheck⟩ := s.evaluate_effs c x
  rw [← hs1]
  refine ⟨es, more, hes, ?_, hcheck⟩
  have hslot : slotOf k = k := Nat.min_eq_left (Nat.le_of_lt hk)
  have hrun : runAt k i (s.opened c x).takeBc = emitted s1 es := by
    have hstate : ({ (s.opened c x).takeBc with cur := { (s.opened c x).takeBc.cur with slot := k } } : State) = s1 := by
      rw [hs1]
      simp only [State.opened, State.takeBc, hskip, List.foldl_nil]
    have hfree : bitOf (s.opened c x).takeBc.cur.skip (slotOf k) = false := by
      show bitOf (s.ctx c x).skip _ = false
      rw [hskip]
      simp [bitOf]
    rw [runAt, hfree, if_neg Bool.false_ne_true, hslot, hstate, runSlot_eq_exec hi, hes]
  rw [hmore, his, runBundle_single hk, hrun, emitted_effs, hs1]
  rfl

/-- Settles O53: `upcoming` case by case, the issue stage with one ready context (`issueCore_alone`), and `evaluate_single`. -/
theorem stepRunsInstruction : Obligations.StepRunsInstruction := by
  refine ⟨fun s due i rest hcal hdue => ?due, fun s c hcal hturn hc hlive hbefore => ?core, fun s hcal hidle =>
    ⟨fun early i late hin hi hearly => ?input, fun hin => ?tick, fun i => State.takes_eq_false⟩, fun s c hc hasleep => ?asleep,
    fun s c x hc hx hawake hfrom hthrottle hprio hfront hready hfree => ?issue, fun s c x k i his hk hi hskip => ?slot⟩
  case due =>
    have hnow : s.dueNow = some (i, { s with calendar := rest }) := by
      unfold State.dueNow
      rw [hcal]
      exact if_pos hdue
    simp only [step, State.advance, State.upcoming, hnow]
  case core =>
    simp only [step, State.advance, State.upcoming, State.dueNow_none hcal, State.nextCore_some hturn hc hlive hbefore]
  case input =>
    simp only [step, State.advance, State.upcoming, State.dueNow_none hcal, State.nextCore_none hidle, State.nextInput, hin,
      State.pickInput_first hi hearly]
  case tick =>
    simp only [step, State.advance, State.upcoming, State.dueNow_none hcal, State.nextCore_none hidle, State.nextInput,
      State.pickInput_none hin]
    rfl
  case asleep =>
    have hcore : ¬ Config.cores ≤ c := Nat.not_le.mpr hc
    show onCore c _ = _
    rw [onCore, if_neg hcore, State.issueCore, if_pos (.inl hasleep)]
  case issue =>
    have hcore : ¬ Config.cores ≤ c := Nat.not_le.mpr hc
    obtain ⟨hframe, hmem⟩ := State.issueCore_alone hawake hfrom hthrottle hx hprio hfront hready hfree
    exact ⟨_, if_neg hcore, hframe.cyc, hmem, rfl, hframe.ctx, hframe.tiles, hframe.cores⟩
  case slot => exact evaluate_single his hk hi hskip

end Sys2Proof
end

section
/-!
SUPPORT. Sync words (Table 10.2, R106, R202): the fields of a word, a post on it, and the advance of its generation.
-/
namespace Sys2Proof.Machine

/-! ## Fields of a word -/

theorem testBit_natField (n lo len i : Nat) : (natField n lo len).testBit i = (decide (i < len) && n.testBit (lo + i)) := by
  rw [natField, Nat.testBit_mod_two_pow, Nat.testBit_div_two_pow, Nat.add_comm]
theorem natField_eq {n x lo len : Nat} (hx : x < 2 ^ len) (h : ∀ i, i < len → n.testBit (lo + i) = x.testBit i) :
    natField n lo len = x := by
  refine Nat.eq_of_testBit_eq fun i => ?_
  rw [testBit_natField]
  by_cases hi : i < len
  · rw [decide_eq_true hi, Bool.true_and, h i hi]
  · rw [decide_eq_false hi, Bool.false_and]
    exact (Nat.testBit_lt_two_pow (lt_of_lt_of_le hx (Nat.pow_le_pow_right (by decide) (Nat.not_lt.mp hi)))).symm
theorem natField_congr {n m lo len : Nat} (h : ∀ i, lo ≤ i → i < lo + len → n.testBit i = m.testBit i) :
    natField n lo len = natField m lo len :=
  natField_eq (Nat.mod_lt _ (Nat.two_pow_pos len)) fun i hi => by
    rw [testBit_natField, decide_eq_true hi, Bool.true_and]
    exact h _ (by omega) (by omega)

/-- The bits of a number of 128 bits with a field replaced. -/
theorem testBit_putWord (n lo len x i : Nat) (hn : n < 2 ^ 128) (hl : lo + len ≤ 128) :
    (putField (BitVec.ofNat 128 n) lo len x).toNat.testBit i =
      if lo ≤ i ∧ i < lo + len then x.testBit (i - lo) else n.testBit i := by
  have h : ∀ b : BitVec 128, b.toNat.testBit i = b.getLsbD i := fun _ => rfl
  rw [h, getLsbD_putField _ _ _ _ _ hl, ← h, BitVec.toNat_ofNat, Nat.mod_eq_of_lt hn]

/-! ## The mask of a word -/

theorem wordMask_bit : ∀ i < 128, (0xFFFFFFFF001FFFFFFFFFFFFFFFFFFFFF#128).getLsbD i = decide (i < 85 ∨ 96 ≤ i) := by decide
theorem wordMask_lt (v : Nat) : wordMask v < 2 ^ 128 := BitVec.isLt _
theorem testBit_wordMask (v i : Nat) : (wordMask v).testBit i = (decide (i < 85 ∨ 96 ≤ i ∧ i < 128) && v.testBit i) := by
  have h : (wordMask v).testBit i = (BitVec.ofNat 128 v &&& 0xFFFFFFFF001FFFFFFFFFFFFFFFFFFFFF#128).getLsbD i := rfl
  by_cases hi : i < 128
  · rw [h, BitVec.getLsbD_and, BitVec.getLsbD_ofNat, wordMask_bit i hi, decide_eq_true hi, Bool.true_and, Bool.and_comm]
    exact congrArg (· && v.testBit i) (decide_eq_decide.mpr (by omega))
  · rw [Nat.testBit_lt_two_pow (lt_of_lt_of_le (wordMask_lt v) (Nat.pow_le_pow_right (by decide) (Nat.not_lt.mp hi))),
      decide_eq_false (by omega), Bool.false_and]

/-- Sync words as they are kept: their reserved bits read 0. -/
def IsWord (n : Nat) : Prop := n < 2 ^ 128 ∧ ∀ i, 85 ≤ i → i < 96 → n.testBit i = false

theorem isWord_wordMask (v : Nat) : IsWord (wordMask v) :=
  ⟨wordMask_lt v, fun i h h' => by rw [testBit_wordMask, decide_eq_false (by omega), Bool.false_and]⟩
theorem wordMask_of_isWord {n : Nat} (h : IsWord n) : wordMask n = n := by
  refine Nat.eq_of_testBit_eq fun i => ?_
  rw [testBit_wordMask]
  by_cases hi : i < 85 ∨ 96 ≤ i ∧ i < 128
  · rw [decide_eq_true hi, Bool.true_and]
  · rw [decide_eq_false hi, Bool.false_and]
    by_cases h96 : i < 96
    · exact (h.2 i (by omega) h96).symm
    · exact (Nat.testBit_lt_two_pow (lt_of_lt_of_le h.1 (Nat.pow_le_pow_right (by decide) (by omega)))).symm
theorem isWord_putWord {n lo len x : Nat} (h : IsWord n) (hl : lo + len ≤ 85) :
    IsWord (putField (BitVec.ofNat 128 n) lo len x).toNat :=
  ⟨BitVec.isLt _, fun i h85 h96 => by
    rw [testBit_putWord _ _ _ _ _ h.1 (by omega), if_neg (by omega)]
    exact h.2 i h85 h96⟩

/-- A word with a field replaced. -/
def setWord (n lo len x : Nat) : Nat := (putField (BitVec.ofNat 128 n) lo len x).toNat

section
variable {n lo len x : Nat}
theorem ofNat_setWord : BitVec.ofNat 128 (setWord n lo len x) = putField (BitVec.ofNat 128 n) lo len x :=
  BitVec.ofNat_toNat ..
theorem isWord_setWord (h : IsWord n) (hl : lo + len ≤ 85) : IsWord (setWord n lo len x) := isWord_putWord h hl
theorem testBit_setWord_ne {i : Nat} (h : IsWord n) (hl : lo + len ≤ 128) (hi : i < lo ∨ lo + len ≤ i) :
    (setWord n lo len x).testBit i = n.testBit i := by
  rw [setWord, testBit_putWord _ _ _ _ _ h.1 hl, if_neg (by omega)]
theorem natField_setWord (h : IsWord n) (hl : lo + len ≤ 128) : natField (setWord n lo len x) lo len = x % 2 ^ len := by
  refine natField_eq (Nat.mod_lt _ (Nat.two_pow_pos len)) fun i hi => ?_
  rw [setWord, testBit_putWord _ _ _ _ _ h.1 hl, if_pos (by omega), Nat.testBit_mod_two_pow, decide_eq_true hi,
    Bool.true_and, Nat.add_sub_cancel_left]
theorem natField_setWord_ne {lo' len' : Nat} (h : IsWord n) (hl : lo + len ≤ 128) (hd : lo' + len' ≤ lo ∨ lo + len ≤ lo') :
    natField (setWord n lo len x) lo' len' = natField n lo' len' :=
  natField_congr fun i hi hi' => testBit_setWord_ne h hl (by omega)
theorem testBit_setWord_bit {i b : Nat} (h : IsWord n) (hi : i < 128) : (setWord n i 1 b).testBit i = b.testBit 0 := by
  rw [setWord, testBit_putWord _ _ _ _ _ h.1 (by omega), if_pos (by omega), Nat.sub_self]
end

/-! ## A post and an advance -/

theorem wordPost_eq (n target : Nat) : wordPost n target = setWord (setWord n 32 32 target) 80 1 1 := by
  rw [setWord, ofNat_setWord, wordPost]
theorem wordAdvance_eq {n : Nat} (h : IsWord n) : wordAdvance n =
    let m := setWord (setWord (setWord n 64 16 (natField n 64 16 + 1)) 0 32 (natField n 0 32 - natField n 32 32)) 80 1 0
    if natField n 0 32 - natField n 32 32 = 0 then m else setWord m 81 1 1 := by
  have hfield : ∀ lo len, fieldOf (BitVec.ofNat 128 n) lo len = natField n lo len := fun lo len => by
    rw [fieldOf, natField, BitVec.toNat_ofNat, Nat.mod_eq_of_lt h.1]
  simp only [wordAdvance, hfield]
  split <;> simp only [setWord, BitVec.ofNat_toNat, BitVec.setWidth_eq]

/-- R106: a post sets TARGET and arms the word. -/
theorem wordPost_spec {n : Nat} (h : IsWord n) (target : Nat) : IsWord (wordPost n target) ∧
    natField (wordPost n target) 32 32 = target % 2 ^ 32 ∧ natField (wordPost n target) 0 32 = natField n 0 32 ∧
    natField (wordPost n target) 64 16 = natField n 64 16 ∧ (wordPost n target).testBit 80 = true ∧
    ∀ i, 81 ≤ i → (wordPost n target).testBit i = n.testBit i := by
  have h1 : IsWord (setWord n 32 32 target) := isWord_setWord h (by decide)
  rw [wordPost_eq]
  refine ⟨isWord_setWord h1 (by decide), ?_, ?_, ?_, testBit_setWord_bit h1 (by decide), fun i hi => ?_⟩
  · rw [natField_setWord_ne h1 (by decide) (.inl (by decide)), natField_setWord h (by decide)]
  · rw [natField_setWord_ne h1 (by decide) (.inl (by decide)), natField_setWord_ne h (by decide) (.inl (by decide))]
  · rw [natField_setWord_ne h1 (by decide) (.inl (by decide)), natField_setWord_ne h (by decide) (.inr (by decide))]
  · rw [testBit_setWord_ne h1 (by decide) (.inr (by omega)), testBit_setWord_ne h (by decide) (.inr (by omega))]

/-- R202: an advance counts the generation, takes TARGET off COUNT and disarms the word; OVER says that bytes are left. -/
theorem wordAdvance_spec {n : Nat} (h : IsWord n) : IsWord (wordAdvance n) ∧
    natField (wordAdvance n) 32 32 = natField n 32 32 ∧
    natField (wordAdvance n) 0 32 = natField n 0 32 - natField n 32 32 ∧
    natField (wordAdvance n) 64 16 = (natField n 64 16 + 1) % 2 ^ 16 ∧ (wordAdvance n).testBit 80 = false ∧
    (wordAdvance n).testBit 81 = (n.testBit 81 || decide (natField n 0 32 - natField n 32 32 ≠ 0)) ∧
    ∀ i, 82 ≤ i → (wordAdvance n).testBit i = n.testBit i := by
  have hlt : natField n 0 32 - natField n 32 32 < 2 ^ 32 :=
    lt_of_le_of_lt (Nat.sub_le _ _) (Nat.mod_lt _ (Nat.two_pow_pos 32))
  rw [wordAdvance_eq h]
  generalize natField n 0 32 - natField n 32 32 = left at hlt
  have h1 : IsWord (setWord n 64 16 (natField n 64 16 + 1)) := isWord_setWord h (by decide)
  have h2 : IsWord (setWord (setWord n 64 16 (natField n 64 16 + 1)) 0 32 left) := isWord_setWord h1 (by decide)
  obtain ⟨m, hm⟩ : ∃ m, m = setWord (setWord (setWord n 64 16 (natField n 64 16 + 1)) 0 32 left) 80 1 0 := ⟨_, rfl⟩
  have h3 : IsWord m := hm ▸ isWord_setWord h2 (by decide)
  have htarget : natField m 32 32 = natField n 32 32 := by
    rw [hm, natField_setWord_ne h2 (by decide) (.inl (by decide)), natField_setWord_ne h1 (by decide) (.inr (by decide)),
      natField_setWord_ne h (by decide) (.inl (by decide))]
  have hcount : natField m 0 32 = left := by
    rw [hm, natField_setWord_ne h2 (by decide) (.inl (by decide)), natField_setWord h1 (by decide), Nat.mod_eq_of_lt hlt]
  have hgen : natField m 64 16 = (natField n 64 16 + 1) % 2 ^ 16 := by
    rw [hm, natField_setWord_ne h2 (by decide) (.inl (by decide)), natField_setWord_ne h1 (by decide) (.inr (by decide)),
      natField_setWord h (by decide)]
  have harm : m.testBit 80 = false := by rw [hm, testBit_setWord_bit h2 (by decide)]; rfl
  have hrest : ∀ i, 81 ≤ i → m.testBit i = n.testBit i := fun i hi => by
    rw [hm, testBit_setWord_ne h2 (by decide) (.inr (by omega)), testBit_setWord_ne h1 (by decide) (.inr (by omega)),
      testBit_setWord_ne h (by decide) (.inr (by omega))]
  rw [← hm]
  dsimp only
  by_cases h0 : left = 0
  · rw [if_pos h0]
    refine ⟨h3, htarget, hcount, hgen, harm, ?_, fun i hi => hrest i (by omega)⟩
    rw [hrest 81 (le_refl _), decide_eq_false (not_not.mpr h0), Bool.or_false]
  · rw [if_neg h0]
    refine ⟨isWord_setWord h3 (by decide), ?_, ?_, ?_, ?_, ?_, fun i hi => ?_⟩
    · rw [natField_setWord_ne h3 (by decide) (.inl (by decide)), htarget]
    · rw [natField_setWord_ne h3 (by decide) (.inl (by decide)), hcount]
    · rw [natField_setWord_ne h3 (by decide) (.inl (by decide)), hgen]
    · rw [testBit_setWord_ne h3 (by decide) (.inl (by decide)), harm]
    · rw [testBit_setWord_bit h3 (by decide), decide_eq_true h0, Bool.or_true]
      rfl
    · rw [testBit_setWord_ne h3 (by decide) (.inr (by omega)), hrest i (by omega)]

end Sys2Proof.Machine
end

section
/-!
SUPPORT. What completions leave (R196 to R200), and a post that is performed (R106, R202).
-/
namespace Sys2Proof.Machine

/-! ## Sync words in the state -/

section
variable {s : State} {c slot : Nat}

theorem wordAddr_eq (c slot : Nat) : spAddr c (slot / 8) + 16 * (slot % 8) = spAddr c 0 + 16 * slot := by
  unfold spAddr
  omega
theorem State.syncWord_eq (s : State) (c slot : Nat) : s.syncWord c slot = wordMask (s.mem.load (spAddr c 0 + 16 * slot) 16) := by
  rw [syncWord, wordAddr_eq]
theorem State.isWord_syncWord (s : State) (c slot : Nat) : IsWord (s.syncWord c slot) := isWord_wordMask _
theorem State.setSyncWord_mem (s : State) (c slot v : Nat) :
    (s.setSyncWord c slot v).mem = s.mem.store (spAddr c 0 + 16 * slot) 16 v := by
  rw [← wordAddr_eq]
  rfl
/-- R106: what a word reads after it has been written. -/
theorem State.syncWord_setSyncWord {v : Nat} (h : IsWord v) : (s.setSyncWord c slot v).syncWord c slot = v := by
  have hlt : v < 256 ^ 16 := h.1
  rw [syncWord_eq, setSyncWord_mem, Memory.load_store, Nat.mod_eq_of_lt hlt, wordMask_of_isWord h]
theorem State.read_setSyncWord (s : State) {v b : Nat} (h : b < spAddr c 0 + 16 * slot ∨ spAddr c 0 + 16 * slot + 16 ≤ b) :
    (s.setSyncWord c slot v).mem.read b = s.mem.read b := by
  rw [setSyncWord_mem, Memory.read_store, if_neg (by omega)]

theorem Bank.wrote_launch (b : Bank) (flat : Nat) : (b.wrote flat).launch = b.launch := by
  unfold Bank.wrote
  split <;> rfl
theorem State.setSyncWord_core (s : State) (c slot v : Nat) : (s.setSyncWord c slot v).core c =
    (s.core c).setBank (bankOf (slot / 8)) (((s.core c).bank (bankOf (slot / 8))).wrote (slot / 8)) := by
  unfold State.setSyncWord
  exact State.core_modCore ..
theorem State.wordLaunch_setSyncWord (s : State) (c slot v : Nat) :
    (s.setSyncWord c slot v).wordLaunch c slot = s.wordLaunch c slot := by
  have hbank : (((s.setSyncWord c slot v).core c).bank (bankOf (slot / 8))).launch =
      ((s.core c).bank (bankOf (slot / 8))).launch := by
    rw [setSyncWord_core, Core.bank_setBank, Bank.wrote_launch]
  unfold State.wordLaunch
  rw [hbank]
  rfl

/-- A word of no launch, or of one that neither records nor replays. -/
def State.PlainWord (s : State) (c slot : Nat) : Prop :=
  ∀ l vc y, s.wordLaunch c slot = some (l, vc, y) → l.recording = false ∧ l.replay = false

theorem State.launchOf_lidx {s : State} {n : Nat} {l : Launch} (h : s.launchOf n = some l) : l.lidx = n := by
  unfold State.launchOf at h
  simpa using List.find?_some h
/-- The launch of a word is the one its number names. -/
theorem State.launchOf_wordLaunch {l : Launch} {vc y : Nat} (h : s.wordLaunch c slot = some (l, vc, y)) :
    s.launchOf l.lidx = some l := by
  unfold State.wordLaunch at h
  split at h
  case h_1 => cases h
  case h_2 m hm =>
    split at h
    case h_1 => cases h
    case h_2 p hp =>
      obtain ⟨rfl, -⟩ := Prod.mk.inj (Option.some.inj h)
      rw [launchOf_lidx hm, hm]

theorem State.replayAdvances_of_none {lidx : Nat} (h : s.replayOf lidx = none) (n : Nat) :
    State.replayAdvances lidx n s = s := by
  cases n with
  | zero => rfl
  | succ n => rw [State.replayAdvances, h]

/-- R202: an advance that is due takes place at once. -/
theorem State.tryAdvance_plain (h : s.PlainWord c slot) : s.tryAdvance c slot =
    if wordDue (s.syncWord c slot) = true then s.advanceWord c slot (s.syncWord c slot) else s := by
  unfold State.tryAdvance
  by_cases hdue : wordDue (s.syncWord c slot) = true
  · simp only [hdue, Bool.not_true, Bool.false_eq_true, if_false, if_true]
    cases hl : s.wordLaunch c slot with
    | none => rfl
    | some p =>
      obtain ⟨l, vc, y⟩ := p
      obtain ⟨hrec, hrep⟩ := h l vc y hl
      have hlaunch : (s.advanceWord c slot (s.syncWord c slot)).launchOf l.lidx = some l :=
        (rfl : _ = s.launchOf l.lidx).trans (launchOf_wordLaunch hl)
      simp only [hrep, Bool.false_eq_true, if_false, State.logEvent, hlaunch, hrec]
  · simp only [Bool.not_eq_true] at hdue
    simp [hdue]
theorem State.wordLaunch_advanceWord (s : State) (c slot v : Nat) :
    (s.advanceWord c slot v).wordLaunch c slot = s.wordLaunch c slot := by
  rw [← wordLaunch_setSyncWord s c slot (wordAdvance v)]
  unfold State.advanceWord State.wordLaunch
  rw [core_modCore]
  rfl
theorem State.advances_plain (h : s.PlainWord c slot) : s.advances c slot =
    if wordDue (s.syncWord c slot) = true then s.advanceWord c slot (s.syncWord c slot) else s := by
  have hword : (s.tryAdvance c slot).wordLaunch c slot = s.wordLaunch c slot := by
    rw [tryAdvance_plain h]
    split
    · exact wordLaunch_advanceWord ..
    · rfl
  rw [← tryAdvance_plain h, State.advances]
  rw [hword]
  cases hl : s.wordLaunch c slot with
  | none => rfl
  | some p =>
    obtain ⟨l, vc, y⟩ := p
    refine replayAdvances_of_none ?_ _
    have hlaunch : (s.tryAdvance c slot).launchOf l.lidx = some l := launchOf_wordLaunch (hword.trans hl)
    rw [State.replayOf, hlaunch]
    exact if_neg (by rw [(h l vc y hl).2]; exact Bool.false_ne_true)

/-- R106: a post on a plain word: the word is armed with its target, and advances at once when that is due. -/
theorem State.post_plain (h : s.PlainWord c slot) (target : Nat) : s.post c slot target =
    if wordDue (wordPost (s.syncWord c slot) target) = true then
      (s.setSyncWord c slot (wordPost (s.syncWord c slot) target)).advanceWord c slot (wordPost (s.syncWord c slot) target)
    else s.setSyncWord c slot (wordPost (s.syncWord c slot) target) := by
  have hword := (wordPost_spec (s.isWord_syncWord c slot) target).1
  have hplain : (s.setSyncWord c slot (wordPost (s.syncWord c slot) target)).PlainWord c slot := fun l vc y hl =>
    h l vc y (by rwa [wordLaunch_setSyncWord] at hl)
  rw [State.post, advances_plain hplain, syncWord_setSyncWord hword]

end

/-! ## What completions leave -/

/-- What the completion of commands and of accesses leaves: memory, the advances of the cycle, and outbound queues that
hold nothing. -/
structure State.Completes (s t : State) : Prop where
  mem : t.mem = s.mem
  advances : ∀ d, (t.core d).advances = (s.core d).advances
  out : ∀ d y, (s.ctx d y).out = [] → (t.ctx d y).out = []

namespace State.Completes
variable {s t u : State}
theorem refl (s : State) : s.Completes s := ⟨rfl, fun _ => rfl, fun _ _ h => h⟩
theorem trans (h : s.Completes t) (h' : t.Completes u) : s.Completes u :=
  ⟨h'.mem.trans h.mem, fun d => (h'.advances d).trans (h.advances d), fun d y hy => h'.out d y (h.out d y hy)⟩
theorem of_later (h : Later s t) : s.Completes t :=
  ⟨h.mem, fun d => by rw [h.core], fun d y hy => by rw [h.ctx]; exact hy⟩
theorem modCore {f : Core → Core} (hadv : ∀ k, (f k).advances = k.advances)
    (hout : ∀ k y, (k.ctx y).out = [] → ((f k).ctx y).out = []) (s : State) (c : Nat) : s.Completes (s.modCore c f) where
  mem := rfl
  advances d := by
    by_cases h : d = c
    · rw [h, State.core_modCore, hadv]
    · rw [State.core_modCore_ne _ _ _ _ h]
  out d y hy := by
    by_cases h : d = c
    · subst h
      rw [State.ctx_modCore]
      exact hout _ _ hy
    · rw [State.ctx, State.core_modCore_ne _ _ _ _ h]
      exact hy
theorem modCtx {f : Ctx → Ctx} (hout : ∀ v, v.out = [] → (f v).out = []) (s : State) (c x : Nat) :
    s.Completes (s.modCtx c x f) := by
  rw [State.modCtx_eq_modCore]
  refine .modCore (f := fun k => k.setCtx x (f (k.ctx x))) (fun _ => rfl) (fun k y hy => ?_) s c
  by_cases h : y = x
  · subst h
    rw [Core.ctx_setCtx]
    exact hout _ hy
  · rwa [Core.ctx_setCtx_ne _ _ _ _ h]
/-- A fold whose steps are completions. -/
theorem foldl {α : Type} {f : State → α → State} (hf : ∀ (s : State) (a : α), s.Completes (f s a)) (l : List α) (s : State) :
    s.Completes (l.foldl f s) := by
  induction l generalizing s with
  | nil => exact refl s
  | cons a l ih => exact (hf s a).trans (ih _)
end State.Completes

theorem Core.ctx_settle (k : Core) (cmd : Nat) (st : BitVec 8) (addr cyc x : Nat) :
    (Core.settle cmd st addr cyc k).ctx x = (k.ctx x).settle cmd st addr cyc :=
  FMap.get_map k.ctxs (g := fun _ v => Ctx.settle cmd st addr cyc v) rfl
theorem Core.finishJoins_keeps (cyc n : Nat) (k : Core) : (Core.finishJoins cyc n k).advances = k.advances ∧
    ∀ y, (k.ctx y).out = [] → ((Core.finishJoins cyc n k).ctx y).out = [] := by
  induction n generalizing k with
  | zero => exact ⟨rfl, fun _ h => h⟩
  | succ n ih =>
    rw [Core.finishJoins]
    split
    · exact ⟨rfl, fun _ h => h⟩
    case h_2 j hj =>
      obtain ⟨hadv, hout⟩ := ih (Core.settle j.id (inputStatus j.ins).1 (inputStatus j.ins).2 cyc
        ({ k with joins := k.joins.filter (fun i => decide (i.id ≠ j.id)) }.noteEnded j cyc))
      refine ⟨hadv, fun y hy => hout y ?_⟩
      rw [Core.ctx_settle]
      exact List.map_eq_nil_iff.mpr hy

section
variable (s : State) (c x : Nat)

theorem State.later_wake : Later s (s.wake c) := by
  have hw : ∀ (b : Bool) (i : Instr) (t : State), Later t (if b then t.schedule s.cyc i else t) :=
    fun b i t => .ite (.schedule ..) (.refl t)
  exact ((((hw _ _ s).trans (hw _ _ _)).trans (hw _ _ _)).trans (hw _ _ _)).trans (hw _ _ _)
theorem State.later_retryRelease : Later s (s.retryRelease c) :=
  .foldl (fun t _ => .ite (.refl t) (.schedule ..)) _ _
theorem State.completes_settleRewind : s.Completes (s.settleRewind c x) := by
  unfold State.settleRewind
  dsimp only
  split
  · exact .refl s
  · split
    · exact .refl s
    · exact State.Completes.trans (.modCtx (fun v hv => by exact hv) s c x) (.of_later (.schedule ..))
theorem State.completes_completePartner (cl launch pos : Nat) : s.Completes (State.completePartner cl launch s pos) := by
  unfold State.completePartner
  split
  · exact .modCtx (fun v hv => by exact hv) s _ _
  · exact ⟨rfl, fun _ => rfl, fun _ _ h => h⟩
theorem State.completes_tryRendezvous : s.Completes (s.tryRendezvous c x) := by
  unfold State.tryRendezvous
  split
  · exact .refl s
  · dsimp only
    split
    · exact .refl s
    · exact .foldl (fun t pos => t.completes_completePartner _ _ pos) _ s
theorem State.completes_afterAccess : s.Completes (s.afterAccess c x) := by
  unfold State.afterAccess
  refine State.Completes.trans ?_ (State.completes_tryRendezvous _ c x)
  refine State.Completes.trans ?_ (State.completes_settleRewind _ c x)
  refine State.Completes.trans ?_ (.of_later (State.later_retryRelease _ c))
  refine State.Completes.trans ?_ (.of_later (State.later_wake _ c))
  refine State.Completes.trans (.modCtx (fun v hv => ?_) s c x) (.modCore (fun k => ?_) (fun k => ?_) _ c)
  · show pruneFences [] v.out = []
    rw [hv]
    rfl
  · exact (Core.finishJoins_keeps ..).1
  · exact (Core.finishJoins_keeps ..).2
theorem State.pump_of_nil {s : State} {c x : Nat} (h : (s.ctx c x).out = []) : s.pump c x = s := by
  rw [State.pump, h]
  show State.pumpRounds c x (0 + 1) s = s
  rw [State.pumpRounds, h]
  rfl
end

/-- R107: the last access of a queue leaves it, and nothing of memory changes. -/
theorem State.finishAccess_last {s : State} {c x : Nat} {a : Access} (h : (s.ctx c x).out = [a]) (st : BitVec 8) (addr : Nat) :
    (s.finishAccess c x a.num st addr).mem = s.mem ∧ ((s.finishAccess c x a.num st addr).ctx c x).out = [] ∧
      ((s.finishAccess c x a.num st addr).core c).advances = (s.core c).advances := by
  obtain ⟨t, ht⟩ : ∃ t, t = (s.modCore c (fun k => k.coverStatus x a.num st addr s.cyc)).modCtx c x
    (fun v => { v with out := v.out.filter (fun b => decide (b.num ≠ a.num)) }) := ⟨_, rfl⟩
  have hout : (t.ctx c x).out = [] := by
    rw [ht, ctx_modCtx, ctx_modCore]
    show (s.ctx c x).out.filter _ = []
    rw [h]
    simp
  have hadv : (t.core c).advances = (s.core c).advances := by
    rw [ht, modCtx_eq_modCore, core_modCore, core_modCore]
    rfl
  have hdone := t.completes_afterAccess c x
  have hdrop : s.dropAccess c x a.num st addr = t.afterAccess c x := by rw [ht]; rfl
  rw [State.finishAccess, hdrop, State.pump_of_nil (hdone.out c x hout)]
  exact ⟨hdone.mem.trans (by rw [ht]; rfl), hdone.out c x hout, (hdone.advances c).trans hadv⟩

end Sys2Proof.Machine
end

section
/-!
SUPPORT. Answers of CLAIM (R25, R273, R274): what the log of a launch changes; the release of entries (R20, R21, R107).
-/
namespace Sys2Proof.Machine

/-! ## Launches and their logs -/

theorem find?_launch_set {ls : List Launch} {n : Nat} {l m : Launch} (h : ls.find? (fun x => decide (x.lidx = n)) = some l)
    (hm : m.lidx = n) : (ls.map (fun x => if x.lidx = m.lidx then m else x)).find? (fun x => decide (x.lidx = n)) = some m := by
  induction ls with
  | nil => cases h
  | cons x ls ih =>
    by_cases hx : x.lidx = n
    · simp [hm, hx]
    · rw [List.find?_cons_of_neg (by simpa using hx)] at h
      rw [List.map_cons, if_neg (by rw [hm]; exact hx), List.find?_cons_of_neg (by simpa using hx)]
      exact ih h
/-- A launch replaced is the one its number names. -/
theorem State.launchOf_setLaunch {s : State} {n : Nat} {l m : Launch} (h : s.launchOf n = some l) (hm : m.lidx = n) :
    (s.setLaunch m).launchOf n = some m := find?_launch_set h hm

/-- What the records of a log change: memory, its launch's position, and nothing of a core or of its claims. -/
theorem State.writeLog_frame {n claims : Nat} (rs : List Nat) {s : State} (h : (s.launchOf n).map (fun l => l.claims) = some claims) :
    (State.writeLog n rs s).cores = s.cores ∧ ((State.writeLog n rs s).launchOf n).map (fun l => l.claims) = some claims := by
  induction rs generalizing s with
  | nil => exact ⟨rfl, h⟩
  | cons r rs ih =>
    obtain ⟨l, hl, hclaims⟩ := Option.map_eq_some_iff.mp h
    have hset : ∀ (t : State) (m : Launch), t.launches = s.launches → m.lidx = l.lidx → m.claims = l.claims →
        ((t.setLaunch m).launchOf n).map (fun l => l.claims) = some claims := fun t m ht hm hc => by
      have ht' : t.launchOf n = some l := by rw [launchOf, ht]; exact hl
      rw [launchOf_setLaunch ht' (hm.trans (launchOf_lidx hl)), ← hclaims, ← hc]
      rfl
    rw [writeLog, hl]
    dsimp only
    split
    · exact ⟨rfl, h⟩
    split
    · exact ⟨rfl, hset s _ rfl rfl rfl⟩
    split
    · exact ⟨rfl, hset s _ rfl rfl rfl⟩
    case h_2 pa _ =>
      have hperform : (s.performAt pa (bytesOf 16 r)).cores = s.cores ∧ (s.performAt pa (bytesOf 16 r)).launches = s.launches := by
        unfold State.performAt State.performBytes
        split
        · exact ⟨rfl, rfl⟩
        · dsimp only
          split <;> exact ⟨rfl, rfl⟩
      obtain ⟨hcores, hlaunch⟩ := ih (hset (s.performAt pa (bytesOf 16 r)) { l with logpos := l.logpos + 1 } hperform.2 rfl rfl)
      exact ⟨hcores.trans hperform.1, hlaunch⟩
theorem State.logEvent_frame {s : State} {n claims : Nat} (recs : Nat → List Nat)
    (h : (s.launchOf n).map (fun l => l.claims) = some claims) :
    (s.logEvent n recs).cores = s.cores ∧ ((s.logEvent n recs).launchOf n).map (fun l => l.claims) = some claims := by
  unfold State.logEvent
  split
  · exact ⟨rfl, h⟩
  · split
    · exact writeLog_frame _ (s := { s with logSeq := s.logSeq + 1 }) h
    · exact ⟨rfl, h⟩
theorem State.logEvent_cores (s : State) (n : Nat) (recs : Nat → List Nat) : (s.logEvent n recs).cores = s.cores := by
  cases hl : s.launchOf n with
  | none => simp only [logEvent, hl]
  | some l => exact (logEvent_frame recs (claims := l.claims) (by rw [hl]; rfl)).1
theorem State.logEvent_of_not_recording {s : State} {n : Nat} {l : Launch} (h : s.launchOf n = some l)
    (hr : l.recording = false) (recs : Nat → List Nat) : s.logEvent n recs = s := by
  simp only [logEvent, h, hr, Bool.false_eq_true, if_false]

/-! ## Replayed advances leave the contexts -/

theorem State.sameCtxs_setSyncWord (s : State) (c slot v : Nat) : s.SameCtxs (s.setSyncWord c slot v) := by
  unfold State.setSyncWord
  exact State.SameCtxs.trans (State.SameCtxs.of_cores rfl) (.modCore (f := fun k =>
    k.setBank (bankOf (slot / 8)) ((k.bank (bankOf (slot / 8))).wrote (slot / 8))) (fun _ => rfl) _ c)
theorem State.sameCtxs_advanceWord (s : State) (c slot v : Nat) : s.SameCtxs (s.advanceWord c slot v) :=
  (s.sameCtxs_setSyncWord c slot _).trans (.modCore (f := fun k =>
    { k with advances := k.advances.filter (fun e => decide (e.2 = s.cyc)) ++ [(slot, s.cyc)] }) (fun _ => rfl) _ c)
theorem State.sameCtxs_tryAdvance (s : State) (c slot : Nat) : s.SameCtxs (s.tryAdvance c slot) := by
  unfold State.tryAdvance
  dsimp only
  split
  · exact .refl s
  split
  · exact s.sameCtxs_advanceWord c slot _
  split
  · split
    · exact (s.sameCtxs_advanceWord c slot _).trans (.of_cores rfl)
    · exact .refl s
  · exact (s.sameCtxs_advanceWord c slot _).trans (.of_cores (State.logEvent_cores ..))
theorem State.sameCtxs_replayAdvances (lidx n : Nat) (s : State) : s.SameCtxs (State.replayAdvances lidx n s) := by
  induction n generalizing s with
  | zero => exact .refl s
  | succ n ih =>
    rw [State.replayAdvances]
    split
    · exact .refl s
    dsimp only
    split
    · exact .refl s
    split
    · exact .refl s
    split
    · exact s.sameCtxs_tryAdvance _ _
    split
    · exact s.sameCtxs_tryAdvance _ _
    · exact (s.sameCtxs_tryAdvance _ _).trans (ih _)
theorem State.sameCtxs_replayed (s : State) (lidx n : Nat) : s.SameCtxs (s.replayed lidx n) := by
  unfold State.replayed
  split
  · exact .refl s
  · exact State.SameCtxs.trans (.of_cores rfl) (sameCtxs_replayAdvances _ _ _)

/-! ## The answer of a CLAIM -/

/-- The entry that brings the answer of a CLAIM to its register (R25). -/
def ClaimWait.answer (w : ClaimWait) (index : Word) : Pending :=
  { dest := .creg w.dest, val := (index ^^^ w.flip).setWidth 1024, mask := BitVec.allOnes 32, rem := 1, flg := 0,
    mark := .clean, addr := 0 }
/-- A running context as the answer of its CLAIM leaves it. -/
def Ctx.answered (v : Ctx) (w : ClaimWait) (index : Word) : Ctx :=
  { v with claimWait := none, claims := v.claims ++ [index], replay := v.claims.length + 1, pwq := v.pwq ++ [w.answer index] }
theorem State.answerClaim_running {s : State} {c x : Nat} (h : (s.ctx c x).status = .running) (w : ClaimWait) (index : Word) :
    s.answerClaim c x w index = s.setCtx c x ((s.ctx c x).answered w index) := by
  have hset : s.answerClaim c x w index = (s.setCtx c x ((s.ctx c x).answered w index)).afterAnswer c x :=
    congrArg (fun v => (s.setCtx c x v).afterAnswer c x) (if_pos h)
  have hstatus : ((s.setCtx c x ((s.ctx c x).answered w index)).ctx c x).status = .running := by
    rw [State.ctx_setCtx]
    exact h
  rw [hset, State.afterAnswer, hstatus]

end Sys2Proof.Machine

namespace Sys2Proof
open Sys2Proof.Machine

theorem claimAnswers : ClaimAnswers := by
  intro s c x l w hc hx hl hw hrun
  have hunit : ¬(Config.cores ≤ c ∨ 5 ≤ x) := not_or.mpr ⟨Nat.not_le.mpr hc, Nat.not_le.mpr hx⟩
  have hlidx := State.launchOf_lidx hl
  refine ⟨fun hrep => ?fresh, fun hrep => ⟨fun i n hlog => ?logged, fun hlog => ?waits⟩⟩
  case fresh =>
    have hreplay : s.replayOf (s.ctx c x).launch = none := by simp only [State.replayOf, hl, hrep, Bool.false_eq_true, if_false]
    obtain ⟨index, hindex⟩ : ∃ index : Word,
      index = if l.claims < l.wcnt then BitVec.ofNat 64 l.claims else BitVec.ofInt 64 (-1) := ⟨_, rfl⟩
    obtain ⟨m, hm⟩ : ∃ m : Launch, m = if l.claims < l.wcnt then { l with claims := l.claims + 1 } else l := ⟨_, rfl⟩
    have hmfacts : m.lidx = l.lidx ∧ m.recording = l.recording ∧
        m.claims = if l.claims < l.wcnt then l.claims + 1 else l.claims := by
      rw [hm]
      split <;> exact ⟨rfl, rfl, rfl⟩
    obtain ⟨hmlidx, hmrec, hmclaims⟩ := hmfacts
    obtain ⟨s1, htake, hmem, hctx, hlaunch⟩ : ∃ s1, s.takeIndex (s.ctx c x).launch = (index, s1) ∧ s1.mem = s.mem ∧
        s1.SameCtxs s ∧ s1.launchOf (s.ctx c x).launch = some m := by
      unfold State.takeIndex
      rw [hl]
      dsimp only
      by_cases hlt : l.claims < l.wcnt
      · rw [if_pos hlt] at hm hindex ⊢
        exact ⟨s.setLaunch m, by rw [hindex, hm], rfl, .of_cores rfl, State.launchOf_setLaunch hl (hmlidx.trans hlidx)⟩
      · rw [if_neg hlt] at hm hindex ⊢
        exact ⟨_, by rw [hindex]; rfl, rfl, .refl s, hm ▸ hl⟩
    obtain ⟨t, ht⟩ : ∃ t, t = (s1.setCtx c x ((s.ctx c x).answered w index)).logEvent (s.ctx c x).launch
      (claimRecord (s.ctx c x).vcore x index.toNat) := ⟨_, rfl⟩
    have hexec : exec (.claimAnswer c x) s = .next t := by
      have hans : s1.answerClaim c x w index = s1.setCtx c x ((s.ctx c x).answered w index) := by
        rw [State.answerClaim_running ((congrArg Ctx.status (hctx c x)).symm.trans hrun), hctx c x]
      show onCtx c x _ = _
      rw [onCtx, if_neg hunit]
      simp only [hw, hreplay, htake, hans, ht]
    have hset : ((s1.setCtx c x ((s.ctx c x).answered w index)).launchOf (s.ctx c x).launch) = some m := hlaunch
    obtain ⟨hcores, hclaims⟩ := State.logEvent_frame (claimRecord (s.ctx c x).vcore x index.toNat)
      (show ((s1.setCtx c x ((s.ctx c x).answered w index)).launchOf (s.ctx c x).launch).map (fun l => l.claims) =
        some m.claims by rw [hset]; rfl)
    have hu : t.ctx c x = (s.ctx c x).answered w index := by
      rw [ht, State.SameCtxs.of_cores hcores c x, State.ctx_setCtx]
    refine ⟨t, hexec, ?_, fun hrec => ?_, ?_⟩
    · dsimp only
      rw [hu, ← hindex]
      exact ⟨rfl, rfl, rfl, rfl⟩
    · rw [ht, State.logEvent_of_not_recording hset (hmrec.trans hrec)]
      exact hmem
    · rw [ht, hlidx, hclaims, hmclaims]
  case logged =>
    have hreplay : s.replayOf (s.ctx c x).launch = some l := by simp only [State.replayOf, hl, hrep, if_true]
    refine ⟨((s.setCtx c x ((s.ctx c x).answered w (BitVec.ofNat 64 i))).replayed (s.ctx c x).launch n), ?_, ?_⟩
    · show onCtx c x _ = _
      rw [onCtx, if_neg hunit]
      simp only [hw, hreplay, hlog, State.answerClaim_running hrun]
    · beta_reduce
      rw [State.sameCtxs_replayed _ _ _ c x, State.ctx_setCtx]
      exact ⟨rfl, rfl, rfl, rfl⟩
  case waits =>
    have hreplay : s.replayOf (s.ctx c x).launch = some l := by simp only [State.replayOf, hl, hrep, if_true]
    refine ⟨s.scheduleFree (.claimAnswer c x), ?_, rfl, rfl, _, ?_, State.mem_schedule.mpr (.inl rfl)⟩
    · show onCtx c x _ = _
      rw [onCtx, if_neg hunit]
      simp only [hw, hreplay, hlog]
    · show s.cyc < s.cyc + 1 + _
      omega

end Sys2Proof
end

section
/-!
SUPPORT. Released entries enter the outbound queue, and accesses begin (R20, R21, R107).
-/
namespace Sys2Proof.Machine

/-! ## What the beginning of accesses leaves -/

/-- What stays of an access as it moves on. -/
def Access.face (a : Access) : Nat × Nat × AccessKind × Nat × Nat := (a.num, a.oc, a.kind, a.va, a.pa)
/-- An address that lies in no peer window. -/
def NoWindow (pa : Nat) : Prop := ∀ w, placeOf pa ≠ .window w

theorem State.revoked_of_noWindow {pa : Nat} (h : NoWindow pa) (s : State) : s.revoked pa = false := by
  unfold State.revoked
  split
  case h_1 w hw => exact absurd hw (h w)
  all_goals rfl
theorem State.inflight_of_noWindow {pa : Nat} (h : NoWindow pa) (s : State) (b : Bool) : s.inflight pa b = s := by
  unfold State.inflight
  split
  case h_1 w hw => exact absurd hw (h w)
  all_goals rfl

/-- Accesses of a context have moved on, and nothing else of it has changed. -/
structure State.Begins (s t : State) (c x : Nat) : Prop where
  mem : t.mem = s.mem
  ctx : t.ctx c x = { s.ctx c x with out := (t.ctx c x).out }
  faces : (t.ctx c x).out.map Access.face = (s.ctx c x).out.map Access.face
  ports : (t.core c).ports = (s.core c).ports

namespace State.Begins
variable {s t u : State} {c x : Nat}
theorem refl (s : State) (c x : Nat) : s.Begins s c x := ⟨rfl, rfl, rfl, rfl⟩
theorem trans (h : s.Begins t c x) (h' : t.Begins u c x) : s.Begins u c x :=
  ⟨h'.mem.trans h.mem, h'.ctx.trans (by rw [h.ctx]), h'.faces.trans h.faces, h'.ports.trans h.ports⟩
theorem of_cores (hm : t.mem = s.mem) (hc : t.cores = s.cores) : s.Begins t c x := by
  have h := State.SameCtxs.of_cores hc c x
  exact ⟨hm, by rw [h], by rw [h], by rw [State.core, State.core, hc]⟩
end State.Begins

theorem Ctx.faces_modAccess (v : Ctx) (num : Nat) (p : Progress) :
    (v.modAccess num (fun b => { b with progress := p })).out.map Access.face = v.out.map Access.face := by
  show (v.out.map _).map _ = _
  rw [List.map_map]
  refine List.map_congr_left fun a _ => ?_
  show Access.face (if a.num = num then _ else a) = _
  split <;> rfl
theorem State.begins_modAccess (s : State) (c x num : Nat) (p : Progress) :
    s.Begins (s.modAccess c x num (fun b => { b with progress := p })) c x := by
  have h : (s.modAccess c x num (fun b => { b with progress := p })).ctx c x =
      (s.ctx c x).modAccess num (fun b => { b with progress := p }) := State.ctx_modCtx ..
  exact ⟨rfl, by rw [h]; rfl, by rw [h]; exact Ctx.faces_modAccess .., by rw [State.modAccess, State.core_modCtx]; rfl⟩
theorem State.startWrite_frame (s : State) (c x acc unit : Nat) {pa : Nat} (h : NoWindow pa) (bs : List Byte) :
    (s.startWrite c x acc unit pa bs).mem = s.mem ∧ (s.startWrite c x acc unit pa bs).cores = s.cores := by
  unfold State.startWrite
  dsimp only
  rw [State.inflight_of_noWindow h]
  split <;> exact ⟨rfl, rfl⟩
/-- An access that goes through no window only sets out. -/
theorem State.begins_beginAccess (s : State) (c x : Nat) {a : Access} (h : NoWindow a.pa) :
    s.Begins (s.beginAccess c x a) c x := by
  refine (s.begins_modAccess c x a.num .started).trans ?_
  unfold State.beginAccess
  dsimp only
  generalize s.modAccess c x a.num (fun b => { b with progress := .started }) = s1
  have hrev := State.revoked_of_noWindow h s
  cases a.kind with
  | loadTile o => rw [State.inflight_of_noWindow h]; exact .of_cores rfl rfl
  | loadReg n => rw [State.inflight_of_noWindow h]; exact .of_cores rfl rfl
  | storeLine v =>
    obtain ⟨hm, hc⟩ := s1.startWrite_frame c x a.num 0 h (bytesOf 128 v.toNat)
    simp only [hrev, Bool.false_eq_true, if_false]
    exact .of_cores hm hc
  | storeWord v =>
    obtain ⟨hm, hc⟩ := s1.startWrite_frame c x a.num 0 h (bytesOf 8 v.toNat)
    simp only [hrev, Bool.false_eq_true, if_false]
    exact .of_cores hm hc
  | post w v => exact .of_cores rfl rfl
  | command j =>
    dsimp only
    split
    · exact .of_cores rfl rfl
    · split
      · split
        · exact .of_cores rfl rfl
        · exact .refl s1 c x
      · exact .refl s1 c x
  | grow v => exact .refl s1 c x
  | fence m sc => exact .refl s1 c x
  | rel m sc => exact .refl s1 c x
  | acq m => exact .refl s1 c x

theorem mem_of_mem_startable {a : Access} {l : List Access} : ∀ {earlier : List Access}, a ∈ startable earlier l → a ∈ l := by
  induction l with
  | nil => intro _ h; cases h
  | cons b l ih =>
    intro earlier h
    rcases List.mem_append.mp h with h | h
    · split at h
      · rw [List.mem_singleton.mp h]
        exact List.mem_cons_self
      · cases h
    · exact List.mem_cons_of_mem _ (ih h)
theorem noWindow_of_faces {l m : List Access} (h : l.map Access.face = m.map Access.face) (hm : ∀ a ∈ m, NoWindow a.pa) :
    ∀ a ∈ l, NoWindow a.pa := by
  intro a ha
  have hface : a.face ∈ m.map Access.face := h ▸ List.mem_map_of_mem ha
  obtain ⟨b, hb, hba⟩ := List.mem_map.mp hface
  have hpa : b.pa = a.pa := congrArg (fun f => f.2.2.2.2) hba
  exact hpa ▸ hm b hb

theorem State.begins_foldl (c x : Nat) (l : List Access) (s : State) (h : ∀ a ∈ l, NoWindow a.pa) :
    s.Begins (l.foldl (fun t b => t.beginAccess c x b) s) c x := by
  induction l generalizing s with
  | nil => exact .refl s c x
  | cons a l ih =>
    exact (s.begins_beginAccess c x (h a List.mem_cons_self)).trans (ih _ fun b hb => h b (List.mem_cons_of_mem _ hb))
theorem State.begins_pumpRounds (c x n : Nat) (s : State) (h : ∀ a ∈ (s.ctx c x).out, NoWindow a.pa) :
    s.Begins (State.pumpRounds c x n s) c x := by
  induction n generalizing s with
  | zero => exact .refl s c x
  | succ n ih =>
    rw [State.pumpRounds]
    split
    · exact .refl s c x
    case h_2 a l hstart =>
      have hfold := State.begins_foldl c x (a :: l) s fun b hb => h b (mem_of_mem_startable (hstart ▸ hb))
      exact hfold.trans (ih _ (noWindow_of_faces hfold.faces h))
/-- Accesses that may begin do; the queue keeps what it holds. -/
theorem State.begins_pump (s : State) (c x : Nat) (h : ∀ a ∈ (s.ctx c x).out, NoWindow a.pa) : s.Begins (s.pump c x) c x :=
  State.begins_pumpRounds c x _ s h

/-! ## Entries that enter -/

/-- An entry as it stands in the outbound queue. -/
def Held.access (h : Held) : Access :=
  { num := h.num, oc := h.oc, kind := h.kind, va := h.va, pa := h.pa, progress := .waiting, discard := false, served := none }
/-- A store or a post. -/
def AccessKind.Writes (k : AccessKind) : Prop := (∃ v, k = .storeLine v) ∨ (∃ v, k = .storeWord v) ∨ ∃ w v, k = .post w v

theorem AccessKind.Writes.isFence {k : AccessKind} (h : k.Writes) : k.isFence = false := by
  obtain ⟨v, rfl⟩ | ⟨v, rfl⟩ | ⟨w, v, rfl⟩ := h <;> rfl
theorem State.enterEntry_writes {s : State} {c x : Nat} {h : Held} (hk : h.kind.Writes) : s.enterEntry c x h =
    if 32 ≤ classedCount (s.ctx c x).out then none
    else some (s.modCtx c x (fun u => { u with out := u.out ++ [h.access] })) := by
  unfold State.enterEntry
  obtain ⟨v, hv⟩ | ⟨v, hv⟩ | ⟨w, v, hv⟩ := hk <;> simp only [hv, Held.access]
theorem classedCount_append (l : List Access) {a : Access} (h : a.kind.isFence = false) :
    classedCount (l ++ [a]) = classedCount l + 1 := by
  simp [classedCount, h]

/-- R20, R21: stores and posts enter in their order while there is room. -/
theorem State.enterAll_writes (c x : Nat) (l : List Held) (s : State) (h : ∀ e ∈ l, e.kind.Writes) :
    State.enterAll c x l s = s.modCtx c x (fun v => { v with
      out := v.out ++ (l.take (32 - classedCount (s.ctx c x).out)).map Held.access,
      releasing := l.drop (32 - classedCount (s.ctx c x).out) }) := by
  induction l generalizing s with
  | nil => simp [State.enterAll]
  | cons e l ih =>
    have he := h e List.mem_cons_self
    rw [State.enterAll, State.enterEntry_writes he]
    by_cases hfull : 32 ≤ classedCount (s.ctx c x).out
    · rw [if_pos hfull, Nat.sub_eq_zero_of_le hfull]
      simp
    · have hcount : classedCount ((s.modCtx c x (fun u => { u with out := u.out ++ [e.access] })).ctx c x).out =
          classedCount (s.ctx c x).out + 1 := by
        rw [State.ctx_modCtx]
        exact classedCount_append _ he.isFence
      obtain ⟨room, hroom⟩ : ∃ room, 32 - classedCount (s.ctx c x).out = room + 1 := ⟨31 - classedCount (s.ctx c x).out, by omega⟩
      have hroom' : 32 - (classedCount (s.ctx c x).out + 1) = room := by omega
      rw [if_neg hfull]
      dsimp only
      rw [ih _ fun b hb => h b (List.mem_cons_of_mem _ hb), hcount, hroom, hroom', State.modCtx_modCtx]
      simp only [List.take_succ_cons, List.drop_succ_cons, List.map_cons, List.append_assoc, List.singleton_append]

theorem filter_pruneFences (l : List Access) : ∀ earlier : List Access,
    (pruneFences earlier l).filter (fun a => !a.kind.isFence) = l.filter (fun a => !a.kind.isFence) := by
  induction l with
  | nil => intro _; rfl
  | cons b l ih =>
    intro earlier
    rw [pruneFences]
    split
    case isTrue hb =>
      have hf : b.kind.isFence = true := (Bool.and_eq_true _ _ ▸ hb).1
      rw [ih, List.filter_cons_of_neg (by simp [hf])]
    case isFalse => rw [List.filter_cons, ih, List.filter_cons]
theorem mem_of_mem_pruneFences {a : Access} {l : List Access} : ∀ {earlier : List Access}, a ∈ pruneFences earlier l → a ∈ l := by
  induction l with
  | nil => intro _ h; cases h
  | cons b l ih =>
    intro earlier h
    rw [pruneFences] at h
    split at h
    · exact List.mem_cons_of_mem _ (ih h)
    · rcases List.mem_cons.mp h with rfl | h
      · exact List.mem_cons_self
      · exact List.mem_cons_of_mem _ (ih h)

/-- The classed accesses of a queue, as they stand in it. -/
def classedFaces (l : List Access) : List (Nat × Nat × AccessKind × Nat × Nat) :=
  (l.filter (fun a => !a.kind.isFence)).map Access.face
theorem classedFaces_eq (l : List Access) : classedFaces l = (l.map Access.face).filter (fun f => !f.2.2.1.isFence) := by
  rw [classedFaces, List.filter_map]
  rfl

/-- R20, R21: the entries of a release, all of them stores and posts, enter in their order while there is room. -/
theorem State.drainRelease_frame {s : State} {c x : Nat} (hrel : ∀ h ∈ (s.ctx c x).releasing, h.kind.Writes ∧ NoWindow h.pa)
    (hout : ∀ a ∈ (s.ctx c x).out, NoWindow a.pa) :
    (s.drainRelease c x).mem = s.mem ∧
    (s.drainRelease c x).ctx c x = { s.ctx c x with
      out := ((s.drainRelease c x).ctx c x).out,
      releasing := (s.ctx c x).releasing.drop (32 - classedCount (s.ctx c x).out) } ∧
    classedFaces ((s.drainRelease c x).ctx c x).out = classedFaces (s.ctx c x).out ++
      ((s.ctx c x).releasing.take (32 - classedCount (s.ctx c x).out)).map (fun h => (h.num, h.oc, h.kind, h.va, h.pa)) ∧
    ((s.drainRelease c x).core c).ports = (s.core c).ports := by
  generalize hroom : 32 - classedCount (s.ctx c x).out = room
  generalize ht : s.modCtx c x (fun v => { v with
    out := pruneFences [] (v.out ++ ((s.ctx c x).releasing.take room).map Held.access),
    releasing := (s.ctx c x).releasing.drop room }) = t
  have hdrain : s.drainRelease c x = t.pump c x := by
    rw [State.drainRelease, State.enterAll_writes c x _ s fun e he => (hrel e he).1, State.modCtx_modCtx, hroom, ← ht]
  have hctx : t.ctx c x = { s.ctx c x with
      out := pruneFences [] ((s.ctx c x).out ++ ((s.ctx c x).releasing.take room).map Held.access),
      releasing := (s.ctx c x).releasing.drop room } := by rw [← ht, State.ctx_modCtx]
  have hno : ∀ a ∈ (t.ctx c x).out, NoWindow a.pa := by
    intro a ha
    rw [hctx] at ha
    rcases List.mem_append.mp (mem_of_mem_pruneFences ha) with ha | ha
    · exact hout a ha
    · obtain ⟨e, he, rfl⟩ := List.mem_map.mp ha
      exact (hrel e (List.mem_of_mem_take he)).2
  have hfaces : classedFaces (t.ctx c x).out = classedFaces (s.ctx c x).out ++
      ((s.ctx c x).releasing.take room).map (fun h => (h.num, h.oc, h.kind, h.va, h.pa)) := by
    have hall : (((s.ctx c x).releasing.take room).map Held.access).filter (fun a => !a.kind.isFence) =
        ((s.ctx c x).releasing.take room).map Held.access := by
      refine List.filter_eq_self.mpr fun a ha => ?_
      obtain ⟨e, he, rfl⟩ := List.mem_map.mp ha
      have hf : e.access.kind.isFence = false := AccessKind.Writes.isFence (hrel e (List.mem_of_mem_take he)).1
      rw [hf]
      rfl
    rw [hctx, classedFaces, filter_pruneFences, List.filter_append, hall, List.map_append, List.map_map]
    rfl
  have hbegin := t.begins_pump c x hno
  rw [hdrain]
  refine ⟨hbegin.mem.trans (by rw [← ht]; rfl), ?_, ?_, hbegin.ports.trans (by rw [← ht, State.core_modCtx]; rfl)⟩
  · rw [hbegin.ctx, hctx]
  · rw [classedFaces_eq, hbegin.faces, ← classedFaces_eq, hfaces]

/-! ## The end of engine commands -/

theorem State.core_endRun (s : State) (c : Nat) (r : Running) :
    (s.endRun c r).core c = { s.core c with runNow := some { r with ending := true } } :=
  State.core_modCore s c (fun k => k.setPipeNow .run (some { r with ending := true }))
theorem State.core_endDrain (s : State) (c : Nat) (d : Draining) :
    (s.endDrain c d).core c = { s.core c with drainNow := some { d with ending := true } } :=
  State.core_modCore s c (fun k => { k with drainNow := some { d with ending := true } })

/-! ## Posts -/

/-- What a post does when its step is due (R103, R106). -/
def State.ranPost (s : State) (c x slot : Nat) (a : Access) (v : BitVec 32) : State :=
  match (s.core c).refreshEnd (slot / 65536) s.cyc 1 with
  | some t => s.schedule t (.syncPostPerform c x a.num)
  | none => (s.post c slot v.toNat).finishAccess c x a.num 0 0

theorem State.advanceWord_mem (s : State) (c slot v : Nat) :
    (s.advanceWord c slot v).mem = (s.setSyncWord c slot (wordAdvance v)).mem := rfl
theorem State.syncWord_advanceWord {s : State} {c slot v : Nat} (h : IsWord v) :
    (s.advanceWord c slot v).syncWord c slot = wordAdvance v := by
  rw [State.syncWord_eq, State.advanceWord_mem, ← State.syncWord_eq, State.syncWord_setSyncWord (wordAdvance_spec h).1]
section
variable {s : State} {c slot target : Nat} (hplain : s.PlainWord c slot) (ht : target < 2 ^ 32)
include hplain ht

/-- A post finds its word due when COUNT has reached TARGET. -/
theorem State.post_cases : s.post c slot target = if target ≤ natField (s.syncWord c slot) 0 32 then
      (s.setSyncWord c slot (wordPost (s.syncWord c slot) target)).advanceWord c slot (wordPost (s.syncWord c slot) target)
    else s.setSyncWord c slot (wordPost (s.syncWord c slot) target) := by
  obtain ⟨-, htarget, hcount, -, harm, -⟩ := wordPost_spec (s.isWord_syncWord c slot) target
  rw [State.post_plain hplain, wordDue, htarget, hcount, natBit, harm, Bool.true_and, Nat.mod_eq_of_lt ht]
  by_cases h : target ≤ natField (s.syncWord c slot) 0 32
  · rw [if_pos h, if_pos (decide_eq_true h)]
  · rw [if_neg h, if_neg (by simpa using h)]
theorem State.sameCtxs_post : s.SameCtxs (s.post c slot target) := by
  rw [State.post_cases hplain ht]
  split
  · exact (s.sameCtxs_setSyncWord c slot _).trans (State.sameCtxs_advanceWord _ c slot _)
  · exact s.sameCtxs_setSyncWord c slot _
theorem State.read_post {b : Nat} (hb : b < spAddr c 0 + 16 * slot ∨ spAddr c 0 + 16 * slot + 16 ≤ b) :
    (s.post c slot target).mem.read b = s.mem.read b := by
  rw [State.post_cases hplain ht]
  split
  · rw [State.advanceWord_mem, State.read_setSyncWord _ hb, State.read_setSyncWord _ hb]
  · exact State.read_setSyncWord _ hb
theorem State.advances_post (h : target ≤ natField (s.syncWord c slot) 0 32) :
    (slot, s.cyc) ∈ ((s.post c slot target).core c).advances := by
  rw [State.post_cases hplain ht, if_pos h, State.advanceWord, State.core_modCore]
  exact List.mem_append_right _ (List.mem_singleton.mpr rfl)
theorem State.syncWord_post : (s.post c slot target).syncWord c slot =
    if target ≤ natField (s.syncWord c slot) 0 32 then wordAdvance (wordPost (s.syncWord c slot) target)
    else wordPost (s.syncWord c slot) target := by
  have hword := (wordPost_spec (s.isWord_syncWord c slot) target).1
  rw [State.post_cases hplain ht]
  split
  · exact State.syncWord_advanceWord hword
  · exact State.syncWord_setSyncWord hword
end

/-- R106, R202: the word that a post leaves. -/
theorem postedWord_spec {n target : Nat} (h : IsWord n) (ht : target < 2 ^ 32) :
    let new := if target ≤ natField n 0 32 then wordAdvance (wordPost n target) else wordPost n target
    natField new 32 32 = target ∧ (∀ i, 82 ≤ i → new.testBit i = n.testBit i) ∧
      (target ≤ natField n 0 32 → natField new 0 32 = natField n 0 32 - target ∧
        natField new 64 16 = (natField n 64 16 + 1) % 2 ^ 16 ∧ new.testBit 80 = false ∧
        new.testBit 81 = (n.testBit 81 || decide (natField n 0 32 ≠ target))) ∧
      (¬ target ≤ natField n 0 32 → natField new 0 32 = natField n 0 32 ∧ natField new 64 16 = natField n 64 16 ∧
        new.testBit 80 = true ∧ new.testBit 81 = n.testBit 81) := by
  obtain ⟨hp, hptarget, hpcount, hpgen, hparm, hprest⟩ := wordPost_spec h target
  generalize wordPost n target = p at hp hptarget hpcount hpgen hparm hprest
  rw [Nat.mod_eq_of_lt ht] at hptarget
  dsimp only
  by_cases hle : target ≤ natField n 0 32
  · obtain ⟨-, htarget, hcount, hgen, harm, hover, hrest⟩ := wordAdvance_spec hp
    rw [hpcount, hptarget] at hcount hover
    rw [hpgen] at hgen
    have hiff : natField n 0 32 - target ≠ 0 ↔ natField n 0 32 ≠ target := by omega
    rw [if_pos hle]
    refine ⟨htarget.trans hptarget, fun i hi => ?_, fun _ => ⟨hcount, hgen, harm, ?_⟩, fun h' => absurd hle h'⟩
    · rw [hrest i hi, hprest i (by omega)]
    · rw [hover, hprest 81 (le_refl _), decide_eq_decide.mpr hiff]
  · rw [if_neg hle]
    exact ⟨hptarget, fun i hi => hprest i (by omega), fun h' => absurd h' hle,
      fun _ => ⟨hpcount, hpgen, hparm, hprest 81 (le_refl _)⟩⟩

end Sys2Proof.Machine

namespace Sys2Proof
open Sys2Proof.Machine

theorem releaseSteps : ReleaseSteps := by
  intro s c x hc hx hrel hout
  have hunit : ¬(Config.cores ≤ c ∨ 5 ≤ x) := not_or.mpr ⟨Nat.not_le.mpr hc, Nat.not_le.mpr hx⟩
  obtain ⟨hmem, hctx, hfaces, -⟩ := State.drainRelease_frame hrel hout
  refine ⟨s.drainRelease c x, ?_, hmem, hfaces, ?_, ?_⟩
  · show onCtx c x _ = _
    rw [onCtx, if_neg hunit]
  · rw [hctx]
  · rw [hctx]

theorem watchdogSteps : WatchdogSteps := by
  intro s c x hc hx
  have hunit : ¬(Config.cores ≤ c ∨ 5 ≤ x) := not_or.mpr ⟨Nat.not_le.mpr hc, Nat.not_le.mpr hx⟩
  have hcore : ¬ Config.cores ≤ c := Nat.not_le.mpr hc
  refine ⟨fun w since hw hover => ?expired, fun w since hw hover => ?running, fun r hr hrun hend hsrc hover => ?run,
    fun d hd hend hover => ?drain⟩
  case expired =>
    have hover' : s.watchOver c since = true := decide_eq_true hover
    refine ⟨s.modCtx c x (fun v => { v with waitOn := none, events := { v.events with wdog := some (BitVec.ofNat 64 w.code) } }),
      ?_, ⟨rfl, rfl, rfl, rfl, fun d hd => State.core_modCtx_ne _ _ _ _ _ hd,
        fun y hy => State.ctx_modCtx_ne _ _ _ _ _ _ (.inr hy), ?_⟩, State.ctx_modCtx ..⟩
    · show onCtx c x _ = _
      simp only [onCtx, if_neg hunit, hw, hover', if_true]
    · rw [State.modCtx_eq_modCore, State.core_modCore]
      rfl
  case running =>
    have hover' : s.watchOver c since = false := decide_eq_false (Nat.not_le.mpr hover)
    show onCtx c x _ = _
    simp only [onCtx, if_neg hunit, hw, hover', Bool.false_eq_true, if_false]
  case run =>
    have hover' : s.watchOver c r.waitSince = true := decide_eq_true hover
    refine ⟨s.endRun c { r with stop := some { pos := 0, status := stWdog, addr := 0 } }, ?_, ?_, rfl, ?_⟩
    · show onCore c _ = _
      simp [onCore, if_neg hcore, hr, hrun, hend, hsrc, hover']
    · rw [State.core_endRun]
    · rw [State.core_endRun]
      rfl
  case drain =>
    have hover' : s.watchOver c d.waitSince = true := decide_eq_true hover
    refine ⟨s.endDrain c { d with stop := statusStop stWdog 0, todo := [] }, ?_, ?_, rfl, ?_⟩
    · show onCore c _ = _
      simp [onCore, if_neg hcore, hd, hend, hover']
    · rw [State.core_endDrain]
    · rw [State.core_endDrain]
      rfl

theorem postsPerformed : PostsPerformed := by
  intro s c x slot a v hc hx hslot hout hkind
  have hunit : ¬(Config.cores ≤ c ∨ 5 ≤ x) := not_or.mpr ⟨Nat.not_le.mpr hc, Nat.not_le.mpr hx⟩
  have hfind : (s.ctx c x).findAccess a.num = some a := by
    rw [Ctx.findAccess, hout]
    simp
  have hbank : bankOf ((spAddr c 0 + 16 * slot - spAddr c 0) / 128) = slot / 65536 := by
    simp only [bankOf, Config.bankLines, Nat.add_sub_cancel_left]
    omega
  have hword : (spAddr c 0 + 16 * slot - spAddr c 0) / 16 = slot := by omega
  have hexec : exec (.syncPostPerform c x a.num) s = onCtx c x (.next (s.ranPost c x slot a v)) := by
    show onCtx c x _ = _
    refine congrArg (onCtx c x) ?_
    unfold State.ranPost
    simp only [hfind, hkind, hbank, hword]
    cases (s.core c).refreshEnd (slot / 65536) s.cyc 1 <;> rfl
  rw [onCtx, if_neg hunit] at hexec
  refine ⟨fun due hdue => ?waits, fun hfree hplain => ?performed⟩
  case waits =>
    rw [State.ranPost, hdue] at hexec
    exact ⟨_, hexec, rfl, rfl, State.mem_schedule.mpr (.inl rfl)⟩
  case performed =>
    rw [State.ranPost, hfree] at hexec
    have ht : v.toNat < 2 ^ 32 := v.isLt
    have hword := State.syncWord_post (c := c) (slot := slot) hplain ht
    have hadv := State.advances_post (c := c) (slot := slot) hplain ht
    obtain ⟨htarget, hflags, hdue, hwaits⟩ := postedWord_spec (s.isWord_syncWord c slot) ht
    have hlast : ((s.post c slot v.toNat).ctx c x).out = [a] := by rw [State.sameCtxs_post hplain ht c x, hout]
    obtain ⟨hmem, hout', hadv'⟩ := State.finishAccess_last hlast 0 0
    have hsame : ((s.post c slot v.toNat).finishAccess c x a.num 0 0).syncWord c slot = (s.post c slot v.toNat).syncWord c slot := by
      rw [State.syncWord_eq, State.syncWord_eq, hmem]
    refine ⟨_, hexec, hout', ?_⟩
    rw [hsame, hmem, hadv', hword]
    generalize (if v.toNat ≤ natField (s.syncWord c slot) 0 32 then _ else _ : Nat) = new at htarget hflags hdue hwaits
    simp only [natField, Nat.pow_zero, Nat.div_one] at htarget hdue hwaits hadv
    refine ⟨htarget, ?_, fun i hi _ => hflags i hi, fun b hb => State.read_post hplain ht hb⟩
    by_cases hle : v.toNat ≤ s.syncWord c slot % 2 ^ 32
    · rw [if_pos hle]
      obtain ⟨h0, h1, h2, h3⟩ := hdue hle
      exact ⟨h0, h1, h2, h3, hadv hle⟩
    · rw [if_neg hle]
      exact hwaits hle

/-- Settles O35: the four kinds of step. -/
theorem waitsEndAndReleases : Obligations.WaitsEndAndReleases :=
  ⟨watchdogSteps, claimAnswers, postsPerformed, releaseSteps⟩

end Sys2Proof
end

section
/-!
SUPPORT. What a bundle does when it commits (R14, R17): its effects in the order of the slots, then the next bundle.
-/
namespace Sys2Proof.Machine

theorem State.withInjection_of_disarmed {s : State} {c : Nat} (h : (s.core c).inj.getLsbD 2 = false) (x pc : Nat)
    (effs : List (Nat × Effect)) : s.withInjection c x pc effs = (effs, s) := by
  have hm : (s.core c).injMatches x pc effs = false := by rw [Core.injMatches, bitOf, BitVec.testBit_toNat, h, Bool.false_and]
  rw [State.withInjection, hm]
  rfl

theorem State.endBundle_of_not_ends {e : Effect} (h : e.endsSegment = false) (s : State) (c x : Nat) :
    s.endBundle c x e = s := by
  unfold State.endBundle
  split
  · cases h
  · cases h
  · cases h
  · rfl

theorem State.endAll_of_not_ends (c x : Nat) (l : List (Nat × Effect)) (s : State)
    (h : ∀ e ∈ l, e.2.endsSegment = false) : State.endAll c x l s = s := by
  induction l with
  | nil => rfl
  | cons e es ih =>
    rw [State.endAll, State.endBundle_of_not_ends (h e (.head _)), ih fun e he => h e (.tail _ he)]

theorem slotOrder_singleton (e : Nat × Effect) : slotOrder [e] = [e] := by
  by_cases h : e.1 < 7 <;> simp [slotOrder, h, Nat.not_le.2, Nat.le_of_not_lt]

theorem mem_slotOrder {e : Nat × Effect} {l : List (Nat × Effect)} (h : e ∈ slotOrder l) : e ∈ l :=
  (List.mem_append.1 h).elim (fun h => (List.mem_filter.1 h).1) fun h => (List.mem_filter.1 h).1

/-- The redirect that is pending behind a bundle, and the address that one of its last bundle goes to. -/
def redirectBehind (pend : Option (Nat × Nat)) (now : Option (Nat × Nat)) : Option (Nat × Nat) :=
  match pend with
  | none => now
  | some (t, n) => if n ≤ 1 then none else some (t, n - 1)
def pcBehind (x pc : Nat) (pend : Option (Nat × Nat)) : Nat :=
  match pend with
  | none => wrapPc x (pc + 1)
  | some (t, n) => if n ≤ 1 then t else wrapPc x (pc + 1)
/-- A context behind a bundle that lies in no loop body, `pend` being the redirect that the bundle found. -/
def Ctx.behind (x pc cyc : Nat) (pend : Option (Nat × Nat)) (u : Ctx) : Ctx :=
  { u with
    stall := { u.stall with cycles := 0, kind := 0 }, pc := pcBehind x pc pend, redirect := redirectBehind pend u.redirect,
    bcnt := u.bcnt + 1, issued := u.issued + 1, segBundles := u.segBundles + 1,
    segStart := if u.segFirst then cyc else u.segStart, segFirst := false, skip := 0, dbgPass := false, kept := [],
    walkFault := none, waitOn := none, out := pruneFences [] u.out }

theorem Ctx.advance_outside (u : Ctx) (x pc : Nat) (pend : Option (Nat × Nat)) : u.advance x pc false pend =
    { u with pc := pcBehind x pc pend, redirect := redirectBehind pend u.redirect } := by
  match pend with
  | none => rfl
  | some (t, n) =>
    simp only [Ctx.advance, pcBehind, redirectBehind, Bool.false_eq_true, false_and, ite_false]
    split <;> rfl

theorem State.endStall_of_disarmed {s : State} {c x : Nat} (h : (s.ctx c x).stall.armed = false) (addr : Nat) :
    s.endStall c x addr = s.modCtx c x (fun v => { v with stall := { v.stall with cycles := 0, kind := 0 } }) := by
  simp [State.endStall, h]

/-- What a bundle leaves whose effects do not end the segment, in a context in no loop and with no access under way. -/
theorem State.commit_quiet {s t : State} (hkept : (s.ctx s.cur.core s.cur.ctx).kept = [])
    (hloop : (s.ctx s.cur.core s.cur.ctx).loop.active = false)
    (hinj : (s.core s.cur.core).inj.getLsbD 2 = false) (hend : ∀ e ∈ s.cur.effs, e.2.endsSegment = false)
    (ht : State.applyAll s.cur.core s.cur.ctx (slotOrder s.cur.effs) s = t)
    (harm : (t.ctx s.cur.core s.cur.ctx).stall.armed = false) (hout : (t.ctx s.cur.core s.cur.ctx).out = []) :
    s.commit = { t.modCtx s.cur.core s.cur.ctx (Ctx.behind s.cur.ctx s.cur.pc s.cyc
      (s.ctx s.cur.core s.cur.ctx).redirect) with cur := Issue.none } := by
  have hl : ∀ e ∈ slotOrder s.cur.effs, e.2.endsSegment = false := fun e he => hend e (mem_slotOrder he)
  rw [State.commit]
  simp only [State.withInjection_of_disarmed hinj, hkept, List.nil_append, ht, State.endStall_of_disarmed harm,
    hloop, Ctx.advance_outside, State.startOut, State.modCtx_modCtx]
  rw [State.endAll_of_not_ends _ _ _ _ hl, State.pump_of_nil]
  · rfl
  · rw [State.ctx_modCtx]
    show pruneFences [] (t.ctx _ _).out = []
    rw [hout]
    rfl

theorem slotOrder_map_land (ps : List (Nat × Pending)) : slotOrder (ps.map (fun p => (p.1, Effect.land p.2))) =
    (ps.filter (fun p => decide (p.1 < 7)) ++ ps.filter (fun p => decide (7 ≤ p.1))).map (fun p => (p.1, Effect.land p.2)) := by
  simp [slotOrder, List.filter_map, Function.comp_def]

theorem onlyCtx_refl (s : State) (c x : Nat) : OnlyCtx s s c x :=
  ⟨rfl, rfl, rfl, rfl, fun _ _ => rfl, fun _ _ => rfl, rfl⟩
theorem onlyCtx_trans {s t u : State} {c x : Nat} (h : OnlyCtx s t c x) (h' : OnlyCtx t u c x) : OnlyCtx s u c x := by
  obtain ⟨hmem, hmarks, hcyc, hlaunches, hcore, hctx, htiles⟩ := h
  obtain ⟨hmem', hmarks', hcyc', hlaunches', hcore', hctx', htiles'⟩ := h'
  exact ⟨hmem'.trans hmem, hmarks'.trans hmarks, hcyc'.trans hcyc, hlaunches'.trans hlaunches,
    fun d hd => (hcore' d hd).trans (hcore d hd), fun y hy => (hctx' y hy).trans (hctx y hy), htiles'.trans htiles⟩
theorem onlyCtx_modCtx (s : State) (c x : Nat) (f : Ctx → Ctx) : OnlyCtx s (s.modCtx c x f) c x :=
  ⟨rfl, rfl, rfl, rfl, fun d hd => State.core_modCtx_ne _ _ _ _ _ hd, fun y hy => State.ctx_modCtx_ne _ _ _ _ _ _ (.inr hy),
    by rw [State.core_modCtx]; rfl⟩

/-- Results only join the pending results of their context. -/
theorem State.applyAll_land (c x : Nat) (ps : List (Nat × Pending)) (s : State) :
    let t := State.applyAll c x (ps.map (fun p => (p.1, Effect.land p.2))) s
    OnlyCtx s t c x ∧ t.ctx c x = { s.ctx c x with pwq := (s.ctx c x).pwq ++ ps.map (fun p => p.2) } := by
  induction ps generalizing s with
  | nil => exact ⟨onlyCtx_refl s c x, by simp only [List.map_nil, List.append_nil]; rfl⟩
  | cons p ps ih =>
    obtain ⟨honly, hctx⟩ := ih (s.apply c x (.land p.2))
    refine ⟨onlyCtx_trans (onlyCtx_modCtx s c x _) honly, ?_⟩
    simp only [List.map_cons, State.applyAll] at hctx ⊢
    rw [hctx, State.apply, State.ctx_modCtx]
    simp only [List.append_assoc, List.cons_append, List.nil_append]

theorem pcBehind_none (x pc : Nat) : pcBehind x pc none = (pc + 1) % (if x = 4 then 1024 else 8192) := rfl

theorem resultsCommit : ResultsCommit := by
  intro s ps
  dsimp only
  intro heffs hkept hout hloop hred harm hinj _
  have hend : ∀ e ∈ s.cur.effs, e.2.endsSegment = false := by
    intro e he
    rw [heffs] at he
    obtain ⟨p, -, rfl⟩ := List.mem_map.1 he
    rfl
  obtain ⟨⟨hmem, -, hcyc, -, hcore, hctx, htiles⟩, hv⟩ := State.applyAll_land s.cur.core s.cur.ctx
    (ps.filter (fun p => decide (p.1 < 7)) ++ ps.filter (fun p => decide (7 ≤ p.1))) s
  rw [← slotOrder_map_land, ← heffs] at hmem hcyc hcore hctx htiles hv
  rw [State.commit_quiet hkept hloop hinj hend rfl (by rw [hv]; exact harm) (by rw [hv]; exact hout), hred]
  generalize State.applyAll s.cur.core s.cur.ctx (slotOrder s.cur.effs) s = t at *
  obtain ⟨hmem', -, hcyc', -, hcore', hctx', htiles'⟩ :=
    onlyCtx_modCtx t s.cur.core s.cur.ctx (Ctx.behind s.cur.ctx s.cur.pc s.cyc none)
  have hown : ({ t.modCtx s.cur.core s.cur.ctx (Ctx.behind s.cur.ctx s.cur.pc s.cyc none) with cur := Issue.none } : State).ctx
      s.cur.core s.cur.ctx = Ctx.behind s.cur.ctx s.cur.pc s.cyc none (t.ctx s.cur.core s.cur.ctx) :=
    State.ctx_modCtx t s.cur.core s.cur.ctx _
  rw [hv] at hown
  rw [hown]
  exact ⟨hmem'.trans hmem, hcyc'.trans hcyc, fun y hy => (hctx' y hy).trans (hctx y hy),
    fun d hd => (hcore' d hd).trans (hcore d hd), rfl, pcBehind_none _ _, rfl, rfl, rfl, rfl, rfl, rfl, rfl,
    htiles'.trans htiles⟩

theorem commitDoesItsEffect : CommitDoesItsEffect := by
  intro s k e
  dsimp only
  intro heffs hkept hloop _ hinj hout harm hend
  have happ : State.applyAll s.cur.core s.cur.ctx (slotOrder s.cur.effs) s = s.apply s.cur.core s.cur.ctx e := by
    rw [heffs, slotOrder_singleton]
    rfl
  rw [State.commit_quiet hkept hloop hinj (by rw [heffs]; simpa using hend) happ harm hout]
  generalize s.apply s.cur.core s.cur.ctx e = t at *
  obtain ⟨-, -, -, -, hcore, hctx, -⟩ := onlyCtx_modCtx t s.cur.core s.cur.ctx
    (Ctx.behind s.cur.ctx s.cur.pc s.cyc (s.ctx s.cur.core s.cur.ctx).redirect)
  have hown : ({ t.modCtx s.cur.core s.cur.ctx (Ctx.behind s.cur.ctx s.cur.pc s.cyc
      (s.ctx s.cur.core s.cur.ctx).redirect) with cur := Issue.none } : State).ctx s.cur.core s.cur.ctx = _ :=
    State.ctx_modCtx t s.cur.core s.cur.ctx _
  have hunits : ({ t.modCtx s.cur.core s.cur.ctx (Ctx.behind s.cur.ctx s.cur.pc s.cyc
      (s.ctx s.cur.core s.cur.ctx).redirect) with cur := Issue.none } : State).core s.cur.core = _ :=
    State.core_modCtx t s.cur.core s.cur.ctx _
  rw [hown, hunits]
  refine ⟨rfl, rfl, rfl, rfl, rfl, hcore, hctx, rfl, rfl, rfl, rfl, rfl, rfl, rfl, rfl,
    rfl, rfl, rfl, rfl, rfl, rfl, rfl, rfl, rfl, rfl, rfl, rfl, fun hred => ?_⟩
  rw [hred]
  exact ⟨pcBehind_none _ _, rfl, rfl⟩
end Sys2Proof.Machine
end

section
/-!
SUPPORT. Effects of a bundle on its own context: outbound entries (R20, R107, R140), branches, loops, claims and the
tangent unit (R25, R80, R94 to R99, R169).
-/
namespace Sys2Proof.Machine

theorem State.orderAccess_barrier {k : AccessKind} (s : State) (c x : Nat) (h : (∃ m sc, k = .fence m sc) ∨ ∃ m sc, k = .rel m sc) :
    s.orderAccess c x k = if (s.ctx c x).srq = [] then s.appendAccess c x 0 k 0 0 else s.holdEntry c x 0 k 0 0 := by
  obtain ⟨m, sc, rfl⟩ | ⟨m, sc, rfl⟩ := h <;> simp only [State.orderAccess, List.isEmpty_iff]

/-- The destination of a load is held busy, and only that. -/
theorem Ctx.holdDest_frame (v : Ctx) (k : AccessKind) : (v.holdDest k).out = v.out ∧ (v.holdDest k).srq = v.srq ∧
    (v.holdDest k).c = v.c ∧ (v.holdDest k).nextAccess = v.nextAccess := by
  cases k <;> exact ⟨rfl, rfl, rfl, rfl⟩

theorem outboundEffects : OutboundEffects := by
  intro s c x oc k va pa
  dsimp only
  refine ⟨rfl, ?_, ?_, ?_⟩
  · rw [State.apply, State.appendAccess, State.modCtx_modCtx]
    refine ⟨onlyCtx_modCtx s c x _, ?_⟩
    rw [State.ctx_modCtx]
    obtain ⟨hout, hsrq, hc, hnext⟩ := (s.ctx c x).holdDest_frame k
    refine ⟨by simp only [hout, hnext], hsrq, hc, ?_, ?_⟩
    · rintro n rfl
      exact ⟨by simp [Ctx.holdDest], fun e he => by simpa using (List.mem_filter.1 he).2⟩
    · rintro o rfl
      exact ⟨by simp [Ctx.holdDest], fun e he => by simpa using (List.mem_filter.1 he).2⟩
  · rintro m sc hk rfl rfl rfl
    rw [State.apply, State.orderAccess_barrier s c x (hk.imp (fun h => ⟨m, sc, h⟩) fun h => ⟨m, sc, h⟩)]
    split <;> rfl
  · rintro m rfl rfl rfl rfl
    rfl

/-! ## Loops and result ports -/

theorem nthD_eq_getD {α : Type} (d : α) : ∀ (l : List α) (n : Nat), nthD d l n = l.getD n d
  | [], n => by simp [nthD]
  | _ :: _, 0 => rfl
  | _ :: l, n + 1 => by rw [nthD, nthD_eq_getD d l n]; rfl

theorem Ctx.setStage_of_few {v : Ctx} (h : v.loop.stages < 2) : v.setStage = v := if_pos h
theorem Ctx.setStage_frame (v : Ctx) : v.setStage.loop = v.loop ∧ v.setStage.c = v.c := by
  unfold Ctx.setStage
  split <;> exact ⟨rfl, rfl⟩

/-- The pair of predicates of one stage put into the predicates. -/
def putStage (on : Nat → Bool) (p : BitVec 16) (i : Nat) : BitVec 16 :=
  putField p (8 + 2 * i) 2 ((on i).toNat + 2 * (!on i).toNat)
theorem getLsbD_putStage (on : Nat → Bool) (p : BitVec 16) {i : Nat} (hi : i < 4) (n : Nat) : (putStage on p i).getLsbD n =
    if n = 8 + 2 * i then on i else if n = 9 + 2 * i then !on i else p.getLsbD n := by
  rw [putStage, getLsbD_putField _ _ _ _ _ (by omega)]
  obtain ⟨h0, h1⟩ := pairBits_testBit (on i) (!on i)
  by_cases hn : n = 8 + 2 * i
  · rw [if_pos (by omega), if_pos hn, hn, Nat.sub_self, h0]
  · rw [if_neg hn]
    by_cases hn' : n = 9 + 2 * i
    · rw [if_pos (by omega), if_pos hn', hn', show 9 + 2 * i - (8 + 2 * i) = 1 by omega, h1]
    · rw [if_neg (by omega), if_neg hn']

/-- Whether a stage runs in a pass (R98). -/
def Loop.stageOn (l : Loop) (i : Nat) : Bool :=
  decide (i < l.stages ∧ i ≤ nthD 0 l.idx 0 ∧ nthD 0 l.idx 0 - i < l.n0)
theorem Ctx.setStage_p {v : Ctx} (h : ¬ v.loop.stages < 2) : v.setStage.p =
    (putStage v.loop.stageOn (putStage v.loop.stageOn (putStage v.loop.stageOn (putStage v.loop.stageOn v.p 0) 1) 2) 3) := by
  rw [Ctx.setStage, if_neg h]
  rfl
theorem Ctx.pred_setStage (v : Ctx) {n : Nat} (hn : n < 8) : v.setStage.pred n = v.pred n := by
  by_cases h : v.loop.stages < 2
  · rw [Ctx.setStage_of_few h]
  · have hbit : v.setStage.p.getLsbD n = v.p.getLsbD n := by
      rw [Ctx.setStage_p h]
      simp only [getLsbD_putStage _ _ (show 0 < 4 by omega), getLsbD_putStage _ _ (show 1 < 4 by omega),
        getLsbD_putStage _ _ (show 2 < 4 by omega), getLsbD_putStage _ _ (show 3 < 4 by omega)]
      repeat rw [if_neg (by omega)]
    simp only [Ctx.pred, bitOf, BitVec.testBit_toNat, hbit]
theorem Ctx.pred_setStage_stage {v : Ctx} (h : 2 ≤ v.loop.stages) {i : Nat} (hi : i < 4) :
    v.setStage.pred (8 + 2 * i) = v.loop.stageOn i ∧ v.setStage.pred (9 + 2 * i) = !v.loop.stageOn i := by
  have hbit (n : Nat) : 8 ≤ n → v.setStage.pred n = v.setStage.p.getLsbD n := fun hn => by
    rw [Ctx.pred, if_neg (by omega), if_neg (by omega), bitOf, BitVec.testBit_toNat]
  rw [hbit _ (by omega), hbit _ (by omega), Ctx.setStage_p (by omega)]
  simp only [getLsbD_putStage _ _ (show 0 < 4 by omega), getLsbD_putStage _ _ (show 1 < 4 by omega),
    getLsbD_putStage _ _ (show 2 < 4 by omega), getLsbD_putStage _ _ (show 3 < 4 by omega)]
  match i, hi with
  | 0, _ => simp
  | 1, _ => simp
  | 2, _ => simp
  | 3, _ => simp

/-- What a later bundle reads of the results that a new one keeps. -/
theorem dueResult_kept {n b : Nat} (hb : n ≤ b) (l : Results) :
    dueResult b (l.takeWhile (fun e => decide (n < e.1)) ++ (l.dropWhile (fun e => decide (n < e.1))).take 1) = dueResult b l := by
  induction l with
  | nil => rfl
  | cons e l ih =>
    obtain ⟨d, v⟩ := e
    by_cases h : n < d
    · rw [List.takeWhile_cons_of_pos (by simpa using h), List.dropWhile_cons_of_pos (by simpa using h), List.cons_append,
        dueResult, dueResult, ih]
    · rw [List.takeWhile_cons_of_neg (by simpa using h), List.dropWhile_cons_of_neg (by simpa using h)]
      simp only [List.nil_append, List.take_succ_cons, List.take_zero, dueResult]
      rw [if_pos (by omega), if_pos (by omega)]
theorem dueResult_pushResult {n due b : Nat} (hb : n ≤ b) (v : Line) (l : Results) :
    dueResult b (pushResult n due v l) = if due ≤ b then v else dueResult b l := by
  rw [pushResult, dueResult, dueResult_kept hb]

/-- The result ports of the tangent unit, in their order. -/
def Ctx.ports (v : Ctx) : List Results := [v.tanA, v.tanB, v.tanLo, v.tanHi, v.tanY, v.rngOut, v.crcVal]
theorem Ctx.ports_putResult (v : Ctx) {port : Nat} (h : port < 7) (val : Line) (lat : Nat) :
    (v.putResult port val lat).ports.getD port [] = pushResult v.issued (v.issued + lat) val (v.ports.getD port []) := by
  match port, h with
  | 0, _ => rfl
  | 1, _ => rfl
  | 2, _ => rfl
  | 3, _ => rfl
  | 4, _ => rfl
  | 5, _ => rfl
  | 6, _ => rfl
theorem Ctx.putResult_c (v : Ctx) (port : Nat) (val : Line) (lat : Nat) : (v.putResult port val lat).c = v.c := by
  unfold Ctx.putResult
  simp only [apply_ite Ctx.c, ite_self]

end Sys2Proof.Machine
end

section
/-!
SUPPORT. Claims, saves and the invalidation of translations at the boundary behind a bundle (R25, R258, R291).
-/
namespace Sys2Proof.Machine

/-! ## The same change of several clusters -/

theorem State.cluster_modCluster (s : State) (n m : Nat) (f : Cluster → Cluster) :
    (s.modCluster n f).cluster m = if m = n then f (s.cluster m) else s.cluster m := by
  rw [State.modCluster, State.cluster, State.setCluster]
  split
  next h => rw [h, FMap.get_set_self]
  next h => exact FMap.get_set_ne _ _ _ _ _ h
theorem State.cluster_foldl_modCluster (f : Cluster → Cluster) (l : List Nat) (hl : l.Nodup) (s : State) (m : Nat) :
    (l.foldl (fun t i => t.modCluster i f) s).cluster m = if m ∈ l then f (s.cluster m) else s.cluster m := by
  induction l generalizing s with
  | nil => rfl
  | cons i l ih =>
    obtain ⟨hi, hl⟩ := List.nodup_cons.1 hl
    rw [List.foldl_cons, ih hl, State.cluster_modCluster]
    by_cases h : m = i
    · subst h
      rw [if_neg hi, if_pos rfl, if_pos (.head _)]
    · simp only [h, if_false, List.mem_cons, false_or]
theorem State.foldl_modCluster_frame (f : Cluster → Cluster) (l : List Nat) (s : State) :
    (l.foldl (fun t i => t.modCluster i f) s).mem = s.mem ∧ (l.foldl (fun t i => t.modCluster i f) s).cores = s.cores := by
  induction l generalizing s with
  | nil => exact ⟨rfl, rfl⟩
  | cons i l ih => exact ih (s.modCluster i f)

/-! ## TLBI -/

/-- The clusters of a partition. -/
def State.clustersWith (s : State) (p : Nat) : List Nat := (upTo 48 0).filter (fun i => decide ((s.cluster i).part = p))
theorem State.mem_clustersWith {s : State} {p cl : Nat} : cl ∈ s.clustersWith p ↔ cl < 48 ∧ (s.cluster cl).part = p := by
  simp [State.clustersWith, mem_upTo]
theorem State.clustersWith_nodup (s : State) (p : Nat) : (s.clustersWith p).Nodup := by
  rw [State.clustersWith, upTo_eq_range]
  exact List.nodup_range.filter _

/-- A translation unit without the entries that a TLBI names, and one whose walks in flight keep nothing. -/
def Cluster.forget (p : Nat) (w : Word) (k : Cluster) : Cluster :=
  { k with tlb := k.tlb.filter (fun e => !(decide (e.part = p) && (decide (w = BitVec.allOnes 64) || e.covers p w.toNat))) }
def Cluster.staleWalks (k : Cluster) : Cluster :=
  { k with walks := k.walks.map (fun e => (e.1, { e.2 with stale := true })) }

theorem State.invalidate_eq (s : State) (c : Nat) (w : Word) :
    let p := (s.cluster (clusterOf c)).part
    s.invalidate c w = ((s.clustersWith p).foldl (fun t i => t.modCluster i Cluster.staleWalks)
      ((s.clustersWith p).foldl (fun t i => t.modCluster i (Cluster.forget p w)) s)).modCtx c 4 (fun u =>
        { u with tlbiWait := (s.clustersWith p).flatMap (fun i => (s.cluster i).walks.map (fun e => (i, e.1))) }) := rfl

theorem State.invalidate_frame (s : State) (c : Nat) (w : Word) :
    (s.invalidate c w).mem = s.mem ∧
    (∀ cl, (s.invalidate c w).cluster cl = if cl ∈ s.clustersWith (s.cluster (clusterOf c)).part
      then ((s.cluster cl).forget (s.cluster (clusterOf c)).part w).staleWalks else s.cluster cl) ∧
    ((s.invalidate c w).ctx c 4).tlbiWait = (s.clustersWith (s.cluster (clusterOf c)).part).flatMap
      (fun i => (s.cluster i).walks.map (fun e => (i, e.1))) := by
  rw [State.invalidate_eq]
  refine ⟨?_, fun cl => ?_, by rw [State.ctx_modCtx]⟩
  · exact (State.foldl_modCluster_frame _ _ _).1.trans (State.foldl_modCluster_frame _ _ _).1
  · rw [State.cluster_modCtx, State.cluster_foldl_modCluster _ _ (s.clustersWith_nodup _),
      State.cluster_foldl_modCluster _ _ (s.clustersWith_nodup _)]
    split <;> rfl

theorem Cluster.mem_tlb_forget {p : Nat} {w : Word} {k : Cluster} {e : TlbEntry} : e ∈ (k.forget p w).tlb ↔
    e ∈ k.tlb ∧ ¬(e.part = p ∧ (w = BitVec.allOnes 64 ∨ (e.base ≤ w.toNat ∧ w.toNat < e.base + e.size))) := by
  simp only [Cluster.forget, List.mem_filter, TlbEntry.covers, Bool.not_eq_true', Bool.and_eq_false_iff,
    Bool.or_eq_false_iff, decide_eq_false_iff_not]
  tauto

theorem State.apply_tlbi (s : State) (c x : Nat) (w : Word) :
    let t := s.apply c x (.tlbi w)
    let p := (s.cluster (c / 4)).part
    t.mem = s.mem ∧ (∀ cl, cl < 48 → (s.cluster cl).part ≠ p → t.cluster cl = s.cluster cl) ∧
    ∀ cl, cl < 48 → (s.cluster cl).part = p →
      (∀ e, e ∈ (t.cluster cl).tlb ↔ e ∈ (s.cluster cl).tlb ∧
        ¬(e.part = p ∧ (w = BitVec.allOnes 64 ∨ (e.base ≤ w.toNat ∧ w.toNat < e.base + e.size)))) ∧
      (∀ n k, (n, k) ∈ (t.cluster cl).walks → k.stale = true) ∧
      ∀ n k, (n, k) ∈ (s.cluster cl).walks → (cl, n) ∈ (t.ctx c 4).tlbiWait := by
  obtain ⟨hmem, hcluster, hwait⟩ := s.invalidate_frame c w
  refine ⟨hmem, fun cl _ hp => ?_, fun cl hcl hp => ?_⟩
  · exact (hcluster cl).trans (if_neg fun h => hp (State.mem_clustersWith.1 h).2)
  · have hin : cl ∈ s.clustersWith (s.cluster (clusterOf c)).part := State.mem_clustersWith.2 ⟨hcl, hp⟩
    have hcl' := (hcluster cl).trans (if_pos hin)
    simp only [State.apply, hcl', hwait]
    refine ⟨fun e => Cluster.mem_tlb_forget, fun n k hk => ?_, fun n k hk => ?_⟩
    · obtain ⟨e, -, he⟩ := List.mem_map.1 hk
      rw [← (Prod.mk.inj he).2]
    · exact List.mem_flatMap.2 ⟨cl, hin, List.mem_map.2 ⟨(n, k), hk, rfl⟩⟩

/-! ## CLAIM, CSAVE and CLOAD -/

theorem State.apply_claim_supervisor (s : State) (c dest : Nat) (flip : Word) :
    s.apply c 4 (.claim dest flip) = s.setCtx c 4 { s.ctx c 4 with
      pwq := (s.ctx c 4).pwq ++ [({ dest := dest, flip := flip } : ClaimWait).answer (BitVec.ofInt 64 (-1))] } := rfl
theorem State.apply_claim_logged {s : State} {c x : Nat} (hx : x ≠ 4) {w : Word}
    (h : (s.ctx c x).claims[(s.ctx c x).replay]? = some w) (dest : Nat) (flip : Word) :
    s.apply c x (.claim dest flip) = s.setCtx c x { s.ctx c x with
      pwq := (s.ctx c x).pwq ++ [({ dest := dest, flip := flip } : ClaimWait).answer w], replay := (s.ctx c x).replay + 1 } := by
  obtain ⟨hlt, -⟩ := List.getElem?_eq_some_iff.1 h
  rw [State.apply, State.startClaim, if_neg hx, if_pos hlt, nthD_eq_getD, List.getD, h]
  rfl
theorem State.apply_claim_asked {s : State} {c x : Nat} (hx : x ≠ 4) (h : (s.ctx c x).claims.length ≤ (s.ctx c x).replay)
    (dest : Nat) (flip : Word) : ∃ due, s.cyc + 60 ≤ due ∧ s.apply c x (.claim dest flip) =
      (({ s with claimFree := due + 1 } : State).setCtx c x { s.ctx c x with
        claimWait := some { dest := dest, flip := flip } }).schedule due (.claimAnswer c x) := by
  refine ⟨Nat.max (s.cyc + 60) s.claimFree, Nat.le_max_left _ _, ?_⟩
  rw [State.apply, State.startClaim, if_neg hx, if_neg (Nat.not_lt.2 h)]

theorem State.startClaim_mem (s : State) (c x dest : Nat) (flip : Word) : (s.apply c x (.claim dest flip)).mem = s.mem := by
  rw [State.apply, State.startClaim]
  split
  · rfl
  · split <;> rfl

theorem otherEffects : OtherEffects := by
  intro s c x
  dsimp only
  refine ⟨fun _ => rfl, rfl, rfl, fun _ => rfl, fun _ => rfl, fun _ => ⟨rfl, rfl, rfl, rfl⟩, fun _ => rfl, fun _ => rfl,
    fun l => ?_, fun port val lat hport => ?_, fun dest flip => ?_, fun y banks va => ?_, fun y va => ?_,
    s.apply_tlbi c x⟩
  · rw [State.apply, State.ctx_modCtx]
    generalize hv : ({ s.ctx c x with loop := l } : Ctx) = v
    obtain rfl : v.loop = l := by rw [← hv]
    obtain ⟨hloop, hc⟩ := v.setStage_frame
    refine ⟨onlyCtx_modCtx s c x _, hloop, hc.trans (by rw [← hv]), fun k hk => (v.pred_setStage hk).trans (by rw [← hv]; rfl),
      fun h => by rw [Ctx.setStage_of_few h, ← hv], fun h i hi => ?_⟩
    have := Ctx.pred_setStage_stage h hi
    simpa only [Loop.stageOn, nthD_eq_getD] using this
  · rw [State.apply, State.ctx_modCtx]
    have hread (b : Nat) (hb : (s.ctx c x).issued ≤ b) := dueResult_pushResult (due := (s.ctx c x).issued + lat) hb val
      ((s.ctx c x).ports.getD port [])
    rw [← Ctx.ports_putResult _ hport] at hread
    refine ⟨onlyCtx_modCtx s c x _, Ctx.putResult_c _ _ _ _, fun b hb => ?_, fun b hb hlt => ?_⟩
    · exact (hread b (by omega)).trans (if_pos hb)
    · exact (hread b hb).trans (if_neg (by omega))
  · refine ⟨s.startClaim_mem c x dest flip, ?_, fun hx w hw => ?_, fun hx h => ?_⟩
    · rintro rfl
      rw [State.apply_claim_supervisor, State.ctx_setCtx]
      rfl
    · rw [State.apply_claim_logged hx hw, State.ctx_setCtx]
      exact ⟨rfl, rfl, rfl⟩
    · obtain ⟨due, hdue, heq⟩ := State.apply_claim_asked hx h dest flip
      rw [heq, (State.Later.schedule _ _ _).ctx, State.ctx_setCtx]
      exact ⟨rfl, rfl, due, hdue, State.mem_schedule.2 (.inl rfl)⟩
  · refine ⟨rfl, ?_, ?_, State.mem_schedule.2 (.inl rfl)⟩ <;> rw [State.apply, (State.Later.schedule _ _ _).core, State.core_modCore]
  · refine ⟨rfl, ?_, ?_, s.cyc + 1 + Config.freeDelay s.draws, by omega, State.mem_schedule.2 (.inl rfl)⟩ <;>
      rw [State.apply, (State.Later.scheduleFree _ _).core, State.core_modCore]
end Sys2Proof.Machine
end

section
/-!
SUPPORT. Stores and reads of scratchpad lines at the boundary behind a bundle, with the marks of lines and an injected
read (R48, R57, R219, R275).
-/
namespace Sys2Proof.Machine

/-! ## Marks -/

theorem FMap.get_erase {α : Type} (d : α) (m : FMap α) (i j : Nat) : (m.erase i).get d j = if j = i then d else m.get d j := by
  induction m with
  | nil => simp [FMap.erase, FMap.get]
  | cons e m ih =>
    obtain ⟨k, v⟩ := e
    rw [FMap.erase] at ih ⊢
    by_cases hk : k = i
    · rw [List.filter_cons_of_neg (by simpa using hk), ih, FMap.get]
      by_cases hj : j = i
      · rw [if_pos hj, if_pos hj]
      · rw [if_neg hj, if_neg hj, if_neg (by omega)]
    · rw [List.filter_cons_of_pos (by simpa using hk), FMap.get, ih, FMap.get]
      by_cases hj : j = k
      · rw [if_pos hj, if_neg (by omega), if_pos hj]
      · rw [if_neg hj, if_neg hj]

theorem State.markOf_setMark (s : State) (a : Nat) (m : Mark) (b : Nat) :
    (s.setMark a m).markOf b = if b / 128 = a / 128 then m else s.markOf b := by
  rw [State.markOf, State.setMark]
  by_cases hm : m = .clean
  · subst hm
    exact FMap.get_erase _ _ _ _
  · simp only [if_neg hm, FMap.get_set, State.markOf]
theorem State.markOf_setMark_self (s : State) (a : Nat) (m : Mark) : (s.setMark a m).markOf a = m := by
  rw [State.markOf_setMark, if_pos rfl]
theorem State.markOf_modCore (s : State) (c : Nat) (f : Core → Core) (a : Nat) : (s.modCore c f).markOf a = s.markOf a := rfl

/-! ## An injected read -/

theorem Core.injHits_eq (k : Core) (flat : Nat) : k.injHits flat = ((k.inj.getLsbD 2 && decide (k.inj.toNat % 4 = 2)) &&
    decide (k.inj.toNat / 2 ^ 16 % 2 ^ 22 = flat)) := by
  rw [Core.injHits, bitOf, BitVec.testBit_toNat, Bool.and_assoc, ← Bool.decide_and]
  simp [fieldOf]
theorem Core.injHits_of_disarmed {k : Core} (h : k.inj.getLsbD 2 = false) (flat : Nat) : k.injHits flat = false := by
  rw [Core.injHits_eq, h, Bool.false_and, Bool.false_and]
theorem State.firedRead_of_no_hit {s : State} {c flat : Nat} (h : (s.core c).injHits flat = false) : s.firedRead c flat = s := by
  rw [State.firedRead, h]
  rfl
theorem State.firedRead_hit {s : State} {c flat : Nat} (h : (s.core c).injHits flat = true) :
    s.firedRead c flat = (s.setMark (spAddr c flat) (s.readMark c flat)).modCore c (fun k =>
      (if bitOf k.inj 48 then k else k.countError true).disarm) := by
  rw [State.firedRead, if_pos h]
theorem State.firedRead_mem (s : State) (c flat : Nat) : (s.firedRead c flat).mem = s.mem := by
  rw [State.firedRead]
  split <;> rfl
theorem Core.countError_inj (k : Core) (b : Bool) : (k.countError b).inj = k.inj := by
  rw [Core.countError]
  split <;> rfl
theorem Core.countError_banks (k : Core) (b : Bool) : (k.countError b).banks = k.banks := by
  rw [Core.countError]
  split <;> rfl
theorem Core.disarm_banks (k : Core) : k.disarm.banks = k.banks := by
  rw [Core.disarm]
  split <;> rfl
theorem Core.disarm_armed {k : Core} (h : k.inj.getLsbD 2 = true) : k.disarm.inj.getLsbD 2 = k.inj.getLsbD 3 := by
  rw [Core.disarm, bitOf, BitVec.testBit_toNat]
  split
  next h3 => rw [h, h3]
  next h3 =>
    rw [Bool.not_eq_true] at h3
    rw [h3]
    simp
theorem State.firedRead_banks (s : State) (c flat : Nat) : ((s.firedRead c flat).core c).banks = (s.core c).banks := by
  rw [State.firedRead]
  split
  · rw [State.core_modCore, Core.disarm_banks]
    split
    · rfl
    · exact Core.countError_banks _ _
  · rfl
theorem State.firedRead_ctxs (s : State) (c flat : Nat) : ((s.firedRead c flat).core c).ctxs = (s.core c).ctxs := by
  rw [State.firedRead]
  split
  · rw [State.core_modCore, Core.disarm_ctxs]
    split
    · rfl
    · exact Core.countError_ctxs _ _
  · rfl
theorem State.firedRead_armed {s : State} {c flat : Nat} (h : (s.core c).injHits flat = true) :
    ((s.firedRead c flat).core c).inj.getLsbD 2 = (s.core c).inj.getLsbD 3 := by
  have h2 : (s.core c).inj.getLsbD 2 = true := by
    rw [Core.injHits_eq] at h
    simp only [Bool.and_eq_true] at h
    exact h.1.1
  rw [State.firedRead_hit h, State.core_modCore]
  split
  · exact Core.disarm_armed h2
  · rw [Core.disarm_armed (by rw [Core.countError_inj]; exact h2), Core.countError_inj]
    rfl
theorem State.firedRead_mark {s : State} {c flat : Nat} (h : (s.core c).injHits flat = true) :
    (s.firedRead c flat).markOf (spAddr c flat) = s.readMark c flat := by
  rw [State.firedRead_hit h, State.markOf_modCore, State.markOf_setMark_self]
theorem State.readMark_single {s : State} {c flat : Nat} (h : (s.core c).inj.getLsbD 48 = false) :
    s.readMark c flat = s.markOf (spAddr c flat) := by
  rw [State.readMark, bitOf, BitVec.testBit_toNat, h]
  simp
theorem State.readMark_double {s : State} {c flat : Nat} (hhit : (s.core c).injHits flat = true)
    (h : (s.core c).inj.getLsbD 48 = true) (hclean : s.markOf (spAddr c flat) = .clean) :
    s.readMark c flat = .uncorrectable (s.core c).injWords := by
  rw [State.readMark, bitOf, BitVec.testBit_toNat, h, hhit, hclean]
  rfl
theorem Core.getLsbD_injWords (k : Core) : k.injWords.getLsbD (k.inj.toNat / 2 ^ 38 % 2 ^ 10 / 128) = true := by
  have hf : fieldOf k.inj 38 10 = k.inj.toNat / 2 ^ 38 % 2 ^ 10 := rfl
  have hlt : k.inj.toNat / 2 ^ 38 % 2 ^ 10 < 2 ^ 10 := Nat.mod_lt _ (by decide)
  rw [Core.injWords, hf, getLsbD_slotBit _ _ (by omega), decide_eq_true rfl]

/-! ## Stores -/

theorem stored_write (m : Memory) (a : Nat) (bs : List Byte) : Stored m (m.write a bs) a bs := m.read_write a bs
theorem Bank.wrote_dirty {b : Bank} {flat : Nat} (h : flat % 8192 < 0x400) (hv : (b.tag (flat % 8192 / 8)).valid = true) :
    ((b.wrote flat).tag (flat % 8192 / 8)).dirty = true := by
  have hrow : rowOf flat = flat % 8192 / 8 := rfl
  have hfast : isFast flat = true := decide_eq_true h
  rw [Bank.wrote, hrow, if_pos ⟨hfast, hv⟩, Bank.setTag, Bank.tag, FMap.get_set_self]
theorem State.writeFlatWord_mem (s : State) (c flat w : Nat) (v : Word) :
    (s.writeFlatWord c flat w v).mem = s.mem.write (spAddr c flat + 8 * w) (bytesOf 8 v.toNat) := rfl
theorem State.writeFlat_mark (s : State) (c flat : Nat) (v : Line) :
    (s.writeFlat c flat v).markOf (spAddr c flat) = .clean := by
  rw [State.writeFlat, State.markOf_modCore, State.markOf_setMark_self]
theorem State.writeFlatWord_mark (s : State) (c flat w : Nat) (v : Word) : (s.writeFlatWord c flat w v).markOf (spAddr c flat) =
    if s.markOf (spAddr c flat) = .group then .clean else s.markOf (spAddr c flat) := by
  rw [State.writeFlatWord, State.markOf_modCore, State.markOf_setMark_self]
theorem State.writeFlat_core (s : State) (c flat : Nat) (v : Line) : (s.writeFlat c flat v).core c =
    (s.core c).setBank (bankOf flat) (((s.core c).bank (bankOf flat)).wrote flat) := by
  rw [State.writeFlat, State.core_modCore]
  rfl

theorem storesCommit : StoresCommit := by
  intro s c x flat
  dsimp only
  refine ⟨Core.injHits_eq _ _, State.firedRead_of_no_hit, fun hhit => ?_, fun v => ?_, fun w v hw => ?_, fun write busy => ?_⟩
  · refine ⟨State.firedRead_mem s c flat, State.firedRead_ctxs s c flat, State.firedRead_armed hhit, fun h => ?_,
      fun h hclean => ?_⟩
    · rw [State.firedRead_mark hhit, State.readMark_single h]
    · exact ⟨_, (State.firedRead_mark hhit).trans (State.readMark_double hhit h hclean), Core.getLsbD_injWords _⟩
  · rw [State.apply]
    refine ⟨stored_write _ _ _, State.writeFlat_mark s c flat v, ?_, fun hfast hv => ?_⟩
    · rw [State.writeFlat_core]
      rfl
    · rw [State.writeFlat_core]
      have hb : bankOf flat = flat / 8192 := rfl
      rw [hb, Core.bank_setBank]
      exact Bank.wrote_dirty hfast hv
  · rw [State.apply]
    refine ⟨?_, ?_, State.writeFlatWord_mark _ c flat w v⟩
    · rw [State.writeFlatWord_mem, State.firedRead_mem]
      exact stored_write _ _ _
    · rw [State.writeFlatWord, State.core_modCore]
      exact s.firedRead_ctxs c flat
  · rw [State.apply]
    generalize hs1 : s.modCore c (fun k => k.setBank (bankOf flat) ((k.bank (bankOf flat)).occupy s.cyc busy)) = s1
    have hcore : s1.core c = (s.core c).setBank (bankOf flat) (((s.core c).bank (bankOf flat)).occupy s.cyc busy) := by
      rw [← hs1, State.core_modCore]
    have hb : bankOf flat = flat / 8192 := rfl
    have hbusy : (s1.core c).bank (flat / 8192) = ((s.core c).bank (flat / 8192)).occupy s.cyc busy := by
      rw [hcore, ← hb, Core.bank_setBank]
    have hmem : s1.mem = s.mem := by rw [← hs1]; rfl
    have hmarks : s1.marks = s.marks := by rw [← hs1]; rfl
    have hctxs : (s1.core c).ctxs = (s.core c).ctxs := by rw [hcore]; rfl
    have hhit : (s1.core c).injHits flat = (s.core c).injHits flat := by rw [hcore]; rfl
    split
    · exact ⟨hmem, hctxs, by rw [hbusy]; rfl, fun _ => hmarks⟩
    next hwrite =>
      refine ⟨(s1.firedRead_mem c flat).trans hmem, (s1.firedRead_ctxs c flat).trans hctxs, ?_, fun h => ?_⟩
      · rw [Core.bank, State.firedRead_banks, ← Core.bank, hbusy]
        rfl
      · rw [State.firedRead_of_no_hit (hhit.trans (h.resolve_left hwrite)), hmarks]
end Sys2Proof.Machine
end

section
/-!
SUPPORT. Promotion (R55, R56): rows copied inside a bank, and the tag table.
-/
namespace Sys2Proof.Machine

/-! ## Lines copied -/

theorem pow_bytes_line : (256 : Nat) ^ 128 = 2 ^ 1024 := by rw [show (256 : Nat) = 2 ^ 8 from rfl, ← Nat.pow_mul]
theorem State.loadLine_congr {s t : State} {a : Nat} (h : ∀ b, a ≤ b → b < a + 128 → t.mem.read b = s.mem.read b) :
    t.loadLine a = s.loadLine a := by
  rw [State.loadLine, State.loadLine, Memory.load_eq, Memory.load_eq, Memory.readNat_congr 128 a h]
theorem State.loadLine_storeLine (s : State) (a : Nat) (v : Line) : (s.storeLine a v).loadLine a = v := by
  rw [State.loadLine, State.storeLine, Memory.load_store, Nat.mod_eq_of_lt (by rw [pow_bytes_line]; exact v.isLt),
    BitVec.ofNat_toNat, BitVec.setWidth_eq]

/-- `n` lines of a core's scratchpad have been copied, and nothing but them and marks has changed. -/
structure State.Copied (s t : State) (c src dst n : Nat) : Prop where
  cores : t.cores = s.cores
  lines : ∀ i, i < n → t.readFlat c (dst + i) = s.readFlat c (src + i)
  elsewhere : ∀ a, (a < spAddr c dst ∨ spAddr c (dst + n) ≤ a) → t.mem.read a = s.mem.read a

theorem State.Copied.apart {s t : State} {c src dst n f : Nat} (h : s.Copied t c src dst n) (hf : f < dst ∨ dst + n ≤ f) :
    t.readFlat c f = s.readFlat c f := by
  apply State.loadLine_congr
  intro b hb hb'
  apply h.elsewhere
  simp only [spAddr] at hb hb' ⊢
  omega

theorem State.copied_copyLines (c n : Nat) : ∀ (s : State) (src dst : Nat), (s.core c).inj.getLsbD 2 = false →
    src + n ≤ dst ∨ dst + n ≤ src → s.Copied (State.copyLines c src dst n s) c src dst n := by
  induction n with
  | zero => exact fun s src dst _ _ => ⟨rfl, fun i hi => absurd hi (Nat.not_lt_zero i), fun _ _ => rfl⟩
  | succ n ih =>
    intro s src dst hinj hapart
    rw [State.copyLines, State.firedRead_of_no_hit (Core.injHits_of_disarmed hinj src)]
    generalize hs1 : (s.storeLine (spAddr c dst) (s.readFlat c src)).setMark (spAddr c dst) (s.markOf (spAddr c src)) = s1
    have hcores : s1.cores = s.cores := by rw [← hs1]; rfl
    have hmem : s1.mem = s.mem.store (spAddr c dst) 128 (s.readFlat c src).toNat := by rw [← hs1]; rfl
    have hread (a : Nat) (ha : a < spAddr c dst ∨ spAddr c dst + 128 ≤ a) : s1.mem.read a = s.mem.read a := by
      rw [hmem, Memory.read_store, if_neg (by omega)]
    have hfirst : s1.readFlat c dst = s.readFlat c src := by
      rw [← hs1]
      exact State.loadLine_storeLine s _ _
    have hinj1 : (s1.core c).inj.getLsbD 2 = false := by rw [State.core, hcores]; exact hinj
    have hrest := ih s1 (src + 1) (dst + 1) hinj1 (by omega)
    refine ⟨hrest.cores.trans hcores, fun i hi => ?_, fun a ha => ?_⟩
    · match i with
      | 0 => exact (hrest.apart (by omega)).trans hfirst
      | i + 1 =>
        rw [show dst + (i + 1) = dst + 1 + i by omega, hrest.lines i (by omega), show src + (i + 1) = src + 1 + i by omega]
        apply State.loadLine_congr
        intro b hb hb'
        apply hread
        simp only [spAddr] at hb hb' ⊢
        omega
    · rw [hrest.elsewhere a, hread a]
      · simp only [spAddr] at ha ⊢
        omega
      · simp only [spAddr] at ha ⊢
        omega

/-! ## Rows copied -/

/-- Line `i` of a row of a bank. -/
def State.rowLine (s : State) (c b row i : Nat) : Line := s.readFlat c (8192 * b + 8 * row + i)
/-- The lines of one row of a bank have changed, and nothing else but marks. -/
structure State.RowChanged (s t : State) (c b : Nat) (line : Nat → Nat → Line) : Prop where
  cores : t.cores = s.cores
  lines : ∀ row i, row < 1024 → i < 8 → t.rowLine c b row i = line row i
  elsewhere : ∀ a, (a < spAddr c (8192 * b) ∨ spAddr c (8192 * b + 8192) ≤ a) → t.mem.read a = s.mem.read a

theorem State.rowChanged_copyRow {s : State} {c b src dst : Nat} (hinj : (s.core c).inj.getLsbD 2 = false)
    (hd : dst < 1024) (hne : src ≠ dst) : s.RowChanged (s.copyRow c b src dst) c b
      (fun row i => if row = dst then s.rowLine c b src i else s.rowLine c b row i) := by
  have h := State.copied_copyLines c 8 s (8192 * b + 8 * src) (8192 * b + 8 * dst) hinj (by omega)
  have hflat : s.copyRow c b src dst = State.copyLines c (8192 * b + 8 * src) (8192 * b + 8 * dst) 8 s := by
    rw [State.copyRow, show b * Config.bankLines = 8192 * b from Nat.mul_comm _ _]
  rw [hflat]
  refine ⟨h.cores, fun row i _ hi => ?_, fun a ha => h.elsewhere a ?_⟩
  · split
    next hrow => rw [hrow]; exact h.lines i hi
    next hrow => exact h.apart (by omega)
  · simp only [spAddr] at ha ⊢
    omega

theorem State.rowChanged_evict {s : State} {c b slot : Nat} (hinj : (s.core c).inj.getLsbD 2 = false) (hslot : slot < 128)
    (hold : (((s.core c).bank b).tag slot).valid = true ∧ (((s.core c).bank b).tag slot).dirty = true →
      128 ≤ (((s.core c).bank b).tag slot).srow ∧ (((s.core c).bank b).tag slot).srow < 1024) :
    s.RowChanged (s.evict c b slot) c b (fun row i =>
      if ((((s.core c).bank b).tag slot).valid = true ∧ (((s.core c).bank b).tag slot).dirty = true) ∧
        row = (((s.core c).bank b).tag slot).srow then s.rowLine c b slot i else s.rowLine c b row i) := by
  rw [State.evict]
  simp only [Bool.and_eq_true]
  split
  next hback =>
    obtain ⟨hlo, hhi⟩ := hold hback
    have h := State.rowChanged_copyRow (b := b) hinj hhi (src := slot) (by omega)
    exact ⟨h.cores, fun row i hrow hi => by rw [h.lines row i hrow hi]; simp only [hback, true_and, and_self], h.elsewhere⟩
  next hback => exact ⟨rfl, fun row i _ _ => by rw [if_neg (fun h => hback h.1)], fun _ _ => rfl⟩

/-! ## The tag table -/

theorem Bank.tag_setTag (b : Bank) (slot : Nat) (t : TagEntry) (k : Nat) :
    (b.setTag slot t).tag k = if k = slot then t else b.tag k := FMap.get_set _ _ _ _ _
theorem State.core_setTag (s : State) (c b slot : Nat) (t : TagEntry) : (s.setTag c b slot t).core c =
    (s.core c).setBank b (((s.core c).bank b).setTag slot t) := State.core_modCore _ _ _

/-- What the tag table of one bank keeps when an entry of it changes. -/
theorem State.setTag_frame {s t : State} {c b slot : Nat} {e : TagEntry} {nv : Nat}
    (ht : t.core c = (s.core c).setBank b { ((s.core c).bank b).setTag slot e with nv := nv }) :
    ((t.core c).bank b).tag slot = e ∧ ((t.core c).bank b).nv = nv ∧
      (∀ k, k ≠ slot → ((t.core c).bank b).tag k = ((s.core c).bank b).tag k) ∧
      (∀ d, d ≠ b → (t.core c).bank d = (s.core c).bank d) ∧ (t.core c).ctxs = (s.core c).ctxs := by
  rw [ht, Core.bank_setBank]
  refine ⟨?_, rfl, fun k hk => ?_, fun d hd => Core.bank_setBank_ne _ _ _ _ hd, rfl⟩
  · exact (Bank.tag_setTag _ _ _ _).trans (if_pos rfl)
  · exact (Bank.tag_setTag _ _ _ _).trans (if_neg hk)

theorem Core.setBank_setBank (k : Core) (b : Nat) (u v : Bank) : (k.setBank b u).setBank b v = k.setBank b v := by
  simp [Core.setBank]
theorem State.core_of_cores {s t : State} (h : t.cores = s.cores) (c : Nat) : t.core c = s.core c := by
  rw [State.core, h]
  rfl
theorem State.promote_core {s u : State} {c b slot srow : Nat} {nv : Option Nat}
    (hu : (s.evict c b slot).copyRow c b srow slot = u) (hcore : u.core c = s.core c) :
    (s.promote c b slot srow nv).mem = u.mem ∧ (s.promote c b slot srow nv).core c = (s.core c).setBank b
      { ((s.core c).bank b).setTag slot { valid := true, dirty := false, pin := false, srow := srow } with
        nv := nv.getD ((s.core c).bank b).nv } := by
  cases nv with
  | none =>
    rw [State.promote, hu]
    exact ⟨rfl, by rw [State.core_setTag, hcore]; rfl⟩
  | some n =>
    rw [State.promote, hu]
    refine ⟨rfl, ?_⟩
    rw [State.core_modCore, State.core_setTag, hcore, Core.bank_setBank, Core.setBank_setBank]
    rfl

theorem tagTableChanges : TagTableChanges := by
  intro s c x b slot hb hslot hinj
  dsimp only
  intro hold
  have hev := State.rowChanged_evict (b := b) hinj hslot hold
  have hcore := State.core_of_cores hev.cores c
  refine ⟨fun srow nv hlo hhi hne => ?_, ?_, fun v => ?_⟩
  · have hcp := State.rowChanged_copyRow (b := b) (s := s.evict c b slot) (src := srow) (dst := slot)
      (by rw [hcore]; exact hinj) (by omega) (by omega)
    obtain ⟨hmem, hcore'⟩ := State.promote_core (s := s) (nv := nv) rfl ((State.core_of_cores hcp.cores c).trans hcore)
    obtain ⟨htag, hnv, htags, hbanks, hctxs⟩ := State.setTag_frame hcore'
    rw [State.apply]
    refine ⟨htag, hnv, ⟨htags, hbanks, hctxs⟩, fun a ha => ?_, fun row i hrow hi => ?_⟩
    · rw [hmem, hcp.elsewhere a ha, hev.elsewhere a ha]
    · have hline : (s.promote c b slot srow nv).readFlat c (8192 * b + 8 * row + i) =
          ((s.evict c b slot).copyRow c b srow slot).rowLine c b row i := by
        rw [State.rowLine, State.readFlat, State.readFlat]
        exact State.loadLine_congr fun a _ _ => by rw [hmem]
      rw [hline, hcp.lines row i hrow hi]
      split
      · rw [hev.lines srow i hhi hi, if_neg (fun h => hne h.1 h.2)]
        rfl
      · rw [hev.lines row i hrow hi]
        rfl
  · have htab : ((s.evict c b slot).setTag c b slot
        { ((s.core c).bank b).tag slot with valid := false, dirty := false, pin := false }).core c = (s.core c).setBank b
          { ((s.core c).bank b).setTag slot { ((s.core c).bank b).tag slot with valid := false, dirty := false, pin := false }
            with nv := ((s.core c).bank b).nv } := by
      rw [State.core_setTag, hcore]
      rfl
    obtain ⟨htag, -, hothers⟩ := State.setTag_frame htab
    rw [State.apply, State.demote]
    exact ⟨htag, hothers, hev.elsewhere, hev.lines⟩
  · obtain ⟨htag, -, hothers⟩ := State.setTag_frame (nv := ((s.core c).bank b).nv)
      (State.core_setTag s c b slot { ((s.core c).bank b).tag slot with pin := v })
    exact ⟨htag, hothers, rfl⟩
end Sys2Proof.Machine
end

section
/-!
SUPPORT. Commands at the boundary behind their bundle (R151, R155, R163, R191, R196, R199, R204, R228).
-/
namespace Sys2Proof.Machine

/-! ## The token, the tiles and the ports of a command -/

theorem Ctx.token_produce (v : Ctx) {ko : Nat} (h : ko ≠ 0) (id k : Nat) : (v.produce ko id).token k =
    if k = ko then { pend := true, status := 0, addr := 0, since := 0, cmd := id } else v.token k := by
  rw [Ctx.produce, if_neg h]
  exact FMap.get_set _ _ _ _ _

/-- Ports lent to a command. -/
theorem get_foldl_lent (k : Core) (id : Nat) (l : List Nat) (n : Nat) : ∀ m : FMap Port,
    (l.foldl (fun m n => m.set n { k.port n with lent := some id }) m).get Port.idle n =
      if n ∈ l then { k.port n with lent := some id } else m.get Port.idle n := by
  induction l with
  | nil => exact fun m => rfl
  | cons i l ih =>
    intro m
    rw [List.foldl_cons, ih, FMap.get_set]
    by_cases h : n = i
    · subst h
      simp
    · simp [h]
theorem Core.lent_holdFor (k : Core) (c : Cmd) (ppe : Bool) {n : Nat} (h : n ∈ c.ports) :
    ((k.holdFor c ppe).port n).lent = some c.id := by
  have := get_foldl_lent k c.id c.ports n k.ports
  rw [if_pos h] at this
  exact congrArg Port.lent this
theorem Core.tileBusy_holdFor (k : Core) (c : Cmd) (ppe : Bool) {j : Nat} (h : j ∈ c.tiles) :
    ∃ b ∈ (k.holdFor c ppe).tileBusy, b.tile = j ∧ b.cmd = c.id ∧ b.clear = 0 :=
  ⟨_, List.mem_append_right _ (List.mem_map_of_mem h), rfl, rfl, rfl⟩

/-- A command as it is queued. -/
def State.queuedAs (s : State) (cmd0 : Cmd) : Cmd := { cmd0 with id := s.nextId, at_ := s.cyc }
/-- The state in which a command has its number and its KO. -/
def State.numbered (s : State) (c x : Nat) (cmd0 : Cmd) : State :=
  ({ s with nextId := s.nextId + 1 } : State).modCtx c x (fun v => v.produce cmd0.f.ko.toNat s.nextId)
theorem State.ctx_numbered (s : State) (c x : Nat) (cmd0 : Cmd) :
    (s.numbered c x cmd0).ctx c x = (s.ctx c x).produce cmd0.f.ko.toNat s.nextId := State.ctx_modCtx _ _ _ _
theorem State.ctx_numbered_ne (s : State) (c x : Nat) (cmd0 : Cmd) {y : Nat} (h : y ≠ x) :
    (s.numbered c x cmd0).ctx c y = s.ctx c y := State.ctx_modCtx_ne _ _ _ _ _ _ (.inr h)
theorem State.core_numbered (s : State) (c x : Nat) (cmd0 : Cmd) : (s.numbered c x cmd0).core c =
    (s.core c).setCtx x ((s.ctx c x).produce cmd0.f.ko.toNat s.nextId) := State.core_modCtx _ _ _ _

/-- What the command of a bundle leaves behind it in its context and its core. -/
structure State.Commanded (s t : State) (c x : Nat) (cmd0 : Cmd) (held : Bool) : Prop where
  mem : t.mem = s.mem
  others : ∀ y, y ≠ x → t.ctx c y = s.ctx c y
  regs : (t.ctx c x).c = (s.ctx c x).c
  token : cmd0.f.ko.toNat ≠ 0 → ((t.ctx c x).token cmd0.f.ko.toNat).pend = true ∧
    ((t.ctx c x).token cmd0.f.ko.toNat).cmd = s.nextId ∧
    ∀ j, j ≠ cmd0.f.ko.toNat → (t.ctx c x).token j = (s.ctx c x).token j
  tiles : held = true → ∀ j ∈ cmd0.tiles, ∃ b ∈ (t.core c).tileBusy, b.tile = j ∧ b.cmd = s.nextId ∧ b.clear = 0
  ports : ∀ n ∈ cmd0.ports, (t.port c n).lent = some s.nextId

/-- A command whose context keeps its KO pending, and whose core holds its tiles and has lent its ports. -/
theorem State.commanded_of {s t : State} {c x : Nat} {cmd0 : Cmd} {held : Bool} (hmem : t.mem = s.mem)
    (hothers : ∀ y, y ≠ x → t.ctx c y = s.ctx c y) (hc : (t.ctx c x).c = (s.ctx c x).c)
    (htok : (t.ctx c x).tok = ((s.ctx c x).produce cmd0.f.ko.toNat s.nextId).tok) {k : Core} {cmd : Cmd} {ppe : Bool}
    (hid : cmd.id = s.nextId) (hports : cmd.ports = cmd0.ports) (htiles : held = true → cmd.tiles = cmd0.tiles)
    (hbusy : (t.core c).tileBusy = (k.holdFor cmd ppe).tileBusy) (hlent : (t.core c).ports = (k.holdFor cmd ppe).ports) :
    s.Commanded t c x cmd0 held where
  mem := hmem
  others := hothers
  regs := hc
  token h := by
    have htoken (j : Nat) := ((s.ctx c x).token_produce h s.nextId j)
    simp only [Ctx.token] at htoken ⊢
    rw [htok, htoken, if_pos rfl]
    exact ⟨rfl, rfl, fun j hj => (htoken j).trans (if_neg hj)⟩
  tiles h j hj := by
    rw [hbusy, ← hid]
    exact Core.tileBusy_holdFor _ _ _ (by rw [htiles h]; exact hj)
  ports n hn := by
    rw [State.port, Core.port, hlent, ← hid]
    exact Core.lent_holdFor k cmd ppe (by rw [hports]; exact hn)

/-! ## One engine after another -/

/-- The core behind a bundle that starts its load, its run, or its drain or expansion. -/
def Core.withLoad (k : Core) (cmd : Cmd) : Core :=
  { (k.beginLoad cmd).holdFor { cmd with tiles := [] } false with loadQ := k.loadQ ++ [cmd] }
def Core.withRun (k : Core) (cmd : Cmd) : Core := { k.holdFor cmd false with runQ := k.runQ ++ [cmd] }
def Core.withPpe (k : Core) (cmd : Cmd) : Core := { (k.holdSet cmd).holdFor cmd true with ppeQ := k.ppeQ ++ [cmd] }

theorem State.apply_load (s : State) (c x : Nat) (cmd0 : Cmd) : s.apply c x (.command .load cmd0) =
    ((s.numbered c x cmd0).modCore c (fun k => k.withLoad (s.queuedAs cmd0))).schedule s.cyc (.matrixCommandStart c .load) := by
  rw [State.apply, if_neg (by decide), State.issueCommand]
  simp only [State.newId, State.modCore_modCore]
  rfl
theorem State.apply_run (s : State) (c x : Nat) (cmd0 : Cmd) : s.apply c x (.command .run cmd0) =
    ((s.numbered c x cmd0).modCore c (fun k => k.withRun (s.queuedAs cmd0))).schedule s.cyc (.matrixCommandStart c .run) := by
  rw [State.apply, if_neg (by decide)]
  rfl
theorem State.apply_ppe (s : State) (c x : Nat) (cmd0 : Cmd) : s.apply c x (.command .ppe cmd0) =
    (((s.numbered c x cmd0).modCore c (fun k => k.withPpe (s.queuedAs cmd0))).modCtx c x (fun v =>
      { v with segDrains := v.segDrains ++ [s.nextId] })).schedule s.cyc (.ppeCommandStart c) := by
  rw [State.apply, if_neg (by decide)]
  rfl
/-- A context whose SRQ has taken a command. -/
def Ctx.holding (v : Ctx) (cmd : Cmd) : Ctx :=
  { v with srq := v.srq ++ [{ oc := cmd.f.oc.toNat, kind := .command cmd, va := 0, pa := 0, num := v.nextAccess }],
           nextAccess := v.nextAccess + 1 }
theorem State.apply_held {e : Engine} (he : e = .copy ∨ e = .sca) (s : State) (c x : Nat) (cmd0 : Cmd) :
    s.apply c x (.command e cmd0) = ((s.numbered c x cmd0).modCore c (fun k => k.holdFor (s.queuedAs cmd0) false)).modCtx c x
      (fun v => v.holding (s.queuedAs cmd0)) := by
  obtain rfl | rfl := he <;> (rw [State.apply, if_neg (by decide)]; rfl)

/-- What a change of a core that leaves its contexts leaves of the state in which a command is numbered. -/
theorem State.commanded_modCore {s t : State} {c x : Nat} {cmd0 : Cmd} {f : Core → Core} {held : Bool} {d : Nat} {i : Instr}
    {k : Core} {cmd : Cmd} {ppe : Bool} (ht : t = ((s.numbered c x cmd0).modCore c f).schedule d i)
    (hctxs : ∀ k, (f k).ctxs = k.ctxs) (hid : cmd.id = s.nextId) (hports : cmd.ports = cmd0.ports)
    (htiles : held = true → cmd.tiles = cmd0.tiles)
    (hbusy : (f ((s.numbered c x cmd0).core c)).tileBusy = (k.holdFor cmd ppe).tileBusy)
    (hlent : (f ((s.numbered c x cmd0).core c)).ports = (k.holdFor cmd ppe).ports) : s.Commanded t c x cmd0 held := by
  have hcore : t.core c = f ((s.numbered c x cmd0).core c) := by
    rw [ht, (State.Later.schedule _ _ _).core, State.core_modCore]
  have hctx (y : Nat) : t.ctx c y = (s.numbered c x cmd0).ctx c y := by
    rw [State.ctx, hcore, Core.ctx, hctxs]
    rfl
  refine State.commanded_of (by rw [ht]; rfl) (fun y hy => (hctx y).trans (State.ctx_numbered_ne _ _ _ _ hy)) ?_ ?_ hid hports
    htiles (by rw [hcore]; exact hbusy) (by rw [hcore]; exact hlent)
  · rw [hctx, State.ctx_numbered, Ctx.produce_c]
  · rw [hctx, State.ctx_numbered]

theorem State.core_apply_load (s : State) (c x : Nat) (cmd0 : Cmd) : (s.apply c x (.command .load cmd0)).core c =
    ((s.numbered c x cmd0).core c).withLoad (s.queuedAs cmd0) := by
  rw [State.apply_load, (State.Later.schedule _ _ _).core, State.core_modCore]
theorem State.core_apply_run (s : State) (c x : Nat) (cmd0 : Cmd) : (s.apply c x (.command .run cmd0)).core c =
    ((s.numbered c x cmd0).core c).withRun (s.queuedAs cmd0) := by
  rw [State.apply_run, (State.Later.schedule _ _ _).core, State.core_modCore]

theorem State.commanded_load (s : State) (c x : Nat) (cmd0 : Cmd) :
    s.Commanded (s.apply c x (.command .load cmd0)) c x cmd0 false :=
  State.commanded_modCore (s.apply_load c x cmd0) (fun _ => rfl) (cmd := { s.queuedAs cmd0 with tiles := [] }) rfl rfl
    (by simp) rfl rfl
theorem State.commanded_run (s : State) (c x : Nat) (cmd0 : Cmd) :
    s.Commanded (s.apply c x (.command .run cmd0)) c x cmd0 true :=
  State.commanded_modCore (s.apply_run c x cmd0) (fun _ => rfl) (cmd := s.queuedAs cmd0) rfl rfl (fun _ => rfl) rfl rfl

theorem Core.holdSet_ctxs (k : Core) (cmd : Cmd) : (k.holdSet cmd).ctxs = k.ctxs := by
  unfold Core.holdSet
  split <;> rfl
theorem Core.tanSet_holdSet {k : Core} {cmd : Cmd} (h : cmd.op = 0x12) :
    ((k.holdSet cmd).tanSet (cmd.f.f.toNat % 2)).holder = some cmd.ctx := by
  have hn : fieldOf cmd.f.f 0 1 = cmd.f.f.toNat % 2 := by simp [fieldOf]
  rw [Core.holdSet, if_pos h, hn, Core.setTanSet, Core.tanSet, FMap.get_set_self]
theorem Core.buffer_withLoad (k : Core) (cmd : Cmd) : ((k.withLoad cmd).buffer (cmd.f.f.toNat % 2)).state = .loading ∧
    ((k.withLoad cmd).buffer (cmd.f.f.toNat % 2)).holder = some cmd.ctx := by
  have hn : bufferNo cmd = cmd.f.f.toNat % 2 := by simp [bufferNo, fieldOf]
  have hbuf : (k.withLoad cmd).buffer (bufferNo cmd) = (k.beginLoad cmd).buffer (bufferNo cmd) := rfl
  rw [← hn, hbuf, Core.beginLoad, Core.setBuffer, Core.buffer, FMap.get_set_self]
  exact ⟨rfl, rfl⟩

theorem State.core_apply_ppe (s : State) (c x : Nat) (cmd0 : Cmd) : ∃ v, (s.apply c x (.command .ppe cmd0)).core c =
    (((s.numbered c x cmd0).core c).withPpe (s.queuedAs cmd0)).setCtx x v ∧
      v.tok = ((s.ctx c x).produce cmd0.f.ko.toNat s.nextId).tok ∧ v.c = (s.ctx c x).c := by
  rw [State.apply_ppe, (State.Later.schedule _ _ _).core, State.core_modCtx, State.core_modCore]
  have hv : (((s.numbered c x cmd0).core c).withPpe (s.queuedAs cmd0)).ctx x = (s.numbered c x cmd0).ctx c x := by
    rw [Core.ctx, Core.withPpe]
    show ((((s.numbered c x cmd0).core c).holdSet (s.queuedAs cmd0)).ctxs).get Ctx.blank x = _
    rw [Core.holdSet_ctxs]
    rfl
  have hctx : ((s.numbered c x cmd0).modCore c (fun k => k.withPpe (s.queuedAs cmd0))).ctx c x =
      (s.ctx c x).produce cmd0.f.ko.toNat s.nextId := by
    rw [State.ctx_modCore, hv, State.ctx_numbered]
  exact ⟨_, rfl, by rw [hctx], by rw [hctx, Ctx.produce_c]⟩
theorem State.commanded_ppe (s : State) (c x : Nat) (cmd0 : Cmd) :
    s.Commanded (s.apply c x (.command .ppe cmd0)) c x cmd0 true := by
  obtain ⟨v, hcore, htok, hc⟩ := s.core_apply_ppe c x cmd0
  have hown : (s.apply c x (.command .ppe cmd0)).ctx c x = v := by rw [State.ctx, hcore, Core.ctx_setCtx]
  refine State.commanded_of (by rw [State.apply_ppe]; rfl) (fun y hy => ?_) (by rw [hown, hc]) (by rw [hown, htok])
    (k := ((s.numbered c x cmd0).core c).holdSet (s.queuedAs cmd0)) (cmd := s.queuedAs cmd0) (ppe := true) rfl rfl
    (fun _ => rfl) (by rw [hcore]; rfl) (by rw [hcore]; rfl)
  rw [State.ctx, hcore, Core.ctx_setCtx_ne _ _ _ _ hy, ← State.ctx_numbered_ne s c x cmd0 hy]
  show (((s.numbered c x cmd0).core c).holdSet (s.queuedAs cmd0)).ctxs.get Ctx.blank y = _
  rw [Core.holdSet_ctxs]
  rfl

theorem State.core_apply_held {e : Engine} (he : e = .copy ∨ e = .sca) (s : State) (c x : Nat) (cmd0 : Cmd) :
    (s.apply c x (.command e cmd0)).core c = (((s.numbered c x cmd0).core c).holdFor (s.queuedAs cmd0) false).setCtx x
      (((s.ctx c x).produce cmd0.f.ko.toNat s.nextId).holding (s.queuedAs cmd0)) := by
  have hctx : ((s.numbered c x cmd0).modCore c (fun k => k.holdFor (s.queuedAs cmd0) false)).ctx c x =
      (s.ctx c x).produce cmd0.f.ko.toNat s.nextId := by
    rw [State.ctx_modCore]
    exact s.ctx_numbered c x cmd0
  rw [State.apply_held he, State.core_modCtx, hctx, State.core_modCore]
theorem State.commanded_held {e : Engine} (he : e = .copy ∨ e = .sca) (s : State) (c x : Nat) (cmd0 : Cmd) :
    s.Commanded (s.apply c x (.command e cmd0)) c x cmd0 true := by
  have hcore := State.core_apply_held he s c x cmd0
  have hown : (s.apply c x (.command e cmd0)).ctx c x =
      ((s.ctx c x).produce cmd0.f.ko.toNat s.nextId).holding (s.queuedAs cmd0) := by
    rw [State.ctx, hcore, Core.ctx_setCtx]
  refine State.commanded_of (by rw [State.apply_held he]; rfl) (fun y hy => ?_) (by rw [hown, Ctx.holding, Ctx.produce_c])
    (by rw [hown]; rfl) (k := (s.numbered c x cmd0).core c) (cmd := s.queuedAs cmd0) (ppe := false) rfl rfl
    (fun _ => rfl) (by rw [hcore]; rfl) (by rw [hcore]; rfl)
  rw [State.ctx, hcore, Core.ctx_setCtx_ne _ _ _ _ hy, ← State.ctx_numbered_ne s c x cmd0 hy]
  rfl

theorem commandsQueue : CommandsQueue := by
  intro s c x cmd0
  dsimp only
  refine ⟨?_, ?_, ?_, fun e he => ?_⟩
  · obtain ⟨hmem, hothers, hc, htok, htiles, hports⟩ := s.commanded_load c x cmd0
    refine ⟨hmem, hothers, hc, htok, htiles, hports, ?_⟩
    rw [State.core_apply_load, State.core_numbered]
    exact ⟨rfl, (Core.buffer_withLoad _ (s.queuedAs cmd0)).1, (Core.buffer_withLoad _ (s.queuedAs cmd0)).2,
      by rw [State.apply_load]; exact State.mem_schedule.2 (.inl rfl)⟩
  · obtain ⟨hmem, hothers, hc, htok, htiles, hports⟩ := s.commanded_run c x cmd0
    refine ⟨hmem, hothers, hc, htok, htiles, hports, ?_⟩
    rw [State.core_apply_run, State.core_numbered]
    exact ⟨rfl, by rw [State.apply_run]; exact State.mem_schedule.2 (.inl rfl)⟩
  · obtain ⟨hmem, hothers, hc, htok, htiles, hports⟩ := s.commanded_ppe c x cmd0
    refine ⟨hmem, hothers, hc, htok, htiles, hports, ?_⟩
    obtain ⟨v, hcore, -, -⟩ := s.core_apply_ppe c x cmd0
    rw [hcore, State.core_numbered]
    exact ⟨rfl, fun hop => Core.tanSet_holdSet (cmd := s.queuedAs cmd0) hop,
      by rw [State.apply_ppe]; exact State.mem_schedule.2 (.inl rfl)⟩
  · obtain ⟨hmem, hothers, hc, htok, htiles, hports⟩ := State.commanded_held he s c x cmd0
    refine ⟨hmem, hothers, hc, htok, htiles, hports, ?_⟩
    rw [State.ctx, State.core_apply_held he, State.core_numbered, Core.ctx_setCtx, Ctx.holding, Ctx.produce_srq,
      Ctx.produce_nextAccess]
    exact ⟨rfl, rfl, rfl⟩
end Sys2Proof.Machine
end

section
/-!
SUPPORT. A KJOIN, and the commands of the chain FIFOs, at the boundary behind their bundle (R196, R197, R199, R228); the
end of a command as its tokens see it.
-/
namespace Sys2Proof.Machine

/-! ## Tokens at the end of a command -/

theorem Ctx.token_settle (cmd : Nat) (st : BitVec 8) (addr cyc : Nat) (v : Ctx) (k : Nat) :
    (v.settle cmd st addr cyc).token k = (v.token k).settle cmd st addr cyc :=
  FMap.get_map (d := Token.idle) (g := fun _ t => t.settle cmd st addr cyc) v.tok rfl
theorem Token.settle_of_await {t : Token} {cmd : Nat} (hp : t.pend = true) (hc : t.cmd = cmd) (st : BitVec 8) (addr cyc : Nat) :
    t.settle cmd st addr cyc = { t with pend := false, status := st, addr := addr, since := cyc + 1 } := if_pos ⟨hp, hc⟩
theorem Token.settle_of_done {t : Token} (hp : t.pend = false) (cmd : Nat) (st : BitVec 8) (addr cyc : Nat) :
    t.settle cmd st addr cyc = t := if_neg fun h => by rw [hp] at h; cases h.1

/-! ## A join that stands alone -/

/-- A core behind a join that enters it: it waits, or its token is complete. -/
def Core.joined (k : Core) (cmd : Cmd) (cyc : Nat) : Core :=
  if inputsDone cmd.ins = true then
    Core.settle cmd.id (inputStatus cmd.ins).1 (inputStatus cmd.ins).2 cyc ({ k with joins := [] }.noteEnded cmd cyc)
  else { k with joins := [cmd] }

theorem Core.finishJoins_alone {k : Core} {cmd : Cmd} (hj : k.joins = []) (hcov : cmd.covers = []) (cyc : Nat) :
    Core.finishJoins cyc (k.joins.length + 1) { k with joins := k.joins ++ [cmd] } = k.joined cmd cyc := by
  rw [hj, List.nil_append, List.length_nil, Core.finishJoins]
  have hready : ({ k with joins := [cmd] } : Core).joinReady cmd = inputsDone cmd.ins := by
    rw [Core.joinReady, hcov]
    simp [Ctx.uncovered]
  rw [Core.joined]
  by_cases hd : inputsDone cmd.ins = true
  · rw [if_pos hd, List.find?_cons_of_pos (by rw [hready]; exact hd)]
    simp only [Core.finishJoins, List.filter_cons, ne_eq, not_true_eq_false, decide_false, Bool.false_eq_true, if_false,
      List.filter_nil]
  · rw [if_neg hd, List.find?_cons_of_neg (by rw [hready]; exact hd)]
    rfl

theorem State.issueCommand_join {e : Engine} (he : e = .join ∨ e = .chain) {s : State} {c : Nat} (x : Nat) {cmd0 : Cmd}
    (hj : (s.core c).joins = []) (hcov : cmd0.covers = []) : s.issueCommand c x e cmd0 =
      (s.numbered c x cmd0).setCore c (((s.numbered c x cmd0).core c).joined (s.queuedAs cmd0) s.cyc) := by
  rw [← Core.finishJoins_alone (k := (s.numbered c x cmd0).core c) (cmd := s.queuedAs cmd0)
    (by rw [State.core_numbered]; exact hj) hcov]
  obtain rfl | rfl := he <;> rfl

/-- What a join leaves of its core. -/
theorem Core.joined_frame (k : Core) (cmd : Cmd) (cyc x : Nat) :
    (inputsDone cmd.ins = true → (k.joined cmd cyc).joins = [] ∧
      (k.joined cmd cyc).ctx x = (k.ctx x).settle cmd.id (inputStatus cmd.ins).1 (inputStatus cmd.ins).2 cyc) ∧
    (inputsDone cmd.ins = false → (k.joined cmd cyc).joins = [cmd] ∧ (k.joined cmd cyc).ctx x = k.ctx x) ∧
    ((k.joined cmd cyc).ctx x).c = (k.ctx x).c := by
  by_cases hd : inputsDone cmd.ins = true
  · have hk : k.joined cmd cyc = Core.settle cmd.id (inputStatus cmd.ins).1 (inputStatus cmd.ins).2 cyc
        ({ k with joins := [] }.noteEnded cmd cyc) := if_pos hd
    have hctx := Core.ctx_settle ({ k with joins := [] }.noteEnded cmd cyc) cmd.id (inputStatus cmd.ins).1
      (inputStatus cmd.ins).2 cyc x
    rw [hk]
    exact ⟨fun _ => ⟨rfl, hctx⟩, fun h => absurd hd (by rw [h]; decide), by rw [hctx]; rfl⟩
  · have hk : k.joined cmd cyc = { k with joins := [cmd] } := if_neg hd
    rw [hk]
    exact ⟨fun h => absurd h hd, fun _ => ⟨rfl, rfl⟩, rfl⟩

/-- What a join does to its token. -/
theorem State.joins_alone {s t : State} {c x : Nat} {cmd0 : Cmd} (hmem : t.mem = s.mem)
    (hcore : t.core c = ((s.numbered c x cmd0).core c).joined (s.queuedAs cmd0) s.cyc) :
    (inputsDone cmd0.ins = true → (t.core c).joins = [] ∧ (cmd0.f.ko.toNat ≠ 0 →
      ((t.ctx c x).token cmd0.f.ko.toNat).pend = false ∧
      ((t.ctx c x).token cmd0.f.ko.toNat).status = (inputStatus cmd0.ins).1 ∧
      ((t.ctx c x).token cmd0.f.ko.toNat).since = s.cyc + 1)) ∧
    (inputsDone cmd0.ins = false → (t.core c).joins = [s.queuedAs cmd0] ∧
      (cmd0.f.ko.toNat ≠ 0 → ((t.ctx c x).token cmd0.f.ko.toNat).pend = true)) ∧
    t.mem = s.mem ∧ (t.ctx c x).c = (s.ctx c x).c := by
  obtain ⟨hdone, hwait, hc⟩ := Core.joined_frame ((s.numbered c x cmd0).core c) (s.queuedAs cmd0) s.cyc x
  have hown : ((s.numbered c x cmd0).core c).ctx x = (s.ctx c x).produce cmd0.f.ko.toNat s.nextId := s.ctx_numbered c x cmd0
  have htok (h : cmd0.f.ko.toNat ≠ 0) : ((s.ctx c x).produce cmd0.f.ko.toNat s.nextId).token cmd0.f.ko.toNat = _ :=
    ((s.ctx c x).token_produce h s.nextId _).trans (if_pos rfl)
  rw [State.ctx, hcore]
  refine ⟨fun h => ?_, fun h => ?_, hmem, ?_⟩
  · obtain ⟨hjoins, hctx⟩ := hdone h
    refine ⟨hjoins, fun hko => ?_⟩
    rw [hctx, hown, Ctx.token_settle, htok hko, Token.settle_of_await (cmd := (s.queuedAs cmd0).id)
      (t := { pend := true, status := 0, addr := 0, since := 0, cmd := s.nextId }) rfl rfl]
    exact ⟨rfl, rfl, rfl⟩
  · obtain ⟨hjoins, hctx⟩ := hwait h
    refine ⟨hjoins, fun hko => ?_⟩
    rw [hctx, hown, htok hko]
  · rw [hc, hown, Ctx.produce_c]

/-! ## CF.CFG and CF.RST -/

theorem State.fifo_modFifo (s : State) (cl n m : Nat) (f : Fifo → Fifo) :
    (s.modFifo cl n f).fifo cl m = if m = n then f (s.fifo cl m) else s.fifo cl m := by
  rw [State.fifo, State.modFifo, State.cluster_modCluster, if_pos rfl, Cluster.fifo, Cluster.setFifo, FMap.get_set]
  split
  next h => rw [h]; rfl
  · rfl

theorem State.chainEffect_frame (s : State) (c x : Nat) (cmd : Cmd) :
    (s.chainEffect c x cmd).mem = s.mem ∧ (s.chainEffect c x cmd).cores = s.cores := by
  unfold State.chainEffect
  dsimp only
  split
  · exact ⟨rfl, rfl⟩
  · split <;> exact ⟨rfl, rfl⟩

/-- A FIFO behind a CF.CFG or CF.RST: without a status of a token it consumes, emptied, with or without a holder. -/
def Fifo.chained (q : Fifo) (c x launch : Nat) (cmd : Cmd) : Fifo :=
  if (inputStatus cmd.ins).1 ≠ 0 then q
  else if cmd.op = 0x38 then
    { q with lines := [], pushers := [], cfg := some (fieldOf cmd.f.mode 0 2, fieldOf cmd.f.mode 2 2, launch), holder := some (c, x) }
  else { q with lines := [], pushers := [], cfg := none, holder := none }
theorem State.fifo_chainEffect (s : State) (c x : Nat) (cmd : Cmd) (m : Nat) :
    (s.chainEffect c x cmd).fifo (c / 4) m = if m = cmd.f.f.toNat % 8
      then (s.fifo (c / 4) m).chained c x (s.ctx c x).launch cmd else s.fifo (c / 4) m := by
  have hn : chainNo cmd.f = cmd.f.f.toNat % 8 := by simp [chainNo, fieldOf]
  have hcl : clusterOf c = c / 4 := rfl
  unfold State.chainEffect Fifo.chained
  dsimp only
  rw [hn, hcl]
  split
  · rw [ite_self]
  · split <;> rw [State.fifo_modFifo]

theorem joinsAndChains : JoinsAndChains := by
  intro s c x cmd0 hj hcov
  dsimp only
  have hjoin : s.apply c x (.command .join cmd0) = s.issueCommand c x .join cmd0 := by rw [State.apply, if_neg (by decide)]
  have hchain : s.apply c x (.command .chain cmd0) = (s.issueCommand c x .chain cmd0).chainEffect c x cmd0 := by
    rw [State.apply, if_pos rfl]
  have hcore {e : Engine} (he : e = .join ∨ e = .chain) : (s.issueCommand c x e cmd0).core c =
      ((s.numbered c x cmd0).core c).joined (s.queuedAs cmd0) s.cyc := by
    rw [State.issueCommand_join he x hj hcov, State.core_setCore]
  have hmem {e : Engine} (he : e = .join ∨ e = .chain) : (s.issueCommand c x e cmd0).mem = s.mem := by
    rw [State.issueCommand_join he x hj hcov]
    rfl
  obtain ⟨hcmem, hccores⟩ := (s.issueCommand c x .chain cmd0).chainEffect_frame c x cmd0
  refine ⟨?_, ?_, ?_⟩
  · rw [hjoin]
    exact State.joins_alone (hmem (.inl rfl)) (hcore (.inl rfl))
  · rw [hchain]
    exact State.joins_alone (hcmem.trans (hmem (.inr rfl))) ((State.core_of_cores hccores c).trans (hcore (.inr rfl)))
  · have hfifo (m : Nat) : (s.issueCommand c x .chain cmd0).fifo (c / 4) m = s.fifo (c / 4) m := by
      rw [State.issueCommand_join (.inr rfl) x hj hcov]
      rfl
    have hlaunch : ((s.issueCommand c x .chain cmd0).ctx c x).launch = (s.ctx c x).launch := by
      have hown : ((s.numbered c x cmd0).core c).ctx x = _ := s.ctx_numbered c x cmd0
      obtain ⟨hdone, hwait, -⟩ := Core.joined_frame ((s.numbered c x cmd0).core c) (s.queuedAs cmd0) s.cyc x
      rw [State.ctx, hcore (.inr rfl)]
      cases hd : inputsDone cmd0.ins with
      | true =>
        rw [(hdone hd).2, hown]
        exact Ctx.produce_launch _ _ _
      | false => rw [(hwait hd).2, hown, Ctx.produce_launch]
    have hall (m : Nat) := (s.issueCommand c x .chain cmd0).fifo_chainEffect c x cmd0 m
    simp only [hfifo, hlaunch] at hall
    rw [hchain]
    refine ⟨fun m hm => (hall m).trans (if_neg hm), fun hst => ?_, fun hst => ?_⟩
    · rw [hall, if_pos rfl, Fifo.chained, if_pos hst]
    · rw [hall, if_pos rfl, Fifo.chained, if_neg (not_not.2 hst)]
      refine ⟨?_, ?_, fun hop => ?_, fun hop => ?_⟩
      · split <;> rfl
      · split <;> rfl
      · rw [if_pos hop]
        exact ⟨rfl, by simp [fieldOf]⟩
      · rw [if_neg (by rw [hop]; decide)]
        exact ⟨rfl, rfl⟩
end Sys2Proof.Machine
end

section
/-!
SUPPORT. Owners of banks (R51, R52), and ports configured, popped and stopped (R63, R68, R143, R145).
-/
namespace Sys2Proof.Machine

/-! ## BOWN -/

theorem Core.port_setPort_eq (k : Core) (n m : Nat) (p : Port) : (k.setPort n p).port m = if m = n then p else k.port m :=
  FMap.get_set _ _ _ _ _
theorem Core.port_modTaken (k : Core) (code : BitVec 16) (f : List Nat → List Nat) (n : Nat) : (k.modTaken code f).port n =
    if ownerPort code = some n then { k.port n with taken := f (k.port n).taken } else k.port n := by
  unfold Core.modTaken
  cases h : ownerPort code with
  | none => simp
  | some m =>
    dsimp only
    rw [Core.port_setPort_eq]
    by_cases hn : n = m
    · rw [if_pos hn, if_pos (by rw [hn]), hn]
    · rw [if_neg hn, if_neg (fun he => hn (Option.some.inj he).symm)]
theorem Core.modTaken_frame (k : Core) (code : BitVec 16) (f : List Nat → List Nat) :
    (k.modTaken code f).banks = k.banks ∧ (k.modTaken code f).ctxs = k.ctxs ∧ (k.modTaken code f).layers = k.layers ∧
      (k.modTaken code f).bankMap = k.bankMap := by
  unfold Core.modTaken
  split <;> exact ⟨rfl, rfl, rfl, rfl⟩

/-- The core behind a BOWN that changes the owner of a bank. -/
def Core.given (k : Core) (x b : Nat) (code : BitVec 16) : Core :=
  ((k.setBank b { k.bank b with owner := code, grantor := some x, launch := k.launchAfter code (k.bank b).launch }).modTaken
    (k.bank b).owner (b :: ·)).modTaken code (fun l => l.filter (fun i => decide (i ≠ b)))
theorem Core.given_frame (k : Core) (x b : Nat) (code : BitVec 16) :
    (k.given x b code).bank b = { k.bank b with
      owner := code, grantor := some x, launch := k.launchAfter code (k.bank b).launch } ∧
    (∀ d, d ≠ b → (k.given x b code).bank d = k.bank d) ∧ (k.given x b code).ctxs = k.ctxs ∧
    (k.given x b code).layers = k.layers ∧ (k.given x b code).bankMap = k.bankMap := by
  unfold Core.given
  generalize hv : ({ k.bank b with
    owner := code, grantor := some x, launch := k.launchAfter code (k.bank b).launch } : Bank) = v
  obtain ⟨hbanks, hctxs, hlayers, hmap⟩ := ((k.setBank b v).modTaken (k.bank b).owner (b :: ·)).modTaken_frame code
    (fun l => l.filter (fun i => decide (i ≠ b)))
  obtain ⟨hbanks', hctxs', hlayers', hmap'⟩ := (k.setBank b v).modTaken_frame (k.bank b).owner (b :: ·)
  refine ⟨?_, fun d hd => ?_, hctxs.trans hctxs', hlayers.trans hlayers', hmap.trans hmap'⟩
  · rw [Core.bank, hbanks, hbanks', ← Core.bank, Core.bank_setBank]
  · rw [Core.bank, hbanks, hbanks', ← Core.bank, Core.bank_setBank_ne _ _ _ _ hd]
theorem Core.taken_given (k : Core) (x b : Nat) (code : BitVec 16) (n : Nat) :
    (ownerPort (k.bank b).owner = some n → ownerPort code ≠ some n → b ∈ ((k.given x b code).port n).taken) ∧
    (ownerPort code = some n → b ∉ ((k.given x b code).port n).taken) := by
  rw [Core.given, Core.port_modTaken, Core.port_modTaken]
  refine ⟨fun hold hnew => ?_, fun hnew => ?_⟩
  · rw [if_neg hnew, if_pos hold]
    exact .head _
  · rw [if_pos hnew]
    exact fun h => absurd rfl (of_decide_eq_true (List.mem_filter.1 h).2)
theorem Core.launchAfter_eq (k : Core) (code : BitVec 16) (old : Nat) : k.launchAfter code old =
    if code.toNat / 2 ^ 12 = 0 ∨ (code.toNat / 2 ^ 12 = 1 ∧ code.toNat / 2 ^ 8 % 16 = 4) then 0
    else if code.toNat / 2 ^ 12 = 1 then (k.ctx (code.toNat / 2 ^ 8 % 16)).launch else old := by
  have hkind : fieldOf code 12 4 = code.toNat / 2 ^ 12 := by
    have := code.isLt
    simp only [fieldOf]
    omega
  have hindex : fieldOf code 8 4 = code.toNat / 2 ^ 8 % 16 := by simp [fieldOf]
  rw [Core.launchAfter, hkind, hindex]

theorem State.later_wakePorts (s : State) (c : Nat) : Later s (s.wakePorts c) :=
  Later.trans (Later.foldl (fun t _ => Later.ite (Later.schedule _ _ _) (Later.refl t)) _ _)
    (Later.foldl (fun t _ => Later.ite (Later.refl t) (Later.schedule _ _ _)) _ _)
theorem State.powerBanks_due {s : State} {c b : Nat} (h : (s.core c).layerOn ((s.core c).physical b / 64) = false) :
    ∃ due, (due, Instr.layerPowerOn c ((s.core c).physical b / 64)) ∈ (s.powerBanks c [b]).calendar := by
  have hoff : (s.core c).banksOff [b] = [(s.core c).physical b / 64] := by
    simp [Core.banksOff, List.eraseDups_cons, h]
  rw [State.powerBanks, hoff, List.foldl_cons, List.foldl_nil, State.powerLayer, h, Bool.false_or]
  split
  next hany =>
    obtain ⟨⟨due, i⟩, he, hi⟩ := List.any_eq_true.1 hany
    exact ⟨due, by rw [← of_decide_eq_true hi]; exact he⟩
  next => exact ⟨_, State.mem_schedule.2 (.inl rfl)⟩

/-- The state behind a BOWN, before what it schedules. -/
def State.given (s : State) (c x b : Nat) (code : BitVec 16) : State := s.modCore c (fun k => k.given x b code)
/-- The layer of a bank that has joined a launch begins to power on. -/
def State.powerGiven (s : State) (c b : Nat) : State :=
  if ((s.core c).bank b).launch = 0 then s else s.powerBanks c [b]
theorem State.later_powerGiven (s : State) (c b : Nat) : Later s (s.powerGiven c b) :=
  Later.ite (Later.refl s) (State.later_powerBanks s c [b])
theorem State.giveBank_eq {s : State} {c b : Nat} {code : BitVec 16} (h : ((s.core c).bank b).owner ≠ code) (x : Nat) :
    s.giveBank c x b code = if fieldOf code 12 4 = 0
      then (((s.given c x b code).wakePorts c).powerGiven c b).schedulePlacement
      else ((s.given c x b code).wakePorts c).powerGiven c b := if_neg h

theorem State.giveBank_given {s : State} {c b : Nat} {code : BitVec 16} (h : ((s.core c).bank b).owner ≠ code) (x : Nat) :
    Later (s.given c x b code) (s.giveBank c x b code) ∧
    (((((s.core c).given x b code).bank b).launch ≠ 0 → (s.core c).layerOn ((s.core c).physical b / 64) = false →
      ∃ due, (due, Instr.layerPowerOn c ((s.core c).physical b / 64)) ∈ (s.giveBank c x b code).calendar)) ∧
    (code.toNat / 2 ^ 12 = 0 → (s.cyc + 275, Instr.launchPlacement) ∈ (s.giveBank c x b code).calendar) := by
  have hwake := (s.given c x b code).later_wakePorts c
  have hpower := ((s.given c x b code).wakePorts c).later_powerGiven c b
  generalize hw : (s.given c x b code).wakePorts c = w at *
  have hlast : Later (w.powerGiven c b) (s.giveBank c x b code) := by
    rw [State.giveBank_eq h, hw]
    exact Later.ite (Later.schedule _ _ _) (Later.refl _)
  have hcore : w.core c = (s.core c).given x b code := by rw [hwake.core, State.given, State.core_modCore]
  obtain ⟨-, -, -, hlayers, hmap⟩ := (s.core c).given_frame x b code
  refine ⟨hwake.trans (hpower.trans hlast), fun hlaunch hoff => ?_, fun hpool => ?_⟩
  · have hphys : (w.core c).physical b = (s.core c).physical b := by rw [hcore, Core.physical, hmap]; rfl
    have hoff' : (w.core c).layerOn ((w.core c).physical b / 64) = false := by
      rw [hphys, hcore, Core.layerOn, hlayers]
      exact hoff
    obtain ⟨due, hdue⟩ := State.powerBanks_due hoff'
    rw [hphys] at hdue
    refine ⟨due, hlast.keeps _ ?_⟩
    rw [State.powerGiven, if_neg (by rw [hcore]; exact hlaunch)]
    exact hdue
  · have hkind : fieldOf code 12 4 = 0 := by
      have := code.isLt
      simp only [fieldOf]
      omega
    have hcyc : (w.powerGiven c b).cyc = s.cyc := (hwake.trans hpower).cyc
    rw [State.giveBank_eq h, hw, if_pos hkind, State.schedulePlacement, ← hcyc]
    exact State.mem_schedule.2 (.inl rfl)

theorem State.apply_owner (s : State) (c x b : Nat) (code : BitVec 16) :
    let t := s.apply c x (.owner b code)
    let old := (s.core c).bank b
    (old.owner = code → t = s) ∧
    (old.owner ≠ code → (t.core c).bank b = { old with owner := code, grantor := some x, launch :=
        if code.toNat / 2 ^ 12 = 0 ∨ (code.toNat / 2 ^ 12 = 1 ∧ code.toNat / 2 ^ 8 % 16 = 4) then 0
        else if code.toNat / 2 ^ 12 = 1 then (s.ctx c (code.toNat / 2 ^ 8 % 16)).launch else old.launch } ∧
      (∀ d, d ≠ b → (t.core c).bank d = (s.core c).bank d) ∧ t.mem = s.mem ∧ t.marks = s.marks ∧
      (t.core c).ctxs = (s.core c).ctxs ∧
      (∀ n, ownerPort old.owner = some n → ownerPort code ≠ some n → b ∈ (t.port c n).taken) ∧
      (∀ n, ownerPort code = some n → b ∉ (t.port c n).taken) ∧
      (((t.core c).bank b).launch ≠ 0 → (s.core c).layerOn ((s.core c).physical b / 64) = false →
        ∃ due, (due, Instr.layerPowerOn c ((s.core c).physical b / 64)) ∈ t.calendar) ∧
      (code.toNat / 2 ^ 12 = 0 → (s.cyc + 275, Instr.launchPlacement) ∈ t.calendar)) := by
  dsimp only
  rw [State.apply]
  refine ⟨fun h => if_pos h, fun h => ?_⟩
  obtain ⟨hlater, hlayer, hpool⟩ := State.giveBank_given h x
  obtain ⟨hbank, hbanks, hctxs, -, -⟩ := (s.core c).given_frame x b code
  have hcore : (s.giveBank c x b code).core c = (s.core c).given x b code := by
    rw [hlater.core, State.given, State.core_modCore]
  rw [Core.launchAfter_eq] at hbank
  simp only [State.port, hcore]
  exact ⟨hbank, hbanks, hlater.mem, hlater.marks, hctxs, fun n => ((s.core c).taken_given x b code n).1,
    fun n => ((s.core c).taken_given x b code n).2, hlayer, hpool⟩

/-! ## The end of a stream's command -/

/-- A port that at most a command has returned. -/
def Port.SameButLent (p q : Port) : Prop := q = { p with lent := q.lent, freeFrom := q.freeFrom }
theorem Port.SameButLent.trans {p q r : Port} (h : p.SameButLent q) (h' : q.SameButLent r) : p.SameButLent r :=
  Eq.trans h' (by rw [h])

/-- A core of which commands have ended: ports have returned, and tokens are complete. -/
structure Core.Ended (k l : Core) : Prop where
  ports : ∀ n, (k.port n).SameButLent (l.port n)
  tokens : ∀ y j, ((k.ctx y).token j).pend = false → (l.ctx y).token j = (k.ctx y).token j
theorem Core.Ended.refl (k : Core) : k.Ended k := ⟨fun _ => rfl, fun _ _ _ => rfl⟩
theorem Core.Ended.trans {k l m : Core} (h : k.Ended l) (h' : l.Ended m) : k.Ended m :=
  ⟨fun n => (h.ports n).trans (h'.ports n), fun y j hp =>
    (h'.tokens y j (by rw [h.tokens y j hp]; exact hp)).trans (h.tokens y j hp)⟩

theorem Core.port_settle (cmd : Nat) (st : BitVec 8) (addr cyc : Nat) (k : Core) (n : Nat) :
    (Core.settle cmd st addr cyc k).port n =
      if (k.port n).lent = some cmd then { k.port n with lent := none, freeFrom := cyc + 1 } else k.port n :=
  FMap.get_map (d := Port.idle) (g := fun _ p => if p.lent = some cmd then { p with lent := none, freeFrom := cyc + 1 } else p)
    k.ports rfl
theorem Core.ended_settle (cmd : Nat) (st : BitVec 8) (addr cyc : Nat) (k : Core) : k.Ended (Core.settle cmd st addr cyc k) where
  ports n := by
    rw [Core.port_settle, Port.SameButLent]
    split <;> rfl
  tokens y j hp := by rw [Core.ctx_settle, Ctx.token_settle, Token.settle_of_done hp]
theorem Core.ended_finishJoins (cyc n : Nat) : ∀ k : Core, k.Ended (Core.finishJoins cyc n k) := by
  induction n with
  | zero => exact Core.Ended.refl
  | succ n ih =>
    intro k
    rw [Core.finishJoins]
    split
    · exact Core.Ended.refl k
    next j _ =>
      refine Core.Ended.trans (Core.Ended.trans ?_ (Core.ended_settle j.id _ _ cyc _)) (ih _)
      exact ⟨fun _ => rfl, fun _ _ _ => rfl⟩

theorem State.settleRewind_frame (s : State) (c x : Nat) : (s.settleRewind c x).mem = s.mem ∧
    (∀ e ∈ s.calendar, e ∈ (s.settleRewind c x).calendar) ∧ (s.core c).Ended ((s.settleRewind c x).core c) := by
  unfold State.settleRewind
  dsimp only
  split
  · exact ⟨rfl, fun _ h => h, Core.Ended.refl _⟩
  · split
    · exact ⟨rfl, fun _ h => h, Core.Ended.refl _⟩
    next r _ _ =>
      refine ⟨rfl, fun e he => State.mem_schedule.2 (.inr he), ?_⟩
      rw [(State.Later.schedule _ _ _).core, State.core_modCtx]
      refine ⟨fun _ => rfl, fun y j _ => ?_⟩
      by_cases hy : y = x
      · rw [hy, Core.ctx_setCtx]
        rfl
      · rw [Core.ctx_setCtx_ne _ _ _ _ hy]

/-- What the end of a stream's command leaves. -/
theorem State.completeId_frame (s : State) (c x id : Nat) (st : BitVec 8) (addr : Nat) :
    (s.completeId c x id st addr).mem = s.mem ∧
    (∀ e ∈ s.calendar, e ∈ (s.completeId c x id st addr).calendar) ∧
    (s.core c).Ended ((s.completeId c x id st addr).core c) ∧
    ∀ y, TokenDone s (s.completeId c x id st addr) c y id st addr := by
  have hset := Core.ended_settle id st addr s.cyc (s.core c)
  have hjoins := Core.ended_finishJoins s.cyc (Core.settle id st addr s.cyc (s.core c)).joins.length
    (Core.settle id st addr s.cyc (s.core c))
  rw [State.completeId]
  generalize hk : Core.settle id st addr s.cyc (s.core c) = k at *
  generalize Core.finishJoins s.cyc k.joins.length k = l at *
  have hwake : Later (s.setCore c l) ((s.setCore c l).wake c) := State.later_wake _ _
  obtain ⟨hmem, hcal, hend⟩ := ((s.setCore c l).wake c).settleRewind_frame c x
  rw [hwake.core, State.core_setCore] at hend
  refine ⟨hmem.trans hwake.mem, fun e he => hcal e (hwake.keeps e he), hset.trans (hjoins.trans hend), fun y j hp hc => ?_⟩
  have htok : (k.ctx y).token j =
      { (s.ctx c y).token j with pend := false, status := st, addr := addr, since := s.cyc + 1 } := by
    rw [← hk, Core.ctx_settle, Ctx.token_settle, State.ctx_core, Token.settle_of_await hp hc]
  have hdone : ((k.ctx y).token j).pend = false := by rw [htok]
  rw [State.ctx, hend.tokens y j (by rw [hjoins.tokens y j hdone]; exact hdone), hjoins.tokens y j hdone, htok]
  exact ⟨rfl, rfl, rfl, rfl⟩

/-! ## PCFG, PSTOP and the pop of a line -/

theorem State.port_setPort (s : State) (c n m : Nat) (p : Port) :
    (s.setPort c n p).port c m = if m = n then p else s.port c m := by
  rw [State.port, State.setPort, State.core_modCore, Core.port_setPort_eq]
  rfl
theorem State.setPort_ctx (s : State) (c n y : Nat) (p : Port) : (s.setPort c n p).ctx c y = s.ctx c y := by
  rw [State.setPort, State.ctx_modCore]
  rfl

/-- A port's stream whose KEND, if it has one, completes. -/
def State.endStream (s : State) (c : Nat) : Option (Nat × Nat) → State
  | some (id, x) => s.completeId c x id 0 0
  | none => s
theorem State.endStream_frame (s : State) (c : Nat) (kend : Option (Nat × Nat)) :
    (s.endStream c kend).mem = s.mem ∧ (∀ e ∈ s.calendar, e ∈ (s.endStream c kend).calendar) ∧
    (s.core c).Ended ((s.endStream c kend).core c) ∧
    ∀ id y, kend = some (id, y) → ∀ z, TokenDone s (s.endStream c kend) c z id 0 0 := by
  match kend with
  | none => exact ⟨rfl, fun _ h => h, Core.Ended.refl _, fun _ _ h => nomatch h⟩
  | some (id, x) =>
    obtain ⟨hmem, hcal, hend, htok⟩ := s.completeId_frame c x id 0 0
    refine ⟨hmem, hcal, hend, fun id' y h => ?_⟩
    obtain ⟨rfl, -⟩ := Prod.mk.inj (Option.some.inj h)
    exact htok
theorem State.portDone_eq (s : State) (c n : Nat) : s.portDone c n =
    (s.setPort c n { s.port c n with done := true, kend := none }).endStream c (s.port c n).kend := by
  unfold State.portDone
  dsimp only
  split
  next id x h => rw [h]; rfl
  next h => rw [h]; rfl
theorem State.stopPort_eq (s : State) (c n : Nat) : s.stopPort c n = (s.setPort c n { s.port c n with
    holder := none, running := false, fifo := [], coming := [], kend := none, lent := none }).endStream c (s.port c n).kend := by
  unfold State.stopPort
  dsimp only
  split
  next id x h => rw [h]; rfl
  next h => rw [h]; rfl

/-- Tokens see the end of a command in the state in which a port has changed as in the state before. -/
theorem tokenDone_setPort {s t : State} {c n y id : Nat} {p : Port} (h : TokenDone (s.setPort c n p) t c y id 0 0) :
    TokenDone s t c y id 0 0 := by
  simp only [TokenDone, State.setPort_ctx] at h
  exact h

theorem State.apply_pstop (s : State) (c x n : Nat) :
    let t := s.apply c x (.pstop n)
    (t.port c n).holder = none ∧ (t.port c n).running = false ∧ (t.port c n).fifo = [] ∧ t.mem = s.mem ∧
    (t.port c n).pos = (s.port c n).pos ∧
    ∀ id y, (s.port c n).kend = some (id, y) → TokenDone s t c y id 0 0 := by
  dsimp only
  rw [State.apply, State.stopPort_eq]
  obtain ⟨hmem, -, hend, htok⟩ := (s.setPort c n { s.port c n with
    holder := none, running := false, fifo := [], coming := [], kend := none, lent := none }).endStream_frame c
      (s.port c n).kend
  have hport := hend.ports n
  rw [← State.port, State.port_setPort, if_pos rfl, Port.SameButLent, ← State.port] at hport
  rw [hport]
  exact ⟨rfl, rfl, rfl, hmem, rfl, fun id y h => tokenDone_setPort (htok id y h y)⟩

theorem State.popPort_eq (s : State) (c n : Nat) :
    let p := { s.port c n with
      fifo := (s.port c n).fifo.drop 1, pos := (s.port c n).pos + 1, moved := (s.port c n).moved + 1 }
    let s1 := (s.setPort c n p).schedule s.cyc (.readPortFetch c n)
    s.popPort c n = if (s.port c n).pos + 1 = (s.port c n).total then s1.portDone c n else s1 := rfl

theorem State.apply_pop {s : State} {c n : Nat} {l : PortLine} {ls : List PortLine} (hl : (s.port c n).fifo = l :: ls) (x : Nat) :
    let t := s.apply c x (.pop n)
    (t.port c n).fifo = ls ∧ (t.port c n).pos = (s.port c n).pos + 1 ∧
    (t.port c n).moved = (s.port c n).moved + 1 ∧ (s.cyc, Instr.readPortFetch c n) ∈ t.calendar ∧
    ((s.port c n).pos + 1 = (s.port c n).total → (t.port c n).done = true ∧
      ∀ id y, (s.port c n).kend = some (id, y) → TokenDone s t c y id 0 0) := by
  dsimp only
  rw [State.apply, State.popPort_eq]
  generalize hp : ({ s.port c n with
    fifo := (s.port c n).fifo.drop 1, pos := (s.port c n).pos + 1, moved := (s.port c n).moved + 1 } : Port) = p
  have hfifo : p.fifo = ls := by rw [← hp, hl]; rfl
  have hpos : p.pos = (s.port c n).pos + 1 := by rw [← hp]
  have hmoved : p.moved = (s.port c n).moved + 1 := by rw [← hp]
  have hkend : p.kend = (s.port c n).kend := by rw [← hp]
  have hlater := State.Later.schedule (s.setPort c n p) s.cyc (.readPortFetch c n)
  have hdue : (s.cyc, Instr.readPortFetch c n) ∈ ((s.setPort c n p).schedule s.cyc (.readPortFetch c n)).calendar :=
    State.mem_schedule.2 (.inl rfl)
  generalize (s.setPort c n p).schedule s.cyc (.readPortFetch c n) = s1 at *
  have hport : s1.port c n = p := by
    rw [State.port, hlater.core, ← State.port, State.port_setPort, if_pos rfl]
  split
  next hlast =>
    rw [State.portDone_eq, hport]
    obtain ⟨-, hcal, hend, htok⟩ := (s1.setPort c n { p with done := true, kend := none }).endStream_frame c p.kend
    have hq := hend.ports n
    rw [← State.port, State.port_setPort, if_pos rfl, Port.SameButLent, ← State.port] at hq
    rw [hq]
    refine ⟨hfifo, hpos, hmoved, hcal _ hdue, fun _ => ⟨rfl, fun id y h => ?_⟩⟩
    have hdone := htok id y (hkend.trans h) y
    simp only [TokenDone, State.setPort_ctx, hlater.ctx] at hdone ⊢
    intro k hk hc
    obtain ⟨h1, h2, h3, h4⟩ := hdone k hk hc
    exact ⟨h1, h2, h3, h4.trans (congrArg (· + 1) hlater.cyc)⟩
  next hlast =>
    rw [hport]
    exact ⟨hfifo, hpos, hmoved, hdue, fun h => absurd h hlast⟩

/-- A port that has its stream. -/
def Port.streaming (x : Nat) (d : Descr) (kend : Option (Nat × Nat)) : Port :=
  { Port.idle with holder := some x, cfg := d, running := true, kend := kend }
/-- A state in which a port has its stream, before the port starts. -/
structure State.Configured (s t : State) (c x n : Nat) (d : Descr) (kend : Option (Nat × Nat)) : Prop where
  mem : t.mem = s.mem
  cyc : t.cyc = s.cyc
  port : ∀ m, t.port c m = if m = n then Port.streaming x d kend else s.port c m
  token : Descr.kend d ≠ 0 → kend = some (s.nextId, x) ∧
    (t.ctx c x).token (Descr.kend d) = { pend := true, status := 0, addr := 0, since := 0, cmd := s.nextId }

theorem State.configPort_eq (s : State) (c x n : Nat) (d : Descr) : ∃ t kend, s.Configured t c x n d kend ∧
    s.configPort c x n d = if Descr.product d = 0 then t.portDone c n
      else if n < 6 then t.schedule (s.cyc + 1) (.readPortFetch c n) else t := by
  by_cases hko : Descr.kend d = 0
  · refine ⟨(s.modCtx c x (fun v => v.produce (Descr.kend d) 0)).setPort c n (Port.streaming x d none), none,
      ⟨rfl, rfl, fun m => ?_, fun h => absurd hko h⟩, ?_⟩
    · rw [State.port_setPort, State.port, State.core_modCtx]
      rfl
    · rw [State.configPort]
      simp only [if_pos hko]
      rfl
  · refine ⟨((s.newId.2).modCtx c x (fun v => v.produce (Descr.kend d) s.nextId)).setPort c n
      (Port.streaming x d (some (s.nextId, x))), some (s.nextId, x), ⟨rfl, rfl, fun m => ?_, fun _ => ⟨rfl, ?_⟩⟩, ?_⟩
    · rw [State.port_setPort, State.port, State.core_modCtx]
      rfl
    · rw [State.setPort_ctx, State.ctx_modCtx, Ctx.token_produce _ hko, if_pos rfl]
    · rw [State.configPort]
      simp only [if_neg hko]
      rfl

theorem State.apply_pcfg (s : State) (c x n : Nat) (d : Descr) :
    let t := s.apply c x (.pcfg n d)
    let ko := Descr.kend d
    (∀ m, m ≠ n → (t.port c m).fifo = (s.port c m).fifo ∧ (t.port c m).cfg = (s.port c m).cfg) ∧
    t.mem = s.mem ∧ (t.port c n).holder = some x ∧ (t.port c n).cfg = d ∧ (t.port c n).running = true ∧
    (t.port c n).pos = 0 ∧ (t.port c n).fifo = [] ∧ (t.port c n).fault = none ∧
    (Descr.product d ≠ 0 → (t.port c n).done = false ∧
      (ko ≠ 0 → ((t.ctx c x).token ko).pend = true ∧ ((t.ctx c x).token ko).cmd = s.nextId ∧
        (t.port c n).kend = some (s.nextId, x)) ∧
      (n < 6 → (s.cyc + 1, Instr.readPortFetch c n) ∈ t.calendar)) ∧
    (Descr.product d = 0 → (t.port c n).done = true ∧
      (ko ≠ 0 → ((t.ctx c x).token ko).pend = false ∧ ((t.ctx c x).token ko).status = 0)) := by
  dsimp only
  rw [State.apply]
  obtain ⟨s1, kend, ⟨hmem, hcyc, hport, htok⟩, heq⟩ := s.configPort_eq c x n d
  have hn : s1.port c n = Port.streaming x d kend := (hport n).trans (if_pos rfl)
  by_cases hp : Descr.product d = 0
  · rw [heq, if_pos hp, State.portDone_eq, hn, show (Port.streaming x d kend).kend = kend from rfl]
    obtain ⟨hmem', -, hend, hdone⟩ := (s1.setPort c n { Port.streaming x d kend with done := true, kend := none }).endStream_frame c
      kend
    generalize hq : ({ Port.streaming x d kend with done := true, kend := none } : Port) = q at *
    generalize (s1.setPort c n q).endStream c kend = t at *
    have hports (m : Nat) : (if m = n then q else s1.port c m).SameButLent (t.port c m) := by
      rw [← State.port_setPort]
      exact hend.ports m
    have hpn : q.SameButLent (t.port c n) := by
      have h := hports n
      rwa [if_pos rfl] at h
    rw [← hq] at hpn
    refine ⟨fun m hm => ?_, hmem'.trans hmem, ?_, ?_, ?_, ?_, ?_, ?_, fun h => absurd hp h, fun _ => ⟨?_, fun hko => ?_⟩⟩
    · have hm' := hports m
      rw [if_neg hm, hport, if_neg hm] at hm'
      exact ⟨(congrArg Port.fifo hm' :), (congrArg Port.cfg hm' :)⟩
    · exact (congrArg Port.holder hpn :)
    · exact (congrArg Port.cfg hpn :)
    · exact (congrArg Port.running hpn :)
    · exact (congrArg Port.pos hpn :)
    · exact (congrArg Port.fifo hpn :)
    · exact (congrArg Port.fault hpn :)
    · exact (congrArg Port.done hpn :)
    · obtain ⟨hkend, hpend⟩ := htok hko
      obtain ⟨h1, h2, -, -⟩ := hdone s.nextId x hkend x (Descr.kend d) (by rw [State.setPort_ctx, hpend])
        (by rw [State.setPort_ctx, hpend])
      exact ⟨h1, h2⟩
  · have hlater : State.Later s1 (s.configPort c x n d) := by
      rw [heq, if_neg hp]
      exact State.Later.ite (State.Later.schedule _ _ _) (State.Later.refl _)
    have hports (m : Nat) : (s.configPort c x n d).port c m = s1.port c m := by rw [State.port, hlater.core]; rfl
    rw [hports n, hn, hlater.ctx]
    refine ⟨fun m hm => ?_, hlater.mem.trans hmem, rfl, rfl, rfl, rfl, rfl, rfl, fun _ => ⟨rfl, fun hko => ?_, fun h6 => ?_⟩,
      fun h => absurd h hp⟩
    · rw [hports m, hport, if_neg hm]
      exact ⟨rfl, rfl⟩
    · obtain ⟨hkend, hpend⟩ := htok hko
      rw [hpend]
      exact ⟨rfl, rfl, hkend⟩
    · rw [heq, if_neg hp, if_pos h6]
      exact State.mem_schedule.2 (.inl rfl)

theorem banksAndPortsChange : BanksAndPortsChange := by
  intro s c x
  exact ⟨s.apply_owner c x, s.apply_pcfg c x, s.apply_pstop c x, fun _ _ _ h => State.apply_pop h x⟩
end Sys2Proof.Machine
end

section
/-!
SUPPORT. The end of a segment with its bundle (R10, R18, R20, R24, R27).
-/
namespace Sys2Proof.Machine

/-! ## The chunk of a launch that is not recorded -/

/-- A launch that is neither recorded nor replayed. -/
def State.Unlogged (s : State) (launch : Nat) : Prop :=
  ∀ l, s.launchOf launch = some l → l.recording = false ∧ l.replay = false

theorem State.logEvent_of_unlogged {s : State} {launch : Nat} (h : s.Unlogged launch) (recs : Nat → List Nat) :
    s.logEvent launch recs = s := by
  cases hl : s.launchOf launch with
  | none => rw [State.logEvent, hl]
  | some l => exact State.logEvent_of_not_recording hl (h l hl).1 recs
theorem State.replayed_of_unlogged {s : State} {launch : Nat} (h : s.Unlogged launch) (n : Nat) : s.replayed launch n = s := by
  have hnone : s.replayOf launch = none := by
    unfold State.replayOf
    split
    · rfl
    next l hl => rw [(h l hl).2]; rfl
  rw [State.replayed, hnone]
theorem State.logChunk_of_unlogged {s : State} {c x : Nat} (h : s.Unlogged (s.ctx c x).launch) (n : Nat) :
    s.logChunk c x n = if (s.ctx c x).chunkLogged = true then s else s.modCtx c x (fun v => { v with chunkLogged := true }) := by
  have h' : (s.modCtx c x (fun v => { v with chunkLogged := true })).Unlogged (s.ctx c x).launch := h
  rw [State.logChunk, State.logEvent_of_unlogged h', State.replayed_of_unlogged h']
/-- What the chunk of such a launch leaves. -/
theorem State.logChunk_frame {s : State} {c x : Nat} (h : s.Unlogged (s.ctx c x).launch) (n : Nat) :
    OnlyCtx s (s.logChunk c x n) c x ∧ (∃ b, (s.logChunk c x n).ctx c x = { s.ctx c x with chunkLogged := b }) ∧
    ((s.logChunk c x n).core c).ports = (s.core c).ports := by
  rw [State.logChunk_of_unlogged h]
  split
  · exact ⟨onlyCtx_refl s c x, ⟨(s.ctx c x).chunkLogged, rfl⟩, rfl⟩
  · exact ⟨onlyCtx_modCtx s c x _, ⟨true, State.ctx_modCtx _ _ _ _⟩, by rw [State.core_modCtx]; rfl⟩

/-! ## The release of the SRQ -/

theorem Held.leave_of_writes {h : Held} (hk : h.kind.Writes) : h.leave = h := by
  obtain ⟨v, hv⟩ | ⟨v, hv⟩ | ⟨w, v, hv⟩ := hk <;> simp only [Held.leave, hv]
theorem map_leave_of_writes {l : List Held} (h : ∀ e ∈ l, e.kind.Writes) : l.map Held.leave = l :=
  (List.map_congr_left fun e he => Held.leave_of_writes (h e he)).trans (List.map_id _)

/-- A context, and those before it, whose SRQ holds only stores and posts, and goes through no window. -/
structure Ctx.Plain (v : Ctx) : Prop where
  held : ∀ h ∈ v.releasing ++ v.srq, h.kind.Writes ∧ NoWindow h.pa
  out : ∀ a ∈ v.out, NoWindow a.pa
/-- A context behind the release of its SRQ. -/
structure Ctx.Released (v u : Ctx) : Prop where
  eq : u = { v with
    srq := [], releasing := (v.releasing ++ v.srq).drop (32 - classedCount v.out), out := u.out, chunkLogged := u.chunkLogged }
  classed : classedFaces u.out = classedFaces v.out ++
    ((v.releasing ++ v.srq).take (32 - classedCount v.out)).map (fun h => (h.num, h.oc, h.kind, h.va, h.pa))

theorem State.release_frame {s : State} {c x : Nat} (h : (s.ctx c x).Plain) :
    (s.release c x).mem = s.mem ∧ (s.ctx c x).Released ((s.release c x).ctx c x) ∧
    ((s.release c x).core c).ports = (s.core c).ports := by
  rw [State.release]
  generalize ht : s.modCtx c x (fun v => { v with srq := [], releasing := v.releasing ++ v.srq }) = t
  have hctx : t.ctx c x = { s.ctx c x with srq := [], releasing := (s.ctx c x).releasing ++ (s.ctx c x).srq } := by
    rw [← ht, State.ctx_modCtx]
  obtain ⟨hmem, hown, hclassed, hports⟩ := State.drainRelease_frame (s := t) (c := c) (x := x)
    (by rw [hctx]; exact h.held) (by rw [hctx]; exact h.out)
  rw [hctx] at hown hclassed
  exact ⟨hmem.trans (by rw [← ht]; rfl), ⟨by rw [hown], hclassed⟩, hports.trans (by rw [← ht, State.core_modCtx]; rfl)⟩

/-- The release of a segment of such a context, its chunk with it. -/
def State.endSegment (s : State) (c x : Nat) : State := (s.logChunk c x (s.ctx c x).segBundles).release c x
theorem State.endSegment_frame {s : State} {c x : Nat} (h : (s.ctx c x).Plain) (hl : s.Unlogged (s.ctx c x).launch) :
    (s.endSegment c x).mem = s.mem ∧ (s.ctx c x).Released ((s.endSegment c x).ctx c x) ∧
    ((s.endSegment c x).core c).ports = (s.core c).ports := by
  obtain ⟨⟨hmem, -⟩, ⟨b, hb⟩, hports⟩ := State.logChunk_frame hl (s.ctx c x).segBundles
  rw [State.endSegment]
  generalize s.logChunk c x (s.ctx c x).segBundles = t at *
  obtain ⟨hmem', ⟨heq, hclassed⟩, hports'⟩ := State.release_frame (s := t) (c := c) (x := x)
    ⟨by rw [hb]; exact h.held, by rw [hb]; exact h.out⟩
  rw [hb] at heq hclassed
  exact ⟨hmem'.trans hmem, ⟨by rw [heq], hclassed⟩, hports'.trans hports⟩

theorem Core.portPositions_congr {k l : Core} (h : l.ports = k.ports) (x : Nat) : l.portPositions x = k.portPositions x := by
  rw [Core.portPositions, h]
  rfl

/-! ## SEG and END -/

/-- The checkpoint of a context, with port positions and counts of its core. -/
def Ctx.checkpoint (v : Ctx) (ports : List PortPos) (counts : FMap (List (BitVec 16))) : Checkpoint :=
  { pc := v.pc, pwq := v.pwq, loop := v.loop, preds := v.p, redirect := v.redirect, ports := ports, d := v.d, tok := v.tok,
    y := v.y, sg := v.sg, yptr := v.yptr, tan := v.tan, ppe := v.ppe, escn := v.escn, counts := counts }
theorem Core.checkpoint_eq (k : Core) (x : Nat) :
    k.checkpoint x = (k.ctx x).checkpoint (k.portPositions x) (k.heldCounts x) := rfl
theorem Ctx.Released.checkpoint {v u : Ctx} (h : v.Released u) (ports : List PortPos) (counts : FMap (List (BitVec 16))) :
    u.checkpoint ports counts = v.checkpoint ports counts := by rw [h.eq]; rfl
/-- A context whose segment has just begun. -/
def Ctx.segmented (u : Ctx) (id : Nat) (k : Checkpoint) (armed : Bool) : Ctx :=
  { u with
    ckpt := some k, segid := id, segtry := 0, segFirst := true, segBundles := 0, chunkLogged := false,
    segAccess := u.nextAccess, segDrains := [], engDone := u.engDone.map (fun e => { e with inSeg := false }), claims := [],
    replay := 0, lastUncr := none, stall := { armed := armed, kind := 0, cycles := 0 } }

/-- SEG: a new segment begins with the context as it stands. -/
theorem State.boundary_frame {s : State} {c x : Nat} (id : Nat) (h : (s.ctx c x).Plain) (hl : s.Unlogged (s.ctx c x).launch) :
    ∃ u counts armed, (s.ctx c x).Released u ∧ (s.boundary c x id).mem = s.mem ∧
      (s.boundary c x id).ctx c x = u.segmented id ((s.ctx c x).checkpoint ((s.core c).portPositions x) counts) armed := by
  obtain ⟨hmem, hrel, hports⟩ := State.endSegment_frame h hl
  have hopen : s.boundary c x id = (s.endSegment c x).openSegment c x id := rfl
  rw [hopen, State.openSegment_eq]
  generalize s.endSegment c x = t at *
  refine ⟨t.ctx c x, (t.core c).heldCounts x, bitOf (t.core c).dbg.control 10, hrel, hmem, ?_⟩
  have hleave : (t.ctx c x).releasing.map Held.leave = (t.ctx c x).releasing := by
    apply map_leave_of_writes
    intro e he
    rw [hrel.eq] at he
    exact (h.held e (List.mem_of_mem_drop he)).1
  rw [State.ctx_modCore, Core.ctx_withSegment, State.ctx_core, hleave, Core.checkpoint_eq, State.ctx_core, hrel.checkpoint,
    Core.portPositions_congr hports]
  rfl

end Sys2Proof.Machine

namespace Sys2Proof
open Sys2Proof.Machine

/-- SEG and END, of the statement about the ends of segments. -/
theorem segEnds {s : State} {c x : Nat} (h : (s.ctx c x).Plain) (hl : s.Unlogged (s.ctx c x).launch) (id : Nat) :
    let v := s.ctx c x
    let room := 32 - classedCount v.out
    let classed := fun u : Ctx => (u.out.filter (fun a => !a.kind.isFence)).map (fun a => (a.num, a.oc, a.kind, a.va, a.pa))
    let released := fun u : Ctx => u.srq = [] ∧ u.releasing = (v.releasing ++ v.srq).drop room ∧
      classed u = classed v ++ ((v.releasing ++ v.srq).take room).map (fun h => (h.num, h.oc, h.kind, h.va, h.pa))
    let t := s.endBundle c x (.seg id)
    let u := t.ctx c x
    t.mem = s.mem ∧ released u ∧ u.segid = id ∧ u.segtry = 0 ∧ u.segBundles = 0 ∧ u.claims = [] ∧ u.replay = 0 ∧
    u.lastUncr = none ∧ u.c = v.c ∧ u.pc = v.pc ∧
    ∃ k, u.ckpt = some k ∧ k.pc = v.pc ∧ k.pwq = v.pwq ∧ k.loop = v.loop ∧ k.preds = v.p ∧ k.redirect = v.redirect ∧
      k.d = v.d ∧ k.y = v.y ∧ k.sg = v.sg ∧ k.yptr = v.yptr ∧ k.tan = v.tan ∧ k.ppe = v.ppe ∧ k.escn = v.escn ∧
      k.ports = (s.core c).portPositions x := by
  obtain ⟨u, counts, armed, ⟨heq, hclassed⟩, hmem, hctx⟩ := State.boundary_frame id h hl
  dsimp only
  have hend : s.endBundle c x (.seg id) = s.boundary c x id := rfl
  have hsrq : u.srq = [] := by rw [heq]
  have hreleasing : u.releasing = ((s.ctx c x).releasing ++ (s.ctx c x).srq).drop (32 - classedCount (s.ctx c x).out) := by
    rw [heq]
  have hc : u.c = (s.ctx c x).c := by rw [heq]
  have hpc : u.pc = (s.ctx c x).pc := by rw [heq]
  rw [hend, hctx]
  exact ⟨hmem, ⟨hsrq, hreleasing, hclassed⟩, rfl, rfl, rfl, rfl, rfl, rfl, hc, hpc, _, rfl, rfl, rfl, rfl, rfl, rfl, rfl, rfl,
    rfl, rfl, rfl, rfl, rfl, rfl⟩

theorem finishEnds {s : State} {c x : Nat} (h : (s.ctx c x).Plain) (hl : s.Unlogged (s.ctx c x).launch) :
    let v := s.ctx c x
    let room := 32 - classedCount v.out
    let classed := fun u : Ctx => (u.out.filter (fun a => !a.kind.isFence)).map (fun a => (a.num, a.oc, a.kind, a.va, a.pa))
    let released := fun u : Ctx => u.srq = [] ∧ u.releasing = (v.releasing ++ v.srq).drop room ∧
      classed u = classed v ++ ((v.releasing ++ v.srq).take room).map (fun h => (h.num, h.oc, h.kind, h.va, h.pa))
    let t := s.endBundle c x .finish
    t.mem = s.mem ∧ released (t.ctx c x) ∧ (t.ctx c x).status = .retiring false ∧ (t.ctx c x).pc = s.cur.pc ∧
    (t.ctx c x).c = v.c := by
  obtain ⟨hmem, ⟨heq, hclassed⟩, -⟩ := State.endSegment_frame h hl
  dsimp only
  have hend : s.endBundle c x .finish = (s.endSegment c x).modCtx c x (fun v =>
    { v with status := .retiring false, pc := s.cur.pc }) := rfl
  rw [hend]
  generalize s.endSegment c x = t at hmem heq hclassed ⊢
  rw [State.ctx_modCtx]
  generalize t.ctx c x = u at heq hclassed ⊢
  have hsrq : u.srq = [] := by rw [heq]
  have hreleasing : u.releasing = ((s.ctx c x).releasing ++ (s.ctx c x).srq).drop (32 - classedCount (s.ctx c x).out) := by
    rw [heq]
  have hc : u.c = (s.ctx c x).c := by rw [heq]
  exact ⟨hmem, ⟨hsrq, hreleasing, hclassed⟩, rfl, rfl, hc⟩
end Sys2Proof
end

section
/-!
SUPPORT. What the boundary of one context leaves of another (R18, R24): only what the end of a command changes of its
tokens and of what awaits it.
-/
namespace Sys2Proof.Machine

/-- What a context keeps while another one releases its segment in cycle `n`. -/
structure Ctx.Beside (n : Nat) (v u : Ctx) : Prop where
  eq : u = { v with
    tok := u.tok, ckpt := u.ckpt, srq := u.srq, releasing := u.releasing, kept := u.kept, out := u.out, arrival := u.arrival }
  ckpt : u.ckpt.map (fun k => (k.pc, k.pwq)) = v.ckpt.map (fun k => (k.pc, k.pwq))
  srq : v.srq = [] → u.srq = []
  releasing : v.releasing = [] → u.releasing = []
  out : v.out = [] → u.out = []
  arrival : ∀ a, v.arrival = some a → a.completed = true → a.since = n + 1 → u.arrival = some a

theorem Ctx.Beside.refl (n : Nat) (v : Ctx) : Ctx.Beside n v v := ⟨rfl, rfl, id, id, id, fun _ h _ _ => h⟩
theorem Ctx.Beside.trans {n : Nat} {v u w : Ctx} (h : Ctx.Beside n v u) (h' : Ctx.Beside n u w) : Ctx.Beside n v w :=
  ⟨h'.eq.trans (by rw [h.eq]), h'.ckpt.trans h.ckpt, fun e => h'.srq (h.srq e), fun e => h'.releasing (h.releasing e),
    fun e => h'.out (h.out e), fun a ha hc hs => h'.arrival a (h.arrival a ha hc hs) hc hs⟩
theorem Ctx.beside_settle (n cmd : Nat) (st : BitVec 8) (addr cyc : Nat) (v : Ctx) :
    Ctx.Beside n v (v.settle cmd st addr cyc) := by
  refine ⟨rfl, ?_, fun h => ?_, fun h => ?_, fun h => ?_, fun a h _ _ => h⟩
  · show (v.ckpt.map _).map _ = _
    rw [Option.map_map]
    rfl
  · show v.srq.map _ = []
    rw [h]; rfl
  · show v.releasing.map _ = []
    rw [h]; rfl
  · show v.out.map _ = []
    rw [h]; rfl
theorem Ctx.beside_completeArrival (n : Nat) (v : Ctx) : Ctx.Beside n v (v.completeArrival n) := by
  refine ⟨rfl, rfl, id, id, id, fun a h hc hs => ?_⟩
  show v.arrival.map _ = some a
  rw [h, Option.map_some, ← hc, ← hs]

/-- A state in which other contexts have gone on. -/
structure State.Beside (s t : State) (c x : Nat) : Prop where
  cyc : t.cyc = s.cyc
  ctx : Ctx.Beside s.cyc (s.ctx c x) (t.ctx c x)

namespace State.Beside
variable {s t u : State} {c x d y : Nat}
theorem refl (s : State) (c x : Nat) : s.Beside s c x := ⟨rfl, .refl _ _⟩
theorem trans (h : s.Beside t c x) (h' : t.Beside u c x) : s.Beside u c x :=
  ⟨h'.cyc.trans h.cyc, h.ctx.trans (by rw [← h.cyc]; exact h'.ctx)⟩
theorem of_ctx (hcyc : t.cyc = s.cyc) (h : t.ctx c x = s.ctx c x) : s.Beside t c x := ⟨hcyc, by rw [h]; exact .refl _ _⟩
theorem of_later (h : Later s t) : s.Beside t c x := of_ctx h.cyc (h.ctx c x)
theorem of_cores (hcyc : t.cyc = s.cyc) (h : t.cores = s.cores) : s.Beside t c x :=
  of_ctx hcyc (State.SameCtxs.of_cores h c x)
theorem modCore {f : Core → Core} (h : ∀ k, (f k).ctxs = k.ctxs) (s : State) (d : Nat) : s.Beside (s.modCore d f) c x :=
  of_ctx rfl (State.SameCtxs.modCore h s d c x)
theorem modCtx (h : d ≠ c ∨ y ≠ x) (f : Ctx → Ctx) (s : State) : s.Beside (s.modCtx d y f) c x :=
  of_ctx rfl (State.ctx_modCtx_ne _ _ _ _ _ _ (h.imp Ne.symm Ne.symm))
theorem foldl {α : Type} {f : State → α → State} (hf : ∀ (s : State) (a : α), s.Beside (f s a) c x) (l : List α) (s : State) :
    s.Beside (l.foldl f s) c x := by
  induction l generalizing s with
  | nil => exact refl s c x
  | cons a l ih => exact (hf s a).trans (ih _)
end State.Beside

/-! ## The end of an access -/

theorem Core.beside_finishJoins (n cyc m x : Nat) : ∀ k : Core, Ctx.Beside n (k.ctx x) ((Core.finishJoins cyc m k).ctx x) := by
  induction m with
  | zero => exact fun k => .refl _ _
  | succ m ih =>
    intro k
    rw [Core.finishJoins]
    split
    · exact .refl _ _
    next j _ =>
      refine Ctx.Beside.trans ?_ (ih _)
      rw [Core.ctx_settle]
      exact Ctx.beside_settle n j.id _ _ cyc _
theorem State.beside_finishJoins (s : State) (d cyc : Nat) (m : Core → Nat) (c x : Nat) :
    s.Beside (s.modCore d (fun k => Core.finishJoins cyc (m k) k)) c x := by
  refine ⟨rfl, ?_⟩
  by_cases h : c = d
  · subst h
    rw [State.ctx_modCore]
    exact Core.beside_finishJoins _ _ _ _ _
  · rw [State.ctx, State.ctx, State.core_modCore_ne _ _ _ _ h]
    exact .refl _ _

section
variable {c x d y : Nat} (h : d ≠ c ∨ y ≠ x)
include h

theorem State.beside_settleRewind (s : State) : s.Beside (s.settleRewind d y) c x := by
  unfold State.settleRewind
  dsimp only
  split
  · exact .refl s c x
  · split
    · exact .refl s c x
    · exact (State.Beside.modCtx h _ s).trans (.of_later (.schedule _ _ _))
omit h in
theorem State.beside_completePartner (cl launch : Nat) (s : State) (pos : Nat) :
    s.Beside (State.completePartner cl launch s pos) c x := by
  unfold State.completePartner
  split
  next d y _ =>
    by_cases hd : d ≠ c ∨ y ≠ x
    · exact State.Beside.modCtx hd _ s
    · obtain ⟨rfl, rfl⟩ := not_or.1 hd |>.imp not_not.1 not_not.1
      refine ⟨rfl, ?_⟩
      rw [State.ctx_modCtx]
      exact Ctx.beside_completeArrival _ _
  · exact .of_cores rfl rfl
omit h in
theorem State.beside_tryRendezvous (s : State) (d y : Nat) : s.Beside (s.tryRendezvous d y) c x := by
  unfold State.tryRendezvous
  split
  · exact .refl s c x
  · dsimp only
    split
    · exact .refl s c x
    · exact .foldl (fun s pos => State.beside_completePartner _ _ s pos) _ s
theorem State.beside_afterAccess (s : State) : s.Beside (s.afterAccess d y) c x := by
  unfold State.afterAccess
  refine .trans ?_ (State.beside_tryRendezvous _ d y)
  refine .trans ?_ (State.beside_settleRewind h _)
  refine .trans ?_ (.of_later (State.later_retryRelease _ d))
  refine .trans ?_ (.of_later (State.later_wake _ d))
  refine .trans ?_ (State.beside_finishJoins _ d _ _ c x)
  exact State.Beside.modCtx h _ s
theorem State.beside_dropAccess (s : State) (num : Nat) (st : BitVec 8) (addr : Nat) :
    s.Beside (s.dropAccess d y num st addr) c x := by
  unfold State.dropAccess
  dsimp only
  refine .trans ?_ (State.beside_afterAccess h _)
  refine .trans ?_ (.modCtx h _ _)
  exact .modCore (by intro; rfl) s d

/-! ## The beginning of accesses -/

omit h in
theorem State.beside_inflight (s : State) (pa : Nat) (sent : Bool) : s.Beside (s.inflight pa sent) c x := by
  unfold State.inflight
  split
  · dsimp only
    split
    · exact .refl s c x
    · split
      · unfold State.sendRequest
        split <;> exact .of_cores rfl rfl
      · exact .of_cores rfl rfl
  all_goals exact .refl s c x
omit h in
theorem State.beside_startWrite (s : State) (d y acc unit pa : Nat) (bs : List Byte) :
    s.Beside (s.startWrite d y acc unit pa bs) c x := by
  unfold State.startWrite
  dsimp only [State.newId]
  generalize hs : ({ s with nextId := s.nextId + 1, writes := _ } : State) = s1
  have h1 : s.Beside s1 c x := by rw [← hs]; exact .of_cores rfl rfl
  refine h1.trans ((s1.beside_inflight pa true).trans ?_)
  split
  · exact .of_later (.scheduleFree _ _)
  · exact .refl _ c x
theorem State.beside_beginAccess (s : State) (a : Access) : s.Beside (s.beginAccess d y a) c x := by
  refine (State.Beside.modCtx h (fun v => v.modAccess a.num (fun b => { b with progress := .started })) s).trans ?_
  unfold State.beginAccess State.modAccess
  dsimp only
  generalize s.modCtx d y _ = s1
  split
  · exact (s1.beside_inflight a.pa true).trans (.of_later (.scheduleFree _ _))
  · exact (s1.beside_inflight a.pa true).trans (.of_later (.scheduleFree _ _))
  · split
    · exact State.beside_dropAccess h s1 _ _ _
    · exact s1.beside_startWrite d y _ _ _ _
  · split
    · exact State.beside_dropAccess h s1 _ _ _
    · exact s1.beside_startWrite d y _ _ _ _
  · exact .of_later (.schedule _ _ _)
  · split
    · exact .of_later (.schedule _ _ _)
    · split
      · split
        · exact .of_later (.schedule _ _ _)
        · exact .refl s1 c x
      · exact .refl s1 c x
  all_goals exact .refl s1 c x
theorem State.beside_pumpRounds (n : Nat) (s : State) : s.Beside (State.pumpRounds d y n s) c x := by
  induction n generalizing s with
  | zero => exact .refl s c x
  | succ n ih =>
    rw [State.pumpRounds]
    split
    · exact .refl s c x
    · exact (State.Beside.foldl (fun t b => State.beside_beginAccess h t b) _ s).trans (ih _)
theorem State.beside_pump (s : State) : s.Beside (s.pump d y) c x := State.beside_pumpRounds h _ s

/-! ## The release of a segment -/

omit h in
theorem State.beside_grow (s : State) (launch : Nat) (v : Word) : s.Beside (s.grow launch v) c x := by
  unfold State.grow
  split
  · exact .refl s c x
  · exact .of_cores rfl rfl
theorem State.beside_enterEntry {s t : State} {e : Held} (ht : s.enterEntry d y e = some t) : s.Beside t c x := by
  unfold State.enterEntry at ht
  dsimp only at ht
  split at ht
  · cases ht
    exact s.beside_grow _ _
  · cases ht
    exact State.Beside.modCtx h _ s
  · cases ht
    exact State.Beside.modCtx h _ s
  · cases ht
    exact State.Beside.modCtx h _ s
  · split at ht
    · cases ht
    · split at ht
      · split at ht
        · cases ht
        · cases ht
          refine .trans ?_ (.of_later (.schedule _ _ _))
          refine .trans ?_ (.modCtx h _ _)
          exact .modCore (by intro; rfl) s d
      · split at ht
        · cases ht
        · cases ht
          refine .trans ?_ (.of_later (.schedule _ _ _))
          refine .trans ?_ (.modCtx h _ _)
          exact .modCore (by intro; rfl) s d
  all_goals
    split at ht
    · cases ht
    · cases ht
      exact State.Beside.modCtx h _ s
theorem State.beside_enterAll (l : List Held) (s : State) : s.Beside (State.enterAll d y l s) c x := by
  induction l generalizing s with
  | nil => exact State.Beside.modCtx h _ s
  | cons e l ih =>
    rw [State.enterAll]
    split
    next t ht => exact (State.beside_enterEntry h ht).trans (ih t)
    · exact State.Beside.modCtx h _ s
theorem State.beside_release (s : State) : s.Beside (s.release d y) c x := by
  unfold State.release State.drainRelease
  refine .trans ?_ (State.beside_pump h _)
  refine .trans ?_ (.modCtx h _ _)
  refine .trans ?_ (State.beside_enterAll h _ _)
  exact .modCtx h _ s
theorem State.beside_logChunk (s : State) (n : Nat) : s.Beside (s.logChunk d y n) c x := by
  refine ⟨(State.logChunk_kept (closed_quiet s.cyc s.owner s.powerCap) s d y n ⟨rfl, rfl, rfl⟩).1, ?_⟩
  unfold State.logChunk
  dsimp only
  split
  · exact .refl _ _
  · rw [State.sameCtxs_replayed, State.SameCtxs.of_cores (State.logEvent_cores _ _ _),
      State.ctx_modCtx_ne _ _ _ _ _ _ (h.imp Ne.symm Ne.symm)]
    exact .refl _ _
theorem State.beside_openSegment (s : State) (id : Nat) : s.Beside (s.openSegment d y id) c x := by
  refine .of_ctx rfl ?_
  rw [State.openSegment_eq]
  by_cases hd : c = d
  · subst hd
    rw [State.ctx_modCore, Core.ctx_withSegment_ne _ _ _ (h.resolve_left (fun hn => hn rfl)).symm]
    rfl
  · rw [State.ctx, State.core_modCore_ne _ _ _ _ hd]
    rfl
theorem State.beside_boundary (s : State) (id : Nat) : s.Beside (s.boundary d y id) c x := by
  refine .trans ?_ (State.beside_openSegment h _ id)
  refine .trans ?_ (State.beside_release h _)
  exact State.beside_logChunk h s _
theorem State.beside_consumeQueue (s : State) (loc : Nat) : s.Beside (s.consumeQueue d y loc) c x := by
  unfold State.consumeQueue
  split
  · refine .trans ?_ (.modCtx h _ _)
    exact .modCore (by intro; rfl) s d
  · exact .refl s c x
/-- The boundary of another context. -/
theorem State.beside_takeBoundary (s : State) : s.Beside (s.takeBoundary d y) c x := by
  unfold State.takeBoundary
  dsimp only
  split
  · exact .refl s c x
  · split
    · refine State.Beside.trans ?_ (State.Beside.modCtx h _ _)
      split
      · exact State.beside_boundary h s _
      · exact (State.beside_consumeQueue h s _).trans (State.beside_boundary h _ _)
    · exact .refl s c x
end
end Sys2Proof.Machine
end

section
/-!
SUPPORT. RDV at the end of its bundle (R24): the context arrives, waits under the watchdog, and takes its boundary once all
have arrived.
-/
namespace Sys2Proof.Machine

/-! ## The arrival -/

/-- The arrival of a context at a rendezvous. -/
def rdvArrival (id mask : Nat) : Arrival := { id := id, mask := mask, completed := false, taken := false, since := 0 }
/-- The state in which a context has arrived, and waits. -/
def State.arrived (s : State) (c x id mask : Nat) : State :=
  ((s.logChunk c x (s.ctx c x).segBundles).modCtx c x (fun v =>
    { v with arrival := some (rdvArrival id mask), waitOn := none })).startWatch c x (.rdv id)
theorem State.endBundle_rdv (s : State) (c x id mask : Nat) : s.endBundle c x (.rdv id mask) =
    ((s.arrived c x id mask).tryRendezvous c x).takeBoundaries (clusterOf c) := rfl

/-- What the arrival changes. -/
structure State.Arrives (s t : State) (c x id mask : Nat) : Prop where
  mem : t.mem = s.mem
  cyc : t.cyc = s.cyc
  saved : t.saved = s.saved
  others : ∀ d y, (d, y) ≠ (c, x) → t.ctx d y = s.ctx d y
  own : ∃ b, t.ctx c x = { s.ctx c x with
    chunkLogged := b, arrival := some (rdvArrival id mask), waitOn := some (.rdv id, s.watchAt c s.cyc) }

theorem State.later_watch (s : State) (c since : Nat) (i : Instr) : Later s (s.watch c since i) :=
  Later.ite (Later.refl s) (Later.schedule _ _ _)
theorem State.ctx_modCtx_of_ne {s : State} {c x d y : Nat} (h : (d, y) ≠ (c, x)) (f : Ctx → Ctx) :
    (s.modCtx c x f).ctx d y = s.ctx d y :=
  State.ctx_modCtx_ne _ _ _ _ _ _ (by
    by_cases hd : d = c
    · exact .inr fun hy => h (by rw [hd, hy])
    · exact .inl hd)
theorem State.arrives {s : State} {c x : Nat} (hl : s.Unlogged (s.ctx c x).launch) (id mask : Nat) :
    s.Arrives (s.arrived c x id mask) c x id mask := by
  have hchunk := State.logChunk_of_unlogged hl (s.ctx c x).segBundles
  rw [State.arrived]
  obtain ⟨r, hr, hmem, hcyc, hsaved, hclusters, hothers, b, hown⟩ : ∃ r, r = s.logChunk c x (s.ctx c x).segBundles ∧
      r.mem = s.mem ∧ r.cyc = s.cyc ∧ r.saved = s.saved ∧ r.clusters = s.clusters ∧
      (∀ d y, (d, y) ≠ (c, x) → r.ctx d y = s.ctx d y) ∧ ∃ b, r.ctx c x = { s.ctx c x with chunkLogged := b } := by
    refine ⟨_, rfl, ?_⟩
    rw [hchunk]
    split
    · exact ⟨rfl, rfl, rfl, rfl, fun _ _ _ => rfl, (s.ctx c x).chunkLogged, rfl⟩
    · exact ⟨rfl, rfl, rfl, rfl, fun d y h => State.ctx_modCtx_of_ne h _, true, State.ctx_modCtx _ _ _ _⟩
  rw [← hr, State.startWatch, State.modCtx_modCtx]
  have hwatch : (r.modCtx c x (fun v => { v with arrival := some (rdvArrival id mask), waitOn := none })).watchAt c
      (r.modCtx c x (fun v => { v with arrival := some (rdvArrival id mask), waitOn := none })).cyc = s.watchAt c s.cyc := by
    show (Cluster.watchAt (r.clusters.get Cluster.blank (clusterOf c)) r.cyc) = _
    rw [hclusters, hcyc]
    rfl
  rw [hwatch]
  generalize hu : r.modCtx c x _ = u
  have hlater := u.later_watch c (s.watchAt c s.cyc) (.watchdogExpiry c x)
  refine ⟨hlater.mem.trans (by rw [← hu]; exact hmem), hlater.cyc.trans (by rw [← hu]; exact hcyc), ?_, fun d y h => ?_, b, ?_⟩
  · rw [hlater.eq, ← hu]
    exact hsaved
  · rw [hlater.ctx, ← hu, State.ctx_modCtx_of_ne h, hothers d y h]
  · rw [hlater.ctx, ← hu, State.ctx_modCtx, hown]

/-! ## The boundaries of a cluster -/

/-- The contexts that take their boundaries, in order. -/
def boundaryOrder (cl : Nat) : List (Nat × Nat) := (upTo 4 (cl * 4)).flatMap (fun c => (upTo 4 0).map (fun x => (c, x)))
theorem State.takeBoundaries_eq (s : State) (cl : Nat) :
    s.takeBoundaries cl = (boundaryOrder cl).foldl (fun t p => t.takeBoundary p.1 p.2) s := by
  rw [boundaryOrder, List.foldl_flatMap]
  simp only [List.foldl_map]
  rfl
theorem mem_boundaryOrder {cl : Nat} {p : Nat × Nat} : p ∈ boundaryOrder cl ↔ (cl * 4 ≤ p.1 ∧ p.1 < cl * 4 + 4) ∧ p.2 < 4 := by
  obtain ⟨c, x⟩ := p
  simp only [boundaryOrder, List.mem_flatMap, List.mem_map, mem_upTo]
  constructor
  · rintro ⟨d, hd, y, hy, h⟩
    obtain ⟨rfl, rfl⟩ := Prod.mk.inj h
    exact ⟨hd, by omega⟩
  · exact fun ⟨hc, hx⟩ => ⟨c, hc, x, ⟨Nat.zero_le _, by omega⟩, rfl⟩
theorem boundaryOrder_nodup (cl : Nat) : (boundaryOrder cl).Nodup := by
  simp [boundaryOrder, upTo]
  omega

theorem State.takeBoundary_of_not_completed {s : State} {c x : Nat} (h : ∀ a, (s.ctx c x).arrival = some a → a.completed = false) :
    s.takeBoundary c x = s := by
  unfold State.takeBoundary
  dsimp only
  split
  · rfl
  next a ha => rw [if_neg (by simp [h a ha])]
theorem State.takeBoundaries_of_none {s : State} (h : ∀ d y a, (s.ctx d y).arrival = some a → a.completed = false) (cl : Nat) :
    s.takeBoundaries cl = s := by
  rw [State.takeBoundaries_eq]
  generalize boundaryOrder cl = l
  induction l with
  | nil => rfl
  | cons p l ih => rw [List.foldl_cons, State.takeBoundary_of_not_completed (h p.1 p.2), ih]

theorem State.beside_takeBoundaries {c x : Nat} (l : List (Nat × Nat)) (h : (c, x) ∉ l) (s : State) :
    s.Beside (l.foldl (fun t p => t.takeBoundary p.1 p.2) s) c x := by
  induction l generalizing s with
  | nil => exact .refl s c x
  | cons p l ih =>
    obtain ⟨hp, hl⟩ := not_or.1 (fun he => h (List.mem_cons.2 he))
    refine .trans (State.beside_takeBoundary ?_ s) (ih hl _)
    by_cases hd : p.1 = c
    · exact .inr fun hy => hp (by rw [← hd, ← hy])
    · exact .inl hd


/-! ## A rendezvous that waits, and one that is complete -/

/-- A partner that has not arrived holds a rendezvous back. -/
theorem State.tryRendezvous_waits {s : State} {c x p : Nat} {a : Arrival} (ha : (s.ctx c x).arrival = some a) (hp : p < 4)
    (hmask : a.mask.testBit p = true)
    (hnot : s.arrivedAs (clusterOf c) p (s.ctx c x).launch a.id a.mask = false) : s.tryRendezvous c x = s := by
  unfold State.tryRendezvous
  rw [ha]
  dsimp only
  refine if_pos (Bool.or_eq_true_iff.2 (.inr ?_))
  rw [Bool.not_eq_true', ← Bool.not_eq_true, List.all_eq_true]
  intro h
  have := h p (List.mem_filter.2 ⟨mem_upTo.2 ⟨Nat.zero_le _, by omega⟩, hmask⟩)
  rw [hnot] at this
  cases this

/-- A partner that has no arrival has not arrived. -/
theorem State.arrivedAs_of_none {s : State} {cl p : Nat} (h : ∀ y, (s.ctx (cl * 4 + p) y).arrival = none)
    (hsaved : ∀ e ∈ s.saved, e.2.v.arrival = none) (launch id mask : Nat) : s.arrivedAs cl p launch id mask = false := by
  have hnone {v : Ctx} (hv : v.arrival = none) : v.arrivedAs id mask = false := by rw [Ctx.arrivedAs, hv]
  unfold State.arrivedAs
  split
  next d y hd =>
    have hd' : d = cl * 4 + p := by
      obtain ⟨z, -, hz⟩ := Option.map_eq_some_iff.1 hd
      exact (Prod.mk.inj hz).1.symm
    rw [hd']
    exact hnone (h y)
  · rw [Bool.eq_false_iff, ne_eq, List.any_eq_true]
    rintro ⟨e, he, hst⟩
    rw [hnone (hsaved e he), Bool.and_false] at hst
    cases hst

theorem rdvWaits {s : State} {c x p : Nat} {id mask : Nat} (hl : s.Unlogged (s.ctx c x).launch) (hp : p < 4) (hpc : p ≠ c % 4)
    (hmask : mask.testBit p = true) (hnone : ∀ d y, (d, y) ≠ (c, x) → (s.ctx d y).arrival = none)
    (hsaved : ∀ e ∈ s.saved, e.2.v.arrival = none) :
    s.endBundle c x (.rdv id mask) = s.arrived c x id mask := by
  obtain ⟨-, -, hsv, hothers, b, hown⟩ := State.arrives hl id mask
  rw [State.endBundle_rdv]
  generalize s.arrived c x id mask = t at *
  have harr : (t.ctx c x).arrival = some (rdvArrival id mask) := by rw [hown]
  rw [State.tryRendezvous_waits harr hp hmask, State.takeBoundaries_of_none]
  · intro d y a ha
    by_cases h : (d, y) = (c, x)
    · obtain ⟨rfl, rfl⟩ := Prod.mk.inj h
      rw [harr] at ha
      obtain rfl := Option.some.inj ha
      rfl
    · rw [hothers d y h, hnone d y h] at ha
      cases ha
  · refine State.arrivedAs_of_none (fun y => ?_) (by rw [hsv]; exact hsaved) _ _ _
    have hne : (clusterOf c * 4 + p, y) ≠ (c, x) := fun h => by
      have := (Prod.mk.inj h).1
      have hcl : clusterOf c = c / 4 := rfl
      omega
    rw [hothers _ _ hne, hnone _ _ hne]

/-! ## A rendezvous of one core -/

theorem filter_own_position : ∀ k < 4, (upTo 4 0).filter (natBit (2 ^ k)) = [k] := by decide
theorem Ctx.relPending_of_idle {v : Ctx} (hrel : v.releasing = []) (hout : v.out = []) : v.relPending = false := by
  rw [Ctx.relPending, hrel, hout]
  rfl
theorem State.tryRendezvous_own {s : State} {c x id : Nat} (ha : (s.ctx c x).arrival = some (rdvArrival id (2 ^ (c % 4))))
    (hx : x < 4) (hrun : (s.ctx c x).status = .running) (hrel : (s.ctx c x).releasing = []) (hout : (s.ctx c x).out = [])
    (hfirst : ∀ y, y < x → (s.ctx c y).launch = (s.ctx c x).launch → (s.ctx c y).status = .free) :
    s.tryRendezvous c x = s.modCtx c x (Ctx.completeArrival s.cyc) := by
  have hc : clusterOf c * Config.coresPerCluster + c % 4 = c := Nat.div_add_mod' c 4
  have hpartner : s.partner (clusterOf c) (c % 4) (s.ctx c x).launch = some (c, x) := by
    unfold State.partner
    dsimp only
    rw [hc, findFrom_eq_some.mpr ⟨Nat.zero_le x, by omega, decide_eq_true ⟨rfl, by rw [hrun]; decide⟩, fun y _ hy => ?_⟩]
    · rfl
    · exact decide_eq_false fun h => h.2 (hfirst y hy h.1)
  have harrived : s.arrivedAs (clusterOf c) (c % 4) (s.ctx c x).launch id (2 ^ (c % 4)) = true := by
    rw [State.arrivedAs, hpartner]
    dsimp only
    rw [Ctx.arrivedAs, ha]
    dsimp only
    rw [Ctx.relPending_of_idle hrel hout]
    simp [rdvArrival]
  unfold State.tryRendezvous
  rw [ha]
  dsimp only
  have hnamed : (upTo 4 0).filter (natBit (rdvArrival id (2 ^ (c % 4))).mask) = [c % 4] :=
    filter_own_position _ (Nat.mod_lt _ (by decide))
  rw [hnamed, if_neg]
  · rw [List.foldl_cons, List.foldl_nil, State.completePartner, hpartner]
  · simp only [List.all_cons, List.all_nil, Bool.and_true]
    rw [show (rdvArrival id (2 ^ (c % 4))).mask = 2 ^ (c % 4) from rfl, show (rdvArrival id (2 ^ (c % 4))).id = id from rfl,
      harrived]
    simp [rdvArrival]

theorem State.release_idle {s : State} {c x : Nat} (hsrq : (s.ctx c x).srq = []) (hrel : (s.ctx c x).releasing = [])
    (hout : (s.ctx c x).out = []) : (s.release c x).ctx c x = s.ctx c x := by
  have hidle {v : Ctx} (h1 : v.srq = []) (h2 : v.releasing = []) (h3 : v.out = []) :
      ({ v with srq := [], releasing := [], out := [] } : Ctx) = v := by
    cases v
    dsimp only at h1 h2 h3
    subst h1 h2 h3
    rfl
  have hempty : (s.modCtx c x (fun v => { v with srq := [], releasing := v.releasing ++ v.srq })).ctx c x =
      { s.ctx c x with srq := [], releasing := [] } := by
    rw [State.ctx_modCtx, hsrq, hrel]
    rfl
  rw [State.release, State.drainRelease, hempty]
  simp only [State.enterAll, State.modCtx_modCtx]
  rw [State.pump_of_nil]
  · rw [State.ctx_modCtx]
    simp only [hout, pruneFences]
    exact hidle hsrq hrel hout
  · rw [State.ctx_modCtx]
    simp only [hout, pruneFences]
theorem State.logChunk_own (s : State) (c x n : Nat) : ∃ b, (s.logChunk c x n).ctx c x = { s.ctx c x with chunkLogged := b } := by
  unfold State.logChunk
  dsimp only
  split
  · exact ⟨(s.ctx c x).chunkLogged, rfl⟩
  · rw [State.sameCtxs_replayed, State.SameCtxs.of_cores (State.logEvent_cores _ _ _), State.ctx_modCtx]
    exact ⟨true, rfl⟩

/-- The boundary of a context that holds nothing back. -/
theorem State.boundary_idle {s : State} {c x : Nat} (id : Nat) (hsrq : (s.ctx c x).srq = []) (hrel : (s.ctx c x).releasing = [])
    (hout : (s.ctx c x).out = []) : ∃ k, ((s.boundary c x id).ctx c x).ckpt = some k ∧ k.pc = (s.ctx c x).pc ∧
      k.pwq = (s.ctx c x).pwq ∧ ((s.boundary c x id).ctx c x).segid = id ∧ ((s.boundary c x id).ctx c x).segtry = 0 ∧
      ((s.boundary c x id).ctx c x).c = (s.ctx c x).c := by
  obtain ⟨b, hb⟩ := s.logChunk_own c x (s.ctx c x).segBundles
  have hown : (s.endSegment c x).ctx c x = { s.ctx c x with chunkLogged := b } := by
    rw [State.endSegment, State.release_idle (by rw [hb]; exact hsrq) (by rw [hb]; exact hrel) (by rw [hb]; exact hout), hb]
  have hopen : s.boundary c x id = (s.endSegment c x).openSegment c x id := rfl
  rw [hopen, State.openSegment_eq]
  generalize s.endSegment c x = t at *
  rw [State.ctx_modCore, Core.ctx_withSegment, Core.checkpoint_eq, State.ctx_core, hown]
  exact ⟨_, rfl, rfl, rfl, rfl, rfl, rfl⟩

/-- A context whose rendezvous is complete takes its boundary. -/
theorem State.takeBoundary_taken {s : State} {c x : Nat} {a : Arrival} (ha : (s.ctx c x).arrival = some a)
    (hrun : (s.ctx c x).status = .running) (hrewind : (s.ctx c x).rewind = none) (hc : a.completed = true) (ht : a.taken = false)
    (hsrq : (s.ctx c x).srq = []) : s.takeBoundary c x =
      (s.boundary c x a.id).modCtx c x (fun v => { v with arrival := some { a with taken := true } }) := by
  unfold State.takeBoundary
  dsimp only
  rw [ha]
  dsimp only
  rw [if_pos ⟨hrun, hrewind, hc, by rw [ht]; rfl⟩, hsrq]
  rfl

/-- A rendezvous of one core: the context takes its boundary with its bundle, whatever the others of its cluster do. -/
theorem rdvOwn {s : State} {c x : Nat} (id : Nat) (hl : s.Unlogged (s.ctx c x).launch) (hx : x < 4)
    (hrun : (s.ctx c x).status = .running) (hrewind : (s.ctx c x).rewind = none) (hsrq : (s.ctx c x).srq = [])
    (hrel : (s.ctx c x).releasing = []) (hout : (s.ctx c x).out = [])
    (hfirst : ∀ y, y < x → (s.ctx c y).launch = (s.ctx c x).launch → (s.ctx c y).status = .free) :
    let u := (s.endBundle c x (.rdv id (2 ^ (c % 4)))).ctx c x
    u.segid = id ∧ u.segtry = 0 ∧ u.c = (s.ctx c x).c ∧
    (∃ k, u.ckpt = some k ∧ k.pc = (s.ctx c x).pc ∧ k.pwq = (s.ctx c x).pwq) ∧
    u.arrival = some { id := id, mask := 2 ^ (c % 4), completed := true, taken := true, since := s.cyc + 1 } := by
  obtain ⟨-, hcyc, -, hothers, b, hown⟩ := State.arrives hl id (2 ^ (c % 4))
  dsimp only
  rw [State.endBundle_rdv]
  generalize s.arrived c x id (2 ^ (c % 4)) = t at *
  have harr : (t.ctx c x).arrival = some (rdvArrival id (2 ^ (c % 4))) := by rw [hown]
  have hstatus : (t.ctx c x).status = .running := by rw [hown]; exact hrun
  have hrelt : (t.ctx c x).releasing = [] := by rw [hown]; exact hrel
  have houtt : (t.ctx c x).out = [] := by rw [hown]; exact hout
  have hfirstt : ∀ y, y < x → (t.ctx c y).launch = (t.ctx c x).launch → (t.ctx c y).status = .free := by
    intro y hy hlaunch
    have hne : (c, y) ≠ (c, x) := fun h => absurd (Prod.mk.inj h).2 (by omega)
    rw [hothers c y hne] at hlaunch ⊢
    rw [hown] at hlaunch
    exact hfirst y hy hlaunch
  rw [State.tryRendezvous_own harr hx hstatus hrelt houtt hfirstt, hcyc]
  have hdone := State.ctx_modCtx t c x (Ctx.completeArrival s.cyc)
  have hcyc1 : (t.modCtx c x (Ctx.completeArrival s.cyc)).cyc = s.cyc := hcyc
  generalize t.modCtx c x (Ctx.completeArrival s.cyc) = r at *
  have hrarr : (r.ctx c x).arrival =
      some { id := id, mask := 2 ^ (c % 4), completed := true, taken := false, since := s.cyc + 1 } := by
    rw [hdone, Ctx.completeArrival, harr]
    rfl
  -- the contexts in front of this one in the order of the cluster, this one, and those behind it
  have hmem : (c, x) ∈ boundaryOrder (clusterOf c) := by
    have hcl : clusterOf c = c / 4 := rfl
    exact mem_boundaryOrder.2 ⟨⟨by rw [hcl]; omega, by rw [hcl]; omega⟩, hx⟩
  obtain ⟨before, after, horder⟩ := List.append_of_mem hmem
  have hnodup := boundaryOrder_nodup (clusterOf c)
  rw [horder, List.nodup_append] at hnodup
  obtain ⟨-, htail, hapart⟩ := hnodup
  have hbefore : (c, x) ∉ before := fun h => hapart _ h _ (.head _) rfl
  have hafter : (c, x) ∉ after := (List.nodup_cons.1 htail).1
  rw [State.takeBoundaries_eq, horder, List.foldl_append, List.foldl_cons]
  obtain ⟨hcyc2, hbeside⟩ := State.beside_takeBoundaries before hbefore r
  generalize before.foldl (fun t p => t.takeBoundary p.1 p.2) r = w at *
  have hrv : r.ctx c x = { s.ctx c x with
      chunkLogged := b, arrival := (r.ctx c x).arrival, waitOn := some (.rdv id, s.watchAt c s.cyc) } := by
    rw [hdone, hown]
    rfl
  have hwarr := hbeside.arrival _ hrarr rfl (by rw [hcyc1])
  have hwsrq := hbeside.srq (by rw [hrv]; exact hsrq)
  have hwrel := hbeside.releasing (by rw [hrv]; exact hrel)
  have hwout := hbeside.out (by rw [hrv]; exact hout)
  have hwstatus : (w.ctx c x).status = .running := by rw [hbeside.eq, hrv]; exact hrun
  have hwrewind : (w.ctx c x).rewind = none := by rw [hbeside.eq, hrv]; exact hrewind
  have hwc : (w.ctx c x).c = (s.ctx c x).c := by rw [hbeside.eq, hrv]
  have hwpc : (w.ctx c x).pc = (s.ctx c x).pc := by rw [hbeside.eq, hrv]
  have hwpwq : (w.ctx c x).pwq = (s.ctx c x).pwq := by rw [hbeside.eq, hrv]
  have htake := State.takeBoundary_taken hwarr hwstatus hwrewind rfl rfl hwsrq
  obtain ⟨k, hk, hkpc, hkpwq, hsegid, hsegtry, hc⟩ := State.boundary_idle id hwsrq hwrel hwout
  have hcyc3 : (w.takeBoundary c x).cyc = s.cyc :=
    (State.takeBoundary_kept (closed_quiet w.cyc w.owner w.powerCap) w c x ⟨rfl, rfl, rfl⟩).1.trans (hcyc2.trans hcyc1)
  have hv : (w.takeBoundary c x).ctx c x = { (w.boundary c x id).ctx c x with
      arrival := some (Arrival.mk id (2 ^ (c % 4)) true true (s.cyc + 1)) } := by
    rw [htake, State.ctx_modCtx]
  generalize (w.boundary c x id).ctx c x = y at *
  obtain ⟨-, hlast⟩ := State.beside_takeBoundaries after hafter (w.takeBoundary c x)
  generalize after.foldl (fun t p => t.takeBoundary p.1 p.2) (w.takeBoundary c x) = z at *
  rw [hv] at hlast
  have hckpt := hlast.ckpt
  rw [hk, Option.map_some] at hckpt
  obtain ⟨k', hk', hpair⟩ := Option.map_eq_some_iff.1 hckpt
  obtain ⟨hk'pc, hk'pwq⟩ := Prod.mk.inj hpair
  have hzsegid : (z.ctx c x).segid = id := by rw [hlast.eq]; exact hsegid
  have hzsegtry : (z.ctx c x).segtry = 0 := by rw [hlast.eq]; exact hsegtry
  have hzc : (z.ctx c x).c = (s.ctx c x).c := by rw [hlast.eq]; exact hc.trans hwc
  exact ⟨hzsegid, hzsegtry, hzc, ⟨k', hk', hk'pc.trans (hkpc.trans hwpc), hk'pwq.trans (hkpwq.trans hwpwq)⟩,
    hlast.arrival _ rfl rfl (by rw [hcyc3])⟩

end Sys2Proof.Machine

namespace Sys2Proof
open Sys2Proof.Machine

theorem segmentsEnd : SegmentsEnd := by
  intro s c x
  dsimp only
  have hplain (h1 : ∀ h ∈ (s.ctx c x).releasing ++ (s.ctx c x).srq, ((∃ w, h.kind = .storeLine w) ∨
      (∃ w, h.kind = .storeWord w) ∨ ∃ i w, h.kind = .post i w) ∧ ∀ w, placeOf h.pa ≠ .window w)
      (h2 : ∀ a ∈ (s.ctx c x).out, ∀ w, placeOf a.pa ≠ .window w) : (s.ctx c x).Plain := ⟨h1, h2⟩
  refine ⟨fun id h => segEnds (hplain h.1 h.2.1) h.2.2 id, fun id mask p h hp hpc hmask hnone hsaved => ?_,
    fun id h hx hrun hrewind hsrq hrel hout hfirst => rdvOwn id h.2.2 hx hrun hrewind hsrq hrel hout hfirst,
    fun h => finishEnds (hplain h.1 h.2.1) h.2.2⟩
  obtain ⟨hmem, -, -, -, b, hown⟩ := State.arrives h.2.2 id mask
  rw [rdvWaits h.2.2 hp hpc hmask hnone hsaved, hown]
  exact ⟨hmem, rfl, rfl, rfl, rfl⟩

/-- Settles O50: each part by the rule of its operation (stores and marks, rows of a bank, owners and ports, queues and
tokens, joins, the end of a segment), and the commit by what it does with the effects of its slots. -/
theorem whatBundlesCommit : Obligations.WhatBundlesCommit :=
  ⟨storesCommit, tagTableChanges, banksAndPortsChange, outboundEffects, commandsQueue, joinsAndChains, otherEffects,
    segmentsEnd, resultsCommit, commitDoesItsEffect⟩
end Sys2Proof
end

section
/-!
SUPPORT. A completion record whose RCODE is wider than its field (O46).
-/
namespace Sys2Proof

open Sys2Proof.Machine

/-- A rejected launch that has nothing left to wait for, with an RCODE that Table 17.4 does not have: shifted into its
field, bits [63:8] of word 0, it reaches bit 64. -/
def Machine.Launch.wideCode : Launch :=
  { lidx := 0, part := 0, prio := 0, recva := 0, signal := 0, wcnt := 0, claims := 0, members := [], recording := false,
    replay := false, logva := 0, logpages := 0, logpos := 0, lost := false, queue := 0, rcode := 2 ^ 56 }

/-- The part with that launch. Partition 0 translates: its root at 0 leads to the table at 0x1000, whose first entry is a
leaf that may be read and written and maps VA 0 to PA 0. -/
def Machine.State.wideCode : State :=
  { State.reset with
    mem := [(0, 0x01), (1, 0x10), (0x1000, 0x0F)],
    parts := [(0, { Part.idle with troot := 1 })],
    launches := [Launch.wideCode] }

namespace Machine

/-- The record of this launch lies at VA 128, which is PA 128. -/
theorem State.wideCode_xlatePart : State.wideCode.xlatePart 0 128 true = some 128 := by decide

/-- The completion writes the record, and nothing else in memory. -/
theorem execLaunchCompletion_wideCode :
    ∃ t, exec (.launchCompletion 0) State.wideCode = .next t ∧
      t.mem = State.wideCode.mem.write 128 (bytesOf 56 (completionRecord Launch.wideCode)) :=
  ⟨_, rfl, by decide⟩

/-- Word 1 of the record holds the carry of word 0. -/
theorem load_completionRecord_wideCode :
    (State.wideCode.mem.write 128 (bytesOf 56 (completionRecord Launch.wideCode))).load 136 8 = 1 := by decide

end Machine

/-- Refutes O46: `LaunchCompletionStep` asks word 1 of the record, LIDX, of every launch, whatever its RCODE, and bounds the
RCODE for word 0 only; an RCODE of 2^56 carries out of word 0, and LIDX 0 is written as 1. -/
theorem not_launchSteps : ¬ Obligations.LaunchSteps := by
  rintro ⟨-, -, -, -, hcompletion⟩
  obtain ⟨t, ht, -, -, -, -, hwords, -⟩ :=
    ((hcompletion State.wideCode 0 Launch.wideCode rfl).2 rfl).1 128 State.wideCode_xlatePart
  obtain ⟨hlidx, -⟩ := hwords (by decide)
  obtain ⟨u, hu, hmem⟩ := execLaunchCompletion_wideCode
  cases ht.symm.trans hu
  have hword : t.mem.load 136 8 = 1 := hmem ▸ load_completionRecord_wideCode
  have hzero : t.mem.load 136 8 = 0 := hlidx
  exact absurd (hzero.symm.trans hword) (by decide)

end Sys2Proof
end

section
/-!
SUPPORT. Exact values as rationals (R33, R37): sums, products, fused products and the order of finite numbers.
-/
namespace Sys2Proof.Machine

theorem ratOf_eq_signed (a : Bool) (m : Nat) (e : Int) : ratOf a m e = (signed a m : ℚ) * 2 ^ e := by
  cases a <;> simp [ratOf, signed]

@[simp] theorem ratOf_zero (a : Bool) (e : Int) : ratOf a 0 e = 0 := by simp [ratOf]

/-- A power of two on a finer grid. -/
theorem two_pow_toNat_sub {lo e : Int} (h : lo ≤ e) : (2 : ℚ) ^ (e - lo).toNat * 2 ^ lo = 2 ^ e := by
  rw [← zpow_natCast, Int.toNat_of_nonneg (Int.sub_nonneg.2 h), ← zpow_add₀ two_ne_zero, Int.sub_add_cancel]

/-- A number written on a grid not above its own keeps its value. -/
theorem onGrid_ratOf {lo e : Int} (h : lo ≤ e) (a : Bool) (m : Nat) : (onGrid lo a m e : ℚ) * 2 ^ lo = ratOf a m e := by
  rw [onGrid, ← ratOf_eq_signed, ratOf, ratOf, ← two_pow_toNat_sub h]
  cases a <;> push_cast <;> simp [mul_assoc]

/-- Sign and magnitude of an integer. -/
theorem signed_natAbs (x : Int) : signed (decide (x < 0)) x.natAbs = x := by
  by_cases hx : x < 0
  · simp [signed, hx, abs_of_neg]
  · simp [signed, hx, abs_of_nonneg (Int.not_lt.1 hx)]

theorem ratOf_natAbs (x lo : Int) : ratOf (decide (x < 0)) x.natAbs lo = (x : ℚ) * 2 ^ lo := by
  rw [ratOf_eq_signed, signed_natAbs]

/-- `addFin` in terms of the sum on the finer of the two grids. -/
theorem addFin_eq (rnd : Nat) (a b : Bool) (m n : Nat) (e k : Int) {x : Int}
    (hx : onGrid (min e k) a m e + onGrid (min e k) b n k = x) :
    addFin rnd a m e b n k =
      if x = 0 then .fin (if m = 0 ∧ n = 0 ∧ a = b then a else decide (rnd = 3)) 0 0
      else .fin (decide (x < 0)) x.natAbs (min e k) := by
  subst hx
  rw [addFin, ← min_def, ← apply_ite (fun z => Num.fin z 0 0)]
  rfl

/-- R33: the sum of finite numbers is exact, and an exact zero is +0, or −0 in RD, unless both are zeros of one sign. -/
theorem addFin_exact (rnd : Nat) (a b : Bool) (m n : Nat) (e k : Int) :
    ∃ z p q, addFin rnd a m e b n k = .fin z p q ∧ ratOf z p q = ratOf a m e + ratOf b n k ∧
      (p = 0 → z = if m = 0 ∧ n = 0 ∧ a = b then a else decide (rnd = 3)) := by
  obtain ⟨x, hx⟩ : ∃ x, onGrid (min e k) a m e + onGrid (min e k) b n k = x := ⟨_, rfl⟩
  have hsum : (x : ℚ) * 2 ^ min e k = ratOf a m e + ratOf b n k := by
    rw [← hx, Int.cast_add, add_mul, onGrid_ratOf (min_le_left e k), onGrid_ratOf (min_le_right e k)]
  rw [addFin_eq rnd a b m n e k hx, ← hsum]
  by_cases hzero : x = 0
  · exact ⟨_, 0, 0, if_pos hzero, by simp [hzero], fun _ => rfl⟩
  · exact ⟨_, x.natAbs, min e k, if_neg hzero, ratOf_natAbs x _, fun hp => absurd (Int.natAbs_eq_zero.1 hp) hzero⟩

/-- R33: the product of finite numbers is exact. -/
theorem ratOf_mul (a b : Bool) (m n : Nat) (e k : Int) : ratOf (a ^^ b) (m * n) (e + k) = ratOf a m e * ratOf b n k := by
  have hsign : signed (a ^^ b) (m * n) = signed a m * signed b n := by
    cases a <;> cases b <;> simp [signed]
  rw [ratOf_eq_signed, ratOf_eq_signed, ratOf_eq_signed, hsign, zpow_add₀ two_ne_zero, Int.cast_mul]
  ring

/-- R33: the fused product of finite numbers is exact. -/
theorem Num.fma_exact (rnd : Nat) (a b c : Bool) (m n l : Nat) (e k j : Int) :
    ∃ z p q, Num.fma rnd (.fin a m e) (.fin b n k) (.fin c l j) = (.fin z p q, 0) ∧
      ratOf z p q = ratOf a m e * ratOf b n k + ratOf c l j := by
  obtain ⟨z, p, q, hadd, hval, -⟩ := addFin_exact rnd (a ^^ b) c (m * n) l (e + k) j
  exact ⟨z, p, q, congrArg (fun x => (x, (0 : FlagBits))) hadd, by rw [hval, ratOf_mul]⟩

/-- The order of finite numbers is that of their values. -/
theorem Num.lt_fin_iff (a b : Bool) (m n : Nat) (e k : Int) :
    Num.lt (.fin a m e) (.fin b n k) = true ↔ ratOf a m e < ratOf b n k := by
  have hgrid : (0 : ℚ) < 2 ^ min e k := by positivity
  rw [← onGrid_ratOf (min_le_left e k), ← onGrid_ratOf (min_le_right e k), mul_lt_mul_iff_left₀ hgrid, Int.cast_lt,
    min_def]
  exact decide_eq_true_iff

end Sys2Proof.Machine

namespace Sys2Proof

open Sys2Proof.Machine

/-- Settles O12: each operation by its exact value over the rationals, the invalid cases by their equations. -/
theorem exactArithmetic : Obligations.ExactArithmetic := by
  intro rnd a b c m n l e k j
  obtain ⟨z, p, q, hadd, hval, hzero⟩ := addFin_exact rnd a b m n e k
  refine ⟨⟨z, p, q, congrArg (fun x => (x, (0 : FlagBits))) hadd, hval, hzero⟩,
    ⟨m * n, e + k, rfl, ratOf_mul a b m n e k⟩,
    Machine.Num.fma_exact rnd a b c m n l e k j, Machine.Num.lt_fin_iff a b m n e k, ?_, ?_, rfl, rfl⟩
  · cases a <;> rfl
  · exact if_pos rfl

end Sys2Proof
end

section
/-!
SUPPORT. Rounding on a grid (R33, Table 2.4): a rounded magnitude differs from the exact one by less than a step of the
grid, in the direction of its mode.
-/
namespace Sys2Proof.Machine

section
variable {rnd : Nat} {neg : Bool} {m : Nat} {e q : Int}

/-- A magnitude that lies on the grid is kept. -/
theorem roundGrid_of_le (h : q ≤ e) : roundGrid rnd neg m e q = (m * 2 ^ (e - q).toNat, false) := if_pos h

/-- A magnitude finer than the grid is cut into a multiple of the grid's step and a remainder. -/
theorem roundGrid_of_lt (h : e < q) : roundGrid rnd neg m e q =
    (m / 2 ^ (q - e).toNat + (roundsUp rnd neg (m / 2 ^ (q - e).toNat) (m % 2 ^ (q - e).toNat) (q - e).toNat).toNat,
      decide (m % 2 ^ (q - e).toNat ≠ 0)) := if_neg (Int.not_le.2 h)

end

/-! ## The modes of Table 2.4 -/

/-- A mode that rounds a magnitude of this sign up: RU for a positive value, RD for a negative one. -/
def RoundsAway (rnd : Nat) (neg : Bool) : Prop := (rnd = 2 ∧ neg = false) ∨ (rnd = 3 ∧ neg = true)

section
variable {rnd : Nat} {neg : Bool} {n r s : Nat}

theorem roundsUp_nearest_iff : roundsUp 0 neg n r s = true ↔ 2 ^ s < 2 * r ∨ (2 * r = 2 ^ s ∧ n % 2 = 1) := by
  simp [roundsUp]
theorem roundsUp_away (h : RoundsAway rnd neg) : roundsUp rnd neg n r s = decide (r ≠ 0) := by
  rcases h with ⟨rfl, rfl⟩ | ⟨rfl, rfl⟩ <;> simp [roundsUp]
theorem roundsUp_toward (hr : rnd < 4) (h0 : rnd ≠ 0) (h : ¬ RoundsAway rnd neg) : roundsUp rnd neg n r s = false := by
  obtain rfl | rfl | rfl : rnd = 1 ∨ rnd = 2 ∨ rnd = 3 := by omega
  · rfl
  · cases neg <;> simp_all [roundsUp, RoundsAway]
  · cases neg <;> simp_all [roundsUp, RoundsAway]

/-- No mode rounds an exact magnitude up. -/
theorem roundsUp_exact : roundsUp rnd neg n 0 s = false := by
  have hpos := Nat.two_pow_pos s
  simp [roundsUp, hpos.ne]

/-- What rounding adds to a magnitude, in units of its own grid: the step of the coarse grid if it rounds up, less the
remainder. -/
def roundDelta (rnd : Nat) (neg : Bool) (n r s : Nat) : Int := (roundsUp rnd neg n r s).toNat * 2 ^ s - r

theorem roundDelta_eq_zero_iff (hr : r < 2 ^ s) : roundDelta rnd neg n r s = 0 ↔ r = 0 := by
  have hpow : ((2 ^ s : Nat) : Int) = 2 ^ s := Nat.cast_pow 2 s
  unfold roundDelta
  constructor
  · intro h
    cases hup : roundsUp rnd neg n r s <;> simp [hup] at h <;> omega
  · rintro rfl
    simp [roundsUp_exact]

/-- RNE: at most half a step, and half a step only to an even multiple. -/
theorem roundDelta_nearest (hr : r < 2 ^ s) :
    2 * |roundDelta 0 neg n r s| ≤ 2 ^ s ∧
      (2 * |roundDelta 0 neg n r s| = 2 ^ s → (n + (roundsUp 0 neg n r s).toNat) % 2 = 0) := by
  have hup := @roundsUp_nearest_iff neg n r s
  have hpow : ((2 ^ s : Nat) : Int) = 2 ^ s := Nat.cast_pow 2 s
  unfold roundDelta
  cases h : roundsUp 0 neg n r s with
  | false =>
    simp only [h, Bool.false_eq_true, false_iff] at hup
    rw [Bool.toNat_false, Nat.cast_zero, zero_mul, zero_sub, abs_neg, Nat.abs_cast]
    omega
  | true =>
    simp only [h, true_iff] at hup
    rw [Bool.toNat_true, Nat.cast_one, one_mul, abs_of_nonneg (by omega)]
    omega

/-- RU of a positive and RD of a negative value: less than a step more. -/
theorem roundDelta_away (hr : r < 2 ^ s) (h : RoundsAway rnd neg) :
    0 ≤ roundDelta rnd neg n r s ∧ roundDelta rnd neg n r s < 2 ^ s := by
  have hpow : ((2 ^ s : Nat) : Int) = 2 ^ s := Nat.cast_pow 2 s
  rw [roundDelta, roundsUp_away h]
  by_cases h0 : r = 0
  · simp [h0]
  · simp [h0]
    omega

/-- The other directed modes: less than a step less. -/
theorem roundDelta_toward (hr : r < 2 ^ s) (hrnd : rnd < 4) (h0 : rnd ≠ 0) (h : ¬ RoundsAway rnd neg) :
    roundDelta rnd neg n r s ≤ 0 ∧ -2 ^ s < roundDelta rnd neg n r s := by
  have hpow : ((2 ^ s : Nat) : Int) = 2 ^ s := Nat.cast_pow 2 s
  rw [roundDelta, roundsUp_toward hrnd h0 h]
  simp
  omega

end

/-- A rounded magnitude is the exact one and `roundDelta` units `g`, of which `2^s` are a step of the grid. -/
theorem roundGrid_delta (rnd : Nat) (neg : Bool) (m : Nat) (e q : Int) :
    ∃ (n r s : Nat) (g : ℚ), 0 < g ∧ r < 2 ^ s ∧ (2 : ℚ) ^ q = 2 ^ s * g ∧
      roundGrid rnd neg m e q = (n + (roundsUp rnd neg n r s).toNat, decide (r ≠ 0)) ∧
      ((n + (roundsUp rnd neg n r s).toNat : Nat) : ℚ) * 2 ^ q = m * 2 ^ e + roundDelta rnd neg n r s * g := by
  rcases Int.lt_or_le e q with h | h
  · refine ⟨_, _, _, 2 ^ e, by positivity, Nat.mod_lt m (Nat.two_pow_pos _), (two_pow_toNat_sub h.le).symm,
      roundGrid_of_lt h, ?_⟩
    have hm : (2 : ℚ) ^ (q - e).toNat * (m / 2 ^ (q - e).toNat : Nat) + (m % 2 ^ (q - e).toNat : Nat) = m := by
      exact_mod_cast Nat.div_add_mod m (2 ^ (q - e).toNat)
    rw [← two_pow_toNat_sub h.le, roundDelta]
    simp only [Nat.cast_add, Int.cast_sub, Int.cast_mul, Int.cast_natCast, Int.cast_pow, Int.cast_ofNat]
    linear_combination 2 ^ e * hm
  · refine ⟨m * 2 ^ (e - q).toNat, 0, 0, 2 ^ q, by positivity, by simp, by simp, ?_, ?_⟩
    · simp [roundGrid_of_le h, roundsUp_exact]
    · simp [roundDelta, roundsUp_exact, mul_assoc, two_pow_toNat_sub h]

end Sys2Proof.Machine

namespace Sys2Proof

open Sys2Proof.Machine

theorem roundingModes : RoundingModes := by
  intro rnd neg m e q hrnd
  dsimp only
  obtain ⟨n, r, s, g, hg, hr, hq, hround, hval⟩ := roundGrid_delta rnd neg m e q
  rw [hround]
  dsimp only
  rw [hval, hq]
  refine ⟨?_, ?_, fun hup => ?_, fun h0 hup => ?_⟩
  · rw [decide_eq_true_iff, ne_eq, ne_eq, add_eq_left, mul_eq_zero, or_iff_left hg.ne', Int.cast_eq_zero,
      roundDelta_eq_zero_iff hr]
  · rintro rfl
    obtain ⟨hle, heven⟩ := @roundDelta_nearest neg n r s hr
    have hhalf : 2 * |(m : ℚ) * 2 ^ e + roundDelta 0 neg n r s * g - m * 2 ^ e| =
        ((2 * |roundDelta 0 neg n r s| : Int) : ℚ) * g := by
      rw [add_sub_cancel_left, abs_mul, abs_of_pos hg]
      push_cast
      ring
    rw [hhalf]
    refine ⟨mul_le_mul_of_nonneg_right (by exact_mod_cast hle) hg.le, fun heq => heven ?_⟩
    exact_mod_cast mul_right_cancel₀ hg.ne' heq
  · obtain ⟨hlo, hhi⟩ := roundDelta_away (n := n) hr hup
    refine ⟨le_add_of_nonneg_right (mul_nonneg (by exact_mod_cast hlo) hg.le), add_lt_add_right ?_ _⟩
    exact mul_lt_mul_of_pos_right (by exact_mod_cast hhi) hg
  · obtain ⟨hhi, hlo⟩ := roundDelta_toward (n := n) hr hrnd h0 hup
    have hhi' : (roundDelta rnd neg n r s : ℚ) ≤ 0 := by exact_mod_cast hhi
    have hlo' : (0 : ℚ) < roundDelta rnd neg n r s + 2 ^ s := by
      exact_mod_cast (by omega : 0 < roundDelta rnd neg n r s + 2 ^ s)
    refine ⟨add_le_of_nonpos_right (mul_nonpos_of_nonpos_of_nonneg hhi' hg.le), ?_⟩
    rw [add_assoc, ← add_mul]
    exact lt_add_of_pos_right _ (mul_pos hlo' hg)

end Sys2Proof
end

section
/-!
SUPPORT. Rounding to a format (R33, R34, Table 2.5): the encodings of a format without their sign count its magnitudes in
order, so that comparing encodings is comparing values.
-/
namespace Sys2Proof.Machine

/-! ## Magnitudes of a format -/

/-- The grid of the subnormals of a format. -/
def Format.emin (F : Format) : Int := 1 - F.bias - F.manBits

/-- A magnitude n · 2^q as rounding leaves it: on the grid of the subnormals, or with its first bit in place, or carried
into the next binade. -/
structure Format.OnGrid (F : Format) (n : Nat) (q : Int) : Prop where
  emin_le : F.emin ≤ q
  le : n ≤ 2 ^ (F.manBits + 1)
  full : q ≠ F.emin → 2 ^ F.manBits ≤ n

/-- The encoding of a magnitude without its sign: its number among the magnitudes of the format. -/
def Format.magBits (F : Format) (n : Nat) (q : Int) : Nat := (q - F.emin).toNat * 2 ^ F.manBits + n

/-- A magnitude is at most a magnitude of a coarser grid that has at least half its multiple. -/
theorem mul_two_pow_le_of_grid_lt {n M : Nat} {q Q : Int} (hq : q < Q) (h : n ≤ 2 * M) : (n : ℚ) * 2 ^ q ≤ M * 2 ^ Q :=
  calc (n : ℚ) * 2 ^ q ≤ (2 * M : Nat) * 2 ^ q := by gcongr
    _ = M * 2 ^ (q + 1) := by rw [zpow_add_one₀ two_ne_zero]; push_cast; ring
    _ ≤ M * 2 ^ Q := by gcongr; exacts [one_le_two, hq]

/-- The number of a magnitude is at most that of one in a coarser grid. -/
theorem Format.magBits_le_of_grid_lt {F : Format} {n M : Nat} {q Q : Int} (he : F.emin ≤ q) (hq : q < Q)
    (h : n ≤ 2 ^ F.manBits + M) : F.magBits n q ≤ F.magBits M Q := by
  obtain ⟨d, hd⟩ : ∃ d, (Q - F.emin).toNat = (q - F.emin).toNat + 1 + d := ⟨(Q - q - 1).toNat, by omega⟩
  rw [magBits, magBits, hd, Nat.add_mul, Nat.add_mul, Nat.one_mul]
  omega

/-- The numbers of two magnitudes are ordered as their values are. -/
theorem Format.magBits_le_iff {F : Format} {n M : Nat} {q Q : Int} (h : F.OnGrid n q) (H : F.OnGrid M Q)
    (hM : M < 2 ^ (F.manBits + 1)) : F.magBits n q ≤ F.magBits M Q ↔ (n : ℚ) * 2 ^ q ≤ M * 2 ^ Q := by
  obtain ⟨hq, hn, hfull⟩ := h
  obtain ⟨hQ, -, hFull⟩ := H
  rw [Nat.pow_succ'] at hn hM
  rcases lt_trichotomy q Q with hlt | rfl | hgt
  · have hMfull := hFull (by omega)
    exact iff_of_true (magBits_le_of_grid_lt hq hlt (by omega)) (mul_two_pow_le_of_grid_lt hlt (by omega))
  · have hpos : (0 : ℚ) < 2 ^ q := by positivity
    rw [magBits, magBits, Nat.add_le_add_iff_left, mul_le_mul_iff_left₀ hpos, Nat.cast_le]
  · have hnfull := hfull (by omega)
    have hbits : F.magBits (M + 1) Q ≤ F.magBits n q := magBits_le_of_grid_lt hQ hgt (by omega)
    have hval : ((M + 1 : Nat) : ℚ) * 2 ^ Q ≤ n * 2 ^ q := mul_two_pow_le_of_grid_lt hgt (by omega)
    refine iff_of_false (Nat.not_le.2 hbits) (not_le.2 (lt_of_lt_of_le ?_ hval))
    gcongr
    exact Nat.lt_succ_self M

/-! ## Rounding to the grid of a format -/

theorem two_pow_bitLen_le {m : Nat} (h : m ≠ 0) : 2 ^ (bitLen m - 1) ≤ m := by
  simpa [bitLen, h] using Nat.log2_self_le h
theorem lt_two_pow_bitLen (m : Nat) : m < 2 ^ bitLen m := by
  by_cases h : m = 0
  · simp [h]
  · simpa [bitLen, h] using Nat.lt_log2_self
theorem bitLen_pos {m : Nat} (h : m ≠ 0) : 0 < bitLen m := by simp [bitLen, h]

theorem Format.grid_eq (F : Format) (m : Nat) (e : Int) : F.grid m e = max F.emin (bitLen m - 1 + e - F.manBits) := by
  simp only [grid, emin, max_def]
  split <;> split <;> omega

/-- A non-zero value rounded on the grid of a format is a magnitude of the format. -/
theorem Format.onGrid_roundGrid (F : Format) (rnd : Nat) (neg : Bool) {m : Nat} (hm : m ≠ 0) (e : Int) :
    F.OnGrid (roundGrid rnd neg m e (F.grid m e)).1 (F.grid m e) := by
  have hlo := two_pow_bitLen_le hm
  have hhi := lt_two_pow_bitLen m
  have hlen := bitLen_pos hm
  have hgrid := F.grid_eq m e
  generalize F.grid m e = q at *
  refine ⟨hgrid ▸ le_max_left _ _, ?_, fun hq => ?_⟩
  all_goals rcases Int.lt_or_le e q with h | h
  · rw [roundGrid_of_lt h]
    have hdiv : m / 2 ^ (q - e).toNat < 2 ^ (F.manBits + 1) := by
      rw [Nat.div_lt_iff_lt_mul (Nat.two_pow_pos _), ← Nat.pow_add]
      exact hhi.trans_le (Nat.pow_le_pow_right two_pos (by omega))
    exact (Nat.add_le_add_left (Bool.toNat_le _) _).trans hdiv
  · rw [roundGrid_of_le h]
    calc m * 2 ^ (e - q).toNat ≤ 2 ^ bitLen m * 2 ^ (e - q).toNat := Nat.mul_le_mul_right _ hhi.le
      _ = 2 ^ (bitLen m + (e - q).toNat) := (Nat.pow_add ..).symm
      _ ≤ 2 ^ (F.manBits + 1) := Nat.pow_le_pow_right two_pos (by omega)
  · rw [roundGrid_of_lt h]
    refine le_trans ?_ (Nat.le_add_right _ _)
    rw [Nat.le_div_iff_mul_le (Nat.two_pow_pos _), ← Nat.pow_add]
    exact (Nat.pow_le_pow_right two_pos (by omega)).trans hlo
  · rw [roundGrid_of_le h]
    calc 2 ^ F.manBits ≤ 2 ^ (bitLen m - 1 + (e - q).toNat) := Nat.pow_le_pow_right two_pos (by omega)
      _ = 2 ^ (bitLen m - 1) * 2 ^ (e - q).toNat := Nat.pow_add ..
      _ ≤ m * 2 ^ (e - q).toNat := Nat.mul_le_mul_right _ hlo

/-! ## Exponent field and mantissa -/

/-- The exponent field of a magnitude that has not been carried. -/
def Format.expField (F : Format) (n : Nat) (q : Int) : Nat :=
  if n < 2 ^ F.manBits then 0 else (q + F.manBits + F.bias).toNat

section
variable {F : Format} {n : Nat} {q : Int}

theorem Format.OnGrid.expField_of_full (h : F.OnGrid n q) (hn : 2 ^ F.manBits ≤ n) :
    F.expField n q = (q - F.emin).toNat + 1 ∧ (F.expField n q : Int) = q + F.manBits + F.bias := by
  have hq := h.emin_le
  rw [expField, if_neg (Nat.not_lt.2 hn)]
  unfold emin at *
  omega

theorem Format.OnGrid.eq_emin (h : F.OnGrid n q) (hn : n < 2 ^ F.manBits) : q = F.emin := by
  by_contra hq
  exact Nat.not_le.2 hn (h.full hq)

theorem mod_two_pow_of_full {M n : Nat} (hn : 2 ^ M ≤ n) (hlt : n < 2 ^ (M + 1)) : n % 2 ^ M = n - 2 ^ M := by
  rw [Nat.mod_eq_sub_mod hn, Nat.mod_eq_of_lt]
  rw [Nat.pow_succ'] at hlt
  omega

/-- The number of a magnitude is its exponent field and its mantissa side by side. -/
theorem Format.OnGrid.magBits_eq (h : F.OnGrid n q) (hlt : n < 2 ^ (F.manBits + 1)) :
    F.expField n q * 2 ^ F.manBits + n % 2 ^ F.manBits = F.magBits n q := by
  unfold magBits
  rcases Nat.lt_or_ge n (2 ^ F.manBits) with hn | hn
  · simp [expField, hn, h.eq_emin hn, Nat.mod_eq_of_lt]
  · rw [(h.expField_of_full hn).1, mod_two_pow_of_full hn hlt, Nat.add_mul, Nat.one_mul]
    omega

/-- A magnitude that rounding has carried into the next binade, written there. -/
theorem Format.OnGrid.carried (h : F.OnGrid (2 ^ (F.manBits + 1)) q) :
    F.OnGrid (2 ^ F.manBits) (q + 1) ∧ F.magBits (2 ^ F.manBits) (q + 1) = F.magBits (2 ^ (F.manBits + 1)) q ∧
      ((2 ^ F.manBits : Nat) : ℚ) * 2 ^ (q + 1) = (2 ^ (F.manBits + 1) : Nat) * 2 ^ q := by
  have hq := h.emin_le
  refine ⟨⟨by omega, Nat.pow_le_pow_right two_pos (Nat.le_succ _), fun _ => le_rfl⟩, ?_, ?_⟩
  · rw [magBits, magBits, show (q + 1 - F.emin).toNat = (q - F.emin).toNat + 1 by omega, Nat.pow_succ']
    ring
  · rw [zpow_add_one₀ two_ne_zero, Nat.pow_succ']
    push_cast
    ring

end

/-! ## Encodings -/

/-- The encodings of a format: the largest finite one lies below those of infinity and of the NaNs. -/
structure Format.Regular (F : Format) : Prop where
  sound : F.Sound
  max_lt : F.maxBits < F.infBits + if F.hasInf = true then 0 else 2 ^ F.manBits - 1
  sats_iff : F.sats = true ↔ F.expBits < 8
  decode_inf : ∀ neg, F.decode (if F.hasInf = true then F.sign neg + F.infBits else F.nanBits) =
    if F.hasInf = true then .inf neg else .nan

/-- R30: the value of a finite encoding. -/
theorem Format.decode_sign_add {F : Format} (hF : F.Regular) (neg : Bool) {field r : Nat} (hr : r < 2 ^ F.manBits)
    (hmax : field * 2 ^ F.manBits + r ≤ F.maxBits) :
    F.decode (F.sign neg + (field * 2 ^ F.manBits + r)) =
      if field = 0 then .fin neg r F.emin else .fin neg (2 ^ F.manBits + r) (field - F.bias - F.manBits) := by
  obtain ⟨⟨hsound, -⟩, hspecial, -⟩ := hF
  have hlt : field * 2 ^ F.manBits + r < 2 ^ (F.expBits + F.manBits) := by omega
  have hsign : (F.sign neg + (field * 2 ^ F.manBits + r)).testBit (F.expBits + F.manBits) = neg := by
    cases neg
    · simp [sign, Nat.testBit_lt_two_pow hlt]
    · simp [sign, Nat.testBit_two_pow_add_eq, Nat.testBit_lt_two_pow hlt]
  have hcut : F.sign neg + (field * 2 ^ F.manBits + r) = r + 2 ^ F.manBits * (field + 2 ^ F.expBits * neg.toNat) := by
    cases neg <;> simp [sign, Nat.pow_add] <;> ring
  have hfield : field < 2 ^ F.expBits := by
    rw [Nat.pow_add] at hlt
    exact Nat.lt_of_mul_lt_mul_right (by omega : field * 2 ^ F.manBits < 2 ^ F.expBits * 2 ^ F.manBits)
  have he : natField (F.sign neg + (field * 2 ^ F.manBits + r)) F.manBits F.expBits = field := by
    rw [hcut, natField, Nat.add_mul_div_left _ _ (Nat.two_pow_pos _), Nat.div_eq_of_lt hr, Nat.zero_add,
      Nat.add_mul_mod_self_left, Nat.mod_eq_of_lt hfield]
  have hm : natField (F.sign neg + (field * 2 ^ F.manBits + r)) 0 F.manBits = r := by
    rw [hcut, natField, pow_zero, Nat.div_one, Nat.add_mul_mod_self_left, Nat.mod_eq_of_lt hr]
  have hnotinf : ¬ (field = 2 ^ F.expBits - 1 ∧ F.hasInf = true) := by
    rintro ⟨rfl, hinf⟩
    rw [if_pos hinf, infBits] at hspecial
    omega
  have hnotnan : ¬ (field = 2 ^ F.expBits - 1 ∧ r = 2 ^ F.manBits - 1) := by
    rintro ⟨rfl, rfl⟩
    rw [infBits] at hspecial
    split at hspecial <;> omega
  unfold decode
  dsimp only
  rw [hsign, he, hm, if_neg hnotinf, if_neg hnotnan]
  rfl

/-- R30: the encoding that is the number of a magnitude stands for it. -/
theorem Format.decode_magBits {F : Format} (hF : F.Regular) (neg : Bool) {n : Nat} {q : Int} (h : F.OnGrid n q)
    (hlt : n < 2 ^ (F.manBits + 1)) (hmax : F.magBits n q ≤ F.maxBits) :
    F.decode (F.sign neg + F.magBits n q) = .fin neg n q := by
  rw [← h.magBits_eq hlt] at hmax ⊢
  rw [decode_sign_add hF neg (Nat.mod_lt _ (Nat.two_pow_pos _)) hmax]
  rcases Nat.lt_or_ge n (2 ^ F.manBits) with hn | hn
  · rw [expField, if_pos hn, if_pos rfl, Nat.mod_eq_of_lt hn, h.eq_emin hn]
  · obtain ⟨hfield, hexp⟩ := h.expField_of_full hn
    rw [if_neg (by omega), hexp, mod_two_pow_of_full hn hlt, Nat.add_sub_cancel' hn]
    congr 1
    ring

/-- R30: as `decode_magBits`, for a magnitude that may have been carried. -/
theorem Format.decode_magBits_value {F : Format} (hF : F.Regular) (neg : Bool) {n : Nat} {q : Int} (h : F.OnGrid n q)
    (hmax : F.magBits n q ≤ F.maxBits) :
    ∃ u k, F.decode (F.sign neg + F.magBits n q) = .fin neg u k ∧ (u : ℚ) * 2 ^ k = n * 2 ^ q := by
  rcases Nat.lt_or_eq_of_le h.le with hlt | rfl
  · exact ⟨n, q, decode_magBits hF neg h hlt hmax, rfl⟩
  · obtain ⟨hgrid, hbits, hval⟩ := h.carried
    exact ⟨2 ^ F.manBits, q + 1, hbits ▸ decode_magBits hF neg hgrid (Nat.pow_lt_pow_right one_lt_two (Nat.lt_succ_self _))
      (hbits ▸ hmax), hval⟩

/-! ## The result of a rounding -/

/-- R34, Table 2.5: what a format gives for a magnitude above its largest finite one. -/
def Format.overflowed (F : Format) (rnd : Nat) (sat neg : Bool) : Nat × FlagBits :=
  if F.sats ∧ sat then (F.sign neg + F.maxBits, saturatedFlag ||| inexactFlag)
  else if overflowsToInf rnd neg then
    (if F.hasInf = true then F.sign neg + F.infBits else F.nanBits, overflowFlag ||| inexactFlag)
  else (F.sign neg + F.maxBits, overflowFlag ||| inexactFlag)

section
variable {F : Format} {n : Nat} {q : Int} {rnd : Nat} {sat neg inexact : Bool}

/-- `finish` in terms of the number of the magnitude. -/
theorem Format.OnGrid.finish_eq (h : F.OnGrid n q) :
    F.finish rnd sat neg n q inexact =
      if F.maxBits < F.magBits n q then F.overflowed rnd sat neg
      else (F.sign neg + F.magBits n q,
        flagIf inexact inexactFlag ||| flagIf (inexact && decide (n < 2 ^ F.manBits)) underflowFlag) := by
  have hpull : (if F.hasInf = true then (F.sign neg + F.infBits, overflowFlag ||| inexactFlag)
      else (F.nanBits, overflowFlag ||| inexactFlag)) =
      (if F.hasInf = true then F.sign neg + F.infBits else F.nanBits, overflowFlag ||| inexactFlag) :=
    (apply_ite (fun b => (b, overflowFlag ||| inexactFlag)) _ _ _).symm
  have hlt' : 2 ^ F.manBits < 2 ^ (F.manBits + 1) := Nat.pow_lt_pow_right one_lt_two (Nat.lt_succ_self _)
  rcases Nat.lt_or_eq_of_le h.le with hlt | rfl
  · rw [← h.magBits_eq hlt]
    simp only [finish, overflowed, expField, hpull, hlt.ne, decide_false, Bool.false_eq_true, if_false]
    rfl
  · obtain ⟨hgrid, hbits, -⟩ := h.carried
    rw [← hbits, ← hgrid.magBits_eq hlt']
    simp only [finish, overflowed, expField, hpull, decide_true, if_true, lt_irrefl, if_false, hlt'.not_gt]

theorem Format.overflowed_saturates (hsats : F.sats = true) (hsat : sat = true) :
    F.overflowed rnd sat neg = (F.sign neg + F.maxBits, 0b11000) := if_pos ⟨hsats, hsat⟩

theorem Format.overflowed_toInf (hs : ¬ (F.sats = true ∧ sat = true)) (hinf : overflowsToInf rnd neg = true) :
    F.overflowed rnd sat neg = (if F.hasInf = true then F.sign neg + F.infBits else F.nanBits, 0b01010) :=
  (if_neg hs).trans (if_pos hinf)

theorem Format.overflowed_toMax (hs : ¬ (F.sats = true ∧ sat = true)) (hinf : ¬ overflowsToInf rnd neg = true) :
    F.overflowed rnd sat neg = (F.sign neg + F.maxBits, 0b01010) :=
  (if_neg hs).trans (if_neg hinf)

end

/-- Table 2.5: the modes in which an overflow gives infinity. -/
theorem overflowsToInf_iff {rnd : Nat} {neg : Bool} (h : rnd < 4) :
    overflowsToInf rnd neg = true ↔ rnd = 0 ∨ (rnd = 2 ∧ neg = false) ∨ (rnd = 3 ∧ neg = true) := by
  obtain rfl | rfl | rfl | rfl : rnd = 0 ∨ rnd = 1 ∨ rnd = 2 ∨ rnd = 3 := by omega
  all_goals cases neg <;> decide

/-- R37: a result that fits is inexact when rounding changed it, and sets no flag but this and underflow. -/
theorem lossFlags_getLsbD (inexact small : Bool) :
    let g := flagIf inexact inexactFlag ||| flagIf small underflowFlag
    g.getLsbD 3 = inexact ∧ g.getLsbD 0 = false ∧ g.getLsbD 1 = false ∧ g.getLsbD 4 = false := by
  cases inexact <;> cases small <;> decide

theorem Format.round_fin {F : Format} {m : Nat} (hm : m ≠ 0) (rnd : Nat) (sat neg : Bool) (e : Int) :
    F.round rnd sat (.fin neg m e) = F.finish rnd sat neg (roundGrid rnd neg m e (F.grid m e)).1 (F.grid m e)
      (roundGrid rnd neg m e (F.grid m e)).2 := if_neg hm

/-! ## The four formats (Table 2.2) -/

theorem regular_fp32 : fp32.Regular := ⟨sound_fp32, by decide, by decide, by decide⟩
theorem regular_bf16 : bf16.Regular := ⟨sound_bf16, by decide, by decide, by decide⟩
theorem regular_e4m3 : e4m3.Regular := ⟨sound_e4m3, by decide, by decide, by decide⟩
theorem regular_e5m2 : e5m2.Regular := ⟨sound_e5m2, by decide, by decide, by decide⟩

/-- The value of the largest finite encoding of a format. -/
def Format.IsMax (F : Format) (top : ℚ) : Prop :=
  ∃ M Q, F.OnGrid M Q ∧ M < 2 ^ (F.manBits + 1) ∧ F.magBits M Q = F.maxBits ∧ (M : ℚ) * 2 ^ Q = top

/-- A magnitude overflows when its value is above the largest finite one. -/
theorem Format.maxBits_lt_iff {F : Format} {top : ℚ} (hF : F.IsMax top) {n : Nat} {q : Int} (h : F.OnGrid n q) :
    F.maxBits < F.magBits n q ↔ top < n * 2 ^ q := by
  obtain ⟨M, Q, hgrid, hM, hbits, rfl⟩ := hF
  rw [← not_le, ← not_le, ← hbits, magBits_le_iff h hgrid hM]

end Sys2Proof.Machine

namespace Sys2Proof

open Sys2Proof.Machine

/-- Table 2.2: each format with the value of its largest finite encoding. -/
theorem regular_of_mem_formats {p : Format × ℚ} (h : p ∈ formats) : p.1.Regular ∧ p.1.IsMax p.2 := by
  simp only [formats, List.mem_cons, List.not_mem_nil, or_false] at h
  rcases h with rfl | rfl | rfl | rfl
  · exact ⟨regular_fp32, 2 ^ 24 - 1, 104, ⟨by decide, by decide, by decide⟩, by decide, by decide, by norm_num⟩
  · exact ⟨regular_bf16, 2 ^ 8 - 1, 120, ⟨by decide, by decide, by decide⟩, by decide, by decide, by norm_num⟩
  · exact ⟨regular_e4m3, 14, 5, ⟨by decide, by decide, by decide⟩, by decide, by decide, by norm_num⟩
  · exact ⟨regular_e5m2, 7, 13, ⟨by decide, by decide, by decide⟩, by decide, by decide, by norm_num⟩

theorem ratOf_inj {neg : Bool} {m n : Nat} {e k : Int} :
    ratOf neg m e = ratOf neg n k ↔ (m : ℚ) * 2 ^ e = n * 2 ^ k := by
  cases neg <;> simp [ratOf]

theorem roundingToFormats : RoundingToFormats := by
  intro p hp rnd sat neg m e hrnd hm
  dsimp only
  obtain ⟨hF, htop⟩ := regular_of_mem_formats hp
  have hgrid := p.1.onGrid_roundGrid rnd neg hm e
  obtain ⟨hinexact, -⟩ := roundingModes rnd neg m e (p.1.grid m e) hrnd
  rw [Format.round_fin hm, hgrid.finish_eq]
  generalize p.1.grid m e = q at *
  generalize roundGrid rnd neg m e q = r at *
  obtain ⟨n, inexact⟩ := r
  have hov := Format.maxBits_lt_iff htop hgrid
  dsimp only at *
  refine ⟨fun hle => ?_, fun hlt => ?_⟩
  · have hfits := hov.not.2 (not_lt.2 hle)
    obtain ⟨u, k, hdecode, hval⟩ := Format.decode_magBits_value hF neg hgrid (Nat.not_lt.1 hfits)
    obtain ⟨hflag, hothers⟩ := lossFlags_getLsbD inexact (inexact && decide (n < 2 ^ p.1.manBits))
    rw [if_neg hfits]
    refine ⟨u, k, hdecode, ratOf_inj.2 hval, ?_, hothers⟩
    rw [hflag, hinexact, ne_eq, ne_eq, ratOf_inj]
  · rw [if_pos (hov.2 hlt)]
    by_cases hsat : sat = true ∧ p.1.expBits < 8
    · rw [if_pos hsat, Format.overflowed_saturates (hF.sats_iff.2 hsat.2) hsat.1]
      exact ⟨rfl, rfl⟩
    · have hs : ¬ (p.1.sats = true ∧ sat = true) := fun h => hsat ⟨h.2, hF.sats_iff.1 h.1⟩
      rw [if_neg hsat]
      by_cases hinf : overflowsToInf rnd neg = true
      · rw [if_pos ((overflowsToInf_iff hrnd).1 hinf), Format.overflowed_toInf hs hinf]
        exact ⟨hF.decode_inf neg, rfl⟩
      · rw [if_neg (mt (overflowsToInf_iff hrnd).2 hinf), Format.overflowed_toMax hs hinf]
        exact ⟨rfl, rfl⟩

/-- Settles O13: a rounded magnitude is the exact one and less than a step of the grid, in the direction of its mode; and
the encodings of a format are numbered in the order of its magnitudes. -/
theorem rounding : Obligations.Rounding := ⟨roundingModes, roundingToFormats⟩

end Sys2Proof
end

section
/-!
SUPPORT. Integer forms of the V slots (R36, R124), and the choice of VMIN and VMAX (R124).
-/
namespace Sys2Proof.Machine

/-! ## Integer results (R36) -/

theorem clampInt_eq_max_min {lo hi : Int} (h : lo ≤ hi) (x : Int) : clampInt lo hi x = max lo (min x hi) := by
  unfold clampInt
  split
  · omega
  · split <;> omega

/-- R36, R37: an integer result is the exact integer wrapped, or clamped with its two flags. -/
theorem intResult_eq_intOut (w : Nat) (sat : Bool) (x : Int) : intResult w sat x = intOut w sat x := by
  have hbounds : intMin w ≤ intMax w := by
    have := Nat.two_pow_pos (w - 1)
    unfold intMin intMax
    omega
  have hwrap (y : Int) : wrapOf w y = (y % 2 ^ w).toNat := by simp [wrapOf]
  cases sat with
  | false => simp [intResult, intOut, hwrap]
  | true =>
    have hclamp : clampInt (intMin w) (intMax w) x = max (-(2 ^ (w - 1) : Int)) (min x (2 ^ (w - 1) - 1)) := by
      rw [clampInt_eq_max_min hbounds, intMin, intMax]
      push_cast
      rfl
    simp [intResult, intOut, hwrap, hclamp, flagIf, saturatedFlag, inexactFlag]

/-! ## Forms of a V slot -/

section
variable (f : VSlot) (s : State)

/-! The arm of each arithmetic form in `exec`. -/

theorem exec_vadd : exec (.vadd f) s = execVadd f s := rfl
theorem exec_vsub : exec (.vsub f) s = execVsub f s := rfl
theorem exec_vmul : exec (.vmul f) s = execVmul f s := rfl
theorem exec_vfma : exec (.vfma f) s = execVfma f s := rfl
theorem exec_vfms : exec (.vfms f) s = execVfms f s := rfl
theorem exec_vdif : exec (.vdif f) s = execVdif f s := rfl
theorem exec_vabs : exec (.vabs f) s = execVabs f s := rfl
theorem exec_vneg : exec (.vneg f) s = execVneg f s := rfl

end

/-- Element `j` of an operand as a signed integer of the slot's format. -/
def intElem (s : State) (f : VSlot) (v : BitVec 14) (j : Nat) : Int :=
  signedOf (fmtWidth f.fmt.toNat) (elemOf (fmtWidth f.fmt.toNat) (lineValue s v) j)

section
variable {s : State} {f : VSlot} (hg : GuardTrue s f.g)
include hg

/-- A V slot that computes its elements answers with their line and the flags of the enabled ones. -/
theorem yields_of_vSlot {i : Instr} {srcs : List (BitVec 14)} {lat : Nat} {r : Line × FlagBits} {mask : BitVec 32}
    (h : exec i s = vSlot s f srcs lat r mask) : Yields i s f srcs lat r.1 mask r.2 :=
  does_of_exec hg h

/-- R124, R36: an integer form gives every element of its result, an exact integer wrapped or clamped. -/
theorem yields_ints {i : Instr} {srcs : List (BitVec 14)} {lat w : Nat} {x y : Nat → Int}
    (h : exec i s = vSlot s f srcs lat (mapElems w (vMask s f) (fun j => intResult w (decide (f.sat = 1)) (x j))) (vMask s f))
    (hxy : ∀ j, x j = y j) :
    ∃ v g, Yields i s f srcs lat v (vMask s f) g ∧
      Elements w (vMask s f) v g (fun j => intOut w (decide (f.sat = 1)) (y j)) := by
  refine ⟨_, _, yields_of_vSlot hg h, fun j hj => ?_, fun k => ?_⟩
  · have hlt : (intResult w (decide (f.sat = 1)) (x j)).1 < 2 ^ w := by
      unfold intResult
      split <;> exact wrapOf_lt w _
    rw [elemOf_mapElems w _ _ j hj, Nat.mod_eq_of_lt hlt, intResult_eq_intOut, hxy]
  · rw [mapElems_flag]
    simp only [intResult_eq_intOut, hxy, bitOf_eq_getLsbD]

/-- `yields_ints` of a form of three operands. -/
theorem yields_arith_int (hnone : floatFormat f.fmt.toNat = none) {i : Instr} {fl : Num → Num → Num → Num × FlagBits}
    {it : Int → Int → Int → Int} {lat : Nat} {rd : Bool} {r : Res} (hi : exec i s = r)
    (h : r = arith fl it lat rd f s) {y : Nat → Int}
    (hy : ∀ j, it (intElem s f f.d j) (intElem s f f.a j) (intElem s f f.b j) = y j) :
    ∃ v g, Yields i s f ((if rd then [f.d] else []) ++ [f.a, f.b]) lat v (vMask s f) g ∧
      Elements (fmtWidth f.fmt.toNat) (vMask s f) v g (fun j => intOut (fmtWidth f.fmt.toNat) (decide (f.sat = 1)) (y j)) :=
  yields_ints hg ((hi.trans h).trans (arith_int hnone fl it lat rd s)) hy

/-- `yields_ints` of a form of one operand. -/
theorem yields_arith1_int (hnone : floatFormat f.fmt.toNat = none) {i : Instr} {fl : Num → Num} {it : Int → Int}
    {r : Res} (hi : exec i s = r) (h : r = arith1 fl it f s) {y : Nat → Int} (hy : ∀ j, it (intElem s f f.a j) = y j) :
    ∃ v g, Yields i s f [f.a] 2 v (vMask s f) g ∧
      Elements (fmtWidth f.fmt.toNat) (vMask s f) v g (fun j => intOut (fmtWidth f.fmt.toNat) (decide (f.sat = 1)) (y j)) :=
  yields_ints hg ((hi.trans h).trans (arith1_int hnone fl it s)) hy

/-- A form on raw elements gives every element its value, and no flag. -/
theorem yields_raw2 {i : Instr} {lat w : Nat} {op : Nat → Nat → Nat} (h : exec i s = raw2 w lat op f s)
    (hop : ∀ a b, a < 2 ^ w → b < 2 ^ w → op a b < 2 ^ w) :
    ∃ v, Yields i s f [f.a, f.b] lat v (vMask s f) 0 ∧
      ∀ j, j < 1024 / w → elemOf w v j = op (elemOf w (lineValue s f.a) j) (elemOf w (lineValue s f.b) j) := by
  have hflags : (mapElems w (vMask s f)
      (fun j => (op (elemOf w (lineValue s f.a) j) (elemOf w (lineValue s f.b) j), 0))).2 = 0 := by
    apply BitVec.eq_of_getLsbD_eq
    intro k _
    rw [Bool.eq_iff_iff, mapElems_flag]
    simp
  refine ⟨_, hflags ▸ yields_of_vSlot hg h, fun j hj => ?_⟩
  have hlt (v : Line) : elemOf w v j < 2 ^ w := Nat.mod_lt _ (Nat.two_pow_pos w)
  rw [elemOf_mapElems w _ _ j hj, Nat.mod_eq_of_lt (hop _ _ (hlt _) (hlt _))]

end

/-! ## Minima and maxima of floats (R124) -/

section
variable {x y : Num}

theorem Num.lt_self (x : Num) : x.lt x = false := by
  cases x with
  | nan => rfl
  | inf a => cases a <;> rfl
  | fin a m e => rw [Bool.eq_false_iff, ne_eq, lt_fin_iff]; simp

theorem Num.not_lt_of_lt (h : x.lt y = true) : y.lt x = false := by
  cases x with
  | nan => simp [lt] at h
  | inf a => cases y with
    | nan => rfl
    | inf b => cases a <;> cases b <;> simp_all [lt]
    | fin b n k => simpa [lt] using h
  | fin a m e => cases y with
    | nan => rfl
    | inf b => simpa [lt] using h
    | fin b n k =>
      rw [lt_fin_iff] at h
      rw [Bool.eq_false_iff, ne_eq, lt_fin_iff]
      exact h.not_gt

/-- −0 and +0 are equal. -/
theorem Num.not_lt_of_zeros (hx : x.isZero = true) (hy : y.isZero = true) : x.lt y = false := by
  cases x <;> cases y <;> simp_all [isZero]
  rw [Bool.eq_false_iff, ne_eq, lt_fin_iff, ratOf_zero, ratOf_zero]
  simp

/-- The order by which VMIN and VMAX choose: −0 comes before +0. -/
def Num.Before (x y : Num) : Prop := x.lt y = true ∨ (x.isZero = true ∧ y.isZero = true ∧ x.neg? = true)

theorem Num.Before.not_lt (h : x.Before y) : y.lt x = false := by
  rcases h with h | ⟨hx, hy, -⟩
  · exact not_lt_of_lt h
  · exact not_lt_of_zeros hy hx
theorem Num.Before.neg (h : x.Before y) (hx : x.isZero = true) (hy : y.isZero = true) : x.neg? = true := by
  rcases h with h | ⟨-, -, hneg⟩
  · simp [not_lt_of_zeros hx hy] at h
  · exact hneg
theorem Num.not_lt_of_not_before (h : ¬ x.Before y) : x.lt y = false := Bool.eq_false_iff.2 fun hlt => h (.inl hlt)
theorem Num.not_neg_of_not_before (h : ¬ x.Before y) (hx : x.isZero = true) (hy : y.isZero = true) : x.neg? = false :=
  Bool.eq_false_iff.2 fun hneg => h (.inr ⟨hx, hy, hneg⟩)

end

section
variable {F : Format} {a b : Nat}

theorem floatMin_floatMax_of_nan (h : (F.decode a).isNan = true ∨ (F.decode b).isNan = true) :
    floatMin F a b = F.nanBits ∧ floatMax F a b = F.nanBits := ⟨if_pos h, if_pos h⟩
theorem floatMin_floatMax_of_before (h : ¬ ((F.decode a).isNan = true ∨ (F.decode b).isNan = true))
    (hb : (F.decode a).Before (F.decode b)) :
    floatMin F a b = a ∧ floatMax F a b = b := ⟨(if_neg h).trans (if_pos hb), (if_neg h).trans (if_pos hb)⟩
theorem floatMin_floatMax_of_not_before (h : ¬ ((F.decode a).isNan = true ∨ (F.decode b).isNan = true))
    (hb : ¬ (F.decode a).Before (F.decode b)) : floatMin F a b = b ∧ floatMax F a b = a :=
  ⟨(if_neg h).trans (if_neg hb), (if_neg h).trans (if_neg hb)⟩

/-- R124: the choice of the smaller and of the larger of two floats. -/
theorem minOf_floatMin_maxOf_floatMax : MinOf F a b (floatMin F a b) ∧ MaxOf F a b (floatMax F a b) := by
  unfold MinOf MaxOf
  by_cases hnan : (F.decode a).isNan = true ∨ (F.decode b).isNan = true
  · rw [if_pos hnan, if_pos hnan]
    exact floatMin_floatMax_of_nan hnan
  · rw [if_neg hnan, if_neg hnan]
    by_cases hb : (F.decode a).Before (F.decode b)
    · obtain ⟨hmin, hmax⟩ := floatMin_floatMax_of_before hnan hb
      rw [hmin, hmax]
      exact ⟨⟨.inl rfl, Num.lt_self _, hb.not_lt, fun ha hz => by simp [hb.neg ha hz]⟩,
        ⟨.inr rfl, hb.not_lt, Num.lt_self _, fun ha hz => by simp [hb.neg ha hz]⟩⟩
    · obtain ⟨hmin, hmax⟩ := floatMin_floatMax_of_not_before hnan hb
      have hlt := Num.not_lt_of_not_before hb
      rw [hmin, hmax]
      exact ⟨⟨.inr rfl, hlt, Num.lt_self _, fun ha hz => by simp [Num.not_neg_of_not_before hb ha hz]⟩,
        ⟨.inl rfl, Num.lt_self _, hlt, fun ha hz => by simp [Num.not_neg_of_not_before hb ha hz]⟩⟩

end

/-! ## Minima and maxima of elements (R124) -/

section
variable {fmt : Nat} {a b : Nat}

theorem elemMin_elemMax_of_float {F : Format} (h : floatFormat fmt = some F) :
    elemMin fmt a b = floatMin F a b ∧ elemMax fmt a b = floatMax F a b := by
  rw [elemMin, elemMax, h]
  exact ⟨rfl, rfl⟩
theorem signedOf_elemMin_elemMax (h : floatFormat fmt = none) :
    signedOf (fmtWidth fmt) (elemMin fmt a b) = min (signedOf (fmtWidth fmt) a) (signedOf (fmtWidth fmt) b) ∧
      signedOf (fmtWidth fmt) (elemMax fmt a b) = max (signedOf (fmtWidth fmt) a) (signedOf (fmtWidth fmt) b) := by
  rw [elemMin, elemMax, h, min_def, max_def]
  exact ⟨apply_ite .., apply_ite ..⟩

/-- A choice among two elements and the default NaN is an element. -/
theorem elemMin_elemMax_lt (ha : a < 2 ^ fmtWidth fmt) (hb : b < 2 ^ fmtWidth fmt) :
    elemMin fmt a b < 2 ^ fmtWidth fmt ∧ elemMax fmt a b < 2 ^ fmtWidth fmt := by
  cases hF : floatFormat fmt with
  | none =>
    rw [elemMin, elemMax, hF]
    dsimp only
    split <;> exact ⟨by assumption, by assumption⟩
  | some F =>
    have hnan : F.nanBits < 2 ^ fmtWidth fmt := fmtWidth_float hF ▸ Format.nanBits_lt (sound_of_floatFormat hF)
    rw [(elemMin_elemMax_of_float hF).1, (elemMin_elemMax_of_float hF).2]
    unfold floatMin floatMax
    dsimp only
    split
    · exact ⟨hnan, hnan⟩
    · split <;> exact ⟨by assumption, by assumption⟩

end

end Sys2Proof.Machine

namespace Sys2Proof

open Sys2Proof.Machine

/-- The integer formats of Table 2.3 with the width of an element. -/
theorem floatFormat_of_int {n w : Nat} (h : (n, w) ∈ [(4, 32), (5, 16), (6, 8)]) :
    floatFormat n = none ∧ fmtWidth n = w := by
  simp only [List.mem_cons, Prod.mk.injEq, List.not_mem_nil, or_false] at h
  rcases h with ⟨rfl, rfl⟩ | ⟨rfl, rfl⟩ | ⟨rfl, rfl⟩ <;> exact ⟨rfl, rfl⟩

theorem vectorIntegerSums : VectorIntegerSums := by
  intro s f w hg hfmt
  obtain ⟨hnone, rfl⟩ := floatFormat_of_int hfmt
  dsimp only
  simp only [List.forall_mem_cons]
  refine ⟨?_, ?_, ?_, ?_, ?_, ?_, ?_, ?_, fun _ h => absurd h List.not_mem_nil⟩
  · exact yields_arith_int (rd := false) hg hnone (exec_vadd f s) rfl fun _ => rfl
  · exact yields_arith_int (rd := false) hg hnone (exec_vsub f s) rfl fun _ => rfl
  · exact yields_arith_int (rd := false) hg hnone (exec_vmul f s) rfl fun _ => rfl
  · exact yields_arith_int (rd := true) hg hnone (exec_vfma f s) rfl fun _ => rfl
  · exact yields_arith_int (rd := true) hg hnone (exec_vfms f s) rfl fun _ => rfl
  · exact yields_arith_int (rd := false) hg hnone (exec_vdif f s) rfl fun _ => Int.natCast_natAbs _
  · exact yields_arith1_int hg hnone (exec_vabs f s) rfl fun _ => Int.natCast_natAbs _
  · exact yields_arith1_int hg hnone (exec_vneg f s) rfl fun _ => rfl

theorem vectorMinMax : VectorMinMax := by
  intro s f hg
  dsimp only
  obtain ⟨lo, hlo, hloElem⟩ := yields_raw2 (i := .vmin f) hg rfl fun _ _ ha hb => (elemMin_elemMax_lt ha hb).1
  obtain ⟨hi, hhi, hhiElem⟩ := yields_raw2 (i := .vmax f) hg rfl fun _ _ ha hb => (elemMin_elemMax_lt ha hb).2
  obtain ⟨lon, hlon, hlonElem⟩ := yields_raw2 (i := .vminn f) hg rfl fun _ _ ha _ => (Nat.min_le_left _ _).trans_lt ha
  obtain ⟨hin, hhin, hhinElem⟩ := yields_raw2 (i := .vmaxn f) hg rfl fun _ _ ha hb => Nat.max_lt.2 ⟨ha, hb⟩
  refine ⟨lo, hi, lon, hin, hlo, hhi, hlon, hhin, fun j hj =>
    ⟨hlonElem j hj, hhinElem j hj, fun F hF => ?_, fun hF => ?_⟩⟩
  · rw [hloElem j hj, hhiElem j hj, (elemMin_elemMax_of_float hF).1, (elemMin_elemMax_of_float hF).2]
    exact minOf_floatMin_maxOf_floatMax
  · rw [hloElem j hj, hhiElem j hj]
    exact signedOf_elemMin_elemMax hF

/-- Settles O15: the integer forms by the rule of an integer result, the minima and maxima by the order in which −0 comes
before +0. -/
theorem vectorIntegerArithmetic : Obligations.VectorIntegerArithmetic := ⟨vectorIntegerSums, vectorMinMax⟩

end Sys2Proof
end

section
/-!
SUPPORT. What a matrix step makes of a column of weights (R43 to R45, R150, R158).
-/
namespace Sys2Proof.Machine

/-! ## Weights, codes and values of a buffer (R150, R158) -/

section
variable {b : Buffer} (xs : List Num) (n acc : Nat)

theorem Buffer.step_fp8 {e5 : Bool} (h : b.goodShape = .fp8 e5) :
    b.step xs n acc = stepFp8 xs ((List.range 128).map (fun k => (if e5 = true then e5m2 else e4m3).decode
      (elemOf 8 (b.lines.get 0 (2 * k + n / (1024 / 8))) (n % (1024 / 8))))) acc := by
  simp only [step, weight, h, upTo_eq_range]
  cases e5 <;> rfl
theorem Buffer.step_bf16 (h : b.goodShape = .bf16) :
    b.step xs n acc = stepTree 6 xs ((List.range 64).map (fun k => Machine.bf16.decode
      (elemOf 16 (b.lines.get 0 (4 * k + n / (1024 / 16))) (n % (1024 / 16))))) acc := by
  simp only [step, weight, h, upTo_eq_range]
  rfl
theorem Buffer.step_fp32 (h : b.goodShape = .fp32) :
    b.step xs n acc = stepTree 5 xs ((List.range 32).map (fun k => Machine.fp32.decode
      (elemOf 32 (b.lines.get 0 (2 * k + n / (1024 / 32))) (n % (1024 / 32))))) acc := by
  simp only [step, weight, h, upTo_eq_range]
  rfl
theorem Buffer.step_grouped (h : b.goodShape = .grouped) :
    b.step xs n acc = stepGrouped xs ((List.range 512).map (fun k => elemOf 4 (b.lines.get 0 k) n)) (b.value n) acc := by
  simp only [step, h, upTo_eq_range]
  rfl

end

/-! ## The exact sum of finite values (R43) -/

/-- The value of a finite number. -/
def Num.value : Num → ℚ
  | .fin n m e => ratOf n m e
  | .nan | .inf _ => 0

theorem Num.eq_fin_of_isFinite {x : Num} (h : x.isFinite = true) : ∃ n m e, x = .fin n m e := by
  cases x with
  | nan => simp [isFinite] at h
  | inf n => simp [isFinite] at h
  | fin n m e => exact ⟨n, m, e, rfl⟩

theorem Num.add_finite (rnd : Nat) {x y : Num} (hx : x.isFinite = true) (hy : y.isFinite = true) :
    (x.add rnd y).1.isFinite = true ∧ (x.add rnd y).1.value = x.value + y.value := by
  obtain ⟨a, m, e, rfl⟩ := eq_fin_of_isFinite hx
  obtain ⟨b, n, k, rfl⟩ := eq_fin_of_isFinite hy
  obtain ⟨z, p, q, hadd, hval, -⟩ := addFin_exact rnd a b m n e k
  rw [add, hadd]
  exact ⟨rfl, hval⟩

theorem Num.foldl_add_finite (l : List Num) {x : Num} (hx : x.isFinite = true) (hl : ∀ y ∈ l, y.isFinite = true) :
    (l.foldl (fun a b => (a.add 0 b).1) x).isFinite = true ∧
      (l.foldl (fun a b => (a.add 0 b).1) x).value = x.value + (l.map value).sum := by
  induction l generalizing x with
  | nil => simp [hx]
  | cons y l ih =>
    obtain ⟨hfin, hval⟩ := add_finite 0 hx (hl y List.mem_cons_self)
    obtain ⟨hfin', hval'⟩ := ih hfin fun z hz => hl z (List.mem_cons_of_mem _ hz)
    exact ⟨hfin', by rw [List.foldl_cons, hval', hval, List.map_cons, List.sum_cons, add_assoc]⟩

/-- R43: without an infinity and a NaN the sum is exact. -/
theorem exactSum_finite {ps : List (Num × FlagBits)} (h : ∀ p ∈ ps, p.1.isFinite = true) :
    (exactSum ps).1.isFinite = true ∧ (exactSum ps).1.value = (ps.map (fun p => p.1.value)).sum := by
  have hinf (n : Bool) : (ps.map (fun p => p.1)).any (fun x => decide (x = .inf n)) = false := by
    rw [List.any_map, List.any_eq_false]
    intro p hp
    obtain ⟨a, m, e, hfin⟩ := Num.eq_fin_of_isFinite (h p hp)
    simp [hfin]
  have hnan : (ps.map (fun p => p.1)).any Num.isNan = false := by
    rw [List.any_map, List.any_eq_false]
    intro p hp
    obtain ⟨a, m, e, hfin⟩ := Num.eq_fin_of_isFinite (h p hp)
    simp [hfin, Num.isNan]
  unfold exactSum
  simp only [hinf, hnan, Bool.false_and, Bool.false_eq_true, if_false]
  cases ps with
  | nil => exact ⟨rfl, by simp [Num.value, Num.zero]⟩
  | cons p ps =>
    obtain ⟨hfin, hval⟩ := Num.foldl_add_finite (ps.map (fun p => p.1)) (h p List.mem_cons_self) fun y hy => by
      obtain ⟨q, hq, rfl⟩ := List.mem_map.1 hy
      exact h q (List.mem_cons_of_mem _ hq)
    rw [List.map_map] at hval
    exact ⟨hfin, hval⟩

/-! ## The tree of pairs (R44) -/

/-- Node `j` of level `l` of a tree of pairs over leaves. -/
def pairNode {α : Type} (op : α → α → α) (leaf : Nat → α) : Nat → Nat → α
  | 0, j => leaf j
  | l + 1, j => op (pairNode op leaf l (2 * j)) (pairNode op leaf l (2 * j + 1))

section
variable {α : Type} (op : α → α → α)

theorem pairUp_range (n : Nat) (leaf : Nat → α) :
    pairUp op ((List.range (2 * n)).map leaf) = (List.range n).map (pairNode op leaf 1) := by
  induction n generalizing leaf with
  | zero => rfl
  | succ n ih =>
    rw [show 2 * (n + 1) = 2 * n + 1 + 1 by ring, List.range_succ_eq_map, List.range_succ_eq_map, List.range_succ_eq_map]
    simp only [List.map_cons, List.map_map, pairUp]
    rw [ih]
    rfl

theorem pairNode_pairNode (leaf : Nat → α) (l j : Nat) :
    pairNode op (pairNode op leaf 1) l j = pairNode op leaf (l + 1) j := by
  induction l generalizing j with
  | zero => rfl
  | succ l ih => rw [pairNode, ih, ih]; rfl

/-- The tree of pairs over 2^n leaves is its root. -/
theorem tree_range (n : Nat) (leaf : Nat → α) : tree op n ((List.range (2 ^ n)).map leaf) = [pairNode op leaf n 0] := by
  induction n generalizing leaf with
  | zero => rfl
  | succ n ih => rw [tree, Nat.pow_succ', pairUp_range, ih, pairNode_pairNode]

end

theorem map_getD_range {α : Type} (d : α) (l : List α) : (List.range l.length).map (fun i => l[i]?.getD d) = l := by
  apply List.ext_getElem
  · simp
  · intro i h1 h2
    simp at h1
    simp [h1]

/-- R44: a tree step in terms of its nodes. -/
theorem stepTree_eq {levels : Nat} {xs ws : List Num} (acc : Nat) (hx : xs.length = 2 ^ levels) (hw : ws.length = 2 ^ levels) :
    ∃ leaf : Nat → F32, (∀ i x w, xs[i]? = some x → ws[i]? = some w → leaf i = to32 0 (x.mul w)) ∧
      stepTree levels xs ws acc = addNode (acc, 0) (pairNode addNode leaf levels 0) := by
  have hlen : (List.zipWith (fun x w => to32 0 (x.mul w)) xs ws).length = 2 ^ levels := by simp [hx, hw]
  refine ⟨fun i => (List.zipWith (fun x w => to32 0 (x.mul w)) xs ws)[i]?.getD (0, 0), fun i x w h1 h2 => ?_, ?_⟩
  · simp [List.getElem?_zipWith, h1, h2]
  · have htree := tree_range addNode levels fun i => (List.zipWith (fun x w => to32 0 (x.mul w)) xs ws)[i]?.getD (0, 0)
    rw [← hlen, map_getD_range] at htree
    rw [stepTree, htree]

/-! ## The bins of a grouped step (R45) -/

/-- The results of an operation along a sequence, from the left. -/
def runningFold {α : Type} (op : α → α → α) (f : Nat → α) : Nat → α
  | 0 => f 0
  | n + 1 => op (runningFold op f n) (f (n + 1))

theorem foldl_upTo {α : Type} (op : α → α → α) (f : Nat → α) (n k : Nat) :
    ((upTo n (k + 1)).map f).foldl op (runningFold op f k) = runningFold op f (k + n) := by
  induction n generalizing k with
  | zero => rfl
  | succ n ih => exact (ih (k + 1)).trans (congrArg (runningFold op f) (by omega))

/-- The integer a · 2^9 as which a finite activation enters its bin. -/
def Num.binInt : Num → Int
  | .fin n m e => onGrid (-9) n m e
  | .nan | .inf _ => 0

theorem Num.binInt_eq {n : Bool} {m : Nat} {e z : Int} (he : -9 ≤ e) (h : ratOf n m e * 2 ^ (9 : Int) = (z : ℚ)) :
    Num.binInt (.fin n m e) = z := by
  rw [← onGrid_ratOf he, mul_assoc, ← zpow_add₀ two_ne_zero] at h
  exact_mod_cast (by simpa using h : (onGrid (-9) n m e : ℚ) = z)

theorem stepGrouped_of_nan {acts : List Num} (h : .nan ∈ acts) (codes : List Nat) (values : Nat → Num) (acc : Nat) :
    stepGrouped acts codes values acc = (0x7FC00000, 0b00001) :=
  if_pos (List.any_eq_true.2 ⟨.nan, h, rfl⟩)

/-- R45: a grouped step adds the products of the bins in their order. -/
theorem stepGrouped_of_not_nan {acts : List Num} (h : .nan ∉ acts) (codes : List Nat) (values : Nat → Num) (acc : Nat) :
    stepGrouped acts codes values acc =
      addNode (acc, 0) (runningFold addNode (fun g => binProduct (acts.map Num.binInt) codes (values g) g) 15) := by
  have hnan : ¬ acts.any Num.isNan = true := by
    rw [List.any_eq_true]
    rintro ⟨x, hx, hnan⟩
    cases x with
    | nan => exact h hx
    | inf _ => cases hnan
    | fin _ _ _ => cases hnan
  rw [← Nat.zero_add 15, ← foldl_upTo, stepGrouped, if_neg hnan]
  rfl

/-- Activations given by their integers: none is a NaN, and they enter the bins as these integers. -/
theorem map_binInt_eq {acts : List Num} {ints : List Int} (hlen : ints.length = acts.length)
    (h : ∀ (i : Nat) (z : Int), ints[i]? = some z →
      ∃ n m e, acts[i]? = some (.fin n m e) ∧ -9 ≤ e ∧ ratOf n m e * 2 ^ (9 : Int) = (z : ℚ)) :
    .nan ∉ acts ∧ acts.map Num.binInt = ints := by
  constructor
  · intro hnan
    obtain ⟨i, hi, hget⟩ := List.getElem_of_mem hnan
    obtain ⟨n, m, e, hfin, -⟩ := h i ints[i] (List.getElem?_eq_getElem (hlen ▸ hi))
    rw [List.getElem?_eq_getElem hi, hget] at hfin
    cases hfin
  · apply List.ext_getElem
    · simp [hlen]
    · intro i h1 h2
      obtain ⟨n, m, e, hfin, he, hval⟩ := h i ints[i] (List.getElem?_eq_getElem h2)
      obtain ⟨_, hget⟩ := List.getElem?_eq_some_iff.1 hfin
      rw [List.getElem_map, hget, Num.binInt_eq he hval]

section
variable {ints : List Int} {codes : List Nat} {v : Num} {g : Nat}

theorem binProduct_of_empty (h : g ∉ codes) : binProduct ints codes v g = (0, 0) := by
  simp [binProduct, h]
theorem binProduct_of_mem (h : g ∈ codes) :
    (binProduct ints codes v g).1 = (fp32.round 0 false (((Num.ofInt (binSum ints codes g)).scale (-9)).mul v).1).1 := by
  simp [binProduct, h, to32]

theorem binSum_eq_sum : binSum ints codes g = (List.zipWith (fun (z : Int) c => if c = g then z else 0) ints codes).sum :=
  (List.sum_eq_foldl ..).symm

/-- R45: the product of a bin's sum, times 2^-9, with a finite value is exact before it is rounded. -/
theorem binProduct_fin (h : g ∈ codes) (n : Bool) (m : Nat) (e : Int) :
    ∃ z q k, ratOf z q k = (binSum ints codes g : ℚ) * 2 ^ (-9 : Int) * ratOf n m e ∧
      (binProduct ints codes (.fin n m e) g).1 = (fp32.round 0 false (.fin z q k)).1 :=
  ⟨_, _, _, by rw [ratOf_mul, ratOf_natAbs, Int.zero_add], binProduct_of_mem h⟩

theorem num32_round_nan : num32 (fp32.round 0 false .nan).1 = .nan := by decide
theorem num32_round_inf (n : Bool) : num32 (fp32.round 0 false (.inf n)).1 = .inf n := by cases n <;> decide

theorem binProduct_nan (h : g ∈ codes) : num32 (binProduct ints codes .nan g).1 = .nan := by
  rw [binProduct_of_mem h]
  exact num32_round_nan

/-- R45: an infinity times a zero sum is NaN. -/
theorem binProduct_inf (h : g ∈ codes) (n : Bool) : num32 (binProduct ints codes (.inf n) g).1 =
    if binSum ints codes g = 0 then .nan else .inf (n ^^ decide (binSum ints codes g < 0)) := by
  rw [binProduct_of_mem h]
  by_cases hzero : binSum ints codes g = 0
  · rw [if_pos hzero, hzero]
    exact num32_round_nan
  · have hmul : (((Num.ofInt (binSum ints codes g)).scale (-9)).mul (.inf n)).1 =
        .inf (decide (binSum ints codes g < 0) ^^ n) := by
      simp [Num.ofInt, Num.scale, Num.mul, hzero]
    rw [if_neg hzero, hmul, num32_round_inf, Bool.xor_comm]

end

end Sys2Proof.Machine

namespace Sys2Proof

open Sys2Proof.Machine

theorem columnSteps : ColumnSteps := by
  intro b xs n acc
  exact ⟨fun e5 h => Buffer.step_fp8 xs n acc h, fun h => Buffer.step_bf16 xs n acc h, fun h => Buffer.step_fp32 xs n acc h,
    fun h => ⟨b.value n, Buffer.step_grouped xs n acc h, fun _ _ => rfl⟩⟩

theorem fp8Step : Fp8Step := by
  intro ps acc a m e hacc
  obtain ⟨hfin, hval⟩ := exactSum_finite
    (ps := ps.map fun p => Machine.Num.mul (.fin p.1.1 p.1.2.1 p.1.2.2) (.fin p.2.1 p.2.2.1 p.2.2.2)) fun y hy => by
      obtain ⟨p, -, rfl⟩ := List.mem_map.1 hy
      rfl
  obtain ⟨b, n, k, hsum⟩ := Machine.Num.eq_fin_of_isFinite hfin
  obtain ⟨z, p, q, hadd, hadd', -⟩ := addFin_exact 0 a b m n e k
  rw [hsum, List.map_map] at hval
  have hproducts : ratOf b n k = (ps.map fun p => ratOf p.1.1 p.1.2.1 p.1.2.2 * ratOf p.2.1 p.2.2.1 p.2.2.2).sum :=
    hval.trans (congrArg List.sum (List.map_congr_left fun p _ => ratOf_mul ..))
  refine ⟨z, p, q, by rw [hadd', hproducts], ?_⟩
  simp [stepFp8, List.zipWith_map, hsum, hacc, Machine.Num.add, hadd, to32]

theorem treeStep : TreeStep := by
  intro levels xs ws acc hx hw
  obtain ⟨leaf, hleaf, hstep⟩ := stepTree_eq acc hx hw
  refine ⟨fun l j => (pairNode addNode leaf l j).1, fun i x w h1 h2 => ?_, fun _ _ _ _ => rfl, ?_⟩
  · change (leaf i).1 = _
    rw [hleaf i x w h1 h2]
    rfl
  · rw [hstep]
    rfl

theorem groupedStep : GroupedStep := by
  intro acts codes values acc hlen
  refine ⟨fun h => stepGrouped_of_nan h codes values acc, fun ints hints hvals => ?_⟩
  obtain ⟨hnan, hmap⟩ := map_binInt_eq hints hvals
  dsimp only
  simp only [← binSum_eq_sum]
  refine ⟨fun g => (binProduct ints codes (values g) g).1,
    fun g => (runningFold addNode (fun g => binProduct ints codes (values g) g) g).1, fun g _ => ?_, rfl, fun _ _ => rfl, ?_⟩
  · dsimp only
    refine ⟨fun h => congrArg Prod.fst (binProduct_of_empty h),
      fun h => ⟨fun n m e hv => ?_, fun hv => ?_, fun n hv => ?_⟩⟩
    all_goals rw [hv]
    · exact binProduct_fin h n m e
    · exact binProduct_nan h
    · exact binProduct_inf h n
  · rw [stepGrouped_of_not_nan hnan, hmap]
    rfl

/-- Settles O42: where a buffer's lines hold its weights, the exact sum of finite products, the tree of pairs by its nodes,
and the bins of a grouped step. -/
theorem matrixStepValues : Obligations.MatrixStepValues := ⟨columnSteps, fp8Step, treeStep, groupedStep⟩

end Sys2Proof
end

section
/-!
SUPPORT. The step as a whole keeps every closed property (see KeptBase), but for the steps that set the owner, the power
cap or the whole part; and every step keeps the canonical form (log entry 3).
-/
namespace Sys2Proof

open Sys2Proof.Machine

/-- The steps that write the owner, the power cap or every register: power-up and five requests of the mailbox. -/
def Instr.setsOwner : Instr → Bool
  | .powerUp | .onaetClaim _ _ _ | .handover _ _ | .cancel _ | .powerCapWrite _ _ => true
  | _ => false

/-- A slot of a bundle touches neither memory nor queues, as it only adds to the bundle's effects (R17). -/
theorem exec_kept_of_encode {P : Property} {i : Instr} (hi : (encode i).isSome = true) {s : State} (h : Has P s) :
    ResHas P (exec i s) := by
  obtain ⟨es, hexec⟩ := exec_eq_slot hi s
  rw [hexec]
  exact resHas_next _ (State.emit_kept s _ es h)

/-- Every instruction and step keeps a closed property, but for those that set the owner. -/
theorem exec_kept {P : Property} (hP : Closed P) {i : Instr} (hi : i.setsOwner = false) {s : State} (h : Has P s) :
    ResHas P (exec i s) := by
  by_cases hslot : (encode i).isSome = true
  · exact exec_kept_of_encode hslot h
  cases i
  case copyCommandStart => exact execCopyCommandStart_kept hP _ s h
  case copyUnitRead => exact execCopyUnitRead_kept hP _ _ s h
  case copyUnitWritePerformed => exact execCopyUnitWritePerformed_kept hP _ _ _ s h
  case copyCommandComplete => exact execCopyCommandComplete_kept hP _ _ s h
  case readPortFetch => exact execReadPortFetch_kept hP _ _ s h
  case writePortWrite => exact execWritePortWrite_kept hP _ _ s h
  case csaveComplete => exact execCsaveComplete_kept hP _ s h
  case cloadComplete => exact execCloadComplete_kept hP _ s h
  case globalLoadReturn => exact execGlobalLoadReturn_kept hP _ _ _ s h
  case writePerformed => exact execWritePerformed_kept hP _ _ _ _ s h
  case translationWalkDone => exact execTranslationWalkDone_kept hP _ _ s h
  case syncPostPerform => exact execSyncPostPerform_kept hP _ _ _ s h
  case srqEntryEnqueue => exact execSrqEntryEnqueue_kept hP _ _ s h
  case rewindResume => exact execRewindResume_kept hP _ _ s h
  case matrixCommandStart => exact execMatrixCommandStart_kept hP _ _ s h
  case streamReaderLine => exact execStreamReaderLine_kept hP _ _ s h
  case matrixRunStep => exact execMatrixRunStep_kept hP _ s h
  case matrixCommandComplete => exact execMatrixCommandComplete_kept hP _ _ s h
  case ppeCommandStart => exact execPpeCommandStart_kept hP _ s h
  case ppeLineWrite => exact execPpeLineWrite_kept hP _ s h
  case ppeCommandComplete => exact execPpeCommandComplete_kept hP _ s h
  case scaWindowApply => exact execScaWindowApply_kept hP _ s h
  case scaCommandStart => exact execScaCommandStart_kept hP _ s h
  case scaCommandComplete => exact execScaCommandComplete_kept hP _ s h
  case issueCycle => exact execIssueCycle_kept hP _ s h
  case watchdogExpiry => exact execWatchdogExpiry_kept hP _ _ s h
  case engineWatchdogExpiry => exact execEngineWatchdogExpiry_kept hP _ _ s h
  case claimAnswer => exact execClaimAnswer_kept hP _ _ s h
  case snapshotRecordWrite => exact execSnapshotRecordWrite_kept hP _ _ s h
  case contextRestoreDone => exact execContextRestoreDone_kept hP _ _ s h
  case supervisorFault => exact execSupervisorFault_kept hP _ s h
  case launchSlotWrite => exact execLaunchSlotWrite_kept hP _ _ _ _ s h
  case launchCommit => exact execLaunchCommit_kept hP _ _ _ s h
  case queueStatusRead => exact execQueueStatusRead_kept hP _ _ s h
  case eventSet => exact execEventSet_kept hP _ _ _ s h
  case eventClear => exact execEventClear_kept hP _ _ _ s h
  case launchPlacement => exact execLaunchPlacement_kept hP s h
  case launchCompletion => exact execLaunchCompletion_kept hP _ s h
  case supmsg => exact execSupmsg_kept hP _ _ _ s h
  case attestationRequest => exact execAttestationRequest_kept hP _ _ s h
  case keyInstall => exact execKeyInstall_kept hP _ _ _ _ _ s h
  case partitionConfig => exact execPartitionConfig_kept hP _ _ s h
  case cthrWrite => exact execCthrWrite_kept hP _ _ _ s h
  case windowOpen => exact execWindowOpen_kept hP _ _ _ _ _ s h
  case windowRevoke => exact execWindowRevoke_kept hP _ _ s h
  case windowFree => exact execWindowFree_kept hP _ _ s h
  case inboundRequest => exact execInboundRequest_kept hP _ _ _ _ _ s h
  case hostMemoryAccess => exact execHostMemoryAccess_kept hP _ _ _ s h
  case linkRetrain => exact execLinkRetrain_kept hP _ s h
  case linkTrainingComplete => exact execLinkTrainingComplete_kept hP _ s h
  case linkLaneLoss => exact execLinkLaneLoss_kept hP _ s h
  case flitReceive => exact execFlitReceive_kept hP _ _ s h
  case bootGo => exact execBootGo_kept hP _ _ _ s h
  case bootFetch => exact execBootFetch_kept hP _ s h
  case bootVerify => exact execBootVerify_kept hP s h
  case bootMarchTest => exact execBootMarchTest_kept hP _ _ _ s h
  case bootTraining => exact execBootTraining_kept hP _ _ s h
  case bootBringup => exact execBootBringup_kept hP s h
  case layerPowerOn => exact execLayerPowerOn_kept hP _ _ s h
  case layerPowerOff => exact execLayerPowerOff_kept hP _ _ s h
  case sensorSample => exact execSensorSample_kept hP _ _ _ _ s h
  case rfshChange => exact execRfshChange_kept hP _ s h
  case coreSleep => exact execCoreSleep_kept hP _ s h
  case coreWake => exact execCoreWake_kept hP _ s h
  case refreshWindow => exact execRefreshWindow_kept hP _ _ s h
  case bankMigration => exact execBankMigration_kept hP _ _ _ s h
  case repairEntrySwitch => exact execRepairEntrySwitch_kept hP _ s h
  case powerUp | onaetClaim | handover | cancel | powerCapWrite => cases hi
  all_goals exact absurd rfl hslot

/-! ## The canonical form (log entry 3) -/

/-- 'The stores are in canonical form', as a property of the machine's parts. -/
abbrev canonicalForm : Property := fun m q _ _ _ => StoresOk m q

theorem canonical_reset : Canonical State.reset := ⟨rfl, fun _ he => absurd he List.not_mem_nil⟩

/-- Power-up keeps only cells of the memory outside the device, and empties the queues (R301). -/
theorem execPowerUp_canonical {s : State} (h : Canonical s) : ResHas canonicalForm (execPowerUp s) :=
  resHas_next (P := canonicalForm) _ ⟨Memory.wf_filter _ h.1, canonical_reset.2⟩

/-- A mailbox request that sets the owner or the cap leaves memory and queues alone (R292, R308). -/
theorem ownerMail_canonical {s t : State} (host : Nat) (h : Canonical s) (ht : Canonical t) :
    ResHas canonicalForm (ownerMail host s t) :=
  ownerMail_kept closed_storesOk host s t h ht

theorem exec_canonical (i : Instr) {s : State} (h : Canonical s) : ResHas canonicalForm (exec i s) := by
  have hanswer : ∀ (t : State) (host : Nat) (r : Reply), Canonical t → Canonical (t.answer host r) :=
    fun t host r => State.answer_kept closed_storesOk t host r
  cases hi : i.setsOwner with
  | false => exact exec_kept closed_storesOk hi h
  | true =>
    cases i
    case powerUp => exact execPowerUp_canonical h
    case onaetClaim host key sig =>
      refine mailbox_kept closed_storesOk host s _ h ?_
      split
      · exact hanswer _ host _ h
      · exact hanswer _ host _ h
    case handover host hash => exact ownerMail_canonical host h (hanswer _ host _ h)
    case cancel host => exact ownerMail_canonical host h (hanswer _ host _ h)
    case powerCapWrite host watts =>
      refine ownerMail_canonical host h ?_
      split
      · exact hanswer _ host _ h
      · exact hanswer _ host _ h
    all_goals cases hi

/-- What comes next acts on the same stores: only the calendar or the inbox has lost what is taken. -/
theorem State.upcoming_stores {s t : State} {i : Instr} (h : s.upcoming = some (i, t)) :
    t.mem = s.mem ∧ t.queues = s.queues := by
  have hdue : ∀ {p : Instr × State}, s.dueNow = some p → p.2.mem = s.mem ∧ p.2.queues = s.queues := by
    intro p h
    unfold State.dueNow at h
    repeat' split at h
    all_goals cases h
    exact ⟨rfl, rfl⟩
  have hinput : ∀ {p : Instr × State}, s.nextInput = some p → p.2.mem = s.mem ∧ p.2.queues = s.queues := by
    intro p h
    unfold State.nextInput at h
    split at h
    all_goals cases h
    exact ⟨rfl, rfl⟩
  unfold State.upcoming at h
  split at h
  · next hnow =>
    cases h
    exact hdue hnow
  · split at h
    · cases h
      exact ⟨rfl, rfl⟩
    · exact hinput h

/-- Settles O55: the memory and the queues are empty at power-up. -/
theorem canonicalAtReset : Obligations.CanonicalAtReset := canonical_reset

/-- Settles O56: what comes next is an instruction (`exec_canonical`) or the next cycle, which touches no store. -/
theorem canonicalKept : Obligations.CanonicalKept := by
  intro s t hs hstep
  rw [step, State.advance] at hstep
  split at hstep
  case _ i u hup =>
    obtain ⟨hmem, hqueues⟩ := State.upcoming_stores hup
    have hu : Canonical u := by rwa [Canonical, hmem, hqueues]
    have hres := exec_canonical i hu
    rwa [hstep] at hres
  case _ =>
    cases hstep
    exact hs

end Sys2Proof
end

section
/-!
SUPPORT. Special registers (R54, R116, R248, R252, R268, R275, R289): what MFS reads, and which values MTS refuses.
-/
namespace Sys2Proof

open Sys2Proof.Machine

/-- Tables 5.14 and 15.1 list what `readSpecial` answers. -/
theorem readSpecial_of_mem_specials {s : State} {e : Nat × Word} (he : e ∈ specials s) : readSpecial s e.1 = e.2 := by
  have htmask : s.me.tmask.toNat = if s.me.tmask = true then 1 else 0 := by cases s.me.tmask <;> rfl
  simp only [specials, ← htmask, List.mem_cons, List.not_mem_nil, or_false] at he
  rcases he with rfl | rfl | rfl | rfl | rfl | rfl | rfl | rfl | rfl | rfl | rfl | rfl | rfl | rfl | rfl | rfl | rfl | rfl |
    rfl | rfl | rfl | rfl | rfl | rfl | rfl | rfl | rfl <;> rfl

section
variable {s : State} {f : SSlot} (hg : GuardTrue s f.g)
include hg

theorem mfs_does {es : List Effect} (hes : (if 0x20 ≤ specialOf f then privCheck s else []) = es) :
    Does (.mfs f) s (es ++ [cWrite f.d.toNat 2 (readSpecial s (specialOf f))]) :=
  does_of_slot hg rfl (by rw [hes]; rfl)

theorem mts_does (hn : specialOf f ≠ 0x28) {es : List Effect} (hes : (if 0x20 ≤ specialOf f then privCheck s else []) = es) :
    Does (.mts f) s (es ++ [sWrite (specialOf f) (regA s f)]) :=
  does_of_slot hg (if_neg hn) (by rw [hes]; rfl)

/-- A write of context 4 that ILL stops in front of it when its value is refused. -/
theorem refusable_does (hs : s.cur.ctx = 4) {i : Instr} {n : Nat} {v : Word} {refused : Bool}
    (h : exec i s = slot s f.g (privCheck s ++ (if refused then [.trap .ill 0] else []) ++ [sWrite n v])) :
    (refused = false → Does i s [sWrite n v]) ∧ (refused = true → Does i s [.trap .ill 0, sWrite n v]) := by
  rw [privCheck_of_supervisor hs] at h
  refine ⟨fun hr => does_of_slot hg h ?_, fun hr => does_of_slot hg h ?_⟩
  all_goals rw [hr]; rfl

end

/-- R275: an injection into a slot or context that does not exist. -/
theorem injRefused_iff (v : Word) :
    injRefused v = true ↔ v.toNat % 4 = 1 ∧ (6 ≤ v.toNat / 2 ^ 23 % 8 ∨ 4 ≤ v.toNat / 2 ^ 26 % 8) := by
  simp only [injRefused, Bool.and_eq_true, Bool.or_eq_true, decide_eq_true_eq, fieldOf_zero]
  rfl

/-- R268: an entry that does not exist, or reserved bits of its payload. -/
theorem dbgRefused_iff (v : Word) :
    dbgRefused v = true ↔ 12 < v.toNat / 2 ^ 60 ∨ (v.toNat / 2 ^ 60 = 0 ∧ v.toNat / 2 ^ 12 % 2 ^ 16 ≠ 0) ∨
      (1 ≤ v.toNat / 2 ^ 60 ∧ v.toNat / 2 ^ 60 ≤ 8 ∧ v.toNat / 2 ^ 21 % 2 ^ 39 ≠ 0) ∨
      (9 ≤ v.toNat / 2 ^ 60 ∧ v.toNat / 2 ^ 60 ≤ 12 ∧ v.toNat / 2 ^ 42 % 2 ^ 18 ≠ 0) := by
  simp only [dbgRefused, Bool.or_eq_true, Bool.and_eq_true, decide_eq_true_eq, or_assoc, and_assoc]
  rw [fieldOf_60]
  rfl

theorem specialReads : SpecialReads := by
  intro s f hg e he hn
  have hnum : specialOf f = e.1 := by rwa [specialOf, fieldOf_zero]
  have hval : readSpecial s (specialOf f) = e.2 := by rw [hnum, readSpecial_of_mem_specials he]
  rw [← hval, ← hnum]
  refine ⟨fun h => mfs_does hg (es := []) ?_, fun h hu => mfs_does hg (es := [.trap .priv 0]) ?_⟩
  · split
    · exact privCheck_of_supervisor (h.resolve_left (by omega))
    · rfl
  · rw [if_pos h, privCheck_of_user hu]

theorem specialWrites : SpecialWrites := by
  intro s f hg v n
  have hnum : specialOf f = n := fieldOf_zero f.imm 8
  refine ⟨fun hn => ?user, fun hn hu => (mts_checksPrivilege f s (by rwa [hnum])).raises hg hu, does_of_slot hg rfl rfl,
    fun hs => ⟨fun hn => ?super, fun hn => ?dbg, ?dismiss, ?troot, ?snapTaken, ?snapRefused, ?inj, ?dbgValues⟩⟩
  case user =>
    rw [← hnum] at hn ⊢
    exact mts_does hg (by omega) (es := []) (if_neg (by omega))
  case super =>
    rw [← hnum] at hn ⊢
    exact mts_does hg hn (es := []) (by rw [privCheck_of_supervisor hs, ite_self])
  case dbg => exact if_pos (hnum.trans hn)
  case dismiss => exact does_of_slot hg rfl (by rw [privCheck_of_supervisor hs]; rfl)
  case troot => exact does_of_slot hg rfl (by rw [privCheck_of_supervisor hs]; rfl)
  case snapTaken => exact (refusable_does hg hs rfl).1
  case snapRefused => exact (refusable_does hg hs rfl).2
  case inj =>
    obtain ⟨htaken, hrefused⟩ := refusable_does (f := f) hg hs (i := .injWrite f) (v := v) (refused := injRefused v) rfl
    rw [← Bool.not_eq_true, injRefused_iff] at htaken
    rw [injRefused_iff] at hrefused
    exact ⟨htaken, hrefused⟩
  case dbgValues =>
    intro sel bad i hi
    have hexec : exec i s = writeDbgSlot f s := by
      simp only [List.mem_cons, List.not_mem_nil, or_false] at hi
      rcases hi with rfl | rfl | rfl <;> rfl
    obtain ⟨htaken, hrefused⟩ := refusable_does (f := f) hg hs (v := v) (refused := dbgRefused v) hexec
    rw [← Bool.not_eq_true, dbgRefused_iff] at htaken
    rw [dbgRefused_iff] at hrefused
    exact ⟨htaken, hrefused⟩

/-- Settles O10: Tables 5.14 and 15.1 row by row, and the values that `snapRefused`, `injRefused` and `dbgRefused` name. -/
theorem specialRegisters : Obligations.SpecialRegisters := ⟨specialReads, specialWrites⟩

end Sys2Proof
end

section
/-!
SUPPORT. What an L slot finds at a line, a bank and a tile line (R47, R51, R58, R61, R75, R83, R135).
-/
namespace Sys2Proof

open Sys2Proof.Machine

/-! ## Addresses (R47, R135) -/

theorem atFlat_inside {a : Nat} (ha : a < 0x300000) (k : Nat → List Effect) : atFlat (a : Int) k = k a :=
  if_pos (decide_eq_true ⟨Int.natCast_nonneg a, Int.ofNat_lt.mpr ha⟩)
theorem atFlat_outside {flat : Int} (h : flat < 0 ∨ 0x300000 ≤ flat) (k : Nat → List Effect) :
    atFlat flat k = [.trap .brange (BitVec.ofInt 64 flat)] := by
  have hout : inScratch flat = false := decide_eq_false (by simp only [Config.flatLines]; omega)
  simp [atFlat, brange, hout]
theorem bankOf_immFlat (f : LSlot) : bankOf (immFlat f) = f.bank.toNat := by
  have := f.line.isLt
  simp only [bankOf, immFlat, Config.bankLines]
  omega

/-! ## Lines and banks (R51, R58, R61, R83) -/

theorem ownerCheck_of_owns {s : State} {a : Nat} (h : s.here.owns s.cur.ctx (a / 8192) = true) : ownerCheck s a = [] := if_pos h
theorem refreshWait_of_none {s : State} {a w : Nat} (h : s.here.refreshEnd (a / 8192) s.cyc w = none) : refreshWait s a w = [] :=
  if_neg (by rw [bankOf, Config.bankLines, h]; decide)
theorem busyCheck_of_free {s : State} {a : Nat} (h : (s.here.bank (a / 8192)).busyUntil ≤ s.cyc) : busyCheck s a = [] :=
  if_neg fun hbusy => absurd (of_decide_eq_true hbusy) (Nat.not_lt.mpr h)
theorem shadowCheck_of_unshadowed {s : State} {a : Nat} (h : (s.here.bank (a / 8192)).shadowed a = false) : shadowCheck s a = [] :=
  if_neg (by rw [bankOf, Config.bankLines, h]; decide)

theorem isFast_iff (a : Nat) : isFast a = true ↔ a % 8192 < 0x400 := decide_eq_true_iff
theorem busyTime_eq (a : Nat) : busyTime a = busyFor a := if_congr (isFast_iff a) rfl rfl
theorem loadLatency_eq (a : Nat) : loadLatency a = if a % 8192 < 0x400 then 6 else 18 := if_congr (isFast_iff a) rfl rfl

/-- A ready bank is occupied, and no more. -/
theorem bankAccess_of_ready {s : State} {a w : Nat} (h : BankReady s a w) : bankAccess s a w = [.occupy (bankOf a) w] := by
  obtain ⟨howns, hfree, hrefresh⟩ := h
  rw [bankAccess, ownerCheck_of_owns howns, busyCheck_of_free hfree, refreshWait_of_none hrefresh]
  rfl
/-- A ready line is accessed, and no more. -/
theorem lineAccess_of_ready {s : State} {a : Nat} (h : LineReady s a) (write : Bool) :
    lineAccess s a write = [.access a write (busyFor a)] := by
  obtain ⟨-, ⟨howns, hfree, hrefresh⟩, hshadow⟩ := h
  rw [lineAccess, busyTime_eq, ownerCheck_of_owns howns, shadowCheck_of_unshadowed hshadow, busyCheck_of_free hfree,
    refreshWait_of_none hrefresh]
  rfl

/-! ## Tile lines (R75, R140, R164) -/

theorem tileChecks_of_ready {s : State} {v : BitVec 14} (h : TileReady s v) : tileChecks s v = [] := by
  obtain ⟨t, ht, hcount, htile, hline, -⟩ := h
  simp [tileChecks, ht, hcount, htile, hline]
theorem tileDamage_of_ready {s : State} {v : BitVec 14} (h : TileReady s v) : tileDamage s v = [] := by
  obtain ⟨t, ht, -, -, -, hrows⟩ := h
  simp [tileDamage, ht, hrows]
/-- A tile line that is ready brings no wait, and its value is that of its rows. -/
theorem lineChecks_of_ready {s : State} {v : BitVec 14} (h : TileReady s v) :
    lineChecks s v = [] ∧ lineValue s v = tileValue s v := by
  obtain ⟨t, ht, -⟩ := id h
  have hchecks : tileChecks s v ++ tileDamage s v = [] := by rw [tileChecks_of_ready h, tileDamage_of_ready h]; rfl
  cases hv : operandOf v <;> rw [hv] at ht
  case row | col | diag => simp only [lineChecks, lineValue, hv, hchecks, and_self]
  all_goals cases ht

/-! ## Loads (R136, R137, R219) -/

theorem loadResult_eq (s : State) (a : Nat) (d : Dest) (lat : Nat) (v : Line) : loadResult s a d lat v = loads s a d lat v := by
  unfold loadResult loads
  cases s.readMark s.cur.core a <;> rfl
theorem readFlat_toNat (s : State) (c a : Nat) : (s.readFlat c a).toNat = s.mem.load (spAddr c a) 128 := by
  rw [State.readFlat, State.loadLine, BitVec.toNat_ofNat, Nat.mod_eq_of_lt (pow_bytes_line ▸ Memory.load_lt ..)]
/-- An element of at most a line's width, as it stands in a line. -/
theorem toNat_ofNat_elemOf {w : Nat} (hw : w ≤ 1024) (v : Line) (i : Nat) :
    (BitVec.ofNat 1024 (elemOf w v i)).toNat = v.toNat / 2 ^ (w * i) % 2 ^ w := by
  have hlt : elemOf w v i < 2 ^ 1024 := lt_of_lt_of_le (Nat.mod_lt _ (Nat.two_pow_pos w)) (Nat.pow_le_pow_right (by omega) hw)
  rw [BitVec.toNat_ofNat, Nat.mod_eq_of_lt hlt, elemOf]

end Sys2Proof
end

section
/-!
SUPPORT. LD, LDX, ST, STX, LDS, STS and ELD (R135, R136): what each transfers, and what stops or delays it.
-/
namespace Sys2Proof

open Sys2Proof.Machine

section
variable {s : State} {f : LSlot} {a : Nat} (hg : GuardTrue s f.g)
include hg

/-- An instruction of an L slot does the effects that its meaning gathers. -/
theorem does_of_lslot {i : Instr} {es es' : List Effect} (h : exec i s = slot s f.g es') (he : es' = es) : Does i s es :=
  does_of_exec hg (he ▸ h)

section
variable (ha : LineReady s a)
include ha

theorem loadLine_does (ht : TileReady s f.opnd) {i : Instr} {flat : Int} (hflat : flat = a) (h : exec i s = loadLine f flat s) :
    Does i s [.access a false (busyFor a), loads s a (.tile f.opnd) (loadLatency a) (s.readFlat s.cur.core a)] := by
  subst hflat
  refine does_of_lslot hg h ?_
  rw [tileChecks_of_ready ht, atFlat_inside ha.1, lineAccess_of_ready ha, loadResult_eq]
  rfl
theorem storeTile_does (ht : TileReady s f.opnd) {i : Instr} {flat : Int} (hflat : flat = a) (h : exec i s = storeTile f flat s) :
    Does i s [.access a true (busyFor a), .storeLine a (lineValue s f.opnd)] := by
  subst hflat
  obtain ⟨hchecks, hvalue⟩ := lineChecks_of_ready ht
  refine does_of_lslot hg h ?_
  rw [hchecks, hvalue, atFlat_inside ha.1, lineAccess_of_ready ha]
  rfl
theorem lds_does (hflat : immLine f = a) : Does (.lds f) s [.access a false (busyFor a), loads s a (.creg f.c.toNat) (loadLatency a)
    (BitVec.ofNat 1024 (elemOf 64 (s.readFlat s.cur.core a) f.flags.toNat))] := by
  subst hflat
  refine does_of_lslot hg rfl ?_
  rw [show immFlat f = immLine f from rfl, atFlat_inside ha.1, lineAccess_of_ready ha, loadResult_eq]
  rfl
theorem eld_does (hflat : immLine f = a) : Does (.eld f) s [.access a false (busyFor a), loads s a (.ereg f.opnd.toNat) (loadLatency a)
    (BitVec.ofNat 1024 (elemOf 256 (s.readFlat s.cur.core a) f.flags.toNat))] := by
  subst hflat
  refine does_of_lslot hg rfl ?_
  rw [show immFlat f = immLine f from rfl, atFlat_inside ha.1, lineAccess_of_ready ha, loadResult_eq]
  rfl
theorem sts_does (hflat : immLine f = a) (hread : ∀ cw, s.readMark s.cur.core a ≠ .uncorrectable cw) :
    Does (.sts f) s [.access a true (busyFor a), .storeWord a f.flags.toNat (s.me.readC f.c.toNat)] := by
  subst hflat
  refine does_of_lslot hg rfl ?_
  have hstore : ∀ w v, storeWordEffect s (immLine f) w v = [.storeWord (immLine f) w v] := by
    intro w v
    unfold storeWordEffect
    split
    · next cw hcw => exact absurd hcw (hread cw)
    · rfl
    · rfl
    · rfl
  rw [show immFlat f = immLine f from rfl, atFlat_inside ha.1, lineAccess_of_ready ha, hstore]
  rfl

end
end

theorem scratchpadTransfers : ScratchpadTransfers := by
  intro s f a hg ha lat line w
  have hlat : loadLatency a = lat := loadLatency_eq a
  rw [← hlat]
  refine ⟨fun ht => ⟨fun h => ⟨?ld, ?st⟩, fun h => ⟨?ldx, ?stx⟩⟩, fun h => ⟨fun _ => ⟨_, lds_does hg ha h, ?word⟩, sts_does hg ha h,
    fun _ => ⟨_, eld_does hg ha h, ?half⟩⟩⟩
  case ld => exact loadLine_does hg ha ht (congrArg Nat.cast h) rfl
  case st => exact storeTile_does hg ha ht (congrArg Nat.cast h) rfl
  case ldx => exact loadLine_does hg ha ht h rfl
  case stx => exact storeTile_does hg ha ht h rfl
  case word => rw [toNat_ofNat_elemOf (by decide), readFlat_toNat]
  case half => rw [toNat_ofNat_elemOf (by decide), readFlat_toNat]

/-- Among what an instruction does there is an effect. -/
def DoesAmong (i : Instr) (s : State) (e : Effect) : Prop := ∃ es es', Does i s (es ++ e :: es')

section
variable {s : State} {f : LSlot} (hg : GuardTrue s f.g)
include hg

theorem doesAmong_of_mem {i : Instr} {es : List Effect} {e : Effect} (h : exec i s = slot s f.g es) (he : e ∈ es) :
    DoesAmong i s e := by
  obtain ⟨es₁, es₂, rfl⟩ := List.append_of_mem he
  exact ⟨es₁, es₂, does_of_exec hg h⟩

/-- R47: an instruction that acts at an address raises BRANGE for one outside. -/
theorem brange_of_outside {i : Instr} {es : List Effect} {flat : Int} {k : Nat → List Effect}
    (hflat : flat < 0 ∨ 0x300000 ≤ flat) (h : exec i s = slot s f.g es) (hes : atFlat flat k <:+ es) :
    DoesAmong i s (.trap .brange (BitVec.ofInt 64 flat)) := by
  refine doesAmong_of_mem hg h (hes.subset ?_)
  rw [atFlat_outside hflat]
  exact List.mem_singleton_self _

/-- R51, R58, R83, R61: what an access finds at its line is among what it does. -/
theorem lineAccess_among {i : Instr} {es : List Effect} {flat : Int} {write : Bool} {more : Nat → List Effect} {a : Nat}
    (ha : a < 0x300000) (hflat : flat = a) (h : exec i s = slot s f.g es)
    (hes : atFlat flat (fun a => lineAccess s a write ++ more a) <:+ es) :
    (s.here.owns s.cur.ctx (a / 8192) = false → DoesAmong i s (.trap .bown (BitVec.ofNat 64 a))) ∧
    ((s.here.bank (a / 8192)).shadowed a = true → DoesAmong i s (.trap .shad (BitVec.ofNat 64 a))) ∧
    (s.cyc < (s.here.bank (a / 8192)).busyUntil → DoesAmong i s (.trap .bank (BitVec.ofNat 64 a))) ∧
    ((s.here.refreshEnd (a / 8192) s.cyc (busyFor a)).isSome = true → DoesAmong i s (.wait 6 none)) := by
  subst hflat
  rw [atFlat_inside ha] at hes
  have among : ∀ {e}, e ∈ lineAccess s a write → DoesAmong i s e :=
    fun he => doesAmong_of_mem hg h (hes.subset (List.mem_append_left _ he))
  refine ⟨fun hown => among ?_, fun hshadow => among ?_, fun hbusy => among ?_, fun hrefresh => among ?_⟩
  all_goals simp [lineAccess, ownerCheck, shadowCheck, busyCheck, refreshWait, Bank.busyAt, bankOf, flatWord, Config.bankLines,
    busyTime_eq, *]

end

theorem scratchpadRefusals : ScratchpadRefusals := by
  intro s f hg holds
  refine ⟨fun hout i hi => ?imm, fun hout i hi => ?reg, fun a ha i hi => ?access⟩
  case imm =>
    have hflat : (immFlat f : Int) < 0 ∨ 0x300000 ≤ (immFlat f : Int) := .inr (Int.ofNat_le.mpr hout)
    rw [← BitVec.ofInt_natCast]
    simp only [List.mem_cons, List.not_mem_nil, or_false] at hi
    rcases hi with rfl | rfl | rfl | rfl | rfl | rfl | rfl | rfl | rfl | rfl | rfl | rfl
    case inl | inr.inl => exact brange_of_outside hg hflat rfl (List.suffix_append ..)
    all_goals exact brange_of_outside hg hflat rfl List.suffix_rfl
  case reg =>
    simp only [List.mem_cons, List.not_mem_nil, or_false] at hi
    rcases hi with rfl | rfl <;> exact brange_of_outside hg hout rfl (List.suffix_append ..)
  case access =>
    rcases List.mem_append.mp hi with hi | hi
    · obtain ⟨hi, hflat⟩ := List.mem_filter.mp hi
      have hflat : (immFlat f : Int) = a := congrArg Nat.cast (of_decide_eq_true hflat)
      simp only [List.mem_cons, List.not_mem_nil, or_false] at hi
      rcases hi with rfl | rfl | rfl | rfl | rfl
      case inl | inr.inl => exact lineAccess_among hg ha hflat rfl (List.suffix_append ..)
      all_goals exact lineAccess_among hg ha hflat rfl List.suffix_rfl
    · obtain ⟨hi, hflat⟩ := List.mem_filter.mp hi
      have hflat : regFlat s f = a := of_decide_eq_true hflat
      simp only [List.mem_cons, List.not_mem_nil, or_false] at hi
      rcases hi with rfl | rfl <;> exact lineAccess_among hg ha hflat rfl (List.suffix_append ..)

/-- Settles O22: the transfers at a ready line, and each check of `lineAccess` among what an access does. -/
theorem scratchpad : Obligations.Scratchpad := ⟨scratchpadTransfers, scratchpadRefusals⟩

end Sys2Proof
end

section
/-!
SUPPORT. PROM, DEMO, TLK and TPIN (R54 to R56, R138), and the slot that AUTO chooses.
-/
namespace Sys2Proof

open Sys2Proof.Machine

/-! ## The slot that AUTO chooses (R55) -/

/-- The slot at step `i` of AUTO's walk. -/
def autoStep (b : Bank) (pwin i : Nat) : Nat := pwin + (Nat.max b.nv pwin - pwin + i) % (128 - pwin)

theorem autoVictim_eq (b : Bank) (pwin : Nat) : autoVictim b pwin =
    (findFrom (fun i => !(b.tag (autoStep b pwin i)).pin) (128 - pwin) 0).map (autoStep b pwin) := rfl

section
variable {b : Bank} {pwin : Nat} (hpwin : pwin ≤ 128) (hnv : b.nv ≤ 127)
include hpwin hnv

/-- The walk goes up from max(NV, PWIN) to 127 and then from PWIN on. -/
theorem autoStep_of_lt {i : Nat} (hi : i < 128 - pwin) : autoStep b pwin i =
    if max b.nv pwin + i < 128 then max b.nv pwin + i else max b.nv pwin + i - 128 + pwin := by
  have hmax : Nat.max b.nv pwin = max b.nv pwin := rfl
  rw [autoStep, hmax]
  split
  · rw [Nat.mod_eq_of_lt (by omega)]
    omega
  · rw [Nat.mod_eq_sub_mod (by omega), Nat.mod_eq_of_lt (by omega)]
    omega
/-- Every slot from PWIN on is met, at the step that is its distance from the walk's start. -/
theorem exists_autoStep {u : Nat} (hlo : pwin ≤ u) (hhi : u < 128) : ∃ i, i < 128 - pwin ∧ autoStep b pwin i = u ∧
    i = if max b.nv pwin ≤ u then u - max b.nv pwin else 128 - max b.nv pwin + (u - pwin) := by
  refine ⟨_, ?_, ?_, rfl⟩
  · split <;> omega
  · rw [autoStep_of_lt hpwin hnv (by split <;> omega)]
    repeat' split
    all_goals omega

theorem autoVictim_eq_none : autoVictim b pwin = none ↔ ∀ v, pwin ≤ v → v < 128 → (b.tag v).pin = true := by
  simp only [autoVictim_eq, Option.map_eq_none_iff, findFrom_eq_none, Bool.not_eq_false', Nat.zero_add]
  constructor
  · intro h v hlo hhi
    obtain ⟨i, hi, rfl, -⟩ := exists_autoStep hpwin hnv hlo hhi
    exact h i (Nat.zero_le i) hi
  · intro h i _ hi
    have hstep := autoStep_of_lt hpwin hnv hi
    refine h _ ?_ ?_ <;> split at hstep <;> omega

theorem autoVictim_eq_some {v : Nat} (h : autoVictim b pwin = some v) : pwin ≤ v ∧ v < 128 ∧ (b.tag v).pin = false ∧
    (max b.nv pwin ≤ v → ∀ u, max b.nv pwin ≤ u → u < v → (b.tag u).pin = true) ∧
    (v < max b.nv pwin → (∀ u, max b.nv pwin ≤ u → u < 128 → (b.tag u).pin = true) ∧
      ∀ u, pwin ≤ u → u < v → (b.tag u).pin = true) := by
  rw [autoVictim_eq, Option.map_eq_some_iff] at h
  obtain ⟨i, hfind, rfl⟩ := h
  obtain ⟨-, hi, hpin, hbefore⟩ := findFrom_eq_some.mp hfind
  rw [Nat.zero_add] at hi
  have hstep := autoStep_of_lt hpwin hnv hi
  have pinned : ∀ u, pwin ≤ u → u < 128 →
      (if max b.nv pwin ≤ u then u - max b.nv pwin else 128 - max b.nv pwin + (u - pwin)) < i → (b.tag u).pin = true := by
    intro u hlo hhi hlt
    obtain ⟨j, -, rfl, hj⟩ := exists_autoStep hpwin hnv hlo hhi
    simpa using hbefore j (Nat.zero_le j) (hj ▸ hlt)
  have pinned_up : ∀ u, max b.nv pwin ≤ u → u < 128 → u - max b.nv pwin < i → (b.tag u).pin = true :=
    fun u hlo hhi hlt => pinned u (by omega) hhi (by rw [if_pos hlo]; exact hlt)
  have pinned_down : ∀ u, pwin ≤ u → u < max b.nv pwin → 128 - max b.nv pwin + (u - pwin) < i → (b.tag u).pin = true :=
    fun u hlo hhi hlt => pinned u hlo (by omega) (by rw [if_neg (by omega)]; exact hlt)
  refine ⟨?_, ?_, by simpa using hpin, fun hup u hlo hlt => pinned_up u hlo ?_ ?_,
    fun hdown => ⟨fun u hlo hhi => pinned_up u hlo hhi ?_, fun u hlo hlt => pinned_down u hlo ?_ ?_⟩⟩
  all_goals split at hstep <;> omega

end

theorem autoPromotionSlot : AutoPromotionSlot := fun _ _ hpwin hnv =>
  ⟨autoVictim_eq_none hpwin hnv, fun _ => autoVictim_eq_some hpwin hnv⟩

/-! ## The instructions (R138) -/

section
variable {s : State} {f : LSlot} (hg : GuardTrue s f.g) (hin : immLine f < 0x300000)
include hg hin

/-- An instruction that acts at the address of its slot. -/
theorem atImmLine_does {i : Instr} {k : Nat → List Effect} {es : List Effect}
    (h : exec i s = slot s f.g (atFlat (immFlat f) k)) (hk : k (immFlat f) = es) : Does i s es :=
  does_of_lslot hg h ((atFlat_inside hin k).trans hk)

theorem prom_hit {n : Nat} (hslot : (s.here.bank f.bank.toNat).findSlot (f.line.toNat % 2 ^ 10) = some n)
    (hrow : 128 ≤ f.line.toNat % 2 ^ 10) (hbank : BankReady s (immLine f) 4) :
    Does (.prom f) s [.occupy f.bank.toNat 4, .promHit f.bank.toNat] := by
  refine atImmLine_does hg hin rfl ?_
  simp only [bankOf_immFlat, fieldOf_zero, if_neg (Nat.not_lt.mpr hrow), hslot, Option.isSome_some, if_true,
    bankAccess_of_ready (show BankReady s (immFlat f) 4 from hbank)]
  rfl

section
variable (hslot : (s.here.bank f.bank.toNat).findSlot (f.line.toNat % 2 ^ 10) = none) (hrow : 128 ≤ f.line.toNat % 2 ^ 10)
include hslot hrow

theorem prom_named (hauto : f.opnd.getLsbD 7 = false) (hpwin : s.me.pwin ≤ f.opnd.toNat % 2 ^ 7) {w : Nat}
    (hw : promCost ((s.here.bank f.bank.toNat).tag (f.opnd.toNat % 2 ^ 7)) = w) (hbank : BankReady s (immLine f) w) :
    Does (.prom f) s [.occupy f.bank.toNat w, .prom f.bank.toNat (f.opnd.toNat % 2 ^ 7) (f.line.toNat % 2 ^ 10) none] := by
  refine atImmLine_does hg hin rfl ?_
  simp only [bankOf_immFlat, fieldOf_zero, bitOf_eq_getLsbD, if_neg (Nat.not_lt.mpr hrow), hslot, hauto, Option.isSome_none,
    Bool.false_eq_true, if_false, if_neg (Nat.not_lt.mpr hpwin), promInto, hw,
    bankAccess_of_ready (show BankReady s (immFlat f) w from hbank)]
  rfl
theorem prom_auto (hauto : f.opnd.getLsbD 7 = true) {v : Nat} (hv : autoVictim (s.here.bank f.bank.toNat) s.me.pwin = some v) {w : Nat}
    (hw : promCost ((s.here.bank f.bank.toNat).tag v) = w) (hbank : BankReady s (immLine f) w) :
    Does (.prom f) s [.occupy f.bank.toNat w,
      .prom f.bank.toNat v (f.line.toNat % 2 ^ 10) (some (if v = 127 then s.me.pwin else v + 1))] := by
  refine atImmLine_does hg hin rfl ?_
  simp only [bankOf_immFlat, fieldOf_zero, bitOf_eq_getLsbD, if_neg (Nat.not_lt.mpr hrow), hslot, hauto, Option.isSome_none,
    Bool.false_eq_true, if_false, if_true, hv, promInto, hw,
    bankAccess_of_ready (show BankReady s (immFlat f) w from hbank)]
  rfl

end

/-- R55: a row that is always fast, an AUTO without a slot, and a slot below PWIN are refused. -/
theorem prom_refused (howns : s.here.owns s.cur.ctx f.bank.toNat = true)
    (h : f.line.toNat % 2 ^ 10 < 128 ∨ ((s.here.bank f.bank.toNat).findSlot (f.line.toNat % 2 ^ 10) = none ∧
      (f.opnd.getLsbD 7 = true → autoVictim (s.here.bank f.bank.toNat) s.me.pwin = none) ∧
      (f.opnd.getLsbD 7 = false → f.opnd.toNat % 2 ^ 7 < s.me.pwin))) :
    Does (.prom f) s [.trap .shad (BitVec.ofNat 64 (immLine f))] := by
  have howner : ownerCheck s (immFlat f) = [] := ownerCheck_of_owns (by rwa [← bankOf_immFlat f] at howns)
  refine atImmLine_does hg hin rfl ?_
  simp only [bankOf_immFlat, fieldOf_zero, bitOf_eq_getLsbD, howner, List.nil_append]
  by_cases hrow : f.line.toNat % 2 ^ 10 < 128
  · rw [if_pos hrow]
    rfl
  · obtain ⟨hslot, hauto, hnamed⟩ := h.resolve_left hrow
    rw [if_neg hrow, hslot, if_neg (by decide)]
    cases hbit : f.opnd.getLsbD 7 with
    | true =>
      rw [if_pos rfl, hauto hbit]
      rfl
    | false =>
      rw [if_neg (by decide), if_pos (hnamed hbit)]
      rfl

theorem demo_does {w : Nat}
    (hw : (if ((s.here.bank f.bank.toNat).tag (f.opnd.toNat % 2 ^ 7)).valid = true ∧
      ((s.here.bank f.bank.toNat).tag (f.opnd.toNat % 2 ^ 7)).dirty = true then 40 else 4) = w) (hbank : BankReady s (immLine f) w) :
    Does (.demo f) s [.occupy f.bank.toNat w, .demo f.bank.toNat (f.opnd.toNat % 2 ^ 7)] := by
  refine atImmLine_does hg hin rfl ?_
  simp only [bankOf_immFlat, fieldOf_zero, hw, bankAccess_of_ready (show BankReady s (immFlat f) w from hbank)]
  rfl

section
variable (howns : s.here.owns s.cur.ctx f.bank.toNat = true) (hrefresh : s.here.refreshEnd f.bank.toNat s.cyc 1 = none)
include howns hrefresh

theorem tlk_does {v : Word} (hv : tagLookup (s.here.bank f.bank.toNat) (f.line.toNat % 2 ^ 10) = v) :
    Does (.tlk f) s [cWrite f.c.toNat 2 v] := by
  rw [← bankOf_immFlat f] at howns hrefresh
  refine atImmLine_does hg hin rfl ?_
  rw [ownerCheck_of_owns howns, refreshWait_of_none hrefresh, bankOf_immFlat, fieldOf_zero, hv]
  rfl
theorem tpin_does : Does (.tpin f) s [.tpin f.bank.toNat (f.opnd.toNat % 2 ^ 7) (f.flags.getLsbD 0)] := by
  rw [← bankOf_immFlat f] at howns hrefresh
  refine atImmLine_does hg hin rfl ?_
  rw [ownerCheck_of_owns howns, refreshWait_of_none hrefresh, bankOf_immFlat, fieldOf_zero]
  rfl

end
end

theorem tagLookup_found {b : Bank} {r n : Nat} (h : b.findSlot r = some n) (hr : 128 ≤ r) : tagLookup b r = BitVec.ofNat 64 n := by
  simp [tagLookup, h, hr]
/-- R138: −1 for a row that no valid slot holds, and for a row outside the slow rows. -/
theorem tagLookup_missing {b : Bank} {r : Nat} (h : b.findSlot r = none ∨ r < 128) : tagLookup b r = BitVec.allOnes 64 := by
  unfold tagLookup
  split
  · next n hn => exact if_neg (Nat.not_le.mpr (h.resolve_left (by simp [hn])))
  · rfl

theorem promotion : Promotion := by
  intro s f hg hin b k srow slot dirty
  refine ⟨fun n hslot hrow => ⟨prom_hit hg hin hslot hrow, fun howns hrefresh => tlk_does hg hin howns hrefresh (tagLookup_found hslot hrow)⟩,
    fun h howns hrefresh => tlk_does hg hin howns hrefresh (tagLookup_missing h),
    fun hslot hrow hauto hpwin => ?named, fun hslot hrow hauto v hv => ?auto, prom_refused hg hin, demo_does hg hin rfl, tpin_does hg hin⟩
  case named => exact prom_named hg hin hslot hrow hauto hpwin rfl
  case auto => exact prom_auto hg hin hslot hrow hauto hv rfl

/-- Settles O23: the branches of PROM, the lookup of TLK, and AUTO's walk of the slots from PWIN on (`autoStep_of_lt`). -/
theorem promotionForms : Obligations.PromotionForms := ⟨promotion, autoPromotionSlot⟩

end Sys2Proof
end

section
/-!
SUPPORT. BOWN and BQRY (R51, R147, R148): which owner a code names, and who may give a bank to whom.
-/
namespace Sys2Proof

open Sys2Proof.Machine

theorem fieldOf_kind (v : BitVec 16) : fieldOf v 12 4 = v.toNat / 4096 := by
  have := v.isLt
  simp only [fieldOf]
  omega

/-- A port whose holder is a context of the launch. -/
def PortOfLaunch (s : State) (n : Nat) : Prop := ∃ h, (s.here.port n).holder = some h ∧ (s.here.ctx h).launch = s.me.launch

theorem mayGiveTo_iff (s : State) (v : BitVec 16) : mayGiveTo s v = true ↔
    (v.toNat / 4096 = 1 ∧ v.toNat / 256 % 16 < 4 ∧ (s.here.ctx (v.toNat / 256 % 16)).launch = s.me.launch ∧
        (s.here.ctx (v.toNat / 256 % 16)).status ≠ .free) ∨
      (v.toNat / 4096 = 2 ∧ PortOfLaunch s (v.toNat / 256 % 16)) ∨
      (v.toNat / 4096 = 3 ∧ PortOfLaunch s (6 + v.toNat / 256 % 16)) ∨ 4 ≤ v.toNat / 4096 := by
  have hindex : fieldOf v 8 4 = v.toNat / 256 % 16 := rfl
  rw [mayGiveTo, fieldOf_kind, hindex]
  split
  · next h1 => simp [h1]
  · next h1 =>
    split
    · next h23 =>
      unfold PortOfLaunch
      rcases h23 with h2 | h3
      · simp only [h2, if_true]
        cases (s.here.port (v.toNat / 256 % 16)).holder <;> simp
      · simp only [h3, show ¬ (3 = 2) by decide, if_false]
        cases (s.here.port (6 + v.toNat / 256 % 16)).holder <;> simp
    · next h23 =>
      rw [decide_eq_true_iff]
      omega

theorem ownerCodeValid_iff (v : BitVec 16) : ownerCodeValid v = true ↔
    (v.toNat / 4096 = 0 ∧ v.toNat / 256 % 16 = 0) ∨ (v.toNat / 4096 = 1 ∧ v.toNat / 256 % 16 ≤ 4) ∨
      (v.toNat / 4096 = 2 ∧ v.toNat / 256 % 16 ≤ 5) ∨ (v.toNat / 4096 = 3 ∧ v.toNat / 256 % 16 ≤ 3) ∨
      (4 ≤ v.toNat / 4096 ∧ v.toNat / 4096 ≤ 7 ∧ v.toNat / 256 % 16 = 0) := by
  rw [ownerCodeValid, decide_eq_true_iff, fieldOf_kind]
  rfl

/-- R51: a user context may take a bank that it owns, or that it has granted to a streaming agent. -/
theorem mayTakeFrom_iff {s : State} (hu : s.cur.ctx ≠ 4) (b : Bank) : mayTakeFrom s b = true ↔
    b.launch = s.me.launch ∧ (b.owner = BitVec.ofNat 16 (0x1000 + 0x100 * s.cur.ctx) ∨
      (2 ≤ b.owner.toNat / 4096 ∧ b.grantor = some s.cur.ctx)) := by
  have hreaches : s.here.reaches s.cur.ctx b = true ↔ b.launch = s.me.launch := decide_eq_true_iff.trans (or_iff_right hu)
  rw [mayTakeFrom, Bool.and_eq_true, hreaches, Bool.or_eq_true, Bool.and_eq_true, decide_eq_true_iff, decide_eq_true_iff,
    decide_eq_true_iff, fieldOf_kind]
  rfl

/-- What BOWN asks of the owner code that it writes. -/
def bownAllowed (s : State) (bk : Nat) (v : BitVec 16) : Bool :=
  ownerCodeValid v && (if s.user then mayTakeFrom s (s.here.bank bk) && mayGiveTo s v
    else !(isSnapBank s.here bk && decide (fieldOf v 12 4 ≠ 0)))

theorem bownAllowed_iff_of_supervisor {s : State} (hs : s.cur.ctx = 4) (bk : Nat) (v : BitVec 16) : bownAllowed s bk v = true ↔
    ownerCodeValid v = true ∧ ¬ (snapBank s.here.snap ≤ bk ∧ bk < snapBank s.here.snap + 4 ∧ v.toNat / 4096 ≠ 0) := by
  have huser : s.user = false := decide_eq_false (not_not.mpr hs)
  rw [bownAllowed, huser, if_neg (by decide), fieldOf_kind, Bool.and_eq_true, Bool.not_eq_true', ← Bool.not_eq_true,
    Bool.and_eq_true, isSnapBank, decide_eq_true_iff, decide_eq_true_iff, and_assoc]
theorem bownAllowed_iff_of_user {s : State} (hu : s.cur.ctx ≠ 4) (bk : Nat) (v : BitVec 16) : bownAllowed s bk v = true ↔
    ownerCodeValid v = true ∧ mayTakeFrom s (s.here.bank bk) = true ∧ mayGiveTo s v = true := by
  have huser : s.user = true := decide_eq_true hu
  rw [bownAllowed, huser, if_pos rfl, Bool.and_eq_true, Bool.and_eq_true]

section
variable {s : State} {f : LSlot} (hg : GuardTrue s f.g) (hin : immLine f < 0x300000)
include hg hin

theorem bown_does {v : BitVec 16} (hv : (s.me.readC f.c.toNat).setWidth 16 &&& 0xFF00 = v) : Does (.bown f) s
    ((if bownAllowed s f.bank.toNat v then [] else [.trap .bown (BitVec.ofNat 64 (f.bank.toNat * 8192))]) ++
      [.owner f.bank.toNat v]) := by
  subst hv
  refine atImmLine_does hg hin rfl ?_
  dsimp only
  rw [bankOf_immFlat, ← BitVec.setWidth_eq_extractLsb' (by decide)]
  rfl
theorem bqry_does : Does (.bqry f) s
    ((if (s.here.bank f.bank.toNat).allocatedTo s.me s.cur.ctx then [] else [.trap .bown (BitVec.ofNat 64 (f.bank.toNat * 8192))]) ++
      [cWrite f.c.toNat 2 ((s.here.bank f.bank.toNat).owner.setWidth 64)]) := by
  refine atImmLine_does hg hin rfl ?_
  dsimp only
  rw [bankOf_immFlat]
  rfl

end

/-- Settles O25: `bownAllowed` says what BOWN asks, and `Bank.allocatedTo` what BQRY asks. -/
theorem ownership : Obligations.Ownership := by
  intro s f hg hin b k v kind index names launchOfPort user sup ok
  have hallowed : bownAllowed s b v = true ↔ ok := by
    by_cases hs : s.cur.ctx = 4
    · simp only [ok, if_pos hs]
      rw [bownAllowed_iff_of_supervisor hs, ownerCodeValid_iff]
    · simp only [ok, if_neg hs]
      rw [bownAllowed_iff_of_user hs, ownerCodeValid_iff, mayTakeFrom_iff hs, mayGiveTo_iff, and_assoc (a := k.launch = s.me.launch)]
      rfl
  have hbown := bown_does hg hin (v := v) rfl
  have hbqry := bqry_does hg hin
  refine ⟨fun hok => ?given, fun hok => ?refused, fun halloc => ?read, fun halloc => ?strange⟩
  case given =>
    rw [if_pos (hallowed.mpr hok), List.nil_append] at hbown
    exact hbown
  case refused =>
    rw [if_neg (mt hallowed.mp hok), List.singleton_append] at hbown
    exact hbown
  case read =>
    rw [if_pos halloc, List.nil_append] at hbqry
    exact hbqry
  case strange =>
    rw [if_neg (Bool.eq_false_iff.mp halloc), List.singleton_append] at hbqry
    exact hbqry

end Sys2Proof
end

section
/-!
SUPPORT. Descriptor registers and ports as L slots see them (R67, R68, R142 to R146).
-/
namespace Sys2Proof

open Sys2Proof.Machine

/-! ## Words of descriptors (R67, R68) -/

theorem getLsbD_levelMask (w : Nat) (v : Word) {i : Nat} (hi : i < 64) :
    (levelMask w v).getLsbD i = (v.getLsbD i && !decide (3 ≤ w ∧ 48 ≤ i)) := by
  have hmask : ∀ i, i < 64 → (0xFFFFFFFFFFFF : Word).getLsbD i = decide (i < 48) := by decide
  rw [levelMask_eq]
  split
  · next h => simp [show ¬ (3 ≤ w ∧ 48 ≤ i) by omega]
  · next h =>
    rw [BitVec.getLsbD_and, hmask i hi]
    by_cases h48 : i < 48
    · simp [h48]
    · simp [h48, show 3 ≤ w ∧ 48 ≤ i by omega]

theorem descrMask_lt (d : Nat) : descrMask d < 2 ^ 512 := by
  rw [descrMask, packNat_eq_packList]
  exact lt_of_lt_of_eq (packList_lt ..) (by simp)

/-- R142: a bit of the descriptor in one half of a line, as DSET stores it. -/
theorem testBit_descrMask (d : Nat) {i : Nat} (hi : i < 512) :
    (descrMask d).testBit i = (d.testBit i && !decide (192 ≤ i ∧ 48 ≤ i % 64)) := by
  have hword := congrArg (BitVec.getLsbD · (i % 64)) (extractLsb'_descrMask d (i / 64) (by omega))
  have hmod : i % 64 < 64 := Nat.mod_lt _ (by decide)
  have hlevel : (3 ≤ i / 64 ∧ 48 ≤ i % 64) ↔ (192 ≤ i ∧ 48 ≤ i % 64) := by omega
  simp only [getLsbD_levelMask _ _ hmod, BitVec.getLsbD_extractLsb', BitVec.getLsbD_ofNat, Nat.testBit_div_two_pow, hmod,
    Nat.div_add_mod, Nat.mod_add_div, hi, decide_true, Bool.true_and, hlevel] at hword
  exact hword

/-- A bit of an element of a line. -/
theorem testBit_elemOf (w : Nat) (v : Line) (j : Nat) {i : Nat} (hi : i < w) :
    (elemOf w v j).testBit i = v.toNat.testBit (w * j + i) := by
  rw [elemOf, Nat.testBit_mod_two_pow, Nat.testBit_div_two_pow, decide_eq_true hi, Bool.true_and, Nat.add_comm]

section
variable {s : State} {f : LSlot} (hg : GuardTrue s f.g)
include hg

theorem dset_does (hin : immLine f < 0x300000) (hbank : BankReady s (immLine f) 4) : ∃ v : Line,
    Does (.dset f) s [.occupy f.bank.toNat 4, .fires (immLine f), loads s (immLine f) (.dreg f.opnd.toNat) 3 v] ∧
    ∀ i, i < 512 → v.getLsbD i = ((s.mem.load (spAddr s.cur.core (immLine f)) 128).testBit (512 * f.flags.toNat + i) &&
      !decide (192 ≤ i ∧ 48 ≤ i % 64)) := by
  refine ⟨BitVec.ofNat 1024 (descrMask (elemOf 512 (s.readFlat s.cur.core (immFlat f)) f.flags.toNat)),
    atImmLine_does hg hin rfl ?_, fun i hi => ?_⟩
  · rw [bankAccess_of_ready (show BankReady s (immFlat f) 4 from hbank), bankOf_immFlat, loadResult_eq]
    rfl
  · rw [BitVec.getLsbD_ofNat, testBit_descrMask _ hi, testBit_elemOf _ _ _ hi, readFlat_toNat,
      decide_eq_true (by omega), Bool.true_and]
    rfl
theorem dsetf_does : ∃ v : Line,
    Does (.dsetf f) s
      [.land { dest := .dword f.opnd.toNat f.flags.toNat, val := v, mask := BitVec.allOnes 32, rem := 3, flg := 0, mark := .clean,
               addr := 0 }] ∧
    ∀ i, i < 64 → v.getLsbD i = ((s.me.readC f.c.toNat).getLsbD i && !decide (3 ≤ f.flags.toNat ∧ 48 ≤ i)) := by
  refine ⟨wide (levelMask f.flags.toNat (s.me.readC f.c.toNat)), does_of_lslot hg rfl rfl, fun i hi => ?_⟩
  rw [wide, BitVec.getLsbD_setWidth, getLsbD_levelMask _ _ hi, decide_eq_true (by omega), Bool.true_and]

end

/-! ## Ports (R143 to R146) -/

/-- The codes of the ports: 0x3010 to 0x3015 for the read ports, 0x3020 to 0x3023 for the write ports. -/
def NamesPort (v : BitVec 14) (n : Nat) : Prop :=
  (n < 6 ∧ v.toNat = 0x3010 + n) ∨ (6 ≤ n ∧ n < 10 ∧ v.toNat = 0x3020 + (n - 6))

theorem NamesPort.eq_ofNat {v : BitVec 14} {n m : Nat} (h : v.toNat = m) (hv : portOf (BitVec.ofNat 14 m) = n) : portOf v = n := by
  rwa [← h, BitVec.ofNat_toNat, BitVec.setWidth_eq] at hv
theorem NamesPort.portOf_eq {v : BitVec 14} {n : Nat} (h : NamesPort v n) : portOf v = n := by
  have hread : ∀ n, n < 6 → portOf (BitVec.ofNat 14 (0x3010 + n)) = n := by decide
  have hwrite : ∀ n, n < 4 → portOf (BitVec.ofNat 14 (0x3020 + n)) = 6 + n := by decide
  rcases h with ⟨hn, hv⟩ | ⟨hlo, hhi, hv⟩
  · exact NamesPort.eq_ofNat hv (hread n hn)
  · exact NamesPort.eq_ofNat hv ((hwrite (n - 6) (by omega)).trans (by omega))
theorem NamesPort.portCode_eq {v : BitVec 14} {n : Nat} (h : NamesPort v n) : portCode n = BitVec.ofNat 64 v.toNat := by
  rcases h with ⟨hn, hv⟩ | ⟨hlo, hhi, hv⟩
  · rw [portCode, if_pos hn, ipCode, hv]
  · rw [portCode, if_neg (by omega), opCode, hv]

/-- A port that PCFG and PSTOP may act on now: nobody else's, with no push on its way and nothing left to write. -/
structure PortFree (s : State) (n : Nat) : Prop where
  holder : (s.here.port n).holder = none ∨ (s.here.port n).holder = some s.cur.ctx ∨ s.cur.ctx = 4
  home : AtHome (s.here.port n) s.cyc
  written : 6 ≤ n → (s.here.port n).fifo = [] ∧ (s.here.port n).performed ≤ s.cyc ∧
    ∀ x, x < 5 → ∀ e ∈ (s.here.ctx x).pwq, e.dest ≠ .push (n - 6)

theorem portConfigRefused_of_free {s : State} {n : Nat} (h : PortFree s n) : portConfigRefused s n = [] := by
  have hheld : ∀ h', (s.here.port n).holder = some h' → (s.user && decide (h' ≠ s.cur.ctx)) = false := by
    intro h' hh
    rcases h.holder with hnone | hmine | hs
    · rw [hnone] at hh
      cases hh
    · rw [hmine] at hh
      cases hh
      simp
    · simp [State.user, hs]
  have hpending : (decide (6 ≤ n) && (upTo 5 0).any (fun x => pushPending (s.here.ctx x) (n - 6))) = false := by
    rw [← Bool.not_eq_true, Bool.and_eq_true, List.any_eq_true]
    rintro ⟨h6, x, hx, hpush⟩
    obtain ⟨e, he, hdest⟩ := List.any_eq_true.mp hpush
    exact (h.written (of_decide_eq_true h6)).2.2 x (by simpa using (mem_upTo.mp hx).2) e he (of_decide_eq_true hdest)
  unfold portConfigRefused
  simp only [hpending, Bool.false_eq_true, if_false]
  split
  · rfl
  · next h' hh => exact if_neg (by rw [hheld h' hh]; decide)
theorem portDrainWait_of_free {s : State} {n : Nat} (h : PortFree s n) : portDrainWait s n = [] := by
  obtain ⟨hlent, hfrom⟩ := h.home
  have haway : (s.here.port n).away s.cyc = false := by simp [Port.away, hlent, hfrom]
  have hempty : ¬ (6 ≤ n ∧ ((!(s.here.port n).fifo.isEmpty) = true ∨ s.cyc < (s.here.port n).performed)) := by
    rintro ⟨h6, hleft⟩
    obtain ⟨hfifo, hperf, -⟩ := h.written h6
    rw [hfifo] at hleft
    exact Nat.not_lt.mpr hperf (hleft.resolve_left (by decide))
  unfold portDrainWait
  simp only [haway, Bool.false_eq_true, if_false]
  exact if_neg hempty
/-- R143: another context's port is refused with the port's code. -/
theorem portConfigRefused_of_held {s : State} {n h : Nat} (hh : (s.here.port n).holder = some h) (hne : h ≠ s.cur.ctx)
    (hu : s.cur.ctx ≠ 4) : portConfigRefused s n = [.trap .ill (portCode n)] := by
  simp [portConfigRefused, hh, hne, State.user, hu]

/-- R68: what PCFG accepts of a descriptor. -/
theorem portDescrBad_of_sound {d : Descr} (hglb : Descr.glb d = false) (hexp : Descr.exp d = true → Descr.fmt d = 7 ∧ Descr.scl d = true) :
    portDescrBad d = false := by
  cases he : Descr.exp d with
  | false => simp [portDescrBad, hglb, he]
  | true =>
    obtain ⟨hfmt, hscl⟩ := hexp he
    simp [portDescrBad, hglb, hfmt, hscl]

section
variable {s : State} {f : LSlot} {n : Nat} (hg : GuardTrue s f.g) (hn : NamesPort f.opnd n)
include hg hn

theorem pstop_does (hfree : PortFree s n) : Does (.pstop f) s [.pstop n] := by
  refine does_of_lslot hg rfl ?_
  rw [hn.portOf_eq, portConfigRefused_of_free hfree, portDrainWait_of_free hfree]
  rfl
theorem pcfg_does (hfree : PortFree s n) {d : Descr} (hd : s.me.readD (f.flags.toNat % 16) = d) (hglb : Descr.glb d = false)
    (hexp : Descr.exp d = true → Descr.fmt d = 7 ∧ Descr.scl d = true)
    (hkend : Descr.kend d = 0 ∨ (s.me.token (Descr.kend d)).pend = false ∧ (s.me.token (Descr.kend d)).since ≤ s.cyc) :
    Does (.pcfg f) s [.pcfg n d] := by
  have hwait : ¬ (Descr.kend d ≠ 0 ∧ (s.me.token (Descr.kend d)).pendingAt s.cyc = true) := by
    rintro ⟨hne, hpending⟩
    obtain ⟨hpend, hsince⟩ := hkend.resolve_left hne
    simp [Token.pendingAt, hpend, Nat.not_lt.mpr hsince] at hpending
  refine does_of_lslot hg rfl ?_
  rw [fieldOf_zero, show s.me.readD (f.flags.toNat % 2 ^ 4) = d from hd, hn.portOf_eq, portConfigRefused_of_free hfree,
    portDrainWait_of_free hfree, portDescrBad_of_sound hglb hexp, if_neg hwait]
  rfl

theorem held_port_refused {h : Nat} (hh : (s.here.port n).holder = some h) (hne : h ≠ s.cur.ctx) (hu : s.cur.ctx ≠ 4) {i : Instr}
    {es : List Effect} (hi : exec i s = slot s f.g es) (hes : portConfigRefused s (portOf f.opnd) <+: es) :
    ∃ es, Does i s (.trap .ill (BitVec.ofNat 64 f.opnd.toNat) :: es) := by
  obtain ⟨more, rfl⟩ := hes
  refine ⟨more, does_of_lslot hg hi ?_⟩
  rw [hn.portOf_eq, portConfigRefused_of_held hh hne hu, hn.portCode_eq]
  rfl

end

/-! ## The status word of a port (Table 7.9) -/

theorem bitNat_eq (b : Bool) (i : Nat) : bitNat b i = b.toNat * 2 ^ i := by cases b <;> simp [bitNat]

/-- Table 7.9: the fields of a status word do not overlap. -/
theorem statusWord_fields {a c m h : Nat} (b5 b6 b7 b8 : Bool) (ha : a < 32) (hc : c < 256) (hm : m < 2 ^ 32) (hh : h < 256) {v : Word}
    (hv : v = BitVec.ofNat 64 (a + bitNat b5 5 + bitNat b6 6 + bitNat b7 7 + bitNat b8 8 + c * 2 ^ 16 + m * 2 ^ 24 + h * 2 ^ 56)) :
    v.toNat % 32 = a ∧ v.getLsbD 5 = b5 ∧ v.getLsbD 6 = b6 ∧ v.getLsbD 7 = b7 ∧ v.getLsbD 8 = b8 ∧
      v.toNat / 2 ^ 24 % 2 ^ 32 = m ∧ v.toNat / 2 ^ 56 = h := by
  have hbit : ∀ (i : Nat) (b : Bool), v.toNat / 2 ^ i % 2 = b.toNat → v.getLsbD i = b := by
    intro i b hb
    rw [← bitOf_eq_getLsbD, bitOf, Nat.testBit_eq_decide_div_mod_eq, hb]
    cases b <;> rfl
  have h5 := b5.toNat_le
  have h6 := b6.toNat_le
  have h7 := b7.toNat_le
  have h8 := b8.toNat_le
  have hnat : v.toNat = a + b5.toNat * 2 ^ 5 + b6.toNat * 2 ^ 6 + b7.toNat * 2 ^ 7 + b8.toNat * 2 ^ 8 + c * 2 ^ 16 + m * 2 ^ 24 +
      h * 2 ^ 56 := by
    rw [hv, BitVec.toNat_ofNat, Nat.mod_eq_of_lt]
    all_goals simp only [bitNat_eq]
    omega
  refine ⟨?_, hbit 5 b5 ?_, hbit 6 b6 ?_, hbit 7 b7 ?_, hbit 8 b8 ?_, ?_, ?_⟩
  all_goals
    rw [hnat]
    omega

theorem portStatus_of_other {k : Core} {launch n h : Nat} (hh : (k.port n).holder = some h) (hl : (k.ctx h).launch ≠ launch) :
    portStatus k launch n = 0 := by
  simp [portStatus, hh, hl]
theorem portStatus_eq {k : Core} {launch n : Nat} (h : ¬ ∃ h, (k.port n).holder = some h ∧ (k.ctx h).launch ≠ launch) :
    portStatus k launch n = BitVec.ofNat 64 (min (k.port n).fifo.length 16 +
      bitNat ((k.port n).running && !(k.port n).done && (k.port n).fault.isNone) 5 + bitNat (k.port n).done 6 +
      bitNat (k.port n).fault.isSome 7 + bitNat (k.port n).holder.isSome 8 +
      ((k.port n).fault.elim 0 fun f => f.1.code.toNat) * 2 ^ 16 + min (k.port n).moved (2 ^ 32 - 1) * 2 ^ 24 +
      (k.port n).holder.getD 0 * 2 ^ 56) := by
  cases hholder : (k.port n).holder with
  | none => cases hfault : (k.port n).fault <;> simp [portStatus, hholder, hfault]
  | some x =>
    have hlaunch : (k.ctx x).launch = launch := not_not.mp fun hne => h ⟨x, hholder, hne⟩
    cases hfault : (k.port n).fault <;> simp [portStatus, hholder, hfault, hlaunch]

/-- R146: the fields of PSTAT's answer for a port of the launch. -/
theorem portStatus_fields {k : Core} {launch n : Nat} (h : ¬ ∃ h, (k.port n).holder = some h ∧ (k.ctx h).launch ≠ launch)
    (hholder : (k.port n).holder = none ∨ ∃ x, (k.port n).holder = some x ∧ x < 5) :
    let v := portStatus k launch n
    let p := k.port n
    v.toNat % 32 = min p.fifo.length 16 ∧ v.getLsbD 5 = (p.running && !p.done && p.fault.isNone) ∧ v.getLsbD 6 = p.done ∧
      v.getLsbD 7 = p.fault.isSome ∧ v.getLsbD 8 = p.holder.isSome ∧ v.toNat / 2 ^ 24 % 2 ^ 32 = min p.moved (2 ^ 32 - 1) ∧
      v.toNat / 2 ^ 56 = p.holder.getD 0 := by
  have hcode : ((k.port n).fault.elim 0 fun f => f.1.code.toNat) < 256 := by
    cases (k.port n).fault with
    | none => decide
    | some f => exact f.1.code.isLt
  have hnumber : (k.port n).holder.getD 0 < 256 := by
    rcases hholder with hnone | ⟨x, hx, hlt⟩
    · simp [hnone]
    · simp only [hx, Option.getD_some]
      omega
  exact statusWord_fields _ _ _ _ (by omega) hcode (by omega) hnumber (portStatus_eq h)

/-- Settles O24: the descriptor words bit by bit, the ports that are free or held, and the fields of a status word. -/
theorem descriptorsAndPorts : Obligations.DescriptorsAndPorts := by
  intro s f hg w
  refine ⟨fun hin hbank _ => dset_does hg hin hbank, fun _ => dsetf_does hg, fun _ => does_of_lslot hg rfl rfl,
    fun n hn => ?free, fun n h hn => ⟨fun hh hne hu i hi => ?held, ?status⟩⟩
  case free =>
    intro p d hholder hhome hwritten
    have hfree : PortFree s n := ⟨hholder, hhome, hwritten⟩
    exact ⟨pstop_does hg hn hfree, pcfg_does hg hn hfree rfl⟩
  case held =>
    simp only [List.mem_cons, List.not_mem_nil, or_false] at hi
    rcases hi with rfl | rfl
    all_goals
      refine held_port_refused hg hn hh hne hu rfl ?_
      simp only [List.append_assoc]
      exact List.prefix_append ..
  case status =>
    intro p other
    refine ⟨portStatus s.here s.me.launch n, does_of_lslot hg rfl (by rw [NamesPort.portOf_eq hn]; rfl), ?_, portStatus_fields⟩
    rintro ⟨h', hh, hl⟩
    exact portStatus_of_other hh hl

end Sys2Proof
end

section
/-!
SUPPORT. Ports at work (R63 to R66): what an access of an engine leaves of the ports, and the steps of a read port and of a
write port that no command has borrowed.
-/
namespace Sys2Proof.Machine

/-! ## What leaves the ports -/

theorem State.Later.port {s t : State} (h : Later s t) (c n : Nat) : t.port c n = s.port c n := by rw [State.port, h.core]; rfl
theorem State.mem_setPort (s : State) (c n : Nat) (p : Port) : (s.setPort c n p).mem = s.mem := rfl
theorem State.port_setPort_self (s : State) (c n : Nat) (p : Port) : (s.setPort c n p).port c n = p :=
  (State.port_setPort s c n n p).trans (if_pos rfl)
theorem State.core_setPort (s : State) (c n : Nat) (p : Port) : (s.setPort c n p).core c = (s.core c).setPort n p :=
  State.core_modCore ..

/-- What a port's access depends on: banks, contexts and the banks taken from ports. -/
theorem Core.portAccess_setPort (k : Core) {m : Nat} {q : Port} (hq : q.taken = (k.port m).taken) (kind index : Nat)
    (holder : Option Nat) (flat : Int) : (k.setPort m q).portAccess kind index holder flat = k.portAccess kind index holder flat := by
  have htaken : ∀ j, ((k.setPort m q).port j).taken = (k.port j).taken := by
    intro j
    rw [Core.port_setPort_eq]
    split
    · next hj => rw [hj, hq]
    · rfl
  unfold Core.portAccess
  simp only [htaken]
  rfl

theorem Core.countError_ports (k : Core) (b : Bool) : (k.countError b).ports = k.ports := by
  rw [Core.countError]
  split <;> rfl
theorem Core.disarm_ports (k : Core) : k.disarm.ports = k.ports := by
  rw [Core.disarm]
  split <;> rfl
theorem State.firedRead_ports (s : State) (c flat : Nat) : ((s.firedRead c flat).core c).ports = (s.core c).ports := by
  cases hhit : (s.core c).injHits flat with
  | false => rw [State.firedRead_of_no_hit hhit]
  | true =>
    rw [State.firedRead_hit hhit, State.core_modCore, Core.disarm_ports]
    split
    · rfl
    · exact Core.countError_ports _ _
theorem State.countMet_ports (s : State) (c : Nat) (m : Mark) : ((s.countMet c m).core c).ports = (s.core c).ports := by
  unfold State.countMet
  split
  · rw [State.core_modCore, Core.countError_ports]
  all_goals rfl
theorem State.countMet_mem (s : State) (c : Nat) (m : Mark) : (s.countMet c m).mem = s.mem := by
  unfold State.countMet
  split <;> rfl
theorem State.core_occupy (s : State) (c flat : Nat) : (s.occupy c flat).core c =
    (s.core c).setBank (bankOf flat) (((s.core c).bank (bankOf flat)).occupy s.cyc (busyTime flat)) := State.core_modCore ..

/-- An engine's read leaves memory and ports alone. -/
theorem State.engineRead_frame (s : State) (c flat : Nat) : (s.engineRead c flat).2.2.mem = s.mem ∧
    ∀ n, (s.engineRead c flat).2.2.port c n = s.port c n := by
  have hports : ((s.engineRead c flat).2.2.core c).ports = (s.core c).ports := by
    rw [State.engineRead, State.countMet_ports, State.firedRead_ports, State.core_occupy]
    rfl
  refine ⟨?_, fun n => ?_⟩
  · rw [State.engineRead, State.countMet_mem, State.firedRead_mem]
    rfl
  · rw [State.port, Core.port, hports]
    rfl

/-! ## Read ports (R64, R66) -/

theorem Port.arrive_of_nothing {p : Port} (h : p.coming = []) (cyc : Nat) : p.arrive cyc = p := by
  rw [Port.arrive, h, List.takeWhile_nil, List.map_nil, List.append_nil, List.drop_nil, ← h]
/-- A line that is due enters the FIFO. -/
theorem Port.arrive_due {p : Port} {due cyc : Nat} {l : PortLine} (h : p.coming = [(due, l)]) (hdue : due ≤ cyc) :
    p.arrive cyc = { p with fifo := p.fifo ++ [l], coming := [] } := by
  simp [Port.arrive, h, hdue]
theorem Port.mayFetch_of_stopped {p : Port} (h : p.running = false) : p.mayFetch = false := by rw [Port.mayFetch, h, Bool.false_and]
theorem Port.mayFetch_of_room {p : Port} (hcoming : p.coming = []) (hexp : Descr.exp p.cfg = false) (hrun : p.running = true)
    (hfault : p.fault = none) (hleft : p.walked < Descr.product p.cfg) (hroom : p.fifo.length < 16) : p.mayFetch = true := by
  simp [Port.mayFetch, hcoming, hexp, hrun, hfault, hleft, Nat.succ_le_of_lt hroom]
theorem Port.nextFlat_of_plain {p : Port} (h : Descr.exp p.cfg = false) : p.nextFlat = (false, Descr.flatAt p.cfg p.walked) := by
  simp [Port.nextFlat, h]
theorem Port.deliver_of_plain {p : Port} (h : Descr.exp p.cfg = false) (i : Nat) (v : Line) : p.deliver i v = [{ val := v, flg := 0 }] := by
  simp [Port.deliver, h]

/-- A read port behind the fetch of a line that needs no expansion. -/
def Port.fetched (p : Port) (at_ : Nat) (v : Line) : Port :=
  { p with coming := p.coming ++ [(at_, { val := v, flg := 0 })], walked := p.walked + 1,
           scale := if (p.walked + 1) % 16 = 0 then none else p.scale }

/-- The fetch of a sound line that needs no expansion. -/
theorem State.later_fetchLine {s : State} {c n flat : Nat} {p : Port} (hexp : Descr.exp p.cfg = false)
    (hmark : s.readMark c flat = .clean) :
    Later ((s.engineRead c flat).2.2.setPort c n (p.fetched (s.cyc + loadLatency flat) (s.readFlat c flat)))
      (s.fetchLine c n p false flat) := by
  have hread : s.engineRead c flat = (s.readFlat c flat, .clean, (s.engineRead c flat).2.2) := by rw [← hmark]; rfl
  unfold State.fetchLine
  rw [hread]
  simp only [markStatus, ne_eq, not_true_eq_false, if_false, Bool.false_eq_true, Port.deliver_of_plain hexp, List.map_cons,
    List.map_nil, List.foldl_cons, List.foldl_nil]
  have hdone : ∀ (t : State) (x : Nat), t.engineDone c x (0 ||| 0) 0 false = t := fun _ _ => if_pos ⟨rfl, rfl⟩
  split
  · rw [hdone]
    exact .trans (.schedule _ _ _) (.schedule _ _ _)
  · exact .trans (.schedule _ _ _) (.schedule _ _ _)

section
variable {s : State} {c n : Nat} (hc : c < 192)
include hc

/-- A read port's step, when it may not fetch. -/
theorem execReadPortFetch_waits (hn : n < 6) {p : Port} (hp : (s.port c n).arrive s.cyc = p) (hlent : p.lent = none)
    (hfetch : p.mayFetch = false) : execReadPortFetch c n s = .next (s.setPort c n p) := by
  subst hp
  rw [execReadPortFetch, if_neg (by simp only [Config.cores]; omega)]
  simp only [hlent, hfetch, Option.isSome_none, Bool.false_eq_true, if_false, Bool.not_false, if_true]
/-- A read port's step, when it may fetch a line that needs no expansion. -/
theorem execReadPortFetch_fetches (hn : n < 6) {p : Port} (hp : (s.port c n).arrive s.cyc = p) (hlent : p.lent = none)
    (hfetch : p.mayFetch = true) (hexp : Descr.exp p.cfg = false) : execReadPortFetch c n s =
      match (s.core c).portAccess 2 n p.holder (Descr.flatAt p.cfg p.walked) with
      | .faults cause => .next ((s.setPort c n p).setPort c n
          { p with fault := some (cause, flatAddr (Descr.flatAt p.cfg p.walked)), faultAt := p.walked })
      | .waits => .next (s.setPort c n p)
      | .ready =>
        if (s.core c).lineFree (Descr.flatAt p.cfg p.walked).toNat s.cyc then
          .next ((s.setPort c n p).fetchLine c n p false (Descr.flatAt p.cfg p.walked).toNat)
        else .next ((s.setPort c n p).schedule ((s.core c).streamTime (bankOf (Descr.flatAt p.cfg p.walked).toNat)
          (busyTime (Descr.flatAt p.cfg p.walked).toNat) s.cyc) (.readPortFetch c n)) := by
  subst hp
  have haccess := (s.core c).portAccess_setPort (m := n) (q := (s.port c n).arrive s.cyc) rfl 2 n
    ((s.port c n).arrive s.cyc).holder (Descr.flatAt ((s.port c n).arrive s.cyc).cfg ((s.port c n).arrive s.cyc).walked)
  rw [execReadPortFetch, if_neg (by simp only [Config.cores]; omega)]
  simp only [hlent, hfetch, Option.isSome_none, Bool.false_eq_true, if_false, Bool.not_true, Port.nextFlat_of_plain hexp,
    State.core_setPort, haccess]
  rfl

end

end Sys2Proof.Machine

namespace Sys2Proof

open Sys2Proof.Machine

theorem latency_eq (flat : Nat) : latency flat = loadLatency flat := (loadLatency_eq flat).symm

section
variable {s : State} {c n : Nat} (hc : c < 192)
include hc

section
variable (hn : n < 6) (hlent : (s.port c n).lent = none) (hcoming : (s.port c n).coming = []) (hexp : Descr.exp (s.port c n).cfg = false)
  (hrun : (s.port c n).running = true) (hfault : (s.port c n).fault = none)
  (hleft : (s.port c n).walked < Descr.product (s.port c n).cfg) (hroom : (s.port c n).fifo.length < 16)
include hn hlent hcoming hexp hrun hfault hleft hroom

theorem readPort_fetches (haccess : (s.core c).portAccess 2 n (s.port c n).holder
      (Descr.flatAt (s.port c n).cfg (s.port c n).walked) = .ready)
    (hfree : LineFree s c (Descr.flatAt (s.port c n).cfg (s.port c n).walked).toNat)
    (hmark : s.readMark c (Descr.flatAt (s.port c n).cfg (s.port c n).walked).toNat = .clean) :
    Leads (.readPortFetch c n) s (fun t => t.mem = s.mem ∧ (t.port c n).walked = (s.port c n).walked + 1 ∧
      (t.port c n).fifo = (s.port c n).fifo ∧ (t.port c n).coming =
        [(s.cyc + latency (Descr.flatAt (s.port c n).cfg (s.port c n).walked).toNat,
          { val := s.readFlat c (Descr.flatAt (s.port c n).cfg (s.port c n).walked).toNat, flg := 0 })]) := by
  generalize hflat : (Descr.flatAt (s.port c n).cfg (s.port c n).walked).toNat = flat at *
  have hstep := execReadPortFetch_fetches hc hn (Port.arrive_of_nothing hcoming s.cyc) hlent
    (Port.mayFetch_of_room hcoming hexp hrun hfault hleft hroom) hexp
  rw [haccess, hflat] at hstep
  simp only [show (s.core c).lineFree flat s.cyc = true from hfree, if_true] at hstep
  have hmark' : (s.setPort c n (s.port c n)).readMark c flat = .clean := by
    rw [← hmark, State.readMark, State.readMark, State.core_setPort]
    rfl
  have hlater := State.later_fetchLine (s := s.setPort c n (s.port c n)) (c := c) (n := n) hexp hmark'
  obtain ⟨hmem, -⟩ := (s.setPort c n (s.port c n)).engineRead_frame c flat
  refine ⟨_, hstep, hlater.mem.trans hmem, ?_⟩
  rw [hlater.port, State.port_setPort_self, latency_eq]
  exact ⟨rfl, rfl, congrArg (· ++ _) hcoming⟩

theorem readPort_waits (haccess : (s.core c).portAccess 2 n (s.port c n).holder
      (Descr.flatAt (s.port c n).cfg (s.port c n).walked) = .waits) :
    Leads (.readPortFetch c n) s (fun t => t.mem = s.mem ∧ t.port c n = s.port c n) := by
  have hstep := execReadPortFetch_fetches hc hn (Port.arrive_of_nothing hcoming s.cyc) hlent
    (Port.mayFetch_of_room hcoming hexp hrun hfault hleft hroom) hexp
  rw [haccess] at hstep
  exact ⟨_, hstep, rfl, State.port_setPort_self ..⟩

theorem readPort_stops {cause : Cause} (haccess : (s.core c).portAccess 2 n (s.port c n).holder
      (Descr.flatAt (s.port c n).cfg (s.port c n).walked) = .faults cause) :
    Leads (.readPortFetch c n) s (fun t => t.mem = s.mem ∧ (t.port c n).walked = (s.port c n).walked ∧
      (t.port c n).fifo = (s.port c n).fifo ∧
      (t.port c n).fault = some (cause, wrapOf 64 (Descr.flatAt (s.port c n).cfg (s.port c n).walked)) ∧
      (t.port c n).faultAt = (s.port c n).walked) := by
  have hstep := execReadPortFetch_fetches hc hn (Port.arrive_of_nothing hcoming s.cyc) hlent
    (Port.mayFetch_of_room hcoming hexp hrun hfault hleft hroom) hexp
  rw [haccess] at hstep
  refine ⟨_, hstep, rfl, ?_⟩
  rw [State.port_setPort_self]
  exact ⟨rfl, rfl, rfl, rfl⟩

end

theorem readPort_arrives (hn : n < 6) (hlent : (s.port c n).lent = none) {l : PortLine} {due : Nat}
    (hcoming : (s.port c n).coming = [(due, l)]) (hdue : due ≤ s.cyc) (hrun : (s.port c n).running = false) :
    Leads (.readPortFetch c n) s (fun t => t.mem = s.mem ∧ (t.port c n).coming = [] ∧ (t.port c n).fifo = (s.port c n).fifo ++ [l]) := by
  refine ⟨_, execReadPortFetch_waits hc hn (Port.arrive_due hcoming hdue) hlent (Port.mayFetch_of_stopped hrun), rfl, ?_⟩
  rw [State.port_setPort_self]
  exact ⟨rfl, rfl⟩

end

end Sys2Proof

namespace Sys2Proof.Machine

/-! ## Write ports (R63) -/

theorem State.later_wakePushers (s : State) (c : Nat) : Later s (s.wakePushers c) :=
  .trans (.trans (.schedule ..) (.schedule ..)) (.schedule ..)

theorem State.port_occupy (s : State) (c flat n : Nat) : (s.occupy c flat).port c n = s.port c n := by
  rw [State.port, State.core_occupy]
  rfl
theorem State.port_writeFlat (s : State) (c flat n : Nat) (v : Line) : (s.writeFlat c flat v).port c n = s.port c n := by
  rw [State.port, State.writeFlat_core]
  rfl

/-- A port whose stream ends is done; nothing of memory changes. -/
theorem State.portDone_frame (s : State) (c n : Nat) : (s.portDone c n).mem = s.mem ∧ ((s.portDone c n).port c n).done = true := by
  rw [State.portDone_eq]
  obtain ⟨hmem, -, hend, -⟩ := (s.setPort c n { s.port c n with done := true, kend := none }).endStream_frame c (s.port c n).kend
  have hport := hend.ports n
  rw [← State.port, State.port_setPort_self, Port.SameButLent, ← State.port] at hport
  exact ⟨hmem, by rw [hport]⟩

section
variable {s : State} {c n : Nat} (hc : c < 192) (hn : n < 4)
include hc hn

/-- A write port's step with a line in its FIFO. -/
theorem execWritePortWrite_cons (hlent : (s.port c (6 + n)).lent = none) (hfault : (s.port c (6 + n)).fault = none) {l : PortLine} {ls : List PortLine}
    (hfifo : (s.port c (6 + n)).fifo = l :: ls) {flat : Int}
    (hflat : Descr.flatAt (s.port c (6 + n)).cfg (s.port c (6 + n)).walked = flat) : execWritePortWrite c n s =
      match (s.core c).portAccess 3 n (s.port c (6 + n)).holder flat with
      | .faults cause => .next ((s.setPort c (6 + n)
          { s.port c (6 + n) with fault := some (cause, flatAddr flat), faultAt := (s.port c (6 + n)).walked }).wakePushers c)
      | .waits => .next s
      | .ready =>
        if (s.core c).lineFree flat.toNat s.cyc then
          .next ((((s.setPort c (6 + n) { s.port c (6 + n) with
            fifo := ls, walked := (s.port c (6 + n)).walked + 1, moved := (s.port c (6 + n)).moved + 1,
            performed := s.cyc + busyTime flat.toNat }).occupy c flat.toNat).writeFlat c flat.toNat l.val).schedule
            (if ls.isEmpty then s.cyc + busyTime flat.toNat else s.cyc + 1) (.writePortWrite c n))
        else .next (s.schedule ((s.core c).streamTime (bankOf flat.toNat) (busyTime flat.toNat) s.cyc) (.writePortWrite c n)) := by
  rw [execWritePortWrite, if_neg (by simp only [Config.cores]; omega)]
  simp only [hfifo, hfault, hlent, hflat, Option.isSome_none, Bool.false_eq_true, false_and, if_false]
  cases (s.core c).portAccess 3 n (s.port c (6 + n)).holder flat with
  | ready => cases ls <;> rfl
  | waits => rfl
  | faults cause => rfl
/-- A write port's step once its last write has been performed. -/
theorem execWritePortWrite_ends (hfifo : (s.port c (6 + n)).fifo = []) (hrun : (s.port c (6 + n)).running = true)
    (hdone : (s.port c (6 + n)).done = false) (hlast : (s.port c (6 + n)).walked = Descr.product (s.port c (6 + n)).cfg)
    (hperf : (s.port c (6 + n)).performed ≤ s.cyc) :
    execWritePortWrite c n s = .next ((s.portDone c (6 + n)).wakePushers c) := by
  rw [execWritePortWrite, if_neg (by simp only [Config.cores]; omega)]
  simp only [hfifo, hrun, hdone, hlast, hperf, Bool.not_false, and_self, if_true]

end

end Sys2Proof.Machine

namespace Sys2Proof

open Sys2Proof.Machine

section
variable {s : State} {c n : Nat} (hc : c < 192) (hn : n < 4)
include hc hn

section
variable (hlent : (s.port c (6 + n)).lent = none) (hfault : (s.port c (6 + n)).fault = none) {l : PortLine} {ls : List PortLine} (hfifo : (s.port c (6 + n)).fifo = l :: ls)
include hlent hfault hfifo

theorem writePort_writes (haccess : (s.core c).portAccess 3 n (s.port c (6 + n)).holder
      (Descr.flatAt (s.port c (6 + n)).cfg (s.port c (6 + n)).walked) = .ready)
    (hfree : LineFree s c (Descr.flatAt (s.port c (6 + n)).cfg (s.port c (6 + n)).walked).toNat) :
    Leads (.writePortWrite c n) s (fun t =>
      LineStored s t c (Descr.flatAt (s.port c (6 + n)).cfg (s.port c (6 + n)).walked).toNat l.val ∧
      (t.port c (6 + n)).fifo = ls ∧ (t.port c (6 + n)).walked = (s.port c (6 + n)).walked + 1 ∧
      (t.port c (6 + n)).moved = (s.port c (6 + n)).moved + 1 ∧
      (t.port c (6 + n)).performed = s.cyc + busyFor (Descr.flatAt (s.port c (6 + n)).cfg (s.port c (6 + n)).walked).toNat) := by
  have hstep := execWritePortWrite_cons hc hn hlent hfault hfifo rfl
  generalize Descr.flatAt (s.port c (6 + n)).cfg (s.port c (6 + n)).walked = flat at *
  rw [haccess] at hstep
  simp only [show (s.core c).lineFree flat.toNat s.cyc = true from hfree, if_true] at hstep
  refine ⟨_, hstep, fun b => stored_write _ _ _ b, ?_⟩
  rw [(State.Later.schedule ..).port, State.port_writeFlat, State.port_occupy, State.port_setPort_self, ← busyTime_eq]
  exact ⟨rfl, rfl, rfl, rfl⟩

theorem writePort_waits (haccess : (s.core c).portAccess 3 n (s.port c (6 + n)).holder
      (Descr.flatAt (s.port c (6 + n)).cfg (s.port c (6 + n)).walked) = .waits) : exec (.writePortWrite c n) s = .next s := by
  have hstep := execWritePortWrite_cons hc hn hlent hfault hfifo rfl
  rwa [haccess] at hstep

theorem writePort_stops {cause : Cause} (haccess : (s.core c).portAccess 3 n (s.port c (6 + n)).holder
      (Descr.flatAt (s.port c (6 + n)).cfg (s.port c (6 + n)).walked) = .faults cause) :
    Leads (.writePortWrite c n) s (fun t => t.mem = s.mem ∧ (t.port c (6 + n)).fifo = (s.port c (6 + n)).fifo ∧
      (t.port c (6 + n)).fault = some (cause, wrapOf 64 (Descr.flatAt (s.port c (6 + n)).cfg (s.port c (6 + n)).walked))) := by
  have hstep := execWritePortWrite_cons hc hn hlent hfault hfifo rfl
  rw [haccess] at hstep
  have hlater := State.later_wakePushers (s.setPort c (6 + n) { s.port c (6 + n) with
    fault := some (cause, flatAddr (Descr.flatAt (s.port c (6 + n)).cfg (s.port c (6 + n)).walked)),
    faultAt := (s.port c (6 + n)).walked }) c
  refine ⟨_, hstep, hlater.mem, ?_⟩
  rw [hlater.port, State.port_setPort_self]
  exact ⟨rfl, rfl⟩

end

theorem writePort_ends (hfifo : (s.port c (6 + n)).fifo = []) (hrun : (s.port c (6 + n)).running = true)
    (hdone : (s.port c (6 + n)).done = false) (hlast : (s.port c (6 + n)).walked = Descr.product (s.port c (6 + n)).cfg)
    (hperf : (s.port c (6 + n)).performed ≤ s.cyc) :
    Leads (.writePortWrite c n) s (fun t => t.mem = s.mem ∧ (t.port c (6 + n)).done = true) := by
  have hlater := State.later_wakePushers (s.portDone c (6 + n)) c
  obtain ⟨hmem, hend⟩ := s.portDone_frame c (6 + n)
  exact ⟨_, execWritePortWrite_ends hc hn hfifo hrun hdone hlast hperf, hlater.mem.trans hmem, by rw [hlater.port, hend]⟩

end

/-- Settles O41: the step of a read port by what it finds at its next line, and that of a write port likewise. -/
theorem portSteps : Obligations.PortSteps := by
  intro s c n hc
  refine ⟨fun hn => ?read, fun hn => ?write⟩
  case read =>
    intro p flat hlent
    refine ⟨fun hcoming hexp hrun hfault hleft hroom => ⟨?_, ?_, fun cause => ?_⟩, fun l due => readPort_arrives hc hn hlent⟩
    · exact readPort_fetches hc hn hlent hcoming hexp hrun hfault hleft hroom
    · exact readPort_waits hc hn hlent hcoming hexp hrun hfault hleft hroom
    · exact readPort_stops hc hn hlent hcoming hexp hrun hfault hleft hroom
  case write =>
    intro p flat hlent hfault
    refine ⟨fun l ls hfifo => ⟨?_, ?_, fun cause => ?_⟩, writePort_ends hc hn⟩
    · exact writePort_writes hc hn hlent hfault hfifo
    · exact writePort_waits hc hn hlent hfault hfifo
    · exact writePort_stops hc hn hlent hfault hfifo

end Sys2Proof
end

section
/-!
SUPPORT. Links (R311 to R313, Table 19.9): the fields of a link's word, what a packet sent leaves, and a link that changes
without a peer losing its last route.
-/
namespace Sys2Proof.Machine

/-! ## Fields of words -/

section
variable {n : Nat} (v : BitVec n) {lo len x : Nat} (hn : lo + len ≤ n)
include hn

theorem testBit_putField (i : Nat) : (putField v lo len x).toNat.testBit i =
    if lo ≤ i ∧ i < lo + len then x.testBit (i - lo) else v.toNat.testBit i :=
  getLsbD_putField v lo len x i hn
/-- A field after it has been replaced. -/
theorem fieldOf_putField (hx : x < 2 ^ len) : fieldOf (putField v lo len x) lo len = x :=
  natField_eq hx fun i hi => by rw [testBit_putField v hn, if_pos (by omega), Nat.add_sub_cancel_left]
/-- A field after another has been replaced. -/
theorem fieldOf_putField_apart {lo' len' : Nat} (h : lo' + len' ≤ lo ∨ lo + len ≤ lo') :
    fieldOf (putField v lo len x) lo' len' = fieldOf v lo' len' :=
  natField_congr fun i _ _ => by rw [testBit_putField v hn, if_neg (by omega)]

end

/-! ## The word of a link (Table 19.9) -/

/-- A link's word after a change of its state, lanes and cost. -/
theorem Link.with_fields (l : Link) {state lanes cost : Nat} (hstate : state < 4) (hlanes : lanes < 16) (hcost : cost < 2 ^ 16) :
    (l.with_ state lanes cost).stateNo = state ∧ (l.with_ state lanes cost).lanes = lanes ∧
      (l.with_ state lanes cost).cost = cost ∧ (l.with_ state lanes cost).peer = l.peer := by
  unfold Link.with_ Link.stateNo Link.lanes Link.cost Link.peer
  refine ⟨?_, ?_, ?_, ?_⟩
  · rw [fieldOf_putField_apart _ (by omega) (by omega), fieldOf_putField_apart _ (by omega) (by omega),
      fieldOf_putField _ (by omega) (by omega)]
  · rw [fieldOf_putField_apart _ (by omega) (by omega), fieldOf_putField _ (by omega) (by omega)]
  · rw [fieldOf_putField _ (by omega) (by omega)]
  · rw [fieldOf_putField_apart _ (by omega) (by omega), fieldOf_putField_apart _ (by omega) (by omega),
      fieldOf_putField_apart _ (by omega) (by omega)]

theorem Link.stateNo_eq (l : Link) : l.stateNo = l.word.toNat % 4 := fieldOf_zero _ _
theorem Link.stateNo_lt (l : Link) : l.stateNo < 4 := Nat.mod_lt _ (by decide)
theorem Link.lanes_lt (l : Link) : l.lanes < 16 := Nat.mod_lt _ (by decide)
theorem Link.cost_lt (l : Link) : l.cost < 2 ^ 16 := Nat.mod_lt _ (by decide)

/-! ## Links of the device -/

theorem State.link_setLink (s : State) (n m : Nat) (l : Link) : (s.setLink n l).link m = if m = n then l else s.link m :=
  FMap.get_set _ _ _ _ _
theorem State.link_setLink_self (s : State) (n : Nat) (l : Link) : (s.setLink n l).link n = l := FMap.get_set_self _ _ _ _

/-- What a link that sends or takes flits keeps. -/
structure Link.SameRoutes (l l' : Link) : Prop where
  word : l'.word = l.word
  reach : l'.reach = l.reach
/-- The links lead where they led, at the same cost and in the same states. -/
def State.SameRoutes (s t : State) : Prop := ∀ n, (s.link n).SameRoutes (t.link n)

section
variable {s t : State} (h : s.SameRoutes t)
include h
theorem State.SameRoutes.stateNo (n : Nat) : (t.link n).stateNo = (s.link n).stateNo := congrArg (fieldOf · 0 2) (h n).word
theorem State.SameRoutes.cost (n : Nat) : (t.link n).cost = (s.link n).cost := congrArg (fieldOf · 16 16) (h n).word
theorem State.SameRoutes.reaches (n peer : Nat) : (t.link n).reaches peer = (s.link n).reaches peer := by
  rw [Link.reaches, Link.reaches, Link.peer, Link.peer, (h n).word, (h n).reach]
theorem State.SameRoutes.cheapest (ns : List Nat) : t.cheapest ns = s.cheapest ns := by
  induction ns with
  | nil => rfl
  | cons n ns ih => simp only [State.cheapest, ih, h.cost]
/-- A flit takes the same link. -/
theorem State.SameRoutes.linkTo (peer : Nat) : t.linkTo peer = s.linkTo peer := by
  simp only [State.linkTo, h.cheapest, h.reaches, h.stateNo]
end

theorem State.SameRoutes.setLink {n : Nat} {s : State} {l : Link} (h : (s.link n).SameRoutes l) : s.SameRoutes (s.setLink n l) := by
  intro m
  rw [State.link_setLink]
  split
  · next hm => rwa [hm]
  · exact ⟨rfl, rfl⟩

/-! ## A link that changes (R313) -/

/-- No peer that an outbound window can reach loses its last route when a link becomes `l`. -/
def State.KeepsRoutes (s : State) (n : Nat) (l : Link) : Prop :=
  ∀ e ∈ s.windows, e.2.dir = false → s.routedTo e.2.peer = true → (s.setLink n l).routedTo e.2.peer = true

theorem State.routedTo_iff (s : State) (peer : Nat) :
    s.routedTo peer = true ↔ ∃ m, m < 12 ∧ (s.link m).stateNo ≠ 0 ∧ (s.link m).reaches peer = true := by
  rw [State.routedTo, List.any_eq_true]
  simp only [mem_upTo, Bool.and_eq_true, decide_eq_true_eq, Nat.zero_le, true_and, Nat.zero_add]
theorem State.routedTo_congr {s t : State} (h : t.links = s.links) (peer : Nat) : t.routedTo peer = s.routedTo peer := by
  unfold State.routedTo State.link
  rw [h]

/-- A link that stays up keeps every route. -/
theorem State.KeepsRoutes.of_up {s : State} {n : Nat} {l : Link} (hup : l.stateNo ≠ 0) (hreach : l.reach = (s.link n).reach)
    (hpeer : l.peer = (s.link n).peer) : s.KeepsRoutes n l := by
  intro e _ _ hroute
  obtain ⟨m, hm, hstate, hreaches⟩ := (s.routedTo_iff _).mp hroute
  refine (State.routedTo_iff _ _).mpr ⟨m, hm, ?_⟩
  rw [State.link_setLink]
  split
  · next hmn => exact ⟨hup, by rwa [Link.reaches, hpeer, hreach, ← hmn]⟩
  · exact ⟨hstate, hreaches⟩

/-- What a changed link leaves, where no peer is cut off: the other links, the cores and the counters. -/
structure State.LinkChanged (s t : State) (n : Nat) (l : Link) : Prop where
  links : t.links = s.links.set n l
  cores : t.cores = s.cores
  telemetry : t.telemetry = s.telemetry

theorem State.LinkChanged.link {s t : State} {n : Nat} {l : Link} (h : s.LinkChanged t n l) : t.link n = l := by
  rw [State.link, h.links, FMap.get_set_self]

/-- The status page is written beside the links. -/
theorem State.linkChanged_performBytes {s t : State} {n : Nat} {l : Link} (h : s.LinkChanged t n l) (pa : Nat) (bs : List Byte) :
    s.LinkChanged (t.performBytes pa bs) n l := by
  unfold State.performBytes
  dsimp only
  split
  all_goals exact ⟨h.links, h.cores, h.telemetry⟩
theorem State.linkChanged_changeLink {s : State} {n : Nat} {l : Link} (h : s.KeepsRoutes n l) : s.LinkChanged (s.changeLink n l) n l := by
  have hset : s.LinkChanged (s.setLink n l) n l := ⟨rfl, rfl, rfl⟩
  unfold State.changeLink
  dsimp only
  generalize hpage : (if s.ready = true then
    (s.setLink n l).performBytes (s.boot.statpa.toNat + 8 * n) (bytesOf 8 l.word.toNat) else s.setLink n l) = s2
  have hs2 : s.LinkChanged s2 n l := by
    rw [← hpage]
    split
    · exact State.linkChanged_performBytes hset _ _
    · exact hset
  rw [if_neg]
  · exact hs2
  · intro hlost
    obtain ⟨e, he, hcut⟩ := List.any_eq_true.mp hlost
    simp only [Bool.and_eq_true, Bool.not_eq_true', State.routedTo_congr (t := s2) (s := s.setLink n l) hs2.links] at hcut
    obtain ⟨hdir, hroute, hgone⟩ := hcut
    rw [h e he hdir hroute] at hgone
    cases hgone

end Sys2Proof.Machine
end

section
/-!
SUPPORT. The steps of the links (R311 to R313): flits sent, taken, forwarded and refused, and a link that retrains, loses a
lane or ends its training.
-/
namespace Sys2Proof.Machine
open Sys2Proof Sys2Proof.Machine

/-! ## Links that change -/

/-- A link can fall where every peer is reached over another one. -/
theorem State.KeepsRoutes.of_others {s : State} {n : Nat} (h : OtherRoutes s n) (l : Link) : s.KeepsRoutes n l := by
  intro e he hdir hroute
  obtain ⟨m, hm, hne, hstate, hreaches⟩ := h e he hdir hroute
  refine (State.routedTo_iff _ _).mpr ⟨m, hm, ?_⟩
  rw [State.link_setLink, if_neg hne, Link.stateNo_eq]
  exact ⟨hstate, hreaches⟩

theorem linkShows_link (t : State) (n : Nat) : LinkShows t n (t.link n).stateNo (t.link n).lanes (t.link n).cost :=
  ⟨((t.link n).stateNo_eq).symm, rfl, rfl⟩
theorem linkShows_of {t : State} {n a b c : Nat} (h : (t.link n).stateNo = a ∧ (t.link n).lanes = b ∧ (t.link n).cost = c) :
    LinkShows t n a b c := by
  obtain ⟨rfl, rfl, rfl⟩ := h
  exact linkShows_link t n

/-- The fields of a link go by its word. -/
theorem Link.fields_of_word {l l' : Link} (h : l'.word = l.word) :
    l'.stateNo = l.stateNo ∧ l'.lanes = l.lanes ∧ l'.cost = l.cost ∧ l'.peer = l.peer := by
  unfold Link.stateNo Link.lanes Link.cost Link.peer
  rw [h]
  exact ⟨rfl, rfl, rfl, rfl⟩

section
variable {s : State} {n a b c : Nat} {l' : Link} (hword : l'.word = ((s.link n).with_ a b c).word)
  (ha : a < 4) (hb : b < 16) (hc : c < 2 ^ 16)
include hword ha hb hc

/-- A link shows the state, the lanes and the cost it changes to. -/
theorem State.changeLink_shows (hkeep : s.KeepsRoutes n l') :
    (s.changeLink n l').cores = s.cores ∧ LinkShows (s.changeLink n l') n a b c := by
  have hchange := State.linkChanged_changeLink hkeep
  obtain ⟨hs, hl, hco, -⟩ := Link.fields_of_word hword
  obtain ⟨hs', hl', hco', -⟩ := (s.link n).with_fields ha hb hc
  refine ⟨hchange.cores, linkShows_of ?_⟩
  rw [hchange.link]
  exact ⟨hs.trans hs', hl.trans hl', hco.trans hco'⟩
/-- A link that changes and stays up keeps every route. -/
theorem State.keepsRoutes_with (hup : a ≠ 0) (hreach : l'.reach = (s.link n).reach) : s.KeepsRoutes n l' := by
  obtain ⟨hs, -, -, hp⟩ := Link.fields_of_word hword
  obtain ⟨hs', -, -, hp'⟩ := (s.link n).with_fields ha hb hc
  exact .of_up (by rw [hs, hs']; exact hup) hreach (hp.trans hp')

end

theorem State.retrain_of_down {s : State} {n : Nat} (h : (s.link n).stateNo = 0) : s.retrain n = s := if_pos h
/-- The link that has begun to retrain. -/
def Link.retrained (l : Link) : Link := { l.with_ 3 l.lanes l.cost with failures := [] }
theorem State.retrain_of_up {s : State} {n : Nat} (h : (s.link n).stateNo ≠ 0) :
    s.retrain n = s.changeLink n (s.link n).retrained := if_neg h
theorem State.keepsRoutes_retrained (s : State) (n : Nat) : s.KeepsRoutes n (s.link n).retrained :=
  State.keepsRoutes_with rfl (by decide) (Link.lanes_lt _) (Link.cost_lt _) (by decide) rfl
theorem State.retrain_shows {s : State} {n : Nat} (h : (s.link n).stateNo ≠ 0) :
    (s.retrain n).cores = s.cores ∧ LinkShows (s.retrain n) n 3 (s.link n).lanes (s.link n).cost := by
  rw [State.retrain_of_up h]
  exact State.changeLink_shows rfl (by decide) (Link.lanes_lt _) (Link.cost_lt _) (s.keepsRoutes_retrained n)
/-- What retraining leaves. -/
theorem State.retrain_taken (s : State) (n : Nat) :
    (s.retrain n).telemetry = s.telemetry ∧ ((s.retrain n).link n).taken = (s.link n).taken := by
  by_cases h : (s.link n).stateNo = 0
  · rw [State.retrain_of_down h]
    exact ⟨rfl, rfl⟩
  · have hchange := State.linkChanged_changeLink (s.keepsRoutes_retrained n)
    rw [State.retrain_of_up h, hchange.link]
    exact ⟨hchange.telemetry, rfl⟩

/-! ## Flits -/

theorem Link.send_of_lt {l : Link} {p : Packet} (n : Nat) (h : l.seqs.get 0 p.otag.toNat < 2 ^ 48) :
    l.send n p = { l with seqs := l.seqs.set p.otag.toNat (l.seqs.get 0 p.otag.toNat + 1),
                          sent := l.sent ++ [l.seal n (l.seqs.get 0 p.otag.toNat) p] } :=
  if_neg (Nat.not_le.mpr h)
theorem Link.send_of_le {l : Link} {p : Packet} (n : Nat) (h : 2 ^ 48 ≤ l.seqs.get 0 p.otag.toNat) :
    l.send n p = { l with waiting := l.waiting ++ [p] } := if_pos h
/-- A link that sends keeps its word and what it has taken and counted. -/
theorem Link.send_kept (l : Link) (n : Nat) (p : Packet) :
    (l.send n p).word = l.word ∧ (l.send n p).taken = l.taken ∧ (l.send n p).failures = l.failures := by
  unfold Link.send
  dsimp only
  split <;> exact ⟨rfl, rfl, rfl⟩

theorem State.programsAlike_sendPacket (s : State) (n : Nat) (p : Packet) : ProgramsAlike s (s.sendPacket n p) :=
  ⟨rfl, rfl, rfl, rfl, rfl⟩
theorem State.link_sendPacket (s : State) (n m : Nat) (p : Packet) :
    (s.sendPacket n p).link m = if m = n then (s.link n).send n p else s.link m := State.link_setLink _ _ _ _
theorem State.taken_sendPacket (s : State) (n m : Nat) (p : Packet) : ((s.sendPacket n p).link m).taken = (s.link m).taken := by
  rw [State.link_sendPacket]
  split
  · next h => rw [h, (Link.send_kept _ _ _).2.1]
  · rfl
theorem State.sent_sendPacket {s : State} {n : Nat} {p : Packet} (h : (s.link n).seqs.get 0 p.otag.toNat < 2 ^ 48) :
    ((s.sendPacket n p).link n).sent = (s.link n).sent ++ [(s.link n).seal n ((s.link n).seqs.get 0 p.otag.toNat) p] := by
  rw [State.link_sendPacket, if_pos rfl, Link.send_of_lt n h]

/-- A packet that goes on leaves what programs see and what each link has taken. -/
theorem State.forward_taken (s : State) (p : Packet) :
    ProgramsAlike s (s.forward p) ∧ ∀ m, ((s.forward p).link m).taken = (s.link m).taken := by
  unfold State.forward
  split
  · exact ⟨⟨rfl, rfl, rfl, rfl, rfl⟩, fun _ => rfl⟩
  · exact ⟨s.programsAlike_sendPacket _ _, fun m => s.taken_sendPacket _ m _⟩
theorem State.forward_of_linkTo {s : State} {p : Packet} {m : Nat} (h : s.linkTo p.dst.toNat = some m) :
    s.forward p = s.sendPacket m { p with key := (s.link m).keyFor p } := by
  unfold State.forward
  rw [h]

/-- A count of failures changes nothing that a flit's way or seal goes by. -/
theorem State.link_setFailures (s : State) (n m : Nat) (fs : FMap Nat) :
    ∃ fs', (s.setLink n { s.link n with failures := fs }).link m = { s.link m with failures := fs' } := by
  rw [State.link_setLink]
  split
  · next h => exact ⟨fs, by rw [h]⟩
  · exact ⟨(s.link m).failures, rfl⟩
/-- A packet that goes on after a flit has passed: sent on the link that its device is reached over. -/
theorem State.sent_forward {s : State} {n m : Nat} {p : Packet} (fs : FMap Nat) (hroute : s.linkTo p.dst.toNat = some m)
    (hseq : (s.link m).seqs.get 0 p.otag.toNat < 2 ^ 48) :
    (((s.setLink n { s.link n with failures := fs }).forward p).link m).sent = (s.link m).sent ++
      [(s.link m).seal m ((s.link m).seqs.get 0 p.otag.toNat) { p with key := (s.link m).keyFor p }] := by
  have hsame : s.SameRoutes (s.setLink n { s.link n with failures := fs }) := .setLink ⟨rfl, rfl⟩
  obtain ⟨fs', hlink⟩ := s.link_setFailures n m fs
  rw [State.forward_of_linkTo ((hsame.linkTo _).trans hroute), State.sent_sendPacket (by rw [hlink]; exact hseq), hlink]
  rfl

/-! ## A flit that arrives -/

/-- What a flit opens to is for the device the flit is for, from the owner of the flit. -/
theorem flitOpens_dst {f : Flit} {n : Nat} {l : Link} {p : Packet} (h : flitOpens f n l = some p) : p.dst = f.dst := by
  unfold flitOpens at h
  split at h
  · cases h
  · obtain ⟨bs, -, rfl⟩ := Option.map_eq_some_iff.mp h
    rfl

/-- A link that falls from full to half width, at a cost. -/
def Link.halved (l : Link) (cost : Nat) : Link := { l.with_ 2 4 cost with window := l.window / 2, weight := l.weight / 2 }

theorem Link.loseLane_full {l : Link} (h : l.lanes = 8) : l.loseLane = l.halved (min (2 * l.cost) 0xFFFF) := by
  unfold Link.loseLane
  rw [if_pos h]
  rfl
theorem State.changeLink_halved (s : State) (n : Nat) {cost : Nat} (hcost : cost < 2 ^ 16) :
    (s.changeLink n ((s.link n).halved cost)).cores = s.cores ∧ LinkShows (s.changeLink n ((s.link n).halved cost)) n 2 4 cost ∧
      ((s.changeLink n ((s.link n).halved cost)).link n).window = (s.link n).window / 2 ∧
      ((s.changeLink n ((s.link n).halved cost)).link n).weight = (s.link n).weight / 2 := by
  have hword : ((s.link n).halved cost).word = ((s.link n).with_ 2 4 cost).word := rfl
  have hkeep : s.KeepsRoutes n ((s.link n).halved cost) :=
    State.keepsRoutes_with hword (by decide) (by decide) hcost (by decide) rfl
  obtain ⟨hcores, hshows⟩ := State.changeLink_shows hword (by decide) (by decide) hcost hkeep
  refine ⟨hcores, hshows, ?_⟩
  rw [(State.linkChanged_changeLink hkeep).link]
  exact ⟨rfl, rfl⟩

/-- A flit that has failed, counted. -/
def State.flitFailed (s : State) (n : Nat) (f : Flit) : State :=
  (s.setLink n { s.link n with
    failures := (s.link n).failures.set (flitNumber f) ((s.link n).failures.get 0 (flitNumber f) + 1) }).count (0x100 + f.otag.toNat)

theorem State.link_flitFailed (s : State) (n : Nat) (f : Flit) : (s.flitFailed n f).link n = { s.link n with
    failures := (s.link n).failures.set (flitNumber f) ((s.link n).failures.get 0 (flitNumber f) + 1) } :=
  State.link_setLink_self _ _ _
theorem State.telemetry_flitFailed (s : State) (n : Nat) (f : Flit) :
    (s.flitFailed n f).telemetry.get 0 (0x100 + f.otag.toNat) = s.telemetry.get 0 (0x100 + f.otag.toNat) + 1 :=
  FMap.get_set_self _ _ _ _

section
variable {s : State} {n : Nat} (hn : n < 12) {f : Flit}
include hn

theorem exec_flitReceive_some {p : Packet} (h : flitOpens f n (s.link n) = some p) :
    exec (.flitReceive n f) s = .next (if f.dst = Config.deviceId then
        s.setLink n { s.link n with failures := (s.link n).failures.erase (flitNumber f), taken := (s.link n).taken ++ [p] }
      else (s.setLink n { s.link n with failures := (s.link n).failures.erase (flitNumber f) }).forward p) := by
  show execFlitReceive n f s = _
  unfold execFlitReceive
  rw [if_neg (Nat.not_le.mpr hn)]
  dsimp only
  rw [h]

theorem exec_flitReceive_none (h : flitOpens f n (s.link n) = none) :
    exec (.flitReceive n f) s = .next (if 8 ≤ (s.link n).failures.get 0 (flitNumber f) + 1 then (s.flitFailed n f).retrain n
      else s.flitFailed n f) := by
  show execFlitReceive n f s = _
  unfold execFlitReceive
  rw [if_neg (Nat.not_le.mpr hn)]
  dsimp only
  rw [h]
  rfl

/-- A flit for this device is taken. -/
theorem flitReceive_taken {p : Packet} (h : flitOpens f n (s.link n) = some p) (hdst : f.dst = Config.deviceId) :
    Leads (.flitReceive n f) s (fun t => ProgramsAlike s t ∧ (t.link n).taken = (s.link n).taken ++ [p] ∧
      (t.link n).failures.get 0 (flitNumber f) = 0 ∧ (t.link n).word = (s.link n).word ∧ (t.link n).sent = (s.link n).sent) := by
  refine ⟨_, exec_flitReceive_some hn h, ?_⟩
  rw [if_pos hdst]
  dsimp only
  rw [State.link_setLink_self]
  refine ⟨⟨rfl, rfl, rfl, rfl, rfl⟩, rfl, ?_, rfl, rfl⟩
  show FMap.get 0 ((s.link n).failures.erase (flitNumber f)) (flitNumber f) = 0
  rw [FMap.get_erase, if_pos rfl]
/-- A flit for another device goes on. -/
theorem flitReceive_forwarded {p : Packet} (h : flitOpens f n (s.link n) = some p) (hdst : f.dst ≠ Config.deviceId) :
    Leads (.flitReceive n f) s (fun t => ProgramsAlike s t ∧ (t.link n).taken = (s.link n).taken ∧
      ∀ m, s.linkTo f.dst.toNat = some m → (s.link m).seqs.get 0 p.otag.toNat < 2 ^ 48 →
        (t.link m).sent = (s.link m).sent ++
          [(s.link m).seal m ((s.link m).seqs.get 0 p.otag.toNat) { p with key := (s.link m).keyFor p }]) := by
  refine ⟨_, exec_flitReceive_some hn h, ?_⟩
  rw [if_neg hdst]
  obtain ⟨halike, htaken⟩ := State.forward_taken (s.setLink n { s.link n with failures := (s.link n).failures.erase (flitNumber f) }) p
  refine ⟨halike, ?_, fun m hroute hseq => State.sent_forward _ (by rw [flitOpens_dst h]; exact hroute) hseq⟩
  rw [htaken, State.link_setLink_self]
/-- A flit that fails its check is counted; after 8 failures its link retrains. -/
theorem flitReceive_failed (h : flitOpens f n (s.link n) = none) :
    Leads (.flitReceive n f) s (fun t =>
      t.telemetry.get 0 (0x100 + f.otag.toNat) = s.telemetry.get 0 (0x100 + f.otag.toNat) + 1 ∧
      (t.link n).taken = (s.link n).taken ∧
      ((s.link n).failures.get 0 (flitNumber f) < 7 → ProgramsAlike s t ∧
        (t.link n).failures.get 0 (flitNumber f) = (s.link n).failures.get 0 (flitNumber f) + 1 ∧
        (t.link n).seqs = (s.link n).seqs ∧ (t.link n).word = (s.link n).word) ∧
      (7 ≤ (s.link n).failures.get 0 (flitNumber f) → (s.link n).stateNo ≠ 0 →
        LinkShows t n 3 (s.link n).lanes (s.link n).cost)) := by
  refine ⟨_, exec_flitReceive_none hn h, ?_⟩
  have hlink := s.link_flitFailed n f
  have hcount := s.telemetry_flitFailed n f
  split
  · next h8 =>
    obtain ⟨htelemetry, htaken⟩ := (s.flitFailed n f).retrain_taken n
    refine ⟨by rw [htelemetry, hcount], by rw [htaken, hlink], fun h7 => by omega, fun _ hup => ?_⟩
    have hshows := (State.retrain_shows (s := s.flitFailed n f) (n := n) (by rw [hlink]; exact hup)).2
    rw [hlink] at hshows
    exact hshows
  · next h8 =>
    refine ⟨hcount, by rw [hlink], fun _ => ⟨⟨rfl, rfl, rfl, rfl, rfl⟩, ?_, by rw [hlink], by rw [hlink]⟩, fun h7 => by omega⟩
    rw [hlink]
    exact FMap.get_set_self _ _ _ _

/-! ## A link that loses a lane, and one whose training ends -/

theorem exec_linkRetrain : exec (.linkRetrain n) s = .next (s.retrain n) := if_neg (Nat.not_le.mpr hn)
theorem exec_linkLaneLoss_down (h : (s.link n).stateNo = 0) : exec (.linkLaneLoss n) s = .next s :=
  (if_neg (Nat.not_le.mpr hn)).trans (if_pos h)
theorem exec_linkLaneLoss_up (h : (s.link n).stateNo ≠ 0) : exec (.linkLaneLoss n) s = .next (s.changeLink n (s.link n).loseLane) :=
  (if_neg (Nat.not_le.mpr hn)).trans (if_neg h)
theorem exec_linkTrainingComplete (h : (s.link n).stateNo = 3) : exec (.linkTrainingComplete n) s = .next (s.changeLink n
    ((s.link n).with_ (if (s.link n).lanes = 8 then 1 else if (s.link n).lanes = 0 then 0 else 2) (s.link n).lanes (s.link n).cost)) :=
  (if_neg (Nat.not_le.mpr hn)).trans (if_neg (not_not_intro h))

/-- A link of 8 lanes that loses one falls to half width. -/
theorem linkLaneLoss_full (hup : (s.link n).stateNo ≠ 0) (h8 : (s.link n).lanes = 8) :
    Leads (.linkLaneLoss n) s (fun t => t.cores = s.cores ∧ LinkShows t n 2 4 (min (2 * (s.link n).cost) 0xFFFF) ∧
      (t.link n).window = (s.link n).window / 2 ∧ (t.link n).weight = (s.link n).weight / 2) := by
  refine ⟨_, exec_linkLaneLoss_up hn hup, ?_⟩
  rw [Link.loseLane_full h8]
  exact s.changeLink_halved n (Nat.lt_of_le_of_lt (Nat.min_le_right _ _) (by decide))
/-- A link of fewer than 8 lanes that loses one keeps the others. -/
theorem linkLaneLoss_half (hup : (s.link n).stateNo ≠ 0) (h8 : (s.link n).lanes ≠ 8) (h2 : 2 ≤ (s.link n).lanes) :
    Leads (.linkLaneLoss n) s (fun t => t.cores = s.cores ∧
      LinkShows t n (if (s.link n).stateNo = 3 then 3 else 2) ((s.link n).lanes - 1) (s.link n).cost) := by
  have hlose : (s.link n).loseLane =
      (s.link n).with_ (if (s.link n).stateNo = 3 then 3 else 2) ((s.link n).lanes - 1) (s.link n).cost := by
    unfold Link.loseLane
    rw [if_neg h8, if_neg (by omega : ¬(s.link n).lanes ≤ 1)]
  have hstate : (if (s.link n).stateNo = 3 then 3 else 2) < 4 ∧ (if (s.link n).stateNo = 3 then 3 else 2) ≠ 0 := by split <;> decide
  have hlanes : (s.link n).lanes - 1 < 16 := Nat.lt_of_le_of_lt (Nat.sub_le _ _) (s.link n).lanes_lt
  refine ⟨_, exec_linkLaneLoss_up hn hup, ?_⟩
  rw [hlose]
  exact State.changeLink_shows rfl hstate.1 hlanes (Link.cost_lt _)
    (State.keepsRoutes_with rfl hstate.1 hlanes (Link.cost_lt _) hstate.2 rfl)
/-- A link that loses its last lane is down. -/
theorem linkLaneLoss_last (hup : (s.link n).stateNo ≠ 0) (h1 : (s.link n).lanes = 1) (hothers : OtherRoutes s n) :
    Leads (.linkLaneLoss n) s (fun t => t.cores = s.cores ∧ LinkShows t n 0 0 (s.link n).cost) := by
  have hlose : (s.link n).loseLane = (s.link n).with_ 0 0 (s.link n).cost := by
    unfold Link.loseLane
    rw [h1]
    rfl
  refine ⟨_, exec_linkLaneLoss_up hn hup, ?_⟩
  rw [hlose]
  exact State.changeLink_shows rfl (by decide) (by decide) (Link.cost_lt _) (.of_others hothers _)
/-- A link whose training ends with lanes works. -/
theorem linkTrainingComplete_up (h3 : (s.link n).stateNo = 3) (h0 : (s.link n).lanes ≠ 0) :
    Leads (.linkTrainingComplete n) s (fun t => t.cores = s.cores ∧
      LinkShows t n (if (s.link n).lanes = 8 then 1 else 2) (s.link n).lanes (s.link n).cost) := by
  have hstate : (if (s.link n).lanes = 8 then 1 else 2) < 4 ∧ (if (s.link n).lanes = 8 then 1 else 2) ≠ 0 := by split <;> decide
  refine ⟨_, exec_linkTrainingComplete hn h3, ?_⟩
  rw [if_neg h0]
  exact State.changeLink_shows rfl hstate.1 (Link.lanes_lt _) (Link.cost_lt _)
    (State.keepsRoutes_with rfl hstate.1 (Link.lanes_lt _) (Link.cost_lt _) hstate.2 rfl)
/-- A link whose training ends without a lane is down. -/
theorem linkTrainingComplete_down (h3 : (s.link n).stateNo = 3) (h0 : (s.link n).lanes = 0) (hothers : OtherRoutes s n) :
    Leads (.linkTrainingComplete n) s (fun t => t.cores = s.cores ∧ LinkShows t n 0 0 (s.link n).cost) := by
  refine ⟨_, exec_linkTrainingComplete hn h3, ?_⟩
  rw [h0, if_neg (by decide), if_pos rfl]
  exact State.changeLink_shows rfl (by decide) (by decide) (Link.cost_lt _) (.of_others hothers _)

end

theorem linkSteps : LinkSteps := by
  intro s n hn
  have hstate := (s.link n).stateNo_eq
  dsimp only
  rw [← hstate]
  refine ⟨fun p => ⟨s.programsAlike_sendPacket n p, ?_, fun h => ?_, fun h => ?_⟩,
    fun f p h => ⟨flitReceive_taken hn h, flitReceive_forwarded hn h⟩, fun f h => flitReceive_failed hn h,
    fun h => ⟨(exec_linkRetrain hn).trans (congrArg _ (State.retrain_of_down h)), exec_linkLaneLoss_down hn h⟩,
    fun h => ⟨_, exec_linkRetrain hn, State.retrain_shows h⟩, linkLaneLoss_full hn, linkLaneLoss_half hn, linkLaneLoss_last hn,
    linkTrainingComplete_up hn, linkTrainingComplete_down hn⟩
  all_goals rw [State.link_sendPacket, if_pos rfl]
  · exact (Link.send_kept _ _ _).1
  · rw [Link.send_of_lt n h]
    exact ⟨rfl, FMap.get_set_self _ _ _ _, rfl⟩
  · rw [Link.send_of_le n h]
    exact ⟨rfl, rfl⟩

end Sys2Proof.Machine
end

section
/-!
SUPPORT. Samples of a core's sensors (R306 to R308): the hottest sensor, TALLOW, THERM, the refresh multiplier and the
throttle levels of the clusters.
-/
namespace Sys2Proof.Machine
open Sys2Proof Sys2Proof.Machine

/-! ## What a sample reads -/

theorem sampleDue_iff (k : Core) (cyc : Nat) : k.sampleDue cyc = true ↔ SampleDue k cyc := by
  rw [Core.sampleDue, decide_eq_true_iff]
  refine or_congr_right ⟨fun ⟨hle, hmod⟩ => ?_, fun ⟨j, hj⟩ => ?_⟩
  · obtain ⟨j, hj⟩ := Nat.dvd_of_mod_eq_zero hmod
    exact ⟨j, by rw [← samplePeriod, ← hj]; omega⟩
  · refine ⟨by omega, ?_⟩
    rw [hj, Nat.add_sub_cancel_left]
    exact Nat.mul_mod_right ..

/-- The hottest sensor is one of them, and none is hotter. -/
theorem hottest_cons (m : Int) (ms : List Int) :
    ∃ h, hottest (m :: ms) = some h ∧ h ∈ m :: ms ∧ ∀ u ∈ m :: ms, u ≤ h := by
  induction ms generalizing m with
  | nil => exact ⟨m, rfl, List.mem_cons_self, fun u hu => (List.mem_singleton.mp hu).le⟩
  | cons m' ms ih =>
    obtain ⟨h, hh, hmem, hmax⟩ := ih m'
    refine ⟨if m < h then h else m, by rw [hottest, hh], ?_, fun u hu => ?_⟩
    · split
      · exact List.mem_cons_of_mem _ hmem
      · exact List.mem_cons_self
    · rcases List.mem_cons.mp hu with rfl | hu
      · split <;> omega
      · have := hmax u hu
        split <;> omega
theorem hottest_of_max {milli : List Int} {t : Int} (ht : t ∈ milli) (hmax : ∀ u ∈ milli, u ≤ t) : hottest milli = some t := by
  cases milli with
  | nil => cases ht
  | cons m ms =>
    obtain ⟨h, hh, hmem, hle⟩ := hottest_cons m ms
    rw [hh, le_antisymm (hmax h hmem) (hle t ht)]

theorem clampInt_eq {lo hi x : Int} (h : lo ≤ hi) : clampInt lo hi x = max lo (min hi x) := by
  unfold clampInt
  split
  · omega
  · split <;> omega
theorem tallowOf_eq (t : Int) : tallowOf t = (max 0 (min 255 (2 * (85000 - t) / 1000))).toNat := by
  rw [tallowOf, clampInt_eq (by decide)]

/-! ## THERM -/

/-- THERM at one context. -/
def State.thermAt (c tallow : Nat) (s : State) (x : Nat) : State :=
  if (s.ctx c x).status ≠ .free ∧ (s.ctx c x).tmask then
    s.modEvents c x (fun e => { e with therm := some (BitVec.ofNat 64 tallow) })
  else s
theorem State.therm_eq (s : State) (c tallow : Nat) : s.therm c tallow = (upTo 4 0).foldl (State.thermAt c tallow) s := rfl

/-- A core's events change, and nothing else that a sample goes by. -/
structure State.EventsSet (s t : State) (c : Nat) : Prop where
  mem : t.mem = s.mem
  powerCap : t.powerCap = s.powerCap
  cyc : t.cyc = s.cyc
  core : t.core c = { s.core c with ctxs := (t.core c).ctxs }
  status : ∀ x, (t.ctx c x).status = (s.ctx c x).status
  tmask : ∀ x, (t.ctx c x).tmask = (s.ctx c x).tmask

theorem State.EventsSet.refl (s : State) (c : Nat) : s.EventsSet s c := ⟨rfl, rfl, rfl, rfl, fun _ => rfl, fun _ => rfl⟩
theorem State.EventsSet.trans {s t u : State} {c : Nat} (h : s.EventsSet t c) (h' : t.EventsSet u c) : s.EventsSet u c :=
  ⟨h'.mem.trans h.mem, h'.powerCap.trans h.powerCap, h'.cyc.trans h.cyc, by rw [h'.core, h.core],
    fun x => (h'.status x).trans (h.status x), fun x => (h'.tmask x).trans (h.tmask x)⟩

theorem State.ctx_modEvents (s : State) (c x y : Nat) (f : Events → Events) :
    (s.modEvents c x f).ctx c y = if y = x then { s.ctx c x with events := f (s.ctx c x).events } else s.ctx c y := by
  split
  · next h => rw [h, State.modEvents, State.ctx_modCtx]
  · next h => exact State.ctx_modCtx_ne _ _ _ _ _ _ (.inr h)
theorem State.eventsSet_modEvents (s : State) (c x : Nat) (f : Events → Events) : s.EventsSet (s.modEvents c x f) c := by
  refine ⟨rfl, rfl, rfl, ?_, fun y => ?_, fun y => ?_⟩
  · rw [State.modEvents, State.core_modCtx]
    rfl
  all_goals
    rw [State.ctx_modEvents]
    split
    · next h => rw [h]
    · rfl
theorem State.eventsSet_thermAt (c tallow : Nat) (s : State) (x : Nat) : s.EventsSet (State.thermAt c tallow s x) c := by
  unfold State.thermAt
  split
  · exact s.eventsSet_modEvents c x _
  · exact .refl s c

/-- THERM is pending after the step of its context, and stays so. -/
theorem State.therm_thermAt {c tallow x : Nat} {s : State} {y : Nat}
    (h : (y = x ∧ (s.ctx c y).status ≠ .free ∧ (s.ctx c y).tmask = true) ∨
      (s.ctx c y).events.therm = some (BitVec.ofNat 64 tallow)) :
    ((State.thermAt c tallow s x).ctx c y).events.therm = some (BitVec.ofNat 64 tallow) := by
  unfold State.thermAt
  split
  · rw [State.ctx_modEvents]
    split
    · rfl
    · next hne => exact h.resolve_left fun hy => hne hy.1
  · next hno => exact h.resolve_left fun ⟨hy, hpending⟩ => hno (hy ▸ hpending)
theorem State.foldl_thermAt (c tallow : Nat) (l : List Nat) (s : State) :
    s.EventsSet (l.foldl (State.thermAt c tallow) s) c ∧
    ∀ x, ((x ∈ l ∧ (s.ctx c x).status ≠ .free ∧ (s.ctx c x).tmask = true) ∨
        (s.ctx c x).events.therm = some (BitVec.ofNat 64 tallow)) →
      ((l.foldl (State.thermAt c tallow) s).ctx c x).events.therm = some (BitVec.ofNat 64 tallow) := by
  induction l generalizing s with
  | nil => exact ⟨.refl s c, fun x h => h.resolve_left fun hmem => List.not_mem_nil hmem.1⟩
  | cons y l ih =>
    obtain ⟨hset, htherm⟩ := ih (State.thermAt c tallow s y)
    have hone := State.eventsSet_thermAt c tallow s y
    refine ⟨hone.trans hset, fun x h => htherm x ?_⟩
    rcases h with ⟨hmem, hpending⟩ | h
    · rcases List.mem_cons.mp hmem with hxy | hmem
      · exact .inr (State.therm_thermAt (.inl ⟨hxy, hpending⟩))
      · exact .inl ⟨hmem, by rw [hone.status, hone.tmask]; exact hpending⟩
    · exact .inr (State.therm_thermAt (.inr h))

/-- THERM of a core: pending at its user contexts whose TMASK[0] is 1. -/
theorem State.eventsSet_therm (s : State) (c tallow : Nat) : s.EventsSet (s.therm c tallow) c := by
  rw [State.therm_eq]
  exact (State.foldl_thermAt c tallow (upTo 4 0) s).1
theorem State.therm_therm {s : State} {c x : Nat} (tallow : Nat) (hx : x < 4) (hstatus : (s.ctx c x).status ≠ .free)
    (hmask : (s.ctx c x).tmask = true) :
    ((s.therm c tallow).ctx c x).events.therm = some (BitVec.ofNat 64 tallow) := by
  rw [State.therm_eq]
  exact (State.foldl_thermAt c tallow (upTo 4 0) s).2 x (.inl ⟨mem_upTo.mpr ⟨Nat.zero_le _, by omega⟩, hstatus, hmask⟩)

/-! ## The throttle levels -/

/-- The watchdog of one context. -/
def State.watchCtx (c : Nat) (s : State) (x : Nat) : State :=
  match (s.ctx c x).waitOn with
  | none => s
  | some (_, since) => s.watch c since (.watchdogExpiry c x)
/-- The watchdog of a command, if one waits. -/
def State.watchSince (s : State) (c : Nat) (i : Instr) : Option Nat → State
  | some since => s.watch c since i
  | none => s
theorem State.watchAgain_eq (s : State) (c : Nat) :
    s.watchAgain c =
      let s1 := (upTo 5 0).foldl (State.watchCtx c) s
      let s2 := s1.watchSince c (.engineWatchdogExpiry c .matrixRun) ((s1.core c).runNow.map (·.waitSince))
      s2.watchSince c (.engineWatchdogExpiry c .ppeDrain) ((s2.core c).drainNow.map (·.waitSince)) := by
  have hctx : State.watchCtx c = fun t x =>
      match (t.ctx c x).waitOn with
      | none => t
      | some (_, since) => t.watch c since (.watchdogExpiry c x) := rfl
  unfold State.watchAgain
  rw [hctx]
  generalize (upTo 5 0).foldl _ s = s1
  dsimp only
  cases (s1.core c).runNow with
  | none =>
    show _ = State.watchSince s1 c _ ((s1.core c).drainNow.map _)
    dsimp only
    cases (s1.core c).drainNow <;> rfl
  | some r =>
    show _ = State.watchSince (s1.watch c r.waitSince _) c _ (((s1.watch c r.waitSince _).core c).drainNow.map _)
    dsimp only
    cases ((s1.watch c r.waitSince (.engineWatchdogExpiry c .matrixRun)).core c).drainNow <;> rfl
theorem State.later_watchCtx (c : Nat) (s : State) (x : Nat) : Later s (s.watchCtx c x) := by
  unfold State.watchCtx
  split
  · exact .refl s
  · exact State.later_watch ..
theorem State.later_watchSince (s : State) (c : Nat) (i : Instr) (since : Option Nat) : Later s (s.watchSince c i since) := by
  cases since with
  | none => exact .refl s
  | some since => exact State.later_watch ..

theorem State.later_watchAgain (s : State) (c : Nat) : Later s (s.watchAgain c) := by
  have hctxs : Later s ((upTo 5 0).foldl (State.watchCtx c) s) := .foldl (State.later_watchCtx c) _ s
  have hrun := hctxs.trans (State.later_watchSince _ c (.engineWatchdogExpiry c .matrixRun)
    ((((upTo 5 0).foldl (State.watchCtx c) s).core c).runNow.map (·.waitSince)))
  rw [State.watchAgain_eq]
  exact hrun.trans (State.later_watchSince ..)

/-- What a new throttle level leaves: memory and cores, and the levels of the other clusters. -/
theorem State.setThrottle_leaves (s : State) (cl level : Nat) :
    (s.setThrottle cl level).mem = s.mem ∧ (s.setThrottle cl level).cores = s.cores ∧
      ∀ d, ((s.setThrottle cl level).cluster d).throttle = if d = cl then level else (s.cluster d).throttle := by
  unfold State.setThrottle
  dsimp only
  split
  · next h =>
    refine ⟨rfl, rfl, fun d => ?_⟩
    split
    · next hd => rw [hd, h]
    · rfl
  · generalize hset : s.setCluster cl _ = s1
    have hlater : Later s1 ((upTo Config.coresPerCluster (cl * Config.coresPerCluster)).foldl
        (fun t c => (t.watchAgain c).wake c) s1) :=
      .foldl (fun t c => (t.later_watchAgain c).trans (State.later_wake ..)) _ _
    refine ⟨hlater.mem.trans (hset ▸ rfl), hlater.cores.trans (hset ▸ rfl), fun d => ?_⟩
    rw [hlater.cluster, ← hset, State.cluster, State.setCluster, FMap.get_set]
    split <;> rfl

/-- Every cluster of a list enters a level of at least `p`. -/
theorem State.foldl_setThrottle {p : Nat} {lv : State → Nat → Nat} (hlv : ∀ t cl, p ≤ lv t cl) (l : List Nat) (s : State) :
    (l.foldl (fun t cl => t.setThrottle cl (lv t cl)) s).mem = s.mem ∧
    (l.foldl (fun t cl => t.setThrottle cl (lv t cl)) s).cores = s.cores ∧
    ∀ cl, cl ∈ l ∨ p ≤ (s.cluster cl).throttle →
      p ≤ ((l.foldl (fun t cl => t.setThrottle cl (lv t cl)) s).cluster cl).throttle := by
  induction l generalizing s with
  | nil => exact ⟨rfl, rfl, fun cl h => h.resolve_left List.not_mem_nil⟩
  | cons d l ih =>
    obtain ⟨hmem, hcores, hlevel⟩ := s.setThrottle_leaves d (lv s d)
    obtain ⟨hmem', hcores', hlevel'⟩ := ih (s.setThrottle d (lv s d))
    refine ⟨hmem'.trans hmem, hcores'.trans hcores, fun cl h => hlevel' cl ?_⟩
    rw [hlevel]
    split
    · exact .inr (hlv s d)
    · next hne => exact h.imp_left fun hin => (List.mem_cons.mp hin).resolve_left hne

/-- R308: the clusters' levels, and no lower than the firmware's while the module's power exceeds the cap. -/
theorem State.throttleAll_leaves (s : State) (watts level : Nat) :
    (s.throttleAll watts level).mem = s.mem ∧ (s.throttleAll watts level).cores = s.cores ∧
      (s.powerCap < watts → ∀ cl, cl < 48 → min level 3 ≤ ((s.throttleAll watts level).cluster cl).throttle) := by
  unfold State.throttleAll
  dsimp only
  generalize hp : (if s.powerCap < watts then min level 3 else 0) = p
  obtain ⟨hmem, hcores, hlevel⟩ := State.foldl_setThrottle (p := p)
    (lv := fun t cl => max (nextLevel (t.cluster cl).throttle (t.clusterHeat cl)) p) (fun _ _ => Nat.le_max_right _ _)
    (upTo Config.clusters 0) s
  refine ⟨hmem, hcores, fun hcap cl hcl => ?_⟩
  rw [if_pos hcap] at hp
  rw [hp]
  exact hlevel cl (.inl (mem_upTo.mpr ⟨Nat.zero_le _, by simp only [Config.clusters]; omega⟩))

/-! ## A sample -/

/-- A core whose refresh multiplier will change. -/
def Core.rfshWritten (k : Core) (v at_ : Nat) : Core := { k with rfshNext := v, rfshNextAt := at_ }
theorem State.writeRfsh_eq (s : State) (c v : Nat) : s.writeRfsh c v =
    (s.modCore c (·.rfshWritten v ((s.cyc / refreshPeriod + 1) * refreshPeriod))).schedule
      ((s.cyc / refreshPeriod + 1) * refreshPeriod) (.rfshChange c) := rfl
theorem State.core_writeRfsh (s : State) (c v : Nat) :
    (s.writeRfsh c v).core c = (s.core c).rfshWritten v ((s.cyc / refreshPeriod + 1) * refreshPeriod) := by
  rw [State.writeRfsh_eq, (State.Later.schedule ..).core, State.core_modCore]
theorem State.ctx_writeRfsh (s : State) (c v x : Nat) : (s.writeRfsh c v).ctx c x = s.ctx c x := by
  rw [State.ctx, State.core_writeRfsh]
  rfl

/-- The refresh multiplier and the events after a sample (log entry 62). -/
def State.heated (s : State) (c : Nat) (t : Int) (rise : Bool) : State :=
  if rise then (s.therm c (tallowOf t)).writeRfsh c 2 else if t ≤ 83000 then s.writeRfsh c 1 else s
theorem State.sample_eq (s : State) (c : Nat) (t : Int) (watts level : Nat) : s.sample c t watts level =
    (((s.modCore c (fun k => { k with temp := t, tallow := tallowOf t })).heated c t
      (decide (85000 < t ∧ (s.core c).temp ≤ 85000))).throttleAll watts level).schedulePlacement := rfl

/-- What the heat leaves. -/
theorem State.heated_leaves (s : State) (c : Nat) (t : Int) (rise : Bool) :
    (s.heated c t rise).mem = s.mem ∧ (s.heated c t rise).powerCap = s.powerCap ∧
      ((s.heated c t rise).core c).temp = (s.core c).temp ∧ ((s.heated c t rise).core c).tallow = (s.core c).tallow ∧
      ((s.heated c t rise).core c).nextSample = (s.core c).nextSample := by
  have htherm := s.eventsSet_therm c (tallowOf t)
  unfold State.heated
  generalize s.therm c (tallowOf t) = s1 at htherm ⊢
  split
  · rw [State.core_writeRfsh, htherm.core]
    exact ⟨htherm.mem, htherm.powerCap, rfl, rfl, rfl⟩
  · split
    · rw [State.core_writeRfsh]
      exact ⟨rfl, rfl, rfl, rfl, rfl⟩
    · exact ⟨rfl, rfl, rfl, rfl, rfl⟩
/-- A rise makes the refresh multiplier 2 and THERM pending. -/
theorem State.heated_rise (s : State) (c : Nat) (t : Int) :
    ((s.heated c t true).core c).rfshNext = 2 ∧ ∀ x, x < 4 → (s.ctx c x).status ≠ .free → (s.ctx c x).tmask = true →
      ((s.heated c t true).ctx c x).events.therm = some (BitVec.ofNat 64 (tallowOf t)) := by
  have hheated : s.heated c t true = (s.therm c (tallowOf t)).writeRfsh c 2 := if_pos rfl
  rw [hheated, State.core_writeRfsh]
  refine ⟨rfl, fun x hx hstatus hmask => ?_⟩
  rw [State.ctx_writeRfsh]
  exact State.therm_therm _ hx hstatus hmask
theorem State.heated_cool {s : State} {c : Nat} {t : Int} (h : t ≤ 83000) : ((s.heated c t false).core c).rfshNext = 1 := by
  have hheated : s.heated c t false = s.writeRfsh c 1 := if_pos h
  rw [hheated, State.core_writeRfsh]
  rfl

/-- R306 to R308: a sample of a core. -/
theorem State.sample_leaves (s : State) (c : Nat) (t : Int) (watts level : Nat) :
    (s.sample c t watts level).mem = s.mem ∧
    ((s.sample c t watts level).core c).temp = t ∧
    ((s.sample c t watts level).core c).nextSample = (s.core c).nextSample ∧
    ((s.sample c t watts level).core c).tallow = tallowOf t ∧
    (85000 < t → (s.core c).temp ≤ 85000 → ((s.sample c t watts level).core c).rfshNext = 2 ∧
      ∀ x, x < 4 → (s.ctx c x).status ≠ .free → (s.ctx c x).tmask = true →
        ((s.sample c t watts level).ctx c x).events.therm = some (BitVec.ofNat 64 (tallowOf t))) ∧
    (t ≤ 83000 → ((s.sample c t watts level).core c).rfshNext = 1) ∧
    (s.powerCap < watts → ∀ cl, cl < 48 → min level 3 ≤ ((s.sample c t watts level).cluster cl).throttle) := by
  rw [State.sample_eq]
  generalize hread : s.modCore c (fun k => { k with temp := t, tallow := tallowOf t }) = s1
  have hcore : s1.core c = { s.core c with temp := t, tallow := tallowOf t } := by rw [← hread, State.core_modCore]
  have hctx : ∀ x, s1.ctx c x = s.ctx c x := fun x => by rw [State.ctx, hcore]; rfl
  have hmem : s1.mem = s.mem := hread ▸ rfl
  have hcap : s1.powerCap = s.powerCap := hread ▸ rfl
  generalize hrise : decide (85000 < t ∧ (s.core c).temp ≤ 85000) = rise
  obtain ⟨hmemH, hcapH, htemp, htallow, hnext⟩ := s1.heated_leaves c t rise
  obtain ⟨hmemT, hcoresT, hlevel⟩ := (s1.heated c t rise).throttleAll_leaves watts level
  generalize (s1.heated c t rise).throttleAll watts level = s3 at hmemT hcoresT hlevel ⊢
  have hlater : Later s3 s3.schedulePlacement := .schedule ..
  rw [hlater.mem, hlater.core, State.core_of_cores hcoresT]
  refine ⟨hmemT.trans (hmemH.trans hmem), ?_, ?_, ?_, fun h85 hlow => ?_, fun h83 => ?_, fun hw => hlevel ?_⟩
  · rw [htemp, hcore]
  · rw [hnext, hcore]
  · rw [htallow, hcore]
  · obtain rfl : rise = true := hrise ▸ decide_eq_true ⟨h85, hlow⟩
    obtain ⟨hrfsh, htherm⟩ := s1.heated_rise c t
    refine ⟨hrfsh, fun x hx hstatus hmask => ?_⟩
    rw [hlater.ctx, State.ctx, State.core_of_cores hcoresT, State.ctx_core]
    exact htherm x hx (by rw [hctx]; exact hstatus) (by rw [hctx]; exact hmask)
  · obtain rfl : rise = false := hrise ▸ decide_eq_false (by omega)
    exact State.heated_cool h83
  · rw [hcapH, hcap]
    exact hw

section
variable {s : State} {c : Nat} (hc : c < 192) (milli : List Int) (watts level : Nat)
include hc

theorem sensorSample_due {t : Int} (hlen : milli.length = 6) (ht : t ∈ milli) (hmax : ∀ u ∈ milli, u ≤ t)
    (hdue : SampleDue (s.core c) s.cyc) :
    Leads (.sensorSample c milli watts level) s (fun t' =>
      t'.mem = s.mem ∧ (t'.core c).temp = t ∧ (t'.core c).nextSample = s.cyc + 11000 ∧
      (t'.core c).tallow = (max 0 (min 255 (2 * (85000 - t) / 1000))).toNat ∧
      (85000 < t → (s.core c).temp ≤ 85000 → (t'.core c).rfshNext = 2 ∧
        ∀ x, x < 4 → (s.ctx c x).status ≠ .free → (s.ctx c x).tmask = true →
          (t'.ctx c x).events.therm = some (BitVec.ofNat 64 (t'.core c).tallow)) ∧
      (t ≤ 83000 → (t'.core c).rfshNext = 1) ∧
      (s.powerCap < watts → ∀ cl, cl < 48 → min level 3 ≤ (t'.cluster cl).throttle)) := by
  have hexec : exec (.sensorSample c milli watts level) s =
      .next ((s.modCore c (fun k => { k with nextSample := s.cyc + samplePeriod })).sample c t watts level) := by
    show execSensorSample c milli watts level s = _
    unfold execSensorSample
    rw [if_neg (show ¬Config.cores ≤ c from Nat.not_le.mpr hc), if_neg (by rw [(sampleDue_iff _ _).mpr hdue, hlen]; decide), hottest_of_max ht hmax]
  obtain ⟨hmem, htemp, hnext, htallow, hrise, hcool, hlevel⟩ :=
    (s.modCore c (fun k => { k with nextSample := s.cyc + samplePeriod })).sample_leaves c t watts level
  rw [State.core_modCore] at hnext hrise
  refine ⟨_, hexec, hmem, htemp, hnext, htallow.trans (tallowOf_eq t), fun h85 hlow => ?_, hcool, hlevel⟩
  obtain ⟨hrfsh, htherm⟩ := hrise h85 hlow
  refine ⟨hrfsh, fun x hx hstatus hmask => ?_⟩
  rw [htallow]
  exact htherm x hx (by rw [State.ctx_modCore]; exact hstatus) (by rw [State.ctx_modCore]; exact hmask)
theorem sensorSample_undue (h : milli.length ≠ 6 ∨ ¬SampleDue (s.core c) s.cyc) :
    exec (.sensorSample c milli watts level) s = .next s := by
  show execSensorSample c milli watts level s = _
  unfold execSensorSample
  rw [if_neg (show ¬Config.cores ≤ c from Nat.not_le.mpr hc), if_pos]
  rcases h with h | h
  · exact .inr h
  · exact .inl (by rw [(Bool.eq_false_iff.mpr fun hd => h ((sampleDue_iff _ _).mp hd))]; rfl)

end
end Sys2Proof.Machine
end

section
/-!
SUPPORT. Layers, refresh, migration, repair, sleep and wake of a core (R60, R69, R265, R267, R305).
-/
namespace Sys2Proof.Machine
open Sys2Proof Sys2Proof.Machine

/-! ## Migration (R69) -/

theorem Core.physical_place (k : Core) (b p a : Nat) :
    ({ k with bankMap := k.bankMap.set b p } : Core).physical a = if a = b then p else k.physical a := by
  rw [Core.physical, FMap.get_set]
  split
  · rfl
  · rfl
/-- The bank that is moved lies at its new place. -/
theorem Core.physical_migrate_self (k : Core) (b phys : Nat) : (k.migrate b phys).physical b = phys := by
  unfold Core.migrate
  dsimp only
  split
  all_goals rw [Core.physical_place, if_pos rfl]
/-- A bank that lay elsewhere stays where it is. -/
theorem Core.physical_migrate_ne {k : Core} {b phys a : Nat} (ha : a ≠ b) (hne : k.physical a ≠ phys) :
    (k.migrate b phys).physical a = k.physical a := by
  unfold Core.migrate
  dsimp only
  split
  all_goals rw [Core.physical_place, if_neg ha]
  next other hother =>
    obtain ⟨-, -, hphys, -⟩ := findFrom_eq_some.mp hother
    rw [Core.physical_place, if_neg fun h => hne (by rw [h]; exact of_decide_eq_true hphys)]
/-- The bank that lay at the new place takes the place that becomes free. -/
theorem Core.physical_migrate_swap {k : Core} {b phys a : Nat} (ha : a ≠ b) (ha' : a < 384)
    (hone : ∀ d, d < 384 → k.physical d = phys → d = a) (hphys : k.physical a = phys) :
    (k.migrate b phys).physical a = k.physical b := by
  unfold Core.migrate
  dsimp only
  split
  all_goals rw [Core.physical_place, if_neg ha]
  next other hother =>
    obtain ⟨-, hlt, hat, -⟩ := findFrom_eq_some.mp hother
    rw [Core.physical_place, if_pos (hone other (by simpa only [Config.banks, Nat.zero_add] using hlt) (of_decide_eq_true hat)).symm]
  next hnone =>
    have hno := findFrom_eq_none.mp hnone a (Nat.zero_le _) (by simpa only [Config.banks, Nat.zero_add] using ha')
    exact absurd hphys (of_decide_eq_false hno)

theorem windowEnds_iff (k : Core) (b cyc : Nat) :
    k.windowEnds b cyc = true ↔ 0 < cyc ∧ k.refreshEnd b (cyc - 1) 1 = some cyc := by
  rw [Core.windowEnds, Bool.and_eq_true, decide_eq_true_iff, decide_eq_true_iff]
theorem spareLeft_iff (map : List RepairEntry) (e : RepairEntry) :
    spareLeft map e = true ↔ (map.filter (sharesSpares e)).length < entrySpares e := decide_eq_true_iff
/-- R267, R305: when the firmware migrates a bank (log entry 74). -/
theorem State.mayMigrate_iff (s : State) (c b : Nat) :
    s.mayMigrate c b = true ↔ s.powerCap < 2800 ∨ (∀ x, x < 4 → (s.ctx c x).status = .free) ∨
      16 ≤ (s.repair.filter (sharesSpares (.row c b 0 0))).length := by
  rw [State.mayMigrate, Bool.or_eq_true, Bool.or_eq_true, decide_eq_true_iff, List.all_eq_true, Bool.not_eq_true',
    Bool.eq_false_iff, ne_eq, spareLeft_iff, Nat.not_lt]
  refine or_congr_right (or_congr_left ⟨fun h x hx => ?_, fun h x hx => ?_⟩)
  · exact of_decide_eq_true (h x (mem_upTo.mpr ⟨Nat.zero_le _, by omega⟩))
  · exact decide_eq_true (h x (by have := (mem_upTo.mp hx).2; omega))

section
variable {s : State} {c : Nat} (hc : c < 192)
include hc

/-! ## Layers (R305) -/

theorem layerPowerOn_on {l : Nat} (hl : l < 6) : Leads (.layerPowerOn c l) s (fun t =>
    t.mem = s.mem ∧ (t.core c).layers.get false l = true ∧ (t.core c).ctxs = (s.core c).ctxs) := by
  refine ⟨_, if_neg (not_or.mpr ⟨Nat.not_le.mpr hc, Nat.not_le.mpr hl⟩), rfl, ?_⟩
  rw [State.schedulePlacement, (State.Later.schedule ..).core, State.core_modCore]
  exact ⟨FMap.get_set_self _ _ _ _, rfl⟩
theorem exec_layerPowerOff {l : Nat} (hl : l < 6) : exec (.layerPowerOff c l) s =
    .next (if (s.core c).layerNeeded l then s else s.modCore c (fun k => { k with layers := k.layers.set l false })) :=
  if_neg (not_or.mpr ⟨Nat.not_le.mpr hc, Nat.not_le.mpr hl⟩)

end

/-- The refresh multiplier that was written takes effect in a cycle. -/
def Core.rfshTaken (k : Core) (cyc : Nat) : Core :=
  if k.rfsh = k.rfshNext then k else { k with rfshPrev := k.rfsh, rfshAt := cyc, rfsh := k.rfshNext }
theorem Core.rfshTaken_fields (k : Core) (cyc : Nat) :
    (k.rfshTaken cyc).ctxs = k.ctxs ∧ (k.rfshTaken cyc).rfsh = k.rfshNext ∧
      (k.rfsh ≠ k.rfshNext → ∀ r, (k.rfshTaken cyc).rfshIn r = if r < cyc then k.rfsh else k.rfshNext) := by
  unfold Core.rfshTaken
  split
  · next h => exact ⟨rfl, h, fun hne => absurd h hne⟩
  · refine ⟨rfl, rfl, fun _ r => ?_⟩
    unfold Core.rfshIn
    dsimp only
    split
    · rfl
    · split <;> rfl

theorem State.core_writeRfsh_ne (s : State) {c d : Nat} (v : Nat) (h : d ≠ c) : (s.writeRfsh c v).core d = s.core d := by
  rw [State.writeRfsh_eq, (State.Later.schedule ..).core, State.core_modCore_ne _ _ _ _ h]

/-- The place that the firmware chooses is a place of the core. -/
theorem Core.nthD_placesFor_lt (k : Core) (b n : Nat) : nthD 0 (k.placesFor b) n < 384 := by
  rw [nthD_eq_getD, List.getD_eq_getElem?_getD]
  cases hp : (k.placesFor b)[n]? with
  | none => decide
  | some p =>
    have hmem := (mem_upTo.mp (List.mem_filter.mp (List.mem_of_getElem? hp)).1).2
    rw [Nat.zero_add] at hmem
    exact hmem

theorem Core.layerNeeded_iff (k : Core) (l : Nat) : k.layerNeeded l = true ↔
    ∃ b, b < 384 ∧ k.physical b / 64 = l ∧ ((k.bank b).launch ≠ 0 ∨ b ≠ k.physical b ∨ b ∈ k.workingSet) := by
  simp only [Core.layerNeeded, List.any_eq_true, Bool.and_eq_true, Bool.or_eq_true, decide_eq_true_eq, mem_upTo,
    List.contains_iff_mem, Config.banks]
  constructor
  · rintro ⟨p, ⟨hlo, hhi⟩, b, ⟨-, hb⟩, rfl, hneed⟩
    exact ⟨b, by omega, by omega, or_assoc.mp hneed⟩
  · rintro ⟨b, hb, rfl, hneed⟩
    exact ⟨k.physical b, by omega, b, by omega, rfl, or_assoc.mpr hneed⟩

section
variable {s : State} {c : Nat} (hc : c < 192)
include hc

theorem layerPowerOff_idle {l : Nat} (hl : l < 6) (hidle : ∀ b, b < 384 → (s.core c).physical b / 64 = l →
      (s.core c).physical b = b ∧ ((s.core c).bank b).launch = 0 ∧ b ∉ (s.core c).workingSet) :
    Leads (.layerPowerOff c l) s (fun t =>
      t.mem = s.mem ∧ (t.core c).layers.get true l = false ∧ (t.core c).ctxs = (s.core c).ctxs) := by
  have hno : ¬(s.core c).layerNeeded l = true := by
    rw [Core.layerNeeded_iff]
    rintro ⟨b, hb, hlayer, hneed⟩
    obtain ⟨hphys, hlaunch, hset⟩ := hidle b hb hlayer
    exact hneed.elim (· hlaunch) (·.elim (· hphys.symm) hset)
  refine ⟨_, exec_layerPowerOff hc hl, ?_⟩
  rw [if_neg hno]
  dsimp only
  rw [State.core_modCore]
  exact ⟨rfl, FMap.get_set_self _ _ _ _, rfl⟩
theorem layerPowerOff_needed {l b : Nat} (hl : l < 6) (hb : b < 384) (hlayer : (s.core c).physical b / 64 = l)
    (hlaunch : ((s.core c).bank b).launch ≠ 0) : exec (.layerPowerOff c l) s = .next s := by
  rw [exec_layerPowerOff hc hl, if_pos ((Core.layerNeeded_iff _ _).mpr ⟨b, hb, hlayer, .inl hlaunch⟩)]

/-! ## Refresh (R60) -/

theorem rfshChange_takes_effect : Leads (.rfshChange c) s (fun t => t.mem = s.mem ∧ (t.core c).ctxs = (s.core c).ctxs ∧
    (t.core c).rfsh = (if s.cyc % 68750 = 0 then (s.core c).rfshNext else (s.core c).rfsh) ∧
    (∀ r, s.cyc % 68750 = 0 → (s.core c).rfsh ≠ (s.core c).rfshNext →
      (t.core c).rfshIn r = if r < s.cyc then (s.core c).rfsh else (s.core c).rfshNext) ∧
    ∀ d, d ≠ c → t.core d = s.core d) := by
  by_cases hcyc : s.cyc % 68750 = 0
  · obtain ⟨hctxs, hrfsh, hin⟩ := (s.core c).rfshTaken_fields s.cyc
    refine ⟨s.modCore c (·.rfshTaken s.cyc), (if_neg (Nat.not_le.mpr hc)).trans (if_neg (not_not_intro hcyc)), ?_⟩
    dsimp only
    rw [State.core_modCore, if_pos hcyc]
    exact ⟨rfl, hctxs, hrfsh, fun r _ hne => hin hne r, fun d hd => State.core_modCore_ne _ _ _ _ hd⟩
  · refine ⟨s.writeRfsh c (s.core c).rfshNext, (if_neg (Nat.not_le.mpr hc)).trans (if_pos hcyc), ?_⟩
    dsimp only
    rw [State.core_writeRfsh, if_neg hcyc]
    exact ⟨rfl, rfl, rfl, fun r h => absurd h hcyc, fun d hd => State.core_writeRfsh_ne _ _ hd⟩

theorem exec_refreshWindow {b : Nat} (hb : b < 384) : exec (.refreshWindow c b) s = .next s :=
  if_neg (not_or.mpr ⟨Nat.not_le.mpr hc, Nat.not_le.mpr hb⟩)

/-! ## Migration -/

theorem migration_inRange {b phys : Nat} (hb : b < 384) (hp : phys < 384) :
    ¬(Config.cores ≤ c ∨ Config.banks ≤ b ∨ Config.banks ≤ phys) := by
  simp only [Config.cores, Config.banks]
  omega
theorem bankMigration_switches {b phys : Nat} (hb : b < 384) (hp : phys < 384) (hmay : s.mayMigrate c b = true)
    (hon : (s.core c).layerOn (phys / 64) = true) (hon' : (s.core c).layerOn ((s.core c).physical b / 64) = true)
    (hends : 0 < s.cyc ∧ (s.core c).refreshEnd b (s.cyc - 1) 1 = some s.cyc)
    (hidle : ∀ d, d < 384 → (s.core c).physical d = phys → ((s.core c).bank d).busyUntil ≤ s.cyc) :
    exec (.bankMigration c b phys) s = .next (s.modCore c (fun k => k.migrate b phys)) := by
  show execBankMigration c b phys s = _
  unfold execBankMigration
  rw [if_neg (migration_inRange hc hb hp)]
  dsimp only
  rw [hmay, hon, hon', (windowEnds_iff _ _ _).mpr hends, if_neg (by decide)]
  cases hat : (s.core c).bankAt phys with
  | none => rfl
  | some d =>
    obtain ⟨-, hd, hphys, -⟩ := findFrom_eq_some.mp hat
    have hdone := hidle d (by simpa only [Config.banks, Nat.zero_add] using hd) (of_decide_eq_true hphys)
    have hfree : ((s.core c).bank d).busyAt s.cyc = false := decide_eq_false (Nat.not_lt.mpr hdone)
    exact if_neg (by dsimp only; rw [hfree]; decide)
theorem bankMigration_stays {b phys : Nat} (hb : b < 384) (hp : phys < 384)
    (h : s.mayMigrate c b = false ∨ ¬(s.core c).layerOn (phys / 64) = true ∨
      ¬(s.core c).layerOn ((s.core c).physical b / 64) = true) :
    exec (.bankMigration c b phys) s = .next s := by
  show execBankMigration c b phys s = _
  unfold execBankMigration
  rw [if_neg (migration_inRange hc hb hp)]
  dsimp only
  rw [if_pos]
  simp only [Bool.not_eq_true] at h
  rcases h with h | h | h <;> rw [h] <;> simp
/-- A migration outside the end of a window waits for one. -/
theorem bankMigration_waits {b phys : Nat} (hb : b < 384) (hp : phys < 384)
    (hends : ¬(0 < s.cyc ∧ (s.core c).refreshEnd b (s.cyc - 1) 1 = some s.cyc)) :
    Leads (.bankMigration c b phys) s (fun t => t.mem = s.mem ∧ t.cores = s.cores) := by
  refine ⟨if !s.mayMigrate c b || (!(s.core c).layerOn (phys / 64) || !(s.core c).layerOn ((s.core c).physical b / 64)) then s
    else s.schedule ((s.core c).windowAfter b s.cyc) (.bankMigration c b phys), ?_, ?_⟩
  · show execBankMigration c b phys s = _
    unfold execBankMigration
    rw [if_neg (migration_inRange hc hb hp)]
    dsimp only
    split
    · rfl
    · rw [Bool.eq_false_iff.mpr (mt (windowEnds_iff _ _ _).mp hends)]
      rfl
  · split <;> exact ⟨rfl, rfl⟩

/-! ## Repair (R267) -/

theorem repairSwitch_taken {e : RepairEntry} (he : entryCore e = c)
    (hspare : (s.repair.filter (sharesSpares e)).length < entrySpares e)
    (hends : ∃ b ∈ repairBanks e, 0 < s.cyc ∧ (s.core c).refreshEnd b (s.cyc - 1) 1 = some s.cyc) :
    exec (.repairEntrySwitch e) s = .next { s with repair := s.repair ++ [e] } := by
  obtain ⟨b, hb, hend⟩ := hends
  show execRepairEntrySwitch e s = _
  unfold execRepairEntrySwitch
  dsimp only
  rw [he, if_neg (show ¬Config.cores ≤ c from Nat.not_le.mpr hc), if_pos ((spareLeft_iff _ _).mpr hspare),
    if_pos (List.any_eq_true.mpr ⟨b, hb, (windowEnds_iff (s.core c) b s.cyc).mpr hend⟩)]
theorem repairSwitch_waits {e : RepairEntry} (he : entryCore e = c)
    (hspare : (s.repair.filter (sharesSpares e)).length < entrySpares e)
    (hends : ¬∃ b ∈ repairBanks e, 0 < s.cyc ∧ (s.core c).refreshEnd b (s.cyc - 1) 1 = some s.cyc) :
    ∃ at_, exec (.repairEntrySwitch e) s = .next (s.schedule at_ (.repairEntrySwitch e)) := by
  have hno : ¬(repairBanks e).any (fun b => (s.core c).windowEnds b s.cyc) = true := fun h => by
    obtain ⟨b, hb, hend⟩ := List.any_eq_true.mp h
    exact hends ⟨b, hb, (windowEnds_iff _ _ _).mp hend⟩
  cases hbanks : (repairBanks e).map (fun b => (s.core c).windowAfter b s.cyc) with
  | nil => cases e <;> exact absurd (congrArg List.length hbanks) (by simp [repairBanks, upTo_eq_range, Config.banks])
  | cons t ts =>
    refine ⟨ts.foldl Nat.min t, ?_⟩
    show execRepairEntrySwitch e s = _
    unfold execRepairEntrySwitch
    dsimp only
    rw [he, if_neg (show ¬Config.cores ≤ c from Nat.not_le.mpr hc), if_pos ((spareLeft_iff _ _).mpr hspare), if_neg hno, hbanks]

theorem repairSwitch_migrates {e : RepairEntry} (he : entryCore e = c)
    (hspare : ¬(s.repair.filter (sharesSpares e)).length < entrySpares e) :
    Leads (.repairEntrySwitch e) s (fun t => t.mem = s.mem ∧ t.cores = s.cores ∧ t.repair = s.repair ∧
      ∀ d b r n, e = .row d b r n → ∃ phys, phys < 384 ∧
        ({ s with draws := s.draws + 1 } : State).schedule s.cyc (.bankMigration c b phys) = t) := by
  have hno : ¬spareLeft s.repair e = true := mt (spareLeft_iff _ _).mp hspare
  cases e with
  | row d b r n =>
    obtain rfl : d = c := he
    refine ⟨_, (if_neg (Nat.not_le.mpr hc)).trans (if_neg hno), rfl, rfl, rfl, fun d' b' r' n' heq => ?_⟩
    cases heq
    exact ⟨_, Core.nthD_placesFor_lt _ _ _, rfl⟩
  | lane d v i n =>
    obtain rfl : d = c := he
    exact ⟨s, (if_neg (Nat.not_le.mpr hc)).trans (if_neg hno), rfl, rfl, rfl, fun d' b' r' n' heq => nomatch heq⟩

/-! ## Sleep and wake (R265) -/

theorem coreSleep_sleeps : Leads (.coreSleep c) s (fun t => t.mem = s.mem ∧
    t.core c = if s.maySleep c = true then { s.core c with asleep := true } else s.core c) := by
  refine ⟨_, if_neg (Nat.not_le.mpr hc), ?_⟩
  split
  · exact ⟨rfl, State.core_modCore _ _ _⟩
  · exact ⟨rfl, rfl⟩
theorem exec_coreWake : exec (.coreWake c) s = .next (if (s.core c).eventPending then s.wakeCore c else s) :=
  if_neg (Nat.not_le.mpr hc)

end

theorem Core.eventPending_iff (k : Core) : k.eventPending = true ↔ k.trapQ ≠ [] ∨ k.msgQ ≠ [] := by
  rw [Core.eventPending, Bool.or_eq_true, Bool.not_eq_true', Bool.not_eq_true', List.isEmpty_eq_false_iff,
    List.isEmpty_eq_false_iff]

section
variable {s : State} {c : Nat} (hc : c < 192)
include hc

theorem coreWake_wakes (h : (s.core c).trapQ ≠ [] ∨ (s.core c).msgQ ≠ []) :
    Leads (.coreWake c) s (fun t => t.mem = s.mem ∧ (t.core c).asleep = false ∧ (t.core c).ctxs = (s.core c).ctxs ∧
      (t.core c).awakeFrom = if (s.core c).asleep = true then s.cyc + 8192 else (s.core c).awakeFrom) := by
  refine ⟨_, exec_coreWake hc, ?_⟩
  rw [if_pos ((Core.eventPending_iff _).mpr h)]
  dsimp only
  rw [State.wakeCore, State.core_modCore]
  refine ⟨rfl, ?_⟩
  split
  · exact ⟨rfl, rfl, rfl⟩
  · next hawake => exact ⟨Bool.eq_false_iff.mpr hawake, rfl, rfl⟩
theorem coreWake_sleeps (htrap : (s.core c).trapQ = []) (hmsg : (s.core c).msgQ = []) : exec (.coreWake c) s = .next s := by
  rw [exec_coreWake hc, if_neg]
  rw [Core.eventPending_iff, htrap, hmsg]
  simp

end

theorem platformSteps : PlatformSteps := by
  intro s c hc
  refine ⟨fun l hl => layerPowerOn_on hc hl, fun l hl => layerPowerOff_idle hc hl, fun l b hl => layerPowerOff_needed hc hl,
    fun milli t watts level hlen ht hmax => sensorSample_due hc milli watts level hlen ht hmax,
    fun milli watts level => sensorSample_undue hc milli watts level, rfshChange_takes_effect hc,
    fun b => exec_refreshWindow hc, fun b phys hb hp => ?migration, fun e he => ?repair, coreSleep_sleeps hc, coreWake_wakes hc,
    coreWake_sleeps hc⟩
  case migration =>
    refine ⟨fun hmay hon hon' hends hidle => ⟨_, bankMigration_switches hc hb hp hmay hon hon' hends hidle, rfl, ?_⟩,
      s.mayMigrate_iff c b, bankMigration_stays hc hb hp, bankMigration_waits hc hb hp⟩
    rw [State.core_modCore]
    exact ⟨Core.physical_migrate_self _ _ _, fun a ha => ⟨Core.physical_migrate_ne ha, Core.physical_migrate_swap ha⟩⟩
  case repair =>
    refine ⟨repairSwitch_taken hc he, fun hspare hends => ?_, repairSwitch_migrates hc he⟩
    obtain ⟨at_, hat⟩ := repairSwitch_waits hc he hspare hends
    exact ⟨_, hat, rfl, rfl, rfl, at_, rfl⟩

/-- Settles O34: the links and the platform, each step by the lemma about it. -/
theorem linksAndPlatform : Obligations.LinksAndPlatform := ⟨linkSteps, platformSteps⟩

end Sys2Proof.Machine
end

section
/-!
SUPPORT. Decoder and encoder (R70 to R82): the row of the tables that a code names, the codes of instructions, and the words
of moves.
-/
namespace Sys2Proof

open Sys2Proof.Machine

/-! ## Codes (R72 to R78, Tables 4.2 to 4.15) -/

/-- The row of the tables that a code with its reserved bits 0 names, with the code's fields. -/
def Code.row : Code → Option Instr
  | .s w => (sTable (opcodeOf w)).map (fun mk => mk (sFields w))
  | .v w => if bitOfWord w 0 = true then none else (vTable (opcodeOf w)).map (fun mk => mk (vFields w))
  | .l w => (lTable (opcodeOf w)).map (fun mk => mk (lFields w))
  | .e w => (eTable (opcodeOf w)).map (fun mk => mk (eFields w))
  | .x w =>
    if w.extractLsb' 0 2 ≠ 0 then none
    else if w.extractLsb' 2 2 = 0 then
      some (if (moveFields w).src = 0 then .xtrg (moveFields w) else .xmov (moveFields w))
    else if w.extractLsb' 2 2 = 1 then some (.xmovl (moveFields w))
    else none

theorem checked_of_wf {i : Instr} (h : i.wf = true) : checked i = .instr i := if_pos h

theorem ne_zero_of_row {α : Type} {table : Nat → Option α} {n : Nat} {row : α} (h0 : table 0 = none)
    (h : table n = some row) : n ≠ 0 := by
  rintro rfl
  rw [h0] at h
  cases h

/-- R81, R82: a code that names a row is decoded to it when the row's form takes the fields. -/
theorem decodeCode_of_row {code : Code} {i : Instr} (hrow : code.row = some i) (hwf : i.wf = true) :
    decodeCode code = .instr i := by
  cases code with
  | s w =>
    obtain ⟨mk, hmk, rfl⟩ := Option.map_eq_some_iff.mp hrow
    have hop := ne_zero_of_row rfl hmk
    simp only [decodeCode, decodeS, if_neg hop, hmk]
    exact checked_of_wf hwf
  | v w =>
    obtain ⟨hbit, hrow⟩ := (Option.ite_none_left_eq_some).mp hrow
    obtain ⟨mk, hmk, rfl⟩ := Option.map_eq_some_iff.mp hrow
    have hop := ne_zero_of_row rfl hmk
    simp only [decodeCode, decodeV, if_neg hop, if_neg hbit, hmk]
    exact checked_of_wf hwf
  | l w =>
    obtain ⟨mk, hmk, rfl⟩ := Option.map_eq_some_iff.mp hrow
    have hop := ne_zero_of_row rfl hmk
    simp only [decodeCode, decodeL, if_neg hop, hmk]
    exact checked_of_wf hwf
  | e w =>
    obtain ⟨mk, hmk, rfl⟩ := Option.map_eq_some_iff.mp hrow
    have hop := ne_zero_of_row rfl hmk
    simp only [decodeCode, decodeE, if_neg hop, hmk]
    exact checked_of_wf hwf
  | x w =>
    obtain ⟨hlow, hrow⟩ := (Option.ite_none_left_eq_some).mp hrow
    rw [decodeCode, decodeMove, if_neg hlow]
    split_ifs at hrow ⊢ <;> cases hrow <;> exact checked_of_wf hwf

theorem row_encS (op : BitVec 8) (f : SSlot) : (Code.s (encS op f)).row = (sTable op.toNat).map (fun mk => mk f) := by
  rw [Code.row, opcodeOf_encS, sFields_encS]
theorem row_encV (op : BitVec 8) (f : VSlot) : (Code.v (encV op f)).row = (vTable op.toNat).map (fun mk => mk f) := by
  rw [Code.row, opcodeOf_encV, vFields_encV, encV_bit0, if_neg Bool.false_ne_true]
theorem row_encL (op : BitVec 8) (f : LSlot) : (Code.l (encL op f)).row = (lTable op.toNat).map (fun mk => mk f) := by
  rw [Code.row, opcodeOf_encL, lFields_encL]
theorem row_encE (op : BitVec 8) (f : ESlot) : (Code.e (encE op f)).row = (eTable op.toNat).map (fun mk => mk f) := by
  rw [Code.row, opcodeOf_encE, eFields_encE]
theorem row_encMove_scalar (f : Move) :
    (Code.x (encMove 0 f)).row = some (if f.src = 0 then .xtrg f else .xmov f) := by
  simp [Code.row, moveFields_encMove, encMove_low, encMove_width]
theorem row_encMove_line (f : Move) : (Code.x (encMove 1 f)).row = some (.xmovl f) := by
  simp [Code.row, moveFields_encMove, encMove_low, encMove_width]

/-! ## Writes of special registers (R116) -/

theorem number_of_sMtsTo {n : Nat} {f : SSlot} (h : sMtsTo n f = true) : f.imm.toNat = n := by
  simp only [sMtsTo, Bool.and_eq_true, decide_eq_true_eq] at h
  exact h.2.2
/-- The write of a register without a row of its own is an MTS. -/
theorem mtsOf_eq_mts {f : SSlot} (h : sMtsOther f = true) : mtsOf f = .mts f := by
  obtain ⟨hpwin, htrap, hsnap, hinj, htroot⟩ := of_decide_eq_true (Bool.and_eq_true _ _ ▸ h).2
  rw [mtsOf, if_neg hpwin, if_neg htrap, if_neg hsnap, if_neg hinj, if_neg htroot]

/-- A write of DBG has the code of its MTS, which is well formed. -/
theorem decodeCode_dbg {f : SSlot} (h : sMtsTo 0x28 f = true) : decodeCode (.s (encS 0x54 f)) = .instr (.mts f) := by
  have hn : f.imm.toNat = 0x28 := number_of_sMtsTo h
  have hmts : sMtsOther f = true := by
    simp only [sMtsTo, Bool.and_eq_true, decide_eq_true_eq] at h
    obtain ⟨hd, hb, -⟩ := h
    simp [sMtsOther, sMts, hd, hb, hn]
  refine decodeCode_of_row ?_ hmts
  rw [row_encS]
  exact congrArg some (mtsOf_eq_mts hmts)

/-! ## Codes of instructions -/

/-- The code of a well-formed instruction that has no other name names its row. -/
theorem row_of_encode {i : Instr} {code : Code} (hwf : i.wf = true) (h : encode i = some code) (hnop : i ≠ .nop)
    (hname : ¬OtherName i) : code.row = some i := by
  cases i
  case nop => exact absurd rfl hnop
  case dbgControlWrite f | dbgBreakpointWrite f | dbgWatchWrite f => exact absurd (.inl ⟨f, by simp⟩) hname
  case tanKset m | tanFit m | tanEval m | tanSlope m | rngSeed m | rngNext m | crcInit m | crcLine m =>
    exact absurd (.inr ⟨m, by simp⟩) hname
  all_goals cases h
  case mts f =>
    rw [row_encS]
    exact congrArg some (mtsOf_eq_mts hwf)
  case pwinWrite f | trapinfoDismiss f | snapWrite f | injWrite f | trootWrite f =>
    have hn := number_of_sMtsTo hwf
    rw [row_encS]
    exact congrArg some (by simp [mtsOf, hn])
  case xmov m =>
    have hsrc : m.src ≠ 0 := of_decide_eq_true (Bool.and_eq_true _ _ ▸ hwf).1
    rw [row_encMove_scalar, if_neg hsrc]
  case xtrg m =>
    have hsrc : m.src = 0 := of_decide_eq_true (Bool.and_eq_true _ _ ▸ hwf).1
    rw [row_encMove_scalar, if_pos hsrc]
  case xmovl m => exact row_encMove_line m
  all_goals
    simp only [row_encS, row_encV, row_encL, row_encE]
    rfl

theorem triggerOf_move {m : Move} {i j : Instr} (hi : i ∈ [Instr.xmov m, .xmovl m, .xtrg m])
    (hj : (m.dst.toNat, j) ∈ [(0x048, Instr.tanFit m), (0x049, .tanEval m), (0x04A, .tanSlope m), (0x04B, .tanKset m),
      (0x060, .rngSeed m), (0x061, .rngNext m), (0x070, .crcInit m), (0x071, .crcLine m)]) : triggerOf i = some j := by
  have hmove : triggerOf i = triggerOf (.xmov m) := by
    simp only [List.mem_cons, List.not_mem_nil, or_false] at hi
    rcases hi with rfl | rfl | rfl <;> rfl
  rw [hmove]
  simp only [List.mem_cons, List.not_mem_nil, or_false, Prod.mk.injEq] at hj
  rcases hj with ⟨hp, rfl⟩ | ⟨hp, rfl⟩ | ⟨hp, rfl⟩ | ⟨hp, rfl⟩ | ⟨hp, rfl⟩ | ⟨hp, rfl⟩ | ⟨hp, rfl⟩ | ⟨hp, rfl⟩ <;>
    simp [triggerOf, hp]

theorem decodeEncode : DecodeEncode := by
  refine ⟨fun i code hwf hcode hnop hname => decodeCode_of_row (row_of_encode hwf hcode hnop hname) hwf,
    ⟨.s 0, rfl, rfl⟩, fun f i hi hwf => ?_, fun m i hi p hp hdst => triggerOf_move hi (hdst ▸ hp)⟩
  simp only [List.mem_cons, List.not_mem_nil, or_false] at hi
  rcases hi with rfl | rfl | rfl <;> exact ⟨_, rfl, decodeCode_dbg hwf⟩

/-! ## Words of moves (R79, Table 4.11) -/

theorem checked_eq_instr {i j : Instr} (h : checked i = .instr j) : i = j := by
  unfold checked at h
  split at h <;> cases h
  rfl
theorem toNat_extractLsb'_eq_div_mod {m : Nat} (w : BitVec m) (lo n : Nat) :
    (w.extractLsb' lo n).toNat = w.toNat / 2 ^ lo % 2 ^ n := by
  rw [BitVec.extractLsb'_toNat, Nat.shiftRight_eq_div_pow]

theorem moveWords : MoveWords := by
  intro w
  have hreserved : w.extractLsb' 0 2 = 0 ↔ w.toNat % 4 = 0 := by
    rw [← BitVec.toNat_inj, toNat_extractLsb'_eq_div_mod, pow_zero, Nat.div_one]
    rfl
  have hwidth : ∀ n : BitVec 2, w.extractLsb' 2 2 = n ↔ w.toNat / 4 % 4 = n.toNat := fun n => by
    rw [← BitVec.toNat_inj, toNat_extractLsb'_eq_div_mod]
    rfl
  refine ⟨fun h => if_pos (mt hreserved.mp h), fun i hi => ⟨moveFields w, ?guard, ?dst, ?src, ?form⟩⟩
  case guard =>
    have := w.isLt
    exact (toNat_extractLsb'_eq_div_mod w 28 4).trans (Nat.mod_eq_of_lt (by omega))
  case dst => exact toNat_extractLsb'_eq_div_mod w 16 12
  case src => exact toNat_extractLsb'_eq_div_mod w 4 12
  case form =>
    unfold decodeMove at hi
    split_ifs at hi with hlow hscalar hsrc hline
    all_goals rw [not_not, hreserved] at hlow
    · have hw : w.toNat / 4 % 4 = 0 := (hwidth 0).mp hscalar
      exact .inl ⟨by omega, hsrc, (checked_eq_instr hi).symm⟩
    · have hw : w.toNat / 4 % 4 = 0 := (hwidth 0).mp hscalar
      exact .inr (.inl ⟨by omega, hsrc, (checked_eq_instr hi).symm⟩)
    · have hw : w.toNat / 4 % 4 = 1 := (hwidth 1).mp hline
      exact .inr (.inr ⟨by omega, (checked_eq_instr hi).symm⟩)

/-- Settles O59: the code of an instruction names its row of the tables (`row_of_encode`), and a code that names a row is
decoded to it; a move's word is read field by field. -/
theorem decodeEncodeAgree : Obligations.DecodeEncodeAgree := ⟨decodeEncode, moveWords⟩

/-- Settles O60: each word decoded. -/
theorem wordsOfTheTables : Obligations.WordsOfTheTables := by
  unfold Obligations.WordsOfTheTables
  decide

end Sys2Proof
end

section
/-!
SUPPORT. Operands of V slots (R66, R75, R76, R118, R119, R143): what each code names, what a tile line and a port give, and
what holds them back.
-/
namespace Sys2Proof

open Sys2Proof.Machine

/-! ## Codes of operands (Tables 4.5 and 4.6) -/

/-- R75: direction, tile and index of a tile line. -/
theorem operandOf_tileLine {v : BitVec 14} {dir t n : Nat} (hdir : dir < 3) (ht : t < 96) (hn : n < 32)
    (hv : v.toNat = 2 ^ 12 * dir + 32 * t + n) :
    operandOf v = if dir = 0 then .row t n else if dir = 1 then .col t n else .diag t n := by
  have hd : fieldOf v 12 2 = dir := by rw [fieldOf]; omega
  have htile : fieldOf v 5 7 = t := by rw [fieldOf]; omega
  have hindex : fieldOf v 0 5 = n := by rw [fieldOf]; omega
  rw [operandOf, hd, htile, hindex, if_neg (by omega), if_neg (by omega)]

theorem operandOf_eq {v : BitVec 14} {m : Nat} {o : Operand} (hv : v.toNat = m) (h : operandOf (BitVec.ofNat 14 m) = o) :
    operandOf v = o := by
  rwa [← hv, BitVec.ofNat_toNat, BitVec.setWidth_eq] at h
theorem operandOf_readPort {v : BitVec 14} {n : Nat} (hn : n < 6) (hv : v.toNat = 0x3010 + n) : operandOf v = .ip n :=
  operandOf_eq hv ((by decide : ∀ n, n < 6 → operandOf (BitVec.ofNat 14 (0x3010 + n)) = .ip n) n hn)
theorem operandOf_writePort {v : BitVec 14} {n : Nat} (hn : n < 4) (hv : v.toNat = 0x3020 + n) : operandOf v = .op n :=
  operandOf_eq hv ((by decide : ∀ n, n < 4 → operandOf (BitVec.ofNat 14 (0x3020 + n)) = .op n) n hn)

/-! ## Tile lines (R75, R118, R119) -/

section
variable {s : State} {v : BitVec 14} {t : Nat}

theorem lineValue_row {n : Nat} (h : operandOf v = .row t n) : lineValue s v = s.here.tileRow (s.me.tileBase + t) n := by
  simp only [lineValue, tileValue, h, Core.readLine]
theorem laneOf_lineValue_col {n i : Nat} (h : operandOf v = .col t n) (hi : i < 32) :
    laneOf (lineValue s v) i = laneOf (s.here.tileRow (s.me.tileBase + t) i) n := by
  simp only [lineValue, tileValue, h, Core.readLine, laneOf_lineOf _ _ hi]
theorem laneOf_lineValue_diag {n i : Nat} (h : operandOf v = .diag t n) (hi : i < 32) :
    laneOf (lineValue s v) i = laneOf (s.here.tileRow (s.me.tileBase + t) i) ((i + n) % 32) := by
  simp only [lineValue, tileValue, h, Core.readLine, laneOf_lineOf _ _ hi]

section
variable (ht : (operandOf v).tile? = some t)
include ht

theorem lineChecks_of_tile : lineChecks s v = tileChecks s v ++ tileDamage s v := by
  cases hv : operandOf v <;> rw [hv] at ht
  case row | col | diag => simp only [lineChecks, hv]
  all_goals cases ht
theorem lineResult_of_tile (lat : Nat) (x : Line) (mask : BitVec 32) (g : BitVec 5) :
    lineResult s v lat x mask g = tileChecks s v ++ [result (.tile v) lat x mask g] := by
  cases hv : operandOf v <;> rw [hv] at ht
  case row | col | diag => simp only [lineResult, hv]
  all_goals cases ht

/-- R75: a tile outside the allocation raises TILE. -/
theorem tileChecks_outside (hout : s.me.tileCount ≤ t) : ∃ es, tileChecks s v = .trap .tile (BitVec.ofNat 64 t) :: es := by
  simp only [tileChecks, ht, if_neg (Nat.not_lt.mpr hout)]
  exact ⟨_, rfl⟩
/-- R12, R164: a line whose tile an engine holds, or that a global load still has to fill, is waited for. -/
theorem tileChecks_held (hin : t < s.me.tileCount)
    (hheld : s.here.tileHeld (s.me.tileBase + t) s.cyc = true ∨ s.me.lineHeld (operandOf v) s.cyc = true) :
    tileChecks s v = releaseFor s (s.here.tileHolders (s.me.tileBase + t) s.cyc) ++ [.wait 3 none] := by
  simp only [tileChecks, ht, if_pos hin, if_pos hheld, List.nil_append]

end
end

theorem implicit_of_mem_releaseFor {s : State} {ids : List Nat} {e : Effect} (h : e ∈ releaseFor s ids) : e = .implicit := by
  unfold releaseFor at h
  split at h
  · exact List.mem_singleton.mp h
  · cases h

/-! ## Ports (R63, R66, R143) -/

section
variable {s : State} {p : Port}

theorem portRefused_of_free (h : p.holder = none) : portRefused s p = true := by
  rw [portRefused, h]
theorem portRefused_of_mine {h : Nat} (hh : p.holder = some h) (hme : h = s.cur.ctx ∨ s.cur.ctx = 4) :
    portRefused s p = false := by
  rw [portRefused, hh]
  rcases hme with rfl | hs
  · simp
  · simp [State.user, hs]
theorem away_of_home {cyc : Nat} (h : AtHome p cyc) : p.away cyc = false := by
  obtain ⟨hlent, hfrom⟩ := h
  simp [Port.away, hlent, hfrom]
theorem stopped_eq_none (h : p.fault = none ∨ p.coming ≠ []) : p.stopped = none := by
  unfold Port.stopped
  rcases h with h | h
  · simp [h]
  · exact if_neg (by rwa [List.isEmpty_iff])
theorem stopped_eq_fault (h : p.coming = []) : p.stopped = p.fault := by
  rw [Port.stopped, h]
  rfl

end

section
variable {s : State} {n h : Nat} {p : Port} (hh : p.holder = some h) (hme : h = s.cur.ctx ∨ s.cur.ctx = 4)
  (hhome : AtHome p s.cyc)
include hh hme hhome

section
variable (hp : s.here.port n = p)
include hp

theorem popChecks_of_line {l : PortLine} {ls : List PortLine} (hfifo : p.fifo = l :: ls)
    (hgood : s.here.bad (locPort n) = false) : popChecks s n = [.pop n] := by
  simp [popChecks, hp, portRefused_of_mine hh hme, away_of_home hhome, hfifo, hgood]
theorem popChecks_of_empty (hfifo : p.fifo = []) (hstop : p.stopped = none) :
    popChecks s n = [.wait 4 (some (.port (0x3010 + n)))] := by
  simp [popChecks, hp, portRefused_of_mine hh hme, away_of_home hhome, hfifo, hstop]
theorem popChecks_of_stopped {f : Cause × Nat} (hfifo : p.fifo = []) (hstop : p.stopped = some f) :
    popChecks s n = [faultTrap f] := by
  simp [popChecks, hp, portRefused_of_mine hh hme, away_of_home hhome, hfifo, hstop]

end

section
variable (hp : s.here.port (6 + n) = p) (hfault : p.fault = none)
include hp hfault

theorem pushChecks_of_full (hfull : Descr.product p.cfg ≤ p.pos + p.reserved ∨ 16 ≤ p.fifo.length + p.reserved) :
    pushChecks s n = [.wait 4 (some (.port (0x3020 + n)))] := by
  simp [pushChecks, hp, portRefused_of_mine hh hme, away_of_home hhome, hfault, hfull]

variable (hline : p.pos + p.reserved < Descr.product p.cfg) (hroom : p.fifo.length + p.reserved < 16)
include hline hroom

theorem pushChecks_of_fault {c : Cause}
    (hacc : s.here.portAccess 3 n p.holder (Descr.flatAt p.cfg (p.pos + p.reserved)) = .faults c) :
    pushChecks s n = [.trap c (BitVec.ofInt 64 (Descr.flatAt p.cfg (p.pos + p.reserved))),
      .portFault (6 + n) c (Descr.flatAt p.cfg (p.pos + p.reserved))] := by
  simp [pushChecks, hp, portRefused_of_mine hh hme, away_of_home hhome, hfault, Nat.not_le.mpr hline,
    Nat.not_le.mpr hroom, hacc]
theorem pushChecks_of_ready (hacc : s.here.portAccess 3 n p.holder (Descr.flatAt p.cfg (p.pos + p.reserved)) = .ready) :
    pushChecks s n = [.reserve n] := by
  simp [pushChecks, hp, portRefused_of_mine hh hme, away_of_home hhome, hfault, Nat.not_le.mpr hline,
    Nat.not_le.mpr hroom, hacc]

end

end

theorem lineChecks_readPort {s : State} {v : BitVec 14} {n : Nat} (h : operandOf v = .ip n) :
    lineChecks s v = popChecks s n ∧ lineValue s v = popValue s n := by
  simp only [lineChecks, lineValue, h, and_self]
/-- R119: a write port takes a whole line, with +0 in the lanes that are not written. -/
theorem lineResult_writePort {s : State} {v : BitVec 14} {n : Nat} (h : operandOf v = .op n) (lat : Nat) (x : Line)
    (mask : BitVec 32) (g : BitVec 5) :
    lineResult s v lat x mask g = pushChecks s n ++ [result (.push n) lat (mergeLanes mask 0 x) allLanes g] := by
  simp only [lineResult, h]
theorem laneOf_zero (k : Nat) : laneOf 0 k = 0 := BitVec.extractLsb'_zero ..

/-- Settles O21: each form of operand by what its code names, a tile line by `tileChecks`, a port by what a pop or a push
finds. -/
theorem vectorOperands : Obligations.VectorOperands := by
  intro s v
  refine ⟨fun t n ht hn => ⟨fun hv => ?row, fun hv => ?col, fun hv => ?diag⟩,
    fun t ht => ⟨fun hout => ?outside, fun hin hheld => ?held, fun lat x mask g => lineResult_of_tile ht lat x mask g⟩,
    fun hv => ?zero, fun hv => ?bc, fun n h hn hv => ⟨fun hfree => ?popFree, fun hh hme hhome => ?pop⟩,
    fun n h lat x mask g hn hv => ⟨fun hfree => ?pushFree, fun hh hme hhome hfault => ?push⟩⟩
  case row =>
    have ho : operandOf v = .row t n := operandOf_tileLine (dir := 0) (by decide) ht hn (by omega)
    exact ⟨ho, lineValue_row ho⟩
  case col =>
    have ho : operandOf v = .col t n := operandOf_tileLine (dir := 1) (by decide) ht hn (by omega)
    exact ⟨ho, fun i hi => laneOf_lineValue_col ho hi⟩
  case diag =>
    have ho : operandOf v = .diag t n := operandOf_tileLine (dir := 2) (by decide) ht hn (by omega)
    exact ⟨ho, fun i hi => laneOf_lineValue_diag ho hi⟩
  case outside =>
    obtain ⟨es, hes⟩ := tileChecks_outside ht hout
    exact ⟨es ++ tileDamage s v, by rw [lineChecks_of_tile ht, hes, List.cons_append]⟩
  case held =>
    refine ⟨releaseFor s (s.here.tileHolders (s.me.tileBase + t) s.cyc), tileDamage s v, ?_,
      fun e he => implicit_of_mem_releaseFor he⟩
    rw [lineChecks_of_tile ht, tileChecks_held ht hin (.inl hheld), List.append_assoc, List.singleton_append]
  case zero =>
    have ho : operandOf v = .zero := operandOf_eq hv (by decide)
    refine ⟨by simp only [lineChecks, ho], by simp only [lineValue, ho], fun lat x mask g => ?_⟩
    simp only [lineResult, ho, result]
  case bc =>
    have ho : operandOf v = .bc := operandOf_eq hv (by decide)
    simp only [lineChecks, lineValue, ho, and_self]
  case popFree =>
    rw [(lineChecks_readPort (operandOf_readPort hn hv)).1]
    exact if_pos (portRefused_of_free hfree)
  case pop =>
    obtain ⟨hchecks, hvalue⟩ := lineChecks_readPort (s := s) (operandOf_readPort hn hv)
    rw [hchecks, hvalue]
    refine ⟨fun l ls hfifo hgood => ⟨popChecks_of_line hh hme hhome rfl hfifo hgood, ?_⟩, fun hfifo hno => ?_,
      fun c a hfifo hcoming hfault => ?_⟩
    · rw [popValue, hfifo]
    · exact ⟨_, popChecks_of_empty hh hme hhome rfl hfifo (stopped_eq_none hno)⟩
    · exact popChecks_of_stopped hh hme hhome rfl hfifo ((stopped_eq_fault hcoming).trans hfault)
  case pushFree =>
    have hchecks : pushChecks s n = [.trap .ill (opCode n)] := if_pos (portRefused_of_free hfree)
    rw [lineResult_writePort (operandOf_writePort hn hv), hchecks]
    exact ⟨_, rfl⟩
  case push =>
    rw [lineResult_writePort (operandOf_writePort hn hv)]
    refine ⟨fun cause hline hroom hacc => ?_, fun hline hroom hacc => ⟨mergeLanes mask 0 x, fun k hk => ?_, ?_⟩,
      fun hfull => ?_⟩
    · rw [pushChecks_of_fault hh hme hhome rfl hfault hline hroom hacc]
      exact ⟨_, rfl⟩
    · rw [laneOf_mergeLanes _ _ _ _ hk, laneOf_zero, bitOf_eq_getLsbD]
    · rw [pushChecks_of_ready hh hme hhome rfl hfault hline hroom hacc]
      rfl
    · rw [pushChecks_of_full hh hme hhome rfl hfault hfull]
      exact ⟨_, _, rfl⟩

end Sys2Proof
end

section
/-!
SUPPORT. GLD, GLDS, GST and GSTS (R77, R139 to R141): the address, its translation, and what a transfer waits for or raises.
-/
namespace Sys2Proof

open Sys2Proof.Machine

/-! ## The address (R77, R139) -/

theorem globalOffset_lt (f : LSlot) : f.flags.toNat * 2 ^ 22 + f.bank.toNat * 2 ^ 13 + f.line.toNat < 2 ^ 28 := by
  have := f.flags.isLt
  have := f.bank.isLt
  have := f.line.isLt
  omega
/-- A number of `w` bits, read as a two's complement value. -/
theorem signedOf_of_lt {w v : Nat} (h : v < 2 ^ w) : signedOf w v = if 2 * v < 2 ^ w then (v : Int) else v - (2 ^ w : Nat) := by
  rw [signedOf, Nat.mod_eq_of_lt h]
theorem globalOffset_eq (f : LSlot) {off : Nat} (h : f.flags.toNat * 2 ^ 22 + f.bank.toNat * 2 ^ 13 + f.line.toNat = off) :
    globalOffset f = if off < 2 ^ 27 then (off : Int) else (off : Int) - 2 ^ 28 := by
  have hoff : off < 2 ^ 28 := h ▸ globalOffset_lt f
  rw [globalOffset, h, signedOf_of_lt hoff]
  exact if_congr (by omega) rfl rfl
theorem globalVa_eq (s : State) (f : LSlot) (size : Nat) : globalVa s f size =
    ((((s.me.readC f.c.toNat).toNat : Int) + size * globalOffset f) % 2 ^ 64).toNat / size * size := by
  rw [globalVa, wrapOf, Nat.div_mul_self_eq_mod_sub_self]
  rfl

/-! ## Translation (R139, R287) -/

section
variable {s : State} {va size : Nat} {read write : Bool}

theorem translated_of_hit {pa : Nat} (k : Nat → List Effect) (hap : apertureOf va = none)
    (hx : s.xlate (s.cur.core / 4) va size read write false = .hit pa) : translated s va size read write k = k pa := by
  rw [translated, hap, show clusterOf s.cur.core = s.cur.core / 4 from rfl, hx]
  rfl
theorem translated_of_fault (k : Nat → List Effect)
    (h : (apertureOf va).isSome = true ∨ s.xlate (s.cur.core / 4) va size read write false = .fault ∨
      (s.xlate (s.cur.core / 4) va size read write false = .miss ∧ s.me.walkFault = some va)) :
    translated s va size read write k = xlatTrap va := by
  rw [translated, show clusterOf s.cur.core = s.cur.core / 4 from rfl]
  rcases h with hap | hx | ⟨hx, hwalk⟩
  · rw [if_pos hap]
  · rw [hx, ite_self]
  · rw [hx]
    dsimp only
    rw [if_pos hwalk, ite_self]
theorem translated_of_miss (k : Nat → List Effect) (hap : apertureOf va = none)
    (hx : s.xlate (s.cur.core / 4) va size read write false = .miss) (hwalk : s.me.walkFault ≠ some va) :
    translated s va size read write k = [.walk va read write, .wait 12 none] := by
  rw [translated, hap, show clusterOf s.cur.core = s.cur.core / 4 from rfl, hx]
  exact if_neg hwalk

end

/-! ## What a transfer waits for -/

/-- The register that a scalar form moves. -/
theorem globalReg_eq (f : LSlot) : fieldOf f.opnd 0 6 = f.opnd.toNat % 64 := fieldOf_zero ..
theorem outboundFull_of_room {s : State} (h : classedCount s.me.out < 32) : outboundFull s = [] := if_neg (Nat.not_le.mpr h)
theorem pendingReg_eq_false {s : State} {n : Nat} (h : ∀ e ∈ s.me.pwq, e.dest ≠ .creg n) : pendingReg s n = false :=
  List.any_eq_false.mpr (fun e he => by simpa using h e he)

section
variable {s : State} {f : LSlot} {va : Nat} {es : List Effect} (hg : GuardTrue s f.g)
include hg

section
variable (hva : globalVa s f 128 = va)
include hva

theorem gld_does (hroom : classedCount s.me.out < 32) (hready : TileReady s f.opnd) (hpend : pendingTile s f.opnd = false)
    (h : translated s va 128 true false (fun pa => [.load f.oc.toNat (.loadTile f.opnd) va pa]) = es) : Does (.gld f) s es := by
  subst hva
  refine does_of_lslot hg rfl ?_
  rw [tileChecks_of_ready hready, hpend, outboundFull_of_room hroom, h]
  rfl
theorem gst_does (hready : TileReady s f.opnd)
    (h : translated s va 128 false true (fun pa => [.held f.oc.toNat (.storeLine (lineValue s f.opnd)) va pa]) = es) :
    Does (.gst f) s es := by
  subst hva
  obtain ⟨hchecks, hvalue⟩ := lineChecks_of_ready hready
  refine does_of_lslot hg rfl ?_
  rw [hchecks, ← hvalue, h]
  rfl

end

section
variable (hva : globalVa s f 8 = va)
include hva

theorem glds_does (hroom : classedCount s.me.out < 32) (hpend : pendingReg s (f.opnd.toNat % 64) = false)
    (h : translated s va 8 true false (fun pa => [.load f.oc.toNat (.loadReg (f.opnd.toNat % 64)) va pa]) = es) :
    Does (.glds f) s es := by
  subst hva
  refine does_of_lslot hg rfl ?_
  rw [globalReg_eq, hpend, outboundFull_of_room hroom, h]
  rfl
theorem gsts_does
    (h : translated s va 8 false true (fun pa => [.held f.oc.toNat (.storeWord (s.me.readC (f.opnd.toNat % 64))) va pa]) = es) :
    Does (.gsts f) s es := by
  subst hva
  refine does_of_lslot hg rfl ?_
  rw [globalReg_eq]
  exact h

end

/-- R140: a load whose destination line awaits a pending result raises ILL. -/
theorem gld_pending (hready : TileReady s f.opnd) (hpend : pendingTile s f.opnd = true) :
    ∃ es, Does (.gld f) s (.trap .ill 0 :: es) :=
  ⟨_, does_of_lslot hg rfl (by rw [tileChecks_of_ready hready, hpend]; rfl)⟩
theorem glds_pending (hpend : pendingReg s (f.opnd.toNat % 64) = true) : ∃ es, Does (.glds f) s (.trap .ill 0 :: es) :=
  ⟨_, does_of_lslot hg rfl (by rw [globalReg_eq, hpend]; rfl)⟩

/-- R107: a load waits while the outbound queue is full. -/
theorem globalLoad_waits (hfull : ¬classedCount s.me.out < 32) {i : Instr} (hi : i ∈ [Instr.gld f, .glds f]) :
    DoesAmong i s (.wait 5 none) := by
  have hwait : Effect.wait 5 none ∈ outboundFull s := by
    rw [outboundFull, if_pos (Nat.not_lt.mp hfull)]
    exact List.mem_singleton_self _
  simp only [List.mem_cons, List.not_mem_nil, or_false] at hi
  rcases hi with rfl | rfl <;>
    exact doesAmong_of_mem hg rfl (List.mem_append_left _ (List.mem_append_right _ hwait))
/-- R140, R164: a form waits for its tile line while an engine or a load holds it. -/
theorem globalLine_waits {t : Nat} (ht : (operandOf f.opnd).tile? = some t)
    (hheld : s.here.tileHeld (s.me.tileBase + t) s.cyc = true ∨ s.me.lineHeld (operandOf f.opnd) s.cyc = true) {i : Instr}
    (hi : i ∈ [Instr.gld f, .gst f]) : DoesAmong i s (.wait 3 none) := by
  have hwait : Effect.wait 3 none ∈ tileChecks s f.opnd := by
    simp [tileChecks, ht, hheld]
  simp only [List.mem_cons, List.not_mem_nil, or_false] at hi
  rcases hi with rfl | rfl
  · exact doesAmong_of_mem hg rfl (List.mem_append_left _ (List.mem_append_left _ (List.mem_append_left _ hwait)))
  · refine doesAmong_of_mem hg rfl (List.mem_append_left _ ?_)
    rw [lineChecks_of_tile ht]
    exact List.mem_append_left _ hwait

end

/-- R140: the bundle of a scalar form waits while a load holds its register. -/
theorem globalReg_waits {s : State} {f : LSlot} {d : Nat × Instr} (hd : d.2 = .glds f ∨ d.2 = .gsts f)
    (hheld : s.me.regHeld (f.opnd.toNat % 64) s.cyc = true) : (slotOf d.1, Effect.wait 11 none) ∈ regChecks s d := by
  have hnamed : f.opnd.toNat % 64 ∈ (usesOf d.2).cregs := by
    rcases hd with hd | hd <;> rw [hd] <;> simp [usesOf, Uses.cregs, globalReg_eq]
  rw [regChecks, if_pos (List.any_eq_true.mpr ⟨_, hnamed, hheld⟩)]
  exact List.mem_append_left _ (List.mem_singleton_self _)

/-- Settles O26: each form by its address's translation, and what holds it back by the checks before it. -/
theorem globalTransfers : Obligations.GlobalTransfers := by
  intro s f hg off soff va r hit room xlat
  have hva : ∀ size, globalVa s f size = va size := fun size => by rw [globalVa_eq, globalOffset_eq f rfl]
  refine ⟨fun pa h hroom hready hpend => gld_does hg (hva _) hroom hready hpend (translated_of_hit _ h.1 h.2),
    fun pa h hroom hpend => glds_does hg (hva _) hroom (pendingReg_eq_false hpend) (translated_of_hit _ h.1 h.2),
    fun pa h hready => gst_does hg (hva _) hready (translated_of_hit _ h.1 h.2),
    fun pa h => gsts_does hg (hva _) (translated_of_hit _ h.1 h.2), ?_⟩
  intro faults misses walks pending
  have hfaults : ∀ {size read write} (k : Nat → List Effect), faults size read write →
      translated s (va size) size read write k = [xlat size] := fun k h => translated_of_fault k h
  have hmisses : ∀ {size read write} (k : Nat → List Effect), misses size read write →
      translated s (va size) size read write k = walks size read write := fun k h => translated_of_miss k h.1 h.2.1 h.2.2
  refine ⟨fun hroom hready hpend => ⟨fun h => gld_does hg (hva _) hroom hready hpend (hfaults _ h),
      fun h => gld_does hg (hva _) hroom hready hpend (hmisses _ h)⟩,
    fun hroom hpend => ⟨fun h => glds_does hg (hva _) hroom (Bool.eq_false_iff.mpr hpend) (hfaults _ h),
      fun h => glds_does hg (hva _) hroom (Bool.eq_false_iff.mpr hpend) (hmisses _ h)⟩,
    fun hready => ⟨fun h => gst_does hg (hva _) hready (hfaults _ h), fun h => gst_does hg (hva _) hready (hmisses _ h)⟩,
    fun h => gsts_does hg (hva _) (hfaults _ h), fun h => gsts_does hg (hva _) (hmisses _ h), gld_pending hg, glds_pending hg,
    fun hfull i hi => globalLoad_waits hg hfull hi, fun t ht hheld i hi => globalLine_waits hg ht hheld hi,
    fun d hd hheld => globalReg_waits hd hheld⟩

end Sys2Proof
end

section
/-!
SUPPORT. Moves (R79, R80) and the triggers of the tangent unit, the generator and the CRC unit (R169 to R179).
-/
namespace Sys2Proof

open Sys2Proof.Machine

theorem lineOf_zero : lineOf (fun _ => 0#32) = 0 :=
  lanes_ext fun i hi => (laneOf_lineOf _ _ hi).trans (laneOf_zero i).symm

/-! ## Scalar moves (R79) -/

/-- An instruction does the effects that its meaning gathers under its guard. -/
theorem does_of_exec_eq {i : Instr} {s : State} {g : BitVec 4} {es es' : List Effect} (hg : GuardTrue s g)
    (h : exec i s = slot s g es') (he : es' = es) : Does i s es := does_of_exec hg (he ▸ h)

/-- The value of a scalar source: null, the CRC's result or a c register. -/
theorem scalarSource_eq {s : State} {src : Nat} {v : Word}
    (h : (src = 0 ∧ v = 0) ∨ (0x100 ≤ src ∧ src < 0x140 ∧ v = s.me.readC (src - 0x100)) ∨
      (src = 0x078 ∧ v = (dueResult s.me.issued s.me.crcVal).setWidth 64)) : scalarSource s src = v := by
  rcases h with ⟨hsrc, hv⟩ | ⟨hlo, -, hv⟩ | ⟨hsrc, hv⟩
  · rw [hsrc, hv]
    exact if_pos rfl
  · rw [scalarSource, if_neg (by omega), if_neg (by omega), hv]
  · rw [hsrc, hv, scalarSource, if_neg (by decide), if_pos rfl, ← BitVec.setWidth_eq_extractLsb' (by decide)]

theorem scalarMove_bc (v : Word) : scalarMove 0x001 v = [.bc (lineOf (fun _ => v.setWidth 32))] := by
  rw [scalarMove, if_pos rfl, ← BitVec.setWidth_eq_extractLsb' (by decide)]
theorem scalarMove_creg {dst : Nat} (h : 0x100 ≤ dst) (v : Word) : scalarMove dst v = [cWrite (dst - 0x100) 1 v] := by
  rw [scalarMove, if_neg (by omega), if_neg (by omega), if_neg (by omega), if_pos h]
  rfl

section
variable {s : State} {f : Move} {i : Instr} {v : Word} (hg : GuardTrue s f.g)
  (h : exec i s = slot s f.g (scalarMove f.dst.toNat v))
include hg h

/-- Where a scalar move puts its value. -/
theorem scalarMove_does : (f.dst.toNat = 0x001 → Does i s [.bc (lineOf (fun _ => v.setWidth 32))]) ∧
    (f.dst.toNat = 0x040 → Does i s [.operand 0 (v.setWidth 1024)]) ∧
    (f.dst.toNat = 0x041 → Does i s [.operand 1 (v.setWidth 1024)]) ∧
    (0x100 ≤ f.dst.toNat → Does i s [cWrite (f.dst.toNat - 0x100) 1 v]) := by
  refine ⟨fun hd => does_of_exec_eq hg h ?_, fun hd => does_of_exec_eq hg h ?_, fun hd => does_of_exec_eq hg h ?_,
    fun hd => does_of_exec_eq hg h (scalarMove_creg hd v)⟩
  · rw [hd, scalarMove_bc]
  · rw [hd]
    rfl
  · rw [hd]
    rfl

end

/-! ## Line moves (R79) -/

/-- The tile line that a transport port from 0x400 on names. -/
def portRow (p : Nat) : BitVec 14 := BitVec.ofNat 14 (p - 0x400)

theorem operandOf_portRow {p : Nat} (hlo : 0x400 ≤ p) (hhi : p < 0x1000) :
    operandOf (portRow p) = .row ((p - 0x400) / 32) (p % 32) := by
  have hv : (portRow p).toNat = p - 0x400 := (BitVec.toNat_ofNat ..).trans (Nat.mod_eq_of_lt (by omega))
  exact operandOf_tileLine (dir := 0) (by decide) (by omega) (by omega) (by rw [hv]; omega)

/-- A result port as a bundle reads it. -/
def resultPorts (s : State) : List (Nat × Results) :=
  [(0x050, s.me.tanA), (0x051, s.me.tanB), (0x052, s.me.tanLo), (0x053, s.me.tanHi), (0x054, s.me.tanY), (0x068, s.me.rngOut)]

theorem lineSource_result {s : State} {p : Nat × Results} (hp : p ∈ resultPorts s) :
    lineSource s p.1 = dueResult s.me.issued p.2 ∧ p.1 < 0x400 := by
  simp only [resultPorts, List.mem_cons, List.not_mem_nil, or_false] at hp
  rcases hp with rfl | rfl | rfl | rfl | rfl | rfl <;> exact ⟨rfl, Nat.lt_of_sub_eq_succ rfl⟩
theorem lineSource_row {s : State} {p : Nat} (hlo : 0x400 ≤ p) (hhi : p < 0x1000) :
    lineSource s p = s.here.tileRow (s.me.tileBase + (p - 0x400) / 32) (p % 32) := by
  unfold lineSource
  dsimp only
  rw [if_neg (by omega), if_neg (by omega), if_neg (by omega), if_neg (by omega), if_neg (by omega), if_neg (by omega),
    if_neg (by omega), tileValue, show BitVec.ofNat 14 (p - 0x400) = portRow p from rfl,
    operandOf_portRow hlo hhi, Core.readLine]

/-- What a line move reads: null, a result port or a ready tile row (R79). -/
theorem lineMove_source {s : State} {src : Nat} {v : Line}
    (h : (src = 0 ∧ v = 0) ∨ (∃ p ∈ resultPorts s, src = p.1 ∧ v = dueResult s.me.issued p.2) ∨
      (0x400 ≤ src ∧ src < 0x1000 ∧ TileReady s (portRow src) ∧
        v = s.here.tileRow (s.me.tileBase + (src - 0x400) / 32) (src % 32))) :
    (if 0x400 ≤ src then lineChecks s (portRow src) else []) = [] ∧ lineSource s src = v := by
  rcases h with ⟨rfl, rfl⟩ | ⟨p, hp, rfl, rfl⟩ | ⟨hlo, hhi, hready, rfl⟩
  · exact ⟨rfl, by simp [lineSource]⟩
  · obtain ⟨hvalue, hlt⟩ := lineSource_result hp
    exact ⟨if_neg (Nat.not_le.mpr hlt), hvalue⟩
  · exact ⟨(if_pos hlo).trans (lineChecks_of_ready hready).1, lineSource_row hlo hhi⟩

section
variable {s : State} {f : Move} {v : Line} (hg : GuardTrue s f.g)
  (hchecks : (if 0x400 ≤ f.src.toNat then lineChecks s (portRow f.src.toNat) else []) = [])
  (hv : lineSource s f.src.toNat = v)
include hg hchecks hv

/-- Where a line move puts its value. -/
theorem xmovl_does : (f.dst.toNat = 0x001 → Does (.xmovl f) s [.bc v]) ∧
    (f.dst.toNat = 0x042 → Does (.xmovl f) s [.operand 2 v]) ∧ (f.dst.toNat = 0x043 → Does (.xmovl f) s [.operand 3 v]) ∧
    (0x400 ≤ f.dst.toNat → TileReady s (portRow f.dst.toNat) →
      Does (.xmovl f) s [result (.tile (portRow f.dst.toNat)) 1 v allLanes 0]) := by
  unfold portRow at *
  refine ⟨fun hd => does_of_exec_eq hg rfl ?_, fun hd => does_of_exec_eq hg rfl ?_, fun hd => does_of_exec_eq hg rfl ?_,
    fun hlo hready => does_of_exec_eq hg rfl ?_⟩
  · rw [hchecks, hv, hd]
    rfl
  · rw [hchecks, hv, hd]
    rfl
  · rw [hchecks, hv, hd]
    rfl
  · rw [hchecks, hv, if_neg (by omega), if_neg (by omega), if_neg (by omega), if_pos hlo, tileChecks_of_ready hready]
    rfl

end

theorem transportMoves : TransportMoves := by
  intro s f hg src dst
  refine ⟨fun v hsrc => ?scalar, ?null, fun v hsrc => ?line⟩
  case scalar =>
    obtain ⟨hbc, htb, htol, hreg⟩ := scalarMove_does hg (i := .xmov f) (v := v)
      (congrArg (fun v => slot s f.g (scalarMove f.dst.toNat v)) (scalarSource_eq hsrc))
    exact ⟨fun hd => ⟨_, hbc hd, fun i hi => laneOf_lineOf _ _ hi⟩, htb, htol, fun hlo _ => hreg hlo⟩
  case null =>
    obtain ⟨hbc, htb, htol, hreg⟩ := scalarMove_does hg (i := .xtrg f) (v := 0) rfl
    simp only [BitVec.ofNat_eq_ofNat, BitVec.setWidth_zero, lineOf_zero] at hbc htb htol
    exact ⟨hbc, htb, htol, fun hlo _ => hreg hlo⟩
  case line =>
    obtain ⟨hchecks, hv⟩ := lineMove_source hsrc
    exact xmovl_does hg hchecks hv

/-! ## Curve tables (R169, R263) -/

theorem tableNo_eq (o : TanOps) : tableNo o = o.tb.toNat % 4 := fieldOf_zero ..

theorem tableRefused_of_ready {s : State} {n : Nat} (h : TableReady s n) : tableRefused s n = [] := by
  obtain ⟨huser, hreserved, hholder, -⟩ := h
  rcases hholder with hholder | hholder <;> simp [tableRefused, State.user, huser, hreserved, hholder]
theorem tableRefused_of_strange {s : State} {n : Nat} (h : s.cur.ctx = 4 ∨ (s.here.table n).reserved ≠ s.me.launch ∨
    (∃ h, (s.here.table n).holder = some h ∧ h ≠ s.cur.ctx)) : tableRefused s n = [.trap .ill (BitVec.ofNat 64 n)] := by
  unfold tableRefused
  dsimp only
  rcases h with hs | hreserved | ⟨h, hholder, hne⟩
  · exact if_pos (by simp [State.user, hs])
  · exact if_pos (by simp [hreserved])
  · refine if_pos ?_
    by_cases hs : s.cur.ctx = 4 <;> simp [State.user, hholder, hne, hs]
theorem knotDamage_of_ready {s : State} {n : Nat} (h : TableReady s n) (lat : Nat) : knotDamage s n lat = [] := by
  obtain ⟨-, -, -, hgood⟩ := h
  have hnone : findFrom (fun i => s.here.bad (locKnot n i)) (Nat.min 64 (s.here.table n).nk) 0 = none :=
    findFrom_eq_none.mpr fun i _ hi => hgood i (by simpa using hi)
  rw [knotDamage, hnone]

/-! ## Triggers of the tangent unit (R174 to R177) -/

theorem elemOf_lanes32 (g : Nat → Nat) {i : Nat} (hi : i < 32) : elemOf 32 (lanes32 g) i = g i % 2 ^ 32 := by
  rw [lanes32, elemOf_packList _ _ _ (by simp [length_upTo]), upTo_eq_range]
  simp [hi]
theorem fitLane_unusable {t : CurveTable} (h : t.usable = false) (tol p : Nat) :
    fitLane t tol p = (fp32.nanBits, fp32.nanBits, fp32.nanBits, fp32.nanBits) := by
  simp [fitLane, h]

section
variable {s : State} {f : Move} (hg : GuardTrue s f.g)
include hg

/-- R169: a trigger that names a table of another launch or of another context raises ILL. -/
theorem trigger_refused {n : Nat} (hn : tableNo s.tanNow = n) (hill : tableRefused s n = [.trap .ill (BitVec.ofNat 64 n)])
    {i : Instr} {es : List Effect} (h : exec i s = slot s f.g es) (hes : tableRefused s (tableNo s.tanNow) <+: es) :
    ∃ es', Does i s (.trap .ill (BitVec.ofNat 64 n) :: es') := by
  obtain ⟨rest, rfl⟩ := hes
  exact ⟨rest, does_of_exec_eq hg h (by rw [hn, hill]; rfl)⟩

section
variable {n : Nat} (hn : tableNo s.tanNow = n) (hready : TableReady s n)
include hn hready

theorem tanKset_does : Does (.tanKset f) s
    [.kset { due := s.me.issued + 2, table := n, group := fieldOf s.tanNow.tb 2 3, nk := fieldOf s.tanNow.tb 5 7,
             knots := s.tanNow.k }] := by
  subst hn
  exact does_of_exec_eq hg rfl (by rw [tableRefused_of_ready hready]; rfl)
theorem tanFit_does :
    let r := fun i => fitLane (s.here.table n) s.tanNow.tol.toNat (elemOf 32 s.tanNow.x i)
    Does (.tanFit f) s [.result 0 (lanes32 (fun i => (r i).1)) 12, .result 1 (lanes32 (fun i => (r i).2.1)) 12,
      .result 2 (lanes32 (fun i => (r i).2.2.1)) 12, .result 3 (lanes32 (fun i => (r i).2.2.2)) 12] := by
  subst hn
  refine does_of_exec_eq hg rfl ?_
  rw [tableRefused_of_ready hready, knotDamage_of_ready hready]
  simp only [lanes32, List.map_map, List.nil_append, Function.comp_def]
theorem evalWith_does (pick : Nat × Nat → Nat) {i : Instr} (h : exec i s = evalWith pick f s) :
    Does i s [.result 4 (lanes32 (fun i => if (s.here.table n).usable = true
      then pick (curve (s.here.table n) (elemOf 32 s.tanNow.x i)) else fp32.nanBits)) 8] := by
  subst hn
  refine does_of_exec_eq hg h ?_
  rw [tableRefused_of_ready hready, knotDamage_of_ready hready]
  rfl

end

/-! ## The generator and the CRC (R178, R179) -/

theorem rngSeed_does {v : Word} (hv : scalarSource s f.src.toNat = v) : Does (.rngSeed f) s [.rng v] :=
  does_of_exec_eq hg rfl (by rw [hv])
theorem crcInit_does {v : Word} (hv : scalarSource s f.src.toNat = v) :
    Does (.crcInit f) s [.crc (v.setWidth 32), .result 6 ((v.setWidth 32).setWidth 1024) 2] := by
  refine does_of_exec_eq hg rfl ?_
  rw [hv, fieldOf_zero, crcResult, Nat.mod_mod, ← BitVec.toNat_setWidth, BitVec.ofNat_toNat, BitVec.ofNat_toNat,
    BitVec.setWidth_eq]

end

/-- A step of the generator, then `k` more. -/
theorem rngAdvance_succ (v g : Word) (k : Nat) : v + g + BitVec.ofNat 64 k * g = v + BitVec.ofNat 64 (k + 1) * g := by
  rw [BitVec.ofNat_add, BitVec.add_mul, BitVec.one_mul, BitVec.add_assoc, BitVec.add_comm g]
theorem rngWords_state (n : Nat) (v : Word) : (rngWords n v).2 = v + BitVec.ofNat 64 n * 0x9E3779B97F4A7C15 := by
  induction n generalizing v with
  | zero => simp [rngWords]
  | succ n ih =>
    rw [rngWords, ← rngAdvance_succ]
    exact ih _
theorem length_rngWords (n : Nat) (v : Word) : (rngWords n v).1.length = n := by
  induction n generalizing v with
  | zero => rfl
  | succ n ih => exact congrArg (· + 1) (ih _)
/-- R178: word `i` of a line mixes the state after `i + 1` steps. -/
theorem rngWords_getElem? {n i : Nat} (hi : i < n) (v : Word) :
    (rngWords n v).1[i]? = some (rngMix (v + BitVec.ofNat 64 (i + 1) * 0x9E3779B97F4A7C15)).toNat := by
  induction n generalizing v i with
  | zero => cases hi
  | succ n ih =>
    cases i with
    | zero => simp [rngWords]
    | succ i =>
      rw [← rngAdvance_succ]
      exact ih (Nat.lt_of_succ_lt_succ hi) _

theorem exec_rngNext (s : State) (f : Move) : exec (.rngNext f) s = slot s f.g
    [.rng (rngWords 16 s.tanNow.rng).2, .result 5 (BitVec.ofNat 1024 (packList 64 (rngWords 16 s.tanNow.rng).1)) 1] := rfl

section
variable {s : State} {f : Move} (hg : GuardTrue s f.g)
include hg

theorem rngNext_does : ∃ l : Line, Does (.rngNext f) s [.rng (s.tanNow.rng + 16 * 0x9E3779B97F4A7C15), .result 5 l 1] ∧
    ∀ i : Nat, i < 16 → elemOf 64 l i = (rngMix (s.tanNow.rng + BitVec.ofNat 64 (i + 1) * 0x9E3779B97F4A7C15)).toNat := by
  refine ⟨BitVec.ofNat 1024 (packList 64 (rngWords 16 s.tanNow.rng).1), does_of_exec_eq hg (exec_rngNext ..) ?_,
    fun i hi => ?_⟩
  · rw [rngWords_state]
    rfl
  · rw [elemOf_packList _ _ _ (by rw [length_rngWords]), rngWords_getElem? hi, Option.getD_some]
    exact Nat.mod_eq_of_lt (BitVec.isLt _)

end

theorem tangentTriggers : TangentTriggers := by
  intro s f hg o n t x nan
  have hn : tableNo s.tanNow = n := tableNo_eq _
  refine ⟨fun hready => ⟨?kset, ?fit, ?eval, ?slope⟩, fun hstrange i hi => ?strange, fun hsrc => ?null, fun hlo hhi => ?reg,
    rngNext_does hg, does_of_exec_eq hg rfl rfl⟩
  case kset => exact tanKset_does hg hn hready
  case fit =>
    refine ⟨_, _, _, _, tanFit_does hg hn hready, fun i hi => ?_⟩
    have hr : fitLane t o.tol.toNat (x i) =
        if t.usable = true then fitLane t o.tol.toNat (x i) else (nan, nan, nan, nan) := by
      split
      · rfl
      · next hno => exact fitLane_unusable (Bool.eq_false_iff.mpr hno) _ _
    rw [elemOf_lanes32 _ hi, elemOf_lanes32 _ hi, elemOf_lanes32 _ hi, elemOf_lanes32 _ hi]
    dsimp only
    rw [← hr]
    exact ⟨rfl, rfl, rfl, rfl⟩
  case eval => exact ⟨_, evalWith_does hg hn hready (fun q => q.1) rfl, fun i hi => elemOf_lanes32 _ hi⟩
  case slope => exact ⟨_, evalWith_does hg hn hready (fun q => q.2) rfl, fun i hi => elemOf_lanes32 _ hi⟩
  case strange =>
    have hill := tableRefused_of_strange hstrange
    simp only [List.mem_cons, List.not_mem_nil, or_false] at hi
    rcases hi with rfl | rfl | rfl | rfl
    · exact trigger_refused hg hn hill rfl (List.prefix_append ..)
    all_goals exact trigger_refused hg hn hill rfl ((List.prefix_append ..).trans (List.prefix_append ..))
  case null =>
    have hv : scalarSource s f.src.toNat = 0 := scalarSource_eq (.inl ⟨hsrc, rfl⟩)
    have hcrc := crcInit_does hg hv
    simp only [BitVec.ofNat_eq_ofNat, BitVec.setWidth_zero] at hcrc
    exact ⟨rngSeed_does hg hv, hcrc⟩
  case reg =>
    have hv := scalarSource_eq (s := s) (.inr (.inl ⟨hlo, hhi, rfl⟩))
    exact ⟨rngSeed_does hg hv, crcInit_does hg hv⟩

/-- Settles O27: moves by what their source reads and where their value goes; triggers by the table they name, the
generator's states and the CRC's bytes. -/
theorem transportAndTriggers : Obligations.TransportAndTriggers := ⟨transportMoves, tangentTriggers⟩

end Sys2Proof
end

section
/-!
SUPPORT. Scalar arithmetic, compares and predicates (R82, R89 to R93): what the decoder refuses, the values of Tables 5.2 and
5.4 in exact arithmetic, and the pending results of an S slot.
-/
namespace Sys2Proof.Machine

/-! ## Bits and counts of a word -/

/-- R89: an immediate is read with the bits of its field, and above them copies of the top one. -/
theorem getLsbD_sImmOf (f : SSlot) {i : Nat} (hi : i < 64) : (sImmOf f).getLsbD i = f.imm.getLsbD (min i 33) := by
  rw [sImmOf, BitVec.getLsbD_signExtend, decide_eq_true hi, Bool.true_and]
  by_cases h : i < 34
  · rw [if_pos h, Nat.min_eq_left (by omega)]
  · rw [if_neg h, Nat.min_eq_right (by omega), BitVec.msb_eq_getLsbD_last]
theorem toInt_sImmOf (f : SSlot) : (sImmOf f).toInt = f.imm.toInt := BitVec.toInt_signExtend_of_le (by decide)
theorem sImmOf_eq_ofInt (f : SSlot) : sImmOf f = BitVec.ofInt 64 f.imm.toInt := rfl

theorem shiftCount_eq (b : Word) : shiftCount b = b.toNat % 64 := fieldOf_zero b 6
/-- The count of a shift by an immediate is in the immediate's own bits (R90). -/
theorem shiftCount_sImmOf (f : SSlot) : shiftCount (sImmOf f) = f.imm.toNat % 64 := by
  rw [shiftCount, fieldOf_zero]
  change _ = f.imm.toNat % 2 ^ 6
  refine Nat.eq_of_testBit_eq fun i => ?_
  rw [Nat.testBit_mod_two_pow, Nat.testBit_mod_two_pow, BitVec.testBit_toNat,
    BitVec.testBit_toNat]
  by_cases hi : i < 6
  · rw [getLsbD_sImmOf f (by omega), Nat.min_eq_left (by omega)]
  · rw [decide_eq_false hi, Bool.false_and, Bool.false_and]

theorem leadingZeros_spec (n v : Nat) : leadingZeros n v ≤ n ∧
    (∀ i, n - leadingZeros n v ≤ i → i < n → v.testBit i = false) ∧
    (leadingZeros n v < n → v.testBit (n - 1 - leadingZeros n v) = true) := by
  induction n with
  | zero => exact ⟨Nat.le_refl 0, fun i _ h => absurd h (Nat.not_lt_zero i), fun h => absurd h (Nat.not_lt_zero _)⟩
  | succ n ih =>
    obtain ⟨hle, hzero, hone⟩ := ih
    cases htop : v.testBit n with
    | true =>
      rw [leadingZeros, if_pos htop]
      exact ⟨by omega, fun i h1 h2 => by omega, fun _ => htop⟩
    | false =>
      rw [leadingZeros, if_neg (by simp [htop])]
      refine ⟨by omega, fun i h1 h2 => ?_, fun h => ?_⟩
      · rcases Nat.lt_succ_iff_lt_or_eq.mp h2 with h | rfl
        · exact hzero i (by omega) h
        · exact htop
      · rw [show n + 1 - 1 - (1 + leadingZeros n v) = n - 1 - leadingZeros n v by omega]
        exact hone (by omega)

theorem popCount_eq_length_filter (n v : Nat) : popCount n v = ((List.range n).filter v.testBit).length := by
  induction n generalizing v with
  | zero => rfl
  | succ n ih =>
    have hsucc : v.testBit ∘ Nat.succ = (v / 2).testBit := funext fun i => Nat.testBit_succ v i
    rw [popCount, ih, List.range_succ_eq_map, List.filter_cons, List.filter_map, hsucc, Nat.testBit_zero]
    rcases Nat.mod_two_eq_zero_or_one v with h | h <;> simp [h, Nat.add_comm]

/-! ## Values of Table 5.2 -/

theorem add_eq_ofInt (a b : Word) : a + b = BitVec.ofInt 64 (a.toInt + b.toInt) := by
  rw [BitVec.ofInt_add, BitVec.ofInt_toInt, BitVec.ofInt_toInt]
theorem mul_eq_ofInt (a b : Word) : a * b = BitVec.ofInt 64 (a.toInt * b.toInt) := by
  rw [BitVec.ofInt_mul, BitVec.ofInt_toInt, BitVec.ofInt_toInt]
theorem sub_eq_ofInt (a b : Word) : a - b = BitVec.ofInt 64 (a.toInt - b.toInt) := by
  rw [Int.sub_eq_add_neg, BitVec.ofInt_add, BitVec.ofInt_neg, BitVec.ofInt_toInt, BitVec.ofInt_toInt, BitVec.sub_eq_add_neg]
theorem shiftLeft_eq_ofNat (a : Word) (n : Nat) : a <<< n = BitVec.ofNat 64 (a.toNat * 2 ^ n) :=
  BitVec.eq_of_toNat_eq (by rw [BitVec.toNat_shiftLeft, BitVec.toNat_ofNat, Nat.shiftLeft_eq])
theorem ushiftRight_eq_ofNat (a : Word) (n : Nat) : a >>> n = BitVec.ofNat 64 (a.toNat / 2 ^ n) := by
  rw [← Nat.shiftRight_eq_div_pow, ← BitVec.toNat_ushiftRight, BitVec.ofNat_toNat, BitVec.setWidth_eq]
theorem sshiftRight_eq_ofInt (a : Word) (n : Nat) : a.sshiftRight n = BitVec.ofInt 64 (a.toInt / 2 ^ n) := by
  rw [BitVec.sshiftRight, Int.shiftRight_eq_div_pow]
  rfl
theorem add32_eq_ofInt (a b : Word) : ((a + b).extractLsb' 0 32).signExtend 64 =
    BitVec.ofInt 64 (BitVec.ofInt 32 (a.toInt + b.toInt)).toInt := by
  have hlow (x : Word) : x.extractLsb' 0 32 = BitVec.ofInt 32 x.toInt := by
    rw [← BitVec.setWidth_eq_extractLsb' (by decide)]
    exact (BitVec.signExtend_eq_setWidth_of_le x (by decide)).symm
  have hsum : (a + b).extractLsb' 0 32 = BitVec.ofInt 32 (a.toInt + b.toInt) := by
    rw [BitVec.ofInt_add, ← hlow, ← hlow]
    simp only [← BitVec.setWidth_eq_extractLsb' (show 32 ≤ 64 by decide)]
    exact BitVec.setWidth_add a b (by decide)
  rw [hsum]
  rfl

/-- A signed 128-bit number is its low half, and its signed high half in units of 2^64 (R91). -/
theorem halves_eq_signedOf (v : Nat) :
    ((BitVec.ofNat 64 v).toNat : Int) + 2 ^ 64 * (BitVec.ofNat 64 (v / 2 ^ 64)).toInt = signedOf 128 v := by
  rw [BitVec.toInt_eq_toNat_cond, BitVec.toNat_ofNat, BitVec.toNat_ofNat, signedOf]
  split <;> split <;> omega
/-- The halves of the product of two words, which is in the range of 128 bits. -/
theorem halves_wrapOf_mul (a b : Word) : ((BitVec.ofNat 64 (wrapOf 128 (a.toInt * b.toInt))).toNat : Int) +
    2 ^ 64 * (BitVec.ofNat 64 (wrapOf 128 (a.toInt * b.toInt) / 2 ^ 64)).toInt = a.toInt * b.toInt := by
  have hhi := BitVec.toInt_mul_toInt_le (x := a) (y := b)
  have hlo := BitVec.le_toInt_mul_toInt (x := a) (y := b)
  rw [halves_eq_signedOf, signedOf_wrapOf]
  · omega
  · omega

theorem toInt_minSigned (a b : Word) : (minSigned a b).toInt = min a.toInt b.toInt := by
  rw [minSigned, apply_ite BitVec.toInt, Int.min_def]
theorem toInt_maxSigned (a b : Word) : (maxSigned a b).toInt = max a.toInt b.toInt := by
  rw [maxSigned, apply_ite BitVec.toInt, Int.max_def]
theorem toNat_minUnsigned (a b : Word) : (minUnsigned a b).toNat = min a.toNat b.toNat := by
  rw [minUnsigned, apply_ite BitVec.toNat, Nat.min_def]
theorem toNat_maxUnsigned (a b : Word) : (maxUnsigned a b).toNat = max a.toNat b.toNat := by
  rw [maxUnsigned, apply_ite BitVec.toNat, Nat.max_def]

/-- A predicate pair holds its condition and the negation (R92). -/
theorem pairResult_eq_pWrite (k : Nat) (b : Bool) : pairResult k b = pWrite k b := by cases b <;> rfl

end Sys2Proof.Machine

namespace Sys2Proof

open Sys2Proof.Machine

/-! ## Refusals (R82, R90 to R93) -/

/-- The decoder refuses the code of an S-slot instruction whose fields its form does not take. -/
theorem decoderRefuses_of_not_wf {op : BitVec 8} {mk : SSlot → Instr} {f : SSlot}
    (hcode : encode (mk f) = some (.s (encS op f))) (hrow : sTable op.toNat = some mk) (hwf : (mk f).wf = false) :
    DecoderRefuses (mk f) := by
  refine ⟨_, .badField, hcode, ?_⟩
  simp only [decodeCode, decodeS, opcodeOf_encS, sFields_encS, if_neg (ne_zero_of_row rfl hrow), hrow]
  exact if_neg (Bool.eq_false_iff.mp hwf)
/-- A form that asks something of its destination first is refused where that fails. -/
theorem decoderRefuses_of_dest {op : BitVec 8} {mk : SSlot → Instr} {f : SSlot} {dest rest : Bool}
    (hcode : encode (mk f) = some (.s (encS op f))) (hrow : sTable op.toNat = some mk) (hwf : (mk f).wf = (dest && rest))
    (hdest : dest = false) : DecoderRefuses (mk f) :=
  decoderRefuses_of_not_wf hcode hrow (by rw [hwf, hdest, Bool.false_and])

theorem pairBase_of_odd {r : BitVec 6} (h : r.toNat % 2 = 1) : pairBase r = false := by
  rw [pairBase, bitOf, Nat.testBit_zero, decide_eq_true h]
  rfl
theorem predDest_of_outside {d : BitVec 6} (h : d.toNat = 0 ∨ 8 ≤ d.toNat) : predDest d = false :=
  decide_eq_false (by omega)

theorem scalarRefusals : ScalarRefusals := by
  refine fun f => ⟨fun himm i hi => ?shift, fun himm => ?movhi⟩
  case shift =>
    have hwf : sShiftImm f = false := by
      rw [sShiftImm, decide_eq_false (Nat.not_lt.mpr himm), Bool.and_false]
    simp only [List.mem_cons, List.not_mem_nil, or_false] at hi
    rcases hi with rfl | rfl | rfl <;> exact decoderRefuses_of_not_wf rfl rfl hwf
  case movhi =>
    have hwf : sMovhi f = false := by
      rw [sMovhi, decide_eq_false (Nat.not_lt.mpr himm), Bool.and_false]
    exact decoderRefuses_of_not_wf rfl rfl hwf

/-! ## Pending results -/

section
variable {s : State} {f : SSlot} (hg : GuardTrue s f.g)
include hg

theorem quick_does {i : Instr} {v w : Word} (h : exec i s = quick f v s) (hv : v = w) : Does i s [cWrite f.d.toNat 1 w] :=
  does_of_slot hg h (by rw [hv]; rfl)
theorem slow_does {i : Instr} {v w : Word} (h : exec i s = slow f v s) (hv : v = w) : Does i s [cWrite f.d.toNat 3 w] :=
  does_of_slot hg h (by rw [hv]; rfl)
theorem compare_does {i : Instr} {b c : Bool} (h : exec i s = compare f b s) (hb : b = c) : Does i s [pWrite f.d.toNat c] :=
  does_of_slot hg h (by rw [hb, pairResult_eq_pWrite])

end

theorem scalarAddLogic : ScalarAddLogic := by
  intro s f hg
  refine ⟨quick_does hg rfl (add_eq_ofInt _ _), quick_does hg rfl ?addi, quick_does hg rfl (sub_eq_ofInt _ _),
    quick_does hg rfl (sImmOf_eq_ofInt f), quick_does hg rfl ?movhi, quick_does hg rfl ?sel, _, _, _, _, _, _,
    ⟨quick_does hg rfl rfl, quick_does hg rfl rfl, quick_does hg rfl rfl, quick_does hg rfl rfl, quick_does hg rfl rfl,
      quick_does hg rfl rfl⟩, fun i hi => ?bits⟩
  case addi => rw [add_eq_ofInt, toInt_sImmOf]; rfl
  case movhi => rw [fieldOf_zero, fieldOf_zero]
  case sel =>
    have himm := f.imm.isLt
    rw [fieldOf, Nat.mod_eq_of_lt (by omega)]
    rfl
  case bits =>
    simp only [BitVec.getLsbD_and, BitVec.getLsbD_or, BitVec.getLsbD_xor, getLsbD_sImmOf f hi]
    exact ⟨rfl, rfl, rfl, rfl, rfl, rfl⟩

theorem scalarShiftsProducts : ScalarShiftsProducts := by
  intro s f hg
  dsimp only
  refine ⟨quick_does hg rfl ?_, quick_does hg rfl ?_, quick_does hg rfl ?_, quick_does hg rfl ?_, quick_does hg rfl ?_,
    quick_does hg rfl ?_, slow_does hg rfl (mul_eq_ofInt _ _), slow_does hg rfl ?muli, slow_does hg rfl rfl,
    slow_does hg rfl rfl⟩
  case muli => rw [mul_eq_ofInt, toInt_sImmOf]; rfl
  · rw [shiftLeft_eq_ofNat, shiftCount_eq]; rfl
  · rw [shiftLeft_eq_ofNat, shiftCount_sImmOf]; rfl
  · rw [ushiftRight_eq_ofNat, shiftCount_eq]; rfl
  · rw [ushiftRight_eq_ofNat, shiftCount_sImmOf]; rfl
  · rw [sshiftRight_eq_ofInt, shiftCount_eq]; rfl
  · rw [sshiftRight_eq_ofInt, shiftCount_sImmOf]; rfl

theorem scalarMinMaxCounts : ScalarMinMaxCounts := by
  intro s f hg
  dsimp only
  refine ⟨?nop, ⟨_, _, _, _, quick_does hg rfl rfl, quick_does hg rfl rfl, quick_does hg rfl rfl, quick_does hg rfl rfl,
    toInt_minSigned _ _, toInt_maxSigned _ _, toNat_minUnsigned _ _, toNat_maxUnsigned _ _⟩,
    quick_does hg rfl (add32_eq_ofInt _ _), ⟨_, quick_does hg rfl rfl, ?clz⟩, quick_does hg rfl ?popc⟩
  case nop => rw [Does, emitted_nil]; rfl
  case clz =>
    obtain ⟨hle, hzero, hone⟩ := leadingZeros_spec 64 (regA s f).toNat
    refine ⟨hle, fun i hi => ?_, hone⟩
    by_cases h : i < 64
    · exact hzero i hi h
    · exact BitVec.getLsbD_of_ge _ _ (Nat.not_lt.mp h)
  case popc => rw [popCount_eq_length_filter]; rfl

/-- Settles O2: the values of Table 5.2 in exact arithmetic, and what the decoder refuses. -/
theorem scalarArithmetic : Obligations.ScalarArithmetic :=
  ⟨scalarAddLogic, scalarShiftsProducts, scalarMinMaxCounts, scalarRefusals⟩

/-- Settles O3: a pair's two halves are one 128-bit number, exact for a product (`halves_wrapOf_mul`). -/
theorem scalarPairs : Obligations.ScalarPairs := by
  refine ⟨fun f => ⟨fun hd => ?dest, fun hab => ?sources⟩, by decide, fun s f hg => ⟨⟨_, _, does_of_slot hg rfl rfl, ?sum⟩,
    _, _, does_of_slot hg rfl rfl, halves_wrapOf_mul _ _⟩⟩
  case dest =>
    exact ⟨decoderRefuses_of_dest rfl rfl rfl (pairBase_of_odd hd), decoderRefuses_of_dest rfl rfl rfl (pairBase_of_odd hd)⟩
  case sources =>
    have hwf : sAddp f = false := by
      rcases hab with h | h <;> simp [sAddp, pairBase_of_odd h]
    exact decoderRefuses_of_not_wf rfl rfl hwf
  case sum =>
    rw [BitVec.toNat_ofNat, BitVec.toNat_ofNat]
    simp only [Ctx.readPair, regA, regB]
    omega

theorem compares : Compares := by
  refine ⟨fun f hd i hi => ?refused, by decide, fun s f hg => ?_⟩
  case refused =>
    have hdest := predDest_of_outside hd
    simp only [List.mem_cons, List.not_mem_nil, or_false] at hi
    rcases hi with rfl | rfl | rfl | rfl | rfl | rfl | rfl | rfl | rfl | rfl | rfl | rfl <;>
      exact decoderRefuses_of_dest rfl rfl rfl hdest
  have heq (a b : Word) : decide (a = b) = decide (a.toNat = b.toNat) := decide_eq_decide.mpr BitVec.toNat_inj.symm
  have hne (a b : Word) : decide (a ≠ b) = decide (a.toNat ≠ b.toNat) := decide_eq_decide.mpr (not_congr BitVec.toNat_inj.symm)
  have hieq (a : Word) : a = sImmOf f ↔ a.toInt = f.imm.toInt := by rw [← BitVec.toInt_inj, toInt_sImmOf]
  exact ⟨compare_does hg rfl (heq _ _), compare_does hg rfl (hne _ _), compare_does hg rfl rfl, compare_does hg rfl rfl,
    compare_does hg rfl rfl, compare_does hg rfl rfl, compare_does hg rfl (decide_eq_decide.mpr (hieq _)),
    compare_does hg rfl (decide_eq_decide.mpr (not_congr (hieq _))), compare_does hg rfl (by rw [toInt_sImmOf]; rfl),
    compare_does hg rfl (by rw [toInt_sImmOf]; rfl), compare_does hg rfl rfl, compare_does hg rfl rfl⟩

/-- R93, R98: in a loop of stages a result for pairs 4 to 7 leaves the predicates. -/
theorem land_pred_discards {s : State} {c x k : Nat} {e : Pending} (hdest : e.dest = .pred k)
    (hactive : (s.ctx c x).loop.active = true) (hstages : 2 ≤ (s.ctx c x).loop.stages) (hk : 4 ≤ k) :
    ((s.land c x e).ctx c x).p = (s.ctx c x).p := by
  obtain ⟨-, regs, lines, hu⟩ := State.land_own (State.land_pred hdest)
  have hdiscard := Ctx.writePair_discards (v := (s.ctx c x).entered e.flg regs lines) (.inr ⟨hactive, hstages, hk⟩)
  rw [hu, hdiscard]
  rfl

theorem predicateOps : PredicateOps := by
  refine ⟨fun f hd i hi => ?refused, fun s c x e k => land_pred_discards, fun s f hg => ?_⟩
  case refused =>
    have hdest := predDest_of_outside (.inl hd)
    simp only [List.mem_cons, List.not_mem_nil, or_false] at hi
    rcases hi with rfl | rfl | rfl | rfl <;> exact decoderRefuses_of_dest rfl rfl rfl hdest
  have hand (a b : Bool) : (a && b) = decide (a = true ∧ b = true) := by cases a <;> cases b <;> rfl
  have hor (a b : Bool) : (a || b) = decide (a = true ∨ b = true) := by cases a <;> cases b <;> rfl
  have hxor (a b : Bool) : (a ^^ b) = decide (a ≠ b) := by cases a <;> cases b <;> rfl
  exact ⟨compare_does hg rfl (hand _ _), compare_does hg rfl (hor _ _), compare_does hg rfl (hxor _ _),
    compare_does hg rfl (by rw [bitOf, Nat.testBit_zero])⟩

/-- Settles O4: each condition of Table 5.4, and the pairs that no instruction or no result of a loop's body writes. -/
theorem comparesAndPredicates : Obligations.ComparesAndPredicates := ⟨compares, predicateOps⟩

end Sys2Proof
end

section
/-!
SUPPORT. Branches and hardware loops (R94 to R99): what a delay bundle and a loop body refuse, targets, and the loop that
LOOP and LOOPI start.
-/
namespace Sys2Proof.Machine

/-- R70, R247: the bundles of the context that issues. -/
theorem bundleLimit_eq (s : State) : bundleLimit s = if s.cur.ctx = 4 then Config.supBundles else Config.bundles := by
  by_cases h : s.cur.ctx = 4 <;> simp [bundleLimit, State.user, h]

/-- R98: the passes of level 0 grow by the stages behind the first. -/
theorem loopOf_cnt (f : SSlot) (counts : List Nat) (s : State) : (loopOf f counts s).cnt =
    setNth counts 0 ((loopOf f counts s).n0 + (loopOf f counts s).stages - 1) := by
  simp only [loopOf]
  by_cases h : 2 ≤ fieldOf f.imm 5 2 + 1
  · rw [if_pos h]
  · rw [if_neg h, show fieldOf f.imm 5 2 = 0 by omega, Nat.zero_add, Nat.add_sub_cancel]

end Sys2Proof.Machine

namespace Sys2Proof

open Sys2Proof.Machine

section
variable {s : State} {f : SSlot} (hg : GuardTrue s f.g) {i : Instr} {es : List Effect}
include hg

/-- R95: an instruction that a delay bundle must not hold raises ILL there. -/
theorem delayIll_raises (h : exec i s = slot s f.g (delayIll s ++ es)) (hr : s.me.redirect.isSome = true) :
    ∃ es, Does i s (.trap .ill 0 :: es) := by
  have hill : delayIll s = [.trap .ill 0] := if_pos hr
  exact ⟨es, does_of_slot hg h (by rw [hill]; rfl)⟩
/-- R97: an instruction that a loop body must not hold raises ILL there. -/
theorem bodyIll_raises (h : exec i s = slot s f.g (delayIll s ++ bodyIll s ++ es)) (hr : s.me.redirect = none)
    (hl : s.me.loop.active = true) : ∃ es, Does i s (.trap .ill 0 :: es) := by
  have hill : bodyIll s = [.trap .ill 0] := if_pos hl
  exact ⟨es, does_of_slot hg h (by rw [delayIll_of_none hr, hill]; rfl)⟩
/-- R95, R97: elsewhere it only does what it names. -/
theorem control_does (h : exec i s = slot s f.g (delayIll s ++ bodyIll s ++ es)) (hr : s.me.redirect = none)
    (hl : s.me.loop.active = false) {es' : List Effect} (he : es = es') : Does i s es' :=
  does_of_slot hg h (by rw [delayIll_of_none hr, bodyIll_of_idle hl, he]; rfl)

theorem lexit_does (hr : s.me.redirect = none) (he : (if s.me.loop.active = true then [Effect.lexit] else [.trap .ill 0]) = es) :
    Does (.lexit f) s es :=
  does_of_slot hg rfl (by rw [delayIll_of_none hr, List.nil_append, he])
/-- R99: STAGE writes the four stage pairs, those up to its count true. -/
theorem stage_does (hr : s.me.redirect = none) :
    Does (.stage f) s ((List.range 4).map (fun i => pWrite (4 + i) (decide (i ≤ f.imm.toNat % 4)))) := by
  refine does_of_slot hg rfl ?_
  rw [delayIll_of_none hr, List.nil_append, upTo_eq_range, fieldOf_zero]
  simp only [pairResult_eq_pWrite, Nat.lt_succ_iff]
  rfl

end

theorem jumpTo_eq (s : State) (v : Word) : jumpTo s v =
    if v.toNat < (if s.cur.ctx = 4 then Config.supBundles else Config.bundles) then [.redirect v.toNat] else [.trap .ill v] := by
  rw [jumpTo, bundleLimit_eq]

theorem branches : Branches := by
  intro s f hg hr hl
  exact ⟨control_does hg rfl hr hl rfl, control_does hg rfl hr hl rfl, control_does hg rfl hr hl (jumpTo_eq s _),
    control_does hg rfl hr hl (jumpTo_eq s _)⟩

theorem delayAndBodyRestrictions : DelayAndBodyRestrictions := by
  refine fun s f hg => ⟨fun hr i hi => ?delay, fun hr hl i hi => ?body⟩
  case delay =>
    have two {i : Instr} {a b : List Effect} (h : exec i s = slot s f.g (delayIll s ++ a ++ b)) :
        ∃ es, Does i s (.trap .ill 0 :: es) := delayIll_raises hg (h.trans (by rw [List.append_assoc])) hr
    have three {i : Instr} {a b c : List Effect} (h : exec i s = slot s f.g (delayIll s ++ a ++ b ++ c)) :
        ∃ es, Does i s (.trap .ill 0 :: es) := two (h.trans (by rw [List.append_assoc]))
    simp only [List.mem_cons, List.not_mem_nil, or_false] at hi
    rcases hi with rfl | rfl | rfl | rfl | rfl | rfl | rfl | rfl | rfl | rfl | rfl | rfl | rfl | rfl | rfl
    exacts [two rfl, two rfl, two rfl, two rfl, two rfl, two rfl, delayIll_raises hg rfl hr, delayIll_raises hg rfl hr,
      three rfl, three rfl, three rfl, two rfl, two rfl, two rfl, two rfl]
  case body =>
    simp only [List.mem_cons, List.not_mem_nil, or_false] at hi
    rcases hi with rfl | rfl | rfl | rfl | rfl | rfl | rfl <;> exact bodyIll_raises hg rfl hr hl

theorem loops : Loops := by
  intro s f hg hr
  dsimp only
  refine ⟨fun hl => ⟨⟨_, control_does hg rfl hr hl rfl, ?loop⟩, ⟨_, control_does hg rfl hr hl rfl, ?loopi⟩,
    lexit_does hg hr (if_neg (by simp [hl]))⟩, fun hl => lexit_does hg hr (if_pos hl), stage_does hg hr⟩
  case loop =>
    exact ⟨rfl, rfl, congrArg (· + 1) (fieldOf_zero _ 5), rfl, rfl, rfl,
      fun k => max (levelCount (s.me.readD f.d.toNat) k) 1, fun k => rfl, rfl, loopOf_cnt f _ s⟩
  case loopi => exact ⟨rfl, rfl, congrArg (· + 1) (fieldOf_zero _ 5), rfl, rfl, rfl, rfl, loopOf_cnt f _ s⟩

/-- Settles O5: targets by `control_does`, the restricted places by the ILL that comes first there, the loop's counts by
`loopOf_cnt`. -/
theorem branchesAndLoops : Obligations.BranchesAndLoops := ⟨branches, delayAndBodyRestrictions, loops⟩

end Sys2Proof
end

section
/-!
SUPPORT. Tokens and fences (R101, R107, R108), and sync words (R102 to R106): when a slot waits, and for what.
-/
namespace Sys2Proof.Machine

theorem implicitBoundary_of_nil {s : State} (h : s.me.srq = []) : implicitBoundary s = [] := by simp [implicitBoundary, h]

/-! ## Tokens (R101) -/

theorem kwaitTokens_eq (f : SSlot) :
    kwaitTokens f = [f.d.toNat, f.a.toNat, f.b.toNat].filter (fun k => decide (k ≠ 0)) :=
  List.filter_congr fun k _ => Bool.eq_iff_iff.mpr (by simp)
theorem pendingAt_of_complete {t : Token} {cyc : Nat} (hp : t.pend = false) (hs : t.since ≤ cyc) : t.pendingAt cyc = false := by
  rw [Token.pendingAt, hp, decide_eq_false (Nat.not_lt.mpr hs)]
  rfl
theorem tokenTrap_of_ok {s : State} {k : Nat} (h : (s.me.token k).status = 0) : tokenTrap s k = [] := if_pos (.inr h)
/-- R101: a token that completed with a status raises XLAT, with its address, or ENG, with its number. -/
theorem tokenTrap_of_failed {s : State} {k : Nat} (hp : (s.me.token k).pend = false) (hs : (s.me.token k).status ≠ 0) :
    tokenTrap s k = [if (s.me.token k).status = 0x06 then .trap .xlat (BitVec.ofNat 64 (s.me.token k).addr)
      else .trap .eng (BitVec.ofNat 64 k)] := by
  have hno : ¬ ((s.me.token k).pend = true ∨ (s.me.token k).status = 0) := not_or.mpr ⟨by simp [hp], hs⟩
  have hif : tokenTrap s k = if (s.me.token k).status = 0x06 then [.trap .xlat (BitVec.ofNat 64 (s.me.token k).addr)]
      else [.trap .eng (BitVec.ofNat 64 k)] := if_neg hno
  rw [hif, ← apply_ite (fun e => [e])]

/-! ## Sync words (R102, R103, R201, R202) -/

/-- Table 5.10: what a sync register may hold. -/
theorem syncValue_iff (v : Word) : v.toNat < 2 ^ 25 ∧ fieldOf v 3 22 < Config.flatLines ↔
    v.toNat < 2 ^ 25 ∧ v.toNat / 8 ≤ 0x2FFFFF := by
  simp only [fieldOf, Config.flatLines]
  omega
theorem State.genSeen_lt (s : State) (c : Nat) (y : Word) : s.genSeen c y < 65536 := Nat.mod_lt _ (by decide)
/-- R104, R105: a generation has passed the value seen when it is 1 to 0x7FFF further on, modulo 2^16. -/
theorem passed_iff {gen : Nat} (h : gen < 65536) (seen : Nat) :
    passed gen seen = true ↔ ∃ k, 1 ≤ k ∧ k ≤ 0x7FFF ∧ gen = (seen + k) % 2 ^ 16 := by
  simp only [passed, decide_eq_true_eq]
  constructor
  · rintro ⟨h1, h2⟩
    exact ⟨_, h1, h2, by omega⟩
  · rintro ⟨k, h1, h2, hk⟩
    omega

/-- Of calls on a rising list, the first that is not empty comes first. -/
theorem prefix_flatMap_of_first {α : Type} {g : Nat → List α} {e : α} {n : Nat} :
    ∀ {l : List Nat}, l.Pairwise (· < ·) → n ∈ l → g n = [e] → (∀ k ∈ l, k < n → g k = []) → [e] <+: l.flatMap g
  | a :: l, hl, hn, hg, hbefore => by
    obtain ⟨ha, hl⟩ := List.pairwise_cons.mp hl
    rw [List.flatMap_cons]
    rcases List.mem_cons.mp hn with rfl | hn
    · rw [hg]
      exact List.prefix_append _ _
    · rw [hbefore a (.head _) (ha n hn), List.nil_append]
      exact prefix_flatMap_of_first hl hn hg fun k hk => hbefore k (.tail _ hk)

/-- The slots of a SWAITANY's mask. -/
def waitanySlots (f : SSlot) : List Nat := (upTo 8 0).filter (natBit (fieldOf f.imm 0 8))
theorem natBit_mask (f : SSlot) {n : Nat} (h : n < 8) : natBit (fieldOf f.imm 0 8) n = f.imm.getLsbD n := by
  rw [natBit, fieldOf_zero, Nat.testBit_mod_two_pow, decide_eq_true h, Bool.true_and]
  rfl
theorem mem_waitanySlots {f : SSlot} {n : Nat} : n ∈ waitanySlots f ↔ n < 8 ∧ f.imm.getLsbD n = true := by
  simp only [waitanySlots, List.mem_filter, mem_upTo, Nat.zero_le, true_and, Nat.zero_add]
  exact and_congr_right fun h => by rw [natBit_mask f h]
theorem waitanySlots_rising (f : SSlot) : (waitanySlots f).Pairwise (· < ·) := by
  rw [waitanySlots, upTo_eq_range]
  exact List.pairwise_lt_range.filter _

/-- What a SWAITANY does once each of its words can be read. -/
def waitanyResult (f : SSlot) (s : State) : List Effect :=
  match firstComplete s (fieldOf f.imm 0 8) with
  | some n => [scalarResult f.d.toNat 1 (BitVec.ofNat 64 n), .consume n]
  | none => [.wait 2 none]

end Sys2Proof.Machine

namespace Sys2Proof

open Sys2Proof.Machine

section
variable {s : State} {y : Word}

theorem passed_genSeen (seen : Nat) : passed (s.genSeen s.cur.core y) seen = true ↔ GenPassed s y seen :=
  passed_iff (s.genSeen_lt _ y) seen
theorem syncForeign_of_ready (h : WordReady s y) : syncForeign s y = false := by
  have halloc : (s.here.bank (bankOf (syncFlat y))).allocatedTo s.me s.cur.ctx = true := h.1
  rw [syncForeign, halloc]
  rfl
theorem syncChecks_of_ready (h : WordReady s y) : syncChecks s y = [] := by
  have hrefresh : s.here.refreshEnd (bankOf (syncFlat y)) s.cyc 1 = none := h.2
  rw [syncChecks, syncForeign_of_ready h, hrefresh]
  rfl
/-- R103: a word in a bank that is not the launch's raises BOWN with its flat address. -/
theorem syncChecks_of_foreign (h : (s.here.bank (bankOf (syncFlat y))).allocatedTo s.me s.cur.ctx = false) :
    syncChecks s y = [.trap .bown (BitVec.ofNat 64 (syncFlat y))] := by
  have hforeign : syncForeign s y = true := by rw [syncForeign, h]; rfl
  exact if_pos hforeign

/-- R105: the slot at place `i` behind YPTR. -/
theorem firstComplete_slot (f : SSlot) (i : Nat) :
    (natBit (fieldOf f.imm 0 8) ((s.me.yptr + i) % 8) && syncComplete s ((s.me.yptr + i) % 8)) = true ↔
      f.imm.getLsbD ((s.me.yptr + i) % 8) = true ∧
        GenPassed s (s.me.readY ((s.me.yptr + i) % 8)) (s.me.readSg ((s.me.yptr + i) % 8)) := by
  rw [Bool.and_eq_true, natBit_mask f (Nat.mod_lt _ (by decide)), syncComplete, passed_genSeen]
/-- R105: a slot of the mask that is complete, none between YPTR and it being so, is the first. -/
theorem firstComplete_eq_some {f : SSlot} {n : Nat} (hn : n < 8) (hmask : f.imm.getLsbD n = true)
    (hpassed : GenPassed s (s.me.readY n) (s.me.readSg n))
    (hbefore : ∀ i, i < (n + 8 - s.me.yptr % 8) % 8 → f.imm.getLsbD ((s.me.yptr + i) % 8) = true →
      ¬ GenPassed s (s.me.readY ((s.me.yptr + i) % 8)) (s.me.readSg ((s.me.yptr + i) % 8))) :
    firstComplete s (fieldOf f.imm 0 8) = some n := by
  have hplace : (s.me.yptr + (n + 8 - s.me.yptr % 8) % 8) % 8 = n := by omega
  refine Option.map_eq_some_iff.mpr ⟨(n + 8 - s.me.yptr % 8) % 8, findFrom_eq_some.mpr ⟨Nat.zero_le _, by omega, ?_,
    fun i _ hi => Bool.eq_false_iff.mpr fun h => ?_⟩, hplace⟩
  · rw [firstComplete_slot, hplace]
    exact ⟨hmask, hpassed⟩
  · obtain ⟨hbit, hgen⟩ := (firstComplete_slot f i).mp h
    exact hbefore i hi hbit hgen
theorem firstComplete_eq_none {f : SSlot}
    (h : ∀ n, n < 8 → f.imm.getLsbD n = true → ¬ GenPassed s (s.me.readY n) (s.me.readSg n)) :
    firstComplete s (fieldOf f.imm 0 8) = none := by
  refine Option.map_eq_none_iff.mpr (findFrom_eq_none.mpr fun i _ _ => Bool.eq_false_iff.mpr fun hi => ?_)
  obtain ⟨hbit, hgen⟩ := (firstComplete_slot f i).mp hi
  exact h _ (Nat.mod_lt _ (by decide)) hbit hgen

end

/-- R105: the words of the mask are checked first, and looked at where none is foreign. -/
theorem exec_swaitany (f : SSlot) (s : State) : exec (.swaitany f) s = slot s f.g (delayIll s ++ implicitBoundary s ++
    (waitanySlots f).flatMap (fun n => syncChecks s (s.me.readY n)) ++
    (if (waitanySlots f).any (fun n => syncForeign s (s.me.readY n)) = true then [] else waitanyResult f s)) := rfl

section
variable {s : State} {f : SSlot} (hg : GuardTrue s f.g)
include hg

/-- R101: outside a delay bundle and with nothing held back, KWAIT waits for its tokens and takes their traps. -/
theorem kwait_does (hr : s.me.redirect = none) (hsrq : s.me.srq = []) {es : List Effect}
    (he : tokenWaits s (kwaitTokens f) ++ (kwaitTokens f).flatMap (tokenTrap s) = es) : Does (.kwait f) s es :=
  does_of_slot hg rfl (by rw [delayIll_of_none hr, implicitBoundary_of_nil hsrq, ← he]; rfl)

theorem yset_does : Does (.yset f) s
    (if (regA s f).toNat < 2 ^ 25 ∧ (regA s f).toNat / 8 ≤ 0x2FFFFF then
      [.land { dest := .sync f.d.toNat, val := (regA s f).setWidth 1024, mask := BitVec.allOnes 32, rem := 1, flg := 0,
               mark := .clean, addr := 0 }]
     else [.trap .brange (regA s f)]) := by
  refine does_of_slot hg rfl ?_
  rw [← apply_ite (fun e => [e])]
  exact congrArg (fun e => [e]) (if_congr (syncValue_iff _) rfl rfl)
theorem swait_does (hr : s.me.redirect = none) (hsrq : s.me.srq = []) (hready : WordReady s (s.me.readY f.d.toNat))
    {es : List Effect} (he : (if passed (s.genSeen s.cur.core (s.me.readY f.d.toNat)) ((regA s f).toNat % 2 ^ 16) = true then []
      else [.wait 2 none]) = es) : Does (.swait f) s es := by
  refine does_of_slot hg rfl ?_
  rw [delayIll_of_none hr, implicitBoundary_of_nil hsrq, syncChecks_of_ready hready, ← he, fieldOf_zero]
  simp only [syncForeign_of_ready hready, Bool.false_eq_true, false_or]
  rfl
theorem spost_does (hready : WordReady s (s.me.readY f.d.toNat)) : Does (.spost f) s [.held (f.imm.toNat % 16)
    (.post (syncAddr s.cur.core (s.me.readY f.d.toNat)) ((regA s f).setWidth 32)) (syncFlat (s.me.readY f.d.toNat))
    (syncAddr s.cur.core (s.me.readY f.d.toNat))] := by
  refine does_of_slot hg rfl ?_
  rw [syncChecks_of_ready hready, fieldOf_zero, BitVec.setWidth_eq_extractLsb' (by decide)]
  rfl
theorem swaitany_does (hr : s.me.redirect = none) (hsrq : s.me.srq = [])
    (hready : ∀ n, n < 8 → f.imm.getLsbD n = true → WordReady s (s.me.readY n)) {es : List Effect}
    (he : waitanyResult f s = es) : Does (.swaitany f) s es := by
  have hwords : ∀ n ∈ waitanySlots f, WordReady s (s.me.readY n) := fun n hn =>
    have ⟨h8, hbit⟩ := mem_waitanySlots.mp hn
    hready n h8 hbit
  have hchecks : (waitanySlots f).flatMap (fun n => syncChecks s (s.me.readY n)) = [] :=
    List.flatMap_eq_nil_iff.mpr fun n hn => syncChecks_of_ready (hwords n hn)
  have hforeign : (waitanySlots f).any (fun n => syncForeign s (s.me.readY n)) = false :=
    List.any_eq_false.mpr fun n hn => by simp [syncForeign_of_ready (hwords n hn)]
  refine does_of_slot hg (exec_swaitany f s) ?_
  rw [delayIll_of_none hr, implicitBoundary_of_nil hsrq, hchecks, hforeign, ← he]
  rfl

/-- R107: a fence with a mask orders its classes, and one without does nothing. -/
theorem fence_does {i : Instr} {k k' : AccessKind} (h : exec i s = fenceWith f k s) (hm : fenceMask f ≠ 0) (hk : k = k') :
    Does i s [.order k'] :=
  does_of_slot hg h (by rw [if_neg hm, hk])
theorem fence_does_nothing {i : Instr} {k : AccessKind} (h : exec i s = fenceWith f k s) (hm : fenceMask f = 0) : Does i s [] :=
  does_of_slot hg h (if_pos hm)

end

theorem tokenWait : TokenWait := by
  intro s f hg hr hsrq
  dsimp only
  rw [← kwaitTokens_eq]
  refine ⟨fun hdone => kwait_does hg hr hsrq ?complete,
    fun ⟨k, hk, hp⟩ => ⟨(kwaitTokens f).flatMap (tokenTrap s), kwait_does hg hr hsrq ?pending⟩,
    fun k hks hp hsince hstatus => kwait_does hg hr hsrq ?failed⟩
  case complete =>
    have hnone : (kwaitTokens f).any (fun k => (s.me.token k).pendingAt s.cyc) = false :=
      List.any_eq_false.mpr fun k hk => by
        obtain ⟨hp, hsince, -⟩ := hdone k hk
        simp [pendingAt_of_complete hp hsince]
    have htraps : (kwaitTokens f).flatMap (tokenTrap s) = [] := List.flatMap_eq_nil_iff.mpr fun k hk => by
      obtain ⟨-, -, hstatus⟩ := hdone k hk
      exact tokenTrap_of_ok hstatus
    rw [tokenWaits, hnone, htraps]
    rfl
  case pending =>
    have hsome : (kwaitTokens f).any (fun k => (s.me.token k).pendingAt s.cyc) = true :=
      List.any_eq_true.mpr ⟨k, hk, by rw [Token.pendingAt, hp, Bool.true_or]⟩
    rw [tokenWaits, if_pos hsome]
    rfl
  case failed =>
    rw [hks, tokenWaits, List.any_cons, pendingAt_of_complete hp hsince, List.flatMap_cons, tokenTrap_of_failed hp hstatus]
    rfl

theorem fences : Fences := by
  intro s f hg
  dsimp only
  have hmask : fenceMask f = f.imm.setWidth 16 := (BitVec.setWidth_eq_extractLsb' (by decide)).symm
  rw [← hmask]
  refine ⟨fun hm => ⟨fence_does hg rfl hm rfl, fence_does hg rfl hm rfl, fence_does hg rfl hm rfl⟩, fun hm i hi => ?_⟩
  simp only [List.mem_cons, List.not_mem_nil, or_false] at hi
  rcases hi with rfl | rfl | rfl <;> exact fence_does_nothing hg rfl hm

/-- Settles O7: the waits and traps of the tokens that KWAIT names, and the three fences by their mask. -/
theorem tokensAndFences : Obligations.TokensAndFences := ⟨tokenWait, fences⟩

theorem syncWords : SyncWords := by
  intro s f hg
  dsimp only
  refine ⟨yset_does hg, fun hready hr hsrq => ⟨fun hpassed => swait_does hg hr hsrq hready ?passed,
    fun hnot => swait_does hg hr hsrq hready ?waits⟩, ?post, fun hr hsrq hready => ⟨fun n hn hmask hpassed hbefore =>
    swaitany_does hg hr hsrq hready ?first, fun hnone => swaitany_does hg hr hsrq hready ?none⟩⟩
  case passed => exact if_pos ((passed_genSeen _).mpr hpassed)
  case waits => exact if_neg (mt (passed_genSeen _).mp hnot)
  case post =>
    intro hready
    have haddr : syncAddr s.cur.core (s.me.readY f.d.toNat) = spAddr s.cur.core ((s.me.readY f.d.toNat).toNat / 8 % 2 ^ 22) +
        16 * ((s.me.readY f.d.toNat).toNat % 8) := by
      rw [syncAddr, fieldOf_zero]
      rfl
    rw [← haddr]
    exact spost_does hg hready
  case first =>
    rw [waitanyResult, firstComplete_eq_some hn hmask hpassed hbefore]
    rfl
  case none => rw [waitanyResult, firstComplete_eq_none hnone]

theorem syncWordOwnership : SyncWordOwnership := by
  intro s f hg hr hsrq
  dsimp only
  refine ⟨fun hforeign i hi => ?one, fun n hn hmask hforeign hbefore => ?any⟩
  case one =>
    have hbown := syncChecks_of_foreign hforeign
    simp only [List.mem_cons, List.not_mem_nil, or_false] at hi
    rcases hi with rfl | rfl
    · exact ⟨_, does_of_slot hg rfl (by rw [delayIll_of_none hr, implicitBoundary_of_nil hsrq, hbown]; rfl)⟩
    · exact ⟨_, does_of_slot hg rfl (by rw [hbown]; rfl)⟩
  case any =>
    obtain ⟨rest, hrest⟩ := prefix_flatMap_of_first (g := fun n => syncChecks s (s.me.readY n)) (waitanySlots_rising f)
      (mem_waitanySlots.mpr ⟨hn, hmask⟩) (syncChecks_of_foreign hforeign) fun k hk hkn =>
        have ⟨_, hbit⟩ := mem_waitanySlots.mp hk
        syncChecks_of_ready (hbefore k hkn hbit)
    exact ⟨_, does_of_slot hg (exec_swaitany f s) (by
      rw [delayIll_of_none hr, implicitBoundary_of_nil hsrq, ← hrest, List.append_assoc]; rfl)⟩

/-- Settles O6: the generation that has passed (`passed_iff`), the first complete slot behind YPTR (`firstComplete_eq_some`),
and the first word of the mask in a foreign bank (`prefix_flatMap_of_first`). -/
theorem syncInstructions : Obligations.SyncInstructions := ⟨syncWords, syncWordOwnership⟩

end Sys2Proof
end

section
/-!
SUPPORT. The next bundle (R94, R96, R100): the passes of a loop nest, numbered with level 0 the fastest.
-/
namespace Sys2Proof

open Sys2Proof.Machine

/-- R100: the next indices are those of the next pass, and every level has wrapped exactly behind the last one. -/
theorem nextIndex_spec : ∀ (is ns : List Nat), is.length = ns.length →
    (∀ l, l < ns.length → is.getD l 0 < max (ns.getD l 0) 1) →
    ((nextIndex is ns).2 = true ∧ passOf is ns + 1 = passes ns) ∨
    ((nextIndex is ns).2 = false ∧ passOf (nextIndex is ns).1 ns = passOf is ns + 1 ∧ passOf is ns + 1 < passes ns)
  | [], [], _, _ => .inl ⟨rfl, rfl⟩
  | i :: is, n :: ns, hlen, hlt => by
    have hi : i < max n 1 := hlt 0 (Nat.zero_lt_succ _)
    have hrest := nextIndex_spec is ns (Nat.succ.inj hlen) fun l hl => hlt (l + 1) (Nat.succ_lt_succ hl)
    have hpasses : passes (n :: ns) = max n 1 * passes ns := rfl
    have hle : max n 1 * (passOf is ns + 1) ≤ max n 1 * passes ns := Nat.mul_le_mul_left _ (by omega)
    rw [Nat.mul_succ] at hle
    by_cases hlast : i + 1 < n
    · refine .inr ?_
      simp only [nextIndex, if_pos hlast, passOf, hpasses]
      exact ⟨trivial, by omega, by omega⟩
    · have hwrap : i + 1 = max n 1 := by omega
      simp only [nextIndex, if_neg hlast, passOf, hpasses]
      rcases hrest with ⟨hdone, hpass⟩ | ⟨hdone, hpass, hmore⟩
      · exact .inl ⟨hdone, by rw [← hpass, Nat.mul_succ]; omega⟩
      · have hmul : max n 1 * (passOf is ns + 1) < max n 1 * passes ns := Nat.mul_lt_mul_of_pos_left hmore (by omega)
        rw [Nat.mul_succ] at hmul
        exact .inr ⟨hdone, by rw [hpass, Nat.mul_succ]; omega, by omega⟩

end Sys2Proof

namespace Sys2Proof.Machine

theorem Ctx.setStage_pc (v : Ctx) : v.setStage.pc = v.pc := by
  unfold Ctx.setStage
  split <;> rfl
/-- A bundle that is not the last of a loop body goes on as one outside a loop does. -/
theorem Ctx.advance_of_not_end {v : Ctx} {pc : Nat} {body : Bool} (h : body = false ∨ pc + 1 ≠ v.loop.first + v.loop.body)
    (x : Nat) (pend : Option (Nat × Nat)) : v.advance x pc body pend = v.advance x pc false pend := by
  have hno : ¬ (body = true ∧ pc + 1 = v.loop.first + v.loop.body) := by
    rintro ⟨rfl, hend⟩
    exact h.elim Bool.noConfusion (· hend)
  simp only [Ctx.advance, if_neg hno, Bool.false_eq_true, false_and, if_false]
theorem Ctx.advance_of_end {v : Ctx} {pc : Nat} (h : pc + 1 = v.loop.first + v.loop.body) (x : Nat) :
    v.advance x pc true none = ({ v with pc := wrapPc x (pc + 1) } : Ctx).endPass := if_pos ⟨rfl, h⟩

section
variable {v : Ctx} {pc : Nat} (hend : pc + 1 = v.loop.first + v.loop.body) (x : Nat)
include hend

/-- R100: the end of a body that is not the last one's goes back to its first bundle. -/
theorem Ctx.advance_of_more (hlexit : v.loop.lexit = false) (hmore : (nextIndex v.loop.idx v.loop.cnt).2 = false) :
    v.advance x pc true none =
      { v with loop := { v.loop with idx := (nextIndex v.loop.idx v.loop.cnt).1 }, pc := v.loop.first }.setStage := by
  have hgoes : ¬ (v.loop.lexit = true ∨ (nextIndex v.loop.idx v.loop.cnt).2 = true) := by simp [hlexit, hmore]
  exact (Ctx.advance_of_end hend x).trans (if_neg hgoes)
/-- R100: the end of the last pass, or of one with a LEXIT, leaves the loop. -/
theorem Ctx.advance_of_last (h : v.loop.lexit = true ∨ (nextIndex v.loop.idx v.loop.cnt).2 = true) :
    v.advance x pc true none = { v with pc := wrapPc x (pc + 1), loop := { v.loop with active := false } } :=
  (Ctx.advance_of_end hend x).trans (if_pos h)

end

end Sys2Proof.Machine

namespace Sys2Proof

open Sys2Proof.Machine

/-- Settles O49: the next address and the pending branch by `Ctx.advance_outside`, the end of a body by the passes that
`nextIndex_spec` counts. -/
theorem nextBundle : Obligations.NextBundle := by
  refine ⟨fun v x pc body h => ?next, fun v x pc hend hlen hlt => ?pass, fun s c x target => ?branch⟩
  case next =>
    have hnext (pend : Option (Nat × Nat)) : v.advance x pc body pend =
        { v with pc := pcBehind x pc pend, redirect := redirectBehind pend v.redirect } :=
      (Ctx.advance_of_not_end h x pend).trans (Ctx.advance_outside v x pc pend)
    refine ⟨by rw [hnext, pcBehind_none], by rw [hnext], by rw [hnext], fun target n _ => ⟨fun hn => ?_, fun hn => ?_⟩⟩
    · rw [hnext]
      exact ⟨if_pos hn, if_pos hn⟩
    · rw [hnext]
      exact ⟨if_neg (Nat.not_le.mpr hn), if_neg (Nat.not_le.mpr hn)⟩
  case pass =>
    have hspec := nextIndex_spec v.loop.idx v.loop.cnt hlen hlt
    dsimp only
    refine ⟨fun hlexit hpasses => ?more, fun hlast => ?last⟩
    case more =>
      obtain ⟨-, hpass⟩ | ⟨hmore, hpass, -⟩ := hspec
      · omega
      · rw [Ctx.advance_of_more hend x hlexit hmore, Ctx.setStage_pc, (Ctx.setStage_frame _).1]
        exact ⟨rfl, rfl, rfl, hpass⟩
    case last =>
      have hleaves : v.loop.lexit = true ∨ (nextIndex v.loop.idx v.loop.cnt).2 = true := by
        refine hlast.imp_right fun hpass => ?_
        obtain ⟨hdone, -⟩ | ⟨-, -, hless⟩ := hspec
        · exact hdone
        · omega
      rw [Ctx.advance_of_last hend x hleaves]
      exact ⟨rfl, rfl⟩
  case branch => rw [State.apply, State.ctx_modCtx]

end Sys2Proof
end

section
/-!
SUPPORT. Forms of a V slot that compute element by element or lane by lane (R118, R119), and the float forms (R124).
-/
namespace Sys2Proof.Machine

/-! ## Lines of elements and of lanes -/

/-- A line of elements that fit their width, with the flags of the enabled ones, is what its operation gives. -/
theorem elements_mapElems {w : Nat} {mask : BitVec 32} {op : Nat → Nat × FlagBits} (hlt : ∀ j, (op j).1 < 2 ^ w) :
    Elements w mask (mapElems w mask op).1 (mapElems w mask op).2 op :=
  ⟨fun j hj => by rw [elemOf_mapElems w mask op j hj, Nat.mod_eq_of_lt (hlt j)],
    fun k => by simp only [mapElems_flag, bitOf_eq_getLsbD]⟩

section
variable {s : State} {f : VSlot} (hg : GuardTrue s f.g)
include hg

/-- R118, R119: a form that applies an operation to every element gives the elements and their flags. -/
theorem yields_elements {i : Instr} {srcs : List (BitVec 14)} {lat w : Nat} {op : Nat → Nat × FlagBits}
    (h : exec i s = vSlot s f srcs lat (mapElems w (vMask s f) op) (vMask s f)) (hlt : ∀ j, (op j).1 < 2 ^ w) :
    ∃ v g, Yields i s f srcs lat v (vMask s f) g ∧ Elements w (vMask s f) v g op :=
  ⟨_, _, yields_of_vSlot hg h, elements_mapElems hlt⟩

/-- R124: a float form rounds every element of its result once. -/
theorem yields_floats {F : Format} (hF : F.Sound) {i : Instr} {srcs : List (BitVec 14)} {lat : Nat}
    {x : Nat → Num × FlagBits}
    (h : exec i s = vSlot s f srcs lat (mapElems F.width (vMask s f) (fun j => floatOut F f (x j))) (vMask s f)) :
    ∃ v g, Yields i s f srcs lat v (vMask s f) g ∧ Elements F.width (vMask s f) v g (fun j => floatOut F f (x j)) :=
  yields_elements hg h fun _ => Format.round_lt hF ..

end

end Sys2Proof.Machine

namespace Sys2Proof

open Sys2Proof.Machine

/-- Settles O14: each form by its exact result, rounded by `floatOut` (`arith_float`, `arith1_float`). -/
theorem vectorFloatArithmetic : Obligations.VectorFloatArithmetic := by
  intro s f F hg hF
  have hS := sound_of_floatFormat hF
  dsimp only
  simp only [List.forall_mem_cons]
  refine ⟨?add, ?sub, ?mul, ?fma, ?fms, ?dif, ?abs, ?neg, fun _ h => absurd h List.not_mem_nil⟩
  case add => exact yields_floats hg hS ((exec_vadd f s).trans (arith_float hF ..))
  case sub => exact yields_floats hg hS ((exec_vsub f s).trans (arith_float hF ..))
  case mul => exact yields_floats hg hS ((exec_vmul f s).trans (arith_float hF ..))
  case fma => exact yields_floats hg hS ((exec_vfma f s).trans (arith_float hF ..))
  case fms => exact yields_floats hg hS ((exec_vfms f s).trans (arith_float hF ..))
  case dif => exact yields_floats hg hS ((exec_vdif f s).trans (arith_float hF ..))
  case abs => exact yields_floats hg hS ((exec_vabs f s).trans (arith1_float hF ..))
  case neg => exact yields_floats hg hS ((exec_vneg f s).trans (arith1_float hF ..))

end Sys2Proof
end

section
/-!
SUPPORT. Bit forms and lane masks of the V slots (R125, R126), and the lane moves (R132).
-/
namespace Sys2Proof.Machine

/-! ## Raw lanes -/

theorem elemOf_lt (w : Nat) (v : Line) (j : Nat) : elemOf w v j < 2 ^ w := Nat.mod_lt _ (Nat.two_pow_pos w)

section
variable {s : State} {f : VSlot} (hg : GuardTrue s f.g)
include hg

/-- A form that computes no float gives its line, and no flag. -/
theorem yields_line {i : Instr} {srcs : List (BitVec 14)} {lat : Nat} {v : Line} {mask : BitVec 32}
    (h : exec i s = vSlot s f srcs lat (v, 0) mask) : Yields i s f srcs lat v mask 0 := yields_of_vSlot hg h

/-- A form that builds its line lane by lane gives the lanes, and no flag. -/
theorem yields_lanes {i : Instr} {srcs : List (BitVec 14)} {lat : Nat} {lane : Nat → Lane} {mask : BitVec 32}
    (h : exec i s = vSlot s f srcs lat (lineOf lane, 0) mask) :
    ∃ v, Yields i s f srcs lat v mask 0 ∧ ∀ k, k < 32 → laneOf v k = lane k :=
  ⟨_, yields_line hg h, fun _ hk => laneOf_lineOf lane _ hk⟩

/-- A form on the raw elements of one operand gives every element its value, and no flag. -/
theorem yields_raw1 {i : Instr} {w : Nat} {op : Nat → Nat} (h : exec i s = raw1 w op f s)
    (hop : ∀ a, a < 2 ^ w → op a < 2 ^ w) :
    ∃ v, Yields i s f [f.a] 2 v (vMask s f) 0 ∧ ∀ j, j < 1024 / w → elemOf w v j = op (elemOf w (lineValue s f.a) j) := by
  obtain ⟨v, g, hy, hv, hflag⟩ := yields_elements hg h fun j => hop _ (elemOf_lt w _ j)
  have hzero : g = 0 := BitVec.eq_of_getLsbD_eq fun k _ => by rw [Bool.eq_iff_iff, hflag]; simp
  exact ⟨v, hzero ▸ hy, hv⟩

end

theorem lineOf_laneOf (v : Line) : lineOf (laneOf v) = v := lanes_ext fun i hi => laneOf_lineOf (laneOf v) i hi

/-- The lanes of a range. -/
theorem getLsbD_laneRange (lo n : Nat) {i : Nat} (hi : i < 32) :
    (laneRange lo n).getLsbD i = decide (lo ≤ i ∧ i < lo + n) := by
  rw [laneRange, BitVec.getLsbD_ofNat, decide_eq_true hi, Bool.true_and, Nat.testBit_mul_two_pow,
    Nat.testBit_two_pow_sub_one, Bool.decide_and]
  by_cases h : lo ≤ i
  · simp only [h, decide_true, Bool.true_and]
    exact decide_eq_decide.2 (by omega)
  · simp [h]

/-- The enabled lanes of a range. -/
theorem getLsbD_laneRange_and (lo n : Nat) (mask : BitVec 32) {i : Nat} (hi : i < 32) :
    (laneRange lo n &&& mask).getLsbD i = (mask.getLsbD i && decide (lo ≤ i ∧ i < lo + n)) := by
  rw [BitVec.getLsbD_and, getLsbD_laneRange lo n hi, Bool.and_comm]

/-! ## Signed elements (R125) -/

theorem fmtWidth_cases (n : Nat) : fmtWidth n = 4 ∨ fmtWidth n = 8 ∨ fmtWidth n = 16 ∨ fmtWidth n = 32 := by
  unfold fmtWidth
  split_ifs <;> simp
theorem four_le_two_pow_fmtWidth (n : Nat) : 4 ≤ 2 ^ fmtWidth n := by
  rcases fmtWidth_cases n with h | h | h | h <;> simp [h]

/-- The range of a number of `w` bits read as two's complement. -/
theorem signedOf_bounds (w v : Nat) : -(2 ^ w : Int) ≤ 2 * signedOf w v ∧ 2 * signedOf w v < 2 ^ w := by
  have hlt := Nat.mod_lt v (Nat.two_pow_pos w)
  have hpow : ((2 ^ w : Nat) : Int) = 2 ^ w := Nat.cast_pow 2 w
  unfold signedOf
  split <;> omega

/-- A quotient by a positive number lies between its dividend and 0. -/
theorem ediv_between {x p : Int} (hp : 0 < p) : (x / p ≤ x ∨ x / p ≤ 0) ∧ (x ≤ x / p ∨ 0 ≤ x / p) := by
  rcases Int.le_total 0 x with hx | hx
  · exact ⟨.inl (Int.ediv_le_self p hx), .inr (Int.ediv_nonneg hx hp.le)⟩
  · refine ⟨.inr (Int.ediv_le_of_le_mul hp (by simpa using hx)), .inl ?_⟩
    rw [Int.le_ediv_iff_mul_le hp]
    exact mul_le_of_one_le_right hx hp

/-- R125: an arithmetic shift of a signed element stays in its range. -/
theorem signedOf_wrapOf_shift (w x k : Nat) :
    signedOf w (wrapOf w (signedOf w x / (2 ^ k : Nat))) = signedOf w x / 2 ^ k := by
  obtain ⟨hlo, hhi⟩ := signedOf_bounds w x
  obtain ⟨hle, hge⟩ := ediv_between (x := signedOf w x) (p := (2 ^ k : Nat)) (by positivity)
  have hpos : (0 : Int) < 2 ^ w := by positivity
  rw [signedOf_wrapOf w _ (by omega) (by omega)]
  push_cast
  rfl

/-- R125: the high half of a signed product stays in the range of an element. -/
theorem signedOf_wrapOf_mulHigh {w : Nat} (hw : 4 ≤ 2 ^ w) (x y : Nat) :
    signedOf w (wrapOf w (signedOf w x * signedOf w y / (2 ^ w : Nat))) = signedOf w x * signedOf w y / 2 ^ w := by
  obtain ⟨hxlo, hxhi⟩ := signedOf_bounds w x
  obtain ⟨hylo, hyhi⟩ := signedOf_bounds w y
  have hw' : (4 : Int) ≤ 2 ^ w := by exact_mod_cast hw
  rw [show ((2 ^ w : Nat) : Int) = 2 ^ w from Nat.cast_pow 2 w]
  suffices h : -(2 ^ w : Int) ≤ 2 * (signedOf w x * signedOf w y / 2 ^ w) ∧
      2 * (signedOf w x * signedOf w y / 2 ^ w) < 2 ^ w from signedOf_wrapOf w _ h.1 h.2
  generalize signedOf w x = a, signedOf w y = b, (2 : Int) ^ w = p at *
  have hp : 0 < p := by omega
  have habs : |2 * a * (2 * b)| ≤ p * p := by
    rw [abs_mul]
    exact mul_le_mul (abs_le.2 ⟨hxlo, hxhi.le⟩) (abs_le.2 ⟨hylo, hyhi.le⟩) (abs_nonneg _) hp.le
  obtain ⟨hlo, hhi⟩ := abs_le.1 habs
  have hquot : a * b / p * p ≤ a * b := Int.ediv_mul_le _ hp.ne'
  have hquot' : a * b < (a * b / p + 1) * p := Int.lt_ediv_add_one_mul_self _ hp
  have hle : 4 * (a * b / p) ≤ p := le_of_mul_le_mul_right (by linarith) hp
  have hge : -p < 4 * (a * b / p + 1) := lt_of_mul_lt_mul_right (by linarith) hp.le
  omega

theorem popCount_le (n v : Nat) : popCount n v ≤ n := by
  rw [popCount_eq_length_filter]
  exact (List.length_filter_le _ _).trans_eq List.length_range

section
variable (f : VSlot) (s : State)

/-! The arm of each form on elements in `exec`. -/

theorem exec_vshl : exec (.vshl f) s =
    raw2 (fmtWidth f.fmt.toNat) 2 (fun a b => a * 2 ^ (b % fmtWidth f.fmt.toNat) % 2 ^ fmtWidth f.fmt.toNat) f s := rfl
theorem exec_vshr : exec (.vshr f) s =
    raw2 (fmtWidth f.fmt.toNat) 2 (fun a b => a / 2 ^ (b % fmtWidth f.fmt.toNat)) f s := rfl
theorem exec_vsar : exec (.vsar f) s = raw2 (fmtWidth f.fmt.toNat) 2 (fun a b =>
    wrapOf (fmtWidth f.fmt.toNat) (signedOf (fmtWidth f.fmt.toNat) a / (2 ^ (b % fmtWidth f.fmt.toNat) : Nat))) f s := rfl
theorem exec_vmulh : exec (.vmulh f) s = raw2 (fmtWidth f.fmt.toNat) 4 (fun a b => wrapOf (fmtWidth f.fmt.toNat)
    (signedOf (fmtWidth f.fmt.toNat) a * signedOf (fmtWidth f.fmt.toNat) b / (2 ^ fmtWidth f.fmt.toNat : Nat))) f s := rfl
theorem exec_vmulhn : exec (.vmulhn f) s =
    raw2 (fmtWidth f.fmt.toNat) 4 (fun a b => a * b / 2 ^ fmtWidth f.fmt.toNat) f s := rfl
theorem exec_vclz : exec (.vclz f) s = raw1 (fmtWidth f.fmt.toNat) (leadingZeros (fmtWidth f.fmt.toNat)) f s := rfl
theorem exec_vpopc : exec (.vpopc f) s = raw1 (fmtWidth f.fmt.toNat) (popCount (fmtWidth f.fmt.toNat)) f s := rfl

/-! The arm of each compare in `exec`. -/

theorem exec_vcmpEq : exec (.vcmpEq f) s = vCompare Num.eq (fun a b => decide (a = b)) f s := rfl
theorem exec_vcmpNe : exec (.vcmpNe f) s = vCompare (fun a b => !a.eq b) (fun a b => decide (a ≠ b)) f s := rfl
theorem exec_vcmpLt : exec (.vcmpLt f) s = vCompare Num.lt (fun a b => decide (signedOf 32 a < signedOf 32 b)) f s := rfl
theorem exec_vcmpLe : exec (.vcmpLe f) s = vCompare Num.le (fun a b => decide (signedOf 32 a ≤ signedOf 32 b)) f s := rfl
theorem exec_vcmpLtn : exec (.vcmpLtn f) s = vCompare Num.lt (fun a b => decide (a < b)) f s := rfl
theorem exec_vcmpLen : exec (.vcmpLen f) s = vCompare Num.le (fun a b => decide (a ≤ b)) f s := rfl

end

/-! ## Lane masks (R126) -/

/-- The bits of a number packed of bits. -/
theorem testBit_packList_bits (bit : Nat → Bool) {i : Nat} (hi : i < 32) :
    (packList 1 ((upTo 32 0).map (fun k => (bit k).toNat))).testBit i = bit i := by
  have hdigit := packList_digit 1 ((upTo 32 0).map (fun k => (bit k).toNat)) i
  rw [List.getElem?_map, getElem?_upTo, if_pos hi, one_mul, pow_one] at hdigit
  rw [Nat.testBit_eq_decide_div_mod_eq, hdigit]
  cases h : bit i <;> simp [h]

/-- The lowest bit of a mask that is not empty. -/
theorem findFrom_bitOf {q : BitVec 32} (hq : q ≠ 0) : ∃ k, findFrom (bitOf q) 32 0 = some k ∧ k < 32 ∧
    q.getLsbD k = true ∧ ∀ j, j < k → q.getLsbD j = false := by
  cases h : findFrom (bitOf q) 32 0 with
  | none =>
    refine absurd (BitVec.eq_of_getLsbD_eq fun i hi => ?_) hq
    exact (findFrom_eq_none.1 h i (Nat.zero_le i) (by omega)).trans BitVec.getLsbD_zero.symm
  | some k =>
    obtain ⟨-, hlt, hset, hmin⟩ := findFrom_eq_some.1 h
    exact ⟨k, rfl, by omega, hset, fun j hj => hmin j (Nat.zero_le j) hj⟩

section
variable {s : State} {f : VSlot} (hg : GuardTrue s f.g)
include hg

/-- A form that writes a lane mask. -/
theorem qSlot_does {i : Instr} {srcs : List (BitVec 14)} {n : Nat} {mask : BitVec 32} (h : exec i s = qSlot s f srcs n mask)
    (hn : n < 2 ^ 32) : Does i s (srcs.flatMap (lineChecks s) ++ [qWrite f.d.toNat (BitVec.ofNat 32 n) mask]) := by
  have hval : BitVec.ofNat 1024 n = (BitVec.ofNat 32 n).setWidth 1024 := by
    rw [BitVec.setWidth_ofNat_of_le_of_lt (by decide) hn]
  refine does_of_exec hg (h.trans ?_)
  rw [qSlot, hval]
  rfl

/-- R126: a compare sets the bits of the lanes for which its condition holds. -/
theorem vCompare_does {i : Instr} {fl : Num → Num → Bool} {it : Nat → Nat → Bool} (h : exec i s = vCompare fl it f s) :
    ∃ v, Does i s ([f.a, f.b].flatMap (lineChecks s) ++ [qWrite f.d.toNat v (vMask s f)]) ∧
      ∀ k, k < 32 → v.getLsbD k = if f.fmt = 0 then
        fl (fp32.decode (elemOf 32 (lineValue s f.a) k)) (fp32.decode (elemOf 32 (lineValue s f.b) k))
        else it (elemOf 32 (lineValue s f.a) k) (elemOf 32 (lineValue s f.b) k) := by
  refine ⟨_, qSlot_does hg h ?_, fun k hk => ?_⟩
  · exact (packList_lt _ _).trans_eq (by rw [List.length_map, length_upTo])
  · rw [BitVec.getLsbD_ofNat, decide_eq_true hk, Bool.true_and, testBit_packList_bits _ hk]
    rfl

/-- R126: the logic of lane masks. -/
theorem maskOp_does {i : Instr} {op : BitVec 32 → BitVec 32 → BitVec 32} (h : exec i s = maskOp op f s) :
    Does i s [qWrite f.d.toNat (op (s.me.readQ f.a.toNat) (s.me.readQ f.b.toNat)) (BitVec.allOnes 32)] := by
  have hdoes := qSlot_does hg h (BitVec.isLt _)
  rwa [BitVec.ofNat_toNat, BitVec.setWidth_eq] at hdoes

/-- A number in every enabled lane. -/
theorem yields_everyLane {i : Instr} {x : Lane} (h : exec i s = everyLane x f s) :
    ∃ v, Yields i s f [] 2 v (vMask s f) 0 ∧ ∀ k, k < 32 → elemOf 32 v k = x.toNat := by
  obtain ⟨v, hy, hv⟩ := yields_lanes hg h
  exact ⟨v, hy, fun k hk => by rw [← laneOf_toNat, hv k hk]⟩

end

end Sys2Proof.Machine

namespace Sys2Proof

open Sys2Proof.Machine

theorem vectorBits : VectorBits := by
  intro s f hg
  dsimp only
  refine ⟨?mov, ?sel, ⟨_, _, _, _, ⟨yields_line hg rfl, yields_line hg rfl, yields_line hg rfl, yields_line hg rfl⟩,
    fun i hi => ?logic⟩, ?elements⟩
  case mov =>
    have h := yields_line (i := .vmov f) hg rfl
    rwa [lineOf_laneOf] at h
  case sel =>
    exact ⟨_, yields_line hg rfl, fun i hi => laneOf_mergeLanes _ _ _ i hi⟩
  case logic =>
    simp only [BitVec.getLsbD_and, BitVec.getLsbD_or, BitVec.getLsbD_xor, BitVec.getLsbD_not, decide_eq_true hi,
      Bool.true_and, and_self]
  case elements =>
    have hw := four_le_two_pow_fmtWidth f.fmt.toNat
    have hself := Nat.lt_two_pow_self (n := fmtWidth f.fmt.toNat)
    obtain ⟨v1, hy1, hv1⟩ := yields_raw2 hg (exec_vshl f s) fun _ _ _ _ => Nat.mod_lt _ (by omega)
    obtain ⟨v2, hy2, hv2⟩ := yields_raw2 hg (exec_vshr f s) fun _ _ ha _ => (Nat.div_le_self _ _).trans_lt ha
    obtain ⟨v3, hy3, hv3⟩ := yields_raw2 hg (exec_vsar f s) fun _ _ _ _ => wrapOf_lt _ _
    obtain ⟨v4, hy4, hv4⟩ := yields_raw2 hg (exec_vmulh f s) fun _ _ _ _ => wrapOf_lt _ _
    obtain ⟨v5, hy5, hv5⟩ := yields_raw2 hg (exec_vmulhn f s) fun _ _ ha hb =>
      Nat.div_lt_of_lt_mul (Nat.mul_lt_mul'' ha hb)
    obtain ⟨v6, hy6, hv6⟩ := yields_raw1 hg (exec_vclz f s) fun a _ =>
      (leadingZeros_spec (fmtWidth f.fmt.toNat) a).1.trans_lt hself
    obtain ⟨v7, hy7, hv7⟩ := yields_raw1 hg (exec_vpopc f s) fun a _ =>
      (popCount_le (fmtWidth f.fmt.toNat) a).trans_lt hself
    refine ⟨v1, v2, v3, v4, v5, v6, v7, ⟨hy1, hy2, hy3, hy4, hy5, hy6, hy7⟩, fun j hj => ?_⟩
    rw [hv1 j hj, hv2 j hj, hv3 j hj, hv4 j hj, hv5 j hj, hv6 j hj, hv7 j hj]
    exact ⟨rfl, rfl, signedOf_wrapOf_shift _ _ _, signedOf_wrapOf_mulHigh hw _ _, rfl, leadingZeros_spec _ _,
      popCount_eq_length_filter _ _⟩

theorem vectorMasks : VectorMasks := by
  intro s f hg
  dsimp only
  simp only [List.forall_mem_cons]
  refine ⟨⟨vCompare_does hg (exec_vcmpEq f s), vCompare_does hg (exec_vcmpNe f s), vCompare_does hg (exec_vcmpLt f s),
    vCompare_does hg (exec_vcmpLe f s), vCompare_does hg (exec_vcmpLtn f s), vCompare_does hg (exec_vcmpLen f s),
    fun _ h => absurd h List.not_mem_nil⟩,
    ⟨_, _, _, ⟨maskOp_does hg rfl, maskOp_does hg rfl, maskOp_does hg rfl⟩, fun i _ => ?logic⟩, ?count, ?first⟩
  case logic => simp only [BitVec.getLsbD_and, BitVec.getLsbD_or, BitVec.getLsbD_xor, and_self]
  case count =>
    obtain ⟨v, hy, hv⟩ := yields_everyLane (i := .vqcnt f) hg rfl
    refine ⟨v, hy, fun i hi => ?_⟩
    have hle := popCount_le 32 (s.me.readQ f.a.toNat).toNat
    rw [hv i hi, BitVec.toNat_ofNat, Nat.mod_eq_of_lt (by omega), popCount_eq_length_filter]
    rfl
  case first =>
    obtain ⟨v, hy, hv⟩ := yields_everyLane (i := .vqfirst f) hg rfl
    refine ⟨v, hy, fun i hi => ⟨fun hq => ?_, fun hq => ?_⟩⟩ <;> rw [hv i hi]
    · rw [hq]; rfl
    · obtain ⟨k, hk, hlt, hset, hmin⟩ := findFrom_bitOf hq
      rw [hk, BitVec.toNat_ofNat, Nat.mod_eq_of_lt (by omega)]
      exact ⟨hlt, hset, hmin⟩

/-- Settles O16: raw lanes and elements by their forms, lane masks by the number their bits make up. -/
theorem vectorBitsAndMasks : Obligations.VectorBitsAndMasks := ⟨vectorBits, vectorMasks⟩

/-- Settles O19: each move by the line it builds lane by lane. -/
theorem vectorLaneMoves : Obligations.VectorLaneMoves := by
  intro s f hg
  dsimp only
  refine ⟨yields_lanes hg rfl, ?perm, yields_lanes hg rfl, yields_lanes hg rfl, yields_lanes hg rfl, fun hn => ?ins⟩
  case perm =>
    obtain ⟨v, hy, hv⟩ := yields_lanes (i := .vperm f) hg rfl
    exact ⟨v, hy, fun k hk => by rw [hv k hk, fieldOf_zero]; rfl⟩
  case ins =>
    obtain ⟨v, hy, hv⟩ := yields_lanes (i := .vins f) hg rfl
    refine ⟨v, _, hy, fun k hk => ?_, hv _ hn⟩
    rw [getLsbD_laneRange_and _ _ _ hk]
    exact congrArg _ (decide_eq_decide.2 (by omega))

end Sys2Proof
end

section
/-!
SUPPORT. Reductions of the V slots (R44, R131): the tree of a float sum, and the element that a minimum or a maximum over
the lanes chooses.
-/
namespace Sys2Proof.Machine

/-! ## The tree of a float sum (R44) -/

theorem sumNode_none_left (rnd : Nat) (y : Option F32) : sumNode rnd none y = y := by cases y <;> rfl
theorem sumNode_none_right (rnd : Nat) (x : Option F32) : sumNode rnd x none = x := by cases x <;> rfl

/-- R44: the tree of float sums is the tree of pairs of `sumNode`. -/
theorem sumTree_eq_pairNode (rnd : Nat) (leaf : Nat → Option (Nat × FlagBits)) (l i : Nat) :
    sumTree rnd leaf l i = pairNode (sumNode rnd) leaf l i := by
  induction l generalizing i with
  | zero => rfl
  | succ l ih =>
    rw [sumTree, pairNode, ih, ih]
    cases pairNode (sumNode rnd) leaf l (2 * i) <;> cases pairNode (sumNode rnd) leaf l (2 * i + 1) <;> rfl

theorem to32_lt (rnd : Nat) (x : Num × FlagBits) : (to32 rnd x).1 < 2 ^ 32 := Format.round_lt sound_fp32 ..

/-- A node of the tree is an encoding when its leaves are. -/
theorem pairNode_sumNode_lt {rnd : Nat} {leaf : Nat → Option F32} (hleaf : ∀ i, ∀ x ∈ leaf i, x.1 < 2 ^ 32) (l i : Nat) :
    ∀ x ∈ pairNode (sumNode rnd) leaf l i, x.1 < 2 ^ 32 := by
  induction l generalizing i with
  | zero => exact hleaf i
  | succ l ih =>
    have hleft := ih (2 * i)
    have hright := ih (2 * i + 1)
    rw [pairNode]
    generalize pairNode (sumNode rnd) leaf l (2 * i) = x at *
    generalize pairNode (sumNode rnd) leaf l (2 * i + 1) = y at *
    cases x with
    | none => rwa [sumNode_none_left]
    | some x =>
      cases y with
      | none => rwa [sumNode_none_right]
      | some y =>
        rintro z ⟨⟩
        exact to32_lt rnd _

/-! ## The lanes that take part (R131) -/

/-- The lane numbers that a mask enables. -/
def takenLanes (mask : BitVec 32) : List Nat := (List.range 32).filter (fun i => mask.getLsbD i)

theorem taking_eq_map (mask : BitVec 32) (a : Line) : taking mask a = (takenLanes mask).map (elemOf 32 a) := by
  rw [taking, upTo_eq_range]
  rfl
theorem mem_taking {mask : BitVec 32} {a : Line} {i : Nat} (h : i ∈ takenLanes mask) : elemOf 32 a i ∈ taking mask a := by
  rw [taking_eq_map]
  exact List.mem_map_of_mem h
theorem lt_of_mem_taking {mask : BitVec 32} {a : Line} {x : Nat} (h : x ∈ taking mask a) : x < 2 ^ 32 := by
  rw [taking_eq_map] at h
  obtain ⟨i, -, rfl⟩ := List.mem_map.1 h
  exact elemOf_lt 32 a i

/-- A lane as a leaf of the tree of a float sum: absent when it takes no part. -/
def sumLeaf (mask : BitVec 32) (a : Line) (i : Nat) : Option F32 :=
  if mask.getLsbD i = true then some (elemOf 32 a i, 0) else none
/-- The root of the tree of a float sum, +0 when no lane takes part. -/
def sumRoot (rnd : Nat) (mask : BitVec 32) (a : Line) : F32 := (sumTree rnd (sumLeaf mask a) 5 0).getD (0, 0)

theorem sumRoot_lt (rnd : Nat) (mask : BitVec 32) (a : Line) : (sumRoot rnd mask a).1 < 2 ^ 32 := by
  have hleaf (i : Nat) : ∀ x ∈ sumLeaf mask a i, x.1 < 2 ^ 32 := by
    intro x hx
    simp only [sumLeaf, Option.mem_def, Option.ite_none_right_eq_some, Option.some.injEq] at hx
    obtain ⟨-, rfl⟩ := hx
    exact elemOf_lt 32 a i
  have hlt := pairNode_sumNode_lt (rnd := rnd) hleaf 5 0
  rw [sumRoot, sumTree_eq_pairNode]
  cases h : pairNode (sumNode rnd) (sumLeaf mask a) 5 0 with
  | none => decide
  | some x => exact hlt x h

/-- R131: a float sum is the root of its tree, or the default NaN. -/
theorem sumF32_eq (rnd : Nat) (mask : BitVec 32) (a : Line) :
    sumF32 rnd mask a =
      (if (∃ i ∈ takenLanes mask, (fp32.decode (elemOf 32 a i)).isNan = true) ∨
        (fp32.decode (sumRoot rnd mask a).1).isNan = true then fp32.nanBits else (sumRoot rnd mask a).1,
        (sumRoot rnd mask a).2) := by
  have hany : (taking mask a).any (fun x => (num32 x).isNan) = true ↔
      ∃ i ∈ takenLanes mask, (fp32.decode (elemOf 32 a i)).isNan = true := by
    rw [taking_eq_map, List.any_map, List.any_eq_true]
    rfl
  have htree : tree (sumNode rnd) 5
      ((upTo 32 0).map fun i => if bitOf mask i then some ((elemOf 32 a i, 0) : F32) else none) =
      [sumTree rnd (sumLeaf mask a) 5 0] := by
    rw [upTo_eq_range, sumTree_eq_pairNode]
    exact tree_range (sumNode rnd) 5 (sumLeaf mask a)
  have hsum : sumF32 rnd mask a = if (taking mask a).any (fun x => (num32 x).isNan) = true ∨
      (fp32.decode (sumRoot rnd mask a).1).isNan = true then (fp32.nanBits, (sumRoot rnd mask a).2)
      else sumRoot rnd mask a := by
    rw [sumF32, htree, sumRoot]
    cases sumTree rnd (sumLeaf mask a) 5 0 <;> rfl
  simp only [hsum, ← hany]
  split <;> rfl

/-! ## A choice over a list -/

section
variable {P : Nat → Prop} {R : Nat → Nat → Prop} {op : Nat → Nat → Nat}

/-- What a choice of two numbers does: it takes one of them, which neither exceeds in the order `R`. -/
structure Chooses (P : Nat → Prop) (R : Nat → Nat → Prop) (op : Nat → Nat → Nat) : Prop where
  refl : ∀ a, R a a
  trans : ∀ a b c, P a → P b → P c → R a b → R b c → R a c
  step : ∀ a b, P a → P b → (op a b = a ∨ op a b = b) ∧ R a (op a b) ∧ R b (op a b)

theorem Chooses.keeps (h : Chooses P R op) {a b : Nat} (ha : P a) (hb : P b) : P (op a b) := by
  rcases (h.step a b ha hb).1 with h | h <;> rwa [h]

/-- A choice along a list takes the start or an element of the list, which none of them exceeds. -/
theorem Chooses.foldl (h : Chooses P R op) {l : List Nat} {init : Nat} (hinit : P init) (hl : ∀ x ∈ l, P x) :
    (l.foldl op init = init ∨ l.foldl op init ∈ l) ∧ R init (l.foldl op init) ∧ ∀ x ∈ l, R x (l.foldl op init) := by
  induction l generalizing init with
  | nil => exact ⟨.inl rfl, h.refl init, fun _ hx => absurd hx List.not_mem_nil⟩
  | cons y l ih =>
    rw [List.forall_mem_cons] at hl
    have hop := h.keeps hinit hl.1
    obtain ⟨hmem, hle, hall⟩ := ih hop hl.2
    obtain ⟨hone, hi, hy⟩ := h.step init y hinit hl.1
    rw [List.foldl_cons, List.forall_mem_cons, List.mem_cons]
    generalize l.foldl op (op init y) = r at *
    have hr : P r := by
      rcases hmem with rfl | hmem
      · exact hop
      · exact hl.2 r hmem
    refine ⟨?_, h.trans _ _ _ hinit hop hr hi hle, h.trans _ _ _ hl.1 hop hr hy hle, hall⟩
    rcases hmem with rfl | hmem
    · exact hone.imp_right .inl
    · exact .inr (.inr hmem)

/-- A choice that starts from the least number takes an element of its list. -/
theorem Chooses.foldl_mem (h : Chooses P R op) {l : List Nat} {init : Nat} (hinit : P init) (hl : ∀ x ∈ l, P x)
    (hleast : ∀ x, P x → R x init → x = init) (hne : l ≠ []) : l.foldl op init ∈ l := by
  obtain ⟨hmem | hmem, -, hall⟩ := h.foldl hinit hl
  · obtain ⟨y, hy⟩ := List.exists_mem_of_ne_nil l hne
    rw [hmem] at hall ⊢
    exact hleast y (hl y hy) (hall y hy) ▸ hy
  · exact hmem

end

/-- A fold that meets an element which every step turns into `n`, and never leaves `n`, ends in `n`. -/
theorem foldl_eq_of_absorbs {op : Nat → Nat → Nat} {n x : Nat} {l : List Nat} (hx : x ∈ l) (hin : ∀ a, op a x = n)
    (hstay : ∀ b, op n b = n) (init : Nat) : l.foldl op init = n := by
  obtain ⟨l1, l2, rfl⟩ := List.append_of_mem hx
  rw [List.foldl_append, List.foldl_cons, hin]
  exact List.foldl_fixed' hstay l2

/-! ## Largest and smallest lanes (R131) -/

section
variable {x y z : Num}

/-- The place of a number in the order of values. -/
def Num.rank : Num → WithBot (WithTop ℚ)
  | .nan => ⊥
  | .inf true => ⊥
  | .inf false => ⊤
  | .fin n m e => (ratOf n m e : WithTop ℚ)

theorem Num.lt_iff_rank (hx : x.isNan = false) (hy : y.isNan = false) : x.lt y = true ↔ x.rank < y.rank := by
  cases x with
  | nan => cases hx
  | inf a => cases y with
    | nan => cases hy
    | inf b => cases a <;> cases b <;> simp [lt, rank]
    | fin b n k => cases a <;> simp [lt, rank]
  | fin a m e => cases y with
    | nan => cases hy
    | inf b => cases b <;> simp [lt, rank, ← WithBot.coe_top]
    | fin b n k => rw [lt_fin_iff, rank, rank, WithBot.coe_lt_coe, WithTop.coe_lt_coe]

theorem Num.not_lt_trans (hx : x.isNan = false) (hy : y.isNan = false) (hz : z.isNan = false) (hxy : y.lt x = false)
    (hyz : z.lt y = false) : z.lt x = false := by
  rw [Bool.eq_false_iff, ne_eq, lt_iff_rank hy hx, not_lt] at hxy
  rw [Bool.eq_false_iff, ne_eq, lt_iff_rank hz hy, not_lt] at hyz
  rw [Bool.eq_false_iff, ne_eq, lt_iff_rank hz hx, not_lt]
  exact hxy.trans hyz

end

section
variable {P : Nat → Prop} {R : Nat → Nat → Prop} {op : Nat → Nat → Nat} {mask : BitVec 32} {a : Line} {init : Nat}

theorem foldl_taking_of_empty (h : takenLanes mask = []) : (taking mask a).foldl op init = init := by
  rw [taking_eq_map, h]
  rfl

/-- R131: a choice over the lanes that take part takes one of them, which none of them exceeds. -/
theorem Chooses.foldl_taking (h : Chooses P R op) (hinit : P init) (hleast : ∀ x, P x → R x init → x = init)
    (hP : ∀ i ∈ takenLanes mask, P (elemOf 32 a i)) (hne : takenLanes mask ≠ []) :
    (∃ i ∈ takenLanes mask, (taking mask a).foldl op init = elemOf 32 a i) ∧
      ∀ i ∈ takenLanes mask, R (elemOf 32 a i) ((taking mask a).foldl op init) := by
  rw [taking_eq_map]
  have hall : ∀ x ∈ (takenLanes mask).map (elemOf 32 a), P x := List.forall_mem_map.2 hP
  obtain ⟨i, hi, hx⟩ := List.mem_map.1 (h.foldl_mem hinit hall hleast (mt List.map_eq_nil_iff.1 hne))
  obtain ⟨-, -, hbound⟩ := h.foldl hinit hall
  exact ⟨⟨i, hi, hx.symm⟩, List.forall_mem_map.1 hbound⟩

theorem foldl_taking_lt (hop : ∀ x y, x < 2 ^ 32 → y < 2 ^ 32 → op x y < 2 ^ 32) (hinit : init < 2 ^ 32) :
    (taking mask a).foldl op init < 2 ^ 32 :=
  List.foldlRecOn (motive := (· < 2 ^ 32)) _ op hinit fun _ hx _ hy => hop _ _ hx (lt_of_mem_taking hy)

end

/-! ### Signed lanes -/

theorem chooses_elemMax_s32 : Chooses (· < 2 ^ 32) (fun a b => signedOf 32 a ≤ signedOf 32 b) (elemMax 4) where
  refl _ := le_rfl
  trans _ _ _ _ _ _ := le_trans
  step a b _ _ := by
    obtain ⟨-, hmax⟩ := signedOf_elemMin_elemMax (fmt := 4) (a := a) (b := b) rfl
    exact ⟨(ite_eq_or_eq (signedOf 32 a ≤ signedOf 32 b) b a).symm, (le_max_left _ _).trans_eq hmax.symm,
      (le_max_right _ _).trans_eq hmax.symm⟩
theorem chooses_elemMin_s32 : Chooses (· < 2 ^ 32) (fun a b => signedOf 32 b ≤ signedOf 32 a) (elemMin 4) where
  refl _ := le_rfl
  trans _ _ _ _ _ _ := flip le_trans
  step a b _ _ := by
    obtain ⟨hmin, -⟩ := signedOf_elemMin_elemMax (fmt := 4) (a := a) (b := b) rfl
    exact ⟨ite_eq_or_eq (signedOf 32 a ≤ signedOf 32 b) a b, hmin.trans_le (min_le_left _ _),
      hmin.trans_le (min_le_right _ _)⟩

theorem eq_of_le_least_s32 {x : Nat} (hx : x < 2 ^ 32) (h : signedOf 32 x ≤ signedOf 32 0x80000000) : x = 0x80000000 := by
  rw [signedOf_of_lt hx, signedOf_of_lt (by decide)] at h
  split at h <;> omega
theorem eq_of_ge_largest_s32 {x : Nat} (hx : x < 2 ^ 32) (h : signedOf 32 0x7FFFFFFF ≤ signedOf 32 x) : x = 0x7FFFFFFF := by
  rw [signedOf_of_lt hx, signedOf_of_lt (by decide)] at h
  split at h <;> omega

/-! ### Float lanes -/

/-- An FP32 encoding that is not a NaN. -/
def Ordered32 (x : Nat) : Prop := x < 2 ^ 32 ∧ (fp32.decode x).isNan = false

theorem chooses_floatMax : Chooses Ordered32 (fun a b => (fp32.decode b).lt (fp32.decode a) = false) (floatMax fp32) where
  refl _ := Num.lt_self _
  trans _ _ _ ha hb hc := Num.not_lt_trans ha.2 hb.2 hc.2
  step a b ha hb := by
    have h := (minOf_floatMin_maxOf_floatMax (F := fp32) (a := a) (b := b)).2
    rw [MaxOf, if_neg (by simp [ha.2, hb.2])] at h
    obtain ⟨hone, hl, hr, -⟩ := h
    exact ⟨hone, hl, hr⟩
theorem chooses_floatMin : Chooses Ordered32 (fun a b => (fp32.decode a).lt (fp32.decode b) = false) (floatMin fp32) where
  refl _ := Num.lt_self _
  trans _ _ _ ha hb hc hab hbc := Num.not_lt_trans hc.2 hb.2 ha.2 hbc hab
  step a b ha hb := by
    have h := (minOf_floatMin_maxOf_floatMax (F := fp32) (a := a) (b := b)).1
    rw [MinOf, if_neg (by simp [ha.2, hb.2])] at h
    obtain ⟨hone, hl, hr, -⟩ := h
    exact ⟨hone, hl, hr⟩

/-- R30: the encodings of the infinities. -/
theorem eq_of_decode_fp32_inf {x : Nat} {n : Bool} (hx : x < 2 ^ 32) (h : fp32.decode x = .inf n) :
    x = fp32.sign n + fp32.infBits := by
  have hfields : natField x 23 8 = 255 ∧ natField x 0 23 = 0 ∧ x.testBit 31 = n := by
    dsimp only [Format.decode, fp32] at h
    split at h
    · cases h
    · split at h
      · next hexp =>
        split at h
        · next hman => exact ⟨hexp.1, hman, Num.inf.inj h⟩
        · cases h
      · split at h <;> cases h
  obtain ⟨hexp, hman, rfl⟩ := hfields
  have hsign : fp32.sign (x.testBit 31) = x / 2 ^ 31 % 2 * 2 ^ 31 := by
    rw [Nat.testBit_eq_decide_div_mod_eq]
    rcases Nat.mod_two_eq_zero_or_one (x / 2 ^ 31) with h | h <;> rw [h] <;> rfl
  rw [hsign, show fp32.infBits = 255 * 2 ^ 23 from rfl]
  unfold natField at hexp hman
  omega

theorem eq_of_least_fp32 {x : Nat} (hx : Ordered32 x) (h : (fp32.decode 0xFF800000).lt (fp32.decode x) = false) :
    x = 0xFF800000 := by
  obtain ⟨hlt, hnan⟩ := hx
  rw [show fp32.decode 0xFF800000 = .inf true by decide] at h
  cases hd : fp32.decode x with
  | nan => rw [hd] at hnan; cases hnan
  | inf n =>
    cases n with
    | true => exact eq_of_decode_fp32_inf hlt hd
    | false => rw [hd] at h; cases h
  | fin n m e => rw [hd] at h; cases h
theorem eq_of_largest_fp32 {x : Nat} (hx : Ordered32 x) (h : (fp32.decode x).lt (fp32.decode 0x7F800000) = false) :
    x = 0x7F800000 := by
  obtain ⟨hlt, hnan⟩ := hx
  rw [show fp32.decode 0x7F800000 = .inf false by decide] at h
  cases hd : fp32.decode x with
  | nan => rw [hd] at hnan; cases hnan
  | inf n =>
    cases n with
    | true => rw [hd] at h; cases h
    | false => exact eq_of_decode_fp32_inf hlt hd
  | fin n m e => rw [hd] at h; cases h

/-- R131: a NaN among the lanes gives the default NaN. -/
theorem foldl_floatMin_floatMax_of_nan {l : List Nat} {x : Nat} (hx : x ∈ l) (hnan : (fp32.decode x).isNan = true)
    (init : Nat) : l.foldl (floatMin fp32) init = fp32.nanBits ∧ l.foldl (floatMax fp32) init = fp32.nanBits := by
  have hstay : (fp32.decode fp32.nanBits).isNan = true := by decide
  exact ⟨foldl_eq_of_absorbs (op := floatMin fp32) hx (fun _ => (floatMin_floatMax_of_nan (.inr hnan)).1)
      (fun _ => (floatMin_floatMax_of_nan (.inl hstay)).1) init,
    foldl_eq_of_absorbs (op := floatMax fp32) hx (fun _ => (floatMin_floatMax_of_nan (.inr hnan)).2)
      (fun _ => (floatMin_floatMax_of_nan (.inl hstay)).2) init⟩

/-! ## The forms -/

theorem intOut_lt (w : Nat) (sat : Bool) (x : Int) : (intOut w sat x).1 < 2 ^ w := by
  rw [← intResult_eq_intOut, intResult]
  split <;> exact wrapOf_lt w _

section
variable (f : VSlot) (s : State)

/-! The arm of each reduction in `exec`. -/

theorem exec_vrsum : exec (.vrsum f) s = reduced f s
    (if f.fmt = 0 then sumF32 f.rnd.toNat (vMask s f) (lineValue s f.a)
    else intResult 32 (decide (f.sat = 1)) (((taking (vMask s f) (lineValue s f.a)).map (signedOf 32)).foldl (· + ·) 0)) := rfl
theorem exec_vrmax : exec (.vrmax f) s = reduced f s ((taking (vMask s f) (lineValue s f.a)).foldl (elemMax f.fmt.toNat)
    (if f.fmt = 0 then 0xFF800000 else 0x80000000), 0) := rfl
theorem exec_vrmin : exec (.vrmin f) s = reduced f s ((taking (vMask s f) (lineValue s f.a)).foldl (elemMin f.fmt.toNat)
    (if f.fmt = 0 then 0x7F800000 else 0x7FFFFFFF), 0) := rfl

end

section
variable {s : State} {f : VSlot} (hg : GuardTrue s f.g)
include hg

/-- R131: a reduction writes one value to every lane. -/
theorem yields_reduced {i : Instr} {r : Nat × FlagBits} (h : exec i s = reduced f s r) (hr : r.1 < 2 ^ 32) :
    ∃ v, Yields i s f [f.a] 5 v (BitVec.allOnes 32) r.2 ∧ ∀ k, k < 32 → elemOf 32 v k = r.1 :=
  ⟨_, yields_of_vSlot hg h, fun k hk => by
    rw [← laneOf_toNat, laneOf_lineOf _ _ hk, BitVec.toNat_ofNat, Nat.mod_eq_of_lt hr]⟩

end

end Sys2Proof.Machine

namespace Sys2Proof

open Sys2Proof.Machine

/-- Settles O18: the tree of float sums by its nodes, the largest and the smallest lane by a choice over the lanes that
take part. -/
theorem vectorReductions : Obligations.VectorReductions := by
  intro s f hg
  dsimp only
  refine ⟨fun hf => ?intSum, fun hf => ?floatSum, fun hf => ?int, fun hf => ?float⟩
  case intSum =>
    have h : exec (.vrsum f) s = reduced f s (intOut 32 (decide (f.sat = 1))
        ((takenLanes (vMask s f)).map fun i => signedOf 32 (elemOf 32 (lineValue s f.a) i)).sum) := by
      rw [← intResult_eq_intOut, exec_vrsum, if_neg hf, taking_eq_map, List.map_map, ← List.sum_eq_foldl]
      rfl
    exact yields_reduced hg h (intOut_lt ..)
  case floatSum =>
    have h : exec (.vrsum f) s = reduced f s (sumF32 f.rnd.toNat (vMask s f) (lineValue s f.a)) := by
      rw [exec_vrsum, if_pos hf]
    rw [sumF32_eq] at h
    refine yields_reduced hg h ?_
    dsimp only
    split
    · decide
    · exact sumRoot_lt ..
  case int =>
    have hmax := exec_vrmax f s
    have hmin := exec_vrmin f s
    rw [hf] at hmax hmin
    have hlt (i : Nat) (_ : i ∈ takenLanes (vMask s f)) := elemOf_lt 32 (lineValue s f.a) i
    refine ⟨⟨_, yields_reduced hg hmax ?_, foldl_taking_of_empty, chooses_elemMax_s32.foldl_taking (by decide)
      (fun x => eq_of_le_least_s32) hlt⟩, ⟨_, yields_reduced hg hmin ?_, foldl_taking_of_empty,
      chooses_elemMin_s32.foldl_taking (by decide) (fun x => eq_of_ge_largest_s32) hlt⟩⟩
    · exact foldl_taking_lt (fun x y hx hy => (elemMin_elemMax_lt (fmt := 4) hx hy).2) (by decide)
    · exact foldl_taking_lt (fun x y hx hy => (elemMin_elemMax_lt (fmt := 4) hx hy).1) (by decide)
  case float =>
    have hmax := exec_vrmax f s
    have hmin := exec_vrmin f s
    rw [hf] at hmax hmin
    refine ⟨⟨_, yields_reduced hg hmax ?_, foldl_taking_of_empty, ?_, fun hne hnan => chooses_floatMax.foldl_taking
      ⟨by decide, by decide⟩ (fun x => eq_of_least_fp32) (fun i hi => ⟨elemOf_lt .., hnan i hi⟩) hne⟩,
      ⟨_, yields_reduced hg hmin ?_, foldl_taking_of_empty, ?_, fun hne hnan => chooses_floatMin.foldl_taking
      ⟨by decide, by decide⟩ (fun x => eq_of_largest_fp32) (fun i hi => ⟨elemOf_lt .., hnan i hi⟩) hne⟩⟩
    · exact foldl_taking_lt (fun x y hx hy => (elemMin_elemMax_lt (fmt := 0) hx hy).2) (by decide)
    · rintro ⟨i, hi, hnan⟩
      exact (foldl_floatMin_floatMax_of_nan (mem_taking hi) hnan _).2
    · exact foldl_taking_lt (fun x y hx hy => (elemMin_elemMax_lt (fmt := 0) hx hy).1) (by decide)
    · rintro ⟨i, hi, hnan⟩
      exact (foldl_floatMin_floatMax_of_nan (mem_taking hi) hnan _).1

end Sys2Proof
end

section
/-!
SUPPORT. Special functions and VCHK (R133, R134): what each function gives by the kind of its operand.
-/
namespace Sys2Proof.Machine

/-! ## The functions by the kind of their operand (R133) -/

section
variable {x : Nat} {n : Bool} {m : Nat} {e : Int}

theorem special_nan (h : fp32.decode x = .nan) :
    vexp2 x = (fp32.nanBits, 0) ∧ vlog2 x = (fp32.nanBits, 0) ∧
      vrcp32 x = (fp32.nanBits, 0) ∧ vrsq32 x = (fp32.nanBits, 0) := by
  simp only [vexp2, vlog2, vrcp32, vrsq32, num32, h, and_self]

theorem vexp2_inf (h : fp32.decode x = .inf n) : vexp2 x = (if n = true then 0 else fp32.infBits, 0) := by
  simp only [vexp2, num32, h]
theorem vlog2_inf (h : fp32.decode x = .inf n) :
    vlog2 x = if n = true then (fp32.nanBits, invalidFlag) else (fp32.infBits, 0) := by
  simp only [vlog2, num32, h]
theorem vrcp32_inf (h : fp32.decode x = .inf n) : vrcp32 x = (fp32.sign n, 0) := by
  simp only [vrcp32, num32, h]
theorem vrsq32_inf (h : fp32.decode x = .inf n) : vrsq32 x = if n = true then (fp32.nanBits, invalidFlag) else (0, 0) := by
  simp only [vrsq32, num32, h]

/-- A finite operand of VEXP2 lies above its range, below it, or gives a rounded result. -/
theorem vexp2_fin (h : fp32.decode x = .fin n m e) : ∃ y g, vexp2 x =
    if (Num.ofInt 128).le (.fin n m e) = true then (fp32.infBits, overflowFlag ||| inexactFlag)
    else if (Num.fin n m e).lt (Num.ofInt (-150)) = true then (0, underflowFlag ||| inexactFlag)
    else ((to32 0 y).1, g) := by
  simp only [vexp2, num32, h]
  exact ⟨_, _, rfl⟩
/-- A finite operand of VLOG2 is a zero, is negative, or gives a rounded result. -/
theorem vlog2_fin (h : fp32.decode x = .fin n m e) : ∃ y g, vlog2 x =
    if m = 0 then (fp32.sign true + fp32.infBits, 0) else if n = true then (fp32.nanBits, invalidFlag)
    else ((to32 0 y).1, g) := by
  simp only [vlog2, num32, h]
  exact ⟨_, _, rfl⟩
/-- A finite operand of VRCP is a zero, or gives a rounded magnitude with its sign. -/
theorem vrcp32_fin (h : fp32.decode x = .fin n m e) : ∃ y g, vrcp32 x =
    if m = 0 then (fp32.sign n + fp32.infBits, 0) else (fp32.sign n + (to32 0 y).1 % 2 ^ 31, g) := by
  simp only [vrcp32, num32, h]
  exact ⟨_, _, rfl⟩
/-- A finite operand of VRSQ is a zero, is negative, or gives a rounded result. -/
theorem vrsq32_fin (h : fp32.decode x = .fin n m e) : ∃ y g, vrsq32 x =
    if m = 0 then (fp32.sign n + fp32.infBits, 0) else if n = true then (fp32.nanBits, invalidFlag)
    else ((to32 0 y).1, g) := by
  simp only [vrsq32, num32, h]
  exact ⟨_, _, rfl⟩

end

/-! ## The range of VEXP2 -/

section
variable (z : Int) (n : Bool) (m : Nat) (e : Int)

theorem fin_lt_ofInt_iff : (Num.fin n m e).lt (Num.ofInt z) = true ↔ ratOf n m e < z := by
  rw [Num.ofInt, Num.lt_fin_iff, ratOf_natAbs, zpow_zero, mul_one]
theorem ofInt_le_fin_iff : (Num.ofInt z).le (.fin n m e) = true ↔ (z : ℚ) ≤ ratOf n m e := by
  rw [← not_lt, ← fin_lt_ofInt_iff]
  simp [Num.le, Num.isNan, Num.ofInt]

end

/-! ## Their results are encodings -/

theorem fp32_sign_add_lt (n : Bool) {y : Nat} (h : y < 2 ^ 31) : fp32.sign n + y < 2 ^ 32 := fp32.sign_add_lt n h
theorem fp32_sign_lt (n : Bool) : fp32.sign n < 2 ^ 32 := by cases n <;> decide

theorem vexp2_lt (x : Nat) : (vexp2 x).1 < 2 ^ 32 := by
  cases h : fp32.decode x with
  | nan => rw [(special_nan h).1]; decide
  | inf n => rw [vexp2_inf h]; cases n <;> decide
  | fin n m e =>
    obtain ⟨y, g, hy⟩ := vexp2_fin h
    rw [hy]
    split_ifs
    · decide
    · decide
    · exact to32_lt 0 y
theorem vlog2_lt (x : Nat) : (vlog2 x).1 < 2 ^ 32 := by
  cases h : fp32.decode x with
  | nan => rw [(special_nan h).2.1]; decide
  | inf n => rw [vlog2_inf h]; cases n <;> decide
  | fin n m e =>
    obtain ⟨y, g, hy⟩ := vlog2_fin h
    rw [hy]
    split_ifs
    · decide
    · decide
    · exact to32_lt 0 y
theorem vrcp32_lt (x : Nat) : (vrcp32 x).1 < 2 ^ 32 := by
  cases h : fp32.decode x with
  | nan => rw [(special_nan h).2.2.1]; decide
  | inf n => rw [vrcp32_inf h]; exact fp32_sign_lt n
  | fin n m e =>
    obtain ⟨y, g, hy⟩ := vrcp32_fin h
    rw [hy]
    split_ifs
    · exact fp32_sign_add_lt n (by decide)
    · exact fp32_sign_add_lt n (Nat.mod_lt _ (by decide))
theorem vrsq32_lt (x : Nat) : (vrsq32 x).1 < 2 ^ 32 := by
  cases h : fp32.decode x with
  | nan => rw [(special_nan h).2.2.2]; decide
  | inf n => rw [vrsq32_inf h]; cases n <;> decide
  | fin n m e =>
    obtain ⟨y, g, hy⟩ := vrsq32_fin h
    rw [hy]
    split_ifs
    · exact fp32_sign_add_lt n (by decide)
    · decide
    · exact to32_lt 0 y

/-! ## The forms -/

theorem exec_vchk (f : VSlot) (s : State) : exec (.vchk f) s = slot s f.g (lineChecks s f.a ++ lineChecks s f.b ++
    (if mergeLanes (vMask s f) 0 (lineValue s f.a) = mergeLanes (vMask s f) 0 (lineValue s f.b) then []
      else [.mismatch true])) := rfl

section
variable {s : State} {f : VSlot} (hg : GuardTrue s f.g)
include hg

/-- R133: a special function of f32 elements, and of bf16 elements, which are widened exactly and rounded once. -/
theorem yields_special {i : Instr} {fn : Nat → F32} (h : exec i s = special fn f s) (hlt : ∀ x, (fn x).1 < 2 ^ 32) :
    (f.fmt = 0 → ∃ v g, Yields i s f [f.a] 8 v (vMask s f) g ∧
      Elements 32 (vMask s f) v g (fun j => fn (elemOf 32 (lineValue s f.a) j))) ∧
    (f.fmt = 1 → ∃ v g, Yields i s f [f.a] 8 v (vMask s f) g ∧ Elements 16 (vMask s f) v g (fun j =>
      let y := fn (elemOf 16 (lineValue s f.a) j * 2 ^ 16)
      let z := bf16.round 0 false (fp32.decode y.1)
      (z.1, y.2 ||| z.2))) := by
  refine ⟨fun hf => yields_elements hg (h.trans ?_) fun j => hlt _, fun hf => yields_elements hg (h.trans ?_) fun j =>
    Format.round_lt sound_bf16 ..⟩
  · simp only [special, hf, if_true]
    rfl
  · simp only [special, hf]
    rfl

end

/-- The enabled lanes of two lines are equal when the lines merged into +0 are. -/
theorem mergeLanes_eq_iff (mask : BitVec 32) (a b : Line) : mergeLanes mask 0 a = mergeLanes mask 0 b ↔
    ∀ i ∈ List.range 32, mask.getLsbD i = true → laneOf a i = laneOf b i := by
  simp only [List.mem_range]
  refine ⟨fun h i hi hm => ?_, fun h => lanes_ext fun i hi => ?_⟩
  · have hlane := congrArg (laneOf · i) h
    simpa [laneOf_mergeLanes _ _ _ _ hi, bitOf_eq_getLsbD, hm] using hlane
  · rw [laneOf_mergeLanes _ _ _ _ hi, laneOf_mergeLanes _ _ _ _ hi]
    split
    · next hm => exact h i hi hm
    · rfl

end Sys2Proof.Machine

namespace Sys2Proof

open Sys2Proof.Machine

/-- Settles O20: the elements by `yields_special`, and each function by the kind of its operand. -/
theorem vectorSpecialFunctions : Obligations.VectorSpecialFunctions := by
  refine ⟨fun s f hg => ⟨?forms, ?check⟩, fun x n m e => ⟨fun h => ?nan, fun h => ?inf, fun h => ?zero,
    fun h hm => ?negative, fun h hle => ?above, fun h hlt => ?below⟩⟩
  case forms =>
    simp only [List.forall_mem_cons]
    exact ⟨yields_special hg rfl vexp2_lt, yields_special hg rfl vlog2_lt, yields_special hg rfl vrcp32_lt,
      yields_special hg rfl vrsq32_lt, fun _ h => absurd h List.not_mem_nil⟩
  case check =>
    refine does_of_exec hg (g := f.g) ?_
    rw [exec_vchk, if_congr (mergeLanes_eq_iff ..) rfl rfl]
    rfl
  case nan =>
    simp only [List.forall_mem_cons]
    obtain ⟨hexp, hlog, hrcp, hrsq⟩ := special_nan h
    exact ⟨hexp, hlog, hrcp, hrsq, fun _ h => absurd h List.not_mem_nil⟩
  case inf =>
    rw [vexp2_inf h, vrcp32_inf h, vlog2_inf h, vrsq32_inf h]
    exact ⟨rfl, rfl, rfl, rfl⟩
  case zero =>
    obtain ⟨_, _, hlog⟩ := vlog2_fin h
    obtain ⟨_, _, hrcp⟩ := vrcp32_fin h
    obtain ⟨_, _, hrsq⟩ := vrsq32_fin h
    rw [hlog, hrcp, hrsq, if_pos rfl, if_pos rfl, if_pos rfl]
    cases n <;> exact ⟨rfl, rfl, rfl⟩
  case negative =>
    obtain ⟨_, _, hlog⟩ := vlog2_fin h
    obtain ⟨_, _, hrsq⟩ := vrsq32_fin h
    rw [hlog, hrsq, if_neg hm, if_neg hm]
    exact ⟨rfl, rfl⟩
  case above =>
    obtain ⟨_, _, hexp⟩ := vexp2_fin h
    exact hexp.trans (if_pos ((ofInt_le_fin_iff ..).2 (by exact_mod_cast hle)))
  case below =>
    obtain ⟨_, _, hexp⟩ := vexp2_fin h
    have habove : ¬ (Machine.Num.ofInt 128).le (.fin n m e) = true := by
      rw [ofInt_le_fin_iff]
      push_cast
      linarith
    exact (hexp.trans (if_neg habove)).trans (if_pos ((fin_lt_ofInt_iff ..).2 (by exact_mod_cast hlt)))

end Sys2Proof
end

section
/-!
SUPPORT. Conversions between formats (R127 to R129): one element, and where the elements of a narrowing stand.
-/
namespace Sys2Proof.Machine

theorem elements_congr {w : Nat} {mask : BitVec 32} {v : Line} {g : FlagBits} {op op' : Nat → Nat × FlagBits}
    (h : Elements w mask v g op) (hop : ∀ j, op j = op' j) : Elements w mask v g op' := funext hop ▸ h

/-! ## One element (R127, R128) -/

theorem roundInt_eq (rnd : Nat) (n : Bool) (m : Nat) (e : Int) :
    roundInt rnd n m e = (signed n (roundGrid rnd n m e 0).1, (roundGrid rnd n m e 0).2) := rfl
theorem signed_eq_zero_iff (n : Bool) (m : Nat) : signed n m = 0 ↔ m = 0 := by cases n <;> simp [signed]
theorem natAbs_signed (n : Bool) (m : Nat) : (signed n m).natAbs = m := by cases n <;> simp [signed]

/-- R37: the flags of a value rounded to an integer. -/
theorem integerFlags_eq_integerLoss (rnd : Nat) (n : Bool) (m : Nat) (e : Int) :
    integerFlags m (roundInt rnd n m e).1 (roundInt rnd n m e).2 = integerLoss rnd n m e := by
  simp only [integerFlags, integerLoss, roundInt_eq, signed_eq_zero_iff, flagIf, decide_eq_true_eq]
  rfl

/-- R36: a float beyond the range of an integer format is clamped, with the invalid flag. -/
theorem intClamped_eq (w : Nat) (x : Int) : intClamped w x =
    ((max (-(2 ^ (w - 1) : Int)) (min x (2 ^ (w - 1) - 1)) % 2 ^ w).toNat,
      if x < -(2 ^ (w - 1) : Int) ∨ 2 ^ (w - 1) - 1 < x then 0b00001 else 0) := by
  have hpos := Nat.two_pow_pos (w - 1)
  have hbounds : intMin w ≤ intMax w := by
    unfold intMin intMax
    omega
  have hmin : intMin w = -(2 ^ (w - 1) : Int) := by simp [intMin]
  have hmax : intMax w = (2 ^ (w - 1) : Int) - 1 := by simp [intMax]
  have hchange : decide (max (intMin w) (min x (intMax w)) ≠ x) = true ↔ x < intMin w ∨ intMax w < x := by
    rw [decide_eq_true_iff]
    omega
  simp only [intClamped, clampInt_eq_max_min hbounds, wrapOf, flagIf, hchange]
  rw [hmin, hmax]
  push_cast
  rfl

/-- R127: one element converted between two formats. -/
theorem convert_eq_converted (src dst rnd : Nat) (sat : Bool) (x : Nat) :
    convert src dst rnd sat x = converted src dst rnd sat x := by
  unfold convert converted
  cases floatFormat src with
  | none =>
    cases floatFormat dst with
    | none => exact intResult_eq_intOut ..
    | some D => rfl
  | some S =>
    cases floatFormat dst with
    | some D => rfl
    | none =>
      dsimp only
      cases S.decode x with
      | nan => rfl
      | inf n => cases n <;> simp [wrapOf, intMin, intMax, invalidFlag]
      | fin n m e =>
        simp only [intClamped_eq, ← integerFlags_eq_integerLoss]
        rfl

theorem intResult_lt (w : Nat) (sat : Bool) (x : Int) : (intResult w sat x).1 < 2 ^ w := by
  rw [intResult_eq_intOut]
  exact intOut_lt w sat x
theorem convert_lt (src dst rnd : Nat) (sat : Bool) (x : Nat) : (convert src dst rnd sat x).1 < 2 ^ fmtWidth dst := by
  cases hD : floatFormat dst with
  | some D =>
    rw [fmtWidth_float hD]
    unfold convert
    rw [hD]
    cases floatFormat src <;> exact Format.round_lt (sound_of_floatFormat hD) ..
  | none =>
    unfold convert
    rw [hD]
    cases floatFormat src with
    | none => exact intResult_lt ..
    | some S =>
      dsimp only
      cases S.decode x with
      | nan => exact Nat.two_pow_pos _
      | inf n => exact wrapOf_lt ..
      | fin n m e => exact wrapOf_lt ..

/-! ## Lines of converted elements (R127) -/

/-- An element of a line that holds a packed number from element `b` on. -/
theorem elemOf_ofNat_shifted {w b j : Nat} (h : w * (b + j + 1) ≤ 1024) (x : Nat) :
    elemOf w (BitVec.ofNat 1024 (x * 2 ^ (w * b))) (b + j) = x / 2 ^ (w * j) % 2 ^ w := by
  refine Nat.eq_of_testBit_eq fun i => ?_
  rw [Nat.testBit_mod_two_pow, Nat.testBit_div_two_pow]
  by_cases hi : i < w
  · have hsum : w * (b + j) = w * b + w * j := Nat.mul_add ..
    have hroom : w * (b + j + 1) = w * (b + j) + w := Nat.mul_succ ..
    rw [testBit_elemOf w _ _ hi, BitVec.toNat_ofNat, Nat.testBit_mod_two_pow, Nat.testBit_mul_two_pow,
      decide_eq_true (by omega : w * (b + j) + i < 1024), decide_eq_true (by omega : w * (b + j) + i ≥ w * b),
      decide_eq_true hi, Bool.true_and, Bool.true_and, Bool.true_and]
    congr 1
    omega
  · rw [decide_eq_false hi, Bool.false_and]
    exact Nat.testBit_lt_two_pow ((elemOf_lt w _ _).trans_le (Nat.pow_le_pow_right two_pos (Nat.not_lt.1 hi)))

/-- R127: a conversion that does not narrow fills the line from element PART · n of its source on. -/
theorem convertLine_of_le {es ed : Nat} (h : es ≤ ed) (part : Nat) (mask : BitVec 32) (src : Nat → Nat)
    (op : Nat → Nat × FlagBits) : convertLine es ed part mask src op =
      (mapElems ed mask (fun j => op (src (part * (1024 / ed) + j))), mask) := if_neg (Nat.not_lt.2 h)

/-- A flag of a list of elements that begins with element `i`. -/
theorem laneFlags_map_upTo (w : Nat) (mask : BitVec 32) (i n : Nat) (op : Nat → Nat × FlagBits) (k : Nat) :
    (laneFlags w mask i ((upTo n 0).map op)).getLsbD k = true ↔
      ∃ j, j < n ∧ mask.getLsbD ((i + j) * w / 32) = true ∧ (op j).2.getLsbD k = true := by
  simp only [laneFlags_getLsbD, List.getElem?_map, getElem?_upTo, Nat.zero_add, bitOf_eq_getLsbD]
  refine exists_congr fun j => ?_
  by_cases hj : j < n <;> simp [hj]

/-- R127: a narrowing places its elements in the lanes of its part. -/
theorem placed_convertLine {es ed part : Nat} (hdvd : ed ∣ es) (hlane : es ∣ 32) (hnarrow : ed < es) (hpart : part * ed < es)
    (mask : BitVec 32) (src : Nat → Nat) {op : Nat → Nat × FlagBits} (hlt : ∀ x, (op x).1 < 2 ^ ed) :
    Placed ed mask (convertLine es ed part mask src op).2 (convertLine es ed part mask src op).1.1
      (convertLine es ed part mask src op).1.2 (part * (1024 / es)) (1024 / es) (32 * part * ed / es) (32 * ed / es)
      (fun j => op (src j)) := by
  obtain ⟨k, hk⟩ := hdvd
  obtain ⟨c, hc⟩ := hlane
  have hes : 0 < es := Nat.zero_lt_of_lt hnarrow
  have hpart' : part < k := Nat.lt_of_mul_lt_mul_left (a := ed) (by linarith)
  have hn : 1024 / es = 32 * c := Nat.div_eq_of_eq_mul_right hes (by linarith)
  have hlo : 32 * part * ed / es = c * part * ed := Nat.div_eq_of_eq_mul_right hes (by rw [hc]; ring)
  have hline : convertLine es ed part mask src op = ((BitVec.ofNat 1024
      (packList ed (((upTo (1024 / es) 0).map (fun j => op (src j))).map (fun r => r.1)) * 2 ^ (32 * (32 * part * ed / es))),
      laneFlags ed (laneRange (32 * part * ed / es) (32 * ed / es) &&& mask) (part * (1024 / es))
        ((upTo (1024 / es) 0).map (fun j => op (src j)))), laneRange (32 * part * ed / es) (32 * ed / es) &&& mask) :=
    if_pos hnarrow
  rw [hline]
  refine ⟨fun i hi => getLsbD_laneRange_and _ _ _ hi, fun j hj => ?_, fun b => laneFlags_map_upTo ..⟩
  have hbase : 32 * (32 * part * ed / es) = ed * (part * (1024 / es)) := by rw [hlo, hn]; ring
  have hroom : ed * (part * (1024 / es) + j + 1) ≤ 1024 := by
    calc ed * (part * (1024 / es) + j + 1) ≤ ed * ((part + 1) * (1024 / es)) := Nat.mul_le_mul_left _ (by linarith)
      _ ≤ ed * (k * (1024 / es)) := Nat.mul_le_mul_left _ (Nat.mul_le_mul_right _ hpart')
      _ = es * (1024 / es) := by rw [hk, mul_assoc]
      _ ≤ 1024 := Nat.mul_div_le _ _
  rw [hbase, elemOf_ofNat_shifted hroom, packList_digit]
  simp [getElem?_upTo, hj, Nat.mod_eq_of_lt (hlt (src j))]

/-- The widths of a narrowing: one divides the other, and both divide a lane. -/
theorem fmtWidth_dvd_of_lt : ∀ src < 7, ∀ dst < 7, fmtWidth dst < fmtWidth src →
    fmtWidth dst ∣ fmtWidth src ∧ fmtWidth src ∣ 32 := by decide

/-! ## Rounding in a format (R128) -/

/-- R128: VRND of an element. -/
theorem roundSame_fin {F : Format} {x : Nat} {n : Bool} {m : Nat} {e : Int} (h : F.decode x = .fin n m e) (rnd : Nat) :
    roundSame F rnd x = ((F.round rnd false (.fin n (roundGrid rnd n m e 0).1 0)).1, integerLoss rnd n m e) := by
  simp only [roundSame, h, ← integerFlags_eq_integerLoss, roundInt_eq, natAbs_signed]

theorem roundSame_lt {F : Format} (hF : F.Sound) (rnd x : Nat) : (roundSame F rnd x).1 < 2 ^ F.width := by
  cases h : F.decode x with
  | nan => simpa only [roundSame, h] using Format.nanBits_lt hF
  | inf n => simpa only [roundSame, h] using F.sign_add_lt n hF.2.2
  | fin n m e => rw [roundSame_fin h]; exact Format.round_lt hF ..

/-! ## The forms -/

section
variable (f : VSlot) (s : State)

/-! The arm of each conversion in `exec`. -/

theorem exec_vcvt : exec (.vcvt f) s =
    let r := convertLine (fmtWidth (f.b.toNat % 8)) (fmtWidth f.fmt.toNat) (f.b.toNat / 8 % 4) (vMask s f)
      (elemOf (fmtWidth (f.b.toNat % 8)) (lineValue s f.a))
      (convert (f.b.toNat % 8) f.fmt.toNat f.rnd.toNat (decide (f.sat = 1)))
    vSlot s f [f.a] 3 r.1 r.2 := by
  change execVcvt f s = _
  rw [execVcvt, fieldOf_zero]
  rfl
theorem exec_vsrnd {F : Format} (hF : floatFormat f.fmt.toNat = some F) : exec (.vsrnd f) s =
    let r := convertLine 32 F.width f.rnd.toNat (vMask s f) (fun j => j) (fun j =>
      F.stochastic (decide (f.sat = 1)) (elemOf 16 (lineValue s f.b) j) (fp32.decode (elemOf 32 (lineValue s f.a) j)))
    vSlot s f [f.a, f.b] 3 r.1 r.2 := by
  change execVsrnd f s = _
  rw [execVsrnd, hF]
  rfl
theorem exec_vscl {F : Format} (hF : floatFormat f.fmt.toNat = some F) : exec (.vscl f) s =
    vSlot s f [f.a] 3 (mapElems F.width (vMask s f) (fun j =>
      let e := (s.me.readE (f.b.toNat % 16)).toNat / 2 ^ (8 * (j * F.width / 32)) % 256
      if e = 255 then (F.nanBits, 0)
      else F.round f.rnd.toNat false ((F.decode (elemOf F.width (lineValue s f.a) j)).scale ((e : Int) - 127))))
      (vMask s f) := by
  change execVscl f s = _
  rw [execVscl, hF, fmtWidth_float hF, fieldOf_zero]
  rfl
theorem exec_vrnd {F : Format} (hF : floatFormat f.fmt.toNat = some F) : exec (.vrnd f) s =
    vSlot s f [f.a] 3 (mapElems F.width (vMask s f) (fun j => roundSame F f.rnd.toNat (elemOf F.width (lineValue s f.a) j)))
      (vMask s f) := by
  change execVrnd f s = _
  rw [execVrnd, hF, fmtWidth_float hF]
  rfl

end

end Sys2Proof.Machine

namespace Sys2Proof

open Sys2Proof.Machine

theorem vectorConversions : VectorConversions := by
  intro s f hg
  dsimp only
  refine ⟨fun hsrc hfmt => ⟨fun hlt hpart => ?narrow, fun hle => ?widen⟩, fun F hF => ⟨?scl, ?rnd, fun hlt hpart => ?srnd⟩⟩
  case narrow =>
    obtain ⟨hdvd, hlane⟩ := fmtWidth_dvd_of_lt _ hsrc _ hfmt hlt
    refine ⟨_, _, _, yields_of_vSlot hg (exec_vcvt f s), ?_⟩
    simp only [← convert_eq_converted]
    exact placed_convertLine hdvd hlane hlt hpart _ _ fun _ => convert_lt ..
  case widen =>
    have h := exec_vcvt f s
    simp only [convertLine_of_le hle] at h
    simp only [← convert_eq_converted]
    exact yields_elements hg h fun _ => convert_lt ..
  case scl =>
    rw [fmtWidth_float hF]
    refine yields_elements hg (exec_vscl f s hF) fun j => ?_
    split
    · exact Format.nanBits_lt (sound_of_floatFormat hF)
    · exact Format.round_lt (sound_of_floatFormat hF) ..
  case rnd =>
    obtain ⟨v, g, hy, hv⟩ := yields_elements hg (exec_vrnd f s hF) fun j => roundSame_lt (sound_of_floatFormat hF) ..
    rw [fmtWidth_float hF]
    refine ⟨v, g, hy, elements_congr hv fun j => ?_⟩
    cases h : F.decode (elemOf F.width (lineValue s f.a) j) with
    | nan => simp only [roundSame, h]
    | inf n => simp only [roundSame, h]
    | fin n m e => rw [roundSame_fin h]
  case srnd =>
    rw [fmtWidth_float hF] at hlt hpart ⊢
    have hdvd : F.width ∣ 32 := by
      rcases floatFormat_cases hF with ⟨-, rfl⟩ | ⟨-, rfl⟩ | ⟨-, rfl⟩ | ⟨-, rfl⟩ <;> decide
    refine ⟨_, _, _, yields_of_vSlot hg (exec_vsrnd f s hF), ?_⟩
    have h := placed_convertLine hdvd dvd_rfl hlt hpart (vMask s f) (fun j => j) (op := fun j =>
      F.stochastic (decide (f.sat = 1)) (elemOf 16 (lineValue s f.b) j) (fp32.decode (elemOf 32 (lineValue s f.a) j)))
      fun _ => Format.stochastic_lt (sound_of_floatFormat hF) ..
    rwa [Nat.mul_assoc, Nat.mul_div_cancel_left _ (by decide), Nat.mul_div_cancel_left _ (by decide)] at h

end Sys2Proof
end

section
/-!
SUPPORT. Blocks of the V slots (R39 to R42, R130): the byte that VBSCL replaces, and the flags of the elements that VQPACK
writes.
-/
namespace Sys2Proof.Machine

/-- The elements of a block. -/
theorem lineNums_eq (v : Line) : lineNums v = (List.range 32).map (fun i => fp32.decode (elemOf 32 v i)) := by
  rw [lineNums, upTo_eq_range]
  rfl

/-- The bytes of a line of which one is replaced. -/
theorem elemOf_putField {w n i x : Nat} (hn : w * (n + 1) ≤ 1024) (v : Line) :
    elemOf w (putField v (w * n) w x) i = if i = n then x % 2 ^ w else elemOf w v i := by
  have hroom : w * n + w ≤ 1024 := hn
  split
  · next h =>
    subst h
    refine natField_eq (Nat.mod_lt _ (Nat.two_pow_pos w)) fun b hb => ?_
    rw [testBit_putField v hroom, if_pos (by omega), Nat.add_sub_cancel_left, Nat.testBit_mod_two_pow, decide_eq_true hb,
      Bool.true_and]
  · next h =>
    have hapart : w * i + w ≤ w * n ∨ w * n + w ≤ w * i := by
      rcases Nat.lt_or_gt_of_ne h with hlt | hgt
      · exact .inl (Nat.mul_le_mul_left w hlt)
      · exact .inr (Nat.mul_le_mul_left w hgt)
    exact fieldOf_putField_apart v hroom hapart

/-! ## Flags of a block (R42) -/

theorem blockFlags_getLsbD (saturated invalid inexact : Bool) :
    let g := flagIf saturated saturatedFlag ||| flagIf invalid invalidFlag ||| flagIf inexact inexactFlag
    g.getLsbD 0 = invalid ∧ g.getLsbD 1 = false ∧ g.getLsbD 2 = false ∧ g.getLsbD 3 = inexact ∧ g.getLsbD 4 = saturated := by
  cases saturated <;> cases invalid <;> cases inexact <;> decide

section
variable {xs : List Num} {keep : Nat → Bool}

/-- The elements of a block that are kept. -/
theorem exists_kept_iff (q : Num × Nat → Bool) : (xs.zipIdx.filter (fun p => keep p.2)).any q = true ↔
    ∃ k, (k < xs.length ∧ keep k = true) ∧ q (xs.getD k .nan, k) = true := by
  simp only [List.any_eq_true, List.mem_filter, Prod.exists, List.mem_zipIdx_iff_getElem?]
  constructor
  · rintro ⟨x, k, ⟨hx, hk⟩, hq⟩
    obtain ⟨hlt, rfl⟩ := List.getElem?_eq_some_iff.1 hx
    exact ⟨k, ⟨hlt, hk⟩, by rwa [List.getD_eq_getElem _ _ hlt]⟩
  · rintro ⟨k, ⟨hlt, hk⟩, hq⟩
    rw [List.getD_eq_getElem _ _ hlt] at hq
    exact ⟨xs[k], k, ⟨List.getElem?_eq_getElem hlt, hk⟩, hq⟩

theorem kept_not_isEmpty_iff : (!(xs.zipIdx.filter (fun p => keep p.2)).isEmpty) = true ↔
    ∃ k, k < xs.length ∧ keep k = true := by
  have h := exists_kept_iff (xs := xs) (keep := keep) fun _ => true
  simp only [and_true] at h
  rw [← h]
  cases xs.zipIdx.filter (fun p => keep p.2) <;> simp

/-- R37, R42: each flag of a block by the kept elements that set it. -/
theorem q4xFlags_getLsbD (packed scale : Nat) (limited : Bool) :
    let g := q4xFlags packed scale limited xs keep
    (g.getLsbD 0 = true ↔ ∃ k, (k < xs.length ∧ keep k = true) ∧ (xs.getD k .nan).isFinite = false) ∧
      g.getLsbD 1 = false ∧ g.getLsbD 2 = false ∧
      (g.getLsbD 3 = true ↔ ∃ k, (k < xs.length ∧ keep k = true) ∧ (xs.getD k .nan).eq (q4xElem packed scale k) = false) ∧
      (g.getLsbD 4 = true ↔ limited = true ∧ ∃ k, k < xs.length ∧ keep k = true) := by
  have hinvalid := exists_kept_iff (xs := xs) (keep := keep) fun p => !p.1.isFinite
  have hinexact := exists_kept_iff (xs := xs) (keep := keep) fun p => !(p.1.eq (q4xElem packed scale p.2))
  have hsaturated := kept_not_isEmpty_iff (xs := xs) (keep := keep)
  simp only [Bool.not_eq_true'] at hinvalid hinexact
  rw [← hinvalid, ← hinexact, ← hsaturated]
  obtain ⟨h0, h1, h2, h3, h4⟩ := blockFlags_getLsbD (limited && !(xs.zipIdx.filter (fun p => keep p.2)).isEmpty)
    ((xs.zipIdx.filter (fun p => keep p.2)).any fun p => !p.1.isFinite)
    ((xs.zipIdx.filter (fun p => keep p.2)).any fun p => !(p.1.eq (q4xElem packed scale p.2)))
  exact ⟨Bool.eq_iff_iff.1 h0, h1, h2, Bool.eq_iff_iff.1 h3, (Bool.eq_iff_iff.1 h4).trans (Bool.and_eq_true_iff)⟩

end

/-! ## The forms -/

section
variable (f : VSlot) (s : State)

/-! The arm of each form of a block in `exec`. -/

theorem exec_vbscl : exec (.vbscl f) s =
    let n := f.b.toNat / 4 % 128
    let mask := laneRange (n / 4) 1 &&& vMask s f
    let r := q4xScale (f.b.toNat % 4) ((List.range 32).map (fun i => fp32.decode (elemOf 32 (lineValue s f.a) i)))
    vSlot s f [f.d, f.a] 3
      (putField (lineValue s f.d) (8 * n) 8 r.1, flagIf (r.2 && decide (mask ≠ 0)) saturatedFlag) mask := by
  change execVbscl f s = _
  rw [execVbscl, lineNums_eq, fieldOf_zero]
  rfl
theorem exec_vqpack : exec (.vqpack f) s =
    let j := f.b.toNat / 4 % 8
    let mask := laneRange (4 * j) 4 &&& vMask s f
    let xs := (List.range 32).map (fun i => fp32.decode (elemOf 32 (lineValue s f.a) i))
    let r := q4xEncode (f.b.toNat % 4) xs
    vSlot s f [f.a] 3 (BitVec.ofNat 1024 (r.1 * 2 ^ (128 * j)),
      q4xFlags r.1 r.2.1 (q4xScale (f.b.toNat % 4) xs).2 xs (fun k => mask.getLsbD (4 * j + k / 8))) mask := by
  change execVqpack f s = _
  rw [execVqpack, lineNums_eq, fieldOf_zero]
  rfl
theorem exec_vqunpk : exec (.vqunpk f) s =
    let e := (s.me.readE (f.b.toNat % 16)).toNat / 2 ^ (8 * (f.b.toNat / 16 % 32)) % 256
    vSlot s f [f.a] 3 (mapElems 32 (vMask s f) (fun k => fp32.round 0 false
      (q4xElem (elemOf 128 (lineValue s f.a) (f.b.toNat / 512 % 8)) e k))) (vMask s f) := by
  change execVqunpk f s = _
  rw [execVqunpk, fieldOf_zero]
  rfl

end

/-- R39: slot `k` of the codes of a block is a digit of their number. -/
theorem q4xElem_eq (codes scale k : Nat) : q4xElem codes scale k =
    q4xDecode scale (codes / 16 ^ k % 16) (codes / 16 ^ (if k % 2 = 0 then k + 1 else k - 1) % 16) := by
  have hdigit (i : Nat) : natField codes (4 * i) 4 = codes / 16 ^ i % 16 := by rw [natField, Nat.pow_mul]; norm_num
  rw [q4xElem, hdigit, hdigit]

end Sys2Proof.Machine

namespace Sys2Proof

open Sys2Proof.Machine

theorem vectorBlocks : VectorBlocks := by
  intro s f hg
  dsimp only
  refine ⟨?scale, ?pack, ?unpack⟩
  case scale =>
    refine ⟨_, _, _, yields_of_vSlot hg (exec_vbscl f s), fun i hi => ?_, fun i _ => elemOf_putField (by omega) _, ?_⟩
    · rw [getLsbD_laneRange_and _ _ _ hi]
      exact congrArg _ (decide_eq_decide.2 (by omega))
    · simp only [flagIf, Bool.and_eq_true, decide_eq_true_eq]
      rfl
  case pack =>
    refine ⟨_, _, _, yields_of_vSlot hg (exec_vqpack f s), fun i hi => ?_, ?_, ?_⟩
    · rw [getLsbD_laneRange_and _ _ _ hi]
      exact congrArg _ (decide_eq_decide.2 (by omega))
    · have h := elemOf_ofNat_shifted (w := 128) (b := f.b.toNat / 4 % 8) (j := 0) (by omega)
      simpa using h _
    · have h := q4xFlags_getLsbD (xs := (List.range 32).map (fun i => fp32.decode (elemOf 32 (lineValue s f.a) i)))
        (keep := fun k => (laneRange (4 * (f.b.toNat / 4 % 8)) 4 &&& vMask s f).getLsbD (4 * (f.b.toNat / 4 % 8) + k / 8))
      simpa only [List.length_map, List.length_range] using h _ _ _
  case unpack =>
    have h := exec_vqunpk f s
    simp only [q4xElem_eq] at h
    exact yields_elements hg h fun _ => Format.round_lt sound_fp32 ..

/-- Settles O17: one element by `convert_eq_converted`, the place of a narrowing's elements by `placed_convertLine`, and the
flags of a block by `q4xFlags_getLsbD`. -/
theorem vectorConversionsAndBlocks : Obligations.VectorConversionsAndBlocks := ⟨vectorConversions, vectorBlocks⟩

end Sys2Proof
end

section
/-!
SUPPORT. What the end of an access and the beginning of others leave (R107, R230 to R236): memory, tiles, the writes on their
way and, of every context, all but what accesses and completions hold.
-/
namespace Sys2Proof.Machine

/-- What a context keeps while accesses end and begin: all but its queues, what completions settle, and its rewind. -/
def Ctx.Proceeds (v u : Ctx) : Prop := u = { v with
  tok := u.tok, ckpt := u.ckpt, srq := u.srq, releasing := u.releasing, kept := u.kept, out := u.out, arrival := u.arrival,
  rewind := u.rewind, trapRdv := u.trapRdv }

theorem Ctx.Proceeds.trans {v u w : Ctx} (h : v.Proceeds u) (h' : u.Proceeds w) : v.Proceeds w := Eq.trans h' (by rw [h])

section
variable {v u : Ctx} (h : v.Proceeds u)
include h
theorem Ctx.Proceeds.c : u.c = v.c := by rw [h]
theorem Ctx.Proceeds.status : u.status = v.status := by rw [h]
theorem Ctx.Proceeds.busyRegs : u.busyRegs = v.busyRegs := by rw [h]
theorem Ctx.Proceeds.dirtyRegs : u.dirtyRegs = v.dirtyRegs := by rw [h]
theorem Ctx.Proceeds.readC (n : Nat) : u.readC n = v.readC n := by rw [h]; rfl
end

/-- What a core keeps while accesses end and begin. -/
structure Core.Proceeds (k l : Core) : Prop where
  tiles : l.tiles = k.tiles
  ctx : ∀ y, (k.ctx y).Proceeds (l.ctx y)

namespace Core.Proceeds
variable {k l m : Core}
theorem refl (k : Core) : k.Proceeds k := ⟨rfl, fun _ => rfl⟩
theorem trans (h : k.Proceeds l) (h' : l.Proceeds m) : k.Proceeds m :=
  ⟨h'.tiles.trans h.tiles, fun y => (h.ctx y).trans (h'.ctx y)⟩
theorem setCtx {v : Ctx} {x : Nat} (h : (k.ctx x).Proceeds v) : k.Proceeds (k.setCtx x v) := by
  refine ⟨rfl, fun y => ?_⟩
  by_cases hy : y = x
  · rw [hy, Core.ctx_setCtx]
    exact h
  · rw [Core.ctx_setCtx_ne _ _ _ _ hy]
    rfl
end Core.Proceeds

theorem Core.proceeds_settle (cmd : Nat) (st : BitVec 8) (addr cyc : Nat) (k : Core) :
    k.Proceeds (Core.settle cmd st addr cyc k) :=
  ⟨rfl, fun y => by rw [Core.ctx_settle]; rfl⟩
theorem Core.proceeds_finishJoins (cyc n : Nat) (k : Core) : k.Proceeds (Core.finishJoins cyc n k) := by
  induction n generalizing k with
  | zero => exact .refl k
  | succ n ih =>
    rw [Core.finishJoins]
    split
    · exact .refl k
    next j _ =>
      refine Core.Proceeds.trans (Core.Proceeds.trans ?_ (Core.proceeds_settle j.id _ _ cyc _)) (ih _)
      exact ⟨rfl, fun _ => rfl⟩

/-- What the part keeps while accesses end and begin; writes may set out behind those on their way. -/
structure State.Proceeds (s t : State) : Prop where
  mem : t.mem = s.mem
  writes : s.writes <+: t.writes
  core : ∀ d, (s.core d).Proceeds (t.core d)

namespace State.Proceeds
variable {s t u : State}
theorem refl (s : State) : s.Proceeds s := ⟨rfl, List.prefix_rfl, fun _ => .refl _⟩
theorem trans (h : s.Proceeds t) (h' : t.Proceeds u) : s.Proceeds u :=
  ⟨h'.mem.trans h.mem, h.writes.trans h'.writes, fun d => (h.core d).trans (h'.core d)⟩
theorem of_cores (hm : t.mem = s.mem) (hw : s.writes <+: t.writes) (hc : t.cores = s.cores) : s.Proceeds t :=
  ⟨hm, hw, fun d => by rw [State.core, State.core, hc]; exact .refl _⟩
theorem of_later (h : Later s t) : s.Proceeds t :=
  of_cores h.mem (by rw [h.eq]) h.cores
theorem setCore {c : Nat} {k : Core} (h : (s.core c).Proceeds k) : s.Proceeds (s.setCore c k) := by
  refine ⟨rfl, List.prefix_rfl, fun d => ?_⟩
  by_cases hd : d = c
  · rw [hd, State.core_setCore]
    exact h
  · rw [State.core_setCore_ne _ _ _ _ hd]
    exact .refl _
theorem modCore {f : Core → Core} (h : ∀ k : Core, k.Proceeds (f k)) (s : State) (c : Nat) : s.Proceeds (s.modCore c f) :=
  setCore (h _)
theorem modCtx {f : Ctx → Ctx} (h : ∀ v : Ctx, v.Proceeds (f v)) (s : State) (c x : Nat) : s.Proceeds (s.modCtx c x f) :=
  .modCore (fun _ => .setCtx (h _)) s c
theorem foldl {α : Type} {f : State → α → State} (hf : ∀ (s : State) (a : α), s.Proceeds (f s a)) (l : List α) (s : State) :
    s.Proceeds (l.foldl f s) := by
  induction l generalizing s with
  | nil => exact refl s
  | cons a l ih => exact (hf s a).trans (ih _)
theorem ctx (h : s.Proceeds t) (c x : Nat) : (s.ctx c x).Proceeds (t.ctx c x) := (h.core c).ctx x
end State.Proceeds

section
variable (s : State) (c x : Nat)

/-! ## The end of an access -/

theorem State.proceeds_settleRewind : s.Proceeds (s.settleRewind c x) := by
  unfold State.settleRewind
  dsimp only
  split
  · exact .refl s
  · split
    · exact .refl s
    · exact State.Proceeds.trans (.modCtx (fun _ => by exact rfl) s c x) (.of_later (.schedule ..))
theorem State.proceeds_completePartner (cl launch pos : Nat) : s.Proceeds (State.completePartner cl launch s pos) := by
  unfold State.completePartner
  split
  · exact .modCtx (fun _ => by exact rfl) s _ _
  · exact .of_cores rfl List.prefix_rfl rfl
theorem State.proceeds_tryRendezvous : s.Proceeds (s.tryRendezvous c x) := by
  unfold State.tryRendezvous
  split
  · exact .refl s
  · dsimp only
    split
    · exact .refl s
    · exact .foldl (fun t pos => t.proceeds_completePartner _ _ pos) _ s
theorem State.proceeds_afterAccess : s.Proceeds (s.afterAccess c x) := by
  unfold State.afterAccess
  refine State.Proceeds.trans ?_ (State.proceeds_tryRendezvous _ c x)
  refine State.Proceeds.trans ?_ (State.proceeds_settleRewind _ c x)
  refine State.Proceeds.trans ?_ (.of_later (State.later_retryRelease _ c))
  refine State.Proceeds.trans ?_ (.of_later (State.later_wake _ c))
  exact State.Proceeds.trans (.modCtx (fun _ => by exact rfl) s c x) (.modCore (fun k => k.proceeds_finishJoins ..) _ c)
theorem State.proceeds_dropAccess (num : Nat) (st : BitVec 8) (addr : Nat) : s.Proceeds (s.dropAccess c x num st addr) := by
  unfold State.dropAccess
  refine State.Proceeds.trans ?_ (State.proceeds_afterAccess _ c x)
  refine State.Proceeds.trans ?_ (.modCtx (fun _ => by exact rfl) _ c x)
  exact .modCore (fun _ => by exact ⟨rfl, fun _ => rfl⟩) s c
theorem State.proceeds_modAccess (num : Nat) (f : Access → Access) : s.Proceeds (s.modAccess c x num f) :=
  .modCtx (fun _ => by exact rfl) s c x

/-! ## The beginning of accesses -/

theorem State.inflight_frame (pa : Nat) (sent : Bool) : (s.inflight pa sent).mem = s.mem ∧
    (s.inflight pa sent).writes = s.writes ∧ (s.inflight pa sent).cores = s.cores := by
  unfold State.inflight State.sendRequest
  split
  · dsimp only
    split
    · exact ⟨rfl, rfl, rfl⟩
    · split
      · split <;> exact ⟨rfl, rfl, rfl⟩
      · exact ⟨rfl, rfl, rfl⟩
  all_goals exact ⟨rfl, rfl, rfl⟩
theorem State.proceeds_inflight (pa : Nat) (sent : Bool) : s.Proceeds (s.inflight pa sent) := by
  obtain ⟨hmem, hwrites, hcores⟩ := s.inflight_frame pa sent
  exact .of_cores hmem (by rw [hwrites]) hcores
theorem State.proceeds_startWrite (acc unit pa : Nat) (bs : List Byte) : s.Proceeds (s.startWrite c x acc unit pa bs) := by
  unfold State.startWrite
  dsimp only [State.newId]
  generalize hs : ({ s with nextId := s.nextId + 1, writes := _ } : State) = s1
  have h1 : s.Proceeds s1 := by
    rw [← hs]
    exact .of_cores rfl (List.prefix_append ..) rfl
  refine h1.trans ((s1.proceeds_inflight pa true).trans ?_)
  split
  · exact .of_later (.scheduleFree ..)
  · exact .refl _
theorem State.proceeds_beginAccess (a : Access) : s.Proceeds (s.beginAccess c x a) := by
  refine (s.proceeds_modAccess c x a.num (fun b => { b with progress := .started })).trans ?_
  unfold State.beginAccess
  dsimp only
  generalize s.modAccess c x a.num _ = s1
  cases a.kind with
  | loadTile o => exact (s1.proceeds_inflight ..).trans (.of_later (.scheduleFree ..))
  | loadReg n => exact (s1.proceeds_inflight ..).trans (.of_later (.scheduleFree ..))
  | storeLine v =>
    dsimp only
    split
    · exact s1.proceeds_dropAccess ..
    · exact s1.proceeds_startWrite ..
  | storeWord v =>
    dsimp only
    split
    · exact s1.proceeds_dropAccess ..
    · exact s1.proceeds_startWrite ..
  | post w v => exact .of_later (.schedule ..)
  | command j =>
    dsimp only
    split
    · exact .of_later (.schedule ..)
    · split
      · exact .of_later (.ite (.schedule ..) (.refl s1))
      · exact .refl s1
  | grow v => exact .refl s1
  | fence m sc => exact .refl s1
  | rel m sc => exact .refl s1
  | acq m => exact .refl s1
theorem State.proceeds_pumpRounds (n : Nat) : s.Proceeds (State.pumpRounds c x n s) := by
  induction n generalizing s with
  | zero => exact .refl s
  | succ n ih =>
    rw [State.pumpRounds]
    split
    · exact .refl s
    · exact (State.Proceeds.foldl (fun t b => t.proceeds_beginAccess c x b) _ s).trans (ih _)
theorem State.proceeds_pump : s.Proceeds (s.pump c x) := s.proceeds_pumpRounds c x _

/-! ## Accesses that have come as far as a point -/

theorem State.proceeds_finishAccess (num : Nat) (st : BitVec 8) (addr : Nat) :
    s.Proceeds (s.finishAccess c x num st addr) :=
  (s.proceeds_dropAccess c x num st addr).trans (State.proceeds_pump _ c x)
/-- An access has been performed at a point, and others begin. -/
theorem State.proceeds_reached (num : Nat) (f : Access → Access) :
    s.Proceeds (((s.modAccess c x num f).afterAccess c x).pump c x) :=
  (s.proceeds_modAccess c x num f).trans ((State.proceeds_afterAccess _ c x).trans (State.proceeds_pump _ c x))
theorem State.proceeds_ackAccess (num : Nat) (p : Scope) : s.Proceeds (s.ackAccess c x num p) := by
  unfold State.ackAccess
  split
  · exact s.proceeds_finishAccess ..
  · exact s.proceeds_reached ..
theorem State.proceeds_performedTo (num : Nat) (p : Scope) : s.Proceeds (s.performedTo c x num p) := by
  unfold State.performedTo
  split
  · exact .refl s
  · split
    · exact .refl s
    · exact s.proceeds_reached ..
theorem State.proceeds_acked (g : GWrite) (p : Scope) : s.Proceeds (s.acked g p) := by
  unfold State.acked
  split
  · exact .refl s
  next a _ =>
    cases a.kind with
    | command cmd =>
      dsimp only
      split
      · exact .of_later (.schedule ..)
      · split
        · exact .of_later (.schedule ..)
        · split
          · split
            · exact s.proceeds_finishAccess ..
            · exact .refl s
          · exact s.proceeds_performedTo ..
          · exact s.proceeds_performedTo ..
          · exact .refl s
    | storeLine v => exact s.proceeds_ackAccess ..
    | storeWord v => exact s.proceeds_ackAccess ..
    | loadTile o => exact .refl s
    | loadReg n => exact .refl s
    | post w v => exact .refl s
    | grow v => exact .refl s
    | fence m sc => exact .refl s
    | rel m sc => exact .refl s
    | acq m => exact .refl s
theorem State.proceeds_startRecord : s.Proceeds (s.startRecord c x) := by
  unfold State.startRecord
  refine State.Proceeds.trans ?_ (.of_later (.schedule ..))
  refine State.Proceeds.trans ?_ (.modCtx (fun _ => by exact rfl) _ c x)
  exact .setCore ⟨rfl, fun _ => rfl⟩
theorem State.proceeds_afterAnswer : s.Proceeds (s.afterAnswer c x) := by
  unfold State.afterAnswer
  split
  · split
    · exact .refl s
    · exact s.proceeds_startRecord c x
  all_goals exact .refl s
theorem State.out_startRecord : ((s.startRecord c x).ctx c x).out = (s.ctx c x).out := by
  unfold State.startRecord
  dsimp only
  rw [(State.Later.schedule ..).ctx, State.ctx_modCtx]
  dsimp only
  exact congrArg Ctx.out (State.SameCtxs.setCore (k := (s.core c).setBank _ _) rfl c x)
theorem State.out_afterAnswer : ((s.afterAnswer c x).ctx c x).out = (s.ctx c x).out := by
  unfold State.afterAnswer
  split
  · split
    · rfl
    · exact s.out_startRecord c x
  all_goals rfl

end

end Sys2Proof.Machine
end

section
/-!
SUPPORT. Steps of global accesses: loads that return (R140, R231, R232, R295), writes that are performed (R231), and walks
that end (R290, R291).
-/
namespace Sys2Proof.Machine

theorem onCtx_of_lt {c x : Nat} (hc : c < 192) (hx : x < 5) (r : Res) : onCtx c x r = r :=
  if_neg (not_or.mpr ⟨Nat.not_le.mpr hc, Nat.not_le.mpr hx⟩)
theorem State.scheduleFree_due (s : State) (i : Instr) : ∃ due, s.cyc < due ∧ (due, i) ∈ (s.scheduleFree i).calendar :=
  ⟨s.cyc + 1 + Config.freeDelay s.draws, by omega, State.mem_schedule.mpr (.inl rfl)⟩

/-! ## Loads -/

/-- What a load that has been answered does (R140, R231, R232, R295). -/
def State.loadAnswered (s : State) (c x : Nat) (a : Access) : State :=
  let r := a.served.getD (s.serve (clusterOf c) a)
  if s.revoked a.pa then ({ s with draws := s.draws + 16 } : State).loadEnds c x a (s.revokedData a)
  else if s.flitsStopped a.pa || (a.served.isNone && s.mixedAt (clusterOf c) a.pa a.kind.loadBytes) then
    s.scheduleFree (.globalLoadReturn c x a.num)
  else if s.stillAt (clusterOf c) r.after then
    (s.modAccess c x a.num (fun b => { b with served := some r })).scheduleFree (.globalLoadReturn c x a.num)
  else s.loadEnds c x a r

section
variable {s : State} {c x n : Nat} {a : Access}

theorem exec_globalLoadReturn (hc : c < 192) (hx : x < 5) (hout : (s.ctx c x).out = [a]) (hk : a.kind.isLoad = true) :
    exec (.globalLoadReturn c x a.num) s = .next (s.loadAnswered c x a) := by
  have hfind : (s.ctx c x).findAccess a.num = some a := by
    rw [Ctx.findAccess, hout]
    simp
  show onCtx c x _ = _
  rw [onCtx_of_lt hc hx, hfind]
  dsimp only
  rw [hk]
  unfold State.loadAnswered
  simp only [Bool.not_true, Bool.false_eq_true, if_false, apply_ite Host.Outcome.next]
  cases a.served <;> rfl

/-- A load's destination is no longer busy without an end. -/
theorem freeReg_frees {clear : Nat} (h : clear ≠ 0) (n : Nat) (l : List (Nat × Nat)) :
    ∀ e ∈ freeReg n clear l, e.1 = n → e.2 ≠ 0 := by
  intro e he hn
  obtain ⟨b, -, rfl⟩ := List.mem_map.mp he
  by_cases hb : b.1 = n ∧ b.2 = 0
  · rwa [if_pos hb]
  · rw [if_neg hb] at hn ⊢
    exact fun h0 => hb ⟨hn, h0⟩

/-- A load of a word writes its register and frees it from the next cycle on. -/
theorem State.ctx_arrive_loadReg (hk : a.kind = .loadReg n) (hd : a.discard = false) (r : Served) :
    (s.arrive c x a r).ctx c x = { (s.ctx c x).writeC n (BitVec.ofNat 64 r.val) with
      busyRegs := freeReg n (s.cyc + 1) (s.ctx c x).busyRegs,
      dirtyRegs := if r.mark = .clean ∨ r.mark = .group then (s.ctx c x).dirtyRegs
        else (s.ctx c x).dirtyRegs ++ [(n, r.mark, a.va)] } := by
  have hmend : (s.modCore c (fun k => k.mend [locReg x n])).ctx c x = s.ctx c x :=
    State.SameCtxs.modCore (f := fun k => k.mend [locReg x n]) (fun _ => rfl) s c c x
  simp only [State.arrive, hk, hd, Bool.false_eq_true, if_false, false_or, State.ctx_modCtx, hmend]

theorem mergeLanes_allLanes (old new : Line) : mergeLanes allLanes old new = new :=
  lanes_ext fun i hi => by
    rw [laneOf_mergeLanes _ _ _ _ hi, bitOf_eq_getLsbD, allLanes, BitVec.getLsbD_allOnes, if_pos (decide_eq_true hi)]
/-- A load of a line writes the row of its operand. -/
theorem State.arrive_loadTile {o : BitVec 14} {tl row : Nat} (hk : a.kind = .loadTile o) (hd : a.discard = false)
    (ho : operandOf o = .row tl row) (r : Served) :
    ((s.arrive c x a r).core c).tileRow ((s.ctx c x).tileBase + tl) row = BitVec.ofNat 1024 r.val ∧
      ((s.arrive c x a r).ctx c x).out = (s.ctx c x).out ∧ ((s.arrive c x a r).ctx c x).c = (s.ctx c x).c := by
  have hwrite : (s.modCore c (fun k => (k.writeLine (k.ctx x).tileBase (operandOf o) (BitVec.ofNat 1024 r.val) allLanes).mend
      ((Dest.tile o).places (k.ctx x).tileBase x allLanes))).ctx c x = s.ctx c x := by
    rw [State.ctx_modCore]
    exact Core.ctx_writeLine ..
  simp only [State.arrive, hk, hd, Bool.false_eq_true, if_false, State.ctx_modCtx, State.core_modCtx, hwrite, and_self,
    and_true]
  rw [State.core_modCore, ho]
  exact (FMap.get_set_self ..).trans (mergeLanes_allLanes ..)
theorem State.arrive_mem (r : Served) : (s.arrive c x a r).mem = s.mem := by
  unfold State.arrive
  dsimp only
  split
  · split <;> rfl
  · split <;> rfl
  all_goals rfl

end

/-- The end of a load whose data have arrived: its access leaves the queue. -/
theorem State.loadEnds_frame {s : State} {c x : Nat} {a : Access} {r : Served}
    (hout : ((s.arrive c x a r).ctx c x).out = [a]) :
    (s.arrive c x a r).Proceeds (s.loadEnds c x a r) ∧ ((s.loadEnds c x a r).ctx c x).out = [] := by
  unfold State.loadEnds
  generalize s.arrive c x a r = s1 at hout
  obtain ⟨-, -, hcores⟩ := s1.inflight_frame a.pa false
  have hlast : ((s1.inflight a.pa false).ctx c x).out = [a] := by rw [State.SameCtxs.of_cores hcores c x, hout]
  refine ⟨(s1.proceeds_inflight ..).trans ((State.proceeds_finishAccess ..).trans (State.proceeds_afterAnswer ..)), ?_⟩
  rw [State.out_afterAnswer]
  exact (State.finishAccess_last hlast 0 0).2.1

section
variable {s : State} {c x m : Nat} {a : Access} (hm : a.kind.loadBytes = m)

theorem State.loadAnswered_revoked (hr : s.revoked a.pa = true) : s.loadAnswered c x a =
    ({ s with draws := s.draws + 16 } : State).loadEnds c x a (s.revokedData a) := if_pos hr

variable (hr : s.revoked a.pa = false) (hs : a.served = none)
include hm hr hs

/-- A read that the switch cannot serve from one write goes on behind them (log entry 68). -/
theorem State.loadAnswered_mixed (hmix : s.mixedAt (c / 4) a.pa m = true) :
    s.loadAnswered c x a = s.scheduleFree (.globalLoadReturn c x a.num) := by
  subst hm
  have hmix' : s.mixedAt (clusterOf c) a.pa a.kind.loadBytes = true := hmix
  simp [State.loadAnswered, hr, hs, hmix']

variable (hf : s.flitsStopped a.pa = false)
include hf

theorem State.loadAnswered_clear (hnone : s.switchWrites (c / 4) a.pa m = []) :
    s.loadAnswered c x a = s.loadEnds c x a (s.serve (clusterOf c) a) := by
  subst hm
  have hnone' : s.switchWrites (clusterOf c) a.pa a.kind.loadBytes = [] := hnone
  simp [State.loadAnswered, hr, hf, hs, State.mixedAt, State.serve, State.stillAt, hnone']

/-- A read served from writes at the switch waits until these have been passed on (log entry 68). -/
theorem State.loadAnswered_served (hsome : s.switchWrites (c / 4) a.pa m ≠ []) (hmix : s.mixedAt (c / 4) a.pa m = false) :
    s.loadAnswered c x a = (s.modAccess c x a.num (fun b => { b with served := some (s.serve (clusterOf c) a) })).scheduleFree
      (.globalLoadReturn c x a.num) := by
  subst hm
  have hmix' : s.mixedAt (clusterOf c) a.pa a.kind.loadBytes = false := hmix
  obtain ⟨g, hg⟩ := List.exists_mem_of_ne_nil _ hsome
  obtain ⟨hmem, hat⟩ := List.mem_filter.mp hg
  have hstill : s.stillAt (clusterOf c) (s.serve (clusterOf c) a).after = true :=
    List.any_eq_true.mpr ⟨g, hmem, Bool.and_eq_true_iff.mpr
      ⟨(Bool.and_eq_true_iff.mp hat).1, List.contains_iff_mem.mpr (List.mem_map_of_mem hg)⟩⟩
  simp [State.loadAnswered, hr, hf, hs, hmix', hstill]

end

/-! ## Writes -/

section
variable {s : State} {c x : Nat} {g : GWrite}

theorem State.find_write_alone (hw : s.writes = [g]) : s.writes.find? (fun h => decide (h.id = g.id)) = some g := by simp [hw]
theorem State.behindOwn_alone (hw : s.writes = [g]) : s.behindOwn g = false := by simp [State.behindOwn, hw]
theorem State.blockedBy_alone (hw : s.writes = [g]) : s.blockedBy g = false := by simp [State.blockedBy, hw]
theorem noWindow_of_hbm {pa : Nat} (h : placeOf pa = .hbm) : NoWindow pa := fun w hw => by rw [h] at hw; cases hw
theorem State.performBytes_mem_of_hbm {pa : Nat} (h : placeOf pa = .hbm) (s : State) (bs : List Byte) :
    (s.performBytes pa bs).mem = s.mem.write pa bs := by
  have haddr : s.storeAddr pa = pa := by simp only [State.storeAddr, h]
  unfold State.performBytes
  rw [haddr]
  dsimp only
  split <;> rfl

variable (hc : c < 192) (hx : x < 5) (hw : s.writes = [g]) (hpa : placeOf g.pa = .hbm)
include hc hx hw hpa

/-- R231: the cluster's switch acknowledges a write first. -/
theorem exec_writePerformed_cluster : exec (.writePerformed c x g.id .cluster) s =
    .next (((s.setWrite { g with level := some .cluster }).acked { g with level := some .cluster } .cluster).scheduleFree
      (.writePerformed c x g.id .system)) := by
  have hnext : pointAfter .cluster (pointsOf c g.pa) = some .system := by simp [pointsOf, hpa, pointAfter]
  show onCtx c x _ = _
  rw [onCtx_of_lt hc hx, State.find_write_alone hw]
  dsimp only
  rw [State.behindOwn_alone hw, hnext]
  rfl
/-- R231: behind the switch a write to HBM is performed for every observer. -/
theorem exec_writePerformed_system (hl : g.level = some .cluster) : exec (.writePerformed c x g.id .system) s =
    .next (((s.performBytes g.pa g.bytes).dropWrite g).acked g .system) := by
  have hlast : pointAfter .system (pointsOf c g.pa) = none := by simp [pointsOf, hpa, pointAfter]
  have hbank : s.atBank g = .perform := by simp only [State.atBank, hpa]
  have hflits : s.flitsStopped g.pa = false := by simp only [State.flitsStopped, hpa]
  have hreach : s.reachPoint g c x g.id .system = ((s.performBytes g.pa g.bytes).dropWrite g).acked g .system := by
    simp only [State.reachPoint, hlast, State.performWrite, hpa, State.inflight_of_noWindow (noWindow_of_hbm hpa)]
  show onCtx c x _ = _
  rw [onCtx_of_lt hc hx, State.find_write_alone hw]
  dsimp only
  rw [State.behindOwn_alone hw, State.blockedBy_alone hw, hbank, hflits, hl, ← hreach]
  rfl

end

/-! ## Walks -/

theorem FMap.at?_erase {α : Type} (m : FMap α) (i : Nat) : (m.erase i).at? i = none := by
  induction m with
  | nil => rfl
  | cons e m ih =>
    obtain ⟨k, v⟩ := e
    rw [FMap.erase] at ih ⊢
    by_cases hk : k = i
    · rw [List.filter_cons_of_neg (by simpa using hk), ih]
    · rw [List.filter_cons_of_pos (by simpa using hk), FMap.at?, if_neg (Ne.symm hk), ih]

/-- A context for which a walk of a cluster has ended: a TLBI waits for it no longer (R291). -/
def Ctx.withoutWalk (cl n : Nat) (v : Ctx) : Ctx := { v with tlbiWait := v.tlbiWait.filter (fun i => decide (i ≠ (cl, n))) }
/-- The state without a walk. -/
def State.withoutWalk (s : State) (cl n : Nat) : State :=
  { s.modCluster cl (fun k => { k with walks := k.walks.erase n }) with
    cores := s.cores.map (fun e => (e.1, { e.2 with ctxs := e.2.ctxs.map (fun v => (v.1, v.2.withoutWalk cl n)) })) }
/-- A context that has waited for a walk goes on with what it found. -/
def Ctx.walked (n : Nat) (fault : Option Nat) (v : Ctx) : Ctx :=
  if v.walk = some n then { v with walk := none, walkFault := fault.elim v.walkFault some } else v

section
variable (s : State) (cl n : Nat) (w : Walk)

theorem State.ctx_withoutWalk (d y : Nat) : (s.withoutWalk cl n).ctx d y = (s.ctx d y).withoutWalk cl n := by
  have hcore : (s.withoutWalk cl n).core d =
      { s.core d with ctxs := (s.core d).ctxs.map (fun v => (v.1, v.2.withoutWalk cl n)) } :=
    FMap.get_map (d := Core.blank) s.cores
      (g := fun _ k => { k with ctxs := k.ctxs.map (fun v => (v.1, v.2.withoutWalk cl n)) }) rfl
  rw [State.ctx, hcore]
  exact FMap.get_map (d := Ctx.blank) (s.core d).ctxs (g := fun _ v => v.withoutWalk cl n) rfl
/-- The context that asked for a walk goes on. -/
theorem State.ctx_walked {s u : State} {cl n d y : Nat} (hu : u.ctx d y = (s.ctx d y).withoutWalk cl n)
    (hwaits : (s.ctx d y).walk = some n) (fault : Option Nat) :
    ((u.modCtx d y (Ctx.walked n fault)).ctx d y).walk = none ∧
      ((u.modCtx d y (Ctx.walked n fault)).ctx d y).walkFault = fault.elim (s.ctx d y).walkFault some := by
  have hwaits' : (u.ctx d y).walk = some n := by rw [hu]; exact hwaits
  rw [State.ctx_modCtx, Ctx.walked, if_pos hwaits', hu]
  exact ⟨rfl, rfl⟩
theorem State.cluster_withoutWalk : (s.withoutWalk cl n).cluster cl =
    { s.cluster cl with walks := (s.cluster cl).walks.erase n } :=
  State.cluster_setCluster ..

variable {s cl n w}
/-- R290, R291: a walk that has found a leaf. -/
theorem State.endWalk_found {base size : Nat} {e : Word} (hroot : s.rootEnabled w.part = true)
    (hleaf : walkTables s.mem 4 w.root w.va = some (base, size, e)) : s.endWalk cl n w =
      if w.stale = true then (s.withoutWalk cl n).modCtx w.core w.ctx (Ctx.walked n none)
      else if leafPermits e w.read w.write = true then
        ((s.withoutWalk cl n).modCluster cl (fun k =>
          k.cache { part := w.part, base := base, size := size, leaf := e })).modCtx w.core w.ctx (Ctx.walked n none)
      else (s.withoutWalk cl n).modCtx w.core w.ctx (Ctx.walked n (some w.va)) := by
  unfold State.endWalk
  simp only [hroot, hleaf, if_true]
  rfl

end

theorem leafPermits_iff (e : Word) (read write : Bool) : leafPermits e read write = true ↔
    (read = true → e.getLsbD 2 = true) ∧ (write = true → e.getLsbD 3 = true) := by
  cases read <;> cases write <;> simp [leafPermits, bitOf_eq_getLsbD]

end Sys2Proof.Machine

namespace Sys2Proof
open Sys2Proof.Machine

section
variable {s : State} {c x n : Nat} {a : Access} (hc : c < 192) (hx : x < 5)
include hc hx

/-! ## The steps of the statement -/

theorem loadReg_returns (hout : (s.ctx c x).out = [a]) (hk : a.kind = .loadReg n) (hd : a.discard = false)
    (hs : a.served = none) (hn : n ≠ 0) (hloop : (s.ctx c x).loop.active = false) (hr : s.revoked a.pa = false)
    (hf : s.flitsStopped a.pa = false) (hnone : s.switchWrites (c / 4) a.pa 8 = [])
    (hmark : loadMark s (c / 4) a.pa 8 = .clean) :
    Leads (.globalLoadReturn c x a.num) s (fun t => t.mem = s.mem ∧ (t.ctx c x).out = [] ∧
      (t.ctx c x).readC n = BitVec.ofNat 64 (s.readSeen (c / 4) a.pa 8) ∧
      (∀ m, m ≠ n → (t.ctx c x).readC m = (s.ctx c x).readC m) ∧ (t.ctx c x).dirtyRegs = (s.ctx c x).dirtyRegs ∧
      (∀ e ∈ (t.ctx c x).busyRegs, e.1 = n → e.2 ≠ 0)) := by
  have hbytes : a.kind.loadBytes = 8 := by rw [hk]; rfl
  have hval : (s.serve (clusterOf c) a).val = s.readSeen (c / 4) a.pa 8 := by rw [← hbytes]; rfl
  have hclean : (s.serve (clusterOf c) a).mark = .clean := by rw [← hmark, ← hbytes]; rfl
  have hload := State.ctx_arrive_loadReg (s := s) (c := c) (x := x) hk hd (s.serve (clusterOf c) a)
  rw [if_pos (.inl hclean), hval] at hload
  obtain ⟨hkeeps, hlast⟩ := State.loadEnds_frame (by rw [hload, ← hout]; exact Ctx.writeC_out ..)
  have hctx := hkeeps.ctx c x
  have hread (m : Nat) : ((s.loadEnds c x a (s.serve (clusterOf c) a)).ctx c x).readC m =
      ((s.ctx c x).writeC n (BitVec.ofNat 64 (s.readSeen (c / 4) a.pa 8))).readC m := by
    rw [hctx.readC, hload]
    rfl
  refine ⟨_, (exec_globalLoadReturn hc hx hout (by rw [hk]; rfl)).trans
    (congrArg _ (State.loadAnswered_clear hbytes hr hs hf hnone)), hkeeps.mem.trans (State.arrive_mem _), hlast, ?_,
    fun m hm => ?_, ?_, ?_⟩
  · rw [hread, Ctx.readC_writeC, if_pos rfl, if_neg hn, if_neg (by simp [hloop])]
  · rw [hread, Ctx.readC_writeC, if_neg hm]
  · rw [hctx.dirtyRegs, hload]
  · rw [hctx.busyRegs, hload]
    exact freeReg_frees (Nat.succ_ne_zero _) n _

theorem loadReg_goesOn (hout : (s.ctx c x).out = [a]) (hk : a.kind = .loadReg n) (hs : a.served = none)
    (hr : s.revoked a.pa = false) (hmix : s.mixedAt (c / 4) a.pa 8 = true) :
    Leads (.globalLoadReturn c x a.num) s (fun t => t.mem = s.mem ∧ t.cores = s.cores ∧
      ∃ due, s.cyc < due ∧ (due, Instr.globalLoadReturn c x a.num) ∈ t.calendar) :=
  ⟨_, (exec_globalLoadReturn hc hx hout (by rw [hk]; rfl)).trans
    (congrArg _ (State.loadAnswered_mixed (by rw [hk]; rfl) hr hs hmix)), rfl, rfl, s.scheduleFree_due _⟩

theorem loadReg_served (hout : (s.ctx c x).out = [a]) (hk : a.kind = .loadReg n) (hs : a.served = none)
    (hr : s.revoked a.pa = false) (hf : s.flitsStopped a.pa = false) (hsome : s.switchWrites (c / 4) a.pa 8 ≠ [])
    (hmix : s.mixedAt (c / 4) a.pa 8 = false) :
    Leads (.globalLoadReturn c x a.num) s (fun t => t.mem = s.mem ∧ (t.ctx c x).c = (s.ctx c x).c ∧
      (∃ due, s.cyc < due ∧ (due, Instr.globalLoadReturn c x a.num) ∈ t.calendar) ∧
      ∃ r, (t.ctx c x).out = [{ a with served := some r }] ∧ r.val = s.readSeen (c / 4) a.pa 8 ∧
        r.after = (s.switchWrites (c / 4) a.pa 8).map (fun g => g.id)) := by
  have hbytes : a.kind.loadBytes = 8 := by rw [hk]; rfl
  have hctx : (s.modAccess c x a.num (fun b => { b with served := some (s.serve (clusterOf c) a) })).ctx c x =
      { s.ctx c x with out := [{ a with served := some (s.serve (clusterOf c) a) }] } := by
    rw [State.modAccess, State.ctx_modCtx, Ctx.modAccess, hout]
    simp
  refine ⟨_, (exec_globalLoadReturn hc hx hout (by rw [hk]; rfl)).trans
    (congrArg _ (State.loadAnswered_served hbytes hr hs hf hsome hmix)), rfl, ?_, State.scheduleFree_due _ _,
    s.serve (clusterOf c) a, ?_, by rw [← hbytes]; rfl, by rw [← hbytes]; rfl⟩
  · rw [(State.Later.scheduleFree ..).ctx, hctx]
  · rw [(State.Later.scheduleFree ..).ctx, hctx]

theorem loadTile_returns {o : BitVec 14} {tl r : Nat} (hout : (s.ctx c x).out = [a]) (hk : a.kind = .loadTile o)
    (hd : a.discard = false) (hs : a.served = none) (ho : operandOf o = .row tl r) (hr : s.revoked a.pa = false)
    (hf : s.flitsStopped a.pa = false) (hnone : s.switchWrites (c / 4) a.pa 128 = []) :
    Leads (.globalLoadReturn c x a.num) s (fun t => t.mem = s.mem ∧ (t.ctx c x).out = [] ∧
      (t.core c).tileRow ((s.ctx c x).tileBase + tl) r = BitVec.ofNat 1024 (s.readSeen (c / 4) a.pa 128) ∧
      (t.ctx c x).c = (s.ctx c x).c) := by
  have hbytes : a.kind.loadBytes = 128 := by rw [hk]; rfl
  obtain ⟨hrow, hsame, hregs⟩ := State.arrive_loadTile (s := s) (c := c) (x := x) hk hd ho (s.serve (clusterOf c) a)
  obtain ⟨hkeeps, hlast⟩ := State.loadEnds_frame (hsame.trans hout)
  refine ⟨_, (exec_globalLoadReturn hc hx hout (by rw [hk]; rfl)).trans
    (congrArg _ (State.loadAnswered_clear hbytes hr hs hf hnone)), hkeeps.mem.trans (State.arrive_mem _), hlast, ?_,
    (hkeeps.ctx c x).c.trans hregs⟩
  rw [Core.tileRow, (hkeeps.core c).tiles, ← Core.tileRow, hrow, ← hbytes]
  rfl

theorem loadReg_revoked (hout : (s.ctx c x).out = [a]) (hk : a.kind = .loadReg n) (hd : a.discard = false)
    (hr : s.revoked a.pa = true) :
    Leads (.globalLoadReturn c x a.num) s (fun t => t.mem = s.mem ∧ (t.ctx c x).out = [] ∧
      (t.ctx c x).dirtyRegs = (s.ctx c x).dirtyRegs ++ [(n, .poison, a.va)] ∧
      ∀ m, m ≠ n → (t.ctx c x).readC m = (s.ctx c x).readC m) := by
  generalize hs1 : ({ s with draws := s.draws + 16 } : State) = s1
  have hsame : s1.ctx c x = s.ctx c x := by rw [← hs1]; rfl
  have hmem : s1.mem = s.mem := by rw [← hs1]
  have hload := State.ctx_arrive_loadReg (s := s1) (c := c) (x := x) hk hd (s.revokedData a)
  obtain ⟨hkeeps, hlast⟩ := State.loadEnds_frame (by rw [hload, ← hout, ← hsame]; exact Ctx.writeC_out ..)
  have hctx := hkeeps.ctx c x
  refine ⟨_, (exec_globalLoadReturn hc hx hout (by rw [hk]; rfl)).trans (congrArg _ (State.loadAnswered_revoked hr)), ?_⟩
  rw [hs1]
  refine ⟨hkeeps.mem.trans ((State.arrive_mem _).trans hmem), hlast, ?_, fun m hm => ?_⟩
  · rw [hctx.dirtyRegs, hload, hsame]
    rfl
  · rw [hctx.readC, hload, hsame]
    exact (Ctx.readC_writeC ..).trans (if_neg hm)

end

section
variable {s : State} {c x : Nat} {g : GWrite} (hc : c < 192) (hx : x < 5) (hw : s.writes = [g]) (hpa : placeOf g.pa = .hbm)
include hc hx hw hpa

theorem write_visible : Leads (.writePerformed c x g.id .cluster) s (fun t => t.mem = s.mem ∧
    t.writes.find? (fun h => decide (h.id = g.id)) = some { g with level := some .cluster }) := by
  have hkeeps := (s.setWrite { g with level := some .cluster }).proceeds_acked { g with level := some .cluster } .cluster
  have hset : (s.setWrite { g with level := some .cluster }).writes = [{ g with level := some .cluster }] := by
    simp [State.setWrite, hw]
  obtain ⟨later, hwrites⟩ := hkeeps.writes
  refine ⟨_, exec_writePerformed_cluster hc hx hw hpa, hkeeps.mem, ?_⟩
  rw [(State.Later.scheduleFree ..).eq]
  dsimp only
  rw [← hwrites, hset]
  simp

theorem write_performed (hl : g.level = some .cluster) :
    Leads (.writePerformed c x g.id .system) s (fun t => Stored s.mem t.mem g.pa g.bytes) := by
  refine ⟨_, exec_writePerformed_system hc hx hw hpa hl, ?_⟩
  have hmem := (State.proceeds_acked ((s.performBytes g.pa g.bytes).dropWrite g) g .system).mem
  have hwrite : ((s.performBytes g.pa g.bytes).dropWrite g).mem = s.mem.write g.pa g.bytes := State.performBytes_mem_of_hbm hpa ..
  beta_reduce
  rw [hmem, hwrite]
  exact stored_write _ _ _

end

theorem walk_ends {s : State} {cl n base size : Nat} {w : Walk} {e : Word} (hcl : cl < 48)
    (hwalk : (s.cluster cl).walks.at? n = some w) (hroot : s.rootEnabled w.part = true)
    (hwaits : (s.ctx w.core w.ctx).walk = some n) (hleaf : walkTables s.mem 4 w.root w.va = some (base, size, e)) :
    Leads (.translationWalkDone cl n) s (fun t => t.mem = s.mem ∧ (t.cluster cl).walks.at? n = none ∧
      (t.ctx w.core w.ctx).walk = none ∧
      if w.stale = true then (t.cluster cl).tlb = (s.cluster cl).tlb ∧
        (t.ctx w.core w.ctx).walkFault = (s.ctx w.core w.ctx).walkFault
      else if (w.read = true → e.getLsbD 2 = true) ∧ (w.write = true → e.getLsbD 3 = true) then
        (t.cluster cl).tlb.head? = some { part := w.part, base := base, size := size, leaf := e } ∧
          (t.ctx w.core w.ctx).walkFault = (s.ctx w.core w.ctx).walkFault
      else (t.ctx w.core w.ctx).walkFault = some w.va) := by
  have hunit : ¬ Config.clusters ≤ cl := Nat.not_le.mpr hcl
  have hexec : exec (.translationWalkDone cl n) s = .next (s.endWalk cl n w) := by
    show execTranslationWalkDone cl n s = _
    simp only [execTranslationWalkDone, if_neg hunit, hwalk]
  have herased := FMap.at?_erase (s.cluster cl).walks n
  have hcluster := s.cluster_withoutWalk cl n
  have hleft := s.ctx_withoutWalk cl n w.core w.ctx
  have hend := State.endWalk_found (cl := cl) (n := n) hroot hleaf
  by_cases hstale : w.stale = true
  · obtain ⟨hnone, hfault⟩ := State.ctx_walked hleft hwaits none
    rw [if_pos hstale] at hend
    refine ⟨_, hexec.trans (congrArg _ hend), rfl, ?_, hnone, ?_⟩
    · rw [State.cluster_modCtx, hcluster, herased]
    · rw [if_pos hstale, State.cluster_modCtx, hcluster]
      exact ⟨rfl, hfault⟩
  rw [if_neg hstale] at hend
  by_cases hmay : leafPermits e w.read w.write = true
  · obtain ⟨hnone, hfault⟩ := State.ctx_walked (u := (s.withoutWalk cl n).modCluster cl (fun k =>
      k.cache { part := w.part, base := base, size := size, leaf := e })) hleft hwaits none
    rw [if_pos hmay] at hend
    refine ⟨_, hexec.trans (congrArg _ hend), rfl, ?_, hnone, ?_⟩
    · rw [State.cluster_modCtx, State.cluster_modCluster, if_pos rfl, hcluster]
      exact herased
    · rw [if_neg hstale, if_pos ((leafPermits_iff ..).mp hmay), State.cluster_modCtx, State.cluster_modCluster, if_pos rfl]
      exact ⟨rfl, hfault⟩
  · obtain ⟨hnone, hfault⟩ := State.ctx_walked hleft hwaits (some w.va)
    rw [if_neg hmay] at hend
    refine ⟨_, hexec.trans (congrArg _ hend), rfl, ?_, hnone, ?_⟩
    · rw [State.cluster_modCtx, hcluster, herased]
    · rw [if_neg hstale, if_neg (mt (leafPermits_iff ..).mpr hmay)]
      exact hfault

/-- Settles O37: each step by what its answer leaves (`State.Proceeds`), the write by the point it reaches, and the walk by
the leaf it has found (`State.endWalk_found`). -/
theorem globalSteps : Obligations.GlobalSteps := by
  intro s c x hc hx
  refine ⟨fun a n hout hk hd hs hn hloop hr hf _ =>
      ⟨fun hnone hmark => ?clear, fun hmix => ?mixed, fun hsome hmix => ?served⟩,
    fun a o tl r hout hk hd hs ho hr hf hnone _ _ => ?line, fun a n hout hk hd hr => ?revoked,
    fun g hw hcore hctx hpa _ => ?visible, fun g hw hcore hctx hpa hl => ?performed,
    fun cl n w base size e hcl hwalk hroot hwaits hleaf => ?walk⟩
  case clear => exact loadReg_returns hc hx hout hk hd hs hn hloop hr hf hnone hmark
  case mixed => exact loadReg_goesOn hc hx hout hk hs hr hmix
  case served => exact loadReg_served hc hx hout hk hs hr hf hsome hmix
  case line => exact loadTile_returns hc hx hout hk hd hs ho hr hf hnone
  case revoked => exact loadReg_revoked hc hx hout hk hd hr
  case visible => exact write_visible hc hx hw hpa
  case performed => exact write_performed hc hx hw hpa hl
  case walk => exact walk_ends hcl hwalk hroot hwaits hleaf

end Sys2Proof
end

section
/-!
The matrix commands at issue (R149 to R163): what each check of an engine command asks, and the command that a bundle
queues once every check passes.
-/
namespace Sys2Proof.Machine

/-! ## Checks of an engine command -/

theorem illWith_of_false {b : Bool} (h : b = false) (n : Nat) : illWith b n = [] := by rw [h]; rfl
theorem illWith_of_true {b : Bool} (h : b = true) (n : Nat) : illWith b n = [.trap .ill (BitVec.ofNat 64 n)] := by rw [h]; rfl
theorem queueFull_of_lt {q : List Cmd} {n : Nat} (h : q.length < n) : queueFull q n = false := decide_eq_false (Nat.not_le.mpr h)

section
variable {s : State} {f : ESlot}

/-- R12, R196: no wait when the token that the command produces is complete and its queue has room. -/
theorem commandWait_of_free (hko : KoFree s f) {full : Bool} (hfull : full = false) : commandWait s f full = [] := by
  have hpend : (decide (f.ko ≠ 0) && (s.me.token f.ko.toNat).pendingAt s.cyc) = false := by
    rcases hko with hko | ⟨hpend, hsince⟩
    · rw [decide_eq_false (not_not.mpr hko), Bool.false_and]
    · rw [Token.pendingAt, hpend, decide_eq_false (Nat.not_lt.mpr hsince), Bool.false_or, Bool.and_false]
  simp only [commandWait, hpend, hfull, Bool.or_self, Bool.false_eq_true, if_false]

/-! ## Groups of tiles (R75, R121, R164) -/

theorem groupOf_eq_tilesFrom (s : State) (t n : Nat) : groupOf s t n = tilesFrom s t n := by
  apply List.ext_getElem?
  intro i
  rw [groupOf, getElem?_upTo, tilesFrom, List.getElem?_map]
  by_cases h : i < n <;> simp [h]

theorem tilePending_iff (s : State) (t : Nat) : tilePending s t = true ↔
    ∃ e ∈ s.me.pwq, ∃ v, e.dest = .tile v ∧ (operandOf v).tile? = some t := by
  rw [tilePending, List.any_eq_true]
  refine exists_congr fun e => and_congr_right fun _ => ?_
  cases e.dest <;> simp

theorem groupLoading_iff (s : State) (t n : Nat) : groupLoading s t n = true ↔
    ∃ e ∈ s.me.busyLines, heldAt e.2 s.cyc = true ∧ ∃ i, (operandOf e.1).tile? = some i ∧ t ≤ i ∧ i < t + n := by
  rw [groupLoading, List.any_eq_true]
  refine exists_congr fun e => and_congr_right fun _ => ?_
  cases (operandOf e.1).tile? <;> simp

theorem groupChecks_of_ready {ppe : Bool} {t n : Nat} (h : GroupReady s ppe t n) : groupChecks s ppe t n = [] := by
  obtain ⟨hin, hpwq, hlines, htiles⟩ := h
  have htile : groupTile s t n = [] := if_neg (Nat.not_lt.mpr hin)
  have hpending : findFrom (tilePending s) n t = none := findFrom_eq_none.mpr fun i hlo hhi =>
    Bool.eq_false_iff.mpr fun hp => by
      obtain ⟨e, he, v, hdest, hv⟩ := (tilePending_iff s i).mp hp
      have := hpwq e he v i hdest hv
      omega
  have hloading : groupLoading s t n = false := Bool.eq_false_iff.mpr fun hl => by
    obtain ⟨e, he, hheld, i, hi, hlo, hhi⟩ := (groupLoading_iff s t n).mp hl
    exact absurd hheld (by rw [hlines e he i hi hlo hhi]; decide)
  have hholds : s.here.tileBusy.filter
      (fun e => decide (e.tile ∈ groupOf s t n) && (heldAt e.clear s.cyc && (e.ppe != ppe))) = [] :=
    List.filter_eq_nil_iff.mpr fun e he hheld => by
      simp only [Bool.and_eq_true, decide_eq_true_eq, groupOf, mem_upTo, bne_iff_ne] at hheld
      obtain ⟨⟨hlo, hhi⟩, hclear, hppe⟩ := hheld
      exact hppe (htiles e he hlo hhi hclear)
  rw [groupChecks, htile, groupPending, hpending, groupBusy]
  simp only [hholds, hloading, List.isEmpty_nil, Bool.not_true, Bool.or_self, Bool.false_eq_true, if_false, List.append_nil]

/-! ## Buffers and descriptors (R151, R153) -/

/-- The buffer is the launch's and held by no other context (log entry 23). -/
def State.bufferFree (s : State) (n : Nat) : Prop := s.cur.ctx ≠ 4 ∧
  ((s.here.buffer n).holder = none ∨ (s.here.buffer n).holder = some s.cur.ctx) ∧ (s.here.buffer n).reserved = s.me.launch

theorem bufferHeld_of_free {n : Nat} (h : s.bufferFree n) : bufferHeld s n = [] := by
  obtain ⟨huser, hholder, hreserved⟩ := h
  refine illWith_of_false ?_ n
  rcases hholder with hholder | hholder <;> simp [notReserved, State.user, huser, hholder, hreserved]

theorem bufferHeld_of_refused {n : Nat} (h : s.cur.ctx = 4 ∨ (s.here.buffer n).reserved ≠ s.me.launch ∨
    ∃ x, (s.here.buffer n).holder = some x ∧ x ≠ s.cur.ctx) : bufferHeld s n = [.trap .ill (BitVec.ofNat 64 n)] := by
  refine illWith_of_true ?_ n
  by_cases huser : s.cur.ctx = 4
  · simp [notReserved, State.user, huser]
  · rcases h with h | h | ⟨x, hx, hne⟩
    · exact absurd h huser
    · simp [notReserved, h]
    · simp [State.user, huser, hx, hne]

theorem walkRefused_of_walk {d : Descr} {ok : Nat → Bool} (hwalk : Descr.glb d = false ∧ Descr.exp d = false)
    (hok : ok (Descr.product d) = true) (no : Nat) : walkRefused d no ok = [] :=
  illWith_of_false (by rw [hwalk.1, hwalk.2, hok]; rfl) no

theorem lentWaits_of_home {ports : List Nat} (h : ∀ n ∈ ports, AtHome (s.here.port n) s.cyc) : lentWaits s ports = [] :=
  List.flatMap_eq_nil_iff.mpr fun n hn => if_neg (by rw [away_of_home (h n hn)]; decide)

/-! ## Shapes (Tables 8.1 and 8.9) -/

theorem fieldOf_mode_shape (f : ESlot) : fieldOf f.mode 0 2 = f.mode.toNat % 4 := fieldOf_zero ..

theorem denseShape_lines (f : ESlot) : (denseShape f).weightLines = denseLines f ∧ (denseShape f).depth = denseDepth f := by
  have hlt : f.mode.toNat % 4 < 4 := Nat.mod_lt _ (by decide)
  rw [denseShape, loadShapeOf, if_neg (by decide), fieldOf_mode_shape, denseLines, denseDepth]
  by_cases h0 : f.mode.toNat % 4 = 0
  · simp [h0, Shape.weightLines, Shape.depth]
  · by_cases h1 : f.mode.toNat % 4 = 1
    · simp [h1, Shape.weightLines, Shape.depth]
    · rw [if_neg h0, if_neg h1, if_neg (by omega), if_neg h0, if_neg h1]
      exact ⟨rfl, rfl⟩

/-- The dense shape of a run takes lines of its own format, one a step. -/
theorem dense_takesFormat {sh : Shape} {fmt : Nat} (h : (∃ e5, sh = .fp8 e5 ∧ (fmt = 2 ∨ fmt = 3)) ∨ (sh = .bf16 ∧ fmt = 1) ∨
    (sh = .fp32 ∧ fmt = 0)) : sh.takesFormat fmt = true ∧ sh ≠ .grouped ∧ sh.linesPerStep = 1 ∧
      sh.groupSize = if sh = .fp32 then 2 else 8 := by
  rcases h with ⟨e5, rfl, hfmt⟩ | ⟨rfl, rfl⟩ | ⟨rfl, rfl⟩
  · exact ⟨decide_eq_true hfmt, nofun, rfl, rfl⟩
  · exact ⟨rfl, nofun, rfl, rfl⟩
  · exact ⟨rfl, nofun, rfl, rfl⟩

end

end Sys2Proof.Machine

namespace Sys2Proof

open Sys2Proof.Machine

/-! ## The commands -/

section
variable {s : State} {f : ESlot} (hg : GuardTrue s f.g)
include hg

/-- The bundle queues the command when none of its checks finds anything. -/
theorem queues_of_exec {i : Instr} {e : Engine} {op : Nat} {tiles ports : List Nat} {checks : List Effect}
    (h : exec i s = slot s f.g (checks ++ [.command e (newCommand s f op tiles ports)])) (hchecks : checks = []) :
    Queues i s e f op tiles ports :=
  ⟨newCommand s f op tiles ports, does_of_exec_eq hg h (by rw [hchecks, List.nil_append]), rfl, rfl, rfl, rfl, rfl, rfl, rfl,
    rfl, rfl⟩

theorem load_queues {i : Instr} {op : Nat} {checks : List Effect} (h : exec i s = loadIssue f op checks s)
    (hko : KoFree s f) (hfree : s.bufferFree (f.f.toNat % 2)) (hroom : s.here.loadQ.length < 4) (hchecks : checks = []) :
    Queues i s .load f op [] [] :=
  queues_of_exec hg h (by
    rw [show eBuffer f = f.f.toNat % 2 from fieldOf_zero .., bufferHeld_of_free hfree, hchecks,
      commandWait_of_free hko (queueFull_of_lt hroom)]
    rfl)

theorem run_queues {i : Instr} {op n : Nat} {ports : List Nat} {checks : List Effect}
    (h : exec i s = runIssue f op n ports checks s) (hko : KoFree s f) (hgroup : GroupReady s false f.t.toNat n)
    (hroom : s.here.runQ.length < 8) (hchecks : checks = []) : Queues i s .run f op (tilesFrom s f.t.toNat n) ports := by
  rw [← groupOf_eq_tilesFrom]
  exact queues_of_exec hg h (by
    rw [groupChecks_of_ready hgroup, hchecks, commandWait_of_free hko (queueFull_of_lt hroom)]
    rfl)

/-- R151: a load into a buffer that is not the launch's, or that another context holds, is refused first of all. -/
theorem load_refused {i : Instr} {op : Nat} {checks : List Effect} (h : exec i s = loadIssue f op checks s)
    (hheld : bufferHeld s (f.f.toNat % 2) = [.trap .ill (BitVec.ofNat 64 (f.f.toNat % 2))]) :
    ∃ es, Does i s (.trap .ill (BitVec.ofNat 64 (f.f.toNat % 2)) :: es) :=
  ⟨_, does_of_exec_eq hg h (by rw [show eBuffer f = f.f.toNat % 2 from fieldOf_zero .., hheld]; rfl)⟩

end

/-- R160: what a run demands of its stream. -/
theorem runStream_of_ready {s : State} {f : ESlot} {sh : Shape} (hsh : (s.here.buffer (eBuffer f)).shape = sh)
    (hlines : Descr.product (s.me.readD f.da.toNat) ≠ 0) (hstep : Descr.product (s.me.readD f.da.toNat) % sh.linesPerStep = 0)
    (hfmt : sh.takesFormat (Descr.fmt (s.me.readD f.da.toNat)) = true)
    (hnest : eSrc f = 0 → Descr.glb (s.me.readD f.da.toNat) = false ∧ Descr.exp (s.me.readD f.da.toNat) = false)
    (hport : eSrc f = 1 → (s.here.port (fieldOf f.f 1 3)).holder = some s.cur.ctx)
    (hfifo : eSrc f = 2 → fifoRefused s (fieldOf f.f 1 3) false = false) : runStream s f = [] := by
  have hwalk : (decide (eSrc f = 0) &&
      (Descr.glb (s.me.readD f.da.toNat) || Descr.exp (s.me.readD f.da.toNat))) = false := by
    by_cases h : eSrc f = 0
    · rw [(hnest h).1, (hnest h).2, Bool.or_self, Bool.and_false]
    · rw [decide_eq_false h, Bool.false_and]
  have hheld : (decide (eSrc f = 1) && portNotHeld s (fieldOf f.f 1 3)) = false := by
    by_cases h : eSrc f = 1
    · rw [portNotHeld, hport h, decide_eq_false (not_not.mpr rfl), Bool.and_false]
    · rw [decide_eq_false h, Bool.false_and]
  have hchain : (decide (eSrc f = 2) && fifoRefused s (fieldOf f.f 1 3) false) = false := by
    by_cases h : eSrc f = 2
    · rw [hfifo h, Bool.and_false]
    · rw [decide_eq_false h, Bool.false_and]
  simp only [runStream, hsh, hwalk, hheld, hchain, hfmt, hlines, hstep, ne_eq, not_true_eq_false, or_self, decide_false,
    Bool.not_true, Bool.or_self, illWith_of_false, List.append_nil]

/-- R160: what a run demands of its buffer. -/
theorem runBuffer_of_ready {s : State} {f : ESlot} {b : Buffer} {grouped : Bool} (hfree : s.bufferFree (eBuffer f))
    (hb : s.here.buffer (eBuffer f) = b) (hheld : b.holder = some s.cur.ctx) (hstate : b.state ≠ .empty)
    (hshape : decide (b.shape = .grouped) = grouped) : runBuffer s f grouped = [] := by
  simp only [runBuffer, bufferHeld_of_free hfree, hb, hheld, hstate, hshape, ne_eq, not_true_eq_false, or_self, decide_false,
    Bool.or_self, illWith_of_false, List.append_nil]

/-- Settles O28: each command by the checks of its group, buffer, descriptors and ports. -/
theorem matrixCommands : Obligations.MatrixCommands := by
  intro s f hg hko d e n b free walk src unit acc t slopes
  obtain ⟨hlines, hdepth⟩ := denseShape_lines f
  have hbuffer : eBuffer f = n := fieldOf_zero ..
  refine ⟨fun hfree hroom hd => ⟨fun hn => ?wld, ?wldg, fun hn he hs => ?wfold⟩, fun hgroup hroom => ⟨?accz, fun hd hn => ?accb⟩,
    fun hheld hfree hstate hroom hn hnest hport hfifo => ?runs, fun h i hi => ?refused⟩
  case wld =>
    exact load_queues hg rfl hko hfree hroom (walkRefused_of_walk hd (decide_eq_true (hn.trans hlines.symm)) _)
  case wldg => exact load_queues hg rfl hko hfree hroom (walkRefused_of_walk hd rfl _)
  case wfold =>
    have hslopes : slopeLines (denseShape f) (modeField f 4 1 = 1) = slopes := by
      simp only [slopeLines, decide_eq_true_eq, hdepth]
      rfl
    refine load_queues hg rfl hko hfree hroom ?_
    rw [walkRefused_of_walk hd (decide_eq_true (hn.trans hlines.symm)),
      walkRefused_of_walk he (decide_eq_true (hs.trans hslopes.symm))]
    rfl
  case accz => exact run_queues hg (h := rfl) hko hgroup hroom rfl
  case accb => exact run_queues hg (h := rfl) hko hgroup hroom (walkRefused_of_walk hd (decide_eq_true hn) _)
  case runs =>
    have hhome : lentWaits s (runPorts f) = [] := lentWaits_of_home fun m hm => by
      by_cases h : eSrc f = 1
      · rw [runPorts, if_pos h, List.mem_singleton] at hm
        exact hm ▸ (hport h).2
      · rw [runPorts, if_neg h] at hm
        cases hm
    have hb : s.here.buffer (eBuffer f) = b := congrArg _ hbuffer
    have hmine : s.bufferFree (eBuffer f) := hbuffer ▸ hfree
    refine ⟨fun hshape hgroup => ?run, fun hshape hfmt hstep hgroup => ?rung⟩
    case run =>
      obtain ⟨hfmt, hne, hone, hsize⟩ := dense_takesFormat hshape
      have hrun : exec (.mxRun f) s = runIssue f 0x04 b.shape.groupSize (runPorts f)
          (runBuffer s f false ++ runStream s f ++ lentWaits s (runPorts f)) s := by rw [← hb]; rfl
      rw [hsize] at hrun
      refine run_queues hg hrun hko hgroup hroom ?_
      rw [runBuffer_of_ready hmine hb hheld hstate (decide_eq_false hne), hhome,
        runStream_of_ready (congrArg Buffer.shape hb) hn (hone ▸ Nat.mod_one _) hfmt hnest (fun h => (hport h).1) hfifo]
      rfl
    case rung =>
      refine run_queues hg (h := rfl) hko hgroup hroom ?_
      rw [runBuffer_of_ready hmine hb hheld hstate (decide_eq_true hshape), hhome,
        runStream_of_ready (sh := .grouped) (hb ▸ hshape) hn hstep (decide_eq_true hfmt) hnest (fun h => (hport h).1) hfifo]
      rfl
  case refused =>
    have hheld := bufferHeld_of_refused h
    simp only [List.mem_cons, List.not_mem_nil, or_false] at hi
    rcases hi with rfl | rfl | rfl
    · exact load_refused hg rfl hheld
    · exact load_refused hg rfl hheld
    · exact load_refused hg rfl hheld

end Sys2Proof
end

section
/-!
The pipes of the matrix engine: what replacing the running command leaves, and the start of a command (R163).
-/
namespace Sys2Proof.Machine

/-! ## The running command of a pipe -/

section
variable (k : Core) (pipe : Pipe) (r : Option Running)

@[simp] theorem Core.pipeNow_setPipeNow : (k.setPipeNow pipe r).pipeNow pipe = r := by cases pipe <;> rfl
@[simp] theorem Core.pipeQ_setPipeNow : (k.setPipeNow pipe r).pipeQ pipe = k.pipeQ pipe := by cases pipe <;> rfl
@[simp] theorem Core.setPipeNow_setPipeNow (r' : Option Running) :
    (k.setPipeNow pipe r).setPipeNow pipe r' = k.setPipeNow pipe r' := by cases pipe <;> rfl
@[simp] theorem Core.setPipeNow_ctxs : (k.setPipeNow pipe r).ctxs = k.ctxs := by cases pipe <;> rfl
@[simp] theorem Core.setPipeNow_tiles : (k.setPipeNow pipe r).tiles = k.tiles := by cases pipe <;> rfl
@[simp] theorem Core.setPipeNow_buffers : (k.setPipeNow pipe r).buffers = k.buffers := by cases pipe <;> rfl
@[simp] theorem Core.setPipeNow_ports : (k.setPipeNow pipe r).ports = k.ports := by cases pipe <;> rfl
@[simp] theorem Core.setPipeNow_parity : (k.setPipeNow pipe r).parity = k.parity := by cases pipe <;> rfl
@[simp] theorem Core.setPipeNow_joins : (k.setPipeNow pipe r).joins = k.joins := by cases pipe <;> rfl
@[simp] theorem Core.setPipeNow_readerUse : (k.setPipeNow pipe r).readerUse = k.readerUse := by cases pipe <;> rfl
@[simp] theorem Core.popPipe_ctxs : (k.popPipe pipe).ctxs = k.ctxs := by cases pipe <;> rfl
@[simp] theorem Core.pipeQ_popPipe : (k.popPipe pipe).pipeQ pipe = (k.pipeQ pipe).drop 1 := by cases pipe <;> rfl

end

/-! ## The start of a command -/

theorem bufferNo_eq (cmd : Cmd) : bufferNo cmd = cmd.f.f.toNat % 2 := fieldOf_zero ..

/-- R151, R197: what ends a command as soon as it starts. -/
theorem Core.startStop_eq (k : Core) (cmd : Cmd) : k.startStop cmd =
    if (inputStatus cmd.ins).1 ≠ 0 then some { pos := 0, status := (inputStatus cmd.ins).1, addr := (inputStatus cmd.ins).2 }
    else if isRun cmd = true ∧ (k.buffer (cmd.f.f.toNat % 2)).good = false then some { pos := 0, status := 0x42, addr := 0 }
    else none := by
  rw [Core.startStop, bufferNo_eq]
  simp only [Bool.and_eq_true, Bool.not_eq_true']
  rfl

/-- The head of a queue starts: it leaves its queue and runs, with what ends it at once. -/
theorem exec_matrixCommandStart {s : State} {c : Nat} {pipe : Pipe} {cmd : Cmd} {q : List Cmd} (hc : c < 192)
    (hnow : (s.core c).pipeNow pipe = none) (hq : (s.core c).pipeQ pipe = cmd :: q) (hthrottle : (s.cluster (c / 4)).throttle < 3)
    (hdone : inputsDone cmd.ins = true) (hordered : (s.core c).ordered pipe cmd = true) : ∃ t ending,
      exec (.matrixCommandStart c pipe) s = .next t ∧
      (s.setCore c (((s.core c).popPipe pipe).setPipeNow pipe (some { newRunning cmd s.cyc (s.watchAt c s.cyc) with
        stop := (s.core c).startStop cmd, ending := ending }))).Later t := by
  have hhalted : s.halted c = false := decide_eq_false (Nat.not_le.mpr hthrottle)
  show ∃ t ending, execMatrixCommandStart c pipe s = _ ∧ _
  unfold execMatrixCommandStart
  rw [if_neg (by simp only [Config.cores]; omega)]
  simp only [hnow, hq, hhalted, hdone, hordered, Bool.and_self, Bool.not_true, Bool.or_self, Bool.false_eq_true, if_false]
  cases (s.core c).startStop cmd with
  | some st => exact ⟨_, true, rfl, .schedule ..⟩
  | none =>
    dsimp only
    split
    · exact ⟨_, _, rfl, .schedule ..⟩
    · split
      · exact ⟨_, _, rfl, .schedule ..⟩
      · exact ⟨_, _, rfl, .schedule ..⟩

end Sys2Proof.Machine

namespace Sys2Proof

open Sys2Proof.Machine

theorem matrixStarts : MatrixStarts := by
  intro s c pipe hc cmd q hnow hq hthrottle hdone hordered
  obtain ⟨t, ending, hexec, hlater⟩ := exec_matrixCommandStart hc hnow hq hthrottle hdone hordered
  have hcore := (hlater.core c).trans (State.core_setCore ..)
  refine ⟨t, hexec, hlater.mem, ?queue, ?ctxs, _, (congrArg (Core.pipeNow · pipe) hcore).trans (Core.pipeNow_setPipeNow ..),
    rfl, rfl, rfl, rfl, rfl, rfl, Core.startStop_eq ..⟩
  case queue =>
    rw [hcore, Core.pipeQ_setPipeNow, Core.pipeQ_popPipe, hq]
    rfl
  case ctxs => rw [hcore, Core.setPipeNow_ctxs, Core.popPipe_ctxs]

end Sys2Proof
end

section
/-!
The stream reader (R155, R156, R158, R160, R168): the access it makes next, what a line that it has read makes of its
command, and what follows when a command has no further line to read.
-/
namespace Sys2Proof.Machine

/-! ## What an access leaves -/

/-- What the steps of the matrix engine read of a core is as it was, and no place has lost its good parity. -/
structure Core.Undisturbed (k l : Core) : Prop where
  tiles : l.tiles = k.tiles
  buffers : l.buffers = k.buffers
  readerUse : l.readerUse = k.readerUse
  parity : ∀ p ∈ l.parity, p ∈ k.parity

namespace Core.Undisturbed
variable {k l m : Core}
theorem refl (k : Core) : k.Undisturbed k := ⟨rfl, rfl, rfl, fun _ h => h⟩
theorem trans (h : k.Undisturbed l) (h' : l.Undisturbed m) : k.Undisturbed m :=
  ⟨h'.tiles.trans h.tiles, h'.buffers.trans h.buffers, h'.readerUse.trans h.readerUse, fun p hp => h.parity p (h'.parity p hp)⟩
theorem setBank (k : Core) (b : Nat) (x : Bank) : k.Undisturbed (k.setBank b x) := ⟨rfl, rfl, rfl, fun _ h => h⟩
theorem countError (k : Core) (corrected : Bool) : k.Undisturbed (k.countError corrected) := by
  rw [Core.countError]
  split
  · exact ⟨rfl, rfl, rfl, fun _ h => h⟩
  · exact ⟨rfl, rfl, rfl, fun _ h => h⟩
theorem disarm (k : Core) : k.Undisturbed k.disarm := by
  rw [Core.disarm]
  split
  · exact refl k
  · exact ⟨rfl, rfl, rfl, fun _ h => h⟩
end Core.Undisturbed

/-- The same of a state that an access or a completion leaves, with its memory and its cycle. -/
structure State.Undisturbed (c : Nat) (s t : State) : Prop where
  mem : t.mem = s.mem
  cyc : t.cyc = s.cyc
  core : (s.core c).Undisturbed (t.core c)

namespace State.Undisturbed
variable {c : Nat} {s t u : State}
theorem refl (c : Nat) (s : State) : State.Undisturbed c s s := ⟨rfl, rfl, .refl _⟩
theorem trans (h : State.Undisturbed c s t) (h' : State.Undisturbed c t u) : State.Undisturbed c s u :=
  ⟨h'.mem.trans h.mem, h'.cyc.trans h.cyc, h.core.trans h'.core⟩
theorem of_later (h : s.Later t) : State.Undisturbed c s t := ⟨h.mem, h.cyc, by rw [h.core]; exact .refl _⟩
theorem modCore {f : Core → Core} (h : (s.core c).Undisturbed (f (s.core c))) : State.Undisturbed c s (s.modCore c f) :=
  ⟨rfl, rfl, by rw [State.core_modCore]; exact h⟩
end State.Undisturbed

theorem State.undisturbed_firedRead (s : State) (c flat : Nat) : State.Undisturbed c s (s.firedRead c flat) := by
  cases hhit : (s.core c).injHits flat with
  | false => rw [State.firedRead_of_no_hit hhit]; exact .refl c s
  | true =>
    rw [State.firedRead_hit hhit]
    refine ⟨rfl, rfl, ?_⟩
    rw [State.core_modCore]
    refine .trans ?_ (.disarm _)
    split
    · exact .refl _
    · exact .countError _ _
theorem State.undisturbed_countMet (s : State) (c : Nat) (m : Mark) : State.Undisturbed c s (s.countMet c m) := by
  unfold State.countMet
  split
  · exact .modCore (.countError _ _)
  all_goals exact .refl c s

/-- An engine's read makes the line's bank busy, and may fire an injection. -/
theorem State.undisturbed_engineRead (s : State) (c flat : Nat) : State.Undisturbed c s (s.engineRead c flat).2.2 :=
  .trans (.modCore (.setBank ..)) (.trans (undisturbed_firedRead ..) (undisturbed_countMet ..))

/-! ## What a line makes of its command -/

theorem markStatus_eq (m : Mark) : markStatus m = markCode m := by cases m <;> rfl

/-- What a line of a grouped stream says (R158): whether it is the boundary token. -/
def IsToken (i : Nat) (v : Line) (lines : List ReadLine) : Prop :=
  i = 512 + 4 * (v.toNat % 16 + 1) ∧ ∀ l ∈ lines.take 512, ∀ k, k < 256 → elemOf 4 l.val k < v.toNat % 16 + 1

theorem groupedLine_marked (i : Nat) (v : Line) (lines : List ReadLine) :
    (IsToken i v lines → groupedLine i v true lines = some (some (v.toNat % 16 + 1))) ∧
    (¬ IsToken i v lines → groupedLine i v true lines = some none) := by
  have hnval : fieldOf v 0 4 + 1 = v.toNat % 16 + 1 := congrArg (· + 1) (fieldOf_zero ..)
  have hiff : (i < 512 ∨ i - 512 ≠ 4 * (v.toNat % 16 + 1) ∨ (lines.take 512).any (fun l =>
      (upTo 256 0).any (fun n => decide (v.toNat % 16 + 1 ≤ elemOf 4 l.val n))) = true) ↔ ¬ IsToken i v lines := by
    have hcodes : (lines.take 512).any (fun l => (upTo 256 0).any (fun n => decide (v.toNat % 16 + 1 ≤ elemOf 4 l.val n))) = true ↔
        ¬ ∀ l ∈ lines.take 512, ∀ k, k < 256 → elemOf 4 l.val k < v.toNat % 16 + 1 := by
      simp only [List.any_eq_true, mem_upTo, decide_eq_true_eq, Nat.zero_le, true_and, Nat.zero_add, not_forall, Nat.not_lt,
        exists_prop]
    have hplace : (i < 512 ∨ i - 512 ≠ 4 * (v.toNat % 16 + 1)) ↔ ¬ i = 512 + 4 * (v.toNat % 16 + 1) := by omega
    rw [hcodes, ← or_assoc, hplace, IsToken, not_and_or]
  unfold groupedLine
  simp only [if_true, hnval]
  exact ⟨fun h => if_neg (hiff.not.mpr (not_not.mpr h)), fun h => if_pos (hiff.mpr h)⟩
theorem groupedLine_plain (i : Nat) (v : Line) (lines : List ReadLine) :
    groupedLine i v false lines = if 576 ≤ i then some none else none := by simp [groupedLine]

/-- The command of a pipe replaced. -/
def State.putRunning (s : State) (c : Nat) (pipe : Pipe) (r : Running) : State := s.modCore c (fun k => k.setPipeNow pipe (some r))
/-- A command with a line more of its slopes or of its stream. -/
def Running.received (r : Running) (slope : Bool) (i due : Nat) (v : Line) : Running :=
  if slope then { r with linesB := r.linesB ++ [(due, v)] }
  else { r with linesA := r.linesA ++ [{ pos := i, due := due, val := v }],
                low := let la : List ReadLine := r.linesA ++ [{ pos := i, due := due, val := v }]; advanceLow la la.length r.low }

/-- What the line of a stream makes of its command: it stops at a mark (R166), and a grouped stream ends (R158). -/
def Running.judged (r : Running) (i due : Nat) (v : Line) (m : Mark) (addr : Nat) (slope : Bool) : Running :=
  let r1 := r.received slope i due v
  let stopped (status : BitVec 8) : Running := { r1 with stop := some { pos := i, status := status, addr := addr } }
  if markStatus m ≠ 0 then stopped (markStatus m)
  else if r.cmd.op = 0x02 then
    match groupedLine i v (decide (m = .group)) r.linesA with
    | some none => stopped stDecode
    | some (some n) => { r1 with token := some n }
    | none => if r1.linesA.length = Descr.product r.cmd.da then stopped stDecode else r1
  else r1

section
variable {s : State} {c : Nat} {flat : Int} {pipe : Pipe} {r : Running} {i : Nat} {slope : Bool}

theorem State.readerAccess_refused (h : (s.core c).accessStatus 4 (s.actsFor c r.cmd.ctx) flat ≠ 0) :
    s.readerAccess c pipe r slope i flat = s.putRunning c pipe { r with stop := some {
      pos := if slope then 0 else i, status := (s.core c).accessStatus 4 (s.actsFor c r.cmd.ctx) flat, addr := wrapOf 64 flat } } :=
  if_pos h
theorem State.readerAccess_ready (h : (s.core c).accessStatus 4 (s.actsFor c r.cmd.ctx) flat = 0) :
    s.readerAccess c pipe r slope i flat = (s.engineRead c flat.toNat).2.2.putRunning c pipe
      (r.judged (if slope then 0 else i) (s.cyc + loadLatency flat.toNat) (s.readFlat c flat.toNat) (s.readMark c flat.toNat)
        (wrapOf 64 flat) slope) := by
  have hread : s.engineRead c flat.toNat = (s.readFlat c flat.toNat, s.readMark c flat.toNat, (s.engineRead c flat.toNat).2.2) := rfl
  unfold State.readerAccess Running.judged Running.received
  rw [hread]
  simp only [h, ne_eq, not_true_eq_false, if_false]
  by_cases hmark : markStatus (s.readMark c flat.toNat) = 0
  · by_cases hop : r.cmd.op = 0x02
    · simp only [hmark, hop, not_true_eq_false, if_false, if_true]
      cases groupedLine (if slope = true then 0 else i) (s.readFlat c flat.toNat)
          (decide (s.readMark c flat.toNat = .group)) r.linesA with
      | none =>
        exact (apply_ite ((s.engineRead c flat.toNat).2.2.putRunning c pipe) _ _ _).symm
      | some token => cases token <;> rfl
    · simp only [hmark, hop, not_true_eq_false, if_false]
      rfl
  · simp only [hmark, not_false_eq_true, if_true]
    rfl

end

section
variable {r : Running} {i due : Nat} {v : Line} {m : Mark} {addr : Nat}

theorem Running.judged_marked {slope : Bool} (h : markCode m ≠ 0) : r.judged i due v m addr slope =
    { r.received slope i due v with stop := some { pos := i, status := markCode m, addr := addr } } := by
  rw [← markStatus_eq] at h ⊢
  exact if_pos h
theorem Running.judged_dense {slope : Bool} (h : markCode m = 0) (hop : r.cmd.op ≠ 0x02) :
    r.judged i due v m addr slope = r.received slope i due v := by
  rw [← markStatus_eq] at h
  exact (if_neg (not_not.mpr h)).trans (if_neg hop)

/-- Whatever a line of the stream says, it is kept. -/
theorem Running.judged_keeps (r : Running) (i due : Nat) (v : Line) (m : Mark) (addr : Nat) :
    (r.judged i due v m addr false).cmd = r.cmd ∧
    (r.judged i due v m addr false).linesA = r.linesA ++ [{ pos := i, due := due, val := v }] := by
  unfold Running.judged
  dsimp only
  split
  · exact ⟨rfl, rfl⟩
  · split
    · split
      · exact ⟨rfl, rfl⟩
      · exact ⟨rfl, rfl⟩
      · split
        · exact ⟨rfl, rfl⟩
        · exact ⟨rfl, rfl⟩
    · exact ⟨rfl, rfl⟩

section
variable (h : markCode m = 0) (hop : r.cmd.op = 0x02)
include h hop

theorem Running.judged_decodeError (hg : groupedLine i v (decide (m = .group)) r.linesA = some none) :
    r.judged i due v m addr false =
      { r.received false i due v with stop := some { pos := i, status := stDecode, addr := addr } } := by
  rw [← markStatus_eq] at h
  unfold Running.judged
  simp only [h, hop, hg, ne_eq, not_true_eq_false, if_false, if_true]
theorem Running.judged_token (hm : m = .group) (htoken : IsToken i v r.linesA) : r.judged i due v m addr false =
    { r.received false i due v with token := some (v.toNat % 16 + 1) } := by
  have hg := (groupedLine_marked i v r.linesA).1 htoken
  rw [← decide_eq_true hm] at hg
  rw [← markStatus_eq] at h
  unfold Running.judged
  simp only [h, hop, hg, ne_eq, not_true_eq_false, if_false, if_true]
theorem Running.judged_badToken (hm : m = .group) (htoken : ¬ IsToken i v r.linesA) : r.judged i due v m addr false =
    { r.received false i due v with stop := some { pos := i, status := stDecode, addr := addr } } :=
  judged_decodeError h hop (by rw [decide_eq_true hm, (groupedLine_marked i v r.linesA).2 htoken])
theorem Running.judged_plain (hm : m ≠ .group) : r.judged i due v m addr false =
    if 576 ≤ i ∨ r.linesA.length + 1 = Descr.product r.cmd.da then
      { r.received false i due v with stop := some { pos := i, status := stDecode, addr := addr } }
    else r.received false i due v := by
  have hg := groupedLine_plain i v r.linesA
  rw [← decide_eq_false hm] at hg
  by_cases hlong : 576 ≤ i
  · rw [if_pos hlong] at hg
    rw [judged_decodeError h hop hg]
    exact (if_pos (Or.inl hlong)).symm
  · have hlength : (r.received false i due v).linesA.length = r.linesA.length + 1 := List.length_append
    rw [if_neg hlong] at hg
    rw [← markStatus_eq] at h
    unfold Running.judged
    simp only [h, hop, hg, hlong, hlength, ne_eq, not_true_eq_false, if_false, if_true, false_or]

end

end

/-! ## The next access -/

/-- The greatest of some numbers is bounded as each of them is. -/
theorem foldl_max_le_iff {α : Type} (f : α → Nat) (l : List α) (a n : Nat) :
    l.foldl (fun m e => Nat.max m (f e)) a ≤ n ↔ a ≤ n ∧ ∀ e ∈ l, f e ≤ n := by
  induction l generalizing a with
  | nil => simp
  | cons e l ih =>
    rw [List.foldl_cons, ih, Nat.max_le, List.forall_mem_cons, and_assoc]
theorem lastDue_le_iff (l : List ReadLine) (n : Nat) : lastDue l ≤ n ↔ ∀ e ∈ l, e.due ≤ n :=
  (foldl_max_le_iff ..).trans (and_iff_right (Nat.zero_le n))
theorem lastArrival_le_iff (l : List (Nat × Line)) (n : Nat) : lastArrival l ≤ n ↔ ∀ e ∈ l, e.1 ≤ n :=
  (foldl_max_le_iff ..).trans (and_iff_right (Nat.zero_le n))

theorem hasLine_iff (l : List ReadLine) (i : Nat) : hasLine l i = true ↔ ∃ e ∈ l, e.pos = i := by
  simp [hasLine, List.any_eq_true]

theorem eSrc_eq (f : ESlot) : eSrc f = f.mode.toNat / 32 % 4 := rfl

/-- The positions that may be read next, in rising order. -/
theorem Running.mem_open (r : Running) (i : Nat) : i ∈ r.open ↔
    r.low ≤ i ∧ i < r.low + (if r.cmd.op = 0x02 then 1 else 64) ∧ i < readLimit r ∧ ∀ e ∈ r.linesA, e.pos ≠ i := by
  have hlimit : (match r.stop with | some st => st.pos | none => Descr.product r.cmd.da) = readLimit r := by
    rw [readLimit]
    cases r.stop <;> rfl
  have hopen : r.open = (upTo (if r.cmd.op = 0x02 then 1 else 64) r.low).filter
      (fun i => decide (i < readLimit r) && !hasLine r.linesA i) := by rw [← hlimit]; rfl
  have hline : hasLine r.linesA i = false ↔ ∀ e ∈ r.linesA, e.pos ≠ i := by
    rw [Bool.eq_false_iff, ne_eq, hasLine_iff, not_exists]
    exact forall_congr' fun e => not_and
  rw [hopen, List.mem_filter, mem_upTo, Bool.and_eq_true, decide_eq_true_eq, Bool.not_eq_true', hline, and_assoc]
theorem upTo_pairwise (n lo : Nat) : (upTo n lo).Pairwise (· < ·) := by
  induction n generalizing lo with
  | zero => exact .nil
  | succ n ih => exact .cons (fun i hi => (mem_upTo.mp hi).1) (ih _)
theorem Running.open_pairwise (r : Running) : r.open.Pairwise (· < ·) := (upTo_pairwise ..).filter _
/-- The first number of a rising list with a property is the one that no smaller number of the list has before it. -/
theorem find?_eq_some_of_pairwise {l : List Nat} {p : Nat → Bool} {i : Nat} (hl : l.Pairwise (· < ·)) (hi : i ∈ l)
    (hp : p i = true) (hmin : ∀ j ∈ l, j < i → p j = false) : l.find? p = some i := by
  induction l with
  | nil => cases hi
  | cons a l ih =>
    obtain ⟨ha, hl⟩ := List.pairwise_cons.mp hl
    rcases List.mem_cons.mp hi with rfl | hmem
    · exact List.find?_cons_of_pos hp
    · rw [List.find?_cons_of_neg (by rw [hmin a List.mem_cons_self (ha i hmem)]; decide)]
      exact ih hl hmem fun j hj => hmin j (List.mem_cons_of_mem a hj)

section
variable {s : State} {r : Running}

/-- A command whose stream lines are to be read looks at the positions that are open. -/
theorem Running.nextRead_of_reads (h : Reads s r) :
    r.nextRead s.cyc = if r.open = [] then .none else .lines r.open := by
  obtain ⟨hending, htoken, hrun, hslopes, hgrouped⟩ := h
  have hfed : (isRun r.cmd && decide (eSrc r.cmd.f ≠ 0)) = false := by
    by_cases hr : isRun r.cmd = true
    · rw [eSrc_eq, hrun hr, decide_eq_false (not_not.mpr rfl), Bool.and_false]
    · rw [Bool.eq_false_iff.mpr hr, Bool.false_and]
  have hmore : ¬ (r.cmd.op = 0x03 ∧ r.linesB.length < Descr.product r.cmd.db) := fun ⟨hop, hlt⟩ =>
    absurd (hslopes hop).1 (Nat.ne_of_lt hlt)
  have harrived : ¬ (r.cmd.op = 0x03 ∧ s.cyc < lastArrival r.linesB) := fun ⟨hop, hlt⟩ =>
    absurd ((lastArrival_le_iff ..).mpr (hslopes hop).2) (Nat.not_le.mpr hlt)
  have hstop : ¬ (r.cmd.op = 0x02 ∧ r.stop.isSome = true) := fun ⟨hop, hsome⟩ => by
    rw [hgrouped hop] at hsome
    cases hsome
  unfold Running.nextRead
  simp only [htoken, hending, hfed, hmore, harrived, hstop, decide_false, Option.isSome_none, Bool.or_self, Bool.false_and,
    Bool.false_eq_true, if_false]
  cases r.open with
  | nil => rfl
  | cons i is => rfl
theorem Running.nextRead_slope (hending : r.ending = false) (htoken : r.token = none) (hstop : r.stop = none)
    (hop : r.cmd.op = 0x03) (hmore : r.linesB.length < Descr.product r.cmd.db) (cyc : Nat) :
    r.nextRead cyc = .slope r.linesB.length := by
  simp [Running.nextRead, hending, htoken, hstop, hop, hmore, isRun]

end

end Sys2Proof.Machine
end

section
/-!
The accesses of the stream reader in a cycle (R155, R156, R158, R160, R168).
-/
namespace Sys2Proof.Machine

/-! ## One access, and the end of a stream -/

/-- The state behind an access of the reader; a run looks at its next step when the line arrives. -/
def State.readerStep (s : State) (c : Nat) (pipe : Pipe) (r : Running) (slope : Bool) (i : Nat) (flat : Int) : State :=
  let s1 := (s.readerAccess c pipe r slope i flat).modCore c (fun k => k.useReader s.cyc)
  if isRun r.cmd then s1.schedule (s.cyc + loadLatency flat.toNat) (.matrixRunStep c) else s1

section
variable {s : State} {c : Nat} {pipe : Pipe} {r : Running} (hnow : (s.core c).pipeNow pipe = some r)
include hnow

theorem State.readerRun_lines {is : List Nat} {i : Nat} (hnext : r.nextRead s.cyc = .lines is)
    (hfind : is.find? ((s.core c).readerFree (s.actsFor c r.cmd.ctx) r.cmd.da s.cyc) = some i) (n : Nat) :
    State.readerRun c pipe (n + 1) s =
      State.readerRun c pipe n (s.readerStep c pipe r false i (Descr.flatAt r.cmd.da i)) := by
  rw [State.readerRun]
  simp only [hnow, hnext, hfind]
  rfl
theorem State.readerRun_slope {i : Nat} (hnext : r.nextRead s.cyc = .slope i)
    (hfree : (s.core c).readerFree (s.actsFor c r.cmd.ctx) r.cmd.db s.cyc i = true) (n : Nat) :
    State.readerRun c pipe (n + 1) s =
      State.readerRun c pipe n (s.readerStep c pipe r true i (Descr.flatAt r.cmd.db i)) := by
  rw [State.readerRun]
  simp only [hnow, hnext, List.find?_cons_of_pos hfree]
  rfl
theorem State.readerRun_done (hnext : r.nextRead s.cyc = .none) (n : Nat) :
    State.readerRun c pipe (n + 1) s = s.readerDone c pipe r := by
  rw [State.readerRun]
  simp only [hnow, hnext]

end

/-- R158: what the end of a grouped nest without a token makes of its load. -/
theorem Running.ended_eq (r : Running) : r.ended = { r with stop :=
    if r.cmd.op = 0x02 ∧ r.token = none ∧ r.stop = none then some { pos := 0, status := 0x41, addr := 0 } else r.stop } := by
  rw [Running.ended]
  by_cases h : r.cmd.op = 0x02 ∧ r.token = none ∧ r.stop = none
  · simp only [if_pos h]
    rfl
  · simp only [if_neg h]

/-- A load or a bias that has read its last line completes 2 cycles after the last arrival. -/
theorem State.readerDone_ends {s : State} {c : Nat} {pipe : Pipe} {r : Running} (hrun : isRun r.cmd = false)
    (hending : r.ending = false) : s.readerDone c pipe r = (s.putRunning c pipe { r.ended with ending := true }).schedule
      (Nat.max s.cyc (Nat.max (lastDue r.linesA) (lastArrival r.linesB)) + 2) (.matrixCommandComplete c pipe) := by
  rw [State.readerDone, Running.ended_eq]
  simp only [hrun, hending, Bool.false_eq_true, if_false]
  rfl

end Sys2Proof.Machine

namespace Sys2Proof

open Sys2Proof.Machine

section
variable {s : State} {c : Nat} {pipe : Pipe} {r : Running}

/-- An access that has put a command in its pipe is one access of the reader's cycle. -/
theorem read_readerStep {u : State} {r' : Running} {slope : Bool} {i : Nat} {flat : Int}
    (hrun : ∀ n, State.readerRun c pipe (n + 1) s = State.readerRun c pipe n (s.readerStep c pipe r slope i flat))
    (haccess : s.readerAccess c pipe r slope i flat = u.putRunning c pipe r') (hu : State.Undisturbed c s u) :
    Read s (s.readerStep c pipe r slope i flat) c pipe r' := by
  have hlater : ((u.putRunning c pipe r').modCore c (fun k => k.useReader s.cyc)).Later (s.readerStep c pipe r slope i flat) := by
    rw [State.readerStep, haccess]
    exact .ite (.schedule ..) (.refl _)
  have hcore : (s.readerStep c pipe r slope i flat).core c = ((u.core c).setPipeNow pipe (some r')).useReader s.cyc := by
    rw [hlater.core, State.core_modCore, State.putRunning, State.core_modCore]
  refine ⟨hrun, hlater.mem.trans hu.mem, ?_, ?_⟩
  · rw [hcore, Core.useReader, Core.setPipeNow_readerUse, hu.core.readerUse]
  · rw [hcore]
    exact Core.pipeNow_setPipeNow ..

variable (hnow : (s.core c).pipeNow pipe = some r)
include hnow

/-- The next line of a nest is the one that the reader accesses. -/
theorem readerRun_nextLine {i : Nat} (hreads : Reads s r) (hnext : NextLine s c r i) (n : Nat) :
    State.readerRun c pipe (n + 1) s =
      State.readerRun c pipe n (s.readerStep c pipe r false i (Descr.flatAt r.cmd.da i)) := by
  obtain ⟨hlow, hhigh, hlimit, hunread, hfree, hmin⟩ := hnext
  have hopen : i ∈ r.open := (r.mem_open i).mpr ⟨hlow, hhigh, hlimit, hunread⟩
  refine State.readerRun_lines hnow ((Running.nextRead_of_reads hreads).trans (if_neg (List.ne_nil_of_mem hopen))) ?_ n
  refine find?_eq_some_of_pairwise r.open_pairwise hopen hfree fun j hj hji => ?_
  obtain ⟨hjlow, -, -, hjunread⟩ := (r.mem_open j).mp hj
  rcases hmin j hjlow hji with hbusy | ⟨e, he, hej⟩
  · exact hbusy
  · exact absurd hej (hjunread e he)

theorem reader_reads_line {i : Nat} (hreads : Reads s r) (hnext : NextLine s c r i) {flat : Int}
    (hflat : Descr.flatAt r.cmd.da i = flat) :
    let st := (s.core c).accessStatus 4 (s.actsFor c r.cmd.ctx) flat
    (st ≠ 0 → ∃ t, Read s t c pipe { r with stop := some { pos := i, status := st, addr := wrapOf 64 flat } }) ∧
    (st = 0 → ∃ t, Read s t c pipe (r.judged i (s.cyc + loadLatency flat.toNat) (s.readFlat c flat.toNat)
      (s.readMark c flat.toNat) (wrapOf 64 flat) false)) := by
  have hrun := readerRun_nextLine hnow hreads hnext
  rw [hflat] at hrun
  exact ⟨fun h => ⟨_, read_readerStep hrun (State.readerAccess_refused h) (.refl c s)⟩,
    fun h => ⟨_, read_readerStep hrun (State.readerAccess_ready h) (s.undisturbed_engineRead ..)⟩⟩

theorem reader_reads_slope (hending : r.ending = false) (htoken : r.token = none) (hstop : r.stop = none)
    (hop : r.cmd.op = 0x03) (hmore : r.linesB.length < Descr.product r.cmd.db) {flat : Int}
    (hflat : Descr.flatAt r.cmd.db r.linesB.length = flat) :
    let st := (s.core c).accessStatus 4 (s.actsFor c r.cmd.ctx) flat
    (st ≠ 0 → ∃ t, Read s t c pipe { r with stop := some { pos := 0, status := st, addr := wrapOf 64 flat } }) ∧
    (st = 0 → LineFree s c flat.toNat → ∃ t, Read s t c pipe (r.judged 0 (s.cyc + loadLatency flat.toNat)
      (s.readFlat c flat.toNat) (s.readMark c flat.toNat) (wrapOf 64 flat) true)) := by
  have hrun : (s.core c).readerFree (s.actsFor c r.cmd.ctx) r.cmd.db s.cyc r.linesB.length = true → ∀ n,
      State.readerRun c pipe (n + 1) s = State.readerRun c pipe n (s.readerStep c pipe r true r.linesB.length flat) :=
    fun hfree n => by
      rw [State.readerRun_slope hnow (Running.nextRead_slope hending htoken hstop hop hmore s.cyc) hfree, hflat]
  refine ⟨fun h => ⟨_, read_readerStep (hrun ?_) (State.readerAccess_refused h) (.refl c s)⟩,
    fun h hfree => ⟨_, read_readerStep (hrun ?_) (State.readerAccess_ready h) (s.undisturbed_engineRead ..)⟩⟩
  · simp only [Core.readerFree, hflat, decide_eq_true h, Bool.true_or]
  · simp [Core.readerFree, hflat, show (s.core c).lineFree flat.toNat s.cyc = true from hfree]

/-- A command with no further line to read ends once its last line has arrived. -/
theorem reader_ends (hrun : isRun r.cmd = false) (hending : r.ending = false)
    (hover : r.token.isSome = true ∨ (r.cmd.op = 0x02 ∧ r.stop.isSome = true) ∨
      (r.cmd.op = 0x03 ∧ r.stop.isSome = true ∧ r.linesB.length < Descr.product r.cmd.db) ∨
      (Reads s r ∧ ∀ i, r.low ≤ i → i < readLimit r → ∃ e ∈ r.linesA, e.pos = i)) (n : Nat) :
    State.readerRun c pipe (n + 1) s = (s.putRunning c pipe { r.ended with ending := true }).schedule
      (Nat.max s.cyc (Nat.max (lastDue r.linesA) (lastArrival r.linesB)) + 2) (.matrixCommandComplete c pipe) := by
  have hnone : r.nextRead s.cyc = .none := by
    rcases hover with htoken | ⟨hop, hstop⟩ | ⟨hop, hstop, hmore⟩ | ⟨hreads, hread⟩
    · simp [Running.nextRead, htoken]
    · simp [Running.nextRead, hop, hstop]
    · simp [Running.nextRead, hop, hstop, hmore]
    · refine (Running.nextRead_of_reads hreads).trans (if_pos (List.eq_nil_iff_forall_not_mem.mpr fun i hi => ?_))
      obtain ⟨hlow, -, hlimit, hunread⟩ := (r.mem_open i).mp hi
      obtain ⟨e, he, hei⟩ := hread i hlow hlimit
      exact hunread e he hei
  rw [State.readerRun_done hnow hnone, State.readerDone_ends hrun hending]

end

theorem exec_streamReaderLine {c : Nat} (hc : c < 192) (pipe : Pipe) (s : State) : exec (.streamReaderLine c pipe) s =
    .next (State.readerRun c pipe (4 - if (s.core c).readerUse.1 = s.cyc then (s.core c).readerUse.2 else 0) s) := by
  have hroom : (s.core c).readerRoom s.cyc = 4 - if (s.core c).readerUse.1 = s.cyc then (s.core c).readerUse.2 else 0 := by
    rw [Core.readerRoom]
    split <;> rfl
  rw [← hroom]
  exact if_neg (by simp only [Config.cores]; omega)

theorem matrixReads : MatrixReads := by
  intro s c pipe hc
  refine ⟨exec_streamReaderLine hc pipe s, rfl, fun r hnow => ⟨fun i hreads hnext => ?line, fun hending htoken hstop hop hmore => ?slope,
    fun hrun hending hover n => ?ended⟩⟩
  case line =>
    have htoken : r.token = none := hreads.2.1
    have hgrouped : r.cmd.op = 0x02 → r.stop = none := hreads.2.2.2.2
    obtain ⟨hrefused, hread⟩ := reader_reads_line hnow hreads hnext rfl
    refine ⟨fun hst => ?_, fun hst hmark => ?_, fun hst hmark => ?_⟩
    · obtain ⟨t, ht⟩ := hrefused hst
      exact ⟨t, _, ht, rfl, rfl⟩
    · obtain ⟨t, ht⟩ := hread hst
      exact ⟨t, _, ht, by rw [Running.judged_marked hmark]⟩
    · obtain ⟨t, ht⟩ := hread hst
      rw [← latency_eq] at ht
      obtain ⟨hcmd, hlines⟩ := r.judged_keeps i (s.cyc + latency (Descr.flatAt r.cmd.da i).toNat)
        (s.readFlat c (Descr.flatAt r.cmd.da i).toNat) (s.readMark c (Descr.flatAt r.cmd.da i).toNat)
        (wrapOf 64 (Descr.flatAt r.cmd.da i))
      refine ⟨t, _, ht, hcmd, hlines, fun hop => ?_, fun hop => ⟨fun hm hline => ?_, fun hm hline => ?_, fun hm => ?_⟩⟩
      · rw [Running.judged_dense hmark hop]
        exact ⟨rfl, htoken⟩
      · rw [Running.judged_token hmark hop hm hline]
        exact ⟨rfl, hgrouped hop⟩
      · rw [Running.judged_badToken hmark hop hm hline]
        rfl
      · rw [Running.judged_plain hmark hop hm]
        split
        · exact ⟨htoken, rfl⟩
        · exact ⟨htoken, hgrouped hop⟩
  case slope =>
    obtain ⟨hrefused, hread⟩ := reader_reads_slope hnow hending htoken hstop hop hmore rfl
    refine ⟨fun hst => ?_, fun hst hfree => ?_⟩
    · obtain ⟨t, ht⟩ := hrefused hst
      exact ⟨t, _, ht, rfl⟩
    · obtain ⟨t, ht⟩ := hread hst hfree
      rw [← latency_eq] at ht
      by_cases hmark : markCode (s.readMark c (Descr.flatAt r.cmd.db r.linesB.length).toNat) = 0
      · rw [Running.judged_dense hmark (by rw [hop]; decide)] at ht
        exact ⟨t, _, ht, rfl, rfl, by rw [if_pos hmark]; exact hstop⟩
      · rw [Running.judged_marked hmark] at ht
        exact ⟨t, _, ht, rfl, rfl, by rw [if_neg hmark]⟩
  case ended =>
    rw [reader_ends hnow hrun hending hover n]
    have hended := r.ended_eq
    have hlater := State.Later.schedule (s.putRunning c pipe { r.ended with ending := true })
      (Nat.max s.cyc (Nat.max (lastDue r.linesA) (lastArrival r.linesB)) + 2) (.matrixCommandComplete c pipe)
    have hA := (lastDue_le_iff r.linesA (lastDue r.linesA)).mp (Nat.le_refl _)
    have hB := (lastArrival_le_iff r.linesB (lastArrival r.linesB)).mp (Nat.le_refl _)
    refine ⟨_, hlater.mem, ?_, fun e he => ?_, fun e he => ?_, State.mem_schedule.mpr (.inl rfl),
      { r.ended with ending := true }, ?_, rfl,
      by rw [hended], by rw [hended], by rw [hended]⟩
    · exact Nat.add_le_add_right (Nat.le_max_left ..) 2
    · exact Nat.add_le_add_right ((hA e he).trans ((Nat.le_max_left ..).trans (Nat.le_max_right ..))) 2
    · exact Nat.add_le_add_right ((hB e he).trans ((Nat.le_max_right ..).trans (Nat.le_max_right ..))) 2
    · rw [hlater.core, State.putRunning, State.core_modCore, Core.pipeNow_setPipeNow]

end Sys2Proof
end

section
/-!
Rows of a command's tiles (R159, R161): what writing them makes of each row, and what it leaves.
-/
namespace Sys2Proof.Machine

/-! ## Rows written -/

/-- A core of which rows have been written: marks of unread global data may have ended with them (R140). -/
structure Core.SameButRows (k l : Core) : Prop where
  eq : l = { k with tiles := l.tiles, parity := l.parity, ctxs := l.ctxs }
  ctx : ∀ x, { l.ctx x with dirtyLines := [] } = { k.ctx x with dirtyLines := [] }

namespace Core.SameButRows
variable {k l m : Core}
theorem refl (k : Core) : k.SameButRows k := ⟨rfl, fun _ => rfl⟩
theorem trans (h : k.SameButRows l) (h' : l.SameButRows m) : k.SameButRows m :=
  ⟨h'.eq.trans (by rw [h.eq]), fun x => (h'.ctx x).trans (h.ctx x)⟩
theorem foldl {α : Type} {f : Core → α → Core} (hf : ∀ (k : Core) a, k.SameButRows (f k a)) (xs : List α) (k : Core) :
    k.SameButRows (xs.foldl f k) := by
  induction xs generalizing k with
  | nil => exact refl k
  | cons a xs ih => exact (hf k a).trans (ih _)
end Core.SameButRows

/-- One row written whole. -/
def Core.putRow (m t : Nat) (v : Line) (k : Core) : Core := ((k.setTileRow t m v).mend (upTo 32 (locLane t m 0))).cleanRow t m
theorem Core.putRows_cons (m t : Nat) (v : Line) (rows : List (Nat × Line)) (k : Core) :
    Core.putRows m ((t, v) :: rows) k = Core.putRows m rows (k.putRow m t v) := rfl

theorem Core.ctx_cleanRow (k : Core) (t m x : Nat) : (k.cleanRow t m).ctx x = { k.ctx x with
    dirtyLines := (k.ctx x).dirtyLines.filter (fun d =>
      !decide ((k.ctx x).tileBase ≤ t ∧ operandOf d.1 = .row (t - (k.ctx x).tileBase) m)) } :=
  FMap.get_map (d := Ctx.blank) (g := fun _ v => { v with dirtyLines := v.dirtyLines.filter (fun d =>
    !decide (v.tileBase ≤ t ∧ operandOf d.1 = .row (t - v.tileBase) m)) }) k.ctxs rfl

theorem Core.sameButRows_putRow (k : Core) (m t : Nat) (v : Line) : k.SameButRows (k.putRow m t v) :=
  ⟨rfl, fun x => by rw [Core.putRow, Core.ctx_cleanRow]; rfl⟩
theorem Core.sameButRows_putRows (m : Nat) (rows : List (Nat × Line)) (k : Core) : k.SameButRows (Core.putRows m rows k) := by
  induction rows generalizing k with
  | nil => exact .refl k
  | cons e rows ih =>
    rw [Core.putRows_cons]
    exact (k.sameButRows_putRow m e.1 e.2).trans (ih _)

section
variable {m : Nat} (hm : m < 32)
include hm

theorem Core.tileRow_putRow (k : Core) (t : Nat) (v : Line) {b r : Nat} (hr : r < 32) :
    (k.putRow m t v).tileRow b r = if b = t ∧ r = m then v else k.tileRow b r := k.tileRow_setTileRow v hm hr
/-- Rows of other tiles, and other rows, are as they were. -/
theorem Core.tileRow_putRows_other {b r : Nat} (hr : r < 32) {rows : List (Nat × Line)}
    (h : b ∉ rows.map (fun e => e.1) ∨ r ≠ m) (k : Core) : (Core.putRows m rows k).tileRow b r = k.tileRow b r := by
  induction rows generalizing k with
  | nil => rfl
  | cons e rows ih =>
    rw [List.map_cons, List.mem_cons, not_or] at h
    rw [Core.putRows_cons, ih (h.imp_left And.right), k.tileRow_putRow hm _ _ hr, if_neg]
    exact fun hbm => h.elim (fun h => h.1 hbm.1) (fun h => h hbm.2)
/-- Each tile of the list has its row. -/
theorem Core.tileRow_putRows {rows : List (Nat × Line)} (hnodup : (rows.map (fun e => e.1)).Nodup) {t : Nat} {v : Line}
    (h : (t, v) ∈ rows) (k : Core) : (Core.putRows m rows k).tileRow t m = v := by
  induction rows generalizing k with
  | nil => cases h
  | cons e rows ih =>
    rw [List.map_cons, List.nodup_cons] at hnodup
    obtain ⟨hnew, hnodup⟩ := hnodup
    rw [Core.putRows_cons]
    rcases List.mem_cons.mp h with rfl | h
    · rw [Core.tileRow_putRows_other hm hm (.inl hnew), k.tileRow_putRow hm _ _ hm, if_pos ⟨rfl, rfl⟩]
    · exact ih hnodup h _

end

theorem Core.rowHurt_of_parity {k l : Core} (h : ∀ p ∈ l.parity, p ∈ k.parity) {t r : Nat} (hk : k.rowHurt t r = false) :
    l.rowHurt t r = false :=
  List.any_eq_false.mpr fun p hp => List.any_eq_false.mp hk p (h p hp)

/-! ## The rows of a step (R159) -/

section
variable (b : Buffer) (xs : List Num) (k : Core) (m : Nat)

theorem stepRows_tiles (ts : List Nat) (j : Nat) :
    ((stepRows b xs k m ts j).map (fun e => e.1)).map (fun e => e.1) = ts := by
  induction ts generalizing j with
  | nil => rfl
  | cons t ts ih =>
    rw [stepRows, List.map_cons, List.map_cons, ih]
/-- The new row of a tile of the group, element by element. -/
theorem exists_stepRow (ts : List Nat) (j i : Nat) (hi : i < ts.length) :
    ∃ v, (ts.getD i 0, v) ∈ (stepRows b xs k m ts j).map (fun e => e.1) ∧ ∀ l, l < 32 →
      elemOf 32 v l = (b.step xs (32 * (j + i) + l) (elemOf 32 (k.tileRow (ts.getD i 0) m) l)).1 % 2 ^ 32 := by
  induction ts generalizing i j with
  | nil => cases hi
  | cons t ts ih =>
    cases i with
    | zero =>
      refine ⟨_, List.mem_cons_self, fun l hl => ?_⟩
      rw [elemOf_packList _ _ _ (by simp [length_upTo])]
      simp [getElem?_upTo, hl]
    | succ i =>
      obtain ⟨v, hmem, hv⟩ := ih (j + 1) i (Nat.lt_of_succ_lt_succ hi)
      refine ⟨v, List.mem_cons_of_mem _ hmem, fun l hl => ?_⟩
      rw [hv l hl, List.getD_cons_succ, Nat.add_right_comm j 1 i]
      rfl

end

/-! ## One step -/

theorem linesPerStep_eq (sh : Shape) : sh.linesPerStep = if sh = .grouped then 4 else 1 := by cases sh <;> rfl
theorem eRows_eq (f : ESlot) : eRows f = f.mode.toNat % 32 + 1 := congrArg (· + 1) (fieldOf_zero ..)
theorem eRows_le (f : ESlot) : eRows f ≤ 32 := by
  rw [eRows_eq]
  exact Nat.mod_lt _ (by decide)

/-- The row of the group's tiles that a run's next step makes. -/
def Running.row (r : Running) : Nat := r.steps % eRows r.cmd.f
theorem Running.row_lt (r : Running) : r.row < 32 :=
  Nat.lt_of_lt_of_le (Nat.mod_lt _ (by rw [eRows_eq]; exact Nat.succ_pos _)) (eRows_le _)

/-- The core behind a step: the rows of the group, and the run as it goes on. -/
def Core.stepped (k : Core) (r : Running) (x : List Line) (r' : Running) : Core :=
  (Core.putRows r.row ((stepRows (k.buffer (bufferNo r.cmd)) (activations (Descr.fmt r.cmd.da) x) k r.row r.cmd.tiles 0).map
    (fun e => e.1)) k).setPipeNow .run (some r')

/-- The end of a run replaces its command by one that ends. -/
theorem State.later_endRun (s : State) (c : Nat) (k : Core) (q : Option Running) (r : Running) :
    (s.setCore c (k.setPipeNow .run (some { r with ending := true }))).Later ((s.setCore c (k.setPipeNow .run q)).endRun c r) := by
  have hcore : (s.setCore c (k.setPipeNow .run q)).putRunning c .run { r with ending := true } =
      s.setCore c (k.setPipeNow .run (some { r with ending := true })) := by
    rw [State.putRunning, State.modCore_setCore, Core.setPipeNow_setPipeNow]
  rw [← hcore]
  exact .trans (.schedule ..) (.schedule ..)

/-- R159: a step over rows of good parity writes the group's rows; the run ends with its last step. -/
theorem State.takeStep_good {s : State} {c : Nat} {r : Running} (x : List Line)
    (hgood : (s.core c).rowBad r.cmd.tiles r.row = false) (hending : r.ending = false) : ∃ r',
      (s.setCore c ((s.core c).stepped r x r')).Later (s.takeStep c r x) ∧ r'.cmd = r.cmd ∧ r'.steps = r.steps + 1 ∧
      r'.stop = r.stop ∧ (r'.ending = true ↔
        r.steps + 1 = r.stepLimit ((s.core c).buffer (bufferNo r.cmd)).goodShape.linesPerStep) := by
  unfold State.takeStep
  rw [Running.row] at hgood
  simp only [hgood, Bool.false_eq_true, if_false]
  generalize (if eSrc r.cmd.f = 0 then _ else _ : List ReadLine) = lines
  split
  next hlast => exact ⟨_, State.later_endRun .., rfl, rfl, rfl, iff_of_true rfl hlast⟩
  next hmore => exact ⟨_, .schedule .., rfl, rfl, rfl, iff_of_false (by rw [hending]; decide) hmore⟩

end Sys2Proof.Machine
end

section
/-!
The lines of a run (R159, R160, R163, R166): those of its nest, and those that its port or FIFO holds.
-/
namespace Sys2Proof.Machine

/-! ## What completions and pops leave -/

namespace Core.Undisturbed
theorem setPort (k : Core) (n : Nat) (p : Port) : k.Undisturbed (k.setPort n p) := ⟨rfl, rfl, rfl, fun _ h => h⟩
theorem setCtx (k : Core) (x : Nat) (v : Ctx) : k.Undisturbed (k.setCtx x v) := ⟨rfl, rfl, rfl, fun _ h => h⟩
theorem setPipeNow (k : Core) (pipe : Pipe) (r : Option Running) : k.Undisturbed (k.setPipeNow pipe r) :=
  ⟨by simp, by simp, by simp, fun _ h => by rwa [Core.setPipeNow_parity] at h⟩
theorem mend (k : Core) (ls : List Nat) : k.Undisturbed (k.mend ls) := ⟨rfl, rfl, rfl, fun _ h => (List.mem_filter.mp h).1⟩
theorem settle (k : Core) (cmd : Nat) (st : BitVec 8) (addr cyc : Nat) : k.Undisturbed (Core.settle cmd st addr cyc k) :=
  ⟨rfl, rfl, rfl, fun _ h => h⟩
theorem finishJoins (cyc n : Nat) (k : Core) : k.Undisturbed (Core.finishJoins cyc n k) := by
  induction n generalizing k with
  | zero => exact refl k
  | succ n ih =>
    rw [Core.finishJoins]
    split
    · exact refl k
    next j _ =>
      refine .trans (.trans ?_ (.settle _ j.id _ _ cyc)) (ih _)
      exact ⟨rfl, rfl, rfl, fun _ h => h⟩
end Core.Undisturbed

section
variable (s : State) (c : Nat)

theorem State.undisturbed_modCtx (x : Nat) (f : Ctx → Ctx) : State.Undisturbed c s (s.modCtx c x f) :=
  .modCore (f := fun k => k.setCtx x (f (k.ctx x))) (.setCtx ..)
theorem State.undisturbed_settleRewind (x : Nat) : State.Undisturbed c s (s.settleRewind c x) := by
  unfold State.settleRewind
  dsimp only
  split
  · exact .refl c s
  · split
    · exact .refl c s
    · exact .trans (s.undisturbed_modCtx ..) (.of_later (.schedule ..))
theorem State.undisturbed_completeId (x id : Nat) (st : BitVec 8) (addr : Nat) :
    State.Undisturbed c s (s.completeId c x id st addr) := by
  unfold State.completeId
  refine .trans (.trans ?_ (.of_later (State.later_wake ..))) (State.undisturbed_settleRewind ..)
  exact .modCore (f := fun k => Core.finishJoins s.cyc (Core.settle id st addr s.cyc k).joins.length (Core.settle id st addr s.cyc k))
    (.trans (.settle ..) (.finishJoins ..))
theorem State.undisturbed_setPort (n : Nat) (p : Port) : State.Undisturbed c s (s.setPort c n p) := .modCore (.setPort ..)
theorem State.undisturbed_endStream (kend : Option (Nat × Nat)) : State.Undisturbed c s (s.endStream c kend) := by
  match kend with
  | none => exact .refl c s
  | some (id, x) => exact s.undisturbed_completeId ..
theorem State.undisturbed_portDone (n : Nat) : State.Undisturbed c s (s.portDone c n) := by
  rw [State.portDone_eq]
  exact .trans (s.undisturbed_setPort ..) (State.undisturbed_endStream ..)
theorem State.undisturbed_popPort (n : Nat) : State.Undisturbed c s (s.popPort c n) := by
  rw [State.popPort_eq]
  generalize ({ s.port c n with fifo := _, pos := _, moved := _ } : Port) = p
  have hpopped : State.Undisturbed c s ((s.setPort c n p).schedule s.cyc (.readPortFetch c n)) :=
    (s.undisturbed_setPort c n p).trans (.of_later (.schedule ..))
  refine hpopped.trans ?_
  split
  · exact State.undisturbed_portDone ..
  · exact .refl ..
theorem State.undisturbed_consumeLine (j : Cmd) (loc : Nat) : State.Undisturbed c s (s.consumeLine c j loc) := by
  rw [State.consumeLine]
  split
  · exact .trans (.modCore (.mend ..)) (State.undisturbed_modCtx ..)
  · exact .refl c s
theorem State.port_consumeLine (j : Cmd) (loc n : Nat) : (s.consumeLine c j loc).port c n = s.port c n := by
  rw [State.consumeLine]
  split
  · rw [State.port, State.core_modCtx, State.core_modCore]
    rfl
  · rfl
theorem State.fifo_consumeLine (j : Cmd) (loc cl n : Nat) : (s.consumeLine c j loc).fifo cl n = s.fifo cl n := by
  rw [State.consumeLine]
  split <;> rfl

theorem State.later_popFifo (cl n : Nat) (rest : List Line) :
    (s.modFifo cl n (fun q => { q with lines := rest, pushers := q.pushers.drop (q.lines.length - rest.length) })).Later
      (s.popFifo cl n rest) :=
  .foldl (fun t c => .ite (.schedule t t.cyc (.ppeLineWrite c)) (.refl t)) _ _
theorem State.fifo_popFifo (cl n : Nat) (rest : List Line) : ((s.popFifo cl n rest).fifo cl n).lines = rest := by
  rw [State.fifo, (s.later_popFifo cl n rest).cluster, State.modFifo, State.cluster_modCluster, if_pos rfl]
  exact congrArg Fifo.lines (FMap.get_set_self ..)
theorem State.undisturbed_popFifo (cl n : Nat) (rest : List Line) : State.Undisturbed c s (s.popFifo cl n rest) :=
  .trans (t := s.modFifo cl n _) ⟨rfl, rfl, .refl _⟩ (.of_later (s.later_popFifo cl n rest))

end

/-! ## The source of a run (R160) -/

/-- The lines that a run's port or FIFO holds. -/
def State.source (s : State) (c : Nat) (cmd : Cmd) : List PortLine :=
  if eSrc cmd.f = 1 then (s.port c (fieldOf cmd.f.f 1 3)).fifo
  else (s.fifo (clusterOf c) (fieldOf cmd.f.f 1 3)).lines.map (fun v => { val := v, flg := 0 })

/-- The first line of the source leaves it. -/
theorem State.popSource_of_cons {s : State} {c : Nat} {cmd : Cmd} {l : PortLine} {ls : List PortLine}
    (h : s.source c cmd = l :: ls) : ∃ s1, s.popSource c cmd = .line l.val s1 ∧ State.Undisturbed c s s1 ∧ s1.source c cmd = ls := by
  by_cases hsrc : eSrc cmd.f = 1
  · rw [State.source, if_pos hsrc] at h
    refine ⟨(s.popPort c (fieldOf cmd.f.f 1 3)).consumeLine c cmd (locPort (fieldOf cmd.f.f 1 3)), ?_,
      .trans (s.undisturbed_popPort ..) (State.undisturbed_consumeLine ..), ?_⟩
    · rw [State.popSource]
      simp only [hsrc, if_true, show ((s.core c).port (fieldOf cmd.f.f 1 3)).fifo = l :: ls from h]
    · rw [State.source, if_pos hsrc, State.port_consumeLine]
      exact (State.apply_pop h 0).1
  · rw [State.source, if_neg hsrc] at h
    obtain ⟨v, vs, hlines, rfl, rfl⟩ := List.map_eq_cons_iff.mp h
    refine ⟨(s.popFifo (clusterOf c) (fieldOf cmd.f.f 1 3) vs).consumeLine c cmd (locFifo (fieldOf cmd.f.f 1 3)), ?_,
      .trans (s.undisturbed_popFifo ..) (State.undisturbed_consumeLine ..), ?_⟩
    · rw [State.popSource]
      simp only [hsrc, if_false, hlines]
    · rw [State.source, if_neg hsrc, State.fifo_consumeLine, State.fifo_popFifo]

theorem State.source_putRunning (s : State) (c : Nat) (cmd : Cmd) (pipe : Pipe) (r : Running) :
    (s.putRunning c pipe r).source c cmd = s.source c cmd := by
  rw [State.source, State.source, State.putRunning, State.port, State.core_modCore, Core.port, Core.setPipeNow_ports]
  rfl
theorem State.undisturbed_putRunning (s : State) (c : Nat) (pipe : Pipe) (r : Running) :
    State.Undisturbed c s (s.putRunning c pipe r) := .modCore (.setPipeNow ..)

/-- A run with a line more of its source; its watchdog begins anew. -/
def Running.fed (r : Running) (cyc since : Nat) (v : Line) : Running :=
  { r with linesA := r.linesA ++ [{ pos := 0, due := cyc, val := v }], waitSince := since }
theorem State.supply_pops {c p : Nat} {s s1 : State} {r : Running} {v : Line} (hmore : r.linesA.length ≠ p)
    (hpop : s.popSource c r.cmd = .line v s1) (n : Nat) : State.supply c p (n + 1) s r =
      State.supply c p n (s1.putRunning c .run (r.fed s.cyc (s.watchAt c s.cyc) v)) (r.fed s.cyc (s.watchAt c s.cyc) v) := by
  rw [State.supply, if_neg hmore]
  simp only [hpop]
  rfl

/-- A run that takes its lines from a source takes its step with them, once it has them all. -/
theorem State.supply_takes {c p n k : Nat} {s : State} {r : Running} (hk : r.linesA.length + k = p) (hn : k < n)
    (hsome : k ≤ (s.source c r.cmd).length) : ∃ u r',
      State.supply c p n s r = u.takeStep c r' (r.linesA.map (fun e => e.val) ++ ((s.source c r.cmd).take k).map (fun l => l.val)) ∧
      State.Undisturbed c s u ∧ u.source c r.cmd = (s.source c r.cmd).drop k ∧
      r' = { r with linesA := r'.linesA, waitSince := r'.waitSince } := by
  induction n generalizing k s r with
  | zero => exact absurd hn (Nat.not_lt_zero k)
  | succ n ih =>
    cases k with
    | zero =>
      refine ⟨s, r, ?_, .refl c s, rfl, rfl⟩
      rw [State.supply, if_pos (by omega), List.take_zero, List.map_nil, List.append_nil]
    | succ k =>
      cases hlines : s.source c r.cmd with
      | nil => rw [hlines] at hsome; exact absurd hsome (Nat.not_succ_le_zero k)
      | cons l ls =>
        obtain ⟨s1, hpop, hleaves, hrest⟩ := State.popSource_of_cons hlines
        generalize hr1 : r.fed s.cyc (s.watchAt c s.cyc) l.val = r1
        have hcmd : r1.cmd = r.cmd := by rw [← hr1]; rfl
        have hlinesA : r1.linesA = r.linesA ++ [{ pos := 0, due := s.cyc, val := l.val }] := by rw [← hr1]; rfl
        have hsource : (s1.putRunning c .run r1).source c r1.cmd = ls := by rw [hcmd, State.source_putRunning, hrest]
        have hlength : r1.linesA.length = r.linesA.length + 1 := by rw [hlinesA, List.length_append]; rfl
        have hlen : k ≤ ls.length := Nat.le_of_succ_le_succ (by rwa [hlines] at hsome)
        obtain ⟨u, r', htake, hu, hdrop, hr'⟩ := ih (s := s1.putRunning c .run r1) (by omega : r1.linesA.length + k = p)
          (Nat.lt_of_succ_lt_succ hn) (by rwa [hsource])
        rw [hsource, hlinesA, List.map_append, List.append_assoc] at htake
        rw [hsource, hcmd] at hdrop
        refine ⟨u, r', ?_, (hleaves.trans (s1.undisturbed_putRunning ..)).trans hu, hdrop, by rw [hr', ← hr1]; rfl⟩
        rw [State.supply_pops (by omega) hpop, hr1, htake]
        rfl

/-! ## What a step leaves besides -/

theorem State.takeStep_frame {s t : State} {c : Nat} {r r' : Running} {x : List Line}
    (h : (s.setCore c ((s.core c).stepped r x r')).Later t) : (∀ n, t.port c n = s.port c n) ∧ t.clusters = s.clusters ∧
      ∀ y, { t.ctx c y with dirtyLines := [] } = { s.ctx c y with dirtyLines := [] } := by
  have hcore := (h.core c).trans (State.core_setCore ..)
  have hrows := (s.core c).sameButRows_putRows r.row ((stepRows ((s.core c).buffer (bufferNo r.cmd))
    (activations (Descr.fmt r.cmd.da) x) (s.core c) r.row r.cmd.tiles 0).map (fun e => e.1))
  refine ⟨fun n => ?_, h.clusters, fun y => ?_⟩
  · rw [State.port, hcore, Core.stepped, Core.port, Core.setPipeNow_ports, hrows.eq]
    rfl
  · rw [State.ctx, hcore, Core.stepped, Core.ctx, Core.setPipeNow_ctxs]
    exact hrows.ctx y

end Sys2Proof.Machine
end

section
/-!
The steps of a run (R159, R160, R163, R166).
-/
namespace Sys2Proof

open Sys2Proof.Machine

/-- A run has a step of `p` lines to take, and its time has come. -/
structure StepDue (s : State) (c : Nat) (r : Running) (p : Nat) : Prop where
  core : c < 192
  now : (s.core c).runNow = some r
  run : isRun r.cmd = true
  going : r.ending = false
  unstopped : r.stop = none
  next : r.nextStep ≤ s.cyc
  lines : ((s.core c).buffer (r.cmd.f.f.toNat % 2)).goodShape.linesPerStep = p
  more : r.steps < Descr.product r.cmd.da / p

theorem tileRow_of_tiles {k l : Core} (h : l.tiles = k.tiles) (t r : Nat) : l.tileRow t r = k.tileRow t r := by
  rw [Core.tileRow, Core.tileRow, h]
theorem buffer_of_buffers {k l : Core} (h : l.buffers = k.buffers) (n : Nat) : l.buffer n = k.buffer n := by
  rw [Core.buffer, Core.buffer, h]

section
variable {s : State} {c : Nat} {r : Running}

section
variable (hending : r.ending = false) (hstop : r.stop = none) (hnodup : r.cmd.tiles.Nodup)
  (hgood : ∀ tile ∈ r.cmd.tiles, (s.core c).rowHurt tile (r.steps % (r.cmd.f.mode.toNat % 32 + 1)) = false)
include hending hstop hnodup hgood

/-- R159: the step of a run in a state that differs from `s` in what pops leave. -/
theorem takeStep_taken {u : State} {r' : Running} (hu : State.Undisturbed c s u)
    (hr : r' = { r with linesA := r'.linesA, waitSince := r'.waitSince }) (xs : List Line) :
    StepTaken s (u.takeStep c r' xs) c r xs ∧ (∀ n, (u.takeStep c r' xs).port c n = u.port c n) ∧
      (u.takeStep c r' xs).clusters = u.clusters ∧
      ∀ y, { (u.takeStep c r' xs).ctx c y with dirtyLines := [] } = { u.ctx c y with dirtyLines := [] } := by
  have hcmd : r'.cmd = r.cmd := by rw [hr]
  have hsteps : r'.steps = r.steps := by rw [hr]
  have hrow : r'.row = r.steps % (r.cmd.f.mode.toNat % 32 + 1) := by rw [Running.row, hcmd, hsteps, eRows_eq]
  have hsound : (u.core c).rowBad r'.cmd.tiles r'.row = false := by
    rw [hcmd, hrow]
    exact List.any_eq_false.mpr fun t ht => Bool.eq_false_iff.mp (Core.rowHurt_of_parity hu.core.parity (hgood t ht))
  obtain ⟨r2, hlater, hcmd2, hsteps2, hstop2, hending2⟩ := State.takeStep_good xs hsound (by rw [hr]; exact hending)
  have hcore := (hlater.core c).trans (State.core_setCore ..)
  generalize u.takeStep c r' xs = t at *
  have hbuffer : (u.core c).buffer (bufferNo r'.cmd) = (s.core c).buffer (r.cmd.f.f.toNat % 2) := by
    rw [hcmd, bufferNo_eq, buffer_of_buffers hu.core.buffers]
  have htile : ∀ b m, (t.core c).tileRow b m = (Core.putRows r'.row ((stepRows ((s.core c).buffer (r.cmd.f.f.toNat % 2))
      (activations (Descr.fmt r.cmd.da) xs) (u.core c) r'.row r.cmd.tiles 0).map (fun e => e.1)) (u.core c)).tileRow b m :=
    fun b m => by rw [hcore, Core.stepped, hbuffer, hcmd, tileRow_of_tiles (Core.setPipeNow_tiles ..)]
  have htiles := stepRows_tiles ((s.core c).buffer (r.cmd.f.f.toNat % 2)) (activations (Descr.fmt r.cmd.da) xs) (u.core c) r'.row
    r.cmd.tiles 0
  refine ⟨⟨hlater.mem.trans hu.mem, ⟨r2, ?now, hcmd2.trans hcmd, by rw [hsteps2, hsteps], by rw [hstop2, hr]; exact hstop, ?last⟩,
    fun j hj i hi => ?row, fun tile row hother hrow32 => ?other⟩, State.takeStep_frame hlater⟩
  case now =>
    rw [hcore]
    rfl
  case last =>
    rw [hending2, hbuffer, hsteps, Running.stepLimit, linesPerStep_eq]
    rw [show r'.stop = none by rw [hr]; exact hstop, hcmd]
  case row =>
    obtain ⟨v, hmem, hv⟩ := exists_stepRow ((s.core c).buffer (r.cmd.f.f.toNat % 2)) (activations (Descr.fmt r.cmd.da) xs)
      (u.core c) r'.row r.cmd.tiles 0 j hj
    rw [← hrow, htile, Core.tileRow_putRows r'.row_lt (by rw [htiles]; exact hnodup) hmem, hv i hi, Nat.zero_add,
      tileRow_of_tiles hu.core.tiles]
  case other =>
    rw [htile, Core.tileRow_putRows_other r'.row_lt hrow32 (by rw [htiles, hrow]; exact hother), tileRow_of_tiles hu.core.tiles]

end

/-! ## The lines of a step -/

/-- A list read off place by place. -/
theorem filterMap_upTo {α : Type} {f : Nat → Option α} {n lo : Nat} {xs : List α} (hlen : xs.length = n)
    (h : ∀ i, i < n → f (lo + i) = xs[i]?) : (upTo n lo).filterMap f = xs := by
  induction n generalizing lo xs with
  | zero => rw [List.length_eq_zero_iff.mp hlen]; rfl
  | succ n ih =>
    obtain ⟨x, xs, rfl⟩ := List.exists_cons_of_length_eq_add_one hlen
    have hhead : f lo = some x := h 0 (Nat.succ_pos n)
    have htail := ih (lo := lo + 1) (xs := xs) (Nat.succ.inj hlen) fun i hi => by
      rw [Nat.add_right_comm, Nat.add_assoc]
      exact h (i + 1) (Nat.succ_lt_succ hi)
    rw [upTo, List.filterMap_cons_some hhead, htail]

section
variable {p : Nat} (hturn : StepDue s c r p)
include hturn

theorem exec_matrixRunStep : exec (.matrixRunStep c) s = if eSrc r.cmd.f ≠ 0 then .next (State.supply c p 5 s r)
    else
      let x := (upTo p (p * r.steps)).filterMap (fun i => r.linesA.find? (fun e => decide (e.pos = i)))
      if x.length = p ∧ lastDue x ≤ s.cyc then .next (s.takeStep c r (x.map (fun e => e.val))) else .next s := by
  have hlimit : r.steps ≠ r.stepLimit p := by
    rw [Running.stepLimit, hturn.unstopped]
    exact Nat.ne_of_lt hturn.more
  show execMatrixRunStep c s = _
  unfold execMatrixRunStep
  rw [if_neg (by simpa [Config.cores] using hturn.core)]
  simp only [hturn.now, bufferNo_eq, hturn.lines, hturn.run, hturn.going, decide_eq_false (Nat.not_lt.mpr hturn.next), Bool.not_true, Bool.or_self,
    Bool.false_eq_true, if_false, hlimit]

theorem runStep_nest (hsrc : eSrc r.cmd.f = 0) {xs : List ReadLine} (hlen : xs.length = p)
    (hxs : ∀ i, i < p → r.linesA.find? (fun e => decide (e.pos = p * r.steps + i)) = xs[i]?) (hdue : ∀ l ∈ xs, l.due ≤ s.cyc) :
    exec (.matrixRunStep c) s = .next (s.takeStep c r (xs.map (fun l => l.val))) := by
  rw [exec_matrixRunStep hturn, if_neg (not_not.mpr hsrc)]
  have hlines : (upTo p (p * r.steps)).filterMap (fun i => r.linesA.find? (fun e => decide (e.pos = i))) = xs :=
    filterMap_upTo hlen hxs
  simp only [hlines]
  exact if_pos ⟨hlen, (lastDue_le_iff ..).mpr hdue⟩
theorem runStep_fed (hsrc : eSrc r.cmd.f ≠ 0) : exec (.matrixRunStep c) s = .next (State.supply c p 5 s r) := by
  rw [exec_matrixRunStep hturn, if_pos hsrc]

/-- R160: a run whose source holds the lines of its step takes it. -/
theorem runStep_source (hsrc : eSrc r.cmd.f ≠ 0) (hp4 : p ≤ 4) (hnone : r.linesA = []) (hsome : p ≤ (s.source c r.cmd).length) :
    ∃ u r', exec (.matrixRunStep c) s = .next (u.takeStep c r' (((s.source c r.cmd).take p).map (fun l => l.val))) ∧
      State.Undisturbed c s u ∧ u.source c r.cmd = (s.source c r.cmd).drop p ∧
      r' = { r with linesA := r'.linesA, waitSince := r'.waitSince } := by
  obtain ⟨u, r', htake, hu, hdrop, hr'⟩ := State.supply_takes (n := 5) (by rw [hnone, List.length_nil, Nat.zero_add])
    (Nat.lt_succ_of_le hp4) hsome
  rw [hnone, List.map_nil, List.nil_append] at htake
  exact ⟨u, r', (runStep_fed hturn hsrc).trans (congrArg _ htake), hu, hdrop, hr'⟩

/-- R160: a run whose source is empty waits. -/
theorem runStep_empty (hsrc : eSrc r.cmd.f ≠ 0) (hless : r.linesA.length < p) (hempty : s.popSource c r.cmd = .empty) :
    Leads (.matrixRunStep c) s (fun t => t.mem = s.mem ∧ t.cores = s.cores) := by
  have hlater := s.later_watch c r.waitSince (.engineWatchdogExpiry c .matrixRun)
  refine ⟨_, runStep_fed hturn hsrc, ?_⟩
  rw [State.supply, if_neg (Nat.ne_of_lt hless)]
  simp only [hempty]
  exact ⟨hlater.mem, hlater.cores⟩
/-- R160: a run whose port has stopped at a fault ends with it. -/
theorem runStep_fault (hsrc : eSrc r.cmd.f ≠ 0) (hless : r.linesA.length < p) {st : BitVec 8} {a : Nat}
    (hfault : s.popSource c r.cmd = .fault st a) :
    Leads (.matrixRunStep c) s (fun t => t.mem = s.mem ∧ (t.core c).tiles = (s.core c).tiles ∧ ∃ r',
      (t.core c).runNow = some r' ∧ r'.ending = true ∧ r'.stop = some { pos := r.steps * p, status := st, addr := a }) := by
  refine ⟨_, runStep_fed hturn hsrc, ?_⟩
  rw [State.supply, if_neg (Nat.ne_of_lt hless)]
  simp only [hfault]
  refine ⟨rfl, ?_, _, congrArg Core.runNow (State.core_endRun ..), rfl, rfl⟩
  rw [State.core_endRun]

end

end

section
variable {s : State} {c : Nat} {cmd : Cmd} (hsrc : eSrc cmd.f = 1) (hfifo : (s.port c (fieldOf cmd.f.f 1 3)).fifo = [])
include hsrc hfifo

theorem popSource_stopped {cause : Cause} {a : Nat}
    (hstopped : (s.port c (fieldOf cmd.f.f 1 3)).stopped = some (cause, a)) : s.popSource c cmd = .fault cause.code a := by
  unfold State.popSource
  simp only [hsrc, if_true, show ((s.core c).port (fieldOf cmd.f.f 1 3)).fifo = [] from hfifo,
    show ((s.core c).port (fieldOf cmd.f.f 1 3)).stopped = some (cause, a) from hstopped]
theorem popSource_waiting (hstopped : (s.port c (fieldOf cmd.f.f 1 3)).stopped = none) : s.popSource c cmd = .empty := by
  unfold State.popSource
  simp only [hsrc, if_true, show ((s.core c).port (fieldOf cmd.f.f 1 3)).fifo = [] from hfifo,
    show ((s.core c).port (fieldOf cmd.f.f 1 3)).stopped = none from hstopped]

end

theorem popSource_fifo {s : State} {c : Nat} {cmd : Cmd} (hsrc : eSrc cmd.f = 2)
    (hlines : (s.fifo (clusterOf c) (fieldOf cmd.f.f 1 3)).lines = []) : s.popSource c cmd = .empty := by
  unfold State.popSource
  simp only [hsrc, hlines, OfNat.ofNat_ne_one, if_false]

theorem matrixRuns : MatrixRuns := by
  intro s c r hc hnow hrun hending hstop hnext hnodup b p unit src hmore
  have hp : b.goodShape.linesPerStep = p := linesPerStep_eq _
  have hturn : StepDue s c r p := ⟨hc, hnow, hrun, hending, hstop, hnext, hp, hmore⟩
  have hp4 : p ≤ 4 := by
    by_cases h : b.goodShape = .grouped
    · exact (if_pos h).le
    · exact (if_neg h).trans_le (by decide)
  have hfed : src = 1 ∨ src = 2 → eSrc r.cmd.f ≠ 0 := fun h => by rw [eSrc_eq]; omega
  refine ⟨fun hgood => ⟨fun hsrc xs hlen hxs hdue => ?nest, fun hsrc hnone hsome => ?port, fun hsrc hnone hsome => ?fifo⟩,
    fun hsrc hempty hless => ⟨fun cause a hcoming hfault => ?fault, fun hwait => ?wait⟩, fun hsrc hempty hless => ?dry⟩
  case nest =>
    obtain ⟨htaken, -, -, hctx⟩ := takeStep_taken hending hstop hnodup hgood (.refl c s) (r' := r) rfl (xs.map (fun l => l.val))
    exact ⟨_, runStep_nest hturn hsrc hlen hxs hdue, htaken, hctx⟩
  case port =>
    have hsource : ∀ t : State, t.source c r.cmd = (t.port c unit).fifo := fun t => if_pos hsrc
    rw [← hsource] at hsome ⊢
    obtain ⟨u, r', hexec, hu, hdrop, hr'⟩ := runStep_source hturn (hfed (.inl hsrc)) hp4 hnone hsome
    obtain ⟨htaken, hports, -, -⟩ := takeStep_taken hending hstop hnodup hgood hu hr'
      (((s.source c r.cmd).take p).map (fun l => l.val))
    exact ⟨_, hexec, htaken, by rw [hports, ← hsource, hdrop]⟩
  case fifo =>
    have hport : ¬ eSrc r.cmd.f = 1 := by rw [eSrc_eq]; omega
    have hsource : ∀ t : State, t.source c r.cmd = (t.fifo (c / 4) unit).lines.map (fun v => { val := v, flg := 0 }) :=
      fun t => if_neg hport
    have hlines : ∀ t : State, (t.source c r.cmd).map (fun l => l.val) = (t.fifo (c / 4) unit).lines := fun t => by
      rw [hsource, List.map_map]
      exact List.map_id _
    obtain ⟨u, r', hexec, hu, hdrop, hr'⟩ := runStep_source hturn (hfed (.inr hsrc)) hp4 hnone
      (by rwa [hsource, List.length_map])
    obtain ⟨htaken, -, hclusters, -⟩ := takeStep_taken hending hstop hnodup hgood hu hr'
      (((s.source c r.cmd).take p).map (fun l => l.val))
    rw [List.map_take, hlines] at hexec htaken hclusters
    refine ⟨_, hexec, htaken, ?_⟩
    rw [State.fifo, State.cluster, hclusters]
    exact (hlines u).symm.trans (by rw [hdrop, List.map_drop, hlines])
  case fault =>
    exact runStep_fault hturn (hfed (.inl hsrc)) hless
      (popSource_stopped hsrc hempty ((stopped_eq_fault hcoming).trans hfault))
  case wait =>
    exact runStep_empty hturn (hfed (.inl hsrc)) hless
      (popSource_waiting hsrc hempty (stopped_eq_none hwait.symm))
  case dry =>
    exact runStep_empty hturn (hfed (.inr hsrc)) hless (popSource_fifo hsrc hempty)

end Sys2Proof
end

section
/-!
The end of a matrix command (R155 to R158, R161, R166, R167, R197): its buffer, its rows, and its token.
-/
namespace Sys2Proof.Machine

/-! ## The end of a command as its core sees it -/

/-- A core of which commands have completed: its pipes run what they ran, and no event has been found. -/
structure Core.Settled (k l : Core) : Prop where
  now : ∀ pipe, l.pipeNow pipe = k.pipeNow pipe
  events : ∀ y, (l.ctx y).events = (k.ctx y).events

namespace Core.Settled
variable {k l m : Core}
theorem refl (k : Core) : k.Settled k := ⟨fun _ => rfl, fun _ => rfl⟩
theorem trans (h : k.Settled l) (h' : l.Settled m) : k.Settled m :=
  ⟨fun pipe => (h'.now pipe).trans (h.now pipe), fun y => (h'.events y).trans (h.events y)⟩
theorem settle (k : Core) (cmd : Nat) (st : BitVec 8) (addr cyc : Nat) : k.Settled (Core.settle cmd st addr cyc k) :=
  ⟨fun pipe => by cases pipe <;> rfl, fun y => by rw [Core.ctx_settle]; rfl⟩
theorem finishJoins (cyc n : Nat) (k : Core) : k.Settled (Core.finishJoins cyc n k) := by
  induction n generalizing k with
  | zero => exact refl k
  | succ n ih =>
    rw [Core.finishJoins]
    split
    · exact refl k
    next j _ =>
      refine .trans (.trans ?_ (.settle _ j.id _ _ cyc)) (ih _)
      exact ⟨fun pipe => by cases pipe <;> rfl, fun _ => rfl⟩
theorem setCtx (k : Core) {x : Nat} {v : Ctx} (h : v.events = (k.ctx x).events) : k.Settled (k.setCtx x v) := by
  refine ⟨fun pipe => by cases pipe <;> rfl, fun y => ?_⟩
  by_cases hy : y = x
  · rw [hy, Core.ctx_setCtx, h]
  · rw [Core.ctx_setCtx_ne _ _ _ _ hy]
end Core.Settled

theorem State.settled_settleRewind (s : State) (c x : Nat) : (s.core c).Settled ((s.settleRewind c x).core c) := by
  unfold State.settleRewind
  dsimp only
  split
  · exact .refl _
  · split
    · exact .refl _
    · rw [(State.Later.schedule ..).core, State.core_modCtx]
      exact .setCtx _ rfl
theorem State.settled_completeId (s : State) (c x id : Nat) (st : BitVec 8) (addr : Nat) :
    (s.core c).Settled ((s.completeId c x id st addr).core c) := by
  unfold State.completeId
  refine .trans ?_ (State.settled_settleRewind ..)
  rw [(State.later_wake ..).core, State.core_setCore]
  exact .trans (.settle ..) (.finishJoins ..)

/-- What the completion of a command leaves of its core, and its token. -/
theorem State.complete_frame (s : State) (c : Nat) (cmd : Cmd) (st : BitVec 8) (addr : Nat) :
    State.Undisturbed c s (s.complete c cmd st addr) ∧ (s.core c).Settled ((s.complete c cmd st addr).core c) ∧
      ∀ y, TokenDone s (s.complete c cmd st addr) c y cmd.id st addr := by
  have hnoted : State.Undisturbed c s (s.modCore c (fun k => k.noteEnded cmd s.cyc)) := .modCore ⟨rfl, rfl, rfl, fun _ h => h⟩
  have hsettled := (s.modCore c (fun k => k.noteEnded cmd s.cyc)).settled_completeId c cmd.ctx cmd.id st addr
  obtain ⟨-, -, -, htok⟩ := (s.modCore c (fun k => k.noteEnded cmd s.cyc)).completeId_frame c cmd.ctx cmd.id st addr
  rw [State.core_modCore] at hsettled
  refine ⟨hnoted.trans (State.undisturbed_completeId ..), ⟨fun pipe => (hsettled.now pipe).trans (by cases pipe <;> rfl),
    hsettled.events⟩, fun y => ?_⟩
  have hdone := htok y
  simp only [TokenDone, State.ctx_modCore] at hdone
  exact hdone

/-! ## The buffer of a load (R151, R155, R156) -/

/-- A numbered list as an array. -/
theorem FMap.get_zipIdx {α β : Type} (d : β) (g : α → β) (l : List α) (n i : Nat) :
    FMap.get d ((l.zipIdx n).map (fun e => (e.2, g e.1))) (n + i) = (l[i]?.map g).getD d := by
  induction l generalizing n i with
  | nil => rfl
  | cons a l ih =>
    rw [List.zipIdx_cons, List.map_cons, FMap.get]
    cases i with
    | zero => exact if_pos rfl
    | succ i =>
      rw [if_neg (by omega), List.getElem?_cons_succ, ← ih (n + 1) i]
      congr 1
      omega

theorem lineAt_eq (l : List ReadLine) (i : Nat) : lineAt l i = ((l.find? (fun e => decide (e.pos = i))).map (fun e => e.val)).getD 0 := by
  rw [lineAt]
  cases l.find? (fun e => decide (e.pos = i)) <;> rfl

/-- A line of a loaded buffer: as it was read, or folded with its slope. -/
theorem Running.loaded_line (r : Running) (b : Buffer) {i : Nat} (hi : i < r.linesA.length) :
    (r.loaded b).1.lines.get 0 i = if r.cmd.op = 0x03 then
      (foldLine (loadShape r.cmd) (modeField r.cmd.f 3 1 = 1) (modeField r.cmd.f 4 1 = 1) (r.linesB.map (fun e => e.2)) i
        (lineAt r.linesA i)).1
    else lineAt r.linesA i := by
  unfold Running.loaded
  dsimp only
  rw [← Nat.zero_add i, FMap.get_zipIdx 0 (fun e : Line × FlagBits => e.1), List.getElem?_map, getElem?_upTo, if_pos hi, Nat.zero_add]
  simp only [Option.map_some, Option.getD_some]
  exact apply_ite (fun e : Line × FlagBits => e.1) ..

section
variable {k : Core} {r : Running} (hq : k.loadQ = [])
include hq

theorem Core.endLoad_faulted (hstop : r.stop ≠ none) : (k.endLoad r).1.buffer (bufferNo r.cmd) =
    { k.buffer (bufferNo r.cmd) with good := false, state := .invalid } := by
  obtain ⟨st, hst⟩ := Option.ne_none_iff_exists'.mp hstop
  unfold Core.endLoad
  simp only [hst, hq, List.any_nil, Bool.false_eq_true, if_false]
  exact FMap.get_set_self ..
theorem Core.endLoad_loaded (hstop : r.stop = none) : (k.endLoad r).1.buffer (bufferNo r.cmd) =
    { (r.loaded (k.buffer (bufferNo r.cmd))).1 with state := .valid } := by
  unfold Core.endLoad
  simp only [hstop, hq, List.any_nil, Bool.false_eq_true, if_false]
  exact FMap.get_set_self ..

end

/-! ## The rows of MX.ACCZ and MX.ACCB (R161) -/

section
variable {rows : List (Nat × Line)} {ms : List Nat} (hms : ∀ m ∈ ms, m < 32)
include hms

theorem Core.tileRow_foldl_putRows_other {b r : Nat} (hr : r < 32) (h : b ∉ rows.map (fun e => e.1) ∨ r ∉ ms) (k : Core) :
    (ms.foldl (fun k m => Core.putRows m rows k) k).tileRow b r = k.tileRow b r := by
  induction ms generalizing k with
  | nil => rfl
  | cons m ms ih =>
    rw [List.mem_cons, not_or] at h
    rw [List.foldl_cons, ih (fun a ha => hms a (List.mem_cons_of_mem m ha)) (h.imp_right And.right),
      Core.tileRow_putRows_other (hms m List.mem_cons_self) hr (h.imp_right And.left)]
theorem Core.tileRow_foldl_putRows (hnodup : (rows.map (fun e => e.1)).Nodup) {t m : Nat} {v : Line} (hv : (t, v) ∈ rows)
    (hm : m ∈ ms) (k : Core) : (ms.foldl (fun k m => Core.putRows m rows k) k).tileRow t m = v := by
  induction ms generalizing k with
  | nil => cases hm
  | cons a ms ih =>
    have hlt : ∀ m ∈ ms, m < 32 := fun b hb => hms b (List.mem_cons_of_mem a hb)
    rw [List.foldl_cons]
    by_cases hmem : m ∈ ms
    · exact ih hlt hmem _
    · obtain rfl := (List.mem_cons.mp hm).resolve_right hmem
      rw [Core.tileRow_foldl_putRows_other hlt (hms m List.mem_cons_self) (.inr hmem),
        Core.tileRow_putRows (hms m List.mem_cons_self) hnodup hv]

end

/-- The row that MX.ACCZ or MX.ACCB writes to a tile of its group. -/
def Running.accRow (r : Running) (j : Nat) : Line := if r.cmd.op = 0x06 then 0 else lineAt r.linesA j
def Running.accRows (r : Running) : List (Nat × Line) := r.cmd.tiles.zipIdx.map (fun e => (e.1, r.accRow e.2))
theorem Core.endAcc_eq (k : Core) (r : Running) :
    k.endAcc r = (upTo (eRows r.cmd.f) 0).foldl (fun k m => Core.putRows m r.accRows k) k := rfl
theorem Running.accRows_tiles (r : Running) : r.accRows.map (fun e => e.1) = r.cmd.tiles := by
  rw [Running.accRows, List.map_map]
  exact List.zipIdx_map_fst ..
theorem Running.mem_accRows (r : Running) {j : Nat} (hj : j < r.cmd.tiles.length) : (r.cmd.tiles.getD j 0, r.accRow j) ∈ r.accRows := by
  refine List.mem_map.mpr ⟨(r.cmd.tiles.getD j 0, j), ?_, rfl⟩
  rw [List.mem_zipIdx_iff_getElem?, List.getD_eq_getElem?_getD, List.getElem?_eq_getElem hj]
  rfl

/-! ## The command complete -/

/-- What a matrix command leaves before its token completes. -/
def State.ranMatrix (s : State) (c : Nat) (pipe : Pipe) (r : Running) : State :=
  ((s.setCore c (((s.core c).endCommand pipe r).1.setPipeNow pipe none)).modCtx c r.cmd.ctx (residueEvent r)).engineDone c r.cmd.ctx
    ((s.core c).endCommand pipe r).2 0 r.cmd.inSeg

theorem exec_matrixCommandComplete {s : State} {c : Nat} {pipe : Pipe} {r : Running} (hc : c < 192)
    (hnow : (s.core c).pipeNow pipe = some r) (hending : r.ending = true) : exec (.matrixCommandComplete c pipe) s =
      .next ((s.ranMatrix c pipe r).complete c r.cmd (stopStatus r.stop) (stopAddr r.stop)) := by
  show execMatrixCommandComplete c pipe s = _
  unfold execMatrixCommandComplete
  rw [if_neg (by simp only [Config.cores]; omega)]
  simp only [hnow, hending, Bool.not_true, Bool.false_eq_true, if_false]
  cases r.stop <;> rfl

/-- The end of a command leaves the tokens of its contexts, and the run that one of them discards. -/
theorem Core.endCommand_ctx (k : Core) (pipe : Pipe) (r : Running) (y : Nat) :
    (∀ j, ((k.endCommand pipe r).1.ctx y).token j = (k.ctx y).token j) ∧
      ((k.endCommand pipe r).1.ctx y).rewind = (k.ctx y).rewind := by
  cases pipe with
  | load =>
    have hctxs : (k.endLoad r).1.ctxs = k.ctxs := by
      unfold Core.endLoad
      cases r.stop <;> rfl
    rw [Core.endCommand, Core.ctx, hctxs]
    exact ⟨fun _ => rfl, rfl⟩
  | run =>
    rw [Core.endCommand]
    split
    · exact ⟨fun _ => rfl, rfl⟩
    · have hrows := (Core.SameButRows.foldl (fun k m => k.sameButRows_putRows m r.accRows) (upTo (eRows r.cmd.f) 0) k).ctx y
      rw [Core.endAcc_eq]
      exact ⟨fun j => congrArg (FMap.get Token.idle · j) (congrArg Ctx.tok hrows :), (congrArg Ctx.rewind hrows :)⟩

theorem State.engineDone_frame (s : State) (c x : Nat) (flg : BitVec 5) (escapes : Nat) (inSeg : Bool) :
    (s.engineDone c x flg escapes inSeg).mem = s.mem ∧ (s.engineDone c x flg escapes inSeg).cyc = s.cyc ∧
    ((s.engineDone c x flg escapes inSeg).core c).tiles = (s.core c).tiles ∧
    ((s.engineDone c x flg escapes inSeg).core c).buffers = (s.core c).buffers ∧
    (s.core c).Settled ((s.engineDone c x flg escapes inSeg).core c) ∧
    ∀ y k, ((s.engineDone c x flg escapes inSeg).ctx c y).token k = (s.ctx c y).token k := by
  rw [State.engineDone]
  split
  · exact ⟨rfl, rfl, rfl, rfl, .refl _, fun _ _ => rfl⟩
  · refine ⟨rfl, rfl, by rw [State.core_modCtx]; rfl, by rw [State.core_modCtx]; rfl, ?_, fun y k => ?_⟩
    · rw [State.core_modCtx]
      exact .setCtx _ rfl
    · by_cases hy : y = x
      · rw [hy, State.ctx_modCtx]
        rfl
      · rw [State.ctx_modCtx_ne _ _ _ _ _ _ (.inr hy)]

theorem residueEvent_token (r : Running) (v : Ctx) (k : Nat) : (residueEvent r v).token k = v.token k := by
  rw [residueEvent]
  split <;> rfl
theorem residueEvent_found {r : Running} {v : Ctx} (hresidue : r.residue = true) (hrewind : v.rewind = none) :
    (residueEvent r v).events.residue = true := by
  rw [residueEvent, hresidue, hrewind]
  rfl

theorem State.ranMatrix_frame (s : State) (c : Nat) (pipe : Pipe) (r : Running) :
    (s.ranMatrix c pipe r).mem = s.mem ∧ (s.ranMatrix c pipe r).cyc = s.cyc ∧
    ((s.ranMatrix c pipe r).core c).tiles = ((s.core c).endCommand pipe r).1.tiles ∧
    ((s.ranMatrix c pipe r).core c).buffers = ((s.core c).endCommand pipe r).1.buffers ∧
    ((s.ranMatrix c pipe r).core c).pipeNow pipe = none ∧
    (∀ y k, ((s.ranMatrix c pipe r).ctx c y).token k = (s.ctx c y).token k) ∧
    (r.residue = true → (s.ctx c r.cmd.ctx).rewind = none → ((s.ranMatrix c pipe r).ctx c r.cmd.ctx).events.residue = true) := by
  have hctx := (s.core c).endCommand_ctx pipe r
  rw [State.ranMatrix]
  generalize (s.core c).endCommand pipe r = e at *
  obtain ⟨k, flg⟩ := e
  obtain ⟨hmem, hcyc, htiles, hbuffers, hsettled, htoken⟩ := State.engineDone_frame ((s.setCore c (k.setPipeNow pipe none)).modCtx c
    r.cmd.ctx (residueEvent r)) c r.cmd.ctx flg 0 r.cmd.inSeg
  have hold : ∀ y, (s.setCore c (k.setPipeNow pipe none)).ctx c y = k.ctx y := fun y => by
    rw [State.ctx, State.core_setCore, Core.ctx, Core.setPipeNow_ctxs]
    rfl
  rw [State.core_modCtx, State.core_setCore] at htiles hbuffers hsettled
  refine ⟨hmem, hcyc, htiles.trans (Core.setPipeNow_tiles ..), hbuffers.trans (Core.setPipeNow_buffers ..), ?_, fun y j => ?_,
    fun hresidue hrewind => ?_⟩
  · rw [hsettled.now]
    cases pipe <;> rfl
  · rw [htoken y j]
    have htok : (k.ctx y).token j = (s.ctx c y).token j := (hctx y).1 j
    by_cases hy : y = r.cmd.ctx
    · rw [hy, State.ctx_modCtx, residueEvent_token, ← hy, hold, htok]
    · rw [State.ctx_modCtx_ne _ _ _ _ _ _ (.inr hy), hold, htok]
  · have hnone : (k.ctx r.cmd.ctx).rewind = none := (hctx r.cmd.ctx).2.trans hrewind
    rw [State.ctx, hsettled.events, Core.ctx_setCtx, hold]
    exact residueEvent_found hresidue hnone

/-! ## Folded weights (R156) -/

theorem Shape.perLine_le (sh : Shape) : sh.weightWidth * sh.perLine ≤ 1024 := Nat.mul_div_le ..

/-- Each weight of a folded line is its product with the slope of its K-row, rounded once. -/
theorem elemOf_foldLine {sh : Shape} {n : Nat} (hn : n < sh.perLine) (sat rec : Bool) (slopes : List Line) (l : Nat) (v : Line) :
    elemOf sh.weightWidth (foldLine sh sat rec slopes l v).1 n =
      (sh.weightFormat.round 0 sat ((num32 (slopeAt rec slopes (l / sh.perRow))).mul
        (sh.weightFormat.decode (elemOf sh.weightWidth v n))).1).1 % 2 ^ sh.weightWidth := by
  unfold foldLine
  rw [elemOf_packList _ _ _ (by simpa [length_upTo] using sh.perLine_le)]
  simp only [List.map_map, List.getElem?_map, getElem?_upTo, if_pos hn, Nat.zero_add, Option.map_some, Option.getD_some]
  rfl
theorem slopeAt_eq (rec : Bool) (l : List Line) (k : Nat) : slopeAt rec l k =
    if rec = true then elemOf 128 (l.getD (k / 8) 0) (k % 8) % 2 ^ 32 else elemOf 32 (l.getD (k / 32) 0) (k % 32) := by
  rw [slopeAt, nthD_eq_getD, nthD_eq_getD]
theorem modeField_bit (f : ESlot) (i : Nat) : (decide (modeField f i 1 = 1)) = f.mode.getLsbD i := by
  rw [modeField, fieldOf, BitVec.getLsbD, Nat.testBit_eq_decide_div_mod_eq, pow_one]

end Sys2Proof.Machine

namespace Sys2Proof

open Sys2Proof.Machine

theorem matrixEnds : MatrixEnds := by
  intro s c pipe r hc hnow hending _ rows line
  obtain ⟨hmem, hcyc, htiles, hbuffers, hnone, htoken, hresidue⟩ := s.ranMatrix_frame c pipe r
  obtain ⟨hleaves, hsettled, hdone⟩ := (s.ranMatrix c pipe r).complete_frame c r.cmd (stopStatus r.stop) (stopAddr r.stop)
  have hline : ∀ i, lineAt r.linesA i = line i := lineAt_eq r.linesA
  refine ⟨_, exec_matrixCommandComplete hc hnow hending, ?_⟩
  generalize (s.ranMatrix c pipe r).complete c r.cmd (stopStatus r.stop) (stopAddr r.stop) = t at *
  have htiles' : (t.core c).tiles = ((s.core c).endCommand pipe r).1.tiles := hleaves.core.tiles.trans htiles
  have hbuffer : ∀ n, (t.core c).buffer n = ((s.core c).endCommand pipe r).1.buffer n :=
    buffer_of_buffers (hleaves.core.buffers.trans hbuffers)
  refine ⟨hleaves.mem.trans hmem, (hsettled.now pipe).trans hnone, ?token, fun hr hv => ?residue, fun hpipe hq => ?load,
    fun hpipe hkeep => ?kept, fun hpipe hacc hstop hnodup => ?acc⟩
  case token =>
    have h := hdone r.cmd.ctx
    simp only [TokenDone, htoken, hcyc] at h
    exact h
  case residue =>
    rw [State.ctx, hsettled.events]
    exact hresidue hr hv
  case load =>
    subst hpipe
    have hb := hbuffer (r.cmd.f.f.toNat % 2)
    rw [← bufferNo_eq] at hb ⊢
    dsimp only
    rw [hb, Core.endCommand]
    refine ⟨fun hstop => ?faulted, fun hstop => ?loaded⟩
    case faulted => rw [Core.endLoad_faulted hq hstop]; exact ⟨rfl, rfl⟩
    case loaded =>
      rw [Core.endLoad_loaded hq hstop]
      refine ⟨rfl, rfl, rfl, rfl, fun hop i hi => ?_, fun hop i n hi hn => ?_⟩
      · rw [r.loaded_line _ hi, if_neg hop, hline]
      · rw [r.loaded_line _ hi, if_pos hop, elemOf_foldLine hn, modeField_bit, modeField_bit, slopeAt_eq, hline]
  case kept =>
    subst hpipe
    rw [htiles', Core.endCommand, if_pos (by simpa [Option.isSome_iff_ne_none] using hkeep)]
  case acc =>
    subst hpipe
    have hrows : ∀ m ∈ upTo (eRows r.cmd.f) 0, m < 32 := fun m hm =>
      Nat.lt_of_lt_of_le (by simpa using (mem_upTo.mp hm).2) (eRows_le r.cmd.f)
    have hend : ((s.core c).endCommand .run r).1 = (s.core c).endAcc r := by
      rw [Core.endCommand, if_neg (by simp [hacc, hstop])]
    have hrow : ∀ tile m, (t.core c).tileRow tile m = ((s.core c).endAcc r).tileRow tile m :=
      tileRow_of_tiles (htiles'.trans (congrArg Core.tiles hend))
    simp only [hrow, Core.endAcc_eq]
    refine ⟨fun j m hj hm => ?_, fun tile m hother hm => Core.tileRow_foldl_putRows_other hrows hm ?_ _⟩
    · rw [Core.tileRow_foldl_putRows hrows (by rwa [r.accRows_tiles]) (r.mem_accRows hj) (mem_upTo.mpr ⟨m.zero_le, ?_⟩),
        Running.accRow, hline]
      rwa [Nat.zero_add, eRows_eq]
    · rw [r.accRows_tiles, mem_upTo, eRows_eq]
      exact hother.imp_right (fun hle hmem => by omega)

/-- Settles O43: starts, reads, steps and ends, each by what its step leaves. -/
theorem matrixSteps : Obligations.MatrixSteps := ⟨matrixStarts, matrixReads, matrixRuns, matrixEnds⟩

end Sys2Proof
end
